-- ==== Sys2Proof/Word.lean ====
section
/-! DEFINITION. Word.lean: the bit-vector widths the manual uses and the shape of sparse tables.
The operations over them stand in Sys2Proof/Machine/Bits.lean and Sys2Proof/Machine/Tab.lean. -/

namespace Sys2Proof

/-- One byte (00 R5). -/
abbrev Byte := BitVec 8

/-- A 32-bit register or count. -/
abbrev W32 := BitVec 32

/-- A 64-bit register, timestamp or fence value. -/
abbrev W64 := BitVec 64

/-- A sparse table: entries in strictly rising key order, an absent key standing for the
table's default entry. -/
abbrev Tab (α : Type) := List (Nat × α)

end Sys2Proof
end

