-- ==== Sys2Proof/Syntax.lean ====
section
/-! DEFINITION. Syntax.lean: the commands of the block, one constructor of `Instr` per row of
spec/opcode_table.json, and the operand types they carry. The table gives no row any field, so the
operands are those of the rule each row names: what the outside delivers with the event, or which
unit acts. -/

namespace Sys2Proof

/-! ## Operands of the host port (04) -/

/-- Link ECC outcome of a write burst (R77). -/
inductive Ecc where
  | clean | corrected | uncorrectable
  deriving DecidableEq, Repr

/-- Refresh commands, all only counted (R70). -/
inductive RefKind where
  | allBank | perBank | rfm
  deriving DecidableEq, Repr

/-- CAS forms (Table 4-3). -/
inductive CasKind where
  | wsWr | wsRd | wsFs
  deriving DecidableEq, Repr

/-- MPC operations (R76). `cbtDone` carries whether CK lies within 2 % of the configured rate (R65). -/
inductive MpcOp where
  | zqStart | zqLatch
  | cbtEnter
  | cbtDone (ckInRange : Bool)
  | wckLevelling
  | dutyStart | dutyStop
  | fifo
  | readCal
  deriving DecidableEq, Repr

/-- The meaning of a mode-register byte for the fields the device acts on (Table 4-5). The bit
encodings are JESD209-5C's and no rule of the manual, so a write carries both byte and meaning. -/
inductive MrFields where
  | latency (rl wl nwr : Nat) (ckMode : Bool)
  | mr3 (drive : Nat) (bg wdbi rdbi : Bool)
  | mr13 (dmDisable vro : Bool)
  | mr16 (fspWr fspOp cbtMode vrcg : Bool)
  | mr18 (ratio4 wckAlwaysOn levelling : Bool)
  | mr22 (wecc recc : Bool)
  | mr28 (zqMode zqStop zqReset : Bool)
  | stored
  deriving DecidableEq, Repr

/-! ## Configuration image (03 R47 to R51) -/

/-- PARTITION record body (Table 3-5). -/
structure Partition where
  idx      : Nat
  auto     : Bool
  cls      : Nat
  enc      : Bool
  fnGrant  : Bool
  coreMask : BitVec 48
  chMask   : BitVec 32
  ssBase   : Nat
  ssSize   : Nat
  pipeMask : BitVec 4
  capMask  : BitVec 4
  aud      : Bool
  cmpMask  : BitVec 2
  olShare  : BitVec 16
  deriving DecidableEq, Repr

/-- Bodies of the configuration records whose contents Table 3-4 gives without a layout. -/
inductive RecBody where
  | clock (dramRate initStep dispMhz camMhz : Nat)
  | hostPort (rate0 rate1 : Nat) (chMask : BitVec 8) (drive : Nat)
  | dram (chMask : BitVec 32) (density : List Nat) (packages : Nat)
  | pins (mg0 mg1 : Nat)
  | dispatch (central : Bool) (slots : List Nat)
  | security (debugPolicy : Nat) (needEnc : Bool) (attestPolicy : BitVec 8)
  | power (limitW throttleC currentA : Nat) (hostWrites : Bool)
  deriving DecidableEq, Repr, Inhabited

/-- The two cases of R428. -/
inductive IntReset where
  | undervoltage | refclkLoss
  deriving DecidableEq, Repr

/-! ## Operands of the cores (09, 10) -/

/-- One split: core 0-47, core partition 0-3, group place 0-15, split number 0-3 (Table 9-5). -/
structure SplitRef where
  core  : Nat
  cpart : Nat
  place : Nat
  sid   : Nat
  deriving DecidableEq, Repr

/-- The words of the instruction a split issues (R198); `w1` is read only when L is set. -/
structure IWord where
  w0 : BitVec 64
  w1 : BitVec 64
  deriving DecidableEq, Repr

/-- Which register set the destination field names; the manual leaves it to the opcode (R198, R201). -/
inductive Dst where
  | vector | scalar | predicate
  deriving DecidableEq, Repr

/-- Relations of the compare instruction. -/
inductive Rel where
  | eq | ne | lt | le | gt | ge
  deriving DecidableEq, Repr

/-- The operations of Table 10-9. The manual gives their names and no function numbers, so the
operation is an operand. Format, rounding, control and registers come from the words. -/
inductive AluOp where
  | fadd | fsub | fmul | ffma | fmin | fmax | fabs | fneg
  | iadd | isub | iand | ior | ixor | shl | shrLogical | shrArith | imin | imax
  | imul | imad | addc64
  | rcp | rsqrt | sqrt | exp2 | log2 | sin | cos
  | cmp (r : Rel) (int32 : Bool) | select | pand | por | pxor | pnot
  | shuffle | broadcast | voteAny | voteAll | ballot
  | movImm (wide : Bool)
  deriving DecidableEq, Repr

/-- Atomic operations of class 7 (Table 10-7). -/
inductive AtomOp where
  | add | min | max | and | or | xor | exchange | cas
  deriving DecidableEq, Repr

/-! ## Operands of the fixed-function units -/

/-- Snapshot pages the device publishes (R91, Table 5-3). -/
inductive SnapPage where
  | bootStatus | management
  deriving DecidableEq, Repr

/-- Stage of a raster group (R303, R310). -/
inductive RasStage where
  | vertex | fragment
  deriving DecidableEq, Repr

/-- One lane of a raster group, as the binner or the tile rasteriser sets it up (R303, R310, R314). The
rule fixes no arithmetic for interpolation, so depths and varyings arrive with the placement. -/
structure RasLane where
  lane   : Nat
  /-- Pixel of a fragment, and its sample where per_sample is set. -/
  x      : Nat
  y      : Nat
  sample : Nat
  /-- Interpolated depth of each sample, FP32. -/
  depth  : List W32
  /-- Number of the triangle in its pass, in submission order. -/
  tri    : Nat
  /-- Instance and index of a vertex. -/
  inst   : Nat
  vidx   : Nat
  /-- Perspective-correct varyings. -/
  vars   : List W32
  /-- Provoking-vertex varyings. -/
  prov   : List W32
  deriving DecidableEq, Repr

/-- What the placement of a raster group carries besides the kernel form. -/
structure RasSetup where
  stage : RasStage
  /-- Draw record of the list it belongs to. -/
  draw  : Nat
  lanes : List RasLane
  deriving DecidableEq, Repr

/-- A triangle the binner has set up: the corners, in 1/256 pixel, of what clipping leaves of it (R303). The
rule gives neither the arithmetic of clipping nor the map from a position to a pixel, so they arrive with
the batch. -/
structure Tri where
  poly : List (Int × Int)
  deriving DecidableEq, Repr

/-- What the Eddy unit reports of one lane (R323 to R329): an entry it took, where the rules leave open which,
and its counts. -/
structure RayHit where
  lane   : Nat
  hit    : Bool
  /-- The traversal stack overflowed. -/
  ovf    : Bool
  /-- Offset of the leaf entry, 16-byte units. -/
  entry  : Nat
  nodes  : Nat
  tests  : Nat
  deriving DecidableEq, Repr

/-- What a compression engine made of a node (R365 to R372), where the rules leave it the choice: the codes of
a compressed stream with the bits pending after it, and how far it has taken its input in. -/
structure CmpOutcome where
  /-- Compressing: the DEFLATE bytes between header and trailer. -/
  out     : List Byte
  used    : Nat
  bitbuf  : W32
  nbits   : Nat
  lens    : List Byte
  deriving DecidableEq, Repr

/-- A CSI-2 line packet (R356 to R358). -/
structure CsiLine where
  vc    : Nat
  dt    : Nat
  /-- The header ECC was uncorrectable: the line is lost. -/
  hdrBad : Bool
  /-- The payload CRC failed: the payload is dropped. -/
  crcBad : Bool
  /-- Received pixels, each already unpacked to a number in received order. -/
  pixels : List Nat
  deriving DecidableEq, Repr

/-- One TDM frame on the audio balls (R359). -/
structure TdmFrame where
  /-- A slave frame of the wrong length. -/
  badLen : Bool
  /-- The 32-bit slots received on AUD_DIN, slot 0 first. -/
  din    : List W32
  deriving DecidableEq, Repr

/-- Reply of a sink to a sideband request (R351). -/
structure SideReply where
  code : Nat
  data : List Byte
  deriving DecidableEq, Repr

/-- TAP instructions (R388). -/
inductive TapInstr where
  | bypass | idcode | samplePreload
  | boundaryScan (code : Nat)
  | debugPort (security : Bool)
  deriving DecidableEq, Repr

/-- A peer's answer in RING_SET's identity exchange (R394), one per link. -/
structure PeerId where
  ringId : W32
  chip   : Nat
  port   : Nat
  deriving DecidableEq, Repr

/-- Messages on a ring counter (R401). -/
inductive RingMsg where
  /-- A join from another chip reaches this chip, the root. -/
  | join (idx : Nat)
  /-- The root acknowledged this chip's join, or has not allocated the counter. -/
  | joinAck (idx : Nat) (ok : Bool)
  /-- A signal of a value reaches the root. -/
  | signal (idx : Nat) (v : W32)
  /-- An arrival reaches the root, with the mask of counters its agent would realign (R269). -/
  | arrive (idx : Nat) (mask : BitVec 16)
  /-- A wake returns from the root to this chip's watches on the counter. -/
  | wake (idx : Nat) (count : W32)
  /-- A barrier release returns from the root, with the completing agent's mask where that agent is of
  this chip (R269). -/
  | release (idx : Nat) (mask : BitVec 16)
  deriving DecidableEq, Repr

/-- The two sides of EXPORT_OBJ (R397): the command on the owner's chip, with what the target chip
answers, or its arrival on the target chip, which then holds a proxy. -/
inductive ObjExport where
  | issue (tag : BitVec 4) (pbPage : Nat) (tctxActive proxyFree : Bool)
  | arrive (chip grantId tctx : Nat) (handle : W32) (len : Nat) (r0 r1 : Bool)
  deriving DecidableEq, Repr

/-- The two sides of EXPORT_FENCE (R397). -/
inductive FenceExport where
  | issue (tag : BitVec 4) (pbPage : Nat) (tctxActive proxyFree : Bool)
  | arrive (chip grantId tctx fence : Nat) (value : W64) (err abandoned r0 r1 : Bool)
  deriving DecidableEq, Repr

/-- How a grant ends (R399): REVOKE on the owner's chip, its arrival on the target chip, or the target
chip's word that its context released the proxy or was torn down. -/
inductive Revoke where
  /-- `inFlight`: COPY nodes on the target chip have resolved the proxy and still run. -/
  | issue (tag : BitVec 4) (grantId : Nat) (inFlight : Bool)
  | proxyGone (isFence : Bool) (index : Nat)
  /-- After a revocation: the last of those COPY nodes has ended. -/
  | ended (grantId : Nat)
  deriving DecidableEq, Repr

/-- Error sources of Tables 22-1 and 22-2. -/
inductive ErrSrc where
  /-- A single-bit SECDED or link error, corrected: unit, instance, address, syndrome. -/
  | corrected (unit inst addr syndrome : Nat)
  /-- Register files, panels, state blocks, split tables of a workgroup. -/
  | groupArray (core : Nat) (wg : Nat)
  /-- A local-store word of a core. -/
  | localStore (core : Nat) (off : Nat) (wg : Nat)
  /-- A cache line of an L1: invalidated and refetched. -/
  | l1 (core : Nat) (instruction : Bool) (addr : Nat)
  /-- An L2 line or a stacked-store or DRAM word read for a context. -/
  | devMemory (addr : Nat) (ctx : Nat) (link : Bool)
  /-- The stored form of a line of an encrypted partition is replaced outside: ciphertext and MAC now in
  DRAM (R294). -/
  | macTamper (addr : Nat) (cipher : List Byte) (mac : List Byte)
  /-- A port-buffer word goes bad; found by a device-side read of `ctx` or not yet found. -/
  | portBuffer (off : Nat) (deviceRead : Bool)
  /-- A graph directory record. -/
  | graphDir (ctx gid : Nat)
  /-- A sequence table entry. -/
  | seqEntry (entry : Nat)
  /-- A context table entry. -/
  | ctxEntry (ctx : Nat)
  /-- A stage image in the protected range. -/
  | stageImage (stage : Nat)
  /-- Trade, management and security processor memories. -/
  | tradeMem | mgmtMem | secMem
  /-- The working copy of the window table, a fence table entry, or fabric routing: fatal. -/
  | windowTable (entry : Nat) | fenceEntry (fence : Nat) | fabricRoute
  /-- A parity failure on a flit carrying one context's data. -/
  | flitData (ctx : Nat) (path : Nat)
  deriving DecidableEq, Repr

/-- An HRST_N pulse: REFCLK cycles the pin is low, and whether the HOST_PORT record the flash now holds is
other than the one in force (R54). -/
structure HrstPulse where
  refclks : Nat
  portChanges : Bool
  deriving DecidableEq, Repr

/-! ## The commands -/

/-- The commands of the block: one constructor per row of spec/opcode_table.json. -/
inductive Instr where
  -- Reset and boot (03, 24)
  | porstNRelease (fuseOk : Bool)
  | porstNAssert (refclks : Nat)
  | hrstNPulse (pulse : HrstPulse)
  | internalReset (why : IntReset)
  | hprstNAssert (half : Nat)
  | configRead (a b : List Byte)
  | bootDoorbell
  | stageCopied
  | stageVerified
  | dramTrainingDone (failed : Bool)
  | dramZeroingDone
  -- Host port (04)
  | act (ch bank row : Nat)
  | rd (ch bank col : Nat) (bl32 : Bool)
  | wr (ch bank col : Nat) (bl32 : Bool) (ecc : Ecc) (data : List Byte)
  | mwr (ch bank col : Nat) (bl32 : Bool) (ecc : Ecc) (data : List Byte) (masked : List Bool)
  | pre (ch : Nat) (bank : Option Nat)
  | ref (ch : Nat) (kind : RefKind)
  | mrw (ch mr : Nat) (raw : Byte) (f : MrFields)
  | mrr (ch mr : Nat)
  | sre (ch : Nat)
  | srx (ch : Nat)
  | pde (ch : Nat)
  | pdx (ch : Nat)
  | deepSleepEntry (ch : Nat)
  | deepSleepExit (ch : Nat)
  | cas (ch : Nat) (kind : CasKind)
  | mpc (ch : Nat) (op : MpcOp)
  | wff (ch : Nat) (data : List Byte)
  | rff (ch : Nat)
  | rdc (ch : Nat)
  | nop (ch : Nat) (des : Bool)
  | rateErr (ch : Nat)
  | noClock (ch : Nat)
  -- Windows (05, 23)
  | tableWrite (off : Nat) (data : List Byte) (masked : List Bool)
  | invalidationWrite (gen : W32) (nWrites : BitVec 16)
  | wtCommitEnd
  | snapshotSwap (page : SnapPage)
  | shadowCapture (view : Option Nat) (off : Nat)
  | registerWrite (view : Option Nat) (off : Nat) (val : W64) (mask : Byte)
  | heldWriteApply (view : Option Nat) (off : Nat)
  | doorbell (page wctx queue : Nat) (data : BitVec 256) (mask : W32)
  | fenceWrite (page wctx fence : Nat) (data : BitVec 128) (mask : BitVec 16)
  -- Queues and slots (05, 07)
  | queueBind (queue : Nat)
  | slotSample (slot : Nat)
  | slotFetch (slot : Nat)
  | drainPassEnd (slot : Nat)
  | commandStart (cmd : Nat)
  | waitTimeout (cmd : Nat)
  -- Contexts (06)
  | ctxCreate (tag : BitVec 4) (ctx pbPage : Nat)
  | ctxTeardown (tag : BitVec 4) (ctx : Nat)
  | teardownStepEnd (ctx : Nat)
  | ctxZeroingDone (ctx : Nat)
  | ctxBatch (tag : BitVec 4) (ctx pbPage count : Nat)
  | objZeroingDone (index : Nat)
  -- Queue commands and graph commands (07)
  | qCreate (tag : BitVec 2) (ctx queue pbPage : Nat)
  | qDestroy (tag : BitVec 2) (ctx queue : Nat)
  | launchGraph (cmd : Nat)
  | registerGraph (cmd : Nat)
  | destroyGraph (cmd : Nat)
  | armGraph (cmd : Nat)
  | disarmGraph (cmd : Nat)
  | nopCommand (cmd : Nat)
  | triggeredLaunch (ctx gid : Nat)
  | instanceStart (inst : Nat)
  | waitNodeTimeout (inst node : Nat)
  | nodeStart (inst node : Nat)
  | nodeComplete (inst node : Nat)
  -- Scheduling (08)
  | preemption (inst node wgIdx core : Nat)
  | stateSaveDone (wg : Nat)
  | restore (wg core : Nat)
  | workgroupPlace (inst node wgIdx core : Nat) (ras : Option RasSetup)
  | monAdd (tag : BitVec 4) (pbPage : Nat)
  | monRemove (tag : BitVec 4) (mon : Nat)
  | galeCheck (mon : Nat)
  | join (tag : BitVec 4) (pbPage : Nat)
  | leave (tag : BitVec 4) (entry : Nat)
  | pause (tag : BitVec 4) (entry : Nat)
  | resume (tag : BitVec 4) (entry : Nat)
  | setPrio (tag : BitVec 4) (entry : Nat) (prio : BitVec 4)
  | build (inst node : Nat)
  | retire (inst node : Nat)
  -- Splits and ordinary instructions (09, 10, 12)
  | bra (sp : SplitRef) (w : IWord)
  | exit (sp : SplitRef) (w : IWord)
  | split (sp : SplitRef) (w : IWord)
  | rejoin (sp : SplitRef) (w : IWord)
  | yield (sp : SplitRef) (w : IWord)
  | pin (sp : SplitRef) (w : IWord)
  | unpin (sp : SplitRef) (w : IWord)
  | splitPromote (core cpart place : Nat)
  | alu (sp : SplitRef) (op : AluOp) (dst : Dst) (w : IWord)
  | cvt (sp : SplitRef) (w : IWord)
  | load (sp : SplitRef) (dst : Dst) (w : IWord)
  | loadComplete (id : Nat)
  | store (sp : SplitRef) (w : IWord)
  | atomic (sp : SplitRef) (op : AtomOp) (wide : Bool) (w : IWord)
  -- Matrix engines (11)
  | mma (sp : SplitRef) (w : IWord)
  | mmaComplete (core cpart : Nat)
  | msync (sp : SplitRef) (w : IWord)
  | amov (sp : SplitRef) (w : IWord)
  | keptCopyLanded (id : Nat)
  -- Lull, allocator, copies, commit (10, 13)
  | watch (sp : SplitRef) (w : IWord)
  | sig (sp : SplitRef) (w : IWord)
  | bar (sp : SplitRef) (w : IWord)
  | wakeArrive (sp : SplitRef)
  | alloc (sp : SplitRef) (w : IWord)
  | allocServed
  | free (sp : SplitRef) (w : IWord)
  | acopy (sp : SplitRef) (w : IWord)
  | copyLanded (id core : Nat)
  | commit (sp : SplitRef) (w : IWord)
  | commitWriteEnd (wg : Nat)
  | sv (sp : SplitRef) (w : IWord)
  | hubAlloc (tag : BitVec 4) (ctx base n parts : Nat) (ring : Bool)
  | hubFree (tag : BitVec 4) (ctx base n : Nat)
  | snapshot (tag : BitVec 4) (ctx base n pbPage : Nat)
  | hubReset (tag : BitVec 4) (ctx base n : Nat)
  -- Memory maintenance and scrub (14, 22)
  | clean (tag : BitVec 4) (ctx mode pbPage : Nat)
  | inval (tag : BitVec 4) (ctx mode pbPage : Nat)
  | cleanInval (tag : BitVec 4) (ctx mode pbPage : Nat)
  | maintenanceDone
  | patrolScrub (line : Nat) (correctable uncorrectable : List Nat)
  -- Raster (15)
  | drawNodeStart (inst node : Nat)
  | binBatch (part : Nat) (tris : List Tri) (pass : Nat)
  | growWaitExpire (part : Nat)
  | flushEnd (part : Nat)
  | tileAssign (part core : Nat)
  | tileResolve (part core : Nat)
  | grant (tag : BitVec 4) (ctx : Nat) (handle : W32)
  | withdraw (tag : BitVec 4) (ctx : Nat) (handle : W32)
  | tex (sp : SplitRef) (w : IWord)
  | tload (sp : SplitRef) (w : IWord)
  | vout (sp : SplitRef) (w : IWord)
  | vin (sp : SplitRef) (w : IWord)
  | fout (sp : SplitRef) (w : IWord)
  | kill (sp : SplitRef) (w : IWord)
  | aread (sp : SplitRef) (w : IWord)
  | oenter (sp : SplitRef) (w : IWord)
  | oexit (sp : SplitRef) (w : IWord)
  | rsv (sp : SplitRef) (dst : Dst) (w : IWord)
  -- Eddy (16)
  | trace (sp : SplitRef) (w : IWord)
  | bucketRelease (core bucket : Nat)
  | callbackRound (id : Nat) (nodes entries : List Nat) (cands : List RayHit)
  | hitret (sp : SplitRef) (w : IWord)
  | traceComplete (id : Nat) (nodes entries : List Nat) (hits : List RayHit)
  -- Display (17)
  | dcPipeWrite (pipe : Nat) (val : W64) (mask : Byte)
  | config (pipe issuer : Nat) (tag : BitVec 4) (pbPage : Nat)
  | flip (pipe issuer : Nat) (tag : BitVec 4) (pbPage : Nat)
  | lut (pipe issuer : Nat) (tag : BitVec 4) (pbPage : Nat)
  | sideband (pipe issuer : Nat) (tag : BitVec 4) (pbPage : Nat) (reply : SideReply)
  | linkTrained (pipe : Nat) (lanes rateMbps : Nat)
  | leadPoint (pipe : Nat)
  | vblank (pipe : Nat)
  | underrun (pipe : Nat)
  | writeBackDone (pipe lines : Nat) (late : Bool)
  | hpd (pipe : Nat) (level : Bool)
  -- Capture and audio (18)
  | capStart (port issuer : Nat) (tag : BitVec 4) (pbPage : Nat)
  | capStop (port issuer : Nat) (tag : BitVec 4)
  | frameStart (port vc : Nat)
  | linePacket (port : Nat) (line : CsiLine)
  | frameEnd (port vc : Nat)
  | audStart (issuer : Nat) (tag : BitVec 4) (pbPage : Nat)
  | audStop (issuer : Nat) (tag : BitVec 4)
  | audioFrame (f : TdmFrame)
  | outputPeriodStart
  -- Compression (19)
  | compressNodeReady (inst node : Nat)
  | compressStart (engine : Nat)
  | compressEnd (engine : Nat) (r : CmpOutcome)
  -- Security (20)
  | attest (tag : BitVec 4) (ctx inPage outPage : Nat)
  | getId (tag : BitVec 4) (ctx outPage : Nat)
  | setLoad (tag : BitVec 4) (ctx inPage : Nat)
  | setDrop (tag : BitVec 4) (ctx inPage : Nat)
  | weightLoad (tag : BitVec 4) (ctx inPage : Nat)
  | weightChunk
  | debugChallenge (tag : BitVec 4) (ctx outPage : Nat)
  | debugUnlock (tag : BitVec 4) (ctx inPage : Nat)
  | debugTokenTap (token : List Byte)
  | tapInstruction (instr : TapInstr)
  | svnAdvance (tag : BitVec 4) (ctx inPage : Nat) (supplyOk : Bool) (blown : Option Nat)
  | killDebug (tag : BitVec 4) (ctx inPage : Nat) (supplyOk : Bool)
  -- Links (21)
  | linkTraining (link : Nat) (lanesOk : BitVec 9)
  | retrain (link : Nat)
  | flitReplay (link : Nat)
  | ringSet (tag : BitVec 4) (pbPage : Nat) (peers : List (Option PeerId))
  | olExportObj (e : ObjExport)
  | olExportFence (e : FenceExport)
  | revoke (r : Revoke)
  | proxyFenceUpdate (fence : Nat) (value : W64) (err abandoned : Bool)
  | ringCounterMessage (m : RingMsg)
  | unreachable (chip : Nat)
  -- Errors (22)
  | errorDetect (e : ErrSrc)
  | logDrain
  | errRingCfgWrite (val : W32) (mask : BitVec 4)
  | errInjectWrite (val : W32) (mask : BitVec 4)
  | injectedWrite (addr : Nat)
  -- Power (02, 23, 24)
  | pwrFnWrite (fn : Nat) (en : Bool) (mgmt : Bool)
  | fnTransitionDone (fn : Nat)
  | retainRequest
  | wake
  | retainExitDone
  | pwrLimitWrite (hostLim : Byte)
  | powerLoopTick
  | powerSample (readings : List Nat)
  | thermalThrottle (sensor tempC : Nat)
  | tripWarn (sensor tempC : Nat)
  | thermtrip (sensor tempC : Nat)
  | currentLimit
  | currentLimitRelease
  | voltageWaitEnd
  | regulatorBusFailure
  | clockCorrelation
  -- Plane restarts (01)
  | feRestart
  | feReloadDone
  | mgmtRestart
  | secFault
  | thermalRelease (sensor tempC : Nat)
  | mgmtRestartDone
  -- Rows added at the table's end
  | portBufferZeroed
  | proxySignalForward (chip fence holderCtx : Nat) (value : W64) (err : Bool)
  | remoteAccessRequest (grantId : Nat) (off : Nat) (len : Nat) (data : Option (List Byte))
  deriving DecidableEq, Repr

end Sys2Proof
end

