-- ==== Sys2Proof/Decode.lean ====
section
/-! DEFINITION. Decode.lean: reading a command from a word. No row of the opcode table has bits:
every row lists no field and no fixed pattern, because the block takes its commands as events. -/

namespace Sys2Proof

/-- The command a word of `nbits` bits spells by the opcode table: none, since no row gives bits. -/
def decodeTableWord (_nbits _w : Nat) : Option Instr := none

end Sys2Proof
end

