-- ==== Sys2Proof/Config.lean ====
section
/-! DEFINITION. Config.lean: what the manual leaves open, as constants without a body. Nothing can
be proved of their values, so a claim holds whatever they are. -/

namespace Sys2Proof

/-- Free values, one for each use (log 8): applied to the counter `State.free`. -/
opaque Config.freeValue : Nat → BitVec 64

/-- SHA3-384 (FIPS 202) over a byte string; the manual names the standard only (log 7). -/
opaque Config.sha3 : List Byte → BitVec 384

/-- What a configuration record body says, by its type: Table 3-4 gives the contents of each type and,
PARTITION and SIGNATURE apart, no layout (log 19). -/
opaque Config.recBody : Nat → List Byte → RecBody

/-- Whether an ML-DSA-65 signature by a public key over a digest verifies (R379, R385, R389; log 7). -/
opaque Config.sigValid : List Byte → BitVec 384 → List Byte → Bool

/-- XTS-AES-256 of IEEE 1619 on a data unit of 64 bytes, by the two keys and the tweak, and its inverse
(R294; log 49). -/
opaque Config.xtsEnc : BitVec 256 → BitVec 256 → BitVec 128 → List Byte → List Byte
opaque Config.xtsDec : BitVec 256 → BitVec 256 → BitVec 128 → List Byte → List Byte

/-- AES-256-CMAC of NIST SP 800-38B over a byte string: its 16 bytes (R294; log 49). -/
opaque Config.cmac : BitVec 256 → List Byte → List Byte

/-- KMAC256 of NIST SP 800-185 with a key, data, an output length in bits and a customisation string (R377;
log 7). -/
opaque Config.kmac256 : List Byte → List Byte → Nat → List Byte → List Byte

/-- Public key of the ML-DSA-65 key generation of FIPS 204 on a 32-byte seed, and a signature by that pair over a
digest, which may use fresh randomness (R377, R382; log 7). -/
opaque Config.mldsaPublic : List Byte → List Byte
opaque Config.mldsaSign : List Byte → BitVec 384 → Nat → List Byte

/-- Encapsulation key of the ML-KEM-768 key generation of FIPS 203 on a 64-byte seed, and what that pair
decapsulates of a ciphertext (R377, R384, R386; log 7). -/
opaque Config.mlkemPublic : List Byte → List Byte
opaque Config.mlkemDecap : List Byte → List Byte → List Byte

/-- AES-256-GCM by a key, an IV and additional data over ciphertext with its 16-byte tag: the plaintext when the
tag passes (R384, R386; log 7). -/
opaque Config.gcmOpen : List Byte → List Byte → List Byte → List Byte → Option (List Byte)

/-- A fresh nonce of the random generator (R389), by how many were drawn. -/
opaque Config.randomNonce : Nat → BitVec 256

/-- The standard's encodings of MR0, MR4 and MR8 (R74; log 18). -/
opaque Config.mrStandard : Nat → Byte

/-- Silicon stepping in MR6 (R74): implementation-defined, 0x10 or higher. -/
opaque Config.stepping : Byte

/-- Read DQ calibration pattern as the standard gives it for the stored pattern registers (R76). -/
opaque Config.calPattern : List (Nat × Byte) → List Byte

/-- Check bits of read link ECC for a burst, as JESD209-5C gives the code (R77; log 18). -/
opaque Config.linkEcc : List Byte → List Byte

/-- Choice among the values a bound of Table 12-5 allows, by function and operand (log 12). -/
opaque Config.pick : Nat → BitVec 32 → Nat

/-- Barycentrics of v1 and v2 where a ray meets a triangle: no rule states how exact they are (R325; log 13). -/
opaque Config.bary : List (BitVec 32) → List Nat → BitVec 32 × BitVec 32

/-- sRGB transfer function of IEC 61966-2-1 in FP32, and its inverse to a code (R315; log 12). -/
opaque Config.srgbDecode : Byte → BitVec 32
opaque Config.srgbEncode : BitVec 32 → Byte

/-- Bytes of the clock correlation record in its page, by count and frequency of each domain and the
publication time; the manual gives its contents and no layout (R28; log 14). -/
opaque Config.corrPage : Tab (BitVec 48 × W32) → BitVec 48 → List Byte

end Sys2Proof
end

