-- ==== Sys2Proof/Machine/Bits.lean ====
section
/-! DEFINITION. Bits.lean: bit fields, packing and byte order (00 R3, R5). -/

namespace Sys2Proof.Machine

/-- Bits [hi:lo] of a word, as a number. -/
def bits {w : Nat} (x : BitVec w) (hi lo : Nat) : Nat := (x.toNat >>> lo) % 2 ^ (hi + 1 - lo)

/-- Bit i of a word. -/
def bit {w : Nat} (x : BitVec w) (i : Nat) : Bool := x.getLsbD i

/-- 1 for true, 0 for false. -/
def b2n (b : Bool) : Nat := if b then 1 else 0

/-- A word from (value, low bit) pairs; the fields are disjoint. -/
def packNat : List (Nat × Nat) → Nat
  | [] => 0
  | (v, lo) :: r => v <<< lo + packNat r

/-- The number a little-endian byte string holds (R5). -/
def leNat : List Byte → Nat
  | [] => 0
  | b :: r => b.toNat + 256 * leNat r

/-- The low `n` bytes of a number, lowest first (R5). -/
def natBytes (v : Nat) : Nat → List Byte
  | 0 => []
  | n + 1 => BitVec.ofNat 8 v :: natBytes (v / 256) n

/-- Whether bits [hi:lo] of a word are all zero: a reserved field written as it must be. -/
def zeroField {w : Nat} (x : BitVec w) (hi lo : Nat) : Bool := bits x hi lo == 0

/-- ⌈a/b⌉. -/
def ceilDiv (a b : Nat) : Nat := (a + b - 1) / b

/-- ⌊log2 n⌋ for n > 0, by `fuel` halvings. -/
def log2Fuel : Nat → Nat → Nat
  | 0, _ => 0
  | f + 1, n => if n < 2 then 0 else 1 + log2Fuel f (n / 2)

/-- ⌊log2 n⌋ for 0 < n < 2^600. -/
def flog2 (n : Nat) : Nat := log2Fuel 600 n

/-- Largest r ≤ hi with r·r ≤ n, by bisection over `fuel` steps. -/
def sqrtFuel : Nat → Nat → Nat → Nat → Nat
  | 0, lo, _, _ => lo
  | f + 1, lo, hi, n =>
    if hi ≤ lo + 1 then lo
    else
      let m := (lo + hi) / 2
      if m * m ≤ n then sqrtFuel f m hi n else sqrtFuel f lo m n

/-- ⌊√n⌋ for n < 2^600. -/
def isqrt (n : Nat) : Nat := sqrtFuel 400 0 (2 ^ (flog2 n / 2 + 1)) n

/-- `n` taken as a signed number of `w` bits. -/
def signed (w n : Nat) : Int :=
  let m := n % 2 ^ w
  if m < 2 ^ (w - 1) then (m : Int) else (m : Int) - (2 ^ w : Nat)

/-- The low `w` bits of an integer. -/
def wrap (w : Nat) (x : Int) : Nat := (x % (2 ^ w : Nat)).toNat

/-- Number of set bits among the low `n`. -/
def popcount {w : Nat} (x : BitVec w) (n : Nat) : Nat :=
  ((List.range n).filter (fun i => x.getLsbD i)).length

/-- Positions of the set bits among the low `n`, lowest first. -/
def setBits {w : Nat} (x : BitVec w) (n : Nat) : List Nat :=
  (List.range n).filter (fun i => x.getLsbD i)

/-- Saturating increment. -/
def satInc {w : Nat} (x : BitVec w) : BitVec w := if x = BitVec.allOnes w then x else x + 1

/-- `a` replaced by `b` byte by byte, except where the mask bit of the byte is set (R70, R417). -/
def maskBytes (n : Nat) (old new : Nat) (mask : Nat) : Nat :=
  leNat ((List.range n).map fun i =>
    BitVec.ofNat 8 ((if mask.testBit i then old else new) >>> (8 * i)))

/-- A number of a block of bytes. -/
def blockNum (d : List Byte) (at_ n : Nat) : Nat := leNat ((d.drop at_).take n)

end Sys2Proof.Machine
end

