-- ==== Sys2Proof/Machine/Float.lean ====
section
/-! DEFINITION. Float.lean: the eleven value formats as exact numbers, the rounding modes, arithmetic
rounded once, conversions and the special functions (12 R235 to R250). -/

namespace Sys2Proof.Machine

/-- A decoded value: m × 2^e with a sign, an infinity or NaN. -/
inductive Fp where
  | nan
  | inf (neg : Bool)
  | fin (neg : Bool) (m : Nat) (e : Int)
  deriving DecidableEq, Repr

/-! ## Formats (Table 12-1) -/

/-- Width of a value format in bits. -/
def fmtWidth (c : Nat) : Nat :=
  match c with
  | 0 => 32 | 1 => 16 | 2 => 16 | 3 => 8 | 4 => 8 | 5 => 6 | 6 => 6 | 7 => 4 | 8 => 16 | 9 => 8 | _ => 4

/-- Integer formats. -/
def fmtInt (c : Nat) : Bool := 8 ≤ c

/-- Exponent bits of a floating-point format. -/
def fmtExp (c : Nat) : Nat :=
  match c with
  | 0 => 8 | 1 => 5 | 2 => 8 | 3 => 4 | 4 => 5 | 5 => 3 | 6 => 2 | _ => 2

/-- Fraction bits. -/
def fmtFrac (c : Nat) : Nat :=
  match c with
  | 0 => 23 | 1 => 10 | 2 => 7 | 3 => 3 | 4 => 2 | 5 => 2 | 6 => 3 | _ => 1

/-- Exponent bias. -/
def fmtBias (c : Nat) : Int :=
  match c with
  | 0 => 127 | 1 => 15 | 2 => 127 | 3 => 7 | 4 => 15 | 5 => 3 | _ => 1

/-- Largest finite value as (n, q): n × 2^q. -/
def fmtMax (c : Nat) : Nat × Int :=
  match c with
  | 0 => (2 ^ 24 - 1, 104) | 1 => (2 ^ 11 - 1, 5) | 2 => (255, 120) | 3 => (14, 5) | 4 => (7, 13)
  | 5 => (7, 2) | 6 => (15, -1) | _ => (3, 1)

/-- Formats with infinities. -/
def fmtHasInf (c : Nat) : Bool := c ≤ 2 || c == 4

/-- Canonical NaN (Table 12-2). -/
def fmtNan (c : Nat) : Nat :=
  match c with
  | 0 => 0x7FC00000 | 1 => 0x7E00 | 2 => 0x7FC0 | 3 => 0x7F | _ => 0x7E

/-- Decode an encoding (R235). -/
def fpDecode (c x : Nat) : Fp :=
  if fmtInt c then
    let v := signed (fmtWidth c) x
    .fin (decide (v < 0)) v.natAbs 0
  else
    let f := fmtFrac c
    let e := x / 2 ^ f % 2 ^ fmtExp c
    let m := x % 2 ^ f
    let neg := x / 2 ^ (f + fmtExp c) % 2 == 1
    let top := e == 2 ^ fmtExp c - 1
    if fmtHasInf c && top then (if m = 0 then .inf neg else .nan)
    else if c = 3 && top && m = 7 then .nan
    else if e = 0 then .fin neg m (1 - fmtBias c - f)
    else .fin neg (2 ^ f + m) (e - fmtBias c - f)

/-! ## Rounding (R241) -/

/-- Round m / 2^sh to an integer under a mode; SAT rounds as RNE. -/
def roundShift (rm : Nat) (neg : Bool) (m sh : Nat) : Nat :=
  let k := m / 2 ^ sh
  let r := m % 2 ^ sh
  if r = 0 then k
  else match rm with
    | 1 => k
    | 2 => if neg then k else k + 1
    | 3 => if neg then k + 1 else k
    | 4 => if k % 2 = 0 then k + 1 else k
    | _ => if 2 ^ sh < 2 * r || (2 * r = 2 ^ sh && k % 2 = 1) then k + 1 else k

/-- Round m × 2^e to a multiple of 2^q; the multiple. -/
def roundTo (rm : Nat) (neg : Bool) (m : Nat) (e q : Int) : Nat :=
  if q ≤ e then m * 2 ^ (e - q).toNat else roundShift rm neg m (q - e).toNat

/-- Exponent of the leading bit of m × 2^e. -/
def leadExp (m : Nat) (e : Int) : Int := (flog2 m : Int) + e

/-- a × 2^p < b × 2^q. -/
def ltScaled (a : Nat) (p : Int) (b : Nat) (q : Int) : Bool :=
  let k := min p q
  decide (a * 2 ^ (p - k).toNat < b * 2 ^ (q - k).toNat)

/-- Encode n × 2^q, which the format holds. -/
def fpPack (c : Nat) (neg : Bool) (n : Nat) (q : Int) : Nat :=
  let f := fmtFrac c
  let sgn := b2n neg * 2 ^ (f + fmtExp c)
  let (n, q) := if 2 ^ (f + 1) ≤ n then (n / 2, q + 1) else (n, q)
  if n < 2 ^ f then sgn + n else sgn + (q + fmtBias c + f).toNat * 2 ^ f + (n - 2 ^ f)

/-- Whether an overflow under a mode gives infinity rather than the largest finite value (Table
12-4). -/
def overInf (rm : Nat) (neg : Bool) : Bool :=
  match rm with
  | 0 => true | 2 => !neg | 3 => neg | _ => false

/-- Round an exact value to a floating-point format; none on overflow. -/
def fpRound (c rm : Nat) (neg : Bool) (m : Nat) (e : Int) : Option Nat :=
  if m = 0 then some (fpPack c neg 0 0)
  else
    let f : Int := fmtFrac c
    let q := max (leadExp m e - f) (1 - fmtBias c - f)
    let n := roundTo rm neg m e q
    if ltScaled (fmtMax c).1 (fmtMax c).2 n q then none else some (fpPack c neg n q)

/-- Largest finite value of a sign. -/
def fpLargest (c : Nat) (neg : Bool) : Nat := fpPack c neg (fmtMax c).1 (fmtMax c).2

/-- Infinity of a sign, for formats that have one. -/
def fpInf (c : Nat) (neg : Bool) : Nat :=
  b2n neg * 2 ^ (fmtFrac c + fmtExp c) + (2 ^ fmtExp c - 1) * 2 ^ fmtFrac c

/-- Encode an arithmetic result or a floating-point conversion (R241, R249, Table 12-7). -/
def fpEncode (c rm : Nat) (v : Fp) : Nat :=
  match v with
  | .nan => if c < 5 then fmtNan c else 0
  | .inf neg =>
    if 5 ≤ c || (rm = 5 && 3 ≤ c) then fpLargest c neg
    else if c = 3 then fmtNan 3
    else fpInf c neg
  | .fin neg m e =>
    match fpRound c rm neg m e with
    | some x => x
    | none =>
      if 5 ≤ c || !overInf rm neg then fpLargest c neg
      else if c = 3 then fmtNan 3
      else fpInf c neg

/-! ## Exact arithmetic (R243 to R245) -/

/-- Sign of a zero that comes out of cancellation. -/
def zeroSign (rm : Nat) : Bool := rm == 3

/-- Exact sum. -/
def fpAdd (rm : Nat) (a b : Fp) : Fp :=
  match a, b with
  | .nan, _ => .nan
  | _, .nan => .nan
  | .inf x, .inf y => if x = y then .inf x else .nan
  | .inf x, _ => .inf x
  | _, .inf y => .inf y
  | .fin x m e, .fin y n f =>
    let k := min e f
    let u : Int := (m * 2 ^ (e - k).toNat : Nat)
    let v : Int := (n * 2 ^ (f - k).toNat : Nat)
    let t := (if x then -u else u) + (if y then -v else v)
    if t = 0 then .fin (if m = 0 && n = 0 && x == y then x else zeroSign rm) 0 k
    else .fin (decide (t < 0)) t.natAbs k

/-- Exact product. -/
def fpMul (a b : Fp) : Fp :=
  match a, b with
  | .nan, _ => .nan
  | _, .nan => .nan
  | .inf x, .inf y => .inf (x != y)
  | .inf x, .fin y n _ => if n = 0 then .nan else .inf (x != y)
  | .fin x m _, .inf y => if m = 0 then .nan else .inf (x != y)
  | .fin x m e, .fin y n f => .fin (x != y) (m * n) (e + f)

/-- Change the sign. -/
def fpNeg : Fp → Fp
  | .nan => .nan
  | .inf x => .inf !x
  | .fin x m e => .fin (!x) m e

/-- a < b on values that are not NaN; −0 is not below +0. -/
def fpLt (a b : Fp) : Bool :=
  match a, b with
  | .nan, _ => false
  | _, .nan => false
  | .inf x, .inf y => x && !y
  | .inf x, _ => x
  | _, .inf y => !y
  | .fin x m e, .fin y n f =>
    let k := min e f
    let u : Int := (m * 2 ^ (e - k).toNat : Nat)
    let v : Int := (n * 2 ^ (f - k).toNat : Nat)
    decide ((if x then -u else u) < (if y then -v else v))

/-- a = b; both zeros are equal. -/
def fpEq (a b : Fp) : Bool :=
  match a, b with
  | .nan, _ => false
  | _, .nan => false
  | _, _ => !fpLt a b && !fpLt b a

/-- Whether a value is a NaN. -/
def Fp.isNan : Fp → Bool
  | .nan => true
  | .inf _ => false
  | .fin _ _ _ => false

/-- Whether a value is negative, −0 included. -/
def Fp.isNeg : Fp → Bool
  | .nan => false
  | .inf x => x
  | .fin x _ _ => x

/-- min or max of two encodings: one NaN gives the other operand, −0 is below +0 (R245). -/
def fpMinMax (c : Nat) (big : Bool) (x y : Nat) : Nat :=
  let a := fpDecode c x
  let b := fpDecode c y
  if a.isNan then (if b.isNan then fmtNan c else y)
  else if b.isNan then x
  else
    let less := fpLt a b || (fpEq a b && a.isNeg && !b.isNeg)
    if less == big then y else x

/-! ## Conversions (R249, Table 12-7) -/

/-- Round to an integer under a mode; its sign and magnitude. -/
def fpToInt (rm : Nat) (neg : Bool) (m : Nat) (e : Int) : Int :=
  let n : Int := (roundTo rm neg m e 0 : Nat)
  if neg then -n else n

/-- Encode into an integer format of w bits: out-of-range gives the most negative value, clamped under
SAT (Table 12-7). -/
def intEncode (w rm : Nat) (v : Fp) : Nat :=
  let lo : Int := -(2 ^ (w - 1) : Nat)
  let hi : Int := (2 ^ (w - 1) : Nat) - 1
  match v with
  | .nan => if rm = 5 then 0 else wrap w lo
  | .inf neg => if rm = 5 then (if neg then wrap w lo else wrap w hi) else wrap w lo
  | .fin neg m e =>
    let n := fpToInt rm neg m e
    if n < lo then wrap w lo
    else if hi < n then (if rm = 5 then wrap w hi else wrap w lo)
    else wrap w n

/-- Between integer formats: rm 0 keeps the low bits, rm 5 saturates (R249). -/
def intToInt (w rm : Nat) (v : Int) : Nat :=
  if rm = 0 then wrap w v
  else
    let lo : Int := -(2 ^ (w - 1) : Nat)
    let hi : Int := (2 ^ (w - 1) : Nat) - 1
    if v < lo then wrap w lo else if hi < v then wrap w hi else wrap w v

/-- Whether a rounding code is permitted for a conversion between two formats (Table 10-6, R249). -/
def cvtRmOk (src dst rm : Nat) : Bool :=
  if fmtInt src && fmtInt dst then rm == 0 || rm == 5
  else if fmtInt dst || 3 ≤ dst then decide (rm ≤ 5)
  else decide (rm ≤ 4)

/-- Convert one element (R249). -/
def convert (src dst rm x : Nat) : Nat :=
  if fmtInt src && fmtInt dst then intToInt (fmtWidth dst) rm (signed (fmtWidth src) x)
  else if fmtInt dst then intEncode (fmtWidth dst) rm (fpDecode src x)
  else fpEncode dst rm (fpDecode src x)

/-- Elements a 32-bit register holds (R248). -/
def fmtCount (c : Nat) : Nat := 32 / fmtWidth c

/-- Element j of a register. -/
def elemAt (c j x : Nat) : Nat := x / 2 ^ (fmtWidth c * j) % 2 ^ fmtWidth c

/-- Replace element j of a register. -/
def elemPut (c j x v : Nat) : Nat :=
  x - elemAt c j x * 2 ^ (fmtWidth c * j) + v % 2 ^ fmtWidth c * 2 ^ (fmtWidth c * j)

/-! ## Scaled conversion (R250) -/

/-- Exponent of a target's largest finite value. -/
def emaxOf (c : Nat) : Int :=
  match c with
  | 3 => 8 | 4 => 15 | 5 => 4 | 6 => 2 | 7 => 2 | 10 => 2 | _ => 0

/-- Computed block scale (R250). -/
def blockScale (dst : Nat) (xs : List Fp) : Nat :=
  if xs.any (fun x => match x with | .nan => true | .inf _ => true | .fin _ _ _ => false) then 0xFF
  else
    let es := xs.filterMap fun x => match x with
      | .fin _ m e => if m = 0 then none else some (leadExp m e)
      | _ => none
    match es with
    | [] => 0
    | e :: r => (max (-127) (min 127 (r.foldl max e - emaxOf dst)) + 127).toNat

/-- One element under a scale: x × 2^(127 − s), an INT8 target × 2^6 more, rounded under rm and
saturated (R250). -/
def scaledElem (dst rm scale : Nat) (x : Fp) : Nat :=
  if scale = 0xFF then 0
  else
    let k : Int := 127 - scale + (if dst = 9 then 6 else 0)
    let y := match x with
      | .fin s m e => Fp.fin s m (e + k)
      | z => z
    if fmtInt dst then
      match y with
      | .fin s m e =>
        let w := fmtWidth dst
        let lo : Int := -(2 ^ (w - 1) : Nat)
        let hi : Int := (2 ^ (w - 1) : Nat) - 1
        wrap w (max lo (min hi (fpToInt rm s m e)))
      | z => intEncode (fmtWidth dst) 5 z
    else match y with
      | .fin s m e => (fpRound dst rm s m e).getD (fpLargest dst s)
      | z => fpEncode dst 5 z

/-! ## Special functions (R246, Table 12-5) -/

/-- FP32 encodings in numeric order: negative numbers below zero. -/
def ord32 (x : Nat) : Int := if x < 2 ^ 31 then x else 2 ^ 31 - (x : Int)

/-- The FP32 encoding at a place in that order. -/
def unord32 (o : Int) : Nat := if 0 ≤ o then o.toNat else (2 ^ 31 - o).toNat

/-- An FP32 value between two, both included, the choice the bound leaves open (log 12). -/
def between32 (fn : Nat) (x : BitVec 32) (lo hi : Nat) : Nat :=
  let n := max 1 (ord32 hi - ord32 lo + 1).toNat
  unord32 (ord32 lo + (Config.pick fn x % n : Nat))


/-- An FP32 value of the given sign within `k` ulps of an exact magnitude that lies from lo × 2^e to hi × 2^e;
an ulp is FP32's step at the exact result (R246). -/
def ulps32 (fn : Nat) (x : BitVec 32) (neg : Bool) (lo hi : Nat) (e : Int) (k : Nat) : Nat :=
  let u : Int := max (flog2 lo + e - 23) (-149)
  let c := min e u
  let step : Int := k * 2 ^ (u - c).toNat
  let least : Int := hi * 2 ^ (e - c).toNat - step
  let most : Int := lo * 2 ^ (e - c).toNat + step
  let a := if least ≤ 0 then 0 else fpEncode 0 2 (.fin false least.toNat c)
  let b := if 2 ^ (128 - c).toNat ≤ most then 0x7F800000 else fpEncode 0 3 (.fin false most.toNat c)
  b2n neg * 2 ^ 31 + (a + Config.pick fn x % (b - a + 1))

/-- sqrt, correctly rounded: the integer square root with a sticky bit (R242 makes one RTO step and
one RNE step exact). -/
def sqrt32 (x : Nat) : Nat :=
  match fpDecode 0 x with
  | .nan => fmtNan 0
  | .inf neg => if neg then fmtNan 0 else x
  | .fin neg m e =>
    if m = 0 then x
    else if neg then fmtNan 0
    else
      let k : Nat := if (e - 60) % 2 = 0 then 60 else 61
      let v := m * 2 ^ k
      let r := isqrt v
      let r := if r * r = v then 2 * r else 2 * r + 1
      fpEncode 0 0 (.fin false r ((e - k) / 2 - 1))

/-- rcp, within 1 ulp. -/
def rcp32 (x : BitVec 32) : Nat :=
  match fpDecode 0 x.toNat with
  | .nan => fmtNan 0
  | .inf neg => b2n neg * 2 ^ 31
  | .fin neg m e =>
    if m = 0 then fpInf 0 neg
    else
      let q := 2 ^ 200 / m
      ulps32 1 x neg q (if q * m = 2 ^ 200 then q else q + 1) (-200 - e) 1

/-- rsqrt, within 1 ulp. -/
def rsqrt32 (x : BitVec 32) : Nat :=
  match fpDecode 0 x.toNat with
  | .nan => fmtNan 0
  | .inf neg => if neg then fmtNan 0 else 0
  | .fin neg m e =>
    if m = 0 then fpInf 0 neg
    else if neg then fmtNan 0
    else
      let (m, e) := if e % 2 = 0 then (m, e) else (2 * m, e - 1)
      let r := isqrt (2 ^ 200 / m)
      ulps32 2 x false r (if r * r * m = 2 ^ 200 then r else r + 1) (-100 - e / 2) 1

/-- 2^(2^−k) for k = 1, 2, … as fractions of 2^60, by repeated square roots, multiplied into `acc`
where the bit of the exponent's fraction is set. -/
def exp2Bits : Nat → Nat → Nat → Nat → Nat
  | 0, _, _, acc => acc
  | n + 1, frac, r, acc =>
    let r := isqrt (r * 2 ^ 60)
    let f := 2 * frac
    exp2Bits n (f % 2 ^ 60) r (if 2 ^ 60 ≤ f then acc * r / 2 ^ 60 else acc)

/-- exp2, within 2 ulp: the exact value lies within 2^−50 of the one computed. -/
def exp2_32 (x : BitVec 32) : Nat :=
  match fpDecode 0 x.toNat with
  | .nan => fmtNan 0
  | .inf neg => if neg then 0 else fpInf 0 false
  | .fin neg m e =>
    if m = 0 then 0x3F800000
    else
      let u : Int := (roundTo 1 false m e (-60) : Nat)
      let v := if neg then -u else u
      if 128 * 2 ^ 60 ≤ v then fpInf 0 false
      else if v ≤ -150 * 2 ^ 60 then 0
      else
        let i := v / 2 ^ 60
        let y := exp2Bits 60 (v % 2 ^ 60).toNat (2 * 2 ^ 60) (2 ^ 60)
        ulps32 3 x false (y - y / 2 ^ 50) (y + y / 2 ^ 50) (i - 60) 2

/-- Fraction bits of log2 of a mantissa in [1, 2), as a fraction of 2^60: squared, a carry gives a
bit. -/
def log2Bits : Nat → Nat → Nat
  | 0, _ => 0
  | n + 1, y =>
    let z := y * y / 2 ^ 60
    if 2 * 2 ^ 60 ≤ z then 2 ^ n + log2Bits n (z / 2) else log2Bits n z

/-- log2: within 2^−22 on [0.5, 2], within 2 ulp elsewhere; the exact value lies within 2^−52 of the one
computed. -/
def log2_32 (x : BitVec 32) : Nat :=
  match fpDecode 0 x.toNat with
  | .nan => fmtNan 0
  | .inf neg => if neg then fmtNan 0 else fpInf 0 false
  | .fin neg m e =>
    if m = 0 then fpInf 0 true
    else if neg then fmtNan 0
    else if x = 0x3F800000 then 0
    else
      let k := flog2 m
      let v : Int := (k + e) * 2 ^ 60 + (log2Bits 60 (m * 2 ^ 60 / 2 ^ k) : Nat)
      if 0x3F000000 ≤ x.toNat && x.toNat ≤ 0x40000000 then
        let w : Int := 2 ^ 38 - 2 ^ 8
        let lo := v - w
        let hi := v + w
        between32 4 x (fpEncode 0 2 (.fin (decide (lo < 0)) lo.natAbs (-60)))
          (fpEncode 0 3 (.fin (decide (hi < 0)) hi.natAbs (-60)))
      else ulps32 4 x (decide (v < 0)) (v.natAbs - 2 ^ 8) (v.natAbs + 2 ^ 8) (-60) 2

/-- π × 2^160, truncated. -/
def piScaled : Nat := 4591442807048218921384805199743311128454155024418

/-- Alternating series of sine or cosine at r × 2^−120: term, next divisor, sum. -/
def trigSeries : Nat → Int → Int → Nat → Int → Int
  | 0, _, _, _, acc => acc
  | n + 1, r2, t, k, acc =>
    let t := -(t * r2 / 2 ^ 120) / ((k : Int) * ((k : Int) + 1))
    trigSeries n r2 t (k + 2) (acc + t)

/-- sin or cos: within 2^−21 + |x|·2^−46; the exact value lies within 2^−50 + |x|·2^−100 of the one computed. -/
def trig32 (isCos : Bool) (x : BitVec 32) : Nat :=
  match fpDecode 0 x.toNat with
  | .nan => fmtNan 0
  | .inf _ => fmtNan 0
  | .fin neg m e =>
    if m = 0 then (if isCos then 0x3F800000 else x.toNat)
    else
      let mag := roundTo 1 false m e (-160)
      let r : Int := ((mag % (2 * piScaled)) / 2 ^ 40 : Nat)
      let r := if neg then -r else r
      let v := if isCos then trigSeries 40 (r * r / 2 ^ 120) (2 ^ 120) 1 (2 ^ 120)
               else trigSeries 40 (r * r / 2 ^ 120) r 2 r
      let w : Int := 2 ^ 99 + ((mag / 2 ^ 86 : Nat) : Int) - 2 ^ 70 - ((mag / 2 ^ 140 : Nat) : Int)
      let lo := v - w
      let hi := v + w
      between32 (if isCos then 6 else 5) x (fpEncode 0 2 (.fin (decide (lo < 0)) lo.natAbs (-120)))
        (fpEncode 0 3 (.fin (decide (hi < 0)) hi.natAbs (-120)))

end Sys2Proof.Machine
end

