-- ==== Sys2Proof/Machine/State.lean ====
section
/-! DEFINITION. State.lean: the state of the TOL-9648 as plain data, the reasons a step can stop,
and the state right after reset. Every field cites the rule that gives it; a field marked MODEL is
the model's own. -/

namespace Sys2Proof.Machine

/-- Why a step could stop with a fault. The manual's machine never stops: a refused access or an
invalid encoding makes a context LOST and writes records, and both are next states. No command
raises this; it exists because the interface asks for the type. Safe: a fault proves nothing. -/
inductive Fault where
  /-- Raised by no command. Safe. -/
  | none
  deriving DecidableEq, Repr

/-- Why a step could be refused. -/
inductive Refusal where
  /-- Raised by an arm of `exec` whose command has no meaning yet. Safe: nothing is claimed. -/
  | notModelled (mnemonic : String)
  deriving DecidableEq, Repr

/-! ## Enumerations -/

/-- Status codes (Table 0-6). -/
inductive Status where
  | ok | contextLost | abandoned | orphaned | boundFault | formatFault | preempted | fallback | timeout
  deriving DecidableEq, Repr

/-- Host-port channel states (Table 4-7). -/
inductive ChState where
  | untrained | training | active | powerDown | selfRefresh | srPowerDown | deepSleep | noClock | disabled
  deriving DecidableEq, Repr

/-- Function states (Table 2-6). -/
inductive FnState where
  | off | starting | restarting | on | stopping
  deriving DecidableEq, Repr

/-- Device power states (Table 2-4); OFF is not a state of a powered model. -/
inductive DevState where
  | boot | active | retain
  deriving DecidableEq, Repr

/-- Boot stages (Table 3-10). -/
inductive Stage where
  | cfg | awaitM | verifyM | awaitFC | verifyF | verifyC | dram | ready | halted
  deriving DecidableEq, Repr

/-- Context states (Table 6-1). -/
inductive CtxState where
  | free | active | lost | teardown | zeroing
  deriving DecidableEq, Repr

/-- Object states (Table 6-8). -/
inductive ObjState where
  | free | live | retiring | zeroing
  deriving DecidableEq, Repr

/-- Fence states (Table 6-10). -/
inductive FenceState where
  | free | live | abandoned
  deriving DecidableEq, Repr

/-- Queue life (R129, R131). -/
inductive QState where
  | free | live | destroying
  deriving DecidableEq, Repr

/-- Slot states (Table 5-9); an unbound slot has no queue. -/
inductive SlotState where
  | idle | active | draining
  deriving DecidableEq, Repr

/-- Sequence entry states (Table 8-9). -/
inductive SeqState where
  | free | ready | inStep | paused | leaving
  deriving DecidableEq, Repr

/-- Progress of a node in an instance (R143). -/
inductive NodeState where
  | waiting | ready | running | done
  deriving DecidableEq, Repr

/-- Split states (Table 9-5). -/
inductive SplitState where
  | ready | stalled | gated | rejoinWait | syncWait
  deriving DecidableEq, Repr

/-- Binning pass states (Table 15-9). -/
inductive PassState where
  | binning | growWait | flush | render
  deriving DecidableEq, Repr

/-- Otvas link states (Table 21-3). -/
inductive LinkState where
  | off | training | up | failed | miswired
  deriving DecidableEq, Repr

/-- Ring states (Table 21-4). -/
inductive RingState where
  | none | forming | up | degraded
  deriving DecidableEq, Repr

/-- Result codes of the `_STAT` registers; each register uses those its table lists. -/
inductive Result where
  | ok | badOp | bad3 | badBlock | r5 | resource | badPage | badSig | policy | tag | secFault | stopped
  deriving DecidableEq, Repr

/-! ## Parts of the state -/

/-- Balls of Table 3-1, R62 and R426. `int3Hold` is the hold of INT3_N before port readiness (R54);
`held` says the device behaves as with PORST_N low (R428) or has stopped its clocks (R36). HRST_N is low
until tick `hrstUntil`, and XSPI_RESET_N is driven low until tick `xspiRst` (R43, R46). -/
structure Pins where
  porstN    : Bool := true
  coreOcN   : Bool := true
  int3Hold  : Bool := true
  thermtrip : Bool := false
  xspiDriven : Bool := true
  hrstUntil : Nat := 0
  xspiRst   : Nat := 0
  held      : Bool := false
  clocksStopped : Bool := false
  deriving DecidableEq, Repr

/-- Fuse fields (Table 20-1); values are set at test (log 2). `ok` is the integrity check (R375). -/
structure Fuses where
  uds      : BitVec 256 := 0
  serial   : W64 := 0
  grade    : Nat := 0
  vendorKh : BitVec 384 := 0
  ownerKh  : BitVec 384 := 0
  dbgClose : Bool := true
  dbgKill  : Bool := false
  svnM     : Nat := 0
  svnF     : Nat := 0
  svnC     : Nat := 0
  repair   : List Byte := []
  ok       : Bool := true
  deriving DecidableEq, Repr

/-- Domain counters (R26, R27), the CCLKs delivered to each core group (R24, R184) and the published
correlation record (R28). `phase` and `cphase` are MODEL: the fraction of a cycle each has accumulated (log
5). -/
structure Clk where
  now    : Nat := 0
  counts : Tab (BitVec 48) := []
  phase  : Tab Nat := []
  cclk   : Tab (BitVec 48) := []
  cphase : Tab Nat := []
  corr   : Tab (BitVec 48 × W32) := []
  corrTs : BitVec 48 := 0
  deriving DecidableEq, Repr

/-- What the device does on the flash interface (R44, R46): a 1S-1S-1S read at 25 MHz, a mode-entry write
to a volatile register, an 8D-8D-8D read with its opcode, dummy cycles and clock, and the release. -/
inductive XspiOp where
  | read1S (addr n : Nat)
  | modeWrite (op data : Byte) (reg : W32)
  | read8D (op : Byte) (dummy mhz addr n : Nat)
  | release
  deriving DecidableEq, Repr

/-- The boot doorbell being handled (R59). -/
structure BootJob where
  seq    : W32
  stage  : Nat
  off    : Nat
  len    : Nat
  image  : List Byte
  copied : Bool
  /-- A staging word read while copying was uncorrectable (Table 22-2). -/
  bad    : Bool
  deriving DecidableEq, Repr

/-- A stage image held in the protected range (Table 3-12, Table 14-2). -/
structure StageImage where
  image  : List Byte
  digest : BitVec 384
  svn    : Nat
  deriving DecidableEq, Repr

/-- Boot status (Table 3-9), boot doorbell (R58) and boot progress (R60). -/
structure Boot where
  stage     : Stage := .cfg
  err       : Nat := 0
  fwDone    : BitVec 8 := 0
  cfgSrc    : Nat := 0
  seqCopied : W32 := 0
  seqDone   : W32 := 0
  cfgGen    : W32 := 0
  readyTs   : W64 := 0
  cfgDigest : BitVec 384 := 0
  zeroLeft  : Nat := 0
  fails     : Nat := 0
  /-- Failed verifications of each stage in this boot (R59). -/
  failCnt   : Tab Nat := []
  /-- The flash is read again after HRST_N, the fallback configuration still in force (Table 3-2). -/
  reread    : Bool := false
  dbPend    : Bool := false
  dbRec     : BitVec 256 := 0
  cur       : Option BootJob := none
  images    : Tab StageImage := []
  trained   : Bool := false
  pbZeroed  : Bool := false
  /-- What has been done on the flash interface in this boot, in order (R44 to R46). -/
  xspi      : List XspiOp := []
  /-- 0 PORST_N, 1 HRST_N (Table 20-7 offset 0x064). -/
  lastReset : Nat := 0
  deriving DecidableEq, Repr

/-- The configuration in force (Table 3-4); `valid` is clear before CONFIG_READ. -/
structure Cfg where
  valid     : Bool := false
  fallback  : Bool := false
  dramRate  : Nat := 0
  initStep  : Nat := 0
  dispMhz   : Nat := 0
  camMhz    : Nat := 0
  rate0     : Nat := 0
  rate1     : Nat := 0
  chMask    : BitVec 8 := 0
  drive     : Nat := 0
  dmMask    : BitVec 32 := 0
  density   : List Nat := []
  packages  : Nat := 0
  parts     : List Partition := []
  mg0       : Nat := 0
  mg1       : Nat := 0
  central   : Bool := false
  slots     : List Nat := []
  debugPolicy : Nat := 0
  needEnc   : Bool := false
  attestPolicy : BitVec 8 := 0
  limitW    : Nat := 0
  throttleC : Nat := 0
  currentA  : Nat := 0
  hostWritesLimit : Bool := false
  deriving DecidableEq, Repr

/-- One set point's mode registers (R75, Table 4-5). Power-up values are the family's (log 3). -/
structure ModeRegs where
  rl      : Nat := 6
  wl      : Nat := 4
  nwr     : Nat := 5
  ckMode  : Bool := false
  drive   : Nat := 0
  bg      : Bool := false
  wdbi    : Bool := false
  rdbi    : Bool := false
  dmDis   : Bool := false
  vro     : Bool := false
  ratio4  : Bool := true
  wckOn   : Bool := false
  wecc    : Bool := false
  recc    : Bool := false
  zqMode  : Bool := false
  zqStop  : Bool := false
  zqReset : Bool := false
  raw     : Tab Byte := []
  deriving DecidableEq, Repr

/-- What the channel last drove on DQ: nothing, a data burst, a data burst with its read link ECC check bits
and whether read DBI coded it (R77), or a mode-register value. -/
inductive Answer where
  | none
  | data (bytes : List Byte)
  | burst (bytes check : List Byte) (dbi : Bool)
  | modeReg (v : Byte)
  deriving DecidableEq, Repr

/-- One host-port channel (R61 to R81). -/
structure Chan where
  st       : ChState := .untrained
  /-- The state the port-idle state was entered from. -/
  back     : ChState := .untrained
  ckErr    : Bool := false
  ratioErr : Bool := false
  fspOp    : Bool := false
  fspWr    : Bool := false
  mr0      : ModeRegs := {}
  mr1      : ModeRegs := {}
  trained0 : Bool := false
  trained1 : Bool := false
  rlSeen   : Bool := false
  rows     : Tab Nat := []
  fifo     : List (List Byte) := []
  wckSync  : Bool := false
  zqBusy   : Bool := false
  cbt      : Bool := false
  duty     : Bool := false
  answer   : Answer := .none
  cntRef   : BitVec 16 := 0
  proto    : BitVec 8 := 0
  weccUe   : BitVec 8 := 0
  weccCe   : BitVec 8 := 0
  unmapRd  : BitVec 12 := 0
  unmapWr  : BitVec 12 := 0
  deriving DecidableEq, Repr

/-- A window table entry (Table 5-1). -/
structure WtEntry where
  valid  : Bool := false
  snap   : Bool := false
  ap     : Nat := 0
  pb     : Nat := 0
  npages : Nat := 0
  cls    : Nat := 0
  ctx    : Nat := 0
  base   : Nat := 0
  deriving DecidableEq, Repr

/-- A commit between its steps 2 and 6 (R89), or teardown step 4 (R127). -/
structure Commit where
  table    : Tab WtEntry
  gen      : W32
  zero     : List Nat
  teardown : Option Nat
  deriving DecidableEq, Repr

/-- Window table working copy, staging and HP_WT_GEN (R82 to R90). -/
structure Wt where
  table  : Tab WtEntry := []
  staged : Tab (BitVec 128) := []
  cnt    : BitVec 16 := 0
  err    : Nat := 0
  busy   : Bool := false
  gen    : W32 := 0
  commit : Option Commit := none
  /-- Contexts whose teardown step 4 waits for a running commit (R127). -/
  waiting : List Nat := []
  deriving DecidableEq, Repr

/-- A published snapshot page: the bytes of the visible version and its generation (R91). -/
structure Snap where
  gen  : W64 := 0
  odd  : Bool := false
  deriving DecidableEq, Repr

/-- A shadow slot (Table 5-6); `at_` is the capture instant in REFCLK cycles, none before the
first capture (age 0xFFFF). -/
structure Shadow where
  value : W64 := 0
  dom   : Nat := 0
  at_   : Option Nat := none
  deriving DecidableEq, Repr

/-- HP_INT_CAUSE and HP_INT_MASKk (Tables 5-13, 5-14). `fresh` is the set of causes raised in the
front-end cycle `freshAt`: a clearing write of that cycle leaves them set (R9). -/
structure Irq where
  cause : BitVec 13 := 0
  fresh : BitVec 13 := 0
  freshAt : BitVec 48 := 0
  mask0 : BitVec 13 := 0
  mask1 : BitVec 13 := 0
  mask2 : BitVec 13 := 0
  mask3 : BitVec 13 := 0
  deriving DecidableEq, Repr

/-- One function of Table 2-5 (Table 2-6). `latched` is an enable stored in RETAIN (R30). -/
structure Fn where
  en       : Bool := false
  st       : FnState := .off
  pending  : Bool := false
  restarts : BitVec 16 := 0
  latched  : Bool := false
  deriving DecidableEq, Repr

/-- Throttling, power and device state (02, 23, 24). The four demand tables are the indices each
mechanism asks of core groups 0 to 7 (R37). -/
structure Pwr where
  fns      : Tab Fn := []
  dev      : DevState := .boot
  retain   : Bool := false
  /-- The 200 microseconds of the exit from RETAIN are running (Table 2-4). -/
  waking   : Bool := false
  mgmtRestarts : BitVec 16 := 0
  mgmtRestarting : Bool := false
  gen      : Byte := 0
  tripWarn : Bool := false
  /-- Management-domain cycle in which trip_warn was last set (R9). -/
  tripAt   : BitVec 48 := 0
  steps    : Tab Nat := []
  dLoop    : Tab Nat := []
  dTherm   : Tab Nat := []
  dCur     : Tab Nat := []
  dHold    : Tab Nat := []
  currentOn : Bool := false
  hot      : List Nat := []
  hostLim  : Byte := 0xFF
  samples  : List Nat := []
  vStep    : Nat := 4
  vNext    : Option Nat := none
  vCause   : Nat := 0
  sramMv   : Nat := 750
  /-- IOUT_OC_WARN_LIMIT of the core rail's regulator in A, written at configuration (24). -/
  ocWarn   : Nat := 0
  deriving DecidableEq, Repr

/-- A segment descriptor in force (Table 6-3). -/
structure Seg where
  valid  : Bool
  base   : Nat
  limit  : Nat
  policy : Nat
  arena  : Bool
  ex     : Bool
  wr     : Bool
  rd     : Bool
  deriving DecidableEq, Repr

/-- An error record (Table 22-4). -/
structure ErrRec where
  ts     : W64 := 0
  addr   : BitVec 40 := 0
  info   : W32 := 0
  seq    : W32 := 0
  idx    : Nat := 0
  ctx    : Option Nat := none
  resv   : Bool := false
  cls    : Nat := 0
  code   : Nat := 0
  status : Nat := 0
  unit   : Nat := 0
  inst   : Nat := 0
  reps   : Nat := 1
  deriving DecidableEq, Repr

/-- A context table entry (06). -/
structure Ctx where
  st      : CtxState := .free
  errIdx  : BitVec 16 := 0xFFFF
  cause   : Nat := 0
  step    : Nat := 0
  part    : Nat := 0
  prio    : Nat := 0
  segs    : List Seg := []
  gen     : Nat := 0
  orphans : W32 := 0
  reserve : List Nat := []
  heldErr : Option ErrRec := none
  deriving DecidableEq, Repr

/-- A `_STAT` register of the busy and tag kind (R107): result, tag, busy. -/
structure CmdStat where
  result : Result := .ok
  tag    : Nat := 0
  busy   : Bool := false
  /-- The register's further field: done, mon, entry, progress or grant ID. -/
  extra  : Nat := 0
  deriving DecidableEq, Repr

/-- A holder other than the owner, with its two rights (read/write or wait/signal). -/
structure Holder where
  ctx : Nat
  r0  : Bool
  r1  : Bool
  deriving DecidableEq, Repr

/-- A memory object (R110 to R114). `remote` marks a proxy of another chip's object (R397). -/
structure Obj where
  st       : ObjState := .free
  gen      : Nat := 0
  owner    : Nat := 0
  ownerHolds : Bool := false
  base     : Nat := 0
  len      : Nat := 0
  rd       : Bool := false
  wr       : Bool := false
  ex       : Bool := false
  policy   : Nat := 0
  importers : List Holder := []
  refs     : Nat := 0
  remote   : Option Nat := none
  deriving DecidableEq, Repr

/-- A fence (R118, R119). `remote` marks a proxy of another chip's fence (R400), whose owner has only
the rights its grant names: `own0` to wait, `own1` to signal. -/
structure Fence where
  st       : FenceState := .free
  own0     : Bool := true
  own1     : Bool := true
  val      : W64 := 0
  err      : Bool := false
  /-- Front-end cycle of the last signal, and whether a signal of that cycle carried an error (R14). -/
  sigAt    : Option (BitVec 48) := none
  sigErr   : Bool := false
  abandoned : Bool := false
  owner    : Nat := 0
  ownerHolds : Bool := false
  /-- The owner context has been torn down: its number owns the fence no more (R122, R124). -/
  ownerGone : Bool := false
  importers : List Holder := []
  refs     : Nat := 0
  remote   : Option Nat := none
  deriving DecidableEq, Repr

/-- A queue (07). `dTail` and `dHead` are the latest doorbell values (R95). -/
structure Queue where
  st      : QState := .free
  ctx     : Nat := 0
  sqOff   : Nat := 0
  sqLog   : Nat := 0
  cqOff   : Nat := 0
  cqLog   : Nat := 0
  pin     : Bool := false
  cqInt   : Bool := false
  head    : W32 := 0
  tail    : W32 := 0
  cqHead  : W32 := 0
  recs    : W32 := 0
  resv    : Nat := 0
  latch   : Bool := false
  dTail   : W32 := 0
  dHead   : W32 := 0
  latchOrd : Nat := 0
  stopped : Bool := false
  deriving DecidableEq, Repr

/-- A hardware slot (R97, R132). `next` is a pinned queue waiting for the handover. -/
structure Slot where
  queue   : Option Nat := none
  st      : SlotState := .idle
  idleOrd : Nat := 0
  next    : Option Nat := none
  /-- A Trade processor serves the slot (central mode, R134). -/
  served  : Bool := false
  deriving DecidableEq, Repr

/-- A range an instance or command may access, with its rights (R106). -/
structure Range where
  base : Nat
  len  : Nat
  rd   : Bool
  wr   : Bool
  ex   : Bool
  deriving DecidableEq, Repr

/-- A fetched command (R133, R137). -/
structure Cmd where
  queue   : Nat
  ctx     : Nat
  desc    : BitVec 512
  /-- Fetch order. -/
  ord     : Nat
  /-- Front-end count at the fetch (S of R151). -/
  s       : BitVec 48
  objs    : List Nat := []
  fences  : List Nat := []
  ranges  : List Range := []
  pvals   : List W64 := []
  /-- Offsets, in 8-byte units, that FENCE patches of this launch write (R144). -/
  fencePatched : List Nat := []
  /-- Offsets that HANDLE patches of this launch write (R301). -/
  handlePatched : List Nat := []
  /-- Resolution is held for a registration in progress (R440). -/
  unresolved : Bool := false
  started : Bool := false
  /-- The context held sig_fence with signal rights at the fetch (R121, R137). -/
  sig     : Bool := false
  /-- Registration of the graph it resolved to (R440). -/
  graph   : Option Nat := none
  /-- Slot that fetched it (R134). -/
  slot    : Nat := 0
  /-- Normalised time since the fetch in sixteenths of a TCLK and the count it was last brought up to
  (R162). -/
  norm    : Nat := 0
  normAt  : BitVec 48 := 0
  deriving DecidableEq, Repr

/-- Arming of a graph (R147). -/
structure Arm where
  queue   : Nat
  desc    : BitVec 512
  trig    : Nat
  first   : W64
  step    : W32
  /-- The next trigger value; a number above every fence value when no multiple is left. -/
  target  : Nat
  /-- The context held sig_fence with signal rights at the fetch of the ARM_GRAPH (R121, R137). -/
  sig     : Bool := false
  deriving DecidableEq, Repr

/-- A registered graph (R139 to R141). Tables are kept as the image's own words. -/
structure Graph where
  ctx      : Nat
  gid      : Nat
  imgObj   : Nat
  imgBase  : Nat
  paramOff : Nat
  paramLen : Nat
  nodes    : List (BitVec 512)
  edges    : List (BitVec 16)
  patches  : List W64
  /-- Code headers of the KERNEL nodes, by node index. -/
  hdrs     : Tab (BitVec 512)
  objs     : List Nat
  fences   : List Nat
  ranges   : List Range
  arm      : Option Arm
  /-- Number of the registration: the fetch order of its REGISTER_GRAPH (R440). -/
  reg      : Nat := 0
  /-- Directory record (R141): its place, the first 64 roots, and the first 128 bytes of code at the entry
  of each of the first two KERNEL roots. -/
  dir      : Nat := 0
  roots    : List Nat := []
  code     : List (Nat × List Byte) := []
  deriving DecidableEq, Repr

/-- A node of an instance (R143). -/
structure NodeRt where
  ctr    : Nat
  st     : NodeState
  /-- Workgroups placed and ended. -/
  placed : Nat := 0
  ended  : Nat := 0
  /-- Cores that have held a workgroup of the node (R287). -/
  cores  : List Nat := []
  /-- Front-end count at which it started: its first workgroup waits for a place from here (R152). -/
  since  : BitVec 48 := 0
  /-- Argument record of a COMPRESS node, as it was read (R364). -/
  arg    : BitVec 256 := 0
  deriving DecidableEq, Repr

/-- A launch, from its start to its end (R142 to R145). -/
structure Inst where
  ctx      : Nat
  gid      : Nat
  /-- Keys of the graph it runs and of the graph it was launched of (R142, R146, R164). -/
  key      : Nat
  home     : Nat
  part     : Nat
  queue    : Nat
  /-- Descriptor of the launch or of the arming. -/
  desc     : BitVec 512
  /-- The command, for a LAUNCH_GRAPH; none for a triggered launch. -/
  cmd      : Option Nat
  /-- Trigger value of a triggered launch. -/
  trig     : Option W64
  s        : BitVec 48
  rank     : Nat
  /-- Holds a walker place. -/
  placed   : Bool
  /-- Roots released. -/
  released : Bool
  nodes    : Tab NodeRt
  ranges   : List Range
  fencePatched : List Nat
  handlePatched : List Nat
  /-- The launch signals its sig_fence: the right was held at its fetch (R121). -/
  sig      : Bool := false
  fail     : Option (Status × Nat)
  /-- Gale monitor and whether this instance is the fallback (R164). -/
  mon      : Option Nat
  isFb     : Bool
  /-- Normalised time in sixteenths of a TCLK and the count it was last brought up to (R162). -/
  norm     : Nat
  normAt   : BitVec 48
  /-- Sequence entries a BUILD of this instance took, with the work-list handle (R169, R171), in list
  order. -/
  built    : List (Nat × Nat)
  deriving DecidableEq, Repr

/-- Staged store entry of a commit-form workgroup (R214), as it lies in the staged-write area. -/
structure Staged where
  addr : Nat
  mask : BitVec 16
  data : List Byte
  deriving DecidableEq, Repr

/-- Barrier phase machine (Table 13-3). -/
structure Barrier where
  n     : Nat := 0
  sense : Bool := false
  /-- Counters the last arrival would realign (R269). -/
  ctrs  : List Nat := []
  deriving DecidableEq, Repr

/-- Where a workgroup is in its life (R153, R157, R192): a killed one waits to be re-run, an ended
one keeps its local store and counters for its cluster. -/
inductive WgState where
  | placed | stopping | saved | killed | ended
  deriving DecidableEq, Repr

/-- A watch record at its home (Table 13-1): slice of core `home`, or the hub when none. -/
structure Watch where
  home    : Option Nat
  ctr     : Nat
  sp      : SplitRef
  cmp     : Nat
  target  : W32
  consume : Bool
  wg      : Nat
  deriving DecidableEq, Repr

/-- A placed, stopping or saved workgroup (R173, R197). -/
structure Wg where
  inst     : Nat
  node     : Nat
  idx      : Nat
  ctx      : Nat
  part     : Nat
  core     : Nat
  /-- First workgroup index of the cluster, cluster size and own rank (R190). -/
  cluster  : Nat
  csize    : Nat
  rank     : Nat
  groups   : Nat
  /-- First byte and length of the code a PC may name (R200), and the first PC. -/
  entry    : Nat
  codeLen  : Nat
  start    : BitVec 24
  vregs    : Nat
  nAcc     : Nat
  lullCtrs : Nat
  ctrBase  : Nat
  lsKib    : Nat
  lsBase   : Nat
  stageKib : Nat
  commitForm : Bool
  nosplit  : Bool
  ord      : Nat
  kills    : Nat
  st       : WgState
  /-- Threads that have ended. -/
  exited   : Nat
  bar      : Barrier
  cbar     : Barrier
  /-- Threads that have executed `commit`, and whether writing has begun or ended. -/
  commits  : Nat
  writing  : Bool
  committed : Bool
  /-- Entries in the staged-write area at the top of its local store (R197, R214). -/
  staged   : Nat
  paramBase : Nat
  argOff   : Nat
  ras      : Option RasSetup
  /-- Helper lanes of a fragment group, whose outputs are discarded (R310). -/
  helpers  : W32 := 0
  /-- Threads that have arrived for a hub barrier whose arrival is not yet sent, and its counter
  (R267). -/
  hubN     : Nat
  hubAt    : Nat
  /-- Hub counters the last of those threads would realign (R269). -/
  hubCtrs  : List Nat := []
  /-- Saved counters and watches while saved (R265). -/
  savedCtrs : List W32
  savedLs  : List Byte
  savedWatches : List Watch
  /-- Device-physical base and length of the code object, h0 of its node (R172, R200). -/
  codeBase : Nat
  codeObj  : Nat
  /-- Front-end count at which it was killed or saved: it waits for a place from here (R152). -/
  since    : BitVec 48 := 0
  deriving DecidableEq, Repr

/-- A mask stack entry (Table 9-4). `below` is the place, 1 to 16, of the next entry of the view, 0
for none. -/
structure MaskEnt where
  isSplit : Bool
  owner   : Nat
  rpc     : BitVec 24
  alt     : BitVec 24
  mask    : W32
  below   : Nat
  deriving DecidableEq, Repr

/-- A split record (Table 9-5). `why` says what a STALLED, GATED or SYNC_WAIT split waits on. -/
inductive Why where
  | none
  | result | msync (mask : Byte) (upto : Nat) (clearPartial : Bool)
  | unit | allocResult (d : Nat) | copyPlace | splitPlace | watchPlace | mmaPlace | tracePlace | missPlace
  | loadWait (id : Nat)
  /-- `kind` 0 is the workgroup barrier, 1 the cluster's, 2 + i that of hub counter i. -/
  | eddyOff | callback | barrier (kind : Nat) (sense : Bool) | commitWait | orderWait
  deriving DecidableEq, Repr

/-- A split record (Table 9-5). -/
structure Split where
  st     : SplitState
  why    : Why := .none
  pin    : Bool := false
  rot    : Bool := false
  /-- Callback trace in flight (R327). -/
  cb     : Option Nat := none
  /-- Stack place of its set's SPLIT entry, 0 for none, and of the top entry of its view. -/
  level  : Nat := 0
  top    : Nat := 0
  origin : Nat := 0
  rpc    : BitVec 24 := 0xFFFFFF
  pc     : BitVec 24
  mask   : W32
  /-- Core-group count when it entered READY or last issued (R185). -/
  readyAt : BitVec 48 := 0
  deriving DecidableEq, Repr

/-- A group with its registers and state block (R172 to R178, R196). A vector register or
accumulator never written reads 0, or a free value where the storage kept an earlier workgroup's
contents of the same context (`seed`, R115). -/
structure Group where
  wg      : Nat
  gidx    : Nat
  sreg    : Tab W32 := []
  preg    : Tab W32 := []
  vreg    : Tab W32 := []
  acc     : Tab W32 := []
  /-- Mask stack entries in use, by place 1 to 16. -/
  stack   : Tab MaskEnt := []
  splits  : Tab Split := []
  /-- CCLKs delivered when the no-progress counter was last reset; in a saved group, this and its splits'
  `readyAt` are how long ago that was (R153, R185). -/
  nprogAt : BitVec 48 := 0
  part_   : Bool := false
  /-- Accumulators that hold INT32 rather than FP32 (R218; log 28). -/
  accInt  : Byte := 0
  nosplit : Bool := false
  exited  : W32 := 0
  seed    : Option Nat := none
  deriving DecidableEq, Repr

/-- An L1 data line (R285). -/
structure L1Line where
  tag  : Nat
  data : List Byte
  deriving DecidableEq, Repr

/-- What a core partition issued last: a split, or a pack of splits of one workgroup at one pc (R181). -/
structure Issued where
  /-- place·4 + sid of the split, the last one of a pack. -/
  split  : Nat
  wg     : Nat
  pc     : BitVec 24
  /-- Places of the groups in the pack, and the lanes of its members together. -/
  places : List Nat
  lanes  : W32
  /-- The instruction may be issued as a pack. -/
  packs  : Bool
  deriving DecidableEq, Repr

/-- A core's storage besides its groups (R172). -/
structure Core where
  /-- Context that last used the registers and panels of each group place, by core partition·16 + place,
  since they were zeroed (R115, R153). -/
  users   : Tab Nat := []
  /-- Context that last used each 1 KiB block of local store (R115). -/
  lsOwner : Tab Nat := []
  ls      : List Host.Cell := []
  ctrs    : Tab W32 := []
  /-- Counters holding an addition made outside the core (R287). -/
  ctrOut  : List Nat := []
  l1      : Tab L1Line := []
  l1i     : Tab L1Line := []
  /-- Promoted splits of each core partition, oldest first: (cpart·16+place)·4+sid (R184). -/
  promoted : List Nat := []
  /-- Last issue of each core partition (R181, R184). -/
  issued  : Tab Issued := []
  /-- Workgroups a pre-emption has stopped at once, and the direct victims of the same pre-emption that must
  stop before their place is free (R155). -/
  held    : List (Wg × List Nat) := []
  deriving DecidableEq, Repr

/-- A register destination. -/
inductive RegId where
  | s (n : Nat) | v (n lane : Nat) | p (n : Nat) | acc (a row col : Nat)
  deriving DecidableEq, Repr

/-- An `amov` that waits for the earlier matrix instructions to its accumulator (R207, R218): it reads
the accumulator once those numbered up to `upto` have completed. -/
structure AmovRef where
  upto  : Nat
  acc   : Nat
  fmt   : Nat
  rm    : Nat
  lanes : W32
  d     : Nat
  deriving DecidableEq, Repr

/-- A load, atomic or amov whose result is not yet written (R203). -/
structure OutLoad where
  grp     : Nat
  sid     : Nat
  writes  : List (RegId × W32)
  acquire : Bool
  wg      : Nat
  /-- It is an `amov`, which accesses no memory. -/
  move    : Bool
  /-- 128-byte lines it missed in the L1 (R172, R281). -/
  lines   : List Nat := []
  /-- Lanes of the split that issued it (R286). -/
  lanes   : W32 := 0
  amov    : Option AmovRef := none
  deriving DecidableEq, Repr

/-- An issued matrix instruction (R206, R207, R224): operands as gathered. -/
structure Mma where
  id     : Nat
  grp    : Nat
  acc    : Nat
  live   : BitVec 16
  desc   : BitVec 64
  rm     : Nat
  a      : List Nat
  b      : List Nat
  sa     : List Nat
  sb     : List Nat
  wg     : Nat
  deriving DecidableEq, Repr

/-- A copy of the copy engine (R193, R194) or a kept copy (R221): destinations still to land. -/
structure Copy where
  wg     : Nat
  core   : Nat
  kept   : Bool
  src    : Nat
  srcStride : Int
  dst    : Nat
  dstStride : Nat
  rowBytes : Nat
  rows   : Nat
  /-- Destination ranks not yet landed. -/
  ranks  : List Nat
  ctr    : Nat
  /-- The rows of a kept copy, as the operand fetcher gave them to the engine (R221). -/
  data   : List (List Byte) := []
  deriving DecidableEq, Repr

/-- A wake or release message under way (R263, R287). -/
structure WakeMsg where
  sp    : SplitRef
  flash : Bool
  deriving DecidableEq, Repr

/-- A hub counter (R258, R266, R272). -/
structure Hub where
  owner  : Option Nat := none
  count  : W32 := 0
  parts  : Nat := 0
  n      : Nat := 0
  sense  : Bool := false
  ring   : Bool := false
  joined : Bool := false
  deriving DecidableEq, Repr

/-- An allocator request (R116): from a split, or from a node. -/
inductive AllocReq where
  | split (sp : SplitRef) (ctx size d : Nat)
  | node (inst node ctx cls off : Nat)
  deriving DecidableEq, Repr

/-- An L2 line (R288). -/
structure L2Line where
  tag   : Nat
  dirty : Bool
  data  : List Byte
  deriving DecidableEq, Repr

/-- A line of a slice's write-combining buffer: the bytes streaming writes have put there (R283). -/
structure WcLine where
  addr  : Nat
  data  : List (Option Byte)
  deriving DecidableEq, Repr

/-- A line of a controller's MAC cache (R296). -/
structure MacTag where
  tag   : Nat
  dirty : Bool
  deriving DecidableEq, Repr

/-- Memory keys of an encrypted partition (R295). -/
structure MemKeys where
  x1  : BitVec 256
  x2  : BitVec 256
  mac : BitVec 256
  deriving DecidableEq, Repr

/-- A stride stream (R289). -/
structure Stride where
  core  : Nat
  place : Nat
  pc    : BitVec 24
  last  : Nat
  delta : Int
  hits  : Nat
  /-- Line last prefetched. -/
  pf    : Nat
  deriving DecidableEq, Repr

/-- MEM_PF_CTL_p (Table 14-5). -/
structure PfCtl where
  dist   : BitVec 5 := 4
  l1Only : Bool := false
  en     : Bool := true
  deriving DecidableEq, Repr

/-- A running maintenance operation (R290 to R292): the L2 lines (place and tag) present at its start, the L1
sets and the L1s it acts on. -/
structure MaintOp where
  clean    : Bool
  discard  : Bool
  lines    : List (Nat × Nat)
  l1       : List (Nat × Bool × Nat)
  flash    : List Nat
  deriving DecidableEq, Repr

/-- A fragment group of a tile, from its placement until its samples are merged in submission order
(R310 to R315). -/
structure Merge where
  wg     : Nat
  setup  : RasSetup
  /-- Its threads have ended. -/
  done   : Bool := false
  /-- Covered samples of each lane, none of a helper; those that survive once the depth and stencil test
  has been made. -/
  cover  : Tab Byte
  tested : Bool := false
  /-- Colours by lane·16 + attachment·4 + channel. -/
  out    : Tab W32 := []
  killed : W32 := 0
  /-- Lanes that have executed `oexit`. -/
  exited : W32 := 0
  deriving DecidableEq, Repr

/-- A triangle a pass has binned: its place in the draw list, and its corners on the screen (R302, R303). -/
structure TriRec where
  draw : Nat
  inst : Nat
  tri  : Nat
  /-- Keys of its vertices' results. -/
  keys : List Nat
  poly : List (Int × Int)
  deriving DecidableEq, Repr

/-- A rendering pass (R299 to R311). -/
structure Pass where
  part    : Nat
  st      : PassState
  inst    : Nat
  node    : Nat
  ctx     : Nat
  /-- Pass descriptor (Table 15-2), and the bases of the objects its records name. -/
  desc    : BitVec 1024
  draws   : List (BitVec 512)
  geomAt  : Nat
  poolAt  : Nat
  /-- Chunks of the pool behind the working buffers (R305), and the TCLK a growth request waits. -/
  area    : List Nat
  wait    : Nat
  spillAt : Nat
  atts    : List Nat
  /-- Results of the vertex shader by draw, instance and vertex: position, then varyings (R303). -/
  verts   : Tab (List W32) := []
  /-- Place in the draw list of the triangle to be binned next, none after the last. -/
  pos     : Option (Nat × Nat × Nat)
  /-- Addresses of the 64 KiB chunks still free in the pool, of the next byte of the chunk being filled,
  and the bytes left there (R305). -/
  chunks  : List Nat
  fill    : Nat := 0
  left    : Nat := 0
  /-- Reserve objects in use (R307). -/
  taken   : List Nat := []
  /-- Triangles of the current batch not yet binned. -/
  todo    : List Tri := []
  /-- Triangles binned since the list area was reset, numbered in submission order. -/
  tris    : List TriRec := []
  /-- Vertices with a record in the list area, each tile's list, and its last block's address. -/
  recs    : List Nat := []
  lists   : Tab (List Nat) := []
  blocks  : Tab Nat := []
  /-- Next tile never assigned, and dropped tiles to assign again first (Table 8-2). -/
  next    : Nat := 0
  back    : List Nat := []
  /-- Tile each core owns, and tiles resolved or stored. -/
  owners  : Tab Nat := []
  finished : List Nat := []
  /-- What has been placed of each tile: triangle, quad, sample (R310). -/
  shaded  : Tab (List (Nat × Nat × Nat)) := []
  flushed : Bool := false
  /-- A grow timer that expired while the binner was yielded (R309), the order of the request, and the
  front-end count at which it was raised. -/
  expired : Bool := false
  reqAt   : Nat := 0
  asked   : BitVec 48 := 0
  /-- Working buffers: samples of attachment a of tile t at 5t + a, pixel by pixel. -/
  buf     : Tab (List W64) := []
  /-- Tiles a flush has stored in the spill object (R308). -/
  spilled : List Nat := []
  /-- Fragment groups of each core's tile, in submission order (R311). -/
  queue   : Tab (List Merge) := []
  deriving DecidableEq, Repr

/-- MEM_BIN_REQ_p (Table 15-8): the counts; ctx and pend follow from the passes that wait. -/
structure BinReq where
  waits   : BitVec 16 := 0
  flushes : Byte := 0
  deriving DecidableEq, Repr

/-- Outputs of a vertex group: position in slots 0 to 3, varying i in slot 4 + i, by lane·32 + slot. -/
structure RasOut where
  out     : Tab W32
  deriving DecidableEq, Repr

/-- An accepted or pending hit of a ray (Table 16-6). -/
structure RayBest where
  t     : W32
  u     : W32
  v     : W32
  prim  : W32
  geom  : BitVec 16
  front : Bool
  box   : Bool
  mat   : Byte
  attr  : W32
  deriving DecidableEq, Repr

/-- A callback round (R328). -/
structure Round where
  lanes  : W32
  intersect : Bool
  cands  : Tab RayBest
  retPc  : BitVec 24
  retMask : W32
  retWhy : Why
  deriving DecidableEq, Repr

/-- A trace in flight (R323 to R333). -/
structure Trace where
  grp     : Nat
  sid     : Nat
  core    : Nat
  wg      : Nat
  /-- Lanes active at issue, and those whose rays are traversed. -/
  lanes   : W32
  valid   : W32
  a       : Nat
  d       : Nat
  acoustic : Bool
  /-- Base of the hierarchy; offset of the stack area in the workgroup's allocation, its S / 8. -/
  bvh     : Nat
  stack   : Nat
  depth   : Nat
  flags   : BitVec 6
  cbAny   : BitVec 24
  cbInt   : BitVec 24
  pc      : BitVec 24
  /-- Registers v(a) on, of each lane. -/
  rays    : Tab (List W32)
  tcur    : Tab W32 := []
  best    : Tab RayBest := []
  stopped : W32 := 0
  ncb     : Tab Nat := []
  /-- Candidates already given to a callback: lane and entry. -/
  seen    : List (Nat × Nat) := []
  round   : Option Round := none
  deriving DecidableEq, Repr

/-- A layer of a pipe (Table 17-6) with what its handles resolved to. -/
structure Layer where
  desc : BitVec 512
  buf  : Option (Nat × Nat × Nat)
  pose : Option (Nat × Nat × Nat)
  /-- The warp in force (R349). -/
  warp : Option (BitVec 288)
  deriving DecidableEq, Repr

/-- A queued flip (R344, R345). -/
structure Flip where
  hdr    : BitVec 512
  layers : Tab Layer
  wb     : Option (Nat × Nat × Nat)
  fences : List Nat
  /-- Pixels, line by line, of the first frame that shows the flip, where it is written back (R350). -/
  frame  : Option (List (List Nat)) := none
  deriving DecidableEq, Repr

/-- A display pipe (17). -/
structure Pipe where
  frames  : W32 := 0
  underruns : Byte := 0
  owner   : Nat := 0
  ownEn   : Bool := false
  hpd     : Bool := false
  reproj  : Bool := false
  cache   : Bool := false
  link    : Nat := 0
  stat    : CmdStat := {}
  /-- An owner change waits for the next vblank (R337). -/
  ownPend : Bool := false
  conf    : Option (BitVec 1024) := none
  confPend : Option (BitVec 1024) := none
  cacheObj : Option (Nat × Nat × Nat) := none
  layers  : Tab Layer := []
  flips   : List Flip := []
  taken   : List Flip := []
  lutPre  : List (BitVec 12) := []
  lutPost : List (BitVec 12) := []
  lutPend : Option (List (BitVec 12) × List (BitVec 12)) := none
  /-- Layer numbers and gen values of the flatten set held in the cache (R347). -/
  flat    : List (Nat × Nat) := []
  /-- Flips whose write-back frame is being written (R350). -/
  wb      : List Flip := []
  badFrame : Bool := false
  deriving DecidableEq, Repr

/-- A frame being captured (R357, R358). -/
structure CapFrame where
  sof   : BitVec 48
  lines : Nat
  crc   : Bool
  short : Bool
  long  : Bool
  deriving DecidableEq, Repr

/-- A capture port (18). -/
structure Cap where
  stat   : CmdStat := {}
  frames : W32 := 0
  errors : Byte := 0
  owner  : Nat := 0
  /-- 0 stopped, 1 waiting for the first frame start, 2 running. -/
  run    : Nat := 0
  blk    : BitVec 256 := 0
  buf    : Option (Nat × Nat × Nat) := none
  frame  : Nat := 0
  cur    : Option CapFrame := none
  deriving DecidableEq, Repr

/-- The TDM audio port (18). -/
structure Aud where
  stat   : CmdStat := {}
  underruns : BitVec 16 := 0
  badFrames : Byte := 0
  owner  : Nat := 0
  run    : Nat := 0
  stopping : Bool := false
  blk    : BitVec 256 := 0
  inBuf  : Option (Nat × Nat × Nat) := none
  outBuf : Option (Nat × Nat × Nat) := none
  /-- Frames captured and driven since START. -/
  frames : Nat := 0
  outOn  : Bool := false
  /-- Output period whose first frame has been examined (R361). -/
  examined : Nat := 0
  /-- What AUD_DOUT last drove, one word per slot; none where high impedance. -/
  dout   : List (Option W32) := []
  deriving DecidableEq, Repr

/-- A compression engine (19). -/
structure Cmp where
  nodes  : W32 := 0
  errors : BitVec 16 := 0
  ctx    : Nat := 0
  /-- Instance and node it runs, and the destination range. -/
  run    : Option (Nat × Nat) := none
  dst    : Nat × Nat := (0, 0)
  deriving DecidableEq, Repr

/-- A set slot (R385): the seed stands for the key pair generated from it. -/
structure SetSlot where
  setId  : W32
  policy : BitVec 16
  ekHash : BitVec 384
  seed   : List Byte
  deriving DecidableEq, Repr

/-- A WEIGHT_LOAD in progress (R387): its objects, where the package and the plaintext start, the
header and the content key, the next chunk, and the slot used. -/
structure WLoad where
  ctx    : Nat
  src    : Nat
  dst    : Nat
  srcAt  : Nat
  dstAt  : Nat
  header : List Byte
  key    : List Byte
  next   : Nat
  slot   : Nat
  deriving DecidableEq, Repr

/-- Security processor state (20). -/
structure Sec where
  stat    : CmdStat := {}
  slots   : Tab SetSlot := []
  /-- Replacements and drops deferred until the running load ends (R385). -/
  deferred : List (Nat × Option SetSlot) := []
  level   : Nat := 0
  pend    : Nat := 0
  signer  : Nat := 0
  tokHash : BitVec 384 := 0
  nonce   : Option (BitVec 256) := none
  reports : W32 := 0
  load    : Option WLoad := none
  /-- CDI_0, once UDS has been read and its read path blocked (R376). -/
  cdi     : Option (List Byte) := none
  udsBlocked : Bool := false
  /-- While the security processor restarts (Table 1-3): the tick at which it is up again, and the
  commands written meanwhile, which wait in the mailbox. -/
  downUntil : Option Nat := none
  heldCmds : List (Nat × W64) := []
  /-- What the TAP last answered or granted (R388). -/
  tapOk   : Bool := false
  deriving DecidableEq, Repr

/-- An Otvas link (Table 21-3). -/
structure Link where
  replays  : BitVec 16 := 0
  retrains : Byte := 0
  peerPort : Nat := 0
  peerChip : Nat := 0
  spare    : Nat := 15
  st       : LinkState := .off
  trainedOnce : Bool := false
  deriving DecidableEq, Repr

/-- OL_RING (Table 21-4). -/
structure Ring where
  id      : W32 := 0
  reach   : Byte := 0
  standby : Byte := 0
  root    : Nat := 0
  chip    : Nat := 0
  n       : Nat := 0
  st      : RingState := .none
  deriving DecidableEq, Repr

/-- A grant of this chip toward another (R397). A revoked one lasts while COPY nodes that resolved its
proxy still run (R399). -/
structure Grant where
  revoked : Bool := false
  isFence : Bool
  index   : Nat
  octx    : Nat
  tctx    : Nat
  tchip   : Nat
  r0      : Bool
  r1      : Bool
  proxy   : Nat
  deriving DecidableEq, Repr

/-- The error and event log (22). -/
structure Log where
  /-- Held records: log slot and record, in order of acceptance. -/
  recs    : List ErrRec := []
  /-- Next ordinary slot in circular order (R410). -/
  nextOrd : Nat := 0
  overQ   : List ErrRec := []
  written : W32 := 0
  dropped : BitVec 16 := 0
  ringFull : Bool := false
  fatal   : Bool := false
  ringCfg : W32 := 0
  ringHead : W32 := 0
  ceSs    : BitVec 16 := 0
  ceDram  : BitVec 16 := 0
  ceCore  : BitVec 16 := 0
  ceOther : BitVec 16 := 0
  inject  : W32 := 0
  /-- MODEL: contexts whose entry holds a record, in order of detection (R412). -/
  heldOrd : List Nat := []
  deriving DecidableEq, Repr

/-- Firmware restarts (Table 1-3) and commands held meanwhile. -/
structure Fw where
  feReloading : Bool := false
  feHeld   : List (Nat × W64) := []
  mgmtHeld : List (Nat × Nat × W64) := []
  /-- Commands lost by the front-end fault, completed after the reload. -/
  feLost   : List Nat := []
  /-- Launches lost with them. -/
  feLostInsts : List Nat := []
  /-- Written while the management firmware restarts (R17): the host limit, and contexts whose zeroing
  has ended. -/
  limHeld  : Option Byte := none
  zeroedHeld : List Nat := []
  deriving DecidableEq, Repr

/-- A Gale monitor (R160 to R165). -/
structure Mon where
  ctx      : Nat
  gid      : Nat
  fb       : Nat
  deadline : Nat
  guard    : Nat
  win      : List Nat
  winFb    : List Nat
  misses   : BitVec 16 := 0
  fallbacks : BitVec 16 := 0
  /-- MON_REMOVE waits for a running instance (R161). -/
  removing : Bool := false
  deriving DecidableEq, Repr

/-- A sequence entry (Table 8-9). -/
structure SeqEnt where
  kvUnits  : Nat := 0
  kvBase   : Nat := 0
  kv       : W32 := 0
  seqId    : W32 := 0
  maxLen   : Nat := 0
  len      : Nat := 0
  model    : Nat := 0
  prio     : Nat := 0
  st       : SeqState := .free
  bucket   : Nat := 0
  ctx      : Nat := 0
  lastStep : BitVec 48 := 0
  pausePend : Bool := false
  deriving DecidableEq, Repr

/-- Lull, matrix, copy and load traffic under way. -/
structure Fly where
  loads   : Tab OutLoad := []
  mmas    : Tab (List Mma) := []
  copies  : Tab Copy := []
  watches : List Watch := []
  wakes   : List WakeMsg := []
  allocs  : List AllocReq := []
  traces  : Tab Trace := []
  /-- Rays by core·64 + bucket, oldest first: trace, lane and when it entered (R331). -/
  buckets : Tab (List (Nat × Nat × BitVec 48)) := []
  ras     : Tab RasOut := []
  nextId  : Nat := 0
  deriving DecidableEq, Repr

/-- Device memory and its caches (14). -/
structure DevMem where
  dram    : List Host.Cell := []
  ss      : List Host.Cell := []
  l2      : Tab L2Line := []
  /-- Write-combining buffer of each slice, oldest line first (R283). -/
  wcb     : Tab (List WcLine) := []
  poison  : List Nat := []
  macBad  : List Nat := []
  /-- Keys by partition, and the MAC caches by channel·256 + set (R295, R296). -/
  keys    : Tab MemKeys := []
  macC    : Tab MacTag := []
  strides : Tab (List Stride) := []
  pfCtl   : Tab PfCtl := []
  stat    : CmdStat := {}
  op      : Option MaintOp := none
  deriving DecidableEq, Repr

/-- Where each round-robin arbiter stands: what it served last (R134, R150, R304). -/
structure Rr where
  /-- Partition, and slot of each partition, the Trade processors took last. -/
  part  : Nat := 7
  slot  : Tab Nat := []
  /-- Slot of each partition whose launch reached the walker last. -/
  walk  : Tab Nat := []
  /-- Partition the allocator and the binner served last. -/
  alloc : Nat := 7
  bin   : Nat := 7
  deriving DecidableEq, Repr

/-- The state of the block. -/
structure State where
  /-- MODEL: the commands waiting, first in, first out. -/
  pending : List Instr
  /-- MODEL: how many free values have been taken (log 8). -/
  free    : Nat
  pins    : Pins
  fuses   : Fuses
  clk     : Clk
  boot    : Boot
  cfg     : Cfg
  hp      : Tab Chan
  pb      : List Host.Cell
  pbPoison : List Nat
  wt      : Wt
  snaps   : Tab Snap
  shadow  : Tab Shadow
  held    : Tab (W64 × Byte)
  irq     : Irq
  pwr     : Pwr
  ctxs    : Tab Ctx
  ctxCmd  : CmdStat
  objs    : Tab Obj
  /-- Generation each allocator index last carried (R116). -/
  allocGen : Tab Nat
  fences  : Tab Fence
  queues  : Tab Queue
  feCmd   : CmdStat
  slots   : Tab Slot
  /-- MODEL: order counters of R132 and of fetches. -/
  orders  : Nat
  rr      : Rr
  cmds    : Tab Cmd
  graphs  : Tab Graph
  insts   : Tab Inst
  wgs     : Tab Wg
  mons    : Tab Mon
  gmCmd   : CmdStat
  seqs    : Tab SeqEnt
  sqCmd   : CmdStat
  groups  : Tab Group
  cores   : Tab Core
  fly     : Fly
  hub     : Tab Hub
  luCmd   : CmdStat
  mem     : DevMem
  passes  : Tab Pass
  binCmd  : CmdStat
  binReq  : Tab BinReq
  pipes   : Tab Pipe
  caps    : Tab Cap
  aud     : Aud
  cmps    : Tab Cmp
  cmpWait : List (Nat × Nat)
  sec     : Sec
  links   : Tab Link
  ring    : Ring
  olCmd   : CmdStat
  grants  : Tab Grant
  fw      : Fw
  log     : Log
  deriving DecidableEq, Repr

/-- The state right after power-on reset is released: boot stage CFG, no configuration, counters 0,
every memory zeroed before use (Table 3-2), every table empty. -/
def State.reset : State :=
  { pending := [], free := 0, pins := {}, fuses := {}, clk := {}, boot := {}, cfg := {}, hp := [],
    pb := [], pbPoison := [], wt := {}, snaps := [], shadow := [], held := [], irq := {}, pwr := {},
    ctxs := [], ctxCmd := {}, objs := [], allocGen := [], fences := [], queues := [], feCmd := {},
    slots := [], orders := 0, rr := {}, cmds := [], graphs := [], insts := [], wgs := [], mons := [],
    gmCmd := {}, seqs := [], sqCmd := {}, groups := [], cores := [], fly := {}, hub := [],
    luCmd := {}, mem := {}, passes := [], binCmd := {}, binReq := [], pipes := [], caps := [],
    aud := {}, cmps := [], cmpWait := [], sec := {}, links := [], ring := {}, olCmd := {},
    grants := [], fw := {}, log := {} }

end Sys2Proof.Machine
end

