-- ==== Sys2Proof/Machine/Tab.lean ====
section
/-! DEFINITION. Tab.lean: sparse tables, kept in strictly rising key order. -/

namespace Sys2Proof.Machine

/-- The entry at a key. -/
def tfind {α : Type} : Tab α → Nat → Option α
  | [], _ => none
  | (k, v) :: r, i => if k = i then some v else tfind r i

/-- The entry at a key, or the table's default. -/
def tget {α : Type} (t : Tab α) (i : Nat) (d : α) : α := (tfind t i).getD d

/-- Write an entry. -/
def tput {α : Type} : Tab α → Nat → α → Tab α
  | [], i, x => [(i, x)]
  | (k, v) :: r, i, x =>
    if i < k then (i, x) :: (k, v) :: r
    else if k = i then (i, x) :: r
    else (k, v) :: tput r i x

/-- Remove an entry. -/
def tdel {α : Type} (t : Tab α) (i : Nat) : Tab α := t.filter (fun e => e.1 != i)

/-- Change an entry, starting from the default where it is absent. -/
def tmod {α : Type} (t : Tab α) (i : Nat) (d : α) (f : α → α) : Tab α := tput t i (f (tget t i d))

/-- Change an entry that is present. -/
def tupd {α : Type} (t : Tab α) (i : Nat) (f : α → α) : Tab α :=
  t.map fun e => if e.1 = i then (e.1, f e.2) else e

/-- Whether a key is present. -/
def thas {α : Type} (t : Tab α) (i : Nat) : Bool := (tfind t i).isSome

/-- Keys strictly rising: the canonical form. -/
def tabWf {α : Type} : Tab α → Bool
  | [] => true
  | [_] => true
  | (a, _) :: (b, y) :: r => a < b && tabWf ((b, y) :: r)

/-- The keys whose entries satisfy a test, in order. -/
def tkeys {α : Type} (t : Tab α) (p : Nat → α → Bool) : List Nat :=
  (t.filter fun e => p e.1 e.2).map (·.1)

/-- First key in `lo .. lo + n - 1` that is absent or whose entry satisfies `p`. -/
def tfirst {α : Type} (t : Tab α) (p : α → Bool) : Nat → Nat → Option Nat
  | _, 0 => none
  | lo, n + 1 =>
    match tfind t lo with
    | none => some lo
    | some v => if p v then some lo else tfirst t p (lo + 1) n

end Sys2Proof.Machine
end

