-- ==== Sys2Proof/Machine/Clock.lean ====
section
/-! DEFINITION. Clock.lean: the 44 domain counters and timestamps (R23 to R28), and the idle tick:
with no command waiting, one tick of 1/33.6 GHz passes (log 5). -/

namespace Sys2Proof.Machine

/-- Nominal frequency of a clock domain in Hz (Tables 2-1 and 2-2). The host-port halves count
REFCLK cycles (R26); display and camera domains follow the CLOCK record. -/
def domHz (s : State) (d : Nat) : Nat :=
  if d < 16 then 1400000000
  else if d < 20 then s.cfg.dispMhz * 1000000
  else if d < 24 then s.cfg.camMhz * 1000000
  else if d = 24 then 24576000
  else if d < 33 then 1120000000
  else if d < 35 then 38400000
  else if d = 35 then 700000000
  else if d = 36 then 350000000
  else if d = 37 then 175000000
  else if d < 40 then 1120000000
  else 1000000000

/-- Ticks in a second of the model's own time. -/
def tickHz : Nat := 33600000000

/-- Count of a domain now. -/
def domCount (s : State) (d : Nat) : BitVec 48 := tget s.clk.counts d 0

/-- CCLKs delivered to a core's group: its issue cycles (R24, R184). -/
def coreNow (s : State) (core : Nat) : BitVec 48 := tget s.clk.cclk (core / 6) 0

/-- A timestamp of a domain (Table 2-3). -/
def stamp (s : State) (d : Nat) : W64 := BitVec.ofNat 64 (d <<< 48 + (domCount s d).toNat)

/-- REFCLK cycles since power-on, the unit of shadow ages (Table 5-6). -/
def refclkNow (s : State) : Nat := s.clk.now / 875

/-- One tick of one domain: its fraction grows by its frequency, and whole cycles are counted. -/
def domTick (s : State) (c : Clk) (d : Nat) : Clk :=
  let ph := tget c.phase d 0 + domHz s d
  { c with
    counts := tput c.counts d (tget c.counts d 0 + BitVec.ofNat 48 (ph / tickHz))
    phase := tput c.phase d (ph % tickHz) }

/-- One tick of a core group's delivered CCLKs: at step index i it gets 16 − i of every 16 (R24). -/
def cclkTick (s : State) (c : Clk) (g : Nat) : Clk :=
  let ph := tget c.cphase g 0 + 87500000 * (16 - tget s.pwr.steps g 0)
  { c with
    cclk := tput c.cclk g (tget c.cclk g 0 + BitVec.ofNat 48 (ph / tickHz))
    cphase := tput c.cphase g (ph % tickHz) }

/-- One tick of all 44 domains and of the CCLKs delivered. Counters keep counting while a domain is gated
(R27). -/
def clkTick (s : State) : Clk :=
  { (List.range 8).foldl (cclkTick s) ((List.range 44).foldl (domTick s) s.clk) with now := s.clk.now + 1 }

/-- What an idle step does. Nothing counts while the device is held in reset, and THERMTRIP leaves
only the REFCLK counters running (Table 2-10). -/
def idleTick (s : State) : State :=
  if s.pins.porstN && !s.pins.held && !s.pins.clocksStopped then { s with clk := clkTick s }
  else if s.pins.clocksStopped then
    { s with clk := { ([33, 34].foldl (domTick s) s.clk) with now := s.clk.now + 1 } }
  else s

end Sys2Proof.Machine
end

