-- ==== Sys2Proof/Machine/Mem.lean ====
section
/-! DEFINITION. Mem.lean: byte memories as canonical lists of cells: addresses strictly rising and
no cell equal to 0, which every unlisted byte reads as (the manual zeroes each memory before use:
Table 3-2, R115; log 9). -/

namespace Sys2Proof.Machine

/-- A byte memory. -/
abbrev Memory := List Host.Cell

/-- The byte at an address. -/
def mget : Memory → Nat → Byte
  | [], _ => 0
  | (k, v) :: r, a => if k = a then v else mget r a

/-- Write one byte, keeping the canonical form. -/
def mset : Memory → Nat → Byte → Memory
  | [], a, x => if x = 0 then [] else [(a, x)]
  | (k, v) :: r, a, x =>
    if a < k then (if x = 0 then (k, v) :: r else (a, x) :: (k, v) :: r)
    else if k = a then (if x = 0 then r else (a, x) :: r)
    else (k, v) :: mset r a x

/-- The canonical form: strictly rising from above `lo`, no zero cell. -/
def mwfFrom : Nat → Memory → Bool
  | _, [] => true
  | lo, (k, v) :: r => decide (lo ≤ k) && v != 0 && mwfFrom (k + 1) r

/-- The canonical form of a memory. -/
def Memory.wf (m : Memory) : Bool := mwfFrom 0 m

/-- `n` bytes from an address. -/
def mreads (m : Memory) (a n : Nat) : List Byte := (List.range n).map fun i => mget m (a + i)

/-- Write bytes from an address upwards. -/
def mwrites : Memory → Nat → List Byte → Memory
  | m, _, [] => m
  | m, a, b :: r => mwrites (mset m a b) (a + 1) r

/-- Write bytes, leaving those that are `none`. -/
def mwriteOpt : Memory → Nat → List (Option Byte) → Memory
  | m, _, [] => m
  | m, a, none :: r => mwriteOpt m (a + 1) r
  | m, a, some b :: r => mwriteOpt (mset m a b) (a + 1) r

/-- Write bytes, leaving those whose mask entry is set (R70). A short mask masks nothing more. -/
def mwritesMasked : Memory → Nat → List Byte → List Bool → Memory
  | m, _, [], _ => m
  | m, a, b :: r, [] => mwritesMasked (mset m a b) (a + 1) r []
  | m, a, b :: r, k :: ks => mwritesMasked (if k then m else mset m a b) (a + 1) r ks

/-- Zero a range (R115). -/
def mzero (m : Memory) (a n : Nat) : Memory := m.filter fun c => c.1 < a || a + n ≤ c.1

/-- The little-endian number in `n` bytes from an address. -/
def mnum (m : Memory) (a n : Nat) : Nat := leNat (mreads m a n)

end Sys2Proof.Machine
end

