-- ==== Sys2Proof/Machine/Ops.lean ====
section
/-! DEFINITION. Ops.lean: the named operations the commands share: status codes, interrupt causes,
the error log, partitions and the memory map, windows, the port buffer, fences. -/

namespace Sys2Proof.Machine

/-- Status code values (Table 0-6). -/
def Status.code : Status → Nat
  | .ok => 0 | .contextLost => 1 | .abandoned => 2 | .orphaned => 3 | .boundFault => 4
  | .formatFault => 5 | .preempted => 6 | .fallback => 7 | .timeout => 8

/-- Whether a completion status sets the fence's error bit (Table 6-11). -/
def Status.errBit : Status → Bool
  | .ok => false | .fallback => false
  | .contextLost => true | .abandoned => true | .orphaned => true | .boundFault => true
  | .formatFault => true | .preempted => true | .timeout => true

/-! ## When anything acts (R40, R428, Table 2-10) -/

/-- The device is out of reset and its clocks run. -/
def State.runs (s : State) : Bool := s.pins.porstN && !s.pins.held && !s.pins.clocksStopped

/-- What a command answers: its effect on a running device; in reset, or once THERMTRIP has stopped the
clocks, it meets nobody. -/
def onLive (s t : State) : Host.Outcome State Fault Refusal := .next (if s.runs then t else s)

/-! ## Interrupt causes (Table 5-13) -/

/-- Bits of HP_INT_CAUSE. -/
inductive Cause where
  | cq | orphan | hpLink | hpUe | feRestart | mgmtRestart | fnState | wtErr | errLog | fallback
  | therm | binGrow | dbDrop
  deriving DecidableEq, Repr

/-- Bit numbers of Table 5-13. -/
def Cause.bit : Cause → Nat
  | .cq => 0 | .orphan => 1 | .hpLink => 2 | .hpUe => 3 | .feRestart => 4 | .mgmtRestart => 5
  | .fnState => 6 | .wtErr => 7 | .errLog => 8 | .fallback => 9 | .therm => 10 | .binGrow => 11
  | .dbDrop => 12

/-- Causes raised in the cycle `now`. -/
def Irq.freshNow (q : Irq) (now : BitVec 48) : BitVec 13 := if q.freshAt = now then q.fresh else 0

/-- A cause stays set until the host clears it (R102). -/
def Irq.raise (q : Irq) (now : BitVec 48) (c : Cause) : Irq :=
  let m := BitVec.ofNat 13 (1 <<< c.bit)
  { q with cause := q.cause ||| m, fresh := q.freshNow now ||| m, freshAt := now }

/-- A clearing write: a cause raised in the same cycle is not lost (R9). -/
def Irq.clear (q : Irq) (now : BitVec 48) (v : BitVec 13) : Irq :=
  { q with cause := q.cause &&& (~~~v ||| q.freshNow now) }

/-- HP_INT_MASKk. -/
def Irq.mask (q : Irq) (k : Nat) : BitVec 13 :=
  match k with
  | 0 => q.mask0 | 1 => q.mask1 | 2 => q.mask2 | _ => q.mask3

/-- INTk_N is driven low: an enabled cause is set, or INT3_N is held before port readiness (R40, R54,
R102). -/
def intLow (s : State) (k : Nat) : Bool := k == 3 && s.pins.int3Hold || s.irq.cause &&& s.irq.mask k != 0

/-- Raise a cause. -/
def raise (s : State) (c : Cause) : State := { s with irq := s.irq.raise (domCount s 35) c }

/-! ## Error log (R409 to R413) -/

/-- Clock domain that stamps a unit's records (R409). Fabric records take the receiving block's
domain, which the caller's `inst` does not name: the front end's, for a flit between planes. -/
def unitDom (unit inst : Nat) : Nat :=
  match unit with
  | 0 => inst / 6
  | 1 => 8 + inst / 8
  | 2 => 25 + inst / 4
  | 3 => 25 + inst / 4
  | 4 => 33 + inst / 4
  | 5 => 33 + inst
  | 6 => 35
  | 7 => 36
  | 8 => 37
  | 9 => 16 + inst
  | 10 => 20 + inst
  | 11 => 24
  | 12 => 38 + inst
  | 13 => 40 + inst
  | 15 => 35
  | 16 => 36
  | _ => 35

/-- A record as the detecting block raises it: no seq and no idx yet (R409). -/
def mkErr (s : State) (cls code status unit inst addr info : Nat) (ctx : Option Nat) : ErrRec :=
  { ts := stamp s (unitDom unit inst), addr := BitVec.ofNat 40 addr, info := BitVec.ofNat 32 info,
    ctx := ctx, cls := cls, code := code, status := status, unit := unit, inst := inst }

/-- ERR_CE advances once for each corrected-class record raised, by unit (R413, Table 22-9). -/
def Log.countCe (l : Log) (unit : Nat) : Log :=
  match unit with
  | 0 => { l with ceCore := l.ceCore + 1 }
  | 1 => { l with ceSs := l.ceSs + 1 }
  | 2 => { l with ceDram := l.ceDram + 1 }
  | 3 => { l with ceDram := l.ceDram + 1 }
  | _ => { l with ceOther := l.ceOther + 1 }

/-- Whether a log slot holds a record. -/
def Log.used (l : Log) (i : Nat) : Bool := l.recs.any (·.idx == i)

/-- Reserved slots holding records (Table 22-6). -/
def Log.resvUsed (l : Log) : Nat := (l.recs.filter (·.resv)).length

/-- The slot a new record would take: the next ordinary slot in circular order, else for a
context-class or fatal-class record the lowest free reserved slot (R15, R410; log 20). -/
def Log.slotFor (l : Log) (cls : Nat) : Option (Nat × Bool) :=
  if !l.used l.nextOrd then some (l.nextOrd, false)
  else if 2 ≤ cls then ((List.range' 4032 64).find? (fun i => !l.used i)).map (·, true)
  else none

/-- Put a record into a slot: it takes the next seq (R409). -/
def Log.take (l : Log) (r : ErrRec) (i : Nat) (resv : Bool) : Log :=
  { l with
    recs := l.recs ++ [{ r with idx := i, resv := resv, seq := l.written + 1 }]
    written := l.written + 1
    nextOrd := if resv then l.nextOrd else (l.nextOrd + 1) % 4032 }

/-- Count one more occurrence, saturating (R412). -/
def ErrRec.again (r : ErrRec) : ErrRec := { r with reps := min (r.reps + 1) 65535 }

/-- Merge into the first waiting record that matches (R412). -/
def mergeFirst (p : ErrRec → Bool) : List ErrRec → List ErrRec
  | [] => []
  | r :: rs => if p r then r.again :: rs else r :: mergeFirst p rs

/-- A record that names the same context and is context-class. -/
def sameCtx (c : Option Nat) (r : ErrRec) : Bool := r.cls == 2 && r.ctx == c

/-- Where a context-class or fatal-class record waits when the log has no slot (R412). -/
def queueWaiting (s : State) (r : ErrRec) : State :=
  if r.cls = 3 then
    if s.log.overQ.any (·.cls == 3) then
      { s with log := { s.log with overQ := mergeFirst (·.cls == 3) s.log.overQ } }
    else { s with log := { s.log with overQ := s.log.overQ ++ [r] } }
  else if s.log.overQ.any (sameCtx r.ctx) then
    { s with log := { s.log with overQ := mergeFirst (sameCtx r.ctx) s.log.overQ } }
  else
    let c := r.ctx.getD 0
    match (tget s.ctxs c {}).heldErr with
    | some h => { s with ctxs := tmod s.ctxs c {} (fun x => { x with heldErr := some h.again }) }
    | none =>
      if (s.log.overQ.filter (·.cls == 2)).length < 31 then
        { s with log := { s.log with overQ := s.log.overQ ++ [r] } }
      else { s with ctxs := tmod s.ctxs c {} (fun x => { x with heldErr := some r })
                    log := { s.log with heldOrd := s.log.heldOrd ++ [c] } }

/-- Whether a context has a record waiting (R412). -/
def hasWaiting (s : State) (c : Option Nat) : Bool :=
  s.log.overQ.any (sameCtx c) || (match c with
    | none => false
    | some i => (tget s.ctxs i {}).heldErr.isSome)

/-- Write a record: accepted, dropped and counted, or waiting (R15, R410, R412). The cause err_log
is raised for the two uncorrected classes (Table 5-13). Where such a record only waits, the cause is
raised at its detection and not again when the log accepts it: R102 names no moment (DESIGN CHOICE,
log 50). -/
def errWrite (s : State) (r : ErrRec) : State :=
  let s := if r.cls = 1 then { s with log := s.log.countCe r.unit } else s
  let s := if 2 ≤ r.cls then raise s .errLog else s
  if r.cls = 2 && hasWaiting s r.ctx then queueWaiting s r
  else match s.log.slotFor r.cls with
    | some (i, resv) => { s with log := s.log.take r i resv }
    | none =>
      if 2 ≤ r.cls then queueWaiting s r
      else { s with log := { s.log with dropped := s.log.dropped + 1 } }

/-- err_idx of a record just written for a context: its idx, or 0xFFFE while it waits (R410). -/
def errIdxAfter (s : State) (ctx : Nat) : BitVec 16 :=
  if hasWaiting s (some ctx) then 0xFFFE
  else match (s.log.recs.filter (sameCtx (some ctx))).getLast? with
    | some r => BitVec.ofNat 16 r.idx
    | none => 0xFFFF

/-- An event-class record (Table 22-3). -/
def event (s : State) (code status unit inst addr info : Nat) (ctx : Option Nat) : State :=
  errWrite s (mkErr s 0 code status unit inst addr info ctx)

/-- SUBMIT_FAULT (Table 22-5a). -/
def submitFault (s : State) (ctx queue check detail : Nat) (st : Status) : State :=
  event s 0x0011 st.code 6 0 0 (packNat [(queue, 0), (check, 16), (detail, 20)]) (some ctx)

/-- DB_DROP: reason 0 queue not owned, 1 queue DESTROYING, 2 fence write refused (Table 22-5). -/
def dbDrop (s : State) (ctx page reason chan : Nat) : State :=
  raise (event s 0x0012 0 4 chan 0 (packNat [(page, 0), (reason, 24)]) (some ctx)) .dbDrop

/-! ## Partitions (R149, R279) -/

/-- The PARTITION record in force for an index. -/
def partRec (s : State) (p : Nat) : Option Partition := s.cfg.parts.find? (·.idx == p)

/-- Context table entry. -/
def ctxOf (s : State) (c : Nat) : Ctx := tget s.ctxs c {}

/-- Change a context table entry. -/
def modCtx (s : State) (c : Nat) (f : Ctx → Ctx) : State := { s with ctxs := tmod s.ctxs c {} f }

/-- The management plane writes a new context table entry and advances its generation: one event, so that
no reader meets contents of another generation (R13; log 46). -/
def putCtx (s : State) (c : Nat) (f : Ctx → Ctx) : State := modCtx s c (fun x => { f x with gen := x.gen + 1 })

/-- A function's state. -/
def fnOf (s : State) (n : Nat) : Fn := tget s.pwr.fns n {}

/-- Code of a function state (Table 2-6). -/
def FnState.code : FnState → Nat
  | .off => 0 | .starting => 1 | .restarting => 2 | .on => 3 | .stopping => 4

/-- Code of a boot stage (Table 3-10). -/
def Stage.code : Stage → Nat
  | .cfg => 1 | .awaitM => 2 | .verifyM => 3 | .awaitFC => 4 | .verifyF => 5 | .verifyC => 6 | .dram => 7
  | .ready => 8 | .halted => 15

/-- Whether a function is ON (Table 2-6). -/
def fnOn (s : State) (n : Nat) : Bool := (fnOf s n).st == .on

/-- Cores of a partition. -/
def partCores (p : Partition) : List Nat := setBits p.coreMask 48

/-- Whether a core belongs to a partition. -/
def coreIn (s : State) (part core : Nat) : Bool :=
  (partRec s part).any (fun p => p.coreMask.getLsbD core)

/-- The partition that owns a core. -/
def coreOwner (s : State) (core : Nat) : Option Partition :=
  s.cfg.parts.find? (fun p => p.coreMask.getLsbD core)

/-- Channels of a partition in increasing DM number (R280). -/
def partChans (p : Partition) : List Nat := setBits p.chMask 32

/-- c of R279: the smallest density among a partition's channels, in bytes. -/
def chanBytes (s : State) (p : Partition) : Nat :=
  match partChans p with
  | [] => 0
  | c :: cs => cs.foldl (fun m i => min m (s.cfg.density.getD i 0)) (s.cfg.density.getD c 0)

/-- Full capacity of a partition's DRAM range (R279). -/
def dramFull (s : State) (p : Partition) : Nat := (partChans p).length * chanBytes s p

/-- Base of a partition's DRAM range: the sum of the ranges of lower idx (R279). -/
def dramBase (s : State) (p : Partition) : Nat :=
  ((s.cfg.parts.filter (fun q => q.idx < p.idx)).map (dramFull s)).foldl (· + ·) 0

/-- Length of a partition's DRAM range: 7/8 of it under encryption (R279, R296). -/
def dramLen (s : State) (p : Partition) : Nat :=
  if p.enc then dramFull s p * 7 / 8 else dramFull s p

/-- Start of the stacked store (Table 14-1). -/
def ssStart : Nat := 0x8000000000

/-- Save slots of a partition: one per core, or none if ss_size does not exceed that (R154). -/
def saveSlots (p : Partition) : Nat :=
  let n := (partCores p).length
  if p.ssSize ≤ n then 0 else n

/-- The stacked-store range segments may use: the partition's range less its save slots (R154). -/
def ssRange (p : Partition) : Nat × Nat :=
  (ssStart + p.ssBase * 2 ^ 20, (p.ssSize - saveSlots p) * 2 ^ 20)

/-- [a, a + n) lies in [b, b + l). -/
def inside (a n b l : Nat) : Bool := b ≤ a && a + n ≤ b + l

/-- Two ranges share a byte. -/
def overlaps (a n b l : Nat) : Bool := 0 < n && 0 < l && a < b + l && b < a + n

/-- Whether a range lies wholly inside a partition's DRAM or stacked-store range (R105). -/
def inPartition (s : State) (p : Partition) (a n : Nat) : Bool :=
  inside a n (dramBase s p) (dramLen s p) || inside a n (ssRange p).1 (ssRange p).2

/-- The partition whose DRAM range holds an address. -/
def dramOwner (s : State) (a : Nat) : Option Partition :=
  s.cfg.parts.find? (fun p => inside a 1 (dramBase s p) (dramLen s p))

/-- Highest step index among the core groups of a partition (R38). -/
def partStep (s : State) (p : Nat) : Nat :=
  match partRec s p with
  | none => 0
  | some r => (partCores r).foldl (fun m c => max m (tget s.pwr.steps (c / 6) 0)) 0

/-- Whether dispatch runs: the device is not FATAL (R408), not reloading the front end (Table 1-3),
and not in RETAIN. -/
def dispatching (s : State) : Bool :=
  !s.log.fatal && !s.fw.feReloading && s.boot.stage == .ready && s.pwr.dev == .active

/-! ## Windows (R82 to R85) -/

/-- Port-buffer pages an entry takes: two per aperture page when snap is set (R84, R91). -/
def WtEntry.pbPages (e : WtEntry) : Nat := if e.snap then 2 * e.npages else e.npages

/-- The valid entry in force over an aperture page. -/
def apEntry (s : State) (page : Nat) : Option WtEntry :=
  ((s.wt.table.map (·.2)).find? (fun e => e.valid && inside page 1 e.ap e.npages))

/-- The valid entry in force over a port-buffer page. -/
def pbEntry (s : State) (page : Nat) : Option WtEntry :=
  ((s.wt.table.map (·.2)).find? (fun e => e.valid && inside page 1 e.pb e.pbPages))

/-- Whether a port-buffer page lies in a valid window of a class with snap clear, of a context if
one is named. -/
def pbPageIn (s : State) (page cls : Nat) (ctx : Option Nat) : Bool :=
  (pbEntry s page).any (fun e => e.cls == cls && !e.snap && ctx.all (· == e.ctx))

/-- Whether a port-buffer page lies in a valid WRITE window (of a context, if named). -/
def writePage (s : State) (page : Nat) (ctx : Option Nat) : Bool := pbPageIn s page 1 ctx

/-- Port-buffer byte behind an aperture byte of an entry. -/
def WtEntry.pbByte (e : WtEntry) (off : Nat) : Nat := e.pb * 4096 + (off - e.ap * 4096)

/-- Whether an aperture range lies under valid entries of a class and a context, page by page. -/
def apRangeIn (s : State) (off n cls ctx : Nat) : Bool :=
  (List.range' (off / 4096) ((off + n - 1) / 4096 - off / 4096 + 1)).all fun pg =>
    (apEntry s pg).any (fun e => e.cls == cls && e.ctx == ctx)

/-! ## Port buffer -/

/-- Port-buffer words of a byte range that are poisoned. -/
def pbBad (s : State) (off n : Nat) : List Nat :=
  s.pbPoison.filter (fun w => off < 8 * w + 8 && 8 * w < off + n)

/-- Bytes of the port buffer as stored, whatever their check bits say. -/
def pbRaw (s : State) (off n : Nat) : List Byte := mreads s.pb off n

/-- A device-side read: a poisoned word delivers zeros (R404). -/
def pbFetch (s : State) (off n : Nat) : List Byte :=
  (List.range n).map fun i => if s.pbPoison.contains ((off + i) / 8) then 0 else mget s.pb (off + i)

/-- A device-side write: words written whole lose their poison (R404). -/
def pbStore (s : State) (off : Nat) (d : List Byte) : State :=
  { s with
    pb := mwrites s.pb off d
    pbPoison := s.pbPoison.filter (fun w => !inside (8 * w) 8 off d.length) }

/-- Zero whole pages of the port buffer (R89 step 4). -/
def pbZeroPages (s : State) (ps : List Nat) : State :=
  { s with
    pb := s.pb.filter (fun c => !ps.contains (c.1 / 4096))
    pbPoison := s.pbPoison.filter (fun w => !ps.contains (w / 512)) }

/-- The number in the port-buffer block of `n` bytes at a page's start, as a device-side read. -/
def pbBlock (s : State) (page n : Nat) : Nat := leNat (pbFetch s (page * 4096) n)

/-! ## Fences (R118 to R122) -/

/-- A fence's entry. -/
def fenceOf (s : State) (f : Nat) : Fence := tget s.fences f {}

/-- Change a fence. -/
def modFence (s : State) (f : Nat) (g : Fence → Fence) : State :=
  { s with fences := tmod s.fences f {} g }

/-- The error bit a signal of cycle `now` carries together with the earlier ones of that cycle (R14). -/
def Fence.errNow (x : Fence) (now : BitVec 48) (err : Bool) : Bool :=
  err || (x.sigAt == some now && x.sigErr)

/-- A signal: it raises the value or leaves it, and sets or clears the error bit (R119); of two in one
cycle `now`, an error bit carried by either is set (R14). A proxy forwards the signal to its owner chip and
changes only by an update message (R400). -/
def Fence.signal (x : Fence) (now : BitVec 48) (v : W64) (err : Bool) : Fence :=
  match x.st with
  | .live =>
    if x.remote.isSome then x
    else
      let e := x.errNow now err
      let y := { x with sigAt := some now, sigErr := e }
      if x.val < v then { y with val := v, err := e }
      else if e then { y with err := true } else y
  | .free => x
  | .abandoned => x

/-- Signal a fence of this chip; its cycle is the front end's (log 46). -/
def fenceSignal (s : State) (f : Nat) (v : W64) (err : Bool) : State :=
  modFence s f (·.signal (domCount s 35) v err)

/-- Entering ABANDONED: value all ones, error and abandoned set, owner out of the holders (R118,
R119). -/
def Fence.abandon (x : Fence) : Fence :=
  { x with st := .abandoned, val := BitVec.allOnes 64, err := true, abandoned := true,
           ownerHolds := false }

/-- A fence is FREE once abandoned, or a proxy whose grant has ended, with no holder and no reference
(Table 6-10, R399). -/
def Fence.settle (x : Fence) : Fence :=
  if (x.st = .abandoned || (x.st = .live && x.remote.isSome)) && !x.ownerHolds && x.importers.isEmpty &&
      x.refs = 0 then {} else x

/-- Whether a context holds a fence with wait rights. -/
def fenceWait (s : State) (ctx f : Nat) : Bool :=
  let x := fenceOf s f
  x.st != .free &&
    ((x.ownerHolds && x.owner == ctx && x.own0) || x.importers.any (fun h => h.ctx == ctx && h.r0))

/-- Whether a context holds a fence with signal rights. -/
def fenceSig (s : State) (ctx f : Nat) : Bool :=
  let x := fenceOf s f
  x.st != .free &&
    ((x.ownerHolds && x.owner == ctx && x.own1) || x.importers.any (fun h => h.ctx == ctx && h.r1))

/-- Whether a context holds a fence at all. -/
def fenceHeld (s : State) (ctx f : Nat) : Bool :=
  let x := fenceOf s f
  x.st != .free && ((x.ownerHolds && x.owner == ctx) || x.importers.any (·.ctx == ctx))

/-- A wait for fence ≥ v is met (R120). -/
def fenceMet (s : State) (f : Nat) (v : W64) : Bool := v ≤ (fenceOf s f).val

/-- A command's reference on a fence (R118). -/
def fenceRef (s : State) (f : Nat) : State := modFence s f (fun x => { x with refs := x.refs + 1 })

/-- Release a reference on a fence. -/
def fenceUnref (s : State) (f : Nat) : State :=
  modFence s f (fun x => Fence.settle { x with refs := x.refs - 1 })

/-! ## Round-robin (R150) -/

/-- The next of a rising list after the one served last, from the start again when none is above it. -/
def rrNext (last : Nat) (l : List Nat) : Option Nat :=
  match l.find? (last < ·) with
  | some i => some i
  | none => l.head?

/-! ## Free values -/

/-- Take a fresh free value (log 8). -/
def takeFree (s : State) : W64 × State := (Config.freeValue s.free, { s with free := s.free + 1 })

/-- Bytes whose values the manual does not give (log 8). -/
def freeBytes (s : State) (n : Nat) : List Byte × State :=
  ((List.range n).map (fun i => (Config.freeValue (s.free + i)).setWidth 8), { s with free := s.free + n })

end Sys2Proof.Machine
end

