-- ==== Sys2Proof/Machine/DevMem.lean ====
section
/-! DEFINITION. DevMem.lean: device memory: where an address lies, the L2 and L1 caches, access
checks and zeroing (14, R106, R404). -/

namespace Sys2Proof.Machine

/-- Whether an address is in the stacked store (Table 14-1). -/
def isSs (a : Nat) : Bool := ssStart ≤ a

/-- Channel and channel-local address of a DRAM byte (R280). -/
def chanOf (s : State) (a : Nat) : Option (Nat × Nat) :=
  match dramOwner s a with
  | none => none
  | some p =>
    let o := a - dramBase s p
    let ch := partChans p
    let l := o / 256
    some (ch.getD (l % ch.length) 0, l / ch.length * 256 + o % 256)

/-- Tag of a channel-local line number m: m[24:13] (R288). -/
def l2Tag (m : Nat) : Nat := m / 8192 % 4096

/-- Set of a channel-local line number: m[12:0] XOR m[24:13] (R288). -/
def l2Set (m : Nat) : Nat := (m % 8192) ^^^ l2Tag m

/-- Key in the L2 table (slice·8192 + set) and tag of a DRAM byte (R288). -/
def l2Loc (s : State) (a : Nat) : Option (Nat × Nat) :=
  (chanOf s a).map fun (ch, cla) => (ch * 8192 + l2Set (cla / 128), l2Tag (cla / 128))

/-- Device-physical address of the line an L2 entry holds: the inverse of `l2Loc`. -/
def l2Addr (s : State) (key tag : Nat) : Option Nat :=
  let ch := key / 8192
  (s.cfg.parts.find? (fun p => p.chMask.getLsbD ch)).map fun p =>
    let cs := partChans p
    let cla := (tag * 8192 + ((key % 8192) ^^^ tag)) * 128
    dramBase s p + (cla / 256 * cs.length + cs.idxOf ch) * 256 + cla % 256

/-- The L2 line holding a DRAM byte, if present. -/
def l2Hit (s : State) (a : Nat) : Option (Nat × L2Line) :=
  match l2Loc s a with
  | none => none
  | some (k, tag) =>
    match tfind s.mem.l2 k with
    | none => none
    | some l => if l.tag = tag then some (k, l) else none

/-- The line of a slice's write-combining buffer that holds a DRAM byte's line (R283). -/
def wcLine (s : State) (a : Nat) : Option WcLine :=
  match chanOf s a with
  | none => none
  | some c => (tget s.mem.wcb c.1 []).find? (fun w => w.addr == a / 128 * 128)

/-- The newest value of a byte: the stacked store's, the L2's, one waiting in a slice's write-combining
buffer, or the DRAM's (R283, R285, R288). -/
def dmByte (s : State) (a : Nat) : Byte :=
  if isSs a then mget s.mem.ss a
  else match l2Hit s a with
    | some (_, l) => l.data.getD (a % 128) 0
    | none => ((wcLine s a).bind (fun w => w.data.getD (a % 128) none)).getD (mget s.mem.dram a)

/-- `n` bytes from an address. -/
def dmRead (s : State) (a n : Nat) : List Byte := (List.range n).map fun i => dmByte s (a + i)

/-- A little-endian number in device memory. -/
def dmNum (s : State) (a n : Nat) : Nat := leNat (dmRead s a n)

/-- Device-physical address of an offset in the protected range (Table 14-2). -/
def protAt (off : Nat) : Nat := ssStart + 176 * 2 ^ 20 + off

/-- Places of the protected range: a graph directory record, a fence table entry, a log record and a
sequence table entry (Table 14-2). -/
def dirAt (i : Nat) : Nat := protAt (7 * 2 ^ 20 + 512 * i)
def fenceAt (i : Nat) : Nat := protAt (11 * 2 ^ 20 + 32 * i)
def logAt (i : Nat) : Nat := protAt (11 * 2 ^ 20 + 2 ^ 19 + 32 * i)
def seqAt (i : Nat) : Nat := protAt (11 * 2 ^ 20 + 2 ^ 19 + 2 ^ 17 + 32 * i)

/-- First byte and size of the range of context table, object table and working state, whose layout the
manual does not give (Table 14-2). -/
def workAt : Nat × Nat := (protAt (11 * 2 ^ 20 + 3 * 2 ^ 18), 17 * 2 ^ 18)

/-- Logical slice line of a stacked-store address: k[20:6] (R282). -/
def ssLine (a : Nat) : Nat := (a - ssStart) / 128 / 64 % 32768

/-- The physical MiB of the stacked store in use, in increasing order: those the REPAIR fuse does not
mark retired (R282, Table 20-7). -/
def ssGood (s : State) : List Nat :=
  (List.range 208).filter fun u => !((s.fuses.repair.getD (384 + u / 8) 0).toNat.testBit (u % 8))

/-- Physical line, within its slice, of a stacked-store address: none where the fuse leaves fewer than
192 MiB (R282). -/
def ssPhys (s : State) (a : Nat) : Option Nat :=
  ((ssGood s)[ssLine a / 128]?).map (fun u => 128 * u + ssLine a % 128)

/-- Slice of a stacked-store address (R282). -/
def ssSlice (a : Nat) : Nat :=
  let k := (a - ssStart) / 128
  ((k % 64) ^^^ (k / 64 % 64)) ^^^ ((k / 4096 % 64) ^^^ (k / 262144 % 8))

/-- What a failing read reports: code, unit, its number, address (Tables 22-1 and 22-5). -/
structure MemFault where
  code : Nat
  unit : Nat
  inst : Nat
  addr : Nat
  deriving DecidableEq, Repr

/-- The first uncorrectable word or unmatched MAC a read of a range meets (R297, R404). A line the
L2 holds is not checked against its MAC again. -/
def dmFault (s : State) (a n : Nat) : Option MemFault :=
  match s.mem.poison.find? (fun w => overlaps w 8 a n) with
  | some w =>
    some { code := 2, addr := w, unit := if isSs w then 1 else 2,
           inst := if isSs w then ssSlice w else ((chanOf s w).map (·.1)).getD 0 }
  | none =>
    (s.mem.macBad.find? (fun l => overlaps l 64 a n && (l2Hit s l).isNone)).map fun l =>
      { code := 7, addr := l, unit := 3, inst := ((chanOf s l).map (·.1)).getD 0 }

/-! ## Encryption and integrity (R294 to R297) -/

/-- The partition with enc set whose DRAM range holds an address, with its keys. -/
def encAt (s : State) (a : Nat) : Option (Partition × MemKeys) :=
  match dramOwner s a with
  | none => none
  | some p => if p.enc then (tfind s.mem.keys p.idx).map (fun k => (p, k)) else none

/-- The ciphertext of a 64-byte line; the tweak is its address shifted right by 6 (R294). -/
def cipherOf (k : MemKeys) (l : Nat) (d : List Byte) : List Byte :=
  Config.xtsEnc k.x1 k.x2 (BitVec.ofNat 128 (l / 64)) d

/-- The MAC of a line: the first 64 bits of the CMAC over its address and its ciphertext (R294). -/
def macOf (k : MemKeys) (l : Nat) (cipher : List Byte) : List Byte :=
  (Config.cmac k.mac (natBytes l 8 ++ cipher)).take 8

/-- Channel, and channel-local address of the MAC, of a line: 7c/8 + 8l (R296). -/
def macAddr (s : State) (a : Nat) : Option (Nat × Nat) :=
  match encAt s a, chanOf s a with
  | some (p, _), some (ch, cla) => some (ch, 7 * chanBytes s p / 8 + 8 * (cla / 64))
  | _, _ => none

/-- Key (channel·256 + set) and tag of a line's MAC in its controller's cache of 256 lines (R296). -/
def macLoc (s : State) (a : Nat) : Option (Nat × Nat) :=
  (macAddr s a).map fun (ch, m) => (ch * 256 + m / 64 % 256, m / 64 / 256)

/-- Whether the MAC of a line is in its controller's cache. -/
def macCached (s : State) (a : Nat) : Bool :=
  match macLoc s a with
  | none => false
  | some (k, t) => (tfind s.mem.macC k).any (·.tag == t)

/-- DRAM traffic of a line passes the MAC cache, which a write makes dirty (R296). -/
def macTouch (s : State) (a : Nat) (wr : Bool) : State :=
  match macLoc s a with
  | none => s
  | some (k, t) =>
    let old := (tfind s.mem.macC k).any (fun m => m.tag == t && m.dirty)
    { s with mem := { s.mem with macC := tput s.mem.macC k { tag := t, dirty := wr || old } } }

/-- Write a whole 128-byte line to DRAM; its MACs are those of what is written (R294). -/
def dramPut (s : State) (a : Nat) (d : List Byte) : State :=
  macTouch { s with mem := { s.mem with
    dram := mwrites s.mem.dram a d, macBad := s.mem.macBad.filter (fun l => !inside l 64 a 128) } } a true

/-- Write bytes inside one line to DRAM, leaving those that are masked. -/
def dramMask (s : State) (a : Nat) (d : List (Option Byte)) : State :=
  macTouch { s with mem := { s.mem with dram := mwriteOpt s.mem.dram a d } } a true

/-! ## Streaming writes (R283) -/

/-- The line of an address leaves its slice's write-combining buffer for DRAM. -/
def wcFlush (s : State) (a : Nat) : State :=
  match chanOf s a, wcLine s a with
  | some (ch, _), some w =>
    dramMask { s with mem := { s.mem with
      wcb := tmod s.mem.wcb ch [] (fun l => l.filter (·.addr != w.addr)) } } w.addr w.data
  | _, _ => s

/-- First addresses of the buffered lines that satisfy a test. -/
def wcAddrs (s : State) (p : Nat → Bool) : List Nat :=
  (s.mem.wcb.flatMap (fun e => e.2.map (·.addr))).filter p

/-- A streaming write inside one line that the L2 does not hold: it joins its line in the slice's
buffer; a line that is whole is written, as is the oldest of more than 32. -/
def wcPut (s : State) (a : Nat) (d : List (Option Byte)) : State :=
  match chanOf s a with
  | none => s
  | some (ch, _) =>
    let base := a / 128 * 128
    let old := ((wcLine s a).map (·.data)).getD (List.replicate 128 none)
    let new := old.zipIdx.map fun (x, i) =>
      if a % 128 ≤ i then ((d.getD (i - a % 128) none).map some).getD x else x
    let l : List WcLine := (tget s.mem.wcb ch []).filter (·.addr != base) ++ [{ addr := base, data := new }]
    let s := { s with mem := { s.mem with wcb := tput s.mem.wcb ch l } }
    if new.all (·.isSome) then wcFlush s base
    else if 32 < l.length then wcFlush s (((l.head?).map (·.addr)).getD base)
    else s

/-- Remove an L2 entry, writing it back if dirty; a poisoned line is discarded without write-back
(R404). -/
def l2Evict (s : State) (key : Nat) : State :=
  match tfind s.mem.l2 key with
  | none => s
  | some l =>
    match l2Addr s key l.tag with
    | none => { s with mem := { s.mem with l2 := tdel s.mem.l2 key } }
    | some a =>
      let bad := s.mem.poison.any (fun w => inside w 8 a 128)
      let s := { s with mem := { s.mem with
          l2 := tdel s.mem.l2 key
          poison := s.mem.poison.filter (fun w => !inside w 8 a 128) } }
      if l.dirty && !bad then dramPut s a l.data else s

/-- Bring the line of a DRAM byte into the L2, if it is not there and its MACs match. -/
def l2Fill (s : State) (a : Nat) : State :=
  match l2Loc s a with
  | none => s
  | some (k, tag) =>
    if (l2Hit s a).isSome then s
    else
      let base := a - a % 128
      let s := wcFlush s a
      if s.mem.macBad.any (fun l => overlaps l 64 base 128) then s
      else
        let s := macTouch (l2Evict s k) base false
        { s with mem := { s.mem with
            l2 := tput s.mem.l2 k { tag := tag, dirty := false, data := mreads s.mem.dram base 128 } } }

/-- First addresses of the 128-byte lines a range touches. -/
def linesOf (a n : Nat) : List Nat :=
  if n = 0 then [] else (List.range' (a / 128) ((a + n - 1) / 128 - a / 128 + 1)).map (· * 128)

/-- The L2's part of a read: policies 0 to 2 allocate (Table 14-3); any other read of a line the L2 does
not hold goes to DRAM. -/
def dmTouch (s : State) (pol a n : Nat) : State :=
  if isSs a then s
  else if 2 < pol then (linesOf a n).foldl (fun s l => if (l2Hit s l).isSome then s else macTouch s l false) s
  else (linesOf a n).foldl l2Fill s

/-- Overwrite bytes of a line, from an offset. -/
def lineUpd (d : List Byte) (off : Nat) (new : List (Option Byte)) : List Byte :=
  (List.range d.length).map fun i =>
    if off ≤ i then
      match new[i - off]? with
      | some (some b) => b
      | _ => d.getD i 0
    else d.getD i 0


/-- A write inside one 128-byte line of DRAM under a policy (Table 14-3). -/
def dmWriteLine (s : State) (pol a : Nat) (d : List (Option Byte)) : State :=
  let s := if pol < 2 then l2Fill s a else s
  match l2Hit s a with
  | some (k, l) =>
    let through := pol == 1 || 2 < pol
    let new := lineUpd l.data (a % 128) d
    let s := { s with mem := { s.mem with
        l2 := tput s.mem.l2 k { l with data := new, dirty := !through } } }
    let base := a / 128 * 128
    if !through then s
    else if s.mem.poison.any (fun w => inside w 8 base 128) then dramMask s a d
    else dramPut s base new
  | none => if pol = 3 then wcPut s a d else dramMask (wcFlush s a) a d

/-- A DRAM write, line by line; `fuel` bounds the number of lines. -/
def dmWriteLines : Nat → State → Nat → Nat → List (Option Byte) → State
  | 0, s, _, _, _ => s
  | f + 1, s, pol, a, d =>
    match d with
    | [] => s
    | _ =>
      let n := 128 - a % 128
      dmWriteLines f (dmWriteLine s pol a (d.take n)) pol (a + n) (d.drop n)

/-- Words a write covers whole lose their poison, 64-byte lines their MAC mismatch (R404). -/
def dmHeal (s : State) (a : Nat) (d : List (Option Byte)) : State :=
  let whole (w n : Nat) : Bool :=
    inside w n a d.length && ((d.drop (w - a)).take n).all (·.isSome)
  { s with mem := { s.mem with
      poison := s.mem.poison.filter (fun w => !whole w 8)
      macBad := s.mem.macBad.filter (fun l => !whole l 64) } }

/-- Write device memory; `none` bytes are masked. -/
def dmWriteOpt (s : State) (pol a : Nat) (d : List (Option Byte)) : State :=
  let s := dmHeal s a d
  if isSs a then { s with mem := { s.mem with ss := mwriteOpt s.mem.ss a d } }
  else dmWriteLines (d.length / 128 + 2) s pol a d

/-- Write whole bytes. -/
def dmWrite (s : State) (pol a : Nat) (d : List Byte) : State := dmWriteOpt s pol a (d.map some)

/-- A partial write of a line whose MAC fails is dropped with a record (R297). -/
def macDrops (s : State) (a n : Nat) : Option MemFault :=
  (s.mem.macBad.find? (fun l => overlaps l 64 a n && !inside l 64 a n && (l2Hit s l).isNone)).map
    fun l => { code := 7, addr := l, unit := 3, inst := ((chanOf s l).map (·.1)).getD 0 }

/-- Keys of the L2 entries whose lines satisfy a test on their address. -/
def l2Keys (s : State) (p : Nat → Bool) : List Nat :=
  tkeys s.mem.l2 (fun k l => (l2Addr s k l.tag).any p)

/-- Zero a range: its L2 lines go without write-back, its words are clean again (R115, R293). A line
only partly in the range is written back first. -/
def dmZero (s : State) (a n : Nat) : State :=
  let s := (l2Keys s (fun l => overlaps l 128 a n && !inside l 128 a n)).foldl l2Evict s
  let s := (wcAddrs s (fun l => overlaps l 128 a n && !inside l 128 a n)).foldl wcFlush s
  let drop := l2Keys s (fun l => overlaps l 128 a n)
  { s with mem := { s.mem with
      wcb := s.mem.wcb.map fun e => (e.1, e.2.filter (fun w => !overlaps w.addr 128 a n))
      dram := mzero s.mem.dram a n
      ss := mzero s.mem.ss a n
      l2 := s.mem.l2.filter (fun e => !drop.contains e.1)
      poison := s.mem.poison.filter (fun w => !overlaps w 8 a n)
      macBad := s.mem.macBad.filter (fun l => !overlaps l 64 a n) } }

/-! ## L1 data cache (R285, R287) -/

/-- A core's storage. -/
def coreOf (s : State) (c : Nat) : Core := tget s.cores c { ls := [] }

/-- Change a core's storage. -/
def modCore (s : State) (c : Nat) (f : Core → Core) : State :=
  { s with cores := tmod s.cores c { ls := [] } f }

/-- The L1 line holding an address: set a[15:7], tag a[39:16]. -/
def l1Hit (c : Core) (a : Nat) : Option L1Line :=
  match tfind c.l1 (a / 128 % 512) with
  | some l => if l.tag = a / 65536 then some l else none
  | none => none

/-- A byte as a core's loads see it: a present L1 line may be stale (R285). -/
def coreByte (s : State) (core a : Nat) : Byte :=
  match l1Hit (coreOf s core) a with
  | some l => l.data.getD (a % 128) 0
  | none => dmByte s a

/-- A load's bytes. -/
def coreRead (s : State) (core a n : Nat) : List Byte :=
  (List.range n).map fun i => coreByte s core (a + i)

/-- Install the lines a load missed; uncached accesses allocate nothing (Table 14-3). -/
def l1Fill (s : State) (core pol a n : Nat) : State :=
  let s := dmTouch s pol a n
  if pol = 4 then s
  else modCore s core fun c =>
    (linesOf a n).foldl (fun c l =>
      if (l1Hit c l).isSome then c
      else { c with l1 := tput c.l1 (l / 128 % 512) { tag := l / 65536, data := dmRead s l 128 } }) c

/-- A store updates the storing core's L1 line if present and never allocates (Table 14-3). -/
def l1Store (s : State) (core a : Nat) (d : List (Option Byte)) : State :=
  modCore s core fun c =>
    (linesOf a d.length).foldl (fun c l =>
      match l1Hit c l with
      | none => c
      | some x =>
        let piece := if a ≤ l then d.drop (l - a) else d
        let y : L1Line := { x with data := lineUpd x.data (a - l) piece }
        { c with l1 := tput c.l1 (l / 128 % 512) y }) c

/-- Flash-invalidate a core's L1 data cache (R287). -/
def l1Flash (s : State) (core : Nat) : State := modCore s core (fun c => { c with l1 := [] })

/-! ## Access checks (R106) -/

/-- The valid segment of a context that holds a whole range. -/
def segFor (s : State) (ctx a n : Nat) : Option Seg :=
  (ctxOf s ctx).segs.find? (fun g => g.valid && inside a n g.base (g.limit - g.base))

/-- Write policy of an address: its own context's segment, else the owner's (R283). -/
def polAt (s : State) (ctx a : Nat) : Nat :=
  match segFor s ctx a 1 with
  | some g => g.policy
  | none =>
    match (s.ctxs.flatMap (fun e => e.2.segs)).find?
        (fun g => g.valid && inside a 1 g.base (g.limit - g.base)) with
    | some g => g.policy
    | none => 4

/-- Whether a range meets the image of a registered graph, which work may not write (R140). -/
def imageHit (s : State) (a n : Nat) : Bool :=
  s.graphs.any fun e =>
    let o := tget s.objs e.2.imgObj {}
    overlaps a n o.base o.len

/-- Right asked for. -/
inductive Right where
  | rd | wr | ex
  deriving DecidableEq, Repr

/-- Whether an access of a context, with the resolved ranges it runs on behalf of, is permitted
(R106, R140). -/
def permits (s : State) (ctx : Nat) (rs : List Range) (a n : Nat) (r : Right) : Bool :=
  let seg := (ctxOf s ctx).segs.any fun g =>
    g.valid && inside a n g.base (g.limit - g.base) &&
      (match r with | .rd => g.rd | .wr => g.wr | .ex => g.ex)
  let rng := rs.any fun g =>
    inside a n g.base g.len && (match r with | .rd => g.rd | .wr => g.wr | .ex => g.ex)
  (seg || rng) && !(r == .wr && imageHit s a n)

/-! ## Objects (R110 to R116) -/

/-- Change an object. -/
def modObj (s : State) (i : Nat) (f : Obj → Obj) : State := { s with objs := tmod s.objs i {} f }

/-- Allocator indices (R110). -/
def allocIdx (i : Nat) : Bool := 196608 ≤ i

/-- An object with no holder and no reference goes to ZEROING, or at once to FREE when it came from
an arena, whose storage is not zeroed (Table 6-8, R115). -/
def Obj.settle (i : Nat) (o : Obj) : Obj :=
  if !o.ownerHolds && o.importers.isEmpty && (o.st = .live || o.st = .retiring) then
    if o.refs = 0 then
      if allocIdx i || o.remote.isSome then { gen := o.gen } else { o with st := .zeroing }
    else { o with st := .retiring }
  else o

/-- Add a descriptor reference (R114). -/
def objRef (s : State) (i : Nat) : State := modObj s i (fun o => { o with refs := o.refs + 1 })

/-- Release a descriptor reference (R114). -/
def objUnref (s : State) (i : Nat) : State :=
  modObj s i (fun o => Obj.settle i { o with refs := o.refs - 1 })

/-- Whether a context holds an object. -/
def Obj.held (o : Obj) (ctx : Nat) : Bool := (o.ownerHolds && o.owner == ctx) || o.importers.any (·.ctx == ctx)

/-- An object that its context no longer holds leaves the context's bin reserve, once no pass uses it
(R306). -/
def reserveDrop (s : State) (ctx i : Nat) : State :=
  if (ctxOf s ctx).reserve.contains i && !(tget s.objs i {}).held ctx && !s.passes.any (·.2.taken.contains i)
  then objUnref (modCtx s ctx (fun c => { c with reserve := c.reserve.filter (· != i) })) i
  else s

/-- A holder leaves: the owner, or an importer (R111). -/
def objLeave (s : State) (i ctx : Nat) : State :=
  let s := modObj s i fun o => Obj.settle i
    { o with ownerHolds := o.ownerHolds && o.owner != ctx
             importers := o.importers.filter (·.ctx != ctx) }
  reserveDrop s ctx i

/-- The owner of a fence is torn down (R124 step 5). -/
def fenceOrphan (s : State) (f ctx : Nat) : State :=
  modFence s f fun x => if x.owner == ctx && x.st != .free then { x with ownerGone := true } else x

/-- A holder leaves a fence: an importer, or the context of a proxy (R399). -/
def fenceLeave (s : State) (f ctx : Nat) : State :=
  modFence s f fun x => Fence.settle
    { x with ownerHolds := x.ownerHolds && !(x.remote.isSome && x.owner == ctx)
             importers := x.importers.filter (·.ctx != ctx) }

/-- Rights a context holds on an object: read, write, execute. -/
def Obj.rights (o : Obj) (ctx : Nat) : Option (Bool × Bool × Bool) :=
  if o.ownerHolds && o.owner == ctx then some (o.rd, o.wr, o.ex)
  else (o.importers.find? (·.ctx == ctx)).map fun h => (h.r0, h.r1, false)

/-- What a handle resolved to. -/
structure Hit where
  idx  : Nat
  base : Nat
  len  : Nat
  rd   : Bool
  wr   : Bool
  ex   : Bool
  remote : Bool
  deriving DecidableEq, Repr

/-- Resolution of a handle with the rights named (R113). -/
def resolve (s : State) (ctx : Nat) (h : Nat) (nr nw nx : Bool) : Option Hit :=
  let i := h % 262144
  match tfind s.objs i with
  | none => none
  | some o =>
    if o.st = .live && o.gen == h / 262144 && h / 262144 != 0 && i != 0 then
      match o.rights ctx with
      | none => none
      | some (r, w, x) =>
        if (!nr || r) && (!nw || w) && (!nx || x) then
          some { idx := i, base := o.base, len := o.len, rd := r, wr := w, ex := x,
                 remote := o.remote.isSome }
        else none
    else none

/-- The range an object adds to what an instance may access (R106). -/
def Hit.range (h : Hit) : Range := { base := h.base, len := h.len, rd := h.rd, wr := h.wr, ex := h.ex }

end Sys2Proof.Machine
end

