-- ==== Sys2Proof/Machine/Ports.lean ====
section
/-! DEFINITION. Ports.lean: what the display pipes, the capture ports and the audio port do when the
context that owns them goes away (R337, R353, R355). -/

namespace Sys2Proof.Machine

/-! ## Flip header (Table 17-7) -/

def fMask (h : BitVec 512) : BitVec 16 := BitVec.ofNat 16 (bits h 79 64)
def fWbEn (h : BitVec 512) : Bool := bit h 84
def fSigEn (h : BitVec 512) : Bool := bit h 85
def fSigFence (h : BitVec 512) : Nat := bits h 99 86
def fSigVal (h : BitVec 512) : W64 := BitVec.ofNat 64 (bits h 163 100)
def fWbFence (h : BitVec 512) : Nat := bits h 447 434
def fWbVal (h : BitVec 512) : W64 := BitVec.ofNat 64 (bits h 511 448)

/-- Release what a resolved handle holds (R114). -/
def dropRef (s : State) (r : Option (Nat × Nat × Nat)) : State :=
  match r with
  | some (i, _, _) => objUnref s i
  | none => s

/-- Release a layer's references. -/
def layerRelease (s : State) (l : Layer) : State := dropRef (dropRef s l.buf) l.pose

/-- Signal a flip's sig_fence, if it has one. -/
def flipSignal (s : State) (f : Flip) (err : Bool) : State :=
  if fSigEn f.hdr then fenceSignal s (fSigFence f.hdr) (fSigVal f.hdr) err else s

/-- Discard a queued flip: its fence carries the error bit, its references go (R337). -/
def flipDiscard (s : State) (f : Flip) : State :=
  let s := flipSignal s f true
  let s := dropRef ((f.layers.map (·.2)).foldl layerRelease s) f.wb
  f.fences.foldl fenceUnref s

/-- A pipe's state. -/
def pipeOf (s : State) (n : Nat) : Pipe := tget s.pipes n {}

/-- Change a pipe. -/
def modPipe (s : State) (n : Nat) (f : Pipe → Pipe) : State := { s with pipes := tmod s.pipes n {} f }

/-- Discard the queue of a pipe. -/
def pipeFlush (s : State) (n : Nat) : State :=
  let q := (pipeOf s n).flips
  q.foldl flipDiscard (modPipe s n (fun p => { p with flips := [] }))

/-- What happens to a pipe at the vblank after its owner changed, and when it stops: every layer off,
every queued flip discarded, every reference released, identity LUTs (R337, R353). -/
def pipeClear (s : State) (n : Nat) : State :=
  let p := pipeOf s n
  let s := (p.flips ++ p.taken).foldl flipDiscard s
  let s := (p.layers.map (·.2)).foldl layerRelease s
  let s := dropRef s p.cacheObj
  let s := p.wb.foldl (fun s f => fenceUnref (dropRef s f.wb) (fWbFence f.hdr)) s
  modPipe s n fun p => { p with
    flips := [], taken := [], layers := [], cacheObj := none, wb := [], lutPre := [], lutPost := [],
    lutPend := none, flat := [], reproj := false, cache := false, ownPend := false }

/-! ## Capture and audio -/

/-- A capture port. -/
def capOf (s : State) (n : Nat) : Cap := tget s.caps n {}

/-- Change a capture port. -/
def modCap (s : State) (n : Nat) (f : Cap → Cap) : State := { s with caps := tmod s.caps n {} f }

/-- A capture port stops at once: an open frame is discarded and not signalled (R355). -/
def capHalt (s : State) (n : Nat) : State :=
  let c := capOf s n
  if c.run = 0 then s
  else modCap (dropRef s c.buf) n (fun c => { c with run := 0, buf := none, cur := none })

/-- The audio port stops now. -/
def audHalt (s : State) : State :=
  let a := s.aud
  let s := dropRef (dropRef s a.inBuf) a.outBuf
  { s with aud := { a with run := 0, stopping := false, inBuf := none, outBuf := none, dout := [] } }

/-- The audio port ends after its current frame; one that waits for FSYNC has none (R355). -/
def audStopSoon (s : State) : State :=
  if s.aud.run = 0 then s
  else if s.aud.run = 1 then audHalt s
  else { s with aud := { s.aud with stopping := true } }

/-- Pipes a context owns. -/
def ownedPipes (s : State) (ctx : Nat) : List Nat :=
  (List.range 4).filter fun n => (pipeOf s n).ownEn && (pipeOf s n).owner == ctx

/-- Capture ports a context runs. -/
def ownedCaps (s : State) (ctx : Nat) : List Nat :=
  (List.range 4).filter fun n => (capOf s n).run != 0 && (capOf s n).owner == ctx

/-! ## Weight loads (R386, R387) -/

/-- Set SEC_CMD_STAT. -/
def setSecCmd (s : State) (st : CmdStat) : State := { s with sec := { s.sec with stat := st } }

def whPolicy (h : List Byte) : Nat := blockNum h 6 2
def whSet (h : List Byte) : W32 := BitVec.ofNat 32 (blockNum h 8 4)
def whLog (h : List Byte) : Nat := blockNum h 12 4
def whPlain (h : List Byte) : Nat := blockNum h 16 8
/-- Change a slot now, or after the load that uses it (R385). -/
def slotPut (s : State) (k : Nat) (x : Option SetSlot) : State :=
  if s.sec.load.any (·.slot == k) then
    { s with sec := { s.sec with deferred := s.sec.deferred ++ [(k, x)] } }
  else
    { s with sec := { s.sec with slots := match x with
      | some x => tput s.sec.slots k x
      | none => tdel s.sec.slots k } }

/-- A load ends: deferred slot changes take effect, references go. -/
def loadFinish (s : State) (l : WLoad) (res : Result) : State :=
  let s := { s with sec := { s.sec with load := none } }
  let s := s.sec.deferred.foldl (fun s e => slotPut s e.1 e.2) { s with sec := { s.sec with deferred := [] } }
  let s := objUnref (objUnref s l.src) l.dst
  setSecCmd s { s.sec.stat with result := res, busy := false }

/-- A load that fails: every byte written so far is zeroed first (R387). -/
def loadAbort (s : State) (l : WLoad) (res : Result) : State :=
  loadFinish (dmZero s l.dstAt (min (whPlain l.header) (l.next * 2 ^ whLog l.header))) l res

/-- A load of a context that leaves ACTIVE ends STOPPED (R387). -/
def loadLeave (s : State) (ctx : Nat) : State :=
  match s.sec.load with
  | some l => if l.ctx = ctx then loadAbort s l .stopped else s
  | none => s

/-- The capture and audio ports of a context stop. -/
def portsStop (s : State) (ctx : Nat) : State :=
  let s := (ownedCaps s ctx).foldl capHalt s
  if s.aud.owner = ctx then audStopSoon s else s

/-- A context becomes LOST: queued flips are discarded, capture and audio stop (R353, R355). In FATAL
the capture ports go on signalling their fences (R408). -/
def portsLost (s : State) (ctx : Nat) : State :=
  let s := loadLeave ((ownedPipes s ctx).foldl pipeFlush s) ctx
  if s.log.fatal then s else portsStop s ctx

/-- Teardown step 1 acts on a pipe as an owner change does (R353). -/
def portsTeardown (s : State) (ctx : Nat) : State :=
  let s := (ownedPipes s ctx).foldl (fun s n => modPipe s n (fun p => { p with ownPend := true })) s
  portsStop (loadLeave s ctx) ctx

end Sys2Proof.Machine
end

