-- ==== Sys2Proof/Machine/Work.lean ====
section
/-! DEFINITION. Work.lean: completion records, the end of commands and launches, killing work, the
loss of a context and the FATAL state (R100, R101, R121, R123, R145, R408). -/

namespace Sys2Proof.Machine

/-! ## Descriptor header (Table 7-5) -/

def dOp (d : BitVec 512) : Nat := bits d 7 0
def dSerial (d : BitVec 512) : Bool := bit d 15
def dWaitTo (d : BitVec 512) : Nat := bits d 63 48
def dTag (d : BitVec 512) : Nat := bits d 95 64
def dSigEn (d : BitVec 512) : Bool := bit d 98
def dWaitEn (d : BitVec 512) : Bool := bit d 99
def dSigFence (d : BitVec 512) : Nat := bits d 113 100
def dWaitFence (d : BitVec 512) : Nat := bits d 127 114
def dWaitVal (d : BitVec 512) : W64 := BitVec.ofNat 64 (bits d 191 128)
def dSigVal (d : BitVec 512) : W64 := BitVec.ofNat 64 (bits d 255 192)
def dGid (d : BitVec 512) : Nat := bits d 263 256

/-! ## Completion records -/

/-- A queue's entry. -/
def queueOf (s : State) (q : Nat) : Queue := tget s.queues q {}

/-- Change a queue. -/
def modQueue (s : State) (q : Nat) (f : Queue → Queue) : State :=
  { s with queues := tmod s.queues q {} f }

/-- What a completion reports. -/
structure Rec where
  queue  : Nat
  tag    : Nat
  /-- Completion fence and value, when sig_en is set and the rights hold (R121). -/
  sig    : Option (Nat × W64)
  status : Status
  errIdx : BitVec 16

/-- The 32 bytes of a completion record (Table 5-11). -/
def Rec.bytes (s : State) (r : Rec) (ctx seq status orig : Nat) : List Byte :=
  natBytes (packNat
    [((r.sig.map (·.2.toNat)).getD 0, 192), ((stamp s 35).toNat, 128), (r.tag, 96), (seq, 64),
     ((r.sig.map (·.1)).getD 0, 50), (r.queue, 40), (ctx, 30), (status, 24), (orig, 20),
     (r.errIdx.toNat, 0)]) 32

/-- Aperture byte of the ring place of the queue's next record (R98, Table 7-3). -/
def Queue.nextPlace (q : Queue) : Nat := q.cqOff * 32 + 32 * (q.recs.toNat % 2 ^ q.cqLog)

/-- The COMPLETION entry of the queue's context that holds its next ring place (R101). -/
def placeEntry (s : State) (q : Queue) : Option WtEntry :=
  match apEntry s (q.nextPlace / 4096) with
  | some e => if e.cls = 3 && e.ctx = q.ctx then some e else none
  | none => none

/-- A record written into the ring: it takes the next number (R98 to R100). -/
def recInRing (s : State) (r : Rec) (q : Queue) (e : WtEntry) : State :=
  let s := pbStore s (e.pbByte q.nextPlace)
    (r.bytes s q.ctx (q.recs + 1).toNat r.status.code 0)
  let s := modQueue s r.queue (fun q => { q with recs := q.recs + 1, resv := q.resv - 1 })
  let s := match r.sig with
    | some (f, v) => fenceSignal s f v r.status.errBit
    | none => s
  if q.cqInt then raise s .cq else s

/-- A record whose ring place is gone goes to the orphan ring (R101). -/
def recOrphaned (s : State) (r : Rec) (q : Queue) : State :=
  let st : Status := if r.status = .ok || r.status = .fallback then .orphaned else r.status
  let cnt := (ctxOf s q.ctx).orphans + 1
  let base := (((ctxOf s q.ctx).segs[0]?).map (·.base)).getD 0
  let bytes := r.bytes s q.ctx (q.recs + 1).toNat st.code r.status.code
  let s := modCtx s q.ctx (fun c => { c with orphans := cnt })
  let at_ := base + 32 * ((cnt + 255).toNat % 256)
  let s := match macDrops s at_ 32 with
    | some m => errWrite s (mkErr s 2 m.code Status.contextLost.code m.unit m.inst m.addr 0 (some q.ctx))
    | none => dmWrite s (polAt s q.ctx base) at_ bytes
  let s := modQueue s r.queue (fun q => { q with resv := q.resv - 1 })
  let s := match r.sig with
    | some (f, v) => fenceSignal s f v true
    | none => s
  raise s .orphan

/-- Write a completion record: before the fence and before CQ (R100). A queue that teardown has
destroyed takes none (R124). -/
def writeRec (s : State) (r : Rec) : State :=
  let q := queueOf s r.queue
  if q.st = .free then s
  else match placeEntry s q with
  | some e => recInRing s r q e
  | none => recOrphaned s r q

/-- A DESTROYING queue with no work left is gone (R131). -/
def queueSettle (s : State) (q : Nat) : State :=
  if (queueOf s q).st = .destroying && !(s.cmds.any (·.2.queue == q)) && !(s.insts.any (·.2.queue == q))
  then { s with queues := tdel s.queues q } else s

/-- Release a command's references (R114). -/
def releaseCmd (s : State) (c : Cmd) : State :=
  c.fences.foldl fenceUnref (c.objs.foldl objUnref s)

/-- sig_fence and its value, if the descriptor signals and the right was held at the fetch (R121, R137). -/
def sigOf (held : Bool) (d : BitVec 512) (v : W64) : Option (Nat × W64) :=
  if dSigEn d && held then some (dSigFence d, v) else none

/-- A command ends: record, fence, references released (R100, R114, R121). -/
def cmdEnd (s : State) (id : Nat) (st : Status) (errIdx : BitVec 16) : State :=
  match tfind s.cmds id with
  | none => s
  | some c =>
    let s := { s with cmds := tdel s.cmds id }
    let s := writeRec s
      { queue := c.queue, tag := dTag c.desc, sig := sigOf c.sig c.desc (dSigVal c.desc),
        status := st, errIdx := errIdx }
    queueSettle (releaseCmd s c) c.queue

/-- Front-end count now. -/
def now35 (s : State) : BitVec 48 := domCount s 35

/-- A change to a monitor. -/
def modMon (s : State) (m : Nat) (f : Mon → Mon) : State := { s with mons := tupd s.mons m f }

/-- The record of a monitored launch is written later than S + D: DEADLINE_MISS (R165). -/
def monMiss (s : State) (m : Option Nat) (ctx : Nat) (sc : BitVec 48) : State :=
  match m with
  | none => s
  | some m =>
    match tfind s.mons m with
    | none => s
    | some o =>
      if o.deadline < (now35 s - sc).toNat then
        event (modMon s m (fun o => { o with misses := o.misses + 1 })) 0x0030 0 6 0 0 (m + 256) (some ctx)
      else s

/-- The monitor of a gid as primary graph. -/
def monOf (s : State) (ctx gid : Nat) : Option Nat :=
  (s.mons.find? (fun m => m.2.ctx == ctx && m.2.gid == gid)).map (·.1)

/-- A command that has no instance completes; a monitored launch that ends so counts its deadline like
any other (R165). -/
def cmdDone (s : State) (id : Nat) (st : Status) (errIdx : BitVec 16) : State :=
  match tfind s.cmds id with
  | none => s
  | some c => cmdEnd (monMiss s (if dOp c.desc = 1 then monOf s c.ctx (dGid c.desc) else none) c.ctx c.s) id st errIdx

/-- A command is discarded without a record (R124). -/
def cmdDrop (s : State) (id : Nat) : State :=
  match tfind s.cmds id with
  | none => s
  | some c =>
    let s := { s with cmds := tdel s.cmds id }
    queueSettle (releaseCmd (modQueue s c.queue (fun q => { q with resv := q.resv - 1 })) c) c.queue

/-! ## Killing work -/

/-- Reasons to stall that end when some unit, or a place in it, is free. -/
def Why.place : Why → Bool
  | .unit => true
  | .copyPlace => true
  | .watchPlace => true
  | .mmaPlace => true
  | .tracePlace => true
  | .missPlace => true
  | _ => false

/-- Splits that stall for a place try again. -/
def Group.placesFree (g : Group) : Group :=
  { g with splits := g.splits.map fun e =>
      (e.1, if e.2.st = .stalled && e.2.why.place then { e.2 with st := .ready, why := .none } else e.2) }

/-- First byte in its core's local store of a workgroup's staged-write area: the top stage_kib KiB of its
allocation (R197). -/
def Wg.stageAt (w : Wg) : Nat := (w.lsBase + w.lsKib - w.stageKib) * 1024

/-- Entry k of a workgroup's staged-write area. R214 gives its contents and no layout: address in [39:0],
byte mask in [55:40], data in [255:128] (DESIGN CHOICE, log 37). -/
def stagedEnt (c : Core) (w : Wg) (k : Nat) : Staged :=
  let d := mreads c.ls (w.stageAt + 32 * k) 32
  { addr := leNat (d.take 5), mask := BitVec.ofNat 16 (leNat ((d.drop 5).take 2)), data := d.drop 16 }

/-- The entries of a workgroup's staged-write area, in order. -/
def stagedEnts (s : State) (w : Wg) : List Staged :=
  (List.range w.staged).map (stagedEnt (coreOf s w.core) w)

/-- One staged entry reaches memory, byte by byte under its mask; a registered graph image takes none, and
none goes to a line whose MAC fails (R140, R214, R297). -/
def stagedWrite (s : State) (core ctx : Nat) (e : Staged) : State :=
  if imageHit s e.addr 16 || (macDrops s e.addr 16).isSome then s
  else
    let d := (e.data.zipIdx).map fun (b, k) => if e.mask.getLsbD k then some b else none
    l1Store (dmWriteOpt s (polAt s ctx e.addr) e.addr d) core e.addr d

/-- All staged entries of a workgroup reach memory, later over earlier (R157, R214). -/
def stagedWrites (s : State) (w : Wg) : State :=
  (stagedEnts s w).foldl (fun s e => stagedWrite s w.core w.ctx e) s

/-- A commit that has started is never interrupted: the workgroups about to be killed that are writing
finish it first (R157). -/
def commitsLand (s : State) (p : Nat → Wg → Bool) : State :=
  (s.wgs.filter (fun e => p e.1 e.2 && e.2.writing)).foldl (fun s e => stagedWrites s e.2) s

/-- Remove workgroups with their groups, splits and everything under way for them; nothing that has not
begun to commit is committed (R153, R157). -/
def killWgs (s : State) (p : Nat → Wg → Bool) : State :=
  let s := commitsLand s p
  let ids := tkeys s.wgs p
  let gs := tkeys s.groups (fun _ g => ids.contains g.wg)
  let keyOf (x : SplitRef) : Nat := (x.core * 4 + x.cpart) * 16 + x.place
  let f := s.fly
  { s with
    wgs := s.wgs.filter (fun e => !ids.contains e.1)
    groups := (s.groups.filter (fun e => !gs.contains e.1)).map (fun e => (e.1, e.2.placesFree))
    cores := s.cores.map (fun e => (e.1, { e.2 with
      promoted := e.2.promoted.filter (fun k => !gs.contains (e.1 * 64 + k / 4)) }))
    fly := { f with
      loads := f.loads.filter (fun e => !ids.contains e.2.wg)
      mmas := f.mmas.map (fun e => (e.1, e.2.filter (fun m => !ids.contains m.wg)))
      copies := f.copies.filter (fun e => !ids.contains e.2.wg)
      watches := f.watches.filter (fun w => !ids.contains w.wg)
      wakes := f.wakes.filter (fun w => !gs.contains (keyOf w.sp))
      allocs := f.allocs.filter (fun a => match a with
        | .split sp _ _ _ => !gs.contains (keyOf sp)
        | .node _ _ _ _ _ => true)
      traces := f.traces.filter (fun e => !ids.contains e.2.wg)
      ras := f.ras.filter (fun e => !gs.contains e.1) } }

/-- A pass is over: its reserve objects are no longer in use (R307, R309). -/
def passDrop (s : State) (id : Nat) : State :=
  match tfind s.passes id with
  | none => s
  | some p => p.taken.foldl (fun s i => reserveDrop s p.ctx i) { s with passes := tdel s.passes id }

/-- A compression engine whose en was written 0 while it ran enters STOPPING when its node is done
(R374). -/
def Pwr.cmpStops (p : Pwr) (l : List Nat) : Pwr :=
  { p with fns := p.fns.map fun e =>
      (e.1, if decide (20 ≤ e.1) && l.contains (e.1 - 20) && e.2.st == .on && !e.2.en then { e.2 with st := .stopping }
            else e.2) }

/-- A compression engine stops in a node: how much of the destination it had written is open (R374, log 8). -/
def cmpStop (s : State) (c : Cmp) : State :=
  let (d, s) := freeBytes s c.dst.2
  if imageHit s c.dst.1 c.dst.2 || (macDrops s c.dst.1 c.dst.2).isSome then s
  else dmWrite s (polAt s c.ctx c.dst.1) c.dst.1 d

/-- Kill every workgroup and fixed-function job of an instance. -/
def killInst (s : State) (id : Nat) : State :=
  let s := killWgs s (fun _ w => w.inst == id)
  let s := (tkeys s.passes (fun _ p => p.inst == id)).foldl passDrop s
  let s := ((s.cmps.map (·.2)).filter (fun c => c.run.any (·.1 == id))).foldl cmpStop s
  { s with
    cmpWait := s.cmpWait.filter (fun e => e.1 != id)
    cmps := s.cmps.map (fun e => (e.1, if e.2.run.any (·.1 == id) then { e.2 with run := none } else e.2))
    pwr := s.pwr.cmpStops (tkeys s.cmps (fun _ c => c.run.any (·.1 == id)))
    fly := { s.fly with allocs := s.fly.allocs.filter (fun a => match a with
      | .split _ _ _ _ => true
      | .node i _ _ _ _ => i != id) } }

/-! ## Sequence entries (R166 to R171) -/

/-- An entry goes back to FREE and its KV reference is released. -/
def seqFree (s : State) (e : Nat) : State :=
  match tfind s.seqs e with
  | none => s
  | some x => objUnref { s with seqs := tdel s.seqs e } (x.kv.toNat % 262144)

/-- An entry a BUILD took returns without RETIRE (R171). -/
def seqReturn (s : State) (e : Nat) : State :=
  match tfind s.seqs e with
  | none => s
  | some x =>
    if x.st = .leaving then seqFree s e
    else if x.st = .inStep then
      { s with seqs := tput s.seqs e { x with st := .ready, pausePend := false } }
    else s

/-! ## Gale monitor bookkeeping (R162, R165) -/

/-- Normalised time of an instance in sixteenths of a TCLK, brought up to now (R162). -/
def Inst.normNow (s : State) (x : Inst) : Nat :=
  x.norm + (now35 s - x.normAt).toNat * (16 - partStep s x.part)

/-- A new run time replaces the oldest (R162). -/
def pushWin (w : List Nat) (t : Nat) : List Nat := w.drop 1 ++ [t]

/-- Normalised time since a command's fetch (R162). -/
def Cmd.normNow (s : State) (c : Cmd) : Nat :=
  c.norm + (now35 s - c.normAt).toNat * (16 - partStep s (ctxOf s c.ctx).part)

/-- What the monitor records when a monitored launch's record is written: run times of good ends, the
FALLBACK event, and DEADLINE_MISS when it is later than S + D (R162, R165). -/
def monEnd (s : State) (x : Inst) (st : Status) : State :=
  match x.mon with
  | none => s
  | some m =>
    let t := x.normNow s / 16
    let s :=
      if x.isFb && st = .fallback then
        raise (event (modMon s m (fun o => { o with winFb := pushWin o.winFb t })) 0x0030 0 6 0 0 m
          (some x.ctx)) .fallback
      else if !x.isFb && st = .ok then modMon s m (fun o => { o with win := pushWin o.win t })
      else s
    monMiss s (some m) x.ctx x.s

/-! ## End of a launch (R145, R147) -/

/-- Remove an instance and everything it still runs. -/
def dropInst (s : State) (id : Nat) : State :=
  match tfind s.insts id with
  | none => s
  | some x =>
    let s := killInst s id
    let s := (x.built.map (·.2)).foldl seqReturn s
    { s with insts := tdel s.insts id }

/-- A monitor whose removal waited goes once none of its instances runs (R161). -/
def monSettle (s : State) (m : Option Nat) : State :=
  match m with
  | none => s
  | some i =>
    if (tfind s.mons i).any (·.removing) && !(s.insts.any (·.2.mon == some i)) then
      { s with mons := tdel s.mons i }
    else s

/-- A launch ends with a status: monitor, record, fence (R145, R147, R165). -/
def finishInst (s : State) (id : Nat) (st : Status) (errIdx : BitVec 16) : State :=
  match tfind s.insts id with
  | none => s
  | some x =>
    let st : Status := if x.isFb && st = .ok then .fallback else st
    let s := monSettle (monEnd (dropInst s id) x st) x.mon
    match x.cmd with
    | some c => cmdEnd s c st errIdx
    | none =>
      queueSettle (writeRec s
        { queue := x.queue, tag := dTag x.desc
          sig := sigOf x.sig x.desc (x.trig.getD (dSigVal x.desc))
          status := st, errIdx := errIdx }) x.queue

/-! ## Loss of a context (R123) -/

/-- End every instance of a context that satisfies a test. -/
def finishAll (s : State) (ids : List Nat) (st : Status) (errIdx : BitVec 16) : State :=
  ids.foldl (fun s i => finishInst s i st errIdx) s

/-- A context enters LOST: the faulting launch completes with its fault status, every other launch
and every fetched command with CONTEXT_LOST (R123). -/
def ctxLose (s : State) (ctx : Nat) (cause : Status) (errIdx : BitVec 16) (inst : Option Nat) : State :=
  if (ctxOf s ctx).st = .active then
    let s := modCtx s ctx (fun c => { c with st := .lost, cause := cause.code, errIdx := errIdx })
    let s := portsLost s ctx
    let s := match inst with
      | some i => finishInst s i cause errIdx
      | none => s
    let s := finishAll s (tkeys s.insts (fun _ x => x.ctx == ctx)) .contextLost errIdx
    (tkeys s.cmds (fun _ c => c.ctx == ctx)).foldl (fun s c => cmdDone s c .contextLost errIdx) s
  else s

/-- A context-class record and its outcome (R406, R407, R410). -/
def ctxError (s : State) (ctx : Nat) (r : ErrRec) (cause : Status) (inst : Option Nat) : State :=
  let s := errWrite s r
  ctxLose s ctx cause (errIdxAfter s ctx) inst

/-- CMD_FAULT of an instruction of a workgroup: a refused access or an invalid encoding (R106, R123,
Table 22-5). -/
def wgFault (s : State) (id : Nat) (st : Status) (addr : Nat) (pc : BitVec 24) : State :=
  match tfind s.wgs id with
  | none => s
  | some w =>
    let r := mkErr s 2 0x0010 st.code 0 w.core (if st = .boundFault then addr / 8 * 8 else 0) pc.toNat
      (some w.ctx)
    ctxError s w.ctx r st (some w.inst)

/-- CMD_FAULT that no instruction raised: a COPY node, a port or another fixed-function node. -/
def fixedFault (s : State) (ctx unit num : Nat) (st : Status) (addr : Nat) (inst : Option Nat) : State :=
  let r := mkErr s 2 0x0010 st.code unit num (if st = .boundFault then addr / 8 * 8 else 0) 0xFFFFFFFF
    (some ctx)
  ctxError s ctx r st inst

/-- info of an error record: the array ID of an SRAM_UE and the path ID of a PARITY record have no
numbering in the manual, and are free values (Table 22-5; log 8). -/
def faultInfo (s : State) (code : Nat) : Nat × State :=
  if code = 2 || code = 4 then
    let (v, s) := takeFree s
    (v.toNat % 2 ^ 32, s)
  else (0, s)

/-- A hardware error met on behalf of a context: the faulting command completes with CONTEXT_LOST
(R297, R403, R407). -/
def hwFault (s : State) (ctx : Nat) (m : MemFault) (inst : Option Nat) : State :=
  let (info, s) := faultInfo s m.code
  let r := mkErr s 2 m.code Status.contextLost.code m.unit m.inst m.addr info (some ctx)
  ctxError s ctx r .contextLost inst

/-- A port's or pipe's write of device memory for a context: refused under a registered image, dropped
where a line's MAC fails (R140, R297). -/
def portWrite (s : State) (ctx unit num a : Nat) (d : List Byte) : State :=
  if imageHit s a d.length then fixedFault s ctx unit num .boundFault a none
  else match macDrops s a d.length with
    | some m => hwFault s ctx m none
    | none => dmWrite s (polAt s ctx a) a d

/-- A port's or pipe's read: zeros, with a record, where the memory does not deliver (R297, R404). -/
def portRead (s : State) (ctx a n : Nat) : List Byte × State :=
  match dmFault s a n with
  | some m => (List.replicate n 0, hwFault s ctx m none)
  | none => (dmRead s a n, dmTouch s (polAt s ctx a) a n)

/-- A fatal record: dispatch stops and every context is LOST (R408). -/
def fatalError (s : State) (code unit inst addr info : Nat) : State :=
  let s := errWrite s (mkErr s 3 code 0 unit inst addr info none)
  let idx := match (s.log.recs.filter (·.cls == 3)).getLast? with
    | some r => BitVec.ofNat 16 r.idx
    | none => (0xFFFE : BitVec 16)
  let s := { s with log := { s.log with fatal := true } }
  (tkeys s.ctxs (fun _ c => c.st == .active)).foldl (fun s c => ctxLose s c .contextLost idx none) s

/-- err_idx of an event record just written, if the log took it. -/
def errIdxNew (before after : State) : BitVec 16 :=
  if before.log.written = after.log.written then 0xFFFF
  else match after.log.recs.getLast? with
    | some r => BitVec.ofNat 16 r.idx
    | none => 0xFFFF

/-- A command fails a submission check: SUBMIT_FAULT record, completion, context kept (R96, R113,
R123, Table 22-5a). -/
def cmdRefuse (s : State) (id check detail : Nat) (st : Status) : State :=
  match tfind s.cmds id with
  | none => s
  | some c =>
    let t := submitFault s c.ctx c.queue check detail st
    cmdDone t id st (errIdxNew s t)

/-! ## Throttle steps (R37, R38, R425, R426) -/

/-- The step index the mechanisms ask of a core group: the highest any of them demands (R37). -/
def demand (p : Pwr) (g : Nat) : Nat :=
  max (max (tget p.dLoop g 0) (tget p.dTherm g 0)) (max (tget p.dCur g 0) (tget p.dHold g 0))

/-- Core groups that hold a core of a partition. -/
def groupsOf (p : Partition) : List Nat := ((partCores p).map (· / 6)).dedup

/-- Powered core groups: those of a partition whose function is not OFF (R37). -/
def poweredGroups (s : State) : List Nat :=
  (List.range 8).filter fun g =>
    s.cfg.parts.any (fun p => (fnOf s p.idx).st != .off && (groupsOf p).contains g)

/-- The index a group takes: a raise at once; a powered group falls below the index the rail serves
only after the voltage wait (R426). -/
def nextStep (p : Pwr) (on : List Nat) (g : Nat) : Nat :=
  let w := demand p g
  let o := tget p.steps g 0
  if o ≤ w || p.vStep ≤ w || !on.contains g then w else o

/-- Least of a list, none when empty. -/
def least (l : List Nat) : Option Nat :=
  l.foldl (fun m x => match m with
    | none => some x
    | some y => some (min x y)) none

/-- The rail follows the steps (R425, R426): a lower demand starts a voltage write and its wait, higher
steps lower the rail at once, and with every group gated it goes to the voltage of step 4. A fall that
waits for the voltage keeps its own cause, or the lowest of the causes where several mechanisms asked for
it (R38). -/
def railFollow (on : List Nat) (cause : Nat) (p : Pwr) : Pwr :=
  match least (on.map (demand { p with dHold := [] })), least (on.map (fun g => tget p.steps g 0)) with
  | some w, some a =>
    if w < p.vStep then
      { p with vNext := some w, vCause := match p.vNext with
          | some v => if v = w then p.vCause else min p.vCause cause
          | none => cause }
    else { p with vNext := none, vStep := max p.vStep a }
  | _, _ => { p with vNext := none, vStep := 4 }

/-- Put demands into force: on a change gen advances, a THROTTLE record is written and the Gale
monitor's normalised times are brought up to now (R38, R162). `force` writes the record anyway. -/
def applySteps (s : State) (cause : Nat) (force : Bool) (p : Pwr) : State :=
  let on := poweredGroups s
  let new := ((List.range 8).map (fun g => (g, nextStep p on g))).filter (fun e => e.2 != 0)
  let changed := new != s.pwr.steps
  let now := now35 s
  let insts := if changed then s.insts.map (fun e => (e.1, { e.2 with norm := e.2.normNow s, normAt := now }))
    else s.insts
  let cmds := if changed then s.cmds.map (fun e => (e.1, { e.2 with norm := e.2.normNow s, normAt := now }))
    else s.cmds
  let p := railFollow on cause { p with steps := new, gen := if changed then p.gen + 1 else p.gen }
  let s := { s with pwr := p, insts := insts, cmds := cmds }
  if changed || force then
    let mask := (new.map (fun e => 2 ^ e.1)).foldl (· + ·) 0
    let top := new.foldl (fun m e => max m e.2) 0
    event s 0x0022 0 16 0 0 (packNat [(mask, 0), (top, 8), (cause, 12)]) none
  else s

/-! ## Command registers (R107, R30, Table 1-3) -/

/-- A management command ends RETAIN (R30). -/
def mgmtWake (s : State) : State :=
  if s.pwr.dev = .retain then { s with pwr := { s.pwr with waking := true } } else s

/-- A write to a command register of the management domain: ignored while busy (R107), it wakes the
device (R30) and waits for the firmware while it restarts (Table 1-3; log 17). Before READY no register
window is mapped (R55). `view` is 0 in the global window and the context plus 1 in a context view. -/
def mgmtCmd (s : State) (off view : Nat) (raw : W64) (st : CmdStat) (set : State → CmdStat → State)
    (run : State → State) : State :=
  if st.busy || s.boot.stage != .ready then s
  else
    let s := mgmtWake s
    if s.pwr.mgmtRestarting then
      set { s with fw := { s.fw with mgmtHeld := s.fw.mgmtHeld ++ [(off, view, raw)] } }
        { st with busy := true, tag := bits raw 3 0 }
    else run s

/-- A write to a command register of the front-end firmware: ignored while busy, and waiting while
the firmware reloads (Table 1-3; log 17). -/
def feCmd (s : State) (off : Nat) (raw : W64) (tag : Nat) (st : CmdStat)
    (set : State → CmdStat → State) (run : State → State) : State :=
  if st.busy || s.boot.stage != .ready then s
  else if s.fw.feReloading then
    set { s with fw := { s.fw with feHeld := s.fw.feHeld ++ [(off, raw)] } }
      { st with busy := true, tag := tag }
  else run s

/-- The outcome of a command that has ended (R107). -/
def done (tag : Nat) (r : Result) (extra : Nat) : CmdStat :=
  { result := r, tag := tag, busy := false, extra := extra }

/-! ## Reading a command's block -/

/-- A device-side read of a block in a window page. An uncorrectable word is delivered as zeros and
makes the page's context LOST (Table 22-2). -/
def pbTake (s : State) (off n : Nat) : List Byte × State :=
  let d := pbFetch s off n
  match pbBad s off n with
  | [] => (d, s)
  | w :: _ =>
    match pbEntry s (w / 512) with
    | none => (d, s)
    | some e =>
      let half := e.ap / 2 ^ 22
      (d, ctxError s e.ctx
        (mkErr s 2 0x0008 Status.contextLost.code 5 half (8 * w) 0 (some e.ctx)) .contextLost none)

end Sys2Proof.Machine
end

