-- ==== Sys2Proof/Machine/Contexts.lean ====
section
/-! DEFINITION. Contexts.lean: context commands, batches, teardown and zeroing (06). -/

namespace Sys2Proof.Machine

/-! ## CTX_CREATE (R104, R105) -/

/-- A segment descriptor (Table 6-3). -/
def segOf (d : Nat) : Seg :=
  let w : BitVec 128 := BitVec.ofNat 128 d
  { valid := bit w 8, base := bits w 79 40, limit := bits w 119 80, policy := bits w 15 13,
    arena := bit w 12, ex := bit w 11, wr := bit w 10, rd := bit w 9 }

/-- The segments of a creation block. -/
def blockSegs (d : List Byte) (n : Nat) : List Seg :=
  (List.range n).map fun i => segOf (leNat ((d.drop (64 + 16 * i)).take 16))

/-- Length of a segment. -/
def Seg.len (g : Seg) : Nat := g.limit - g.base

/-- No two valid segments of a list share a byte. -/
def segsApart : List Seg → Bool
  | [] => true
  | g :: r =>
    (!g.valid || r.all (fun h => !h.valid || !overlaps g.base g.len h.base h.len)) && segsApart r

/-- Whether a range is free of every segment of a context that is not FREE and of every object that
is not FREE (R105, R125). -/
def rangeFree (s : State) (a n : Nat) : Bool :=
  s.ctxs.all (fun e => e.2.st == .free ||
    e.2.segs.all (fun g => !g.valid || !overlaps a n g.base g.len)) &&
  s.objs.all (fun e => e.2.st == .free || e.2.remote.isSome || !overlaps a n e.2.base e.2.len)

/-- The checks of R105 on a block's segments; the policy of every descriptor is checked, a valid one or
not. -/
def segsOk (s : State) (p : Partition) (gs : List Seg) : Bool :=
  let v := gs.filter (·.valid)
  gs.all (fun g => decide (g.policy ≤ 4)) &&
  v.all (fun g => decide (g.base < g.limit ∧ g.base % 4096 = 0 ∧ g.limit % 4096 = 0) &&
    inPartition s p g.base g.len && rangeFree s g.base g.len) &&
  segsApart gs &&
  (match gs with
   | g :: _ => g.valid && g.rd && g.wr && decide (8192 ≤ g.len)
   | [] => false) &&
  decide ((v.filter (·.arena)).length ≤ 1)

/-- Length of the creation block in a page: its header and the descriptors it counts, 64 at most. -/
def blockLen (s : State) (page : Nat) : Nat :=
  64 + 16 * min 64 (bits (BitVec.ofNat 512 (leNat (pbFetch s (page * 4096) 64))) 23 16)

/-- CTX_CREATE: the block is copied out of its page, checked, and the context becomes ACTIVE with an
empty orphan ring (R104, R105). -/
def ctxCreateOp (s : State) (ctx page : Nat) : Result × State :=
  if !writePage s page none then (.badBlock, s)
  else
    let (d, s) := pbTake s (page * 4096) (blockLen s page)
    let h : BitVec 512 := BitVec.ofNat 512 (leNat (d.take 64))
    let n := bits h 23 16
    let gs := blockSegs d n
    match partRec s (bits h 10 8) with
    | none => (.badBlock, s)
    | some p =>
      if (ctxOf s ctx).st = .free && 1 ≤ n && n ≤ 64 && segsOk s p gs then
        let base := ((gs[0]?).map (·.base)).getD 0
        let s := dmZero s base 8192
        (.ok, putCtx s ctx fun c => { c with
          st := .active, errIdx := 0xFFFF, cause := 0, step := 0, part := p.idx,
          prio := bits h 7 4, segs := gs, orphans := 0, reserve := [] })
      else (.badBlock, s)

/-! ## CTX_BATCH (R109 to R112, R118, R122) -/

/-! Fields of a batch entry (Table 6-6). -/
def beOp (e : BitVec 256) : Nat := bits e 3 0
def beR0 (e : BitVec 256) : Bool := bit e 6
def beR1 (e : BitVec 256) : Bool := bit e 7
def beHandle (e : BitVec 256) : Nat := bits e 63 32
def beValue (e : BitVec 256) : W64 := BitVec.ofNat 64 (bits e 127 64)
def beFence (e : BitVec 256) : Nat := bits e 159 146
def beCtx2 (e : BitVec 256) : Nat := bits e 169 160
def beSeg (e : BitVec 256) : Nat := bits e 175 170
def beOff (e : BitVec 256) : Nat := bits e 215 176
def beLen (e : BitVec 256) : Nat := bits e 255 216

/-- The object a batch entry's handle names, if it is LIVE with that gen. -/
def liveObj (s : State) (h : Nat) : Option (Nat × Obj) :=
  let i := h % 262144
  match tfind s.objs i with
  | some o => if o.st = .live && o.gen = h / 262144 && h / 262144 != 0 then some (i, o) else none
  | none => none

/-- DEFINE_OBJ (R111). -/
def defineObj (s : State) (ctx : Nat) (e : BitVec 256) : Option State :=
  let i := beHandle e % 262144
  let gen := beHandle e / 262144
  match (ctxOf s ctx).segs[beSeg e]? with
  | none => none
  | some g =>
    let a := g.base + beOff e
    let seg0 := (((ctxOf s ctx).segs[0]?).map (·.base)).getD 0
    let clash := s.objs.any (fun x => x.2.st != .free && x.2.owner == ctx && x.2.remote.isNone &&
      overlaps a (beLen e) x.2.base x.2.len)
    if g.valid && i != 0 && !allocIdx i && gen != 0 && (tget s.objs i {}).st == .free &&
        1 ≤ beLen e && beOff e + beLen e ≤ g.len && !clash && !overlaps a (beLen e) seg0 8192 then
      let o : Obj :=
        { st := .live, gen := gen, owner := ctx, ownerHolds := true, base := a, len := beLen e,
          rd := g.rd, wr := g.wr, ex := g.ex, policy := g.policy }
      some { s with objs := tput s.objs i o }
    else none

/-- Add or replace an importer (R111, R122). -/
def putHolder (l : List Holder) (h : Holder) : List Holder := l.filter (·.ctx != h.ctx) ++ [h]

/-- EXPORT_OBJ (R111). -/
def exportObj (s : State) (ctx : Nat) (e : BitVec 256) : Option State :=
  match liveObj s (beHandle e) with
  | none => none
  | some (i, o) =>
    let c2 := beCtx2 e
    let known := o.importers.any (·.ctx == c2)
    if o.owner == ctx && o.ownerHolds && o.remote.isNone && c2 != o.owner &&
        (ctxOf s c2).st == .active && (ctxOf s c2).part == (ctxOf s ctx).part &&
        (known || o.importers.length < 7) && !allocIdx i && (!beR0 e || o.rd) && (!beR1 e || o.wr) then
      some (modObj s i fun o => { o with
        importers := putHolder o.importers { ctx := c2, r0 := beR0 e, r1 := beR1 e } })
    else none

/-- RELEASE_OBJ: by the owner, or by the importer itself (R111); a context that has taken the number of an
owner torn down is no owner. Whoever leaves an object gives it up in its bin reserve too (R306). -/
def releaseObj (s : State) (ctx : Nat) (e : BitVec 256) : Option State :=
  match liveObj s (beHandle e) with
  | none => none
  | some (i, o) =>
    let c2 := beCtx2 e
    if (o.ownerHolds && o.owner == ctx || c2 == ctx) && o.importers.any (·.ctx == c2) then
      some (reserveDrop (modObj s i fun o => Obj.settle i
        { o with importers := o.importers.filter (·.ctx != c2) }) c2 i)
    else none

/-- FREE_OBJ: the owner leaves (R111). A proxy that its tctx frees is gone (R399). -/
def freeObj (s : State) (ctx : Nat) (e : BitVec 256) : Option State :=
  match liveObj s (beHandle e) with
  | none => none
  | some (i, o) =>
    if o.owner == ctx && o.ownerHolds then
      some (reserveDrop (modObj s i fun o => Obj.settle i { o with ownerHolds := false }) ctx i)
    else none

/-- CREATE_FENCE (Table 6-10). -/
def createFence (s : State) (ctx : Nat) (e : BitVec 256) : Option State :=
  if (fenceOf s (beFence e)).st = .free then
    let x : Fence := { st := .live, val := beValue e, owner := ctx, ownerHolds := true }
    some { s with fences := tput s.fences (beFence e) x }
  else none

/-- DESTROY_FENCE: only the owner, and not of a proxy, which only its owner chip abandons (R118, R122,
R400). -/
def destroyFence (s : State) (ctx : Nat) (e : BitVec 256) : Option State :=
  let x := fenceOf s (beFence e)
  if x.st = .live && x.ownerHolds && x.owner == ctx && x.remote.isNone then
    some (modFence s (beFence e) (fun x => Fence.settle x.abandon))
  else none

/-- EXPORT_FENCE (R122). -/
def exportFence (s : State) (ctx : Nat) (e : BitVec 256) : Option State :=
  let x := fenceOf s (beFence e)
  let c2 := beCtx2 e
  if x.st = .live && x.owner == ctx && x.ownerHolds && x.remote.isNone && c2 != ctx &&
      (ctxOf s c2).st == .active && (x.importers.any (·.ctx == c2) || x.importers.length < 15) then
    some (modFence s (beFence e) fun x => { x with
      importers := putHolder x.importers { ctx := c2, r0 := beR0 e, r1 := beR1 e } })
  else none

/-- RELEASE_FENCE (R122); a context that has taken the number of an owner torn down is no owner. -/
def releaseFence (s : State) (ctx : Nat) (e : BitVec 256) : Option State :=
  let x := fenceOf s (beFence e)
  let c2 := beCtx2 e
  if x.st != .free && (x.owner == ctx && !x.ownerGone || c2 == ctx) && x.importers.any (·.ctx == c2) then
    some (fenceLeave s (beFence e) c2)
  else if x.remote.isSome && x.owner == ctx && c2 == ctx && x.ownerHolds then
    some (fenceLeave s (beFence e) ctx)
  else none

/-- Apply one batch entry; none when it fails (Table 6-6). -/
def batchEntry (s : State) (ctx : Nat) (e : BitVec 256) : Option State :=
  match beOp e with
  | 1 => defineObj s ctx e
  | 2 => freeObj s ctx e
  | 3 => exportObj s ctx e
  | 4 => releaseObj s ctx e
  | 5 => createFence s ctx e
  | 6 => destroyFence s ctx e
  | 7 => exportFence s ctx e
  | 8 => releaseFence s ctx e
  | _ => none

/-- Apply entries in order, stopping at the first that fails: how many were applied (R109). -/
def batchRun (ctx : Nat) : List (BitVec 256) → State → Nat → Nat × Bool × State
  | [], s, n => (n, true, s)
  | e :: r, s, n =>
    match batchEntry s ctx e with
    | some s' => batchRun ctx r s' (n + 1)
    | none => (n, false, s)

/-- CTX_BATCH (R108, R109): result, done, state. -/
def ctxBatchOp (s : State) (ctx page count : Nat) : Result × Nat × State :=
  if (ctxOf s ctx).st != .active then (.bad3, 0, s)
  else if count = 0 || 128 < count || !writePage s page (some ctx) then (.badBlock, 0, s)
  else
    let (d, s) := pbTake s (page * 4096) (32 * count)
    let es := (List.range count).map fun i => BitVec.ofNat 256 (leNat ((d.drop (32 * i)).take 32))
    match batchRun ctx es s 0 with
    | (n, true, s) => (.ok, n, s)
    | (n, false, s) => (.r5, n, s)

/-! ## Teardown (R124 to R127) -/

/-- Queues of a context. -/
def ctxQueues (s : State) (ctx : Nat) : List Nat := tkeys s.queues (fun _ q => q.ctx == ctx && q.st != .free)

/-- Release every slot bound to, or waiting for, a queue. A pinned queue that waits for a released
slot takes it (R131, R132). -/
def slotRelease (s : State) (q : Nat) : State :=
  { s with slots := s.slots.map fun e =>
      (e.1, if e.2.queue = some q then
              { e.2 with queue := e.2.next, st := .idle, served := false, next := none, idleOrd := s.orders }
            else if e.2.next = some q then { e.2 with next := none } else e.2) }

/-- Step 1: the context's queues stop, its latches clear, its ports stop (Table 6-13). A pinned queue
stays bound until step 5 destroys it (R132). -/
def tdStep1 (s : State) (ctx : Nat) : State :=
  let s := portsTeardown s ctx
  (ctxQueues s ctx).foldl (fun s q =>
    let t := modQueue s q (fun x => { x with stopped := true, latch := false })
    if (tget s.queues q {}).pin then t else slotRelease t q) s

/-- Step 2: running commands are killed without records (Table 6-13). -/
def tdStep2 (s : State) (ctx : Nat) : State :=
  let s := (tkeys s.insts (fun _ x => x.ctx == ctx)).foldl dropInst s
  (tkeys s.cmds (fun _ c => c.ctx == ctx)).foldl cmdDrop s

/-- Step 3: every fence the context owns is ABANDONED (Table 6-13, R119). -/
def tdStep3 (s : State) (ctx : Nat) : State :=
  { s with fences := s.fences.map fun e =>
      (e.1, if e.2.st = .live && e.2.owner = ctx && e.2.ownerHolds && e.2.remote.isNone then
        Fence.settle e.2.abandon else e.2) }

/-- Step 4: the context's window entries leave force; the commit's end advances gen (R127). It waits
for a running commit. -/
def tdStep4 (s : State) (ctx : Nat) : State :=
  if s.wt.commit.isSome then { s with wt := { s.wt with waiting := s.wt.waiting ++ [ctx] } }
  else
    let keep := s.wt.table.filter (fun e => !(e.2.valid && e.2.ctx == ctx))
    let gone := s.wt.table.filter (fun e => e.2.valid && e.2.ctx == ctx)
    let pages := gone.flatMap (fun e => (List.range e.2.pbPages).map (e.2.pb + ·))
    { s with wt := { s.wt with
        busy := true, table := keep
        commit := some { table := keep, gen := s.wt.gen + 1, zero := pages, teardown := some ctx } } }

/-- An arming's references on its trigger and completion fences are released (R118, R147; log 23). -/
def armRelease (s : State) (a : Option Arm) : State :=
  match a with
  | none => s
  | some a =>
    let s := fenceUnref s a.trig
    if dSigEn a.desc then fenceUnref s (dSigFence a.desc) else s

/-- A graph's registration references are released, and its arming's (R140). -/
def graphRelease (s : State) (g : Graph) : State :=
  armRelease (g.fences.foldl fenceUnref (g.objs.foldl objUnref s)) g.arm

/-- Graph key: context and gid. -/
def graphKey (ctx gid : Nat) : Nat := ctx * 256 + gid

/-- Key of a graph whose DESTROY_GRAPH, command `id`, has been applied while an instance runs: its
gid is no longer registered (R146; log 40). -/
def retiredKey (id : Nat) : Nat := 1024 * 256 + id

/-- The monitors of a graph go, and running instances are no longer monitored by them (R161). -/
def monsForget (s : State) (g : Graph) : State :=
  let gone (m : Mon) : Bool := m.ctx == g.ctx && (m.gid == g.gid || m.fb == g.gid)
  let still (i : Nat) : Bool := !(tfind s.mons i).any gone
  { s with
    mons := s.mons.filter (fun m => !gone m.2)
    insts := s.insts.map fun e => (e.1, { e.2 with mon := e.2.mon.filter still }) }

/-- Remove a graph with its arming, and its monitors while its gid is registered (R131, R140, R161). -/
def graphRemove (s : State) (key : Nat) : State :=
  match tfind s.graphs key with
  | none => s
  | some g =>
    let s := graphRelease { s with graphs := tdel s.graphs key } g
    if key == graphKey g.ctx g.gid then monsForget s g else s

/-- A destroyed graph with a running instance: its gid is free again, its monitors go, and it keeps
its references until the instance has ended (R140, R146). -/
def graphRetire (s : State) (key id : Nat) : State :=
  match tfind s.graphs key with
  | none => s
  | some g =>
    let r (k : Nat) : Nat := if k == key then retiredKey id else k
    monsForget { s with
      graphs := tput (tdel s.graphs key) (retiredKey id) g
      insts := s.insts.map fun e => (e.1, { e.2 with key := r e.2.key, home := r e.2.home }) } g

/-- Step 5: queues, graphs, sequence entries, bin reserve and hub counters go, and the context
leaves every object and fence (Table 6-13, R171, R306). -/
def tdStep5 (s : State) (ctx : Nat) : State :=
  let s := (ctxQueues s ctx).foldl (fun s q => { slotRelease s q with queues := tdel s.queues q }) s
  let s := (tkeys s.graphs (fun _ g => g.ctx == ctx)).foldl graphRemove s
  let s := (tkeys s.seqs (fun _ e => e.ctx == ctx && e.st != .free)).foldl seqFree s
  let s := (ctxOf s ctx).reserve.foldl objUnref s
  let s := modCtx s ctx (fun c => { c with reserve := [] })
  let s := { s with hub := s.hub.filter (fun e => e.2.owner != some ctx) }
  let s := (tkeys s.objs (fun _ _ => true)).foldl (fun s i => objLeave s i ctx) s
  (tkeys s.fences (fun _ _ => true)).foldl (fun s f => fenceLeave (fenceOrphan s f ctx) f ctx) s

/-- CTX_TEARDOWN: accepted from ACTIVE or LOST; busy stays until step 5 ends (R108, R124, R126). -/
def ctxTeardownOp (s : State) (ctx tag : Nat) : State :=
  let c := ctxOf s ctx
  if c.st = .active || c.st = .lost then
    let s := putCtx s ctx (fun c => { c with st := .teardown, step := 1 })
    tdStep1 { s with ctxCmd := { result := s.ctxCmd.result, tag := tag, busy := true, extra := 0 } } ctx
  else { s with ctxCmd := done tag .bad3 0 }

/-- The end of a teardown step starts the next; after step 5 the context is ZEROING (R124). Step 4
ends with its commit. -/
def teardownStepOp (s : State) (ctx : Nat) : State :=
  let c := ctxOf s ctx
  if c.st != .teardown || s.pwr.mgmtRestarting then s
  else
    let next (n : Nat) (s : State) : State := putCtx s ctx (fun c => { c with step := n })
    match c.step with
    | 1 => tdStep2 (next 2 s) ctx
    | 2 => tdStep3 (next 3 s) ctx
    | 3 => tdStep4 (next 4 s) ctx
    | 4 =>
      if s.wt.commit.any (·.teardown == some ctx) || s.wt.waiting.contains ctx then s else tdStep5 (next 5 s) ctx
    | _ =>
      let s := putCtx s ctx (fun c => { c with st := .zeroing, step := 0 })
      { s with ctxCmd := { s.ctxCmd with result := .ok, busy := false } }

/-- Zero a range except where an object that is still LIVE or RETIRING lies (R124 step 5), whose words and
lines keep their poison and MAC mismatches too. -/
def zeroExcept (s : State) (a n : Nat) : State :=
  let held (x l : Nat) : Bool := s.objs.any (fun e =>
    (e.2.st == .live || e.2.st == .retiring) && e.2.remote.isNone && overlaps x l e.2.base e.2.len)
  let keep (x : Nat) : Bool := held x 1
  let s := (wcAddrs s (fun l => overlaps l 128 a n)).foldl wcFlush s
  let t := dmZero s a n
  let back (m : Memory) : List Host.Cell := m.filter (fun c => inside c.1 1 a n && keep c.1)
  let dirty := s.mem.l2.filterMap fun e =>
    match l2Addr s e.1 e.2.tag with
    | some x => if overlaps x 128 a n then some (x, e.2) else none
    | none => none
  let kept := dirty.flatMap (fun e => (e.2.data.zipIdx).filterMap fun (b, i) =>
    if keep (e.1 + i) && inside (e.1 + i) 1 a n then some (e.1 + i, b) else none)
  { t with mem := { t.mem with
      dram := kept.foldl (fun m c => mset m c.1 c.2)
        ((back s.mem.dram).foldl (fun m c => mset m c.1 c.2) t.mem.dram)
      ss := (back s.mem.ss).foldl (fun m c => mset m c.1 c.2) t.mem.ss
      poison := s.mem.poison.filter (fun w => !overlaps w 8 a n || held w 8)
      macBad := s.mem.macBad.filter (fun l => !overlaps l 64 a n || held l 64) } }

/-- A context number is free for another owner: nothing of a core counts as last used by it (R115). -/
def forgetUser (s : State) (ctx : Nat) : State :=
  { s with cores := s.cores.map fun e => (e.1, { e.2 with
      users := e.2.users.filter (· != ctx), lsOwner := e.2.lsOwner.filter (·.2 != ctx) }) }

/-- Every segment byte is zeroed and the context is FREE (R125); the management firmware, which writes the
entry, does so once it runs (Table 1-3). -/
def ctxZeroedOp (s : State) (ctx : Nat) : State :=
  let c := ctxOf s ctx
  if c.st != .zeroing then s
  else if s.pwr.mgmtRestarting then
    if s.fw.zeroedHeld.contains ctx then s
    else { s with fw := { s.fw with zeroedHeld := s.fw.zeroedHeld ++ [ctx] } }
  else
    let s := (c.segs.filter (·.valid)).foldl (fun s g => zeroExcept s g.base g.len) s
    putCtx (forgetUser s ctx) ctx
      (fun c => { c with st := .free, segs := [], cause := 0, errIdx := 0xFFFF, part := 0, prio := 0 })

/-- An object's storage is zeroed and its index FREE; the generation stays remembered (R112). -/
def objZeroedOp (s : State) (i : Nat) : State :=
  match tfind s.objs i with
  | none => s
  | some o =>
    if o.st = .zeroing then { dmZero s o.base o.len with objs := tdel s.objs i } else s

/-! ## CTX_CMD (R107) -/

/-- Set CTX_CMD_STAT. -/
def setCtxCmd (s : State) (st : CmdStat) : State := { s with ctxCmd := st }

/-- Carry out a context command (Table 6-4). -/
def ctxRun (s : State) (raw : W64) : State :=
  let tag := bits raw 3 0
  let ctx := bits raw 23 14
  let page := bits raw 44 32
  match bits raw 7 4 with
  | 1 =>
    let (r, s) := ctxCreateOp s ctx page
    setCtxCmd s (done tag r 0)
  | 2 => ctxTeardownOp s ctx tag
  | 3 =>
    let (r, n, s) := ctxBatchOp s ctx page (bits raw 31 24)
    setCtxCmd s (done tag r n)
  | _ => setCtxCmd s (done tag .badOp 0)

/-- A write of CTX_CMD (R107). -/
def ctxCmdWrite (s : State) (raw : W64) : State :=
  mgmtCmd s 0x420 0 raw s.ctxCmd setCtxCmd (fun s => ctxRun s raw)

/-- A CTX_CMD value (Table 6-4). -/
def ctxWord (page count ctx op tag : Nat) : W64 :=
  BitVec.ofNat 64 (packNat [(page, 32), (count, 24), (ctx, 14), (op, 4), (tag, 0)])

/-! ## Meanings -/

/-- CTX_CREATE (R105). -/
def execCtxCreate (tag : BitVec 4) (ctx pbPage : Nat) (s : State) : Host.Outcome State Fault Refusal :=
  onLive s (ctxCmdWrite s (ctxWord pbPage 0 ctx 1 tag.toNat))

/-- CTX_TEARDOWN (R124). -/
def execCtxTeardown (tag : BitVec 4) (ctx : Nat) (s : State) : Host.Outcome State Fault Refusal :=
  onLive s (ctxCmdWrite s (ctxWord 0 0 ctx 2 tag.toNat))

/-- TEARDOWN_STEP_END (R124). -/
def execTeardownStepEnd (ctx : Nat) (s : State) : Host.Outcome State Fault Refusal :=
  onLive s (teardownStepOp s ctx)

/-- CTX_ZEROING_DONE (R125). -/
def execCtxZeroingDone (ctx : Nat) (s : State) : Host.Outcome State Fault Refusal :=
  onLive s (ctxZeroedOp s ctx)

/-- CTX_BATCH (R109). -/
def execCtxBatch (tag : BitVec 4) (ctx pbPage count : Nat) (s : State) :
    Host.Outcome State Fault Refusal := onLive s (ctxCmdWrite s (ctxWord pbPage count ctx 3 tag.toNat))

/-- OBJ_ZEROING_DONE (R112). -/
def execObjZeroingDone (index : Nat) (s : State) : Host.Outcome State Fault Refusal :=
  onLive s (objZeroedOp s index)

end Sys2Proof.Machine
end

