-- ==== Sys2Proof/Machine/GraphImage.lean ====
section
/-! DEFINITION. GraphImage.lean: stored graph images, code headers and the registration checks (07
R139, 10 R197, and the checks R154, R190, R298, R363, R441). -/

namespace Sys2Proof.Machine

/-! ## Node records (Table 7-9) -/

def nType (n : BitVec 512) : Nat := bits n 7 0
def nPred (n : BitVec 512) : Nat := bits n 19 8
def nSucc (n : BitVec 512) : Nat := bits n 31 20
def nSuccOff (n : BitVec 512) : Nat := bits n 45 32
/-- Direct handle k. -/
def nHandle (n : BitVec 512) (k : Nat) : Nat := bits n (95 + 32 * k) (64 + 32 * k)
def nEntry (n : BitVec 512) : Nat := bits n 231 192
def nGridX (n : BitVec 512) : Nat := bits n 247 232
def nGridY (n : BitVec 512) : Nat := bits n 263 248
def nGridZ (n : BitVec 512) : Nat := bits n 279 264
/-- Threads per workgroup. -/
def nWg (n : BitVec 512) : Nat := bits n 291 280
def nLsKib (n : BitVec 512) : Nat := bits n 300 292
/-- Vector registers per thread. -/
def nVregs (n : BitVec 512) : Nat := bits n 308 301 + 1
def nArgOff (n : BitVec 512) : Nat := bits n 321 309
/-- Workgroups in a cluster. -/
def nCluster (n : BitVec 512) : Nat := 2 ^ bits n 323 322
def nCommit (n : BitVec 512) : Bool := bit n 324
def nCopyDst (n : BitVec 512) : Nat := bits n 271 232
def nCopyLen (n : BitVec 512) : Nat := bits n 311 272
def nFence (n : BitVec 512) : Nat := bits n 205 192
def nInd (n : BitVec 512) : Bool := bit n 206
def nValue (n : BitVec 512) : W64 := BitVec.ofNat 64 (bits n 271 208)
/-- Parameter offset, in 8-byte units, of ALLOC, FREE and indirect fences. -/
def nParam (n : BitVec 512) : Nat := bits n 220 208
def nLimit (n : BitVec 512) : Nat := bits n 287 272
def nClass (n : BitVec 512) : Nat := bits n 196 192
/-- Workgroups of a KERNEL node. -/
def nGroups (n : BitVec 512) : Nat := nGridX n * nGridY n * nGridZ n
/-! STEP body (Table 8-13). -/
def nModel (n : BitVec 512) : Nat := bits n 351 344
def nItems (n : BitVec 512) : Nat := bits n 343 332 + 1
def nMinPrio (n : BitVec 512) : Nat := bits n 331 328
def nRetire (n : BitVec 512) : Bool := bit n 327
/-! DRAW body (Table 15-1) and COMPRESS body (Table 19-1). -/
def nPassOff (n : BitVec 512) : Nat := bits n 337 325
def nCmpArg (n : BitVec 512) : Nat := bits n 419 407
def nCmpRes (n : BitVec 512) : Nat := bits n 406 394
def nWrap (n : BitVec 512) : Nat := bits n 393 392
def nDir (n : BitVec 512) : Bool := bit n 391
def nFlush (n : BitVec 512) : Nat := bits n 386 385
def nFirst (n : BitVec 512) : Bool := bit n 384
def nHist (n : BitVec 512) : Bool := bit n 383
def nChk (n : BitVec 512) : Bool := bit n 382
def nStrict (n : BitVec 512) : Bool := bit n 381

/-- Bit ranges a node type uses (R139 check 3); none for an unknown type. -/
def nodeFields (n : BitVec 512) : Option (List (Nat × Nat)) :=
  let fence : List (Nat × Nat) := if nInd n then [(206, 206), (220, 208)] else [(206, 192), (271, 208)]
  match nType n with
  | 0 => some []
  | 1 => some [(191, 64), (324, 192)]
  | 2 => some [(95, 64), (399, 384), (337, 325)]
  | 3 => some [(127, 64), (311, 192)]
  | 4 => some [(159, 64), (419, 381)]
  | 5 => some ((287, 272) :: fence)
  | 6 => some fence
  | 7 => some [(95, 64), (351, 327)]
  | 8 => some [(196, 192), (220, 208)]
  | 9 => some [(220, 208)]
  | _ => none

/-- Number with the named bit ranges set. -/
def rangeMask (l : List (Nat × Nat)) : Nat :=
  l.foldl (fun m e => m ||| ((2 ^ (e.1 + 1 - e.2) - 1) <<< e.2)) 0

/-- Check 3: type known, reserved and unused bits zero, fields in range (R139). -/
def nodeOk (n : BitVec 512) : Bool :=
  match nodeFields n with
  | none => false
  | some f =>
    n.toNat &&& rangeMask ((45, 0) :: f) == n.toNat &&
    (match nType n with
     | 1 => decide (32 ≤ nWg n ∧ nWg n ≤ 2048 ∧ nWg n % 32 = 0 ∧ 1 ≤ nGridX n ∧ 1 ≤ nGridY n ∧
              1 ≤ nGridZ n ∧ nLsKib n ≤ 256 ∧ bits n 323 322 ≤ 2)
     | 2 => nPassOff n % 8 == 0
     | 4 => nCmpArg n % 4 == 0 && nCmpRes n % 4 == 0
     | 8 => decide (nClass n ≤ 18)
     | _ => true)

/-- Successors of a node in an edge table. -/
def succOf (edges : List (BitVec 16)) (n : BitVec 512) : List Nat :=
  ((edges.drop (nSuccOff n)).take (nSucc n)).map (fun e => bits e 11 0)

/-- Check 4: npred equals the edges that name the node, every edge names a node (R139). -/
def edgesOk (nodes : List (BitVec 512)) (edges : List (BitVec 16)) : Bool :=
  let dst := edges.map (fun e => bits e 11 0)
  dst.all (fun i => decide (i < nodes.length)) &&
  (nodes.zipIdx).all fun (n, i) =>
    decide (nSuccOff n + nSucc n ≤ edges.length) && nPred n == dst.count i

/-- One round of removing nodes that no remaining node precedes. -/
def peel (nodes : List (BitVec 512)) (edges : List (BitVec 16)) (left : List Nat) : List Nat :=
  left.filter fun i => left.any fun j => (succOf edges (nodes.getD j 0)).contains i

/-- Remove rounds until `fuel` is spent. -/
def peelAll (nodes : List (BitVec 512)) (edges : List (BitVec 16)) : Nat → List Nat → List Nat
  | 0, l => l
  | f + 1, l =>
    match l with
    | [] => []
    | _ => peelAll nodes edges f (peel nodes edges l)

/-- Check 5: no cycle (R139). -/
def acyclic (nodes : List (BitVec 512)) (edges : List (BitVec 16)) : Bool :=
  (peelAll nodes edges nodes.length (List.range nodes.length)).isEmpty

/-! ## Patches (Table 7-10) -/

def pType (p : W64) : Nat := bits p 33 32
def pOff (p : W64) : Nat := bits p 12 0
def pR0 (p : W64) : Bool := bit p 34
def pR1 (p : W64) : Bool := bit p 35
/-- Bytes a patch writes. -/
def pBytes (p : W64) : Nat := if pType p = 1 then 16 else 8

/-- Reserved bits of a patch entry are 0 (R139 check 3). -/
def patchReserved (p : W64) : Bool := zeroField p 63 36 && zeroField p 31 13

/-- Patch ranges inside the block and apart (R139 check 7). -/
def patchesOk (plen : Nat) : List W64 → Bool
  | [] => true
  | p :: r =>
    decide (8 * pOff p + pBytes p ≤ plen) &&
    r.all (fun q => !overlaps (8 * pOff p) (pBytes p) (8 * pOff q) (pBytes q)) && patchesOk plen r

/-- Check 8: parameter offsets a node names lie inside the block (R139). -/
def paramOk (plen : Nat) (n : BitVec 512) : Bool :=
  match nType n with
  | 1 => decide (8 * nArgOff n < plen)
  | 2 => decide (8 * nPassOff n + 128 ≤ plen)
  | 4 => decide (8 * nCmpArg n + 32 ≤ plen ∧ 8 * nCmpRes n + 32 ≤ plen)
  | 5 => !nInd n || decide (8 * nParam n + 16 ≤ plen)
  | 6 => !nInd n || decide (8 * nParam n + 16 ≤ plen)
  | 8 => decide (8 * nParam n + 16 ≤ plen)
  | 9 => decide (8 * nParam n + 8 ≤ plen)
  | _ => true

/-! ## Direct handles (Table 7-9a) -/

/-- Resolve direct handle k of a node under its type's rights: outer none where it fails, inner none
where it may be 0 and is. Only COPY may name a proxy (R398). -/
def directHandle (s : State) (ctx : Nat) (n : BitVec 512) (k : Nat) : Option (Option Hit) :=
  let h := nHandle n k
  let opt (o : Option Hit) : Option (Option Hit) := if h = 0 then some none else o.map some
  let loc (o : Option Hit) : Option Hit := o.filter (fun x => !x.remote)
  let must (o : Option Hit) : Option (Option Hit) := o.map some
  let any := (loc (resolve s ctx h false false false)).filter (fun x => x.rd || x.wr)
  match nType n, k with
  | 1, 0 => must (loc (resolve s ctx h false false true))
  | 1, 1 => must any
  | 1, _ => opt any
  | 2, 0 => must (loc (resolve s ctx h false false true))
  | 3, 0 => must (resolve s ctx h true false false)
  | 3, 1 => must (resolve s ctx h false true false)
  | 4, 0 => must (loc (resolve s ctx h true false false))
  | 4, 1 => must (loc (resolve s ctx h false true false))
  | 4, 2 => if nHist n then must (loc (resolve s ctx h true true false)) else opt none
  | 7, 0 => must (loc (resolve s ctx h true true false))
  | _, _ => some none

/-- All direct handles of a node, in order; none when one fails. -/
def directHandles (s : State) (ctx : Nat) (n : BitVec 512) : Option (List Hit) :=
  (List.range 4).foldl (fun acc k =>
    match acc, directHandle s ctx n k with
    | some l, some (some h) => some (l ++ [h])
    | some l, some none => some l
    | _, _ => none) (some [])

/-- Direct handles of every node. -/
def allHandles (s : State) (ctx : Nat) : List (BitVec 512) → Option (List Hit)
  | [] => some []
  | n :: r =>
    match directHandles s ctx n, allHandles s ctx r with
    | some a, some b => some (a ++ b)
    | _, _ => none

/-- Check 10: rights on directly named fences (R139). -/
def fencesOk (s : State) (ctx : Nat) (n : BitVec 512) : Bool :=
  match nType n with
  | 5 => nInd n || fenceWait s ctx (nFence n)
  | 6 => nInd n || fenceSig s ctx (nFence n)
  | _ => true

/-! ## Code headers (Table 10-2) -/

def chCodeLen (h : BitVec 512) : Nat := bits h 127 96
def chLull (h : BitVec 512) : Nat := bits h 79 72
def chStage (h : BitVec 512) : Nat := bits h 71 64
def chAcc (h : BitVec 512) : Nat := bits h 63 60
def chNosplit (h : BitVec 512) : Bool := bit h 59
def chDepth (h : BitVec 512) : Nat := bits h 55 48

/-- What the front end meets when it reads an image's header and tables (R297, R404). -/
def imageFault (s : State) (c : Cmd) : Option MemFault :=
  match c.objs.head? with
  | none => none
  | some img =>
    let o := tget s.objs img {}
    let off := bits c.desc 335 296
    let base := o.base + off
    if o.len < off + 64 then none
    else (dmFault s base 64).orElse fun _ =>
      let h : BitVec 512 := BitVec.ofNat 512 (dmNum s base 64)
      [(bits h 127 96, 64 * bits h 63 48), (bits h 159 128, 2 * bits h 79 64), (bits h 191 160, 8 * bits h 87 80)].findSome?
        (fun e => if off + e.1 + e.2 ≤ o.len then dmFault s (base + e.1) e.2 else none)

/-- The checks of Table 10-2 on a KERNEL node's code header (R197). -/
def headerOk (n h : BitVec 512) (codeLen : Nat) : Bool :=
  bits h 31 0 == 0x4C4E524B && bits h 47 32 == 1 &&
  zeroField h 511 128 && zeroField h 95 80 && zeroField h 58 56 &&
  decide (8 ≤ chCodeLen h ∧ chCodeLen h % 8 = 0 ∧ nEntry n + 64 + chCodeLen h ≤ codeLen ∧
    chLull h ≤ 48 ∧ chAcc h ≤ 8 ∧ chDepth h ≤ 16) &&
  (chNosplit h == decide (5 ≤ chDepth h)) &&
  (if nCommit n then decide (1 ≤ chStage h ∧ chStage h ≤ 64 ∧ chStage h ≤ nLsKib n)
   else chStage h == 0)

/-- The code header of a KERNEL node, when its 64 bytes lie in the code object. -/
def headerOf (s : State) (ctx : Nat) (n : BitVec 512) : Option (BitVec 512 × Nat) :=
  match directHandle s ctx n 0 with
  | some (some h) =>
    if nEntry n + 64 ≤ h.len then some (BitVec.ofNat 512 (dmNum s (h.base + nEntry n) 64), h.len)
    else none
  | _ => none

/-- Check 11 (R139). -/
def codeOk (s : State) (ctx : Nat) (n : BitVec 512) : Bool :=
  nType n != 1 || (headerOf s ctx n).any (fun x => headerOk n x.1 x.2)

/-! ## Further checks (R139 check 12) -/

/-- Most cores a partition owns in any quad (R190). -/
def quadCores (p : Partition) : Nat :=
  (List.range 12).foldl (fun m q => max m ((partCores p).filter (fun c => c / 4 == q)).length) 0

/-- Nodes from which another can be reached, by `fuel` rounds of taking predecessors. -/
def predsOf (nodes : List (BitVec 512)) (edges : List (BitVec 16)) : Nat → List Nat → List Nat
  | 0, l => l
  | f + 1, l =>
    predsOf nodes edges f ((List.range nodes.length).filter fun i =>
      l.contains i || (succOf edges (nodes.getD i 0)).any l.contains)

/-- A BUILD node precedes a RETIRE node with the same object and model (R441). -/
def hasBuild (nodes : List (BitVec 512)) (edges : List (BitVec 16)) (i : Nat) : Bool :=
  let n := nodes.getD i 0
  (predsOf nodes edges nodes.length [i]).any fun j =>
    let m := nodes.getD j 0
    j != i && nType m == 7 && !nRetire m && nHandle m 0 == nHandle n 0 && nModel m == nModel n

/-- R154, R190, R363 and R441 on one node. -/
def nodeFurther (s : State) (ctx : Nat) (nodes : List (BitVec 512)) (edges : List (BitVec 16))
    (i : Nat) : Bool :=
  let n := nodes.getD i 0
  match partRec s (ctxOf s ctx).part with
  | none => false
  | some p =>
    match nType n with
    | 1 =>
      (nCommit n || saveSlots p != 0) && nGroups n % nCluster n == 0 &&
      decide (nCluster n ≤ quadCores p)
    | 4 =>
      p.cmpMask != 0 && nWrap n != 3 && (nHist n || (nFirst n && nFlush n != 0)) &&
      (!nDir n || (bits n 390 388 == 0 && !bit n 387 && nFlush n == 0)) &&
      (!nHist n || (match directHandle s ctx n 2 with
        | some (some h) => decide (33280 ≤ h.len)
        | _ => false))
    | 7 =>
      (match directHandle s ctx n 0 with
       | some (some h) => decide (64 + 40 * nItems n ≤ h.len)
       | _ => false) && (!nRetire n || hasBuild nodes edges i)
    | _ => true

/-! ## Registration (R139, R140) -/

/-- Roots of a graph: the nodes with npred 0 other than WAIT nodes (R141). -/
def rootsOf (nodes : List (BitVec 512)) : List Nat :=
  ((nodes.zipIdx).filter (fun e => nPred e.1 == 0 && nType e.1 != 5)).map (·.2)

/-- The first 128 bytes of code at the entry of each of the first two KERNEL roots (R141): they begin
after the code header and end with the code (log 36). -/
def rootCode (s : State) (ctx : Nat) (nodes : List (BitVec 512)) : List (Nat × List Byte) :=
  (((rootsOf nodes).filter (fun i => nType (nodes.getD i 0) == 1)).take 2).filterMap fun i =>
    let n := nodes.getD i 0
    match directHandle s ctx n 0, headerOf s ctx n with
    | some (some h), some x => some (i, dmRead s (h.base + nEntry n + 64) (min 128 (chCodeLen x.1)))
    | _, _ => none

/-- Lowest directory record no graph holds (R141). -/
def freeDir (s : State) : Nat :=
  ((List.range (s.graphs.length + 1)).find? (fun k => !s.graphs.any (fun e => e.2.dir == k))).getD 0

/-- Graphs registered on the device: a destroyed one that awaits its instance no longer is (R139, R146). -/
def registered (s : State) : Nat := (s.graphs.filter (fun e => decide (e.1 < 262144))).length

/-- The number of the first failed check of R139, or the graph as registered. The image object is the one
resolved at the fetch (R113). -/
def graphCheck (s : State) (id : Nat) (c : Cmd) : Except Nat Graph :=
  let ctx := c.ctx
  let d := c.desc
  let gid := dGid d
  let key := graphKey ctx gid
  match c.objs.head? with
  | none => .error 1
  | some img =>
    let o := tget s.objs img {}
    let off := bits d 335 296
    let base := o.base + off
    let h : BitVec 512 := BitVec.ofNat 512 (dmNum s base 64)
    let nn := bits h 63 48
    let ne := bits h 79 64
    let np := bits h 87 80
    let nodeOff := bits h 127 96
    let edgeOff := bits h 159 128
    let patchOff := bits h 191 160
    let parOff := bits h 223 192
    let plen := bits h 255 224
    let fits (a n : Nat) : Bool := off + a + n ≤ o.len
    if o.len < off + 64 then .error 1
    else if !(bits h 31 0 == 0x48505247 && bits h 47 32 == 1 && zeroField h 511 256 && zeroField h 95 88 &&
        decide (1 ≤ nn ∧ nn ≤ 4096 ∧ ne ≤ 16384 ∧ np ≤ 64 ∧ plen ≤ 65536 ∧ plen % 64 = 0 ∧
          parOff % 64 = 0 ∧ patchOff % 8 = 0 ∧ edgeOff % 8 = 0 ∧ nodeOff % 64 = 0) &&
        fits nodeOff (64 * nn) && fits edgeOff (2 * ne) && fits patchOff (8 * np) && fits parOff plen)
    then .error 1
    else
      let nodes := (List.range nn).map fun i => BitVec.ofNat 512 (dmNum s (base + nodeOff + 64 * i) 64)
      let edges := (List.range ne).map fun i => BitVec.ofNat 16 (dmNum s (base + edgeOff + 2 * i) 2)
      let pats := (List.range np).map fun i => BitVec.ofNat 64 (dmNum s (base + patchOff + 8 * i) 8)
      let earlier := s.cmds.any fun e => e.1 != id && e.2.ctx == ctx && dOp e.2.desc == 2 &&
        dGid e.2.desc == gid && e.2.ord < c.ord
      if thas s.graphs key || earlier || 8192 ≤ registered s then .error 2
      else if !(nodes.all nodeOk && edges.all (fun e => bits e 15 12 == 0) && pats.all patchReserved) then .error 3
      else if !edgesOk nodes edges then .error 4
      else if !acyclic nodes edges then .error 5
      else if !nodes.all (fun n => nType n != 5 || (nPred n == 0 && nSucc n == 0)) then .error 6
      else if !patchesOk plen pats then .error 7
      else if !nodes.all (paramOk plen) then .error 8
      else match allHandles s ctx nodes with
        | none => .error 9
        | some hs =>
          if !nodes.all (fencesOk s ctx) then .error 10
          else if !nodes.all (codeOk s ctx) then .error 11
          else if !(List.range nn).all (nodeFurther s ctx nodes edges) then .error 12
          else
            let fences := (nodes.filter (fun n => (nType n == 5 || nType n == 6) && !nInd n)).map nFence
            let hdrs := (nodes.zipIdx).filterMap fun (n, i) =>
              if nType n = 1 then (headerOf s ctx n).map (fun x => (i, x.1)) else none
            .ok { ctx := ctx, gid := gid, imgObj := img, imgBase := base, paramOff := parOff,
                  paramLen := plen, nodes := nodes, edges := edges, patches := pats, hdrs := hdrs,
                  objs := img :: hs.map (·.idx), fences := fences
                  ranges := (hs.filter (fun h => !h.remote)).map Hit.range, arm := none
                  reg := c.ord, dir := freeDir s, roots := (rootsOf nodes).take 64
                  code := rootCode s ctx nodes }

/-- Device-physical byte of a parameter offset. -/
def Graph.param (g : Graph) (byte : Nat) : Nat := g.imgBase + g.paramOff + byte

end Sys2Proof.Machine
end

