-- ==== Sys2Proof/Machine/FrontEnd.lean ====
section
/-! DEFINITION. FrontEnd.lean: queues, slots, fetch and resolution of descriptors, and the queue
commands (05 R95 to R99, 07 R128 to R138, R440). -/

namespace Sys2Proof.Machine

/-! ## Slots (R132, R134) -/

/-- Slot numbers of a partition: consecutive in increasing partition index (R134). -/
def slotsOf (s : State) (p : Nat) : List Nat :=
  List.range' ((s.cfg.slots.take p).foldl (· + ·) 0) (s.cfg.slots.getD p 0)

/-- A slot. -/
def slotOf (s : State) (i : Nat) : Slot := tget s.slots i {}

/-- Change a slot. -/
def modSlot (s : State) (i : Nat) (f : Slot → Slot) : State := { s with slots := tmod s.slots i {} f }

/-- The slot a queue is bound to. -/
def boundSlot (s : State) (q : Nat) : Option Nat :=
  (s.slots.find? (fun e => e.2.queue == some q)).map (·.1)

/-- Partition of a queue: its context's. -/
def queuePart (s : State) (q : Nat) : Nat := (ctxOf s (queueOf s q).ctx).part

/-- Whether a slot belongs to a pinned queue, bound to it or waiting for it. -/
def slotPinned (s : State) (i : Nat) : Bool :=
  (slotOf s i).next.isSome || (slotOf s i).queue.any (fun q => (queueOf s q).pin)

/-- The first slot, lowest number first, with no queue bound (R132; log 16). -/
def freeSlot (s : State) (p : Nat) : Option Nat :=
  (slotsOf s p).find? (fun i => (slotOf s i).queue.isNone)

/-- The unpinned slot of a partition that has been IDLE longest (R132). -/
def idleLongest (s : State) (p : Nat) : Option Nat :=
  (slotsOf s p).foldl (fun best i =>
    if (slotOf s i).st = .idle && (slotOf s i).queue.isSome && !slotPinned s i then
      match best with
      | none => some i
      | some b => if (slotOf s i).idleOrd < (slotOf s b).idleOrd then some i else best
    else best) none

/-- Bind a queue to a slot, which is then IDLE; a queue bound there is unbound and keeps its latch
(R132). -/
def bindSlot (s : State) (i q : Nat) : State :=
  modSlot { s with orders := s.orders + 1 } i fun _ =>
    { queue := some q, st := .idle, idleOrd := s.orders, next := none, served := false }

/-- The waiting unpinned queue of a partition whose latch was set first (R132). -/
def firstWaiting (s : State) (p : Nat) : Option Nat :=
  (s.queues.foldl (fun best e =>
    let x := e.2
    if x.st = .live && x.latch && !x.pin && !x.stopped && (boundSlot s e.1).isNone &&
        (ctxOf s x.ctx).part = p then
      match best with
      | none => some (e.1, x.latchOrd)
      | some b => if x.latchOrd < b.2 then some (e.1, x.latchOrd) else best
    else best) (none : Option (Nat × Nat))).map (·.1)

/-- QUEUE_BIND: the first waiting queue of its partition takes a free slot or the one IDLE longest;
with neither it waits (R132). -/
def queueBindOp (s : State) (q : Nat) : State :=
  let p := queuePart s q
  if dispatching s && firstWaiting s p == some q then
    match freeSlot s p with
    | some i => bindSlot s i q
    | none =>
      match idleLongest s p with
      | some i => bindSlot s i q
      | none => s
  else s

/-! ## Sampling a doorbell (R96, R97) -/

/-- a − b modulo 2^32. -/
def sub32 (a b : W32) : Nat := (a - b).toNat

/-- The slot accepts tail when it stays within the ring (R96). -/
def tailOk (x : Queue) : Bool := sub32 x.dTail x.head ≤ 2 ^ x.sqLog

/-- The slot accepts cq_head between the previous one and the records written (R96). -/
def cqHeadOk (x : Queue) : Bool := sub32 x.dHead x.cqHead ≤ sub32 x.recs x.cqHead

/-- Take the latest doorbell: the latch clears, each value is taken or refused on its own (R96). -/
def takeDoorbell (s : State) (q : Nat) : State :=
  let x := queueOf s q
  let s := modQueue s q fun x => { x with
    latch := false
    tail := if tailOk x then x.dTail else x.tail
    cqHead := if cqHeadOk x then x.dHead else x.cqHead }
  let s := if tailOk x then s else raise (submitFault s x.ctx q 1 0 .formatFault) .dbDrop
  if cqHeadOk x then s else raise (submitFault s x.ctx q 2 0 .formatFault) .dbDrop

/-- Whether a slot may take values or fetch: dispatch runs, its partition is ON and no teardown has
stopped its queue (R30, R33, Table 6-13). -/
def slotRuns (s : State) (q : Nat) : Bool :=
  dispatching s && fnOn s (queuePart s q) && !(queueOf s q).stopped

/-- SLOT_SAMPLE: an IDLE slot whose queue's latch is set becomes ACTIVE (Table 5-9). -/
def slotSampleOp (s : State) (i : Nat) : State :=
  match (slotOf s i).queue with
  | none => s
  | some q =>
    if (slotOf s i).st = .idle && (queueOf s q).latch && slotRuns s q then
      modSlot (takeDoorbell s q) i (fun x => { x with st := .active, served := false })
    else s

/-- A slot enters IDLE; a pinned queue waiting for it takes it over (R132). -/
def enterIdle (s : State) (i : Nat) : State :=
  match (slotOf s i).next with
  | some p => bindSlot s i p
  | none =>
    modSlot { s with orders := s.orders + 1 } i (fun x =>
      { x with st := .idle, idleOrd := s.orders, served := false })

/-- DRAIN_PASS_END: cycle 24 of the pass (Table 5-9). -/
def drainEndOp (s : State) (i : Nat) : State :=
  match (slotOf s i).queue with
  | none => s
  | some q =>
    if (slotOf s i).st = .draining then
      if (queueOf s q).latch && slotRuns s q then
        modSlot (takeDoorbell s q) i (fun x => { x with st := .active, served := false })
      else enterIdle s i
    else s

/-! ## Resolution (R113, R137, R138, R440) -/

/-- A failed submission check: number, detail and status (Table 22-5a). -/
structure Refused where
  check  : Nat
  detail : Nat
  st     : Status
  deriving DecidableEq, Repr

/-- Bits of a descriptor an operation uses (Tables 7-5 to 7-7); none for an unknown op. Table 7-7 does not
say that a body bit its operation does not use must be 0, and NOP has no body: DESIGN CHOICE, such a bit is
taken as reserved, and the entry ends FORMAT_FAULT (log 36). -/
def descFields (d : BitVec 512) : Option (List (Nat × Nat)) :=
  match dOp d with
  | 0 => some []
  | 1 => some [(292, 256)]
  | 2 => some [(335, 256)]
  | 3 => some [(263, 256)]
  | 4 => some [(447, 338), (263, 256)]
  | 5 => some [(263, 256)]
  | _ => none

def dPvOff (d : BitVec 512) : Nat := bits d 291 264
def dPatch (d : BitVec 512) : Bool := bit d 292
def dImg (d : BitVec 512) : Nat := bits d 295 264
def dImgOff (d : BitVec 512) : Nat := bits d 335 296
def dTrig (d : BitVec 512) : Nat := bits d 351 338
def dStep (d : BitVec 512) : Nat := bits d 383 352
def dFirst (d : BitVec 512) : W64 := BitVec.ofNat 64 (bits d 447 384)

/-- Check 4: op known, reserved and unused bits 0, body in range (R136). -/
def descOk (s : State) (ctx : Nat) (d : BitVec 512) : Bool :=
  match descFields d with
  | none => false
  | some f =>
    d.toNat &&& rangeMask ([(255, 98), (95, 48), (15, 15), (7, 0)] ++ f) == d.toNat &&
    (dOp d != 2 || dImgOff d % 64 == 0) &&
    (dOp d != 4 || (dStep d != 0 && fenceWait s ctx (dTrig d)))

/-- What the patches of a launch resolve to (R138). -/
structure Patched where
  objs    : List Nat := []
  fences  : List Nat := []
  ranges  : List Range := []
  fencesAt : List Nat := []
  handlesAt : List Nat := []

/-- Resolve the patches of a launch against their values, patch `i` first (R138). -/
def resolvePatches (s : State) (ctx : Nat) : Nat → List W64 → List W64 → Patched → Except Refused Patched
  | _, [], _, acc => .ok acc
  | i, p :: ps, vs, acc =>
    let v := vs.headD 0
    match pType p with
    | 1 =>
      match (resolve s ctx (bits v 31 0) (pR0 p) (pR1 p) false).filter (fun h => !h.remote) with
      | none => .error { check := 6, detail := i, st := .formatFault }
      | some h =>
        resolvePatches s ctx (i + 1) ps vs.tail
          { acc with objs := acc.objs ++ [h.idx], ranges := acc.ranges ++ [h.range],
                     handlesAt := acc.handlesAt ++ [pOff p] }
    | 2 =>
      let f := bits v 13 0
      if fenceHeld s ctx f && (!pR0 p || fenceWait s ctx f) && (!pR1 p || fenceSig s ctx f) then
        resolvePatches s ctx (i + 1) ps vs.tail
          { acc with fences := acc.fences ++ [f], fencesAt := acc.fencesAt ++ [pOff p] }
      else .error { check := 5, detail := 2, st := .formatFault }
    | _ => resolvePatches s ctx (i + 1) ps vs.tail acc

/-- Bytes behind an aperture range of a context's windows; an uncorrectable word makes the context
LOST (Table 22-2). -/
def apTake (s : State) (off n : Nat) : List Byte × State :=
  match apEntry s (off / 4096) with
  | some e =>
    let m := min n (4096 - off % 4096)
    let (a, s) := pbTake s (e.pbByte off) m
    match apEntry s ((off + m) / 4096) with
    | some e2 =>
      if m < n then
        let (b, s) := pbTake s (e2.pbByte (off + m)) (n - m)
        (a ++ b, s)
      else (a, s)
    | none => (a, s)
  | none => ([], s)

/-- Change a command. -/
def modCmd (s : State) (id : Nat) (f : Cmd → Cmd) : State := { s with cmds := tupd s.cmds id f }

/-- Whether a REGISTER_GRAPH of the gid, fetched before `ord`, has not completed (R440). -/
def regPending (s : State) (ctx gid ord : Nat) : Bool :=
  s.cmds.any fun e =>
    e.2.ctx == ctx && dOp e.2.desc == 2 && dGid e.2.desc == gid && decide (e.2.ord < ord)

/-- Resolve the graph a command names: it must be registered, and a patched launch reads its values
and resolves them, or the command completes refused (R138, R146, R440). R142 has patch values held from the
fetch, and R440 holds the resolution of a launch behind a registration, before which the graph's patches are
not known: DESIGN CHOICE, such a launch reads its values when it resolves, after head has passed the entry
(log 36). -/
def resolveGraphCmd (s : State) (id : Nat) : State :=
  match tfind s.cmds id with
  | none => s
  | some c =>
    let s := modCmd s id (fun c => { c with unresolved := false })
    match tfind s.graphs (graphKey c.ctx (dGid c.desc)) with
    | none => cmdRefuse s id 0xA (dGid c.desc) .formatFault
    | some g =>
      let s := modCmd s id (fun c => { c with graph := some g.reg })
      if dOp c.desc = 1 && dPatch c.desc && !g.patches.isEmpty then
        let off := dPvOff c.desc * 128
        let n := 8 * g.patches.length
        if apRangeIn s off n 1 c.ctx then
          let (d, s) := apTake s off n
          let vs := (List.range g.patches.length).map fun i =>
            BitVec.ofNat 64 (leNat ((d.drop (8 * i)).take 8))
          if thas s.cmds id then
            match resolvePatches s c.ctx 0 g.patches vs {} with
            | .error r => cmdRefuse s id r.check r.detail r.st
            | .ok r =>
              let s := r.fences.foldl fenceRef (r.objs.foldl objRef s)
              modCmd s id fun c => { c with
                objs := c.objs ++ r.objs, fences := c.fences ++ r.fences, ranges := r.ranges,
                pvals := vs, fencePatched := r.fencesAt, handlePatched := r.handlesAt }
          else s
        else cmdRefuse s id 8 0 .formatFault
      else s

/-- Resolve every held command whose registration has completed, in fetch order (R440). -/
def resolveHeld (s : State) : State :=
  (tkeys s.cmds (fun _ c => c.unresolved)).foldl (fun s id =>
    match tfind s.cmds id with
    | none => s
    | some c =>
      if regPending s c.ctx (dGid c.desc) c.ord then s else resolveGraphCmd s id) s

/-- Resolution of a freshly fetched command (R113, R136, R137, R440). -/
def resolveCmd (s : State) (id : Nat) (d : BitVec 512) (ctx ord : Nat) : State :=
  if !descOk s ctx d then cmdRefuse s id 4 0 .formatFault
  else if dWaitEn d && !fenceWait s ctx (dWaitFence d) then cmdRefuse s id 5 0 .formatFault
  else if dSigEn d && !fenceSig s ctx (dSigFence d) then cmdRefuse s id 5 1 .formatFault
  else
    let fs := (if dWaitEn d then [dWaitFence d] else []) ++ (if dSigEn d then [dSigFence d] else [])
    let s := modCmd (fs.foldl fenceRef s) id (fun c => { c with fences := fs })
    if dOp d = 2 then
      match (resolve s ctx (dImg d) true false false).filter (fun h => !h.remote) with
      | none => cmdRefuse s id 6 0xFFF .formatFault
      | some h =>
        if h.len < dImgOff d + 64 then cmdRefuse s id 7 0xFFF .boundFault
        else modCmd (objRef s h.idx) id (fun c => { c with objs := [h.idx] })
    else if dOp d = 0 then s
    else if regPending s ctx (dGid d) ord then modCmd s id (fun c => { c with unresolved := true })
    else resolveGraphCmd s id

/-! ## Fetch (R99, R130, R133, Table 5-9) -/

/-- A completion place is free (R99). -/
def placeFree (x : Queue) : Bool := sub32 x.recs x.cqHead + x.resv < 2 ^ x.cqLog

/-- Fetched commands of a queue that have not started (R133). -/
def unstarted (s : State) (q : Nat) : List Nat := tkeys s.cmds (fun _ c => c.queue == q && !c.started)

/-- A slot starts its 24 TCLK pass (Table 5-9). -/
def startDrain (s : State) (i : Nat) : State :=
  modSlot s i (fun x => { x with st := .draining, served := false })

/-- Fetch the next entry of slot `i`'s queue: it is read, takes a ring place and is resolved (R99, R130). -/
def fetchEntry (s : State) (i q : Nat) : State :=
  let x := queueOf s q
  let off := x.sqOff * 64 + 64 * (x.head.toNat % 2 ^ x.sqLog)
  let id := s.orders
  let s := modQueue { s with orders := id + 1 } q
    (fun x => { x with head := x.head + 1, resv := x.resv + 1 })
  let mk (s : State) (d : BitVec 512) : State :=
    let c : Cmd := { queue := q, ctx := x.ctx, desc := d, ord := id, s := now35 s, slot := i
                     normAt := now35 s, sig := dSigEn d && fenceSig s x.ctx (dSigFence d) }
    { s with cmds := tput s.cmds id c }
  if apRangeIn s off 64 1 x.ctx then
    let (b, s) := apTake s off 64
    let d : BitVec 512 := BitVec.ofNat 512 (leNat b)
    let s := mk s d
    if (ctxOf s x.ctx).st = .active then resolveCmd s id d x.ctx id
    else cmdDone s id .contextLost (ctxOf s x.ctx).errIdx
  else cmdRefuse (mk s 0) id 3 0 .formatFault

/-- ACTIVE slots of a partition that no Trade processor serves and that may fetch (R133, R134). -/
def waitingSlots (s : State) (p : Nat) : List Nat :=
  (slotsOf s p).filter fun i =>
    (slotOf s i).st == .active && !(slotOf s i).served &&
    (slotOf s i).queue.any (fun q => slotRuns s q && decide ((unstarted s q).length < 4))

/-- Priority of the context of a slot's queue. -/
def slotPrio (s : State) (i : Nat) : Nat :=
  match (slotOf s i).queue with
  | none => 0
  | some q => (ctxOf s (queueOf s q).ctx).prio

/-- The slot a free Trade processor takes: the next partition with a waiting slot, its highest context
priority, and round-robin within that (R134, R150). -/
def nextServed (s : State) : Option Nat :=
  match rrNext s.rr.part ((List.range 8).filter (fun p => !(waitingSlots s p).isEmpty)) with
  | none => none
  | some p =>
    let l := waitingSlots s p
    let top := (l.map (slotPrio s)).foldl max 0
    rrNext (tget s.rr.slot p 31) (l.filter (fun i => slotPrio s i == top))

/-- In central mode one of the eight Trade processors serves the slot, or a free one takes it (R134). -/
def mayServe (s : State) (i : Nat) : Bool :=
  !s.cfg.central || (slotOf s i).served ||
  (decide ((s.slots.filter (·.2.served)).length < 8) && nextServed s == some i)

/-- A Trade processor serves the slot, and the turns move on (R134). -/
def serveSlot (s : State) (i p : Nat) : State :=
  if s.cfg.central && !(slotOf s i).served then
    modSlot { s with rr := { s.rr with part := p, slot := tput s.rr.slot p i } } i
      (fun x => { x with served := true })
  else s

/-- Whether a slot has nothing to fetch: head = tail, or no completion place (Table 5-9). -/
def nothingToFetch (x : Queue) : Bool := x.head == x.tail || !placeFree x

/-- SLOT_FETCH (Table 5-9, R133). R133 gives the 4 places of unstarted commands to a slot and does not say
whether commands of a queue that has been unbound from it keep theirs: DESIGN CHOICE, the places are counted
per queue, so a queue newly bound to the slot has all 4 (log 36). -/
def slotFetchOp (s : State) (i : Nat) : State :=
  match (slotOf s i).queue with
  | none => s
  | some q =>
    if (slotOf s i).st = .active && slotRuns s q && mayServe s i then
      let s := serveSlot s i (queuePart s q)
      if nothingToFetch (queueOf s q) then startDrain s i
      else if 4 ≤ (unstarted s q).length then s
      else
        let s := fetchEntry s i q
        if nothingToFetch (queueOf s q) then startDrain s i else s
    else s

/-! ## Queue commands (R128 to R131) -/

/-- Pinned queues of a partition. -/
def pinnedCount (s : State) (p : Nat) : Nat :=
  (s.queues.filter (fun e => e.2.st == .live && e.2.pin && (ctxOf s e.2.ctx).part == p)).length

/-- Whether a partition has an unpinned queue. -/
def anyUnpinned (s : State) (p : Nat) : Bool :=
  s.queues.any (fun e => e.2.st == .live && !e.2.pin && (ctxOf s e.2.ctx).part == p)

/-- The RESOURCE check of R129; a pinned queue beyond the last slot finds none (log 21). -/
def slotsLack (s : State) (p : Nat) (pin : Bool) : Bool :=
  let n := (slotsOf s p).length
  let k := pinnedCount s p
  n == 0 || (if pin then decide (n ≤ k) || (decide (n ≤ k + 1) && anyUnpinned s p) else decide (n ≤ k))

/-- A pinned queue takes its slot at creation, or waits for the lowest unpinned one (R132). -/
def bindPinned (s : State) (p q : Nat) : State :=
  match freeSlot s p with
  | some i => bindSlot s i q
  | none =>
    match idleLongest s p with
    | some i => bindSlot s i q
    | none =>
      match (slotsOf s p).find? (fun i => !slotPinned s i) with
      | some i => modSlot s i (fun x => { x with next := some q })
      | none => s

/-- Q_CREATE (R129). -/
def qCreateOp (s : State) (ctx q page : Nat) : Result × State :=
  if (queueOf s q).st != .free || (ctxOf s ctx).st != .active then (.bad3, s)
  else if !writePage s page (some ctx) then (.badBlock, s)
  else
    let (d, s) := pbTake s (page * 4096) 16
    let b : BitVec 128 := BitVec.ofNat 128 (leNat d)
    let sqLog := bits b 64 61
    let cqLog := bits b 97 94
    let sqOff := bits b 93 65
    let cqOff := bits b 127 98
    let p := (ctxOf s ctx).part
    if !(decide (4 ≤ sqLog ∧ sqLog ≤ 12 ∧ 4 ≤ cqLog ∧ cqLog ≤ 12 ∧
          sqOff * 64 + 64 * 2 ^ sqLog ≤ 2 ^ 35 ∧ cqOff * 32 + 32 * 2 ^ cqLog ≤ 2 ^ 35) &&
        apRangeIn s (sqOff * 64) (64 * 2 ^ sqLog) 1 ctx &&
        apRangeIn s (cqOff * 32) (32 * 2 ^ cqLog) 3 ctx) then (.badBlock, s)
    else if slotsLack s p (bit b 1) then (.resource, s)
    else
      let x : Queue := { st := .live, ctx := ctx, sqOff := sqOff, sqLog := sqLog, cqOff := cqOff,
                         cqLog := cqLog, pin := bit b 1, cqInt := bit b 0 }
      let s := { s with queues := tput s.queues q x }
      (.ok, if bit b 1 then bindPinned s p q else s)

/-- An arming ends: its references on the trigger and completion fences go (R118, R147; log 23). -/
def disarm (s : State) (key : Nat) : State :=
  match tfind s.graphs key with
  | none => s
  | some g =>
    armRelease { s with graphs := tput s.graphs key { g with arm := none } } g.arm

/-- Q_DESTROY (R131). -/
def qDestroyOp (s : State) (ctx q : Nat) : Result × State :=
  let x := queueOf s q
  if x.st != .live || x.ctx != ctx then (.bad3, s)
  else
    let s := modQueue (slotRelease s q) q (fun x => { x with st := .destroying, latch := false })
    let s := (unstarted s q).foldl (fun s id => cmdDone s id .preempted 0xFFFF) s
    let s := (tkeys s.graphs (fun _ g => g.arm.any (·.queue == q))).foldl disarm s
    (.ok, resolveHeld (queueSettle s q))

/-- Set FE_QCMD_STAT. -/
def setFeCmd (s : State) (st : CmdStat) : State := { s with feCmd := st }

/-- Carry out a queue command (Table 7-1). -/
def feRun (s : State) (raw : W64) : State :=
  let tag := bits raw 1 0
  match bits raw 3 2 with
  | 1 =>
    let (r, s) := qCreateOp s (bits raw 23 14) (bits raw 13 4) (bits raw 44 32)
    setFeCmd s (done tag r 0)
  | 2 =>
    let (r, s) := qDestroyOp s (bits raw 23 14) (bits raw 13 4)
    setFeCmd s (done tag r 0)
  | _ => setFeCmd s (done tag .badOp 0)

/-- A write of FE_QCMD (R128). -/
def feCmdWrite (s : State) (raw : W64) : State :=
  feCmd s 0x400 raw (bits raw 1 0) s.feCmd setFeCmd (fun s => feRun s raw)

/-- An FE_QCMD value (Table 7-1). -/
def qWord (page ctx queue op tag : Nat) : W64 :=
  BitVec.ofNat 64 (packNat [(page, 32), (ctx, 14), (queue, 4), (op, 2), (tag, 0)])

/-! ## Meanings -/

/-- QUEUE_BIND (R132). -/
def execQueueBind (queue : Nat) (s : State) : Host.Outcome State Fault Refusal :=
  onLive s (queueBindOp s queue)

/-- SLOT_SAMPLE (R97). -/
def execSlotSample (slot : Nat) (s : State) : Host.Outcome State Fault Refusal :=
  onLive s (slotSampleOp s slot)

/-- SLOT_FETCH (R99, R130). -/
def execSlotFetch (slot : Nat) (s : State) : Host.Outcome State Fault Refusal :=
  onLive s (slotFetchOp s slot)

/-- DRAIN_PASS_END (R97). -/
def execDrainPassEnd (slot : Nat) (s : State) : Host.Outcome State Fault Refusal :=
  onLive s (drainEndOp s slot)

/-- Q_CREATE (R129). -/
def execQCreate (tag : BitVec 2) (ctx queue pbPage : Nat) (s : State) :
    Host.Outcome State Fault Refusal := onLive s (feCmdWrite s (qWord pbPage ctx queue 1 tag.toNat))

/-- Q_DESTROY (R131). -/
def execQDestroy (tag : BitVec 2) (ctx queue : Nat) (s : State) :
    Host.Outcome State Fault Refusal := onLive s (feCmdWrite s (qWord 0 ctx queue 2 tag.toNat))

end Sys2Proof.Machine
end

