-- ==== Sys2Proof/Machine/Graphs.lean ====
section
/-! DEFINITION. Graphs.lean: starting commands, registering, arming and launching graphs, and the
graph walker (07 R133, R137 to R147). -/

namespace Sys2Proof.Machine

/-! ## Instances -/

/-- Change an instance. -/
def modInst (s : State) (id : Nat) (f : Inst → Inst) : State := { s with insts := tupd s.insts id f }

/-- The graph an instance runs. -/
def graphOf (s : State) (x : Inst) : Option Graph := tfind s.graphs x.key

/-- Whether an instance of a graph runs; a launch that switched to its fallback still is one of its own
graph (R142, R164). -/
def instBusy (s : State) (key : Nat) : Bool := s.insts.any fun e => e.2.key == key || e.2.home == key

/-- Whether command `id` is a LAUNCH_GRAPH that has started and has no instance yet. -/
def coming (s : State) (id : Nat) (c : Cmd) : Bool :=
  c.started && dOp c.desc == 1 && !s.insts.any (fun x => x.2.cmd == some id)

/-- Whether a graph has an instance that runs or a launch that has started (R133, R142, R146). -/
def keyBusy (s : State) (key : Nat) : Bool :=
  instBusy s key ||
  (tfind s.graphs key).any fun g => s.cmds.any fun e => e.2.graph == some g.reg && coming s e.1 e.2

/-- Whether the registered graph of a gid has a running instance. -/
def gidBusy (s : State) (ctx gid : Nat) : Bool := keyBusy s (graphKey ctx gid)

/-- The graph a command resolved to, while its gid still names it (R146, R440). -/
def cmdGraph (s : State) (c : Cmd) : Option Graph :=
  (tfind s.graphs (graphKey c.ctx (dGid c.desc))).filter (fun g => c.graph == some g.reg)

/-- Walker places a partition uses or has promised to a started launch (R143). -/
def walkerUse (s : State) (p : Nat) : Nat :=
  (s.insts.filter (fun e => e.2.part == p)).length +
  (s.cmds.filter (fun e => (ctxOf s e.2.ctx).part == p && coming s e.1 e.2)).length

/-- Walker places taken of the 128 shared ones (R143). -/
def walkerShared (s : State) : Nat := ((List.range 8).map (fun q => walkerUse s q - 16)).foldl (· + ·) 0

/-- Whether work of a partition may be started: dispatch runs and the partition is ON. -/
def partRuns (s : State) (p : Nat) : Bool := dispatching s && fnOn s p

/-! ## Starting a command (R133, R137) -/

/-- Every earlier command of its queue has started or, with serial set, completed: the wait counts from
here (R133, R137). -/
def inTurn (s : State) (id : Nat) (c : Cmd) : Bool :=
  !c.started && (unstarted s c.queue).head? == some id && dispatching s &&
  (!dSerial c.desc || !(s.cmds.any (fun e => e.2.queue == c.queue && decide (e.1 < id))))

/-- A command's wait is met, or it has none. -/
def waitMet (s : State) (c : Cmd) : Bool :=
  !dWaitEn c.desc || fenceMet s (dWaitFence c.desc) (dWaitVal c.desc)

/-- A command may start but for a walker place: its wait is met and no instance of its graph runs (R133). -/
def ready (s : State) (id : Nat) (c : Cmd) : Bool :=
  inTurn s id c && waitMet s c && fnOn s (ctxOf s c.ctx).part && !c.unresolved &&
  (dOp c.desc != 1 || !gidBusy s c.ctx (dGid c.desc))

/-- Launches that wait for a shared walker place, in launch order (R143). -/
def sharedWait (s : State) : List Nat :=
  tkeys s.cmds fun i c => dOp c.desc == 1 && decide (16 ≤ walkerUse s (ctxOf s c.ctx).part) && ready s i c

/-- A walker place for a launch: one of its partition's 16, or a shared one when no earlier launch waits for
it; a triggered launch, which has no place in a queue, comes after those that wait (R143; log 16). -/
def walkerRoom (s : State) (p : Nat) (id : Option Nat) : Bool :=
  decide (walkerUse s p < 16) || (decide (walkerShared s < 128) && (sharedWait s).head? == id)

/-- COMMAND_START: the oldest command of its queue starts once its wait is met; an abandoned fence
ends it, and a graph destroyed since its resolution refuses it (R120, R133, R137, R146). -/
def commandStartOp (s : State) (id : Nat) : State :=
  let s := resolveHeld s
  match tfind s.cmds id with
  | none => s
  | some c =>
    if inTurn s id c && dWaitEn c.desc && waitMet s c && (fenceOf s (dWaitFence c.desc)).abandoned then
      resolveHeld (cmdDone s id .abandoned 0xFFFF)
    else if ready s id c && (dOp c.desc != 1 || walkerRoom s (ctxOf s c.ctx).part (some id)) then
      if dOp c.desc = 1 && (cmdGraph s c).isNone then cmdRefuse s id 0xA (dGid c.desc) .formatFault
      else modCmd s id (fun c => { c with started := true })
    else s

/-- WAIT_TIMEOUT: wait_to has passed since the wait began to count (R137). -/
def waitTimeoutOp (s : State) (id : Nat) : State :=
  match tfind s.cmds id with
  | none => s
  | some c =>
    if inTurn s id c && dWaitEn c.desc && dWaitTo c.desc != 0 &&
        !fenceMet s (dWaitFence c.desc) (dWaitVal c.desc) then
      resolveHeld (cmdDone s id .timeout 0xFFFF)
    else s

/-- Act on a started command of an operation. -/
def startedCmd (s : State) (id op : Nat) (f : State → Cmd → State) : State :=
  match tfind s.cmds id with
  | none => s
  | some c => if c.started && dOp c.desc == op && dispatching s then f s c else s

/-- NOP completes (Table 7-6). -/
def nopOp (s : State) (id : Nat) : State := startedCmd s id 0 fun s _ => cmdDone s id .ok 0xFFFF

/-! ## Registration, destruction, arming (R139, R140, R146, R147) -/

/-- REGISTER_GRAPH: the image is checked; a registered graph holds its references (R139, R140). -/
def registerOp (s : State) (id : Nat) : State :=
  startedCmd s id 2 fun s c =>
    match imageFault s c, graphCheck s id c with
    | some m, _ => resolveHeld (hwFault s c.ctx m none)
    | none, .error n => resolveHeld (cmdRefuse s id 9 n .formatFault)
    | none, .ok g =>
      let s := g.fences.foldl fenceRef (g.objs.foldl objRef s)
      let s := { s with graphs := tput s.graphs (graphKey c.ctx (dGid c.desc)) g }
      resolveHeld (cmdDone s id .ok 0xFFFF)

/-- DESTROY_GRAPH: the arming ends and the gid is unregistered, a running instance is awaited, then
the graph goes (R146; log 40). -/
def destroyOp (s : State) (id : Nat) : State :=
  startedCmd s id 3 fun s c =>
    let key := graphKey c.ctx (dGid c.desc)
    if thas s.graphs (retiredKey id) then
      if keyBusy s (retiredKey id) then s
      else cmdDone (graphRemove s (retiredKey id)) id .ok 0xFFFF
    else if (cmdGraph s c).isSome then
      let s := disarm s key
      if keyBusy s key then graphRetire s key id
      else cmdDone (graphRemove s key) id .ok 0xFFFF
    else cmdRefuse s id 0xA (dGid c.desc) .formatFault

/-- Graphs armed on the device. -/
def armedCount (s : State) : Nat := (s.graphs.filter (·.2.arm.isSome)).length

/-- ARM_GRAPH (R147). -/
def armOp (s : State) (id : Nat) : State :=
  startedCmd s id 4 fun s c =>
    let d := c.desc
    let key := graphKey c.ctx (dGid d)
    match cmdGraph s c with
    | none => cmdRefuse s id 0xA (dGid d) .formatFault
    | some g =>
      if g.arm.isSome || 1024 ≤ armedCount s then cmdRefuse s id 0xA (dGid d) .formatFault
      else
        let a : Arm := { queue := c.queue, desc := d, trig := dTrig d, first := dFirst d,
                         step := BitVec.ofNat 32 (dStep d), target := (dFirst d).toNat, sig := c.sig }
        let s := fenceRef s (dTrig d)
        let s := if dSigEn d then fenceRef s (dSigFence d) else s
        cmdDone { s with graphs := tput s.graphs key { g with arm := some a } } id .ok 0xFFFF

/-- DISARM_GRAPH (R146). -/
def disarmOp (s : State) (id : Nat) : State :=
  startedCmd s id 5 fun s c =>
    if (cmdGraph s c).isSome then cmdDone (disarm s (graphKey c.ctx (dGid c.desc))) id .ok 0xFFFF
    else cmdRefuse s id 0xA (dGid c.desc) .formatFault

/-! ## Launching (R138, R142, R147) -/

/-- Bytes each patch writes, with its offset: TRIGGER always, the others only in a patched launch
(R138). -/
def patchWrites (vals : Bool) (trig : W64) : List W64 → List W64 → List Range → List (Nat × List Byte)
  | [], _, _ => []
  | p :: ps, vs, rs =>
    let v := vs.headD 0
    let o := 8 * pOff p
    match pType p with
    | 3 => (o, natBytes trig.toNat 8) :: patchWrites vals trig ps vs.tail rs
    | 0 =>
      let r := patchWrites vals trig ps vs.tail rs
      if vals then (o, natBytes v.toNat 8) :: r else r
    | 1 =>
      let r := patchWrites vals trig ps vs.tail rs.tail
      match vals, rs with
      | true, g :: _ =>
        (o, natBytes (packNat [(bits v 31 0, 0), (g.base, 64), (ceilDiv g.len 4096, 104)]) 16) :: r
      | _, _ => r
    | _ =>
      let r := patchWrites vals trig ps vs.tail rs
      if vals then (o, natBytes (bits v 13 0) 8) :: r else r

/-- Write into a graph's parameter block on behalf of the device (R138, R140). -/
def paramWrite (s : State) (g : Graph) (off : Nat) (d : List Byte) : State :=
  match macDrops s (g.param off) d.length with
  | some m => hwFault s g.ctx m none
  | none => dmWrite s (polAt s g.ctx (g.param off)) (g.param off) d

/-- Apply a launch's patches. -/
def applyPatches (s : State) (g : Graph) (vals : Bool) (trig : W64) (vs : List W64) (rs : List Range) :
    State :=
  (patchWrites vals trig g.patches vs rs).foldl (fun s w => paramWrite s g w.1 w.2) s

/-- Counters of a fresh instance: every npred copied, every node waiting (R143). -/
def freshNodes (g : Graph) : Tab NodeRt :=
  (g.nodes.zipIdx).map fun (n, i) => (i, { ctr := nPred n, st := .waiting })

/-- Rank of an instance (R151). -/
def instRank (s : State) (ctx gid : Nat) : Nat :=
  let c := ctxOf s ctx
  let monitored := s.mons.any fun m => m.2.ctx == ctx && (m.2.gid == gid || m.2.fb == gid)
  if monitored && (partRec s c.part).any (·.cls == 1) then 16 else c.prio

/-- A new instance of the graph at `key`, of a command or of an arming: normalised time counts from the
fetch or from the trigger (R142, R143, R151, R162). -/
def mkInst (s : State) (key : Nat) (g : Graph) (queue : Nat) (desc : BitVec 512) (cmd : Option Nat)
    (trig : Option W64) (sig : Bool) (c : Option Cmd) : Inst :=
  { ctx := g.ctx, gid := g.gid, key := key, home := key, part := (ctxOf s g.ctx).part, queue := queue
    desc := desc, cmd := cmd, trig := trig, s := (c.map (·.s)).getD (now35 s)
    rank := instRank s g.ctx g.gid, placed := false, released := false
    nodes := freshNodes g, ranges := g.ranges ++ (c.map (·.ranges)).getD []
    fencePatched := (c.map (·.fencePatched)).getD []
    handlePatched := (c.map (·.handlePatched)).getD []
    sig := sig, fail := none, mon := monOf s g.ctx g.gid, isFb := false
    norm := (c.map (·.normNow s)).getD 0, normAt := now35 s, built := [] }

/-- Add an instance under a fresh number. -/
def addInst (s : State) (x : Inst) : State :=
  { s with insts := tput s.insts s.orders x, orders := s.orders + 1 }

/-- The graph a started launch resolved to, under whatever key it now has. -/
def startedGraph (s : State) (c : Cmd) : Option (Nat × Graph) :=
  s.graphs.find? (fun e => c.graph == some e.2.reg)

/-- Started launches of a partition that may go to the walker. -/
def walkerReady (s : State) (p : Nat) : List (Nat × Cmd) :=
  s.cmds.filter fun e =>
    (ctxOf s e.2.ctx).part == p && coming s e.1 e.2 && (startedGraph s e.2).any (fun g => !instBusy s g.1)

/-- In direct mode the launches of a partition reach the walker round-robin over their slots, those of one
slot in queue order (R134). -/
def walkerTurn (s : State) (p id : Nat) (c : Cmd) : Bool :=
  let l := walkerReady s p
  s.cfg.central ||
  (rrNext (tget s.rr.walk p 31) ((List.range 32).filter (fun i => l.any (·.2.slot == i))) == some c.slot &&
    ((l.filter (·.2.slot == c.slot)).head?).map (·.1) == some id)

/-- LAUNCH_GRAPH: the parameter block is patched and the instance goes to the walker (R138, R142). -/
def launchOp (s : State) (id : Nat) : State :=
  startedCmd s id 1 fun s c =>
    let p := (ctxOf s c.ctx).part
    if !coming s id c || !fnOn s p then s
    else
      match startedGraph s c with
      | none => cmdRefuse s id 0xA (dGid c.desc) .formatFault
      | some (key, g) =>
        if instBusy s key || !walkerTurn s p id c then s
        else
          let s := { s with rr := { s.rr with walk := tput s.rr.walk p c.slot } }
          applyPatches (addInst s (mkInst s key g c.queue c.desc (some id) none c.sig (some c))) g
            (dPatch c.desc) (BitVec.ofNat 64 (dTag c.desc)) c.pvals c.ranges

/-- Smallest first + j·step above v (R147). -/
def Arm.nextTarget (a : Arm) (v : W64) : Nat :=
  if v < a.first then a.first.toNat
  else a.first.toNat + ((v.toNat - a.first.toNat) / a.step.toNat + 1) * a.step.toNat

/-- A record that belongs to an arming: it takes a ring place and uses it at once. -/
def armRecord (s : State) (a : Arm) (v : W64) (st : Status) (errIdx : BitVec 16) : State :=
  let s := modQueue s a.queue (fun q => { q with resv := q.resv + 1 })
  writeRec s { queue := a.queue, tag := dTag a.desc, sig := sigOf a.sig a.desc v, status := st,
               errIdx := errIdx }

/-- TRIGGERED_LAUNCH: what the walker does with an armed graph whose trigger fence has reached the
target, or is abandoned (R147); a teardown has stopped the launches of its context (Table 6-13). R147 does not
say what becomes of a launch held pending behind a running instance when its trigger fence is abandoned or
its graph disarmed: DESIGN CHOICE, it is dropped with the arming (log 40). -/
def triggeredOp (s : State) (ctx gid : Nat) : State :=
  let key := graphKey ctx gid
  match tfind s.graphs key with
  | none => s
  | some g =>
    match g.arm with
    | none => s
    | some a =>
      let f := fenceOf s a.trig
      let raised (s : State) : State :=
        { s with graphs := tupd s.graphs key (fun g => { g with
            arm := some { a with target := a.nextTarget f.val } }) }
      if !dispatching s || (ctxOf s ctx).st = .teardown then s
      else if f.abandoned then
        if placeFree (queueOf s a.queue) then
          disarm (armRecord s a (dSigVal a.desc) .abandoned 0xFFFF) key
        else s
      else if f.val.toNat < a.target then s
      else if (ctxOf s ctx).st != .active then
        if placeFree (queueOf s a.queue) then
          armRecord (raised s) a f.val .contextLost (ctxOf s ctx).errIdx
        else event (raised s) 0x0032 0 6 0 0 gid (some ctx)
      else if gidBusy s ctx gid || !walkerRoom s (ctxOf s ctx).part none || !fnOn s (ctxOf s ctx).part then s
      else if !placeFree (queueOf s a.queue) then event (raised s) 0x0032 0 6 0 0 gid (some ctx)
      else
        let s := modQueue (raised s) a.queue (fun q => { q with resv := q.resv + 1 })
        applyPatches (addInst s (mkInst s key g a.queue a.desc none (some f.val) a.sig none)) g false f.val [] []

/-! ## The walker (R143 to R145) -/

/-- Whether a node of an instance runs. -/
def anyRunning (x : Inst) : Bool := x.nodes.any (·.2.st == .running)

/-- A failed instance ends once no node runs (R144). -/
def settleFail (s : State) (id : Nat) : State :=
  match tfind s.insts id with
  | none => s
  | some x =>
    match x.fail with
    | none => s
    | some (st, e) => if anyRunning x then s else finishInst s id st (BitVec.ofNat 16 e)

/-- A run-time check ends an instance without loss of its context: no further node starts, running
nodes run to their end (R144, R301, R364; check 0xB). -/
def failInst (s : State) (id node : Nat) (st : Status) : State :=
  match tfind s.insts id with
  | none => s
  | some x =>
    if x.fail.isSome then s
    else
      let t := submitFault s x.ctx x.queue 0xB node st
      settleFail (modInst t id (fun x => { x with fail := some (st, (errIdxNew s t).toNat) })) id

/-- The fence and value a WAIT or SIGNAL node names; none when an indirect one's index was not
written by a FENCE patch of this launch (R144). -/
def nodeFence (s : State) (g : Graph) (x : Inst) (n : BitVec 512) : Option (Nat × W64) :=
  if nInd n then
    if x.fencePatched.contains (nParam n) then
      some (dmNum s (g.param (8 * nParam n)) 2 % 16384,
            BitVec.ofNat 64 (dmNum s (g.param (8 * nParam n + 8)) 8))
    else none
  else some (nFence n, nValue n)

/-- What reading the 16 bytes of an indirect WAIT or SIGNAL node, or the handle of a FREE node, meets
(R297, R404). -/
def nodeParamFault (s : State) (g : Graph) (n : BitVec 512) : Option MemFault :=
  if nType n = 9 then dmFault s (g.param (8 * nParam n)) 4
  else if nInd n && (nType n == 5 || nType n == 6) then dmFault s (g.param (8 * nParam n)) 16
  else none

/-- Change a node of an instance. -/
def modNode (s : State) (id n : Nat) (f : NodeRt → NodeRt) : State :=
  modInst s id (fun x => { x with nodes := tupd x.nodes n f })

/-- A node's run-time state. -/
def Inst.node (x : Inst) (n : Nat) : NodeRt := tget x.nodes n { ctr := 0, st := .waiting }

/-- Indices of a graph's nodes that satisfy a test. -/
def nodesWhere (g : Graph) (p : BitVec 512 → Bool) : List Nat :=
  ((g.nodes.zipIdx).filter (fun e => p e.1)).map (·.2)

/-- Release the roots: WAIT nodes are done, the roots of the directory record are ready, and with 64 of them
there the rest of the node table's; an instance with no other node ends (R141, R143, R145). -/
def releaseRoots (s : State) (id : Nat) (g : Graph) : State :=
  let s := modInst s id fun x => { x with
    released := true
    norm := if x.isFb then 0 else x.norm
    normAt := if x.isFb then now35 s else x.normAt
    nodes := x.nodes.map fun e =>
      let n := g.nodes.getD e.1 0
      (e.1, if nType n = 5 then { e.2 with st := .done }
            else if g.roots.contains e.1 || (64 ≤ g.roots.length && e.2.ctr == 0) then { e.2 with st := .ready }
            else e.2) }
  if g.nodes.all (fun n => nType n == 5) then finishInst s id .ok 0xFFFF else s

/-- INSTANCE_START: the instance takes its walker place and waits on its WAIT nodes, each done when it is
met; once all are its roots are released. One that meets an abandoned fence ends the instance (R143, R144). -/
def instStartOp (s : State) (id : Nat) : State :=
  match tfind s.insts id with
  | none => s
  | some x =>
    match graphOf s x with
    | none => s
    | some g =>
      if x.released || !partRuns s x.part then s
      else
        let s := modInst s id (fun x => { x with placed := true })
        let waits := nodesWhere g (fun n => nType n == 5)
        match waits.findSome? (fun i => nodeParamFault s g (g.nodes.getD i 0)),
            waits.find? (fun i => (nodeFence s g x (g.nodes.getD i 0)).isNone) with
        | some m, _ => hwFault s x.ctx m (some id)
        | none, some i => failInst s id i .formatFault
        | none, none =>
          let left := waits.filter (fun i => (x.node i).st != .done)
          let fence (i : Nat) : Nat × W64 := (nodeFence s g x (g.nodes.getD i 0)).getD (0, 0)
          let met (i : Nat) : Bool := fenceMet s (fence i).1 (fence i).2
          if left.any (fun i => (fenceOf s (fence i).1).abandoned) then finishInst s id .abandoned 0xFFFF
          else if left.all met then releaseRoots s id g
          else (left.filter met).foldl (fun t i => modNode t id i (fun r => { r with st := .done })) s

/-- WAIT_NODE_TIMEOUT: a WAIT node passes its limit before any other node has started (R144). -/
def waitNodeTimeoutOp (s : State) (id node : Nat) : State :=
  match tfind s.insts id with
  | none => s
  | some x =>
    match graphOf s x with
    | none => s
    | some g =>
      let n := g.nodes.getD node 0
      match nodeFence s g x n with
      | none => s
      | some f =>
        if x.placed && !x.released && dispatching s && decide (node < g.nodes.length) &&
            (x.node node).st != .done && nType n == 5 && nLimit n != 0 && !fenceMet s f.1 f.2 then
          finishInst s id .timeout 0xFFFF
        else s

/-- A node with nothing left to run. -/
def nodeEnded (s : State) (id n : Nat) : State := modNode s id n (fun r => { r with ended := 1 })

/-- An object named by a direct handle, as registration holds it. -/
def heldObj (s : State) (n : BitVec 512) (k : Nat) : Obj := tget s.objs (nHandle n k % 262144) {}

/-- Start of a COPY node: offset and length inside both objects, and no registered image under the
destination (R106, R140). -/
def copyStart (s : State) (id i : Nat) (x : Inst) (n : BitVec 512) : State :=
  let a := heldObj s n 0
  let b := heldObj s n 1
  if a.len < nEntry n + nCopyLen n then
    fixedFault s x.ctx 6 0 .boundFault (a.base + nEntry n) (some id)
  else if b.len < nCopyDst n + nCopyLen n ||
      (b.remote.isNone && imageHit s (b.base + nCopyDst n) (nCopyLen n)) then
    fixedFault s x.ctx 6 0 .boundFault (b.base + nCopyDst n) (some id)
  else nodeEnded s id i

/-- Start of a SIGNAL node: its fence is signalled without the error bit (R144). -/
def signalStart (s : State) (id i : Nat) (x : Inst) (g : Graph) (n : BitVec 512) : State :=
  match nodeFence s g x n with
  | none => failInst (nodeEnded s id i) id i .formatFault
  | some (f, v) => nodeEnded (fenceSignal s f v false) id i

/-- Whether a handle names a LIVE allocator object of a context. -/
def liveAlloc (s : State) (ctx h : Nat) : Bool :=
  match tfind s.objs (h % 262144) with
  | none => false
  | some o => allocIdx (h % 262144) && o.st == .live && o.gen == h / 262144 && o.owner == ctx && o.ownerHolds

/-- A block is freed: its owner leaves it (R112, R116). -/
def allocFree (s : State) (h : Nat) : State :=
  let i := h % 262144
  reserveDrop (modObj s i (fun o => Obj.settle i { o with ownerHolds := false })) (tget s.objs i {}).owner i

/-- Start of a FREE node (Table 7-9). -/
def freeStart (s : State) (id i : Nat) (x : Inst) (g : Graph) (n : BitVec 512) : State :=
  let h := dmNum s (g.param (8 * nParam n)) 4
  if h = 0 then nodeEnded s id i
  else if liveAlloc s x.ctx h then nodeEnded (allocFree s h) id i
  else failInst (modNode s id i (fun r => { r with st := .done })) id i .formatFault

/-- Lowest-numbered ready node (R143). -/
def firstReady (x : Inst) : Option Nat := (x.nodes.find? (fun e => e.2.st == .ready)).map (·.1)

/-- NODE_START: ready nodes start in index order (R143). DRAW, COMPRESS and STEP nodes are then
served by their units, KERNEL nodes by workgroup placement. -/
def nodeStartOp (s : State) (id i : Nat) : State :=
  match tfind s.insts id with
  | none => s
  | some x =>
    match graphOf s x with
    | none => s
    | some g =>
      let n := g.nodes.getD i 0
      if x.released && x.fail.isNone && firstReady x == some i && partRuns s x.part &&
          (nType n != 8 || decide (s.fly.allocs.length < 64)) then
        let s := modNode s id i (fun r => { r with st := .running, since := now35 s })
        match nodeParamFault s g n with
        | some m => hwFault s x.ctx m (some id)
        | none => match nType n with
        | 0 => nodeEnded s id i
        | 3 => copyStart s id i x n
        | 6 => signalStart s id i x g n
        | 8 => { s with fly := { s.fly with
                  allocs := s.fly.allocs ++ [.node id i x.ctx (nClass n) (8 * nParam n)] } }
        | 9 => freeStart s id i x g n
        | _ => s
      else s

/-- A fixed-function node's write of device memory: refused under a registered image, dropped where a
line's MAC fails (R140, R297). -/
def nodeWrite (s : State) (id : Nat) (x : Inst) (a : Nat) (d : List Byte) : State :=
  if imageHit s a d.length then fixedFault s x.ctx 6 0 .boundFault a (some id)
  else match macDrops s a d.length with
    | some m => hwFault s x.ctx m (some id)
    | none => dmWrite s (polAt s x.ctx a) a d

/-- A COPY node's bytes reach their destination; proxies lie on another chip (R398). -/
def copyBytes (s : State) (id : Nat) (x : Inst) (n : BitVec 512) : State :=
  let a := heldObj s n 0
  let b := heldObj s n 1
  let src := a.base + nEntry n
  let dst := b.base + nCopyDst n
  let fault := if a.remote.isSome then none else dmFault s src (nCopyLen n)
  match fault with
  | some m => hwFault s x.ctx m (some id)
  | none =>
    let (d, s) := if a.remote.isSome then freeBytes s (nCopyLen n)
      else (dmRead s src (nCopyLen n), dmTouch s (polAt s x.ctx src) src (nCopyLen n))
    if b.remote.isSome then s else nodeWrite s id x dst d

/-- Work a node needs before it completes: workgroups ended, or 1. -/
def nodeNeed (n : BitVec 512) : Nat := if nType n = 1 then nGroups n else 1

/-- Count a completion into a successor: its counter falls, and at 0 it is ready (R143). -/
def decNode (r : NodeRt) : NodeRt :=
  if r.ctr = 1 then { r with ctr := 0, st := .ready } else { r with ctr := r.ctr - 1 }

/-- A node is done: its successors are counted down, and an instance with every node done ends
(R143, R145). -/
def nodeDone (s : State) (id i : Nat) (g : Graph) : State :=
  let n := g.nodes.getD i 0
  let s := modNode s id i (fun r => { r with st := .done })
  let s := (succOf g.edges n).foldl (fun s j => modNode s id j decNode) s
  match tfind s.insts id with
  | none => s
  | some x =>
    if x.fail.isSome then settleFail s id
    else if x.nodes.all (·.2.st == .done) then finishInst s id .ok 0xFFFF
    else s

/-- NODE_COMPLETE (R143). -/
def nodeCompleteOp (s : State) (id i : Nat) : State :=
  match tfind s.insts id with
  | none => s
  | some x =>
    match graphOf s x with
    | none => s
    | some g =>
      let n := g.nodes.getD i 0
      if (x.node i).st = .running && decide (nodeNeed n ≤ (x.node i).ended) && dispatching s then
        let s := if nType n = 3 then copyBytes s id x n else s
        nodeDone s id i g
      else s

/-! ## Meanings -/

/-- COMMAND_START (R133). -/
def execCommandStart (cmd : Nat) (s : State) : Host.Outcome State Fault Refusal :=
  onLive s (commandStartOp s cmd)

/-- WAIT_TIMEOUT (R137). -/
def execWaitTimeout (cmd : Nat) (s : State) : Host.Outcome State Fault Refusal :=
  onLive s (waitTimeoutOp s cmd)

/-- LAUNCH_GRAPH (R138). -/
def execLaunchGraph (cmd : Nat) (s : State) : Host.Outcome State Fault Refusal := onLive s (launchOp s cmd)

/-- REGISTER_GRAPH (R139). -/
def execRegisterGraph (cmd : Nat) (s : State) : Host.Outcome State Fault Refusal :=
  onLive s (registerOp s cmd)

/-- DESTROY_GRAPH (R146). -/
def execDestroyGraph (cmd : Nat) (s : State) : Host.Outcome State Fault Refusal :=
  onLive s (destroyOp s cmd)

/-- ARM_GRAPH (R147). -/
def execArmGraph (cmd : Nat) (s : State) : Host.Outcome State Fault Refusal := onLive s (armOp s cmd)

/-- DISARM_GRAPH (R146). -/
def execDisarmGraph (cmd : Nat) (s : State) : Host.Outcome State Fault Refusal := onLive s (disarmOp s cmd)

/-- NOP (Table 7-6). -/
def execNopCommand (cmd : Nat) (s : State) : Host.Outcome State Fault Refusal := onLive s (nopOp s cmd)

/-- TRIGGERED_LAUNCH (R147). -/
def execTriggeredLaunch (ctx gid : Nat) (s : State) : Host.Outcome State Fault Refusal :=
  onLive s (triggeredOp s ctx gid)

/-- INSTANCE_START (R143). -/
def execInstanceStart (inst : Nat) (s : State) : Host.Outcome State Fault Refusal :=
  onLive s (instStartOp s inst)

/-- WAIT_NODE_TIMEOUT (R144). -/
def execWaitNodeTimeout (inst node : Nat) (s : State) : Host.Outcome State Fault Refusal :=
  onLive s (waitNodeTimeoutOp s inst node)

/-- NODE_START (R143). -/
def execNodeStart (inst node : Nat) (s : State) : Host.Outcome State Fault Refusal :=
  onLive s (nodeStartOp s inst node)

/-- NODE_COMPLETE (R143). -/
def execNodeComplete (inst node : Nat) (s : State) : Host.Outcome State Fault Refusal :=
  onLive s (nodeCompleteOp s inst node)

end Sys2Proof.Machine
end

