-- ==== Sys2Proof/Machine/Pixels.lean ====
section
/-! DEFINITION. Pixels.lean: attachment formats, blending, depth and stencil tests and the lossless
tile format (15 Tables 15-2 to 15-5, R300, R315 to R318). -/

namespace Sys2Proof.Machine

/-! ## Formats (Table 15-4) -/

/-- Bytes per sample. -/
def pxBytes (f : Nat) : Nat := if f = 3 then 8 else if f = 5 then 1 else 4

/-- Channel widths, lowest channel first. -/
def pxChans (f : Nat) : List Nat :=
  match f with
  | 0 => [8, 8, 8, 8] | 1 => [8, 8, 8, 8] | 2 => [10, 10, 10, 2] | 3 => [16, 16, 16, 16] | 4 => [16, 16]
  | 5 => [8] | _ => [16, 16]

/-- Codes of colour and of depth formats. -/
def colourFmt (f : Nat) : Bool := decide (f ≤ 6)
def depthFmt (f : Nat) : Bool := f == 8 || f == 9

/-- Split a number into fields of the given widths, lowest first. -/
def fields : List Nat → Nat → List Nat
  | [], _ => []
  | w :: r, x => x % 2 ^ w :: fields r (x / 2 ^ w)

/-- Join fields, lowest first. -/
def joinFields : List Nat → List Nat → Nat
  | w :: ws, x :: xs => x % 2 ^ w + 2 ^ w * joinFields ws xs
  | _, _ => 0

/-! ## Channels (R315) -/

/-- code / (2^n − 1) in FP32, rounded by RNE. -/
def unormDecode (n code : Nat) : W32 :=
  let d := 2 ^ n - 1
  let q := code * 2 ^ 60 / d
  let stick := if code * 2 ^ 60 % d = 0 then 0 else 1
  if code = 0 then 0 else BitVec.ofNat 32 (fpEncode 0 0 (.fin false (2 * q + stick) (-61)))

/-- Clamp to [0, 1], times 2^n − 1, rounded by RNE; a NaN gives 0 (log 29). -/
def unormEncode (n : Nat) (x : W32) : Nat :=
  let d := 2 ^ n - 1
  match fpDecode 0 x.toNat with
  | .nan => 0
  | .inf neg => if neg then 0 else d
  | .fin neg m e =>
    if neg then 0
    else min d (fpToInt 0 false (m * d) e).toNat

/-- FP16 channel to FP32, and back by RNE. -/
def halfDecode (c : Nat) : W32 := BitVec.ofNat 32 (convert 1 0 0 c)
def halfEncode (x : W32) : Nat := convert 0 1 0 x.toNat

/-- Decode a stored value to R, G, B, A in FP32; a channel the format lacks is 0, alpha 1 (log 29). -/
def pxDecode (f raw : Nat) : List W32 :=
  let one : W32 := 0x3F800000
  match f, fields (pxChans f) raw with
  | 1, [r, g, b, a] =>
    [Config.srgbDecode (BitVec.ofNat 8 r), Config.srgbDecode (BitVec.ofNat 8 g),
     Config.srgbDecode (BitVec.ofNat 8 b), unormDecode 8 a]
  | 2, [r, g, b, a] => [unormDecode 10 r, unormDecode 10 g, unormDecode 10 b, unormDecode 2 a]
  | 3, [r, g, b, a] => [halfDecode r, halfDecode g, halfDecode b, halfDecode a]
  | 4, _ => [BitVec.ofNat 32 raw, 0, 0, one]
  | 5, [r] => [unormDecode 8 r, 0, 0, one]
  | 6, [r, g] => [halfDecode r, halfDecode g, 0, one]
  | _, [r, g, b, a] => [unormDecode 8 r, unormDecode 8 g, unormDecode 8 b, unormDecode 8 a]
  | _, _ => [0, 0, 0, one]

/-- Encode R, G, B, A. -/
def pxEncode (f : Nat) (c : List W32) : Nat :=
  let k (i : Nat) : W32 := c.getD i 0
  let s (i : Nat) : Nat := (Config.srgbEncode (k i)).toNat
  match f with
  | 1 => joinFields (pxChans 1) [s 0, s 1, s 2, unormEncode 8 (k 3)]
  | 2 => joinFields (pxChans 2) [unormEncode 10 (k 0), unormEncode 10 (k 1), unormEncode 10 (k 2), unormEncode 2 (k 3)]
  | 3 => joinFields (pxChans 3) [halfEncode (k 0), halfEncode (k 1), halfEncode (k 2), halfEncode (k 3)]
  | 4 => (k 0).toNat
  | 5 => unormEncode 8 (k 0)
  | 6 => joinFields (pxChans 6) [halfEncode (k 0), halfEncode (k 1)]
  | _ => joinFields (pxChans 0) [unormEncode 8 (k 0), unormEncode 8 (k 1), unormEncode 8 (k 2), unormEncode 8 (k 3)]

/-! ## Blending (R302, R315) -/

/-- FP32 sum, difference and product by RNE. -/
def f32Add (x y : W32) : W32 := BitVec.ofNat 32 (fpEncode 0 0 (fpAdd 0 (fpDecode 0 x.toNat) (fpDecode 0 y.toNat)))
def f32Sub (x y : W32) : W32 :=
  BitVec.ofNat 32 (fpEncode 0 0 (fpAdd 0 (fpDecode 0 x.toNat) (fpNeg (fpDecode 0 y.toNat))))
def f32Mul (x y : W32) : W32 := BitVec.ofNat 32 (fpEncode 0 0 (fpMul (fpDecode 0 x.toNat) (fpDecode 0 y.toNat)))

/-- Blend factor of channel i. -/
def blendFactor (k : Nat) (src dst : List W32) (i : Nat) : W32 :=
  let one : W32 := 0x3F800000
  match k with
  | 0 => 0
  | 1 => one
  | 2 => src.getD 3 0
  | 3 => f32Sub one (src.getD 3 0)
  | 4 => dst.getD 3 0
  | 5 => f32Sub one (dst.getD 3 0)
  | 6 => src.getD i 0
  | _ => f32Sub one (src.getD i 0)

/-- Blend one channel under a blend word. -/
def blendChan (w : Nat) (src dst : List W32) (i : Nat) : W32 :=
  let s := src.getD i 0
  let d := dst.getD i 0
  let sf := f32Mul s (blendFactor (w / 8 % 8) src dst i)
  let df := f32Mul d (blendFactor (w / 64 % 8) src dst i)
  match w % 8 with
  | 0 => s
  | 1 => f32Add sf df
  | 2 => f32Sub sf df
  | 3 => f32Sub df sf
  | 4 => BitVec.ofNat 32 (fpMinMax 0 false s.toNat d.toNat)
  | _ => BitVec.ofNat 32 (fpMinMax 0 true s.toNat d.toNat)

/-- Store a colour into a sample: blended, encoded, and only the channels of the mask, R in its lowest
bit. -/
def blendStore (f w : Nat) (src : List W32) (old : Nat) : Nat :=
  let dst := pxDecode f old
  let new := pxEncode f ((List.range 4).map (blendChan w src dst))
  if f = 4 then (if (w / 4096).testBit 0 then new else old)
  else
    let pick := ((fields (pxChans f) old).zip (fields (pxChans f) new)).zipIdx.map
      fun (e, i) => if (w / 4096).testBit i then e.2 else e.1
    joinFields (pxChans f) pick

/-! ## Depth and stencil (R302, R311) -/

/-- A comparison code on an order. -/
def cmpCode (k : Nat) (lt eq : Bool) : Bool :=
  match k with
  | 0 => false | 1 => lt | 2 => eq | 3 => lt || eq | 4 => !lt && !eq | 5 => !eq | 6 => !lt | _ => true

/-- Stencil operation on an 8-bit value. -/
def stencilOp (k v ref : Nat) : Nat :=
  match k with
  | 0 => v | 1 => 0 | 2 => ref | 3 => min 255 (v + 1) | 4 => v - 1 | 5 => 255 - v | 6 => (v + 1) % 256
  | _ => (v + 255) % 256

/-- A depth as the format stores it. -/
def depthCode (f : Nat) (z : W32) : Nat := if f = 9 then unormEncode 24 z else z.toNat

/-- Fields of a draw record the tests use (Table 15-5). -/
def drSEn (d : BitVec 512) : Bool := bit d 377
def drZTest (d : BitVec 512) : Bool := bit d 356
def drZWrite (d : BitVec 512) : Bool := bit d 355
def drLateZ (d : BitVec 512) : Bool := bit d 346
def drBlend (d : BitVec 512) (i : Nat) : Nat := bits d (16 * i + 399) (16 * i + 384)
def drNvar (d : BitVec 512) : Nat := bits d 351 347

/-- Test one sample against a stored depth value: whether it survives, and the new stored value. A
depth format without stencil passes the stencil test (log 29). -/
def depthTest (d : BitVec 512) (f : Nat) (z : W32) (old : Nat) : Bool × Nat :=
  let zs := depthCode f z
  let zo := if f = 9 then old % 2 ^ 24 else old
  let st := if f = 9 then old / 2 ^ 24 % 256 else 0
  let ref := bits d 367 360
  let sOk := !drSEn d || f != 9 || cmpCode (bits d 370 368) (decide (ref < st)) (ref == st)
  let lt := if f = 9 then decide (zs < zo) else fpLt (fpDecode 0 zs) (fpDecode 0 zo)
  let eq := if f = 9 then zs == zo else fpEq (fpDecode 0 zs) (fpDecode 0 zo)
  let zOk := !drZTest d || cmpCode (bits d 354 352) lt eq
  let st' := if !drSEn d then st
    else if !sOk then stencilOp (bits d 376 374) st ref
    else if zOk then stencilOp (bits d 373 371) st ref else st
  let z' := if sOk && zOk && drZWrite d then zs else zo
  (sOk && zOk, if f = 9 then z' + st' * 2 ^ 24 else z')

/-! ## Lossless tile format (R316 to R318) -/

/-- Pixel index in the tile of position j of block b: 16 blocks of 8 × 8 in raster order. -/
def blockPx (b j : Nat) : Nat := (b / 4 * 8 + j / 8) * 32 + b % 4 * 8 + j % 8

/-- Zigzag of a signed residue of cb bits, and back. -/
def zigzag (cb r : Nat) : Nat :=
  let x := signed cb r
  if x < 0 then (-2 * x - 1).toNat else (2 * x).toNat
def unzigzag (u : Nat) : Int := if u % 2 = 0 then (u / 2 : Nat) else -((u / 2 : Nat) : Int) - 1

/-- Bits that hold a number. -/
def bitsFor (n : Nat) : Nat := if n = 0 then 0 else flog2 n + 1

/-- A bit stream: its value and its length. -/
def putBits (s : Nat × Nat) (v n : Nat) : Nat × Nat := (s.1 + v % 2 ^ n * 2 ^ s.2, s.2 + n)

/-- Encode channel values of one block (64 of them). -/
def encodeChan (s : Nat × Nat) (cb : Nat) (p : List Nat) : Nat × Nat :=
  let at_ (j : Nat) : Nat := p.getD j 0
  let us := (List.range' 1 63).map fun j =>
    let pred := if 0 < j % 8 then at_ (j - 1) else at_ (j - 8)
    zigzag cb (wrap cb ((at_ j : Int) - (pred : Int)))
  let w := bitsFor (us.foldl max 0)
  us.foldl (fun s u => putBits s u w) (putBits (putBits s w 5) (at_ 0) cb)

/-- Encode a tile of 1,024 pixel values. -/
def encodeTile (f : Nat) (px : List Nat) : Nat × Nat :=
  (List.range 16).foldl (fun s b =>
    let blk := (List.range 64).map (fun j => fields (pxChans f) (px.getD (blockPx b j) 0))
    ((pxChans f).zipIdx).foldl (fun s e => encodeChan s e.1 (blk.map (fun v => v.getD e.2 0))) s) (0, 0)

/-- Values of one channel of a block, read from a stream at a position. -/
def decodeChan (x pos cb : Nat) : List Nat × Nat :=
  let w := x / 2 ^ pos % 32
  let base := x / 2 ^ (pos + 5) % 2 ^ cb
  let p0 := pos + 5 + cb
  let vals := (List.range' 1 63).foldl (fun (l : List Nat) j =>
    let u := x / 2 ^ (p0 + (j - 1) * w) % 2 ^ w
    let pred := if 0 < j % 8 then l.getD (j - 1) 0 else l.getD (j - 8) 0
    l ++ [wrap cb ((pred : Int) + unzigzag u)]) [base]
  (vals, p0 + 63 * w)

/-- Channel values of a block. -/
def decodeBlock (x : Nat) : List Nat → Nat → List (List Nat) × Nat
  | [], pos => ([], pos)
  | cb :: r, pos =>
    let (v, p) := decodeChan x pos cb
    let (vs, q) := decodeBlock x r p
    (v :: vs, q)

/-- Decode a mode 1 slot to 1,024 pixel values. -/
def decodeTile (f x : Nat) : List Nat :=
  let blocks := ((List.range 16).foldl (fun (acc : List (List Nat) × Nat) _ =>
    let (vs, p) := decodeBlock x (pxChans f) acc.2
    let px := (List.range 64).map fun j => joinFields (pxChans f) (vs.map (fun v => v.getD j 0))
    (acc.1 ++ [px], p)) ([], 0)).1
  (List.range 1024).map fun i =>
    let b := i / 32 / 8 * 4 + i % 32 / 8
    (blocks.getD b []).getD (i / 32 % 8 * 8 + i % 8) 0

/-- Header and slot bytes of a tile (R317); slot bytes past the encoded length are not written. -/
def tileStore (f : Nat) (px : List Nat) : List Byte × List Byte :=
  let b := pxBytes f
  let v := px.getD 0 0
  if px.all (· == v) then (natBytes (packNat [(v, 64), (2, 62)]) 16, [])
  else
    let (x, n) := encodeTile f px
    let units := ceilDiv n 1024
    if units * 128 < 1024 * b then (natBytes (packNat [(1, 62), (units, 0)]) 16, natBytes x (units * 128))
    else (natBytes 0 16, px.flatMap (fun p => natBytes p b))

/-- Pixel values of a tile from its header and slot. -/
def tileLoad (f : Nat) (hdr : Nat) (slot : List Byte) : List Nat :=
  let b := pxBytes f
  match hdr / 2 ^ 62 % 4 with
  | 2 => List.replicate 1024 (hdr / 2 ^ 64 % 2 ^ (8 * b))
  | 1 => decodeTile f (leNat slot)
  | _ => (List.range 1024).map (fun i => leNat ((slot.drop (i * b)).take b))

end Sys2Proof.Machine
end

