-- ==== Sys2Proof/Machine/RasGeom.lean ====
section
/-! DEFINITION. RasGeom.lean: a pass's descriptor, the triangles of its draw list, and the fragments each
triangle gives a tile (15 R299 to R314). -/

namespace Sys2Proof.Machine

/-! ## Pass descriptor (Tables 15-2, 15-3) -/

def pdWidth (d : BitVec 1024) : Nat := bits d 15 0
def pdHeight (d : BitVec 1024) : Nat := bits d 31 16
def pdSlog (d : BitVec 1024) : Nat := bits d 34 32
def pdNcol (d : BitVec 1024) : Nat := bits d 37 35
def pdDepth (d : BitVec 1024) : Bool := bit d 38
def pdOrdered (d : BitVec 1024) : Bool := bit d 39
def pdNdraw (d : BitVec 1024) : Nat := bits d 75 60
/-- Attachment word i. -/
def pdAtt (d : BitVec 1024) (i : Nat) : Nat := bits d (64 * i + 191) (64 * i + 128)
/-- Clear value of attachment i. -/
def pdClear (d : BitVec 1024) (i : Nat) : Nat := bits d (64 * i + 511) (64 * i + 448)
def attFmt (w : Nat) : Nat := w / 2 ^ 17 % 16
def attLoad (w : Nat) : Nat := w / 2 ^ 21 % 4
def attStore (w : Nat) : Nat := w / 2 ^ 23 % 4
def attComp (w : Nat) : Bool := w.testBit 25

/-- Samples of a pixel. -/
def pdSamples (d : BitVec 1024) : Nat := 2 ^ pdSlog d
/-- Tiles across, and in the pass (R300). -/
def pdTilesX (d : BitVec 1024) : Nat := ceilDiv (pdWidth d) 32
def pdTiles (d : BitVec 1024) : Nat := pdTilesX d * ceilDiv (pdHeight d) 32
/-- Attachments in use: colour ones, then 4 for depth. -/
def pdAtts (d : BitVec 1024) : List Nat := List.range (pdNcol d) ++ (if pdDepth d then [4] else [])

/-- Draw record i of a pass, as its start read it. -/
def Pass.draw (p : Pass) (i : Nat) : BitVec 512 := p.draws.getD i 0

/-- The pass of a node. -/
def passOf (s : State) (inst node : Nat) : Option (Nat × Pass) :=
  s.passes.find? fun e => e.2.inst == inst && e.2.node == node

/-- Change a pass. -/
def modPass (s : State) (id : Nat) (f : Pass → Pass) : State := { s with passes := tupd s.passes id f }

/-! ## Triangles of the draw list (R302, Table 15-5) -/

def drCount (d : BitVec 512) : Nat := bits d 287 256
def drInst (d : BitVec 512) : Nat := bits d 255 224
def drIdxOff (d : BitVec 512) : Nat := bits d 223 184
/-- Bytes of an index: 0 where the draw has no index array. -/
def drIdx (d : BitVec 512) : Nat := 2 * bits d 183 182
def drStrip (d : BitVec 512) : Bool := bits d 181 180 == 1
def drCcw (d : BitVec 512) : Bool := bit d 359
def drCull (d : BitVec 512) : Nat := bits d 358 357
def drPerSample (d : BitVec 512) : Bool := bit d 345
/-- Scissor: x0, y0, x1, y1, the last two exclusive. -/
def drScissor (d : BitVec 512) : Nat × Nat × Nat × Nat := (bits d 479 464, bits d 463 448, bits d 511 496, bits d 495 480)

/-- Triangles of one instance of a draw. -/
def drTris (d : BitVec 512) : Nat := if drStrip d then drCount d - 2 else drCount d / 3

/-- The three vertices of triangle i: a strip's odd triangles swap their first two. -/
def triVerts (d : BitVec 512) (i : Nat) : List Nat :=
  if !drStrip d then [3 * i, 3 * i + 1, 3 * i + 2]
  else if i % 2 = 1 then [i + 1, i, i + 2] else [i, i + 1, i + 2]

/-- Address of index k of a draw. -/
def Pass.idxAt (p : Pass) (d : BitVec 512) (k : Nat) : Nat := p.geomAt + drIdxOff d + drIdx d * k

/-- The vertex a position in a draw names: itself, or the index the array holds there. -/
def vertexAt (s : State) (p : Pass) (d : BitVec 512) (k : Nat) : Nat :=
  if drIdx d = 0 then k else dmNum s (p.idxAt d k) (drIdx d)

/-- A place in the draw list: draw record, instance, triangle. -/
abbrev DrawPos := Nat × Nat × Nat

/-- The first place of the list from a draw record on that has a triangle. -/
def drawFrom (p : Pass) : Nat → Nat → Option DrawPos
  | 0, _ => none
  | n + 1, i =>
    if 0 < drTris (p.draw i) && 0 < drInst (p.draw i) then some (i, 0, 0) else drawFrom p n (i + 1)

/-- The place after one, in record, instance, triangle order. -/
def nextPos (p : Pass) (c : DrawPos) : Option DrawPos :=
  let (d, n, i) := c
  if i + 1 < drTris (p.draw d) then some (d, n, i + 1)
  else if n + 1 < drInst (p.draw d) then some (d, n + 1, 0)
  else drawFrom p (p.draws.length - (d + 1)) (d + 1)

/-- The next places from one, at most n. -/
def positions (p : Pass) : Nat → Option DrawPos → List DrawPos
  | 0, _ => []
  | _, none => []
  | n + 1, some c => c :: positions p n (nextPos p c)

/-- Key of a vertex's results: draw record, instance, vertex index. -/
def vertKey (d n v : Nat) : Nat := (d * 2 ^ 32 + n) * 2 ^ 32 + v

/-- Vertex indices of the triangle at a place. -/
def posVerts (s : State) (p : Pass) (c : DrawPos) : List Nat :=
  (triVerts (p.draw c.1) c.2.2).map (vertexAt s p (p.draw c.1))

/-- Keys of its vertices. -/
def posKeys (s : State) (p : Pass) (c : DrawPos) : List Nat := (posVerts s p c).map (vertKey c.1 c.2.1)

/-! ## Triangles on the screen (R303) -/

/-- Twice the signed area of a polygon: positive clockwise as seen, y growing downwards. -/
def polyArea (l : List (Int × Int)) : Int :=
  match l with
  | [] => 0
  | a :: r => ((l.zip (r ++ [a])).map (fun (u, v) => u.1 * v.2 - v.1 * u.2)).foldl (· + ·) 0

/-- A polygon in clockwise order as seen. -/
def polyCw (l : List (Int × Int)) : List (Int × Int) := if polyArea l < 0 then l.reverse else l

/-- Its edges. -/
def polyEdges (l : List (Int × Int)) : List ((Int × Int) × (Int × Int)) :=
  match l with
  | [] => []
  | a :: r => l.zip (r ++ [a])

/-- Which side of an edge a point lies on: positive inside a clockwise polygon. -/
def edgeSide (e : (Int × Int) × (Int × Int)) (q : Int × Int) : Int :=
  (e.2.1 - e.1.1) * (q.2 - e.1.2) - (e.2.2 - e.1.2) * (q.1 - e.1.1)

/-- A top or left edge of a clockwise polygon. -/
def topLeft (e : (Int × Int) × (Int × Int)) : Bool :=
  (decide (e.2.2 = e.1.2) && decide (e.1.1 < e.2.1)) || decide (e.2.2 < e.1.2)

/-- Whether a position lies inside a polygon, or on it where its edge is a top or left one (R303). -/
def polyCovers (l : List (Int × Int)) (q : Int × Int) : Bool :=
  decide (polyArea l ≠ 0) && (polyEdges (polyCw l)).all fun e =>
    decide (0 < edgeSide e q) || (decide (edgeSide e q = 0) && topLeft e)

/-- Convex, inside the guard band of ±2^15 pixels, and no longer than clipping against z ≥ 0, z ≤ w, w > 0
and the four sides of the guard band can leave a triangle. -/
def polyOk (l : List (Int × Int)) : Bool :=
  (l.isEmpty || decide (3 ≤ l.length ∧ l.length ≤ 10)) &&
  l.all (fun q => decide (-(2 ^ 23) ≤ q.1 ∧ q.1 ≤ 2 ^ 23 ∧ -(2 ^ 23) ≤ q.2 ∧ q.2 ≤ 2 ^ 23)) &&
  (polyEdges (polyCw l)).all (fun e => l.all (fun q => decide (0 ≤ edgeSide e q)))

/-- The part of a rectangle of pixels that scissor and pass extent leave: x0, y0, x1, y1. -/
def clipRect (desc : BitVec 1024) (d : BitVec 512) (x0 y0 x1 y1 : Nat) : Nat × Nat × Nat × Nat :=
  let (a, b, c, e) := drScissor d
  (max x0 a, max y0 b, min (min x1 c) (pdWidth desc), min (min y1 e) (pdHeight desc))

/-- Whether a polygon and a rectangle of pixels share area: no edge of either parts them. -/
def polyTouches (l : List (Int × Int)) (r : Nat × Nat × Nat × Nat) : Bool :=
  let (x0, y0, x1, y1) := r
  let c (x y : Nat) : Int × Int := (256 * (x : Int), 256 * (y : Int))
  let corners := [c x0 y0, c x1 y0, c x0 y1, c x1 y1]
  decide (x0 < x1 ∧ y0 < y1) && decide (polyArea l ≠ 0) &&
  l.any (fun q => decide ((c x0 y0).1 < q.1)) && l.any (fun q => decide (q.1 < (c x1 y1).1)) &&
  l.any (fun q => decide ((c x0 y0).2 < q.2)) && l.any (fun q => decide (q.2 < (c x1 y1).2)) &&
  (polyEdges (polyCw l)).all (fun e => corners.any (fun q => decide (0 < edgeSide e q)))

/-- Tiles a triangle of a draw is listed in: those whose area it touches, inside scissor and extent. -/
def polyTiles (desc : BitVec 1024) (d : BitVec 512) (l : List (Int × Int)) : List Nat :=
  (List.range (pdTiles desc)).filter fun t =>
    let x := t % pdTilesX desc * 32
    let y := t / pdTilesX desc * 32
    polyTouches l (clipRect desc d x y (x + 32) (y + 32))

/-- A triangle faces front: counter-clockwise as seen where ccw is set, else clockwise (Table 15-5). -/
def polyFront (d : BitVec 512) (l : List (Int × Int)) : Bool := decide (polyArea l < 0) == drCcw d

/-- A triangle the draw record culls. -/
def polyCulled (d : BitVec 512) (l : List (Int × Int)) : Bool :=
  (drCull d == 1 && !polyFront d l) || (drCull d == 2 && polyFront d l)

/-! ### Clipping (R303) -/

/-- 0 ≤ z, z ≤ w and w > 0 of a position x, y, z, w. -/
def clipTests (v : List W32) : Bool × Bool × Bool :=
  let z := fpDecode 0 (v.getD 2 0).toNat
  let w := fpDecode 0 (v.getD 3 0).toNat
  let zero : Fp := .fin false 0 0
  (fpLt zero z || fpEq zero z, fpLt z w || fpEq z w, fpLt zero w)

/-- Whether a polygon can be what clipping leaves of a triangle: nothing where every vertex is outside one
plane, and the triangle itself where all are inside each and the guard band cuts nothing. -/
def clipOk (vs : List (List W32)) (l : List (Int × Int)) : Bool :=
  let t := vs.map clipTests
  let atBand (q : Int × Int) : Bool := decide (q.1.natAbs = 2 ^ 23 ∨ q.2.natAbs = 2 ^ 23)
  (!(t.all (fun x => !x.1) || t.all (fun x => !x.2.1) || t.all (fun x => !x.2.2)) || l.isEmpty) &&
  (!t.all (fun x => x.1 && x.2.1 && x.2.2) || decide (l.length = 3) || l.any atBand)

/-! ## Fragments of a tile (R310, R311, R314) -/

/-- Sample positions in sixteenths of a pixel (Table 15-10). -/
def samplePos (slog : Nat) : List (Nat × Nat) :=
  match slog with
  | 0 => [(8, 8)]
  | 1 => [(4, 12), (12, 4)]
  | 2 => [(2, 6), (10, 2), (14, 10), (6, 14)]
  | _ => [(1, 9), (3, 3), (5, 13), (7, 7), (9, 1), (11, 11), (13, 5), (15, 15)]

/-- Whether a pixel takes part in a draw: inside its scissor and the pass (R300, R303). -/
def pixelIn (desc : BitVec 1024) (d : BitVec 512) (x y : Nat) : Bool :=
  let (x0, y0, x1, y1) := clipRect desc d 0 0 (2 ^ 16) (2 ^ 16)
  decide (x0 ≤ x ∧ x < x1 ∧ y0 ≤ y ∧ y < y1)

/-- Samples of a pixel that a triangle covers. -/
def triCover (p : Pass) (k x y : Nat) : Byte :=
  match p.tris[k]? with
  | none => 0
  | some t =>
    if !pixelIn p.desc (p.draw t.draw) x y then 0
    else ((samplePos (pdSlog p.desc)).zipIdx).foldl (fun m (q, j) =>
      if polyCovers t.poly (256 * (x : Int) + 16 * (q.1 : Int), 256 * (y : Int) + 16 * (q.2 : Int))
      then m ||| (1#8 <<< j) else m) 0

/-- A piece of shading: triangle, 2×2 quad of the tile, and the sample shaded where per_sample is set. -/
abbrev Item := Nat × Nat × Nat

/-- Pixels of a quad of a tile. -/
def quadPixels (desc : BitVec 1024) (t q : Nat) : List (Nat × Nat) :=
  let x := t % pdTilesX desc * 32 + q % 16 * 2
  let y := t / pdTilesX desc * 32 + q / 16 * 2
  [(x, y), (x + 1, y), (x, y + 1), (x + 1, y + 1)]

/-- What one triangle gives a tile to shade. -/
def triItems (p : Pass) (t k : Nat) : List Item :=
  let d := p.draw (((p.tris[k]?).map (·.draw)).getD 0)
  (List.range 256).flatMap fun q =>
    let m := (quadPixels p.desc t q).foldl (fun m e => m ||| triCover p k e.1 e.2) 0
    if drPerSample d then (setBits m (pdSamples p.desc)).map (fun j => (k, q, j))
    else if m = 0 then [] else [(k, q, 0)]

/-- What is left to shade of a tile, in submission order. -/
def tileTodo (p : Pass) (t : Nat) : List Item :=
  ((tget p.lists t []).flatMap (triItems p t)).filter (fun i => !(tget p.shaded t []).contains i)

/-! ## Accesses of a pass (R106) -/

/-- What stops an access of an instance's DRAW node: a refusal, or a memory error. -/
def drawCheck (s : State) (x : Inst) (a n : Nat) (r : Right) : Option (Option MemFault) :=
  if !permits s x.ctx x.ranges a n r then some none
  else (if r == .wr then macDrops s a n else dmFault s a n).map some

/-- The first index of the triangle at a place that cannot be read. -/
def posStop (s : State) (p : Pass) (c : DrawPos) : Option (Nat × Option MemFault) :=
  let d := p.draw c.1
  if drIdx d = 0 then none
  else match tfind s.insts p.inst with
    | none => none
    | some x => (triVerts d c.2.2).findSome? fun k =>
        (drawCheck s x (p.idxAt d k) (drIdx d) .rd).map (fun f => (p.idxAt d k, f))

/-! ## The binner's turn (R304) -/

/-- Rank of a pass's instance. -/
def passRank (s : State) (p : Pass) : Nat := ((tfind s.insts p.inst).map (·.rank)).getD 0

/-- Passes of a partition that still bin. -/
def binning (s : State) (part : Nat) : List (Nat × Pass) :=
  s.passes.filter (fun e => e.2.part == part && e.2.st != .render)

/-- The pass that holds the binner in a partition: the highest rank, then the first. -/
def binHolder (s : State) (part : Nat) : Option (Nat × Pass) :=
  (binning s part).foldl (fun b e => match b with
    | none => some e
    | some x => if passRank s x.2 < passRank s e.2 then some e else some x) none

/-- Whether every vertex of a triangle has been shaded. -/
def posShaded (s : State) (p : Pass) (c : DrawPos) : Bool := (posKeys s p c).all (thas p.verts ·)

/-- Vertices the binner waits for that have neither been shaded nor are being shaded. -/
def vertsWanted (s : State) (p : Pass) : Bool :=
  match p.pos with
  | none => false
  | some c => (posStop s p c).isNone && (posKeys s p c).any fun k => !thas p.verts k &&
      !s.wgs.any (fun w => w.2.inst == p.inst && w.2.node == p.node && w.2.ras.any (fun r =>
        r.stage == .vertex && r.lanes.any (fun l => vertKey r.draw l.inst l.vidx == k)))

/-- A partition with work pending at the binner: a triangle left of a batch, or one whose vertices are
there, or the end of the list. -/
def binPending (s : State) (part : Nat) : Bool :=
  match binHolder s part with
  | none => false
  | some (_, p) => p.st == .binning && (!p.todo.isEmpty ||
      (match p.pos with
       | none => true
       | some c => (posStop s p c).isSome || posShaded s p c))

/-- Whether a pass has raster work ready for a core: fragments of the tile the core owns, or vertices the
binner waits for (R151, R303, R310). -/
def rasReady (s : State) (id : Nat) (p : Pass) (core : Nat) : Bool :=
  match p.st with
  | .binning => vertsWanted s p && (binHolder s p.part).any (·.1 == id)
  | .growWait => false
  | _ => match tfind p.owners core with
    | none => false
    | some t => !(tileTodo p t).isEmpty

end Sys2Proof.Machine
end

