-- ==== Sys2Proof/Machine/Sched.lean ====
section
/-! DEFINITION. Sched.lean: placing workgroups and clusters on cores, state save and restore, and the
Gale deadline monitor (08 R151 to R165, 09 R173, R174, R190, R192). -/

namespace Sys2Proof.Machine

/-! ## What a core holds (R173) -/

/-- Groups of a workgroup on a core partition: group g is placed on core partition g mod 4. -/
def grpOn (groups c : Nat) : Nat := (groups + 3 - c) / 4

/-- Register units of a group: its state block and its vector registers (R173). -/
def unitsOf (vregs : Nat) : Nat := 1 + ceilDiv vregs 8

/-- Workgroups that hold something on a core: all but the saved and the killed. -/
def onCore (s : State) (core : Nat) : List (Nat × Wg) :=
  s.wgs.filter fun e => e.2.core == core && e.2.st != .saved && e.2.st != .killed

/-- Lowest base at which `n` consecutive units are free among `limit`, the used ranges given. -/
def firstFit (used : List (Nat × Nat)) (limit n : Nat) : Option Nat :=
  if n = 0 then some 0
  else (List.range (limit + 1 - n)).find? (fun b => !used.any (fun u => overlaps b n u.1 u.2))

/-- What a workgroup needs of a core. -/
structure Need where
  groups : Nat
  vregs  : Nat
  nAcc   : Nat
  lsKib  : Nat
  ctrs   : Nat

/-- Room for a workgroup on a core that holds the given ones: local-store base and counter base
(R173, R258). -/
def roomAmong (l : List Wg) (n : Need) : Option (Nat × Nat) :=
  let live := l.filter (·.st != .ended)
  let sum (f : Wg → Nat) : Nat := (live.map f).foldl (· + ·) 0
  let ok := (List.range 4).all fun c =>
    decide (sum (fun w => grpOn w.groups c) + grpOn n.groups c ≤ 16 ∧
      sum (fun w => grpOn w.groups c * unitsOf w.vregs) + grpOn n.groups c * unitsOf n.vregs ≤ 128 ∧
      sum (fun w => grpOn w.groups c * w.nAcc) + grpOn n.groups c * n.nAcc ≤ 32)
  if ok then
    match firstFit (l.map (fun w => (w.lsBase, w.lsKib))) 256 n.lsKib,
          firstFit (l.map (fun w => (w.ctrBase, w.lullCtrs))) 48 n.ctrs with
    | some a, some b => some (a, b)
    | _, _ => none
  else none

/-- Workgroups a pre-emption has stopped whose places wait for a direct victim of the same pre-emption
(R155). -/
def heldOn (s : State) (core : Nat) : List Wg :=
  ((coreOf s core).held.filter (fun e => e.2.any (fun i => (tfind s.wgs i).any (·.st == .stopping)))).map (·.1)

/-- Room on a core. -/
def roomOn (s : State) (core : Nat) (n : Need) : Option (Nat × Nat) :=
  roomAmong ((onCore s core).map (·.2) ++ heldOn s core) n

/-- Cores for a cluster of n: the named core for one workgroup, else the lowest-numbered n cores of
its quad that have room (R190; log 16). -/
def coresFor (s : State) (part core n : Nat) (need : Need) : Option (List Nat) :=
  if n = 1 then if coreIn s part core && (roomOn s core need).isSome then some [core] else none
  else
    let l := ((List.range 4).map (core / 4 * 4 + ·)).filter fun c =>
      coreIn s part c && (roomOn s c need).isSome
    if n ≤ l.length then some (l.take n) else none

/-! ## Setting a workgroup up (R115, R174, R258, R287) -/

/-- Key of a group: core, core partition, place. -/
def groupKey (core cpart place : Nat) : Nat := (core * 4 + cpart) * 16 + place

/-- Lowest free group place of a core partition: a place stays its workgroup's until the workgroup ends
(R173, R192). -/
def freePlace (s : State) (core cpart : Nat) : Nat :=
  ((List.range 16).find? (fun p => !thas s.groups (groupKey core cpart p))).getD 15

/-- Zero a core's local-store blocks last used by another context (R115). -/
def lsClaim (s : State) (core ctx base kib : Nat) : State :=
  modCore s core fun c =>
    let blocks := (List.range kib).map (base + ·)
    let foreign := blocks.filter (fun b => tfind c.lsOwner b != some ctx)
    { c with
      ls := c.ls.filter (fun x => !foreign.contains (x.1 / 1024))
      lsOwner := blocks.foldl (fun t b => tput t b ctx) c.lsOwner }

/-- The context takes a place's registers and panels: zeroed where another context used the place last,
free values where it was this one (R115, R153; log 8), a run of 16,384 of them. -/
def groupSeed (s : State) (core place ctx : Nat) : Option Nat × State :=
  let same := tfind (coreOf s core).users place == some ctx
  let s := modCore s core (fun c => { c with users := tput c.users place ctx })
  if same then (some s.free, { s with free := s.free + 16384 }) else (none, s)

/-- Set one group up: zeroed state block, one READY split at the entry PC (R174, R178). -/
def setupGroup (s : State) (id : Nat) (w : Wg) (gidx : Nat) : State :=
  let key := groupKey w.core (gidx % 4) (freePlace s w.core (gidx % 4))
  let (seed, s) := groupSeed s w.core (key % 64) w.ctx
  let now := coreNow s w.core
  let sp : Split := { st := .ready, pc := w.start, mask := 0xFFFFFFFF,
                      readyAt := now }
  let g : Group := { wg := id, gidx := gidx, splits := [(0, sp)], nosplit := w.nosplit, seed := seed,
                     nprogAt := now }
  { s with groups := tput s.groups key g }

/-- Set a placed workgroup up on its core: storage claimed, counters zeroed, groups READY, and the
flash invalidation of a node's first workgroup on the core (R258, R287). -/
def setupWg (s : State) (id : Nat) (w : Wg) (fresh : Bool) : State :=
  let s := { s with wgs := tput s.wgs id w }
  let s := if fresh then modCore (l1Flash s w.core) w.core (fun c => { c with l1i := [] }) else s
  let s := lsClaim s w.core w.ctx w.lsBase w.lsKib
  let s := modCore s w.core fun c => { c with
    ctrs := (List.range w.lullCtrs).foldl (fun t i => tdel t (w.ctrBase + i)) c.ctrs
    ctrOut := c.ctrOut.filter (fun i => i < w.ctrBase || w.ctrBase + w.lullCtrs ≤ i) }
  (List.range w.groups).foldl (fun s g => setupGroup s id w g) s

/-- The kernel form of a workgroup, before it has a core. -/
structure Form where
  need      : Need
  csize     : Nat
  entry     : Nat
  codeLen   : Nat
  stageKib  : Nat
  commitForm : Bool
  nosplit   : Bool
  argOff    : Nat

/-- The form a KERNEL node gives its workgroups (Tables 7-9 and 10-2). -/
def kernelForm (g : Graph) (node : Nat) : Form :=
  let n := g.nodes.getD node 0
  let h := tget g.hdrs node 0
  { need := { groups := nWg n / 32, vregs := nVregs n, nAcc := chAcc h, lsKib := nLsKib n,
              ctrs := chLull h }
    csize := nCluster n, entry := nEntry n + 64, codeLen := chCodeLen h, stageKib := chStage h
    commitForm := nCommit n, nosplit := chNosplit h, argOff := nArgOff n }

/-- A workgroup on a core. -/
def formWg (s : State) (f : Form) (inst : Nat) (x : Inst) (g : Graph) (node idx core rank : Nat)
    (kills : Nat) (base : Nat × Nat) (ras : Option RasSetup) : Wg :=
  { inst := inst, node := node, idx := idx, ctx := x.ctx, part := x.part, core := core,
    cluster := idx - rank, csize := f.csize, rank := rank, groups := f.need.groups, entry := f.entry,
    start := BitVec.ofNat 24 (f.entry / 8),
    codeLen := f.codeLen, vregs := f.need.vregs, nAcc := f.need.nAcc, lullCtrs := f.need.ctrs,
    ctrBase := base.2, lsKib := f.need.lsKib, lsBase := base.1, stageKib := f.stageKib,
    commitForm := f.commitForm, nosplit := f.nosplit, ord := s.orders, kills := kills, st := .placed,
    exited := 0, bar := {}, cbar := {}, commits := 0, writing := false, committed := false,
    staged := 0, paramBase := g.param 0, argOff := f.argOff, ras := ras, hubN := 0, hubAt := 0, savedCtrs := [],
    savedLs := [], savedWatches := []
    codeBase := (heldObj s (g.nodes.getD node 0) 0).base, codeObj := (heldObj s (g.nodes.getD node 0) 0).len }

/-- The entry of a workgroup of a node, if it has one. -/
def wgFind (s : State) (inst node idx : Nat) : Option (Nat × Wg) :=
  s.wgs.find? fun e => e.2.inst == inst && e.2.node == node && e.2.idx == idx

/-- Place one workgroup of a form on a core with room; `id` is a killed workgroup's entry to re-use,
or a fresh number. -/
def placeOne (s : State) (f : Form) (inst : Nat) (x : Inst) (g : Graph) (node idx core rank : Nat)
    (ras : Option RasSetup) : State :=
  match roomOn s core f.need with
  | none => s
  | some base =>
    let (id, kills) := match wgFind s inst node idx with
      | some (i, w) => (i, w.kills)
      | none => (s.orders, 0)
    let w := formWg s f inst x g node idx core rank kills base ras
    let first := !((x.node node).cores.contains core)
    let s := modNode { s with orders := s.orders + 1 } inst node fun r =>
      { r with cores := if r.cores.contains core then r.cores else core :: r.cores }
    setupWg s id w first

/-! ## Which workgroups are ready (R151) -/

/-- Ready workgroups of an instance, in the order of its nodes: the first cluster index of saved and
killed ones, then the next one never placed. -/
def readyWgs (s : State) (id : Nat) (x : Inst) (g : Graph) : List (Nat × Nat) :=
  x.nodes.flatMap fun e =>
    if e.2.st = .running && nType (g.nodes.getD e.1 0) = 1 then
      let back := (s.wgs.filter (fun w => w.2.inst == id && w.2.node == e.1 && w.2.rank == 0 &&
        (w.2.st == .saved || w.2.st == .killed))).map (fun w => (e.1, w.2.idx))
      back ++ (if e.2.placed < nGroups (g.nodes.getD e.1 0) then [(e.1, e.2.placed)] else [])
    else []

/-- What a ready workgroup of a node needs. -/
def nodeNeedOf (g : Graph) (node : Nat) : Need := (kernelForm g node).need

/-- Whether a ready workgroup fits where it is wanted. -/
def readyFits (s : State) (x : Inst) (g : Graph) (core node : Nat) : Bool :=
  (coresFor s x.part core (kernelForm g node).csize (nodeNeedOf g node)).isSome

/-- Whether work of node m of instance a goes before work of node n of instance b: higher rank, then
earlier S, then node-index order, then the order of launch (R151). -/
def goesFirst (a : Nat × Inst) (m : Nat) (b : Nat × Inst) (n : Nat) : Bool :=
  decide (b.2.rank < a.2.rank) ||
  (a.2.rank == b.2.rank && (decide (a.2.s < b.2.s) || (a.2.s == b.2.s &&
    (decide (m < n) || (m == n && decide (a.1 < b.1))))))

/-- What a raster group takes of a core: one group; its shader has no code header, so it may name every
vector register and no panel (log 29). -/
def rasNeed : Need := { groups := 1, vregs := 256, nAcc := 0, lsKib := 0, ctrs := 0 }

/-- Whether raster work that is ready for a core goes before work of a node and fits there (R151). -/
def rasAhead (s : State) (inst : Nat) (x : Inst) (node core : Nat) : Bool :=
  (roomOn s core rasNeed).isSome && s.passes.any fun e =>
    e.2.part == x.part && (tfind s.insts e.2.inst).any (fun y => goesFirst (e.2.inst, y) e.2.node (inst, x) node) &&
      rasReady s e.1 e.2 core

/-- No ready work that goes before work of a node fits on a core (R151). -/
def noneAhead (s : State) (inst : Nat) (x : Inst) (node core : Nat) : Bool :=
  !rasAhead s inst x node core &&
  s.insts.all fun e =>
    e.2.part != x.part ||
    (match graphOf s e.2 with
     | none => true
     | some h => (readyWgs s e.1 e.2 h).all fun r =>
         !goesFirst e r.1 (inst, x) node || !readyFits s e.2 h core r.1)

/-- Whether a workgroup of (inst, node, idx) is the next to take places on a core: ready, and no
earlier one in the order of R151 fits there. -/
def isNext (s : State) (inst : Nat) (x : Inst) (g : Graph) (node idx core : Nat) : Bool :=
  let mine := readyWgs s inst x g
  mine.contains (node, idx) &&
  (mine.takeWhile (· != (node, idx))).all (fun e => e.1 != node || !readyFits s x g core e.1) &&
  noneAhead s inst x node core

/-- Place the next cluster of a KERNEL node (R143, R173, R190). -/
def placeKernel (s : State) (inst node idx core : Nat) : State :=
  match tfind s.insts inst with
  | none => s
  | some x =>
    match graphOf s x with
    | none => s
    | some g =>
      let f := kernelForm g node
      let held := (wgFind s inst node idx).map (·.2.st)
      if partRuns s x.part && idx % f.csize = 0 && held != some .saved &&
          isNext s inst x g node idx core then
        match coresFor s x.part core f.csize f.need with
        | none => s
        | some cs =>
          let s := (cs.zipIdx).foldl (fun s e => placeOne s f inst x g node (idx + e.2) e.1 e.2 none) s
          if held.isSome then s
          else modNode s inst node (fun r => { r with placed := r.placed + f.csize })
      else s

/-! ## State save and restore (R153, R154, R265) -/

/-- Members of a workgroup's cluster. -/
def clusterOf (s : State) (w : Wg) : List (Nat × Wg) :=
  s.wgs.filter fun e => e.2.inst == w.inst && e.2.node == w.node && e.2.cluster == w.cluster

/-- Whether a workgroup has anything under way: it drains before it is saved (Table 8-2). -/
def wgBusy (s : State) (id : Nat) : Bool :=
  let f := s.fly
  let mine (k : Nat) : Bool := (tfind s.groups k).any (·.wg == id)
  f.loads.any (·.2.wg == id) || f.mmas.any (fun e => e.2.any (·.wg == id)) ||
  f.copies.any (·.2.wg == id) ||
  f.wakes.any (fun w => mine (groupKey w.sp.core w.sp.cpart w.sp.place)) ||
  f.allocs.any (fun a => match a with
    | .split sp _ _ _ => mine (groupKey sp.core sp.cpart sp.place)
    | .node _ _ _ _ _ => false)

/-- Key under which a saved group's state is kept. -/
def savedKey (id gidx : Nat) : Nat := 100000 + id * 64 + gidx

/-- Bytes of a lane's stack area of a trace (R324). -/
def Trace.areaLen (t : Trace) : Nat := 64 + 64 * t.depth

/-- Lane areas of a trace in a core's local store take whatever the Eddy unit keeps there, in a layout
of its own (R324, R333; log 8). -/
def stackFill (s : State) (lsBase : Nat) (t : Trace) : State :=
  (setBits t.valid 32).foldl (fun s l =>
    let k := s.free
    let d : List Byte := (List.range t.areaLen).map fun j => (Config.freeValue (k + j)).setWidth 8
    modCore { s with free := k + t.areaLen } t.core fun c =>
      { c with ls := mwrites c.ls (lsBase * 1024 + t.stack + l * t.areaLen) d }) s

/-- Traces of a workgroup, whose rays leave their buckets as it is saved (R333). -/
def traceSave (s : State) (id lsBase : Nat) : State :=
  let mine := s.fly.traces.filter (·.2.wg == id)
  let s := mine.foldl (fun s e => stackFill s lsBase e.2) s
  { s with fly := { s.fly with
    buckets := s.fly.buckets.map fun e => (e.1, e.2.filter (fun r => !(mine.map (·.1)).contains r.1)) } }

/-- Traces of a group whose state is now kept under another key. -/
def traceMove (s : State) (old new core : Nat) : State :=
  { s with fly := { s.fly with
    traces := s.fly.traces.map fun e =>
      (e.1, if e.2.grp = old then { e.2 with grp := new, core := core } else e.2) } }

/-- A group's counts of CCLKs as they are saved, and back: how long ago each was (Table 9-3). -/
def Group.ages (g : Group) (now : BitVec 48) : Group :=
  { g with nprogAt := now - g.nprogAt, splits := g.splits.map (fun e => (e.1, { e.2 with readyAt := now - e.2.readyAt })) }

/-- Save one workgroup: groups, local store, counters and watches leave the core (R153, R265). -/
def saveOne (s : State) (id : Nat) (w : Wg) : State :=
  let s := traceSave s id w.lsBase
  let c := coreOf s w.core
  let gkeys := tkeys s.groups (fun _ g => g.wg == id)
  let gidxAt (sp : SplitRef) : Nat :=
    ((tfind s.groups (groupKey sp.core sp.cpart sp.place)).map (·.gidx)).getD 0
  let ws := (s.fly.watches.filter (·.wg == id)).map fun x =>
    { x with sp := { x.sp with place := gidxAt x.sp } }
  let w' : Wg := { w with
    st := .saved, since := now35 s, savedLs := mreads c.ls (w.lsBase * 1024) (w.lsKib * 1024)
    savedCtrs := (List.range w.lullCtrs).map (fun i => tget c.ctrs (w.ctrBase + i) 0)
    savedWatches := ws }
  let groups := gkeys.foldl (fun t k =>
    match tfind s.groups k with
    | none => t
    | some g => tput (tdel t k) (savedKey id g.gidx) (g.ages (coreNow s w.core))) s.groups
  let s := modCore s w.core fun c => { c with
    promoted := c.promoted.filter (fun k => !gkeys.contains (w.core * 64 + k / 4)) }
  let s := gkeys.foldl (fun t k =>
    match tfind s.groups k with
    | none => t
    | some g => traceMove t k (savedKey id g.gidx) w.core) s
  { s with
    wgs := tput s.wgs id w'
    groups := if ws.isEmpty then groups else groups.map (fun e => (e.1, e.2.placesFree))
    fly := { s.fly with watches := s.fly.watches.filter (·.wg != id) } }

/-- STATE_SAVE_DONE: a stopped, drained cluster has been written to its save slots (Table 8-2). -/
def saveOp (s : State) (id : Nat) : State :=
  match tfind s.wgs id with
  | none => s
  | some w =>
    let l := (clusterOf s w).filter (·.2.st != .ended)
    if l.all (fun e => e.2.st == .stopping && !wgBusy s e.1) then
      l.foldl (fun s e => saveOne s e.1 e.2) s
    else s

/-- Needs of a placed or saved workgroup. -/
def Wg.need (w : Wg) : Need :=
  { groups := w.groups, vregs := w.vregs, nAcc := w.nAcc, lsKib := w.lsKib, ctrs := w.lullCtrs }

/-- Bring one saved workgroup back on a core: counters first, then its groups (R153, R265). One whose
threads have all ended keeps its local store and counters for its cluster only. -/
def restoreOne (s : State) (id : Nat) (w : Wg) (core : Nat) : State :=
  match roomOn s core w.need with
  | none => s
  | some (lb, cb) =>
    let w' : Wg := { w with core := core, lsBase := lb, ctrBase := cb, savedLs := [],
                            st := if w.groups * 32 ≤ w.exited then .ended else .placed
                            savedCtrs := [], savedWatches := [], ord := s.orders }
    let s := { s with wgs := tput s.wgs id w', orders := s.orders + 1 }
    let s := lsClaim (l1Flash s core) core w.ctx lb w.lsKib
    let s := modCore s core fun c => { c with
      ls := mwrites c.ls (lb * 1024) w.savedLs
      ctrs := (w.savedCtrs.zipIdx).foldl (fun t e => tput t (cb + e.2) e.1) c.ctrs }
    (List.range w.groups).foldl (fun s gi =>
      match tfind s.groups (savedKey id gi) with
      | none => s
      | some g =>
        let key := groupKey core (gi % 4) (freePlace s core (gi % 4))
        let s := modCore s core (fun c => { c with users := tput c.users (key % 64) w.ctx })
        let g := g.ages (coreNow s core)
        traceMove { s with groups := tput (tdel s.groups (savedKey id gi)) key g } (savedKey id gi) key core) s

/-- A saved watch in terms of the cores and counters its cluster now has: `old` and `new` are the
members before and after. -/
def watchMoved (s : State) (old new : List (Nat × Wg)) (x : Watch) : Watch :=
  let own := (tfind new x.wg).map (·.core)
  let key := (tkeys s.groups (fun k g => g.wg == x.wg && g.gidx == x.sp.place && decide (k < 100000))).head?
  let sp : SplitRef := { x.sp with core := own.getD 0, place := (key.getD 0) % 16 }
  match x.home with
  | none => { x with sp := sp }
  | some h =>
    match old.find? (fun e => e.2.core == h) with
    | none => { x with sp := sp }
    | some (i, o) =>
      match tfind new i with
      | none => { x with sp := sp }
      | some n => { x with sp := sp, home := some n.core, ctr := x.ctr - o.ctrBase + n.ctrBase }

/-- Restored workgroups with their cluster, and the watches to register again. -/
def restoreAll (s : State) (l : List (Nat × Wg)) (cs : List Nat) : State × List Watch :=
  let s' := (l.zip cs).foldl (fun s e => restoreOne s e.1.1 e.1.2 e.2) s
  let new := l.filterMap (fun e => (tfind s'.wgs e.1).map (fun w => (e.1, w)))
  (s', (l.flatMap (fun e => e.2.savedWatches)).map (watchMoved s' l new))

/-! ## Gale monitor (R160 to R165) -/

/-- H or Hf: the largest value of a window (R162). -/
def winMax (w : List Nat) : Nat := w.foldl max 0

/-- The running primary instance of a monitor. -/
def monInst (s : State) (m : Nat) : Option (Nat × Inst) :=
  s.insts.find? (fun e => e.2.mon == some m)

/-- A switch to the fallback: the primary's work is killed and the fallback takes its walker place,
its S, its rank and its patch values (R164). -/
def switchFb (s : State) (m id : Nat) (x : Inst) (o : Mon) : State :=
  match tfind s.graphs (graphKey x.ctx o.fb) with
  | none => s
  | some g =>
    let c := x.cmd.bind (tfind s.cmds)
    let s := killInst s id
    let s := modMon s m (fun o => { o with fallbacks := o.fallbacks + 1 })
    let s := match c with
      | some c => applyPatches s g (dPatch c.desc) (BitVec.ofNat 64 (dTag c.desc)) c.pvals c.ranges
      | none => applyPatches s g false (x.trig.getD 0) [] []
    modInst s id fun x => { x with
      gid := o.fb, key := graphKey x.ctx o.fb, isFb := true, released := false, nodes := freshNodes g
      ranges := g.ranges ++ (c.map (·.ranges)).getD [] }

/-- GALE_CHECK: predicted finish of the primary against S + D − G, in sixteenths scaled by the step in
force (R163). -/
def galeCheckOp (s : State) (m : Nat) : State :=
  match tfind s.mons m, monInst s m with
  | some o, some (id, x) =>
    if x.isFb || x.fail.isSome || !dispatching s then s
    else
      let k := 16 - partStep s x.part
      let t := (now35 s - x.s).toNat
      let rem := winMax o.win * 16 - x.normNow s
      let late := decide ((o.deadline - o.guard) * k < t * k + rem)
      let sooner := decide (winMax o.winFb * 16 + 600 * k < rem)
      if late && sooner then switchFb s m id x o
      else if late then event s 0x0030 0 6 0 0 (m + 512) (some x.ctx)
      else s
  | _, _ => s

/-- Whether a graph is already a primary or a fallback of a monitor. -/
def monUses (s : State) (ctx gid : Nat) : Bool :=
  s.mons.any fun e => e.2.ctx == ctx && (e.2.gid == gid || e.2.fb == gid)

/-- The checks of R161 on the two graphs. -/
def monGraphsOk (s : State) (ctx gid fb : Nat) : Bool :=
  match tfind s.graphs (graphKey ctx gid), tfind s.graphs (graphKey ctx fb) with
  | some g, some f =>
    (ctxOf s ctx).st == .active && (partRec s (ctxOf s ctx).part).any (·.cls == 1) && gid != fb &&
    !monUses s ctx gid && !monUses s ctx fb && f.arm.isNone && g.patches == f.patches &&
    g.nodes.all fun n => nType n == 0 || nType n == 5 || (nType n == 1 && nCommit n)
  | _, _ => false

/-- MON_ADD (R161). -/
def monAddOp (s : State) (page : Nat) : Result × Nat × State :=
  if !writePage s page none then (.badBlock, 0, s)
  else
    let (d, s) := pbTake s (page * 4096) 32
    let b : BitVec 256 := BitVec.ofNat 256 (leNat d)
    let deadline := bits b 159 128
    let guard := bits b 191 160
    let ctx := bits b 9 0
    let gid := bits b 19 12
    let fb := bits b 27 20
    if !decide (guard < deadline) || !zeroField b 127 28 || !zeroField b 11 10 then (.badBlock, 0, s)
    else match tfirst s.mons (fun _ => false) 0 64 with
      | none => (.resource, 0, s)
      | some i =>
        if monGraphsOk s ctx gid fb then
          let o : Mon := { ctx := ctx, gid := gid, fb := fb, deadline := deadline, guard := guard,
                           win := List.replicate 8 (bits b 223 192)
                           winFb := List.replicate 8 (bits b 255 224) }
          (.ok, i, { s with mons := tput s.mons i o })
        else (.bad3, 0, s)

/-- MON_REMOVE: at once, or when the running instance ends (R161). -/
def monRemoveOp (s : State) (m : Nat) : Result × State :=
  if thas s.mons m then (.ok, monSettle (modMon s m (fun o => { o with removing := true })) (some m))
  else (.bad3, s)

/-- Set GM_CMD_STAT. -/
def setGmCmd (s : State) (st : CmdStat) : State := { s with gmCmd := st }

/-- Carry out a monitor command (Table 8-4). `extra` is the index of the last MON_ADD. -/
def gmRun (s : State) (raw : W64) : State :=
  let tag := bits raw 3 0
  match bits raw 7 4 with
  | 1 =>
    let (r, i, s) := monAddOp s (bits raw 44 32)
    setGmCmd s (done tag r (if r = .ok then i else s.gmCmd.extra))
  | 2 =>
    let (r, s) := monRemoveOp s (bits raw 13 8)
    setGmCmd s (done tag r s.gmCmd.extra)
  | _ => setGmCmd s (done tag .badOp s.gmCmd.extra)

/-- A write of GM_CMD (R160). -/
def gmCmdWrite (s : State) (raw : W64) : State :=
  feCmd s 0x440 raw (bits raw 3 0) s.gmCmd setGmCmd (fun s => gmRun s raw)

/-! ## Meanings -/

/-- STATE_SAVE_DONE (R153). -/
def execStateSaveDone (wg : Nat) (s : State) : Host.Outcome State Fault Refusal := onLive s (saveOp s wg)

/-- GALE_CHECK (R163). -/
def execGaleCheck (mon : Nat) (s : State) : Host.Outcome State Fault Refusal := onLive s (galeCheckOp s mon)

/-- MON_ADD (R161). -/
def execMonAdd (tag : BitVec 4) (pbPage : Nat) (s : State) : Host.Outcome State Fault Refusal :=
  onLive s (gmCmdWrite s (BitVec.ofNat 64 (packNat [(pbPage, 32), (1, 4), (tag.toNat, 0)])))

/-- MON_REMOVE (R161). -/
def execMonRemove (tag : BitVec 4) (mon : Nat) (s : State) : Host.Outcome State Fault Refusal :=
  onLive s (gmCmdWrite s (BitVec.ofNat 64 (packNat [(mon, 8), (2, 4), (tag.toNat, 0)])))

end Sys2Proof.Machine
end

