-- ==== Sys2Proof/Machine/Serving.lean ====
section
/-! DEFINITION. Serving.lean: the sequence table, its commands, and the STEP nodes BUILD and RETIRE
(08 R166 to R171). -/

namespace Sys2Proof.Machine

/-! ## JOIN and the other entry commands (R167, R168) -/

/-- Entries of a partition in use. -/
def seqUse (s : State) (p : Nat) : Nat :=
  (s.seqs.filter (fun e => e.2.st != .free && (ctxOf s e.2.ctx).part == p)).length

/-- Whether a partition may take one more entry: 256 of its own, then the shared rest (Table 8-1). -/
def seqRoom (s : State) (p : Nat) : Bool :=
  decide (seqUse s p < 256) ||
  decide (((List.range 8).map (fun q => seqUse s q - 256)).foldl (· + ·) 0 + 256 * s.cfg.parts.length
    < 4096)

/-- JOIN: result, entry, state (R168). -/
def joinOp (s : State) (page : Nat) : Result × Nat × State :=
  if !writePage s page none then (.badBlock, 0, s)
  else
    let (d, s) := pbTake s (page * 4096) 32
    let b : BitVec 256 := BitVec.ofNat 256 (leNat d)
    let ctx := bits b 63 54
    let kv := (resolve s ctx (bits b 191 160) true true false).filter (fun h => !h.remote)
    match kv with
    | none => (.badBlock, 0, s)
    | some h =>
      if (ctxOf s ctx).st != .active || bits b 127 108 ≤ bits b 107 88 || !zeroField b 255 192 ||
          !zeroField b 75 64 || !zeroField b 53 0 then (.badBlock, 0, s)
      else if !seqRoom s (ctxOf s ctx).part then (.resource, 0, s)
      else match tfirst s.seqs (fun e => e.st == .free) 0 4096 with
        | none => (.resource, 0, s)
        | some i =>
          let e : SeqEnt := { kvUnits := ceilDiv h.len 4096, kvBase := h.base
                              kv := BitVec.ofNat 32 (bits b 191 160)
                              seqId := BitVec.ofNat 32 (bits b 159 128), maxLen := bits b 127 108
                              len := bits b 107 88, model := bits b 87 80, prio := bits b 79 76
                              st := .ready, ctx := ctx }
          (.ok, i, objRef { s with seqs := tput s.seqs i e } h.idx)

/-- Act on an entry that is neither FREE nor LEAVING (R168). -/
def seqCmd (s : State) (i : Nat) (f : State → SeqEnt → State) : Result × State :=
  match tfind s.seqs i with
  | none => (.bad3, s)
  | some e => if e.st = .free || e.st = .leaving then (.bad3, s) else (.ok, f s e)

/-- Write an entry. -/
def putSeq (s : State) (i : Nat) (e : SeqEnt) : State := { s with seqs := tput s.seqs i e }

/-- LEAVE (Table 8-12). -/
def leaveOp (s : State) (i : Nat) : Result × State :=
  seqCmd s i fun s e => if e.st = .inStep then putSeq s i { e with st := .leaving } else seqFree s i

/-- PAUSE (Table 8-12). -/
def pauseOp (s : State) (i : Nat) : Result × State :=
  seqCmd s i fun s e =>
    if e.st = .ready then putSeq s i { e with st := .paused }
    else if e.st = .inStep then putSeq s i { e with pausePend := true }
    else s

/-- RESUME (Table 8-12). -/
def resumeOp (s : State) (i : Nat) : Result × State :=
  seqCmd s i fun s e => if e.st = .paused then putSeq s i { e with st := .ready } else s

/-- SET_PRIO (Table 8-12); an entry in a step is next read by the next BUILD. -/
def setPrioOp (s : State) (i prio : Nat) : Result × State :=
  seqCmd s i fun s e => putSeq s i { e with prio := prio }

/-- Set SQ_CMD_STAT. -/
def setSqCmd (s : State) (st : CmdStat) : State := { s with sqCmd := st }

/-- Carry out a sequence command (Table 8-10). `extra` is the entry of the last JOIN. -/
def sqRun (s : State) (raw : W64) : State :=
  let tag := bits raw 3 0
  let entry := bits raw 25 14
  let fin (r : Result × State) : State := setSqCmd r.2 (done tag r.1 r.2.sqCmd.extra)
  match bits raw 7 4 with
  | 1 =>
    let (r, i, s) := joinOp s (bits raw 44 32)
    setSqCmd s (done tag r (if r = .ok then i else s.sqCmd.extra))
  | 2 => fin (leaveOp s entry)
  | 3 => fin (pauseOp s entry)
  | 4 => fin (resumeOp s entry)
  | 5 => fin (setPrioOp s entry (bits raw 31 28))
  | _ => setSqCmd s (done tag .badOp s.sqCmd.extra)

/-- A write of SQ_CMD (R167). -/
def sqCmdWrite (s : State) (raw : W64) : State :=
  feCmd s 0x460 raw (bits raw 3 0) s.sqCmd setSqCmd (fun s => sqRun s raw)

/-- An SQ_CMD value (Table 8-10). -/
def sqWord (page prio entry op tag : Nat) : W64 :=
  BitVec.ofNat 64 (packNat [(page, 32), (prio, 28), (entry, 14), (op, 4), (tag, 0)])

/-! ## Batched steps (R169, R170) -/

/-- Insert by a strict order. -/
def insertBy {α : Type} (lt : α → α → Bool) (x : α) : List α → List α
  | [] => [x]
  | y :: r => if lt x y then x :: y :: r else y :: insertBy lt x r

/-- Insertion sort by a strict order. -/
def sortBy {α : Type} (lt : α → α → Bool) : List α → List α
  | [] => []
  | x :: r => insertBy lt x (sortBy lt r)

/-- Length bucket (R169). -/
def bucketOf (len : Nat) : Nat := if len < 256 then 0 else min 7 (flog2 (len / 128))

/-- Highest prio, then oldest last_step, then lowest index (R169). -/
def keepsFirst (a b : Nat × SeqEnt) : Bool :=
  decide (b.2.prio < a.2.prio) ||
  (a.2.prio == b.2.prio && (decide (a.2.lastStep < b.2.lastStep) ||
    (a.2.lastStep == b.2.lastStep && decide (a.1 < b.1))))

/-- Bucket, then prio from highest, then index (R169). -/
def listsFirst (a b : Nat × SeqEnt) : Bool :=
  decide (a.2.bucket < b.2.bucket) ||
  (a.2.bucket == b.2.bucket && (decide (b.2.prio < a.2.prio) ||
    (a.2.prio == b.2.prio && decide (a.1 < b.1))))

/-- Entries a BUILD may take (R169). -/
def qualify (s : State) (ctx : Nat) (n : BitVec 512) : List (Nat × SeqEnt) :=
  s.seqs.filter fun e =>
    e.2.st == .ready && e.2.ctx == ctx && e.2.model == nModel n && decide (nMinPrio n ≤ e.2.prio)

/-- The taken entries in list order. -/
def taken (l : List (Nat × SeqEnt)) (n : BitVec 512) : List (Nat × SeqEnt) :=
  let kept := (sortBy keepsFirst l).take (nItems n)
  sortBy listsFirst (kept.map fun e => (e.1, { e.2 with bucket := bucketOf e.2.len }))

/-- Work item (Table 8-15). -/
def itemBytes (e : Nat × SeqEnt) : List Byte :=
  natBytes (packNat [(e.2.kvBase, 192), (e.2.kvUnits, 168), (e.2.seqId.toNat, 128), (e.2.len, 108),
    (e.1, 96)]) 32

/-- Bucket words: first item index and item count (Table 8-14). -/
def bucketWords (l : List (Nat × SeqEnt)) : List (Nat × Nat) :=
  (List.range 8).map fun b =>
    let c := (l.filter (·.2.bucket == b)).length
    let first := (l.filter (fun e => decide (e.2.bucket < b))).length
    (packNat [(first, 16), (c, 0)], 256 + 32 * b)

/-- Work list header (Table 8-14). -/
def listHeader (s : State) (n : BitVec 512) (l : List (Nat × SeqEnt)) (skip : Nat) : List Byte :=
  natBytes (packNat (bucketWords l ++
    [(l.length, 240), (skip, 208), (nModel n, 200), ((stamp s 35).toNat, 0)])) 64

/-- A running STEP node of the given mode that has not yet acted. -/
def stepNode (s : State) (id i : Nat) (retire : Bool) (f : State → Inst → BitVec 512 → State) : State :=
  match tfind s.insts id with
  | none => s
  | some x =>
    match graphOf s x with
    | none => s
    | some g =>
      let n := g.nodes.getD i 0
      if nType n = 7 && nRetire n == retire && (x.node i).st = .running && (x.node i).ended = 0 &&
          dispatching s then f s x n
      else s

/-- BUILD (R169). -/
def buildOp (s : State) (id i : Nat) : State :=
  stepNode s id i false fun s x n =>
    let q := qualify s x.ctx n
    let l := taken q n
    let h := heldObj s n 0
    let bytes := listHeader s n l (q.length - l.length) ++ l.flatMap itemBytes
    let stampE (e : SeqEnt) : SeqEnt := { e with st := .inStep, lastStep := now35 s }
    let s := l.foldl (fun s e => putSeq s e.1 (stampE e.2)) s
    let s := nodeEnded (modInst s id fun x => { x with
      built := x.built ++ l.map (fun e => (nHandle n 0, e.1))
      ranges := x.ranges ++ l.map fun e =>
        { base := e.2.kvBase, len := (tget s.objs (e.2.kv.toNat % 262144) {}).len
          rd := true, wr := true, ex := false } }) id i
    nodeWrite s id x h.base bytes

/-- What RETIRE does with one entry of its list: the entry's new state, or the leave record's reason
and final length (R170). -/
def retireEntry (e : SeqEnt) (item : BitVec 256) : SeqEnt ⊕ (Nat × Nat) :=
  if e.st = .leaving then .inr (2, e.len)
  else
    let len := min (e.len + bits item 255 240) e.maxLen
    if bit item 239 then .inr (0, len)
    else if len = e.maxLen then .inr (1, len)
    else .inl { e with len := len, st := if e.pausePend then .paused else .ready, pausePend := false }

/-- Leave record (R170). -/
def leaveBytes (e : SeqEnt) (reason len : Nat) : List Byte :=
  natBytes (packNat [(e.seqId.toNat, 32), (reason, 28), (len, 0)]) 8

/-- Apply the items in order, collecting leave records. -/
def retireRun (base : Nat) : List Nat → Nat → State → List (List Byte) → State × List (List Byte)
  | [], _, s, acc => (s, acc)
  | i :: r, j, s, acc =>
    match tfind s.seqs i with
    | none => retireRun base r (j + 1) s acc
    | some e =>
      match retireEntry e (BitVec.ofNat 256 (dmNum s (base + 64 + 32 * j) 32)) with
      | .inl e' => retireRun base r (j + 1) (putSeq s i e') acc
      | .inr (why, len) => retireRun base r (j + 1) (seqFree s i) (acc ++ [leaveBytes e why len])

/-- RETIRE (R170). -/
def retireOp (s : State) (id i : Nat) : State :=
  stepNode s id i true fun s x n =>
    let h := heldObj s n 0
    let mine (b : Nat × Nat) : Bool :=
      b.1 == nHandle n 0 && (tfind s.seqs b.2).any (fun e => e.model == nModel n)
    let l := (x.built.filter mine).map (·.2)
    match dmFault s (h.base + 64) (32 * l.length) with
    | some m => hwFault s x.ctx m (some id)
    | none =>
      let (s, recs) := retireRun h.base l 0 s []
      let s := nodeEnded (modInst s id fun x => { x with
        built := x.built.filter (fun b => !(b.1 == nHandle n 0 && l.contains b.2)) }) id i
      let s := nodeWrite s id x (h.base + 28) (natBytes recs.length 2)
      nodeWrite s id x (h.base + 64 + 32 * l.length) recs.flatten

/-! ## Meanings -/

/-- JOIN (R168). -/
def execJoin (tag : BitVec 4) (pbPage : Nat) (s : State) : Host.Outcome State Fault Refusal :=
  onLive s (sqCmdWrite s (sqWord pbPage 0 0 1 tag.toNat))

/-- LEAVE (R168). -/
def execLeave (tag : BitVec 4) (entry : Nat) (s : State) : Host.Outcome State Fault Refusal :=
  onLive s (sqCmdWrite s (sqWord 0 0 entry 2 tag.toNat))

/-- PAUSE (R168). -/
def execPause (tag : BitVec 4) (entry : Nat) (s : State) : Host.Outcome State Fault Refusal :=
  onLive s (sqCmdWrite s (sqWord 0 0 entry 3 tag.toNat))

/-- RESUME (R168). -/
def execResume (tag : BitVec 4) (entry : Nat) (s : State) : Host.Outcome State Fault Refusal :=
  onLive s (sqCmdWrite s (sqWord 0 0 entry 4 tag.toNat))

/-- SET_PRIO (R168). -/
def execSetPrio (tag : BitVec 4) (entry : Nat) (prio : BitVec 4) (s : State) :
    Host.Outcome State Fault Refusal := onLive s (sqCmdWrite s (sqWord 0 prio.toNat entry 5 tag.toNat))

/-- BUILD (R169). -/
def execBuild (inst node : Nat) (s : State) : Host.Outcome State Fault Refusal := onLive s (buildOp s inst node)

/-- RETIRE (R170). -/
def execRetire (inst node : Nat) (s : State) : Host.Outcome State Fault Refusal :=
  onLive s (retireOp s inst node)

end Sys2Proof.Machine
end

