-- ==== Sys2Proof/Machine/Operands.lean ====
section
/-! DEFINITION. Operands.lean: the fields of an instruction's words, the registers of a group and the
operand forms (09 R172, 10 R196 to R200). -/

namespace Sys2Proof.Machine

/-! ## Word 0 (Table 10-3) -/

def wOp (w : IWord) : Nat := bits w.w0 9 0
def wClass (w : IWord) : Nat := bits w.w0 9 6
def wFn (w : IWord) : Nat := bits w.w0 5 0
def wL (w : IWord) : Bool := bit w.w0 10
def wGp (w : IWord) : Nat := bits w.w0 14 11
def wGen (w : IWord) : Bool := bit w.w0 15
def wGneg (w : IWord) : Bool := bit w.w0 16
def wCtl (w : IWord) : Nat := bits w.w0 21 17
/-- kind bit k: 0 for a, 1 for b, 2 for c; true is scalar. -/
def wKind (w : IWord) (k : Nat) : Bool := bit w.w0 (22 + k)
def wRm (w : IWord) : Nat := bits w.w0 27 25
def wFmt (w : IWord) : Nat := bits w.w0 31 28
def wC (w : IWord) : Nat := bits w.w0 39 32
def wB (w : IWord) : Nat := bits w.w0 47 40
def wA (w : IWord) : Nat := bits w.w0 55 48
def wD (w : IWord) : Nat := bits w.w0 63 56
/-- ctl bit k. -/
def wCtlBit (w : IWord) (k : Nat) : Bool := bit w.w0 (17 + k)

/-- Bits [hi:lo] of word 1, numbered 64 to 127 as Table 10-4 numbers them. -/
def w1Bits (w : IWord) (hi lo : Nat) : Nat := bits w.w1 (hi - 64) (lo - 64)

/-- The 32-bit immediate of form I. -/
def wImm (w : IWord) : W32 := BitVec.ofNat 32 (w1Bits w 95 64)

/-- Forms of word 1 (Table 10-4). -/
inductive Form1 where
  | none | i | b | l | m | t
  deriving DecidableEq, Repr

/-- Word 1 bits outside its form are zero (Tables 10-4 and 10-8). A 64-bit word has no word 1. -/
def form1Ok (f : Form1) (w : IWord) : Bool :=
  !wL w ||
  (match f with
   | .none => false
   | .i => true
   | .b => w1Bits w 127 112 == 0
   | .l => w1Bits w 127 120 == 0
   | .m => w1Bits w 127 84 == 0
   | .t => w1Bits w 127 112 == 0)

/-- Whether an opcode is listed (Table 10-7; class 14 in Tables 15-11 and 15-12). The function numbers
of classes 0 to 5 are not given, so every one of them is taken as listed (log 10). -/
def opListed (op : Nat) : Bool :=
  let f := op % 64
  match op / 64 with
  | 6 => decide (f ≤ 1)
  | 7 => decide (f ≤ 0xB)
  | 8 => decide (f ≤ 6)
  | 9 => decide (f ≤ 2)
  | 10 => decide (f ≤ 2)
  | 11 => decide (f ≤ 1)
  | 12 => f == 0
  | 13 => decide (f ≤ 1)
  | 14 => decide (f ≤ 9)
  | 15 => decide (f ≤ 1)
  | _ => true

/-! ## Registers (R196) -/

/-- What a register or panel element that nothing has written holds (R115). -/
def Group.unset (g : Group) (k : Nat) : W32 :=
  match g.seed with
  | none => 0
  | some b => (Config.freeValue (b + k)).setWidth 32

/-- Scalar register. -/
def readS (g : Group) (n : Nat) : W32 := tget g.sreg n 0
/-- Scalar pair. -/
def readS64 (g : Group) (n : Nat) : Nat := (readS g n).toNat + (readS g (n + 1)).toNat * 2 ^ 32
/-- Predicate, one bit a lane. -/
def readP (g : Group) (n : Nat) : W32 := tget g.preg n 0
/-- Vector register of a lane. -/
def readV (g : Group) (n lane : Nat) : W32 :=
  match tfind g.vreg (n * 32 + lane) with
  | some v => v
  | none => g.unset (n * 32 + lane)
/-- Accumulator element. -/
def readAcc (g : Group) (a row col : Nat) : W32 :=
  match tfind g.acc (a * 256 + row * 16 + col) with
  | some v => v
  | none => g.unset (8192 + a * 256 + row * 16 + col)

/-- Write one register. -/
def writeReg (g : Group) (r : RegId) (v : W32) : Group :=
  match r with
  | .s n => { g with sreg := tput g.sreg n v }
  | .v n lane => { g with vreg := tput g.vreg (n * 32 + lane) v }
  | .p n => { g with preg := tput g.preg n v }
  | .acc a row col => { g with acc := tput g.acc (a * 256 + row * 16 + col) v }

/-- Write registers in order. -/
def writeRegs (g : Group) (l : List (RegId × W32)) : Group := l.foldl (fun g e => writeReg g e.1 e.2) g

/-! ## A split at its issue -/

/-- A split and what it belongs to. -/
structure Iss where
  sp  : SplitRef
  key : Nat
  g   : Group
  x   : Split
  id  : Nat
  w   : Wg
  iw  : IWord
  /-- The split had rot set when it came to this issue. -/
  was : Bool := false

/-- Key of a split's group. -/
def spKey (sp : SplitRef) : Nat := groupKey sp.core sp.cpart sp.place

/-- Find a split, its group and its workgroup. -/
def locate (s : State) (sp : SplitRef) (iw : IWord) : Option Iss :=
  match tfind s.groups (spKey sp) with
  | none => none
  | some g =>
    match tfind g.splits sp.sid, tfind s.wgs g.wg with
    | some x, some w => some { sp := sp, key := spKey sp, g := g, x := x, id := g.wg, w := w, iw := iw }
    | _, _ => none

/-- Change a group. -/
def modGroup (s : State) (key : Nat) (f : Group → Group) : State :=
  { s with groups := tupd s.groups key f }

/-- Change a split of a group. -/
def Group.modSplit (g : Group) (sid : Nat) (f : Split → Split) : Group :=
  { g with splits := tupd g.splits sid f }

/-- Write a split. -/
def Group.putSplit (g : Group) (sid : Nat) (x : Split) : Group := { g with splits := tput g.splits sid x }

/-- Change a split. -/
def modSplit (s : State) (key sid : Nat) (f : Split → Split) : State :=
  modGroup s key (fun g => g.modSplit sid f)


/-- A split enters READY. -/
def Split.toReady (x : Split) (now : BitVec 48) : Split :=
  { x with st := .ready, why := .none, readyAt := now }

/-- A split stalls: it has not issued, keeps its rot, and stands at the same instruction to issue it again. No
pack forms on it. -/
def stall (s : State) (i : Iss) (why : Why) : State :=
  modCore (modSplit s i.key i.sp.sid (fun x => { x with st := .stalled, why := why, rot := i.was })) i.sp.core
    fun c => { c with issued := tupd c.issued i.sp.cpart (fun e => { e with packs := false }) }

/-- The splits of a group that stall for a given reason become READY. -/
def unstall (s : State) (key : Nat) (p : Why → Bool) : State :=
  modGroup s key fun g => { g with
    splits := g.splits.map fun e =>
      (e.1, if e.2.st = .stalled && p e.2.why then e.2.toReady (coreNow s (key / 64)) else e.2) }

/-- An invalid encoding: the context is LOST and the command completes with FORMAT_FAULT (R200). -/
def badEncoding (s : State) (i : Iss) : State := wgFault s i.id .formatFault 0 i.x.pc

/-- A refused access of an instruction (R106). -/
def refusedAccess (s : State) (i : Iss) (addr : Nat) : State := wgFault s i.id .boundFault addr i.x.pc

/-- Words of the instruction. -/
def iLen (w : IWord) : Nat := if wL w then 2 else 1

/-- Whether a PC names a word of the kernel's code (R200). -/
def pcInside (w : Wg) (pc : Nat) : Bool :=
  decide (w.entry ≤ 8 * pc ∧ 8 * pc < w.entry + w.codeLen)

/-- Classes whose instructions take no guard (R199). -/
def guardForbidden (w : IWord) : Bool :=
  match wClass w with
  | 8 => decide (1 < wFn w)
  | 9 => true | 10 => true | 11 => true | 12 => true | 15 => true
  | _ => false

/-- Lanes that execute: the active ones whose guard holds (R199). -/
def guardLanes (g : Group) (x : Split) (w : IWord) : W32 :=
  if wGen w then
    let p := readP g (wGp w)
    x.mask &&& (if wGneg w then ~~~p else p)
  else x.mask

/-- Lanes of an issue. -/
def Iss.lanes (i : Iss) : W32 := guardLanes i.g i.x i.iw

/-- Those of them whose stores and atomics take effect: a helper's are discarded, and its destination
registers keep their values (R310; log 29). -/
def Iss.outLanes (i : Iss) : W32 := i.lanes &&& ~~~i.w.helpers

/-- The lanes of a mask, lowest first. -/
def laneList (m : W32) : List Nat := setBits m 32

/-! ## Fetching an instruction (R172, R200, R285) -/

/-- The line of a core's L1 instruction cache that holds an address. -/
def l1iHit (c : Core) (a : Nat) : Option L1Line := (tfind c.l1i (a / 128 % 256)).filter (·.tag == a / 32768)

/-- Eight bytes of code as the core sees them: its L1 line where it holds one, else memory. -/
def codeWord (s : State) (core a : Nat) : W64 :=
  match l1iHit (coreOf s core) a with
  | some l => BitVec.ofNat 64 (leNat ((l.data.drop (a % 128)).take 8))
  | none => BitVec.ofNat 64 (dmNum s a 8)

/-- Device-physical address of a word of a workgroup's code. -/
def Wg.codeAt (w : Wg) (pc : Nat) : Nat := w.codeBase + 8 * pc

/-- The words at a split's pc are those given. -/
def fetched (s : State) (core : Nat) (w : Wg) (pc : Nat) (iw : IWord) : Bool :=
  codeWord s core (w.codeAt pc) == iw.w0 && (!wL iw || codeWord s core (w.codeAt (pc + 1)) == iw.w1)

/-- A fetch that misses reads its line into the L1, or meets an error of the memory behind it. -/
def fetchFault (s : State) (core a : Nat) : Option MemFault :=
  if (l1iHit (coreOf s core) a).isSome then none else dmFault s (a / 128 * 128) 128

/-- The line of an address in the L1 instruction cache (R285). -/
def l1iFill (s : State) (core ctx a : Nat) : State :=
  if (l1iHit (coreOf s core) a).isSome then s
  else
    let l := a / 128 * 128
    let d := dmRead s l 128
    modCore (dmTouch s (polAt s ctx l) l 128) core fun c =>
      { c with l1i := tput c.l1i (a / 128 % 256) { tag := a / 32768, data := d } }

/-- The lines an instruction's words lie in. -/
def fetchLines (w : Wg) (pc : Nat) (iw : IWord) : List Nat :=
  w.codeAt pc :: (if wL iw then [w.codeAt (pc + 1)] else [])

/-- A split's callback trace, outside its rounds (R327). -/
def cbTrace (s : State) (x : Split) : Option Trace :=
  (x.cb.bind (tfind s.fly.traces)).filter (·.round.isNone)

/-- Whether the split executes in a callback round. -/
def inRound (s : State) (x : Split) : Bool := x.cb.any (fun id => (tfind s.fly.traces id).any (·.round.isSome))

/-- Instructions a split with a callback trace in flight does not execute (R327). -/
def cbForbidden (op : Nat) : Bool := op == 0x280 || op == 0x282 || op == 0x204 || op == 0x3C0 || op == 0x201

/-- Instructions that are invalid encodings in a callback round (R329); a spin back-edge is too. -/
def roundForbidden (iw : IWord) : Bool :=
  let op := wOp iw
  let c := op / 64
  op == 0x340 || op == 0x240 || op == 0x241 || c == 10 || c == 11 || c == 12 || c == 15 || (op == 0x200 && wCtlBit iw 0)

/-- Two members of one set at the same pc in the same state, READY or REJOIN_WAIT, merge (R180). Those with
entries of their own on the stack, a callback, or a different pin flag cannot be one split, and R180 does not
say what their merger would hold: DESIGN CHOICE, they stay apart (log 26). -/
def mergePair (g : Group) : Option Group :=
  (g.splits.flatMap fun a => g.splits.filterMap fun b =>
    if a.1 < b.1 && a.2.level != 0 && a.2.level == b.2.level && a.2.rpc == b.2.rpc &&
        a.2.pc == b.2.pc && a.2.st == b.2.st && (a.2.st == .ready || a.2.st == .rejoinWait) &&
        a.2.top == a.2.level && b.2.top == b.2.level && a.2.pin == b.2.pin && a.2.cb.isNone &&
        b.2.cb.isNone then
      some { g with splits := tput (tdel g.splits b.1) a.1 { a.2 with mask := a.2.mask ||| b.2.mask } }
    else none).head?

/-- Splits that waited for a split place try again when the group has merged or lost one (R186). -/
def retrySpin (now : BitVec 48) (before after : Group) : Group :=
  if after.splits.length < before.splits.length then
    { after with splits := after.splits.map fun e =>
        (e.1, if e.2.st = .stalled && e.2.why = .splitPlace then e.2.toReady now else e.2) }
  else after

/-- Pairs of a group merge, as many as there are. -/
def mergeAll : Nat → Group → Group
  | 0, g => g
  | f + 1, g =>
    match mergePair g with
    | some g' => mergeAll f g'
    | none => g

/-- The group's next issue cycle has come: pairs that stand together merge (R180). -/
def mergeCycle (s : State) (key : Nat) : State :=
  modGroup s key (fun g => retrySpin (coreNow s (key / 64)) g (mergeAll 4 g))

/-! ## Issue order and packs (R181, R184) -/

/-- A READY split of a core partition, with what orders it. -/
structure Cand where
  /-- place·4 + sid. -/
  split : Nat
  ord   : Nat
  rot   : Bool
  promoted : Option Nat

/-- Number of a split in its core partition. -/
def spNum (sp : SplitRef) : Nat := sp.place * 4 + sp.sid

/-- READY splits of placed workgroups on a core partition, by place and sid. -/
def cands (s : State) (core cpart : Nat) : List Cand :=
  (List.range 16).flatMap fun p =>
    match tfind s.groups (groupKey core cpart p) with
    | none => []
    | some g =>
      match tfind s.wgs g.wg with
      | none => []
      | some w =>
        if w.st = .placed then
          (g.splits.filter (fun e => e.2.st == .ready)).map fun e =>
            { split := p * 4 + e.1, ord := w.ord, rot := e.2.rot
              promoted := (coreOf s core).promoted.findIdx? (· == cpart * 64 + p * 4 + e.1) }
        else []

/-- Whether a READY split is preferred to another: promoted ones in their order, then the one that issued
last with rot clear, then the others with rot clear, then those with rot set, by age of their workgroup's
placement, then place and sid (R184). -/
def Cand.before (last : Option Nat) (a b : Cand) : Bool :=
  let cls (x : Cand) : Nat :=
    if x.promoted.isSome then 0 else if x.rot then 3 else if last = some x.split then 1 else 2
  if cls a = 0 && cls b = 0 then decide (a.promoted.getD 0 < b.promoted.getD 0)
  else
    decide (cls a < cls b) ||
    (cls a == cls b && (decide (a.ord < b.ord) || (a.ord == b.ord && decide (a.split < b.split))))

/-- The split a core partition issues from (R184). -/
def preferred (s : State) (core cpart : Nat) : Option Nat :=
  let last := (tfind (coreOf s core).issued cpart).map (·.split)
  ((cands s core cpart).foldl (fun best c =>
    match best with
    | none => some c
    | some b => if c.before last b then some c else best) none).map (·.split)

/-- Whether a split may join the pack that issued last: another group of the same workgroup at the same pc,
lanes apart, pin clear, at most 4 members, and an instruction that may be packed (R181). -/
def joinsPack (s : State) (i : Iss) : Bool :=
  match tfind (coreOf s i.sp.core).issued i.sp.cpart with
  | none => false
  | some e =>
    e.packs && e.wg == i.id && e.pc == i.x.pc && decide (e.places.length < 4) &&
    !e.places.contains i.sp.place && e.lanes &&& i.x.mask == 0 && !i.x.pin

/-- Classes and instructions that are never packed, whatever they write (Table 10-7). -/
def neverPacked (w : IWord) : Bool :=
  match wClass w with
  | 5 => true | 9 => true | 10 => true | 11 => true | 12 => true | 15 => true
  | 8 => wFn w == 2 || wFn w == 3
  | _ => false

/-- An issue is recorded: as a new one, or as a member of the pack. -/
def noteIssue (s : State) (i : Iss) (packs : Bool) : State :=
  let join := joinsPack s i
  modCore s i.sp.core fun c =>
    let old := (tfind c.issued i.sp.cpart).filter (fun _ => join)
    { c with
      promoted := c.promoted.filter (· != i.sp.cpart * 64 + spNum i.sp)
      issued := tput c.issued i.sp.cpart
        { split := spNum i.sp, wg := i.id, pc := i.x.pc, places := i.sp.place :: (old.map (·.places)).getD []
          lanes := i.x.mask ||| (old.map (·.lanes)).getD 0
          packs := packs && !i.x.pin && !neverPacked i.iw } }

/-- Checks an instruction passes before its own: its words lie inside the code, its guard, its rounding and
format codes and its word 1 are permitted, and after `commit` it is `sig` or `exit` (R199, R200, R214). -/
def wordOk (i : Iss) (f : Form1) : Bool :=
  !(wGen i.iw && guardForbidden i.iw) && form1Ok f i.iw && pcInside i.w i.x.pc.toNat &&
  pcInside i.w (i.x.pc.toNat + iLen i.iw - 1) && decide (wRm i.iw ≤ 5 ∧ wFmt i.iw ≤ 0xB) &&
  !(i.w.committed && wOp i.iw != 0x281 && wOp i.iw != 0x201)

/-- Issue the instruction that stands at a split's pc, whose opcode is one of `ops` and whose word 1 has
form `f`; the merges of R180 come first, and the split must be the one its core partition prefers or join the
pack that issued last. `packs` is false for a form that writes a scalar register. A split that is not READY, or
stands at another instruction, is left as it is (log 4); a fetch outside the code object is a refused access,
and an unlisted opcode and what `wordOk` refuses are invalid encodings (R172, R181, R184, R200). -/
def onIssue (s : State) (sp : SplitRef) (iw : IWord) (ops : Nat → Bool) (f : Form1)
    (act : State → Iss → State) (packs : Bool := true) : State :=
  match locate s sp iw with
  | none => s
  | some i =>
    if i.x.st != .ready || i.w.st != .placed then s
    else
      let m := mergeCycle s i.key
      match locate m sp iw with
      | none => s
      | some i =>
        if preferred m sp.core sp.cpart != some (spNum sp) && !joinsPack m i then s
        else if i.w.codeObj < 8 * (i.x.pc.toNat + 1) then refusedAccess m i (i.w.codeAt i.x.pc.toNat)
        else if wL iw && i.w.codeObj < 8 * (i.x.pc.toNat + 2) &&
            codeWord m sp.core (i.w.codeAt i.x.pc.toNat) == iw.w0 then
          refusedAccess m i (i.w.codeAt (i.x.pc.toNat + 1))
        else if !fetched m sp.core i.w i.x.pc.toNat iw then s
        else match (fetchLines i.w i.x.pc.toNat iw).findSome? (fetchFault m sp.core) with
          | some e => hwFault m i.w.ctx e (some i.w.inst)
          | none =>
            if !opListed (wOp iw) then badEncoding m i
            else if !ops (wOp iw) then s
            else
              let m := noteIssue m i packs
              let x := { i.x with rot := false, readyAt := coreNow m sp.core }
              let m := modSplit m i.key sp.sid (fun _ => x)
              let i := { i with x := x, g := i.g.modSplit sp.sid (fun _ => x), was := i.x.rot }
              if !wordOk i f then badEncoding m i
              else if inRound m i.x && roundForbidden iw then badEncoding m i
              else if i.x.cb.isSome && cbForbidden (wOp iw) then stall m i .callback
              else act ((fetchLines i.w i.x.pc.toNat iw).foldl (fun s a => l1iFill s sp.core i.w.ctx a) m) i

/-! ## Register fields (R198, R200) -/

/-- A vector register inside the kernel's allowance. -/
def vOk (i : Iss) (n : Nat) : Bool := decide (n < i.w.vregs)
/-- A run of vector registers inside the allowance. -/
def vRunOk (i : Iss) (n len : Nat) : Bool := decide (n + len ≤ i.w.vregs)
/-- A scalar register: six bits. -/
def sOk (n : Nat) : Bool := decide (n < 64)
/-- An aligned scalar pair. -/
def sPairOk (n : Nat) : Bool := decide (n < 64) && n % 2 == 0
/-- A predicate: four bits. -/
def pOk (n : Nat) : Bool := decide (n < 16)
/-- An accumulator inside the allowance. -/
def aOk (i : Iss) (n : Nat) : Bool := decide (n < i.w.nAcc)

/-- Registers a trace keeps a split from: the hit record, and under callbacks the ray too, except in a
round (R203, R327). -/
def traceRegs (t : Trace) : List RegId :=
  if t.round.isSome then []
  else
    let n := if t.acoustic then 12 else 8
    let cb := t.cbAny != 0xFFFFFF || t.cbInt != 0xFFFFFF
    (laneList t.lanes).flatMap fun l =>
      (List.range n).map (fun k => RegId.v (t.d + k) l) ++
        (if cb then (List.range n).map (fun k => RegId.v (t.a + k) l) else [])

/-- Registers a load, atomic, `trace` or `amov` of the group has not yet written (R203). -/
def pendingRegs (s : State) (key : Nat) : List RegId :=
  ((s.fly.loads.filter (·.2.grp == key)).flatMap (·.2.writes)).map (·.1) ++
  (s.fly.traces.filter (·.2.grp == key)).flatMap (fun e => traceRegs e.2)

/-- Whether an instruction must stall on one of the registers it reads or writes (R203). -/
def depends (s : State) (i : Iss) (rs : List RegId) : Bool :=
  let p := pendingRegs s i.key
  rs.any (fun r => p.contains r)

/-- A vector register of each lane given. -/
def vRegs (n : Nat) (lanes : List Nat) : List RegId := lanes.map (.v n ·)

/-- Source operand k of a lane: a, b or c, scalar or vector by kind; in form I the immediate replaces
c (Tables 10-3, 10-4). -/
def srcField (w : IWord) (k : Nat) : Nat := if k = 0 then wA w else if k = 1 then wB w else wC w

/-- Registers source operand k reads. -/
def srcRegs (i : Iss) (k : Nat) (lanes : List Nat) : List RegId :=
  if k = 2 && wL i.iw then []
  else if wKind i.iw k then [.s (srcField i.iw k)] else vRegs (srcField i.iw k) lanes

/-- Whether source operand k names a register of the kernel. -/
def srcOk (i : Iss) (k : Nat) : Bool :=
  (k == 2 && wL i.iw) || (if wKind i.iw k then sOk (srcField i.iw k) else vOk i (srcField i.iw k))

/-- Value of source operand k in a lane. -/
def srcVal (i : Iss) (k lane : Nat) : W32 :=
  if k = 2 && wL i.iw then wImm i.iw
  else if wKind i.iw k then readS i.g (srcField i.iw k) else readV i.g (srcField i.iw k) lane

/-! ## Lull references (R208, R259) -/

def crScope (r : Nat) : Nat := r / 16384 % 4
def crPeer (r : Nat) : Nat := r / 4096 % 4
def crIndex (r : Nat) : Nat := r % 256
/-- Bits [11:8] are reserved. -/
def crClean (r : Nat) : Bool := r / 256 % 16 == 0

end Sys2Proof.Machine
end

