-- ==== Sys2Proof/Machine/Flags.lean ====
section
/-! DEFINITION. Flags.lean: the predicate computations: comparisons, predicate logic and votes (10
Table 10-9, 12 R245, R247). The device has no arithmetic flags and no exception flag (R236). -/

namespace Sys2Proof.Machine

/-- A relation on values that are never NaN. -/
def relHolds (r : Rel) (lt eq : Bool) : Bool :=
  match r with
  | .eq => eq | .ne => !eq | .lt => lt | .le => lt || eq | .gt => !(lt || eq) | .ge => !lt

/-- Comparison of two encodings of a value format: a NaN makes every relation false but NE (R245). -/
def fpCompare (r : Rel) (c x y : Nat) : Bool :=
  let a := fpDecode c x
  let b := fpDecode c y
  if a.isNan || b.isNan then r == .ne else relHolds r (fpLt a b) (fpEq a b)

/-- Comparison of integers of w bits, unsigned under ctl bit 1 (R247). -/
def intCompare (r : Rel) (w : Nat) (uns : Bool) (x y : Nat) : Bool :=
  if uns then relHolds r (decide (x % 2 ^ w < y % 2 ^ w)) (x % 2 ^ w == y % 2 ^ w)
  else relHolds r (decide (signed w x < signed w y)) (x % 2 ^ w == y % 2 ^ w)

/-- The comparison of one lane: INT32, an integer format, or a floating-point format; the element at
position 0 of the registers (log 10). -/
def laneCompare (r : Rel) (int32 : Bool) (w : IWord) (x y : W32) : Bool :=
  if int32 then intCompare r 32 (wCtlBit w 1) x.toNat y.toNat
  else if fmtInt (wFmt w) then
    intCompare r (fmtWidth (wFmt w)) (wCtlBit w 1) x.toNat y.toNat
  else fpCompare r (wFmt w) (elemAt (wFmt w) 0 x.toNat) (elemAt (wFmt w) 0 y.toNat)

/-- Write a predicate in the executing lanes only. -/
def predWrite (g : Group) (n : Nat) (lanes v : W32) : Group :=
  writeReg g (.p n) ((readP g n &&& ~~~lanes) ||| (v &&& lanes))

/-- A mask from a test on each executing lane. -/
def laneMask (lanes : W32) (p : Nat → Bool) : W32 :=
  BitVec.ofNat 32 (((laneList lanes).map (fun l => if p l then 2 ^ l else 0)).foldl (· + ·) 0)

end Sys2Proof.Machine
end

