-- ==== Sys2Proof/Machine/Counters.lean ====
section
/-! DEFINITION. Counters.lean: Lull counters, watches, wake messages and barrier phases (13 R258 to
R270, R401). -/

namespace Sys2Proof.Machine

/-- Change a workgroup. -/
def modWg (s : State) (id : Nat) (f : Wg → Wg) : State := { s with wgs := tupd s.wgs id f }

/-- Every split that stalls for a given reason becomes READY, whatever its group. -/
def unstallAll (s : State) (p : Why → Bool) : State :=
  (s.groups.map (·.1)).foldl (fun s k => unstall s k p) s

/-! ## Counters (R258 to R261) -/

/-- A hub counter. -/
def hubOf (s : State) (i : Nat) : Hub := tget s.hub i {}

/-- Change a hub counter. -/
def modHub (s : State) (i : Nat) (f : Hub → Hub) : State := { s with hub := tmod s.hub i {} f }

/-- This chip keeps the counts of its ring's counters (R401). -/
def isRoot (s : State) : Bool := s.ring.chip == s.ring.root

/-- Whether a hub counter's count lives at another chip's hub (R401). -/
def ringAway (s : State) (i : Nat) : Bool := (hubOf s i).ring && !isRoot s

/-- A counter's count; `home` is the core of its slice, or none for the hub. -/
def ctrGet (s : State) (home : Option Nat) (i : Nat) : W32 :=
  match home with
  | some c => tget (coreOf s c).ctrs i 0
  | none => (hubOf s i).count

/-- Set a counter's count. -/
def ctrSet (s : State) (home : Option Nat) (i : Nat) (v : W32) : State :=
  match home with
  | some c => modCore s c (fun x => { x with ctrs := if v = 0 then tdel x.ctrs i else tput x.ctrs i v })
  | none => modHub s i (fun h => { h with count := v })

/-- Whether a condition holds (Table 13-1). -/
def watchHolds (cmp : Nat) (count target : W32) : Bool :=
  match cmp with
  | 0 => decide (target ≤ count)
  | 1 => count == target
  | 2 => decide (target < count)
  | _ => count != target

/-- Evaluate watches in order against a running count: the final count, those that stay and those
that fire (R261). -/
def runWatches : List Watch → W32 → W32 × List Watch × List Watch
  | [], c => (c, [], [])
  | w :: r, c =>
    if watchHolds w.cmp c w.target then
      let (d, k, f) := runWatches r (if w.consume then c - w.target else c)
      (d, k, w :: f)
    else
      let (d, k, f) := runWatches r c
      (d, w :: k, f)

/-- The cycles of a counter until no watch fires: those that stay take part in the next one, against the
count the fired ones left (R261). -/
def runCycles : Nat → List Watch → W32 → W32 × List Watch
  | 0, _, c => (c, [])
  | n + 1, l, c =>
    match runWatches l c with
    | (d, _, []) => (d, [])
    | (d, k, f) => let (e, g) := runCycles n k d; (e, f ++ g)

/-- Whether a watch is held on a counter. -/
def onCtr (home : Option Nat) (i : Nat) (w : Watch) : Bool := w.home == home && w.ctr == i

/-- Whether a firing on a counter includes additions made outside a core (R287). -/
def outsideOf (s : State) (home : Option Nat) (i core : Nat) : Bool :=
  match home with
  | some c => c != core || (coreOf s c).ctrOut.contains i
  | none => true

/-- Step 4 of R261: every watch on a counter is evaluated, fired ones are removed and their wake
messages sent, and splits that wait for a watch place try again. -/
def evalCtr (s : State) (home : Option Nat) (i : Nat) : State :=
  let l := s.fly.watches.filter (onCtr home i)
  let (c, fired) := runCycles (l.length + 1) l (ctrGet s home i)
  if fired.isEmpty then s
  else
    let msgs := fired.map fun w => ({ sp := w.sp, flash := outsideOf s home i w.sp.core } : WakeMsg)
    let s := ctrSet s home i c
    let s := match home with
      | some h =>
        if fired.any (·.sp.core == h) then modCore s h (fun x => { x with ctrOut := x.ctrOut.filter (· != i) })
        else s
      | none => s
    let s := { s with fly := { s.fly with
      watches := s.fly.watches.filter (fun w => !(onCtr home i w && fired.contains w))
      wakes := s.fly.wakes ++ msgs } }
    unstallAll s (· == .watchPlace)

/-- An addition reaches a counter (R260, R261). `src` is the core that made it, none for another
chip. A ring counter whose count lives elsewhere is told at its root (R401). -/
def ctrAdd (s : State) (home : Option Nat) (i : Nat) (v : W32) (src : Option Nat) : State :=
  if home == none && ringAway s i then s
  else
    let s := ctrSet s home i (ctrGet s home i + v)
    let s := match home with
      | some c =>
        if src == some c then s
        else modCore s c (fun x => { x with ctrOut := if x.ctrOut.contains i then x.ctrOut else i :: x.ctrOut })
      | none => s
    evalCtr s home i

/-- A realignment sets a counter to 0 before the additions of its cycle (R261, R269); a count that
lives at another chip's hub is not here to be set (R401). -/
def ctrZero (s : State) (home : Option Nat) (i : Nat) : State :=
  if home == none && ringAway s i then s
  else
    let s := ctrSet s home i 0
    let s := match home with
      | some c => modCore s c (fun x => { x with ctrOut := x.ctrOut.filter (· != i) })
      | none => s
    evalCtr s home i

/-! ## Watch places (R262) -/

/-- Whether a home has a free watch place for a core's split. -/
def watchRoom (s : State) (home : Option Nat) (core : Nat) : Bool :=
  let l := s.fly.watches.filter (·.home == home)
  match home with
  | none => decide (l.length < 1024)
  | some c =>
    if c = core then decide ((l.filter (·.sp.core == c)).length < 256)
    else decide ((l.filter (·.sp.core != c)).length < 64)

/-! ## Barriers (R266, R267) -/

/-- Threads of a list of workgroups that have not exited. -/
def threadsLeft (l : List (Nat × Wg)) : Nat :=
  (l.map (fun e => e.2.groups * 32 - e.2.exited)).foldl (· + ·) 0

/-- The workgroup of rank 0 of a cluster keeps the cluster barrier. -/
def rank0 (s : State) (w : Wg) : Nat :=
  (((clusterOf s w).find? (fun e => e.2.rank == 0)).map (·.1)).getD 0

/-- Splits of some workgroups that wait at a barrier of a kind under a sense, as group key and split
number. -/
def waiting (s : State) (ids : List Nat) (kind : Nat) (sense : Bool) : List (Nat × Nat) :=
  (s.groups.filter (fun e => ids.contains e.2.wg)).flatMap fun e =>
    (e.2.splits.filter (fun x => x.2.st == .syncWait && x.2.why == .barrier kind sense)).map
      fun x => (e.1, x.1)

/-- Release every split that waits on a barrier's old sense: a message goes to each, and one whose
workgroup is saved no longer waits when it is restored. A message drops the core's L1 data if an
arrival of the phase came from another core, as every hub barrier's does (R266, R287). -/
def releaseBar (s : State) (ids : List Nat) (kind : Nat) (sense : Bool) : State :=
  let hits := waiting s ids kind sense
  let cores := hits.map (·.1 / 64)
  let live := hits.filter (fun h => decide (h.1 < 100000))
  let msg (h : Nat × Nat) : WakeMsg :=
    { sp := { core := h.1 / 64, cpart := h.1 / 16 % 4, place := h.1 % 16, sid := h.2 }
      flash := decide (2 ≤ kind) || cores.any (· != h.1 / 64) }
  let s := hits.foldl (fun s h => modSplit s h.1 h.2 (fun x =>
    if h.1 < 100000 then { x with why := .none }
    else { x with st := .ready, why := .none, pc := x.pc + 1 })) s
  { s with fly := { s.fly with wakes := s.fly.wakes ++ live.map msg } }

/-- The barrier of a workgroup (kind 0) or of the cluster it keeps (kind 1). -/
def Wg.slotBar (w : Wg) (kind : Nat) : Barrier := if kind = 0 then w.bar else w.cbar

/-- Set it. -/
def Wg.putBar (w : Wg) (kind : Nat) (b : Barrier) : Wg := if kind = 0 then { w with bar := b } else { w with cbar := b }

/-- The flip of a barrier that workgroup `z` keeps for the workgroups `l`: n falls to 0, the sense
turns, the counters the completing agent named are set to 0, and everyone on the old sense is released
(Table 13-3, R269). -/
def barFlip (s : State) (kind z : Nat) (l : List (Nat × Wg)) (sense : Bool) (ctrs : List Nat) : State :=
  let s := modWg s z (fun w => w.putBar kind { n := 0, sense := !sense })
  let s := l.foldl (fun s e => ctrs.foldl (fun s k => ctrZero s (some e.2.core) (e.2.ctrBase + k)) s) s
  releaseBar s (l.map (·.1)) kind sense

/-- E of such a barrier falls by exits. What stands arrived then completes the phase, with the mask of
the last arrival, for `exit` names no counter (Table 13-3, R269). -/
def barFall (s : State) (kind z : Nat) (l : List (Nat × Wg)) : State :=
  let e := threadsLeft l
  let b := ((tfind s.wgs z).map (·.slotBar kind)).getD {}
  if e = 0 then modWg s z (fun w => w.putBar kind { n := 0, sense := b.sense })
  else if e ≤ b.n then barFlip s kind z l b.sense b.ctrs
  else s

/-- One arrival at a hub barrier, with the counters its agent would realign (R266, R269). A barrier
whose count lives at another chip sends the arrival there (R401). -/
def hubArrive (s : State) (h : Nat) (realign : List Nat) : State :=
  if ringAway s h then s
  else
    let b := hubOf s h
    if b.n + 1 = b.parts then
      let s := modHub s h (fun b => { b with n := 0, sense := !b.sense })
      let s := realign.foldl (fun s i => ctrZero s none i) s
      releaseBar s (s.wgs.map (·.1)) (2 + h) b.sense
    else modHub s h (fun b => { b with n := b.n + 1 })

end Sys2Proof.Machine
end

