-- ==== Sys2Proof/Machine/RasMerge.lean ====
section
/-! DEFINITION. RasMerge.lean: the working buffers of a pass and the merging of fragment groups in submission
order (15 R300 to R315). -/

namespace Sys2Proof.Machine

/-- Tile of a pixel. -/
def Pass.tileAt (p : Pass) (x y : Nat) : Nat := y / 32 * pdTilesX p.desc + x / 32

/-! ## Working buffers -/

/-- Place of a sample in a tile's buffer. -/
def sampleIdx (d : BitVec 1024) (x y j : Nat) : Nat := (y % 32 * 32 + x % 32) * pdSamples d + j

/-- A sample of a working buffer. -/
def Pass.sample (p : Pass) (tile att i : Nat) : Nat := ((tget p.buf (5 * tile + att) []).getD i 0).toNat

/-- Write a sample. -/
def Pass.setSample (p : Pass) (tile att i v : Nat) : Pass :=
  { p with buf := tmod p.buf (5 * tile + att) [] (fun l => l.set i (BitVec.ofNat 64 v)) }

/-! ## Tests and blending in submission order (R311, R314, R315) -/

/-- Covered samples of a lane that a test has left. -/
def laneCover (m : Merge) (l : RasLane) : Byte := tget m.cover l.lane 0

/-- Lanes whose outputs count: no helper, not killed. -/
def liveLanes (m : Merge) : List RasLane :=
  m.setup.lanes.filter fun l => laneCover m l != 0 && !m.killed.getLsbD l.lane

/-- Depth and stencil test of a lane's samples: the pass with its new depths, and the survivors. -/
def testLane (p : Pass) (d : BitVec 512) (tile : Nat) (l : RasLane) (cover : Byte) : Pass × Byte :=
  (setBits cover (pdSamples p.desc)).foldl (fun (acc : Pass × Byte) j =>
    let i := sampleIdx p.desc l.x l.y j
    let (ok, v) := depthTest d (attFmt (pdAtt p.desc 4)) (l.depth.getD j 0) (acc.1.sample tile 4 i)
    (acc.1.setSample tile 4 i v, if ok then acc.2 ||| (1#8 <<< j) else acc.2)) (p, 0)

/-- Make a group's depth and stencil tests, once; without a depth attachment all samples survive. -/
def testGroup (p : Pass) (d : BitVec 512) (tile : Nat) (m : Merge) : Pass × Merge :=
  if m.tested then (p, m)
  else if !pdDepth p.desc then (p, { m with tested := true })
  else
    let (p, c) := (liveLanes m).foldl (fun (acc : Pass × Tab Byte) l =>
      let (q, v) := testLane acc.1 d tile l (laneCover m l)
      (q, tput acc.2 l.lane v)) (p, [])
    (p, { m with tested := true, cover := c })

/-- Colour a lane wrote with `fout` to an attachment. -/
def foutOf (m : Merge) (lane att : Nat) : Option (List W32) :=
  if thas m.out (lane * 16 + att * 4) then
    some ((List.range 4).map (fun k => tget m.out (lane * 16 + att * 4 + k) 0))
  else none

/-- Blend a lane's colour into its surviving samples of one attachment. -/
def blendLane (p : Pass) (d : BitVec 512) (tile att : Nat) (m : Merge) (l : RasLane) : Pass :=
  match foutOf m l.lane att with
  | none => p
  | some c =>
    (setBits (laneCover m l) (pdSamples p.desc)).foldl (fun p j =>
      let i := sampleIdx p.desc l.x l.y j
      p.setSample tile att i
        (blendStore (attFmt (pdAtt p.desc att)) (drBlend d att) c (p.sample tile att i))) p

/-- Merge a group: its tests if they are still to be made, then its colours, triangle by triangle. -/
def mergeGroup (p : Pass) (d : BitVec 512) (tile : Nat) (m : Merge) : Pass :=
  let (p, m) := testGroup p d tile m
  (liveLanes m).foldl (fun p l =>
    (List.range (pdNcol p.desc)).foldl (fun p a => blendLane p d tile a m l) p) p

/-- Merge the groups at the front of a queue that have ended. -/
def mergeFront (tile : Nat) : List Merge → Pass → Pass × List Merge
  | [], p => (p, [])
  | m :: r, p =>
    if m.done then mergeFront tile r (mergeGroup p (p.draw m.setup.draw) tile m) else (p, m :: r)

/-- Change the queue entry of a workgroup. -/
def modMerge (s : State) (id core wg : Nat) (f : Merge → Merge) : State :=
  modPass s id fun p =>
    { p with queue := tupd p.queue core (fun l => l.map (fun m => if m.wg = wg then f m else m)) }

/-- What a vertex left with `vout`: position and varyings; one it did not write has no value in the manual
(log 8). -/
def vertexOut (s : State) (out : Tab W32) (lane n : Nat) : List W32 × State :=
  (List.range n).foldl (fun (acc : List W32 × State) j =>
    match tfind out (lane * 32 + j) with
    | some v => (acc.1 ++ [v], acc.2)
    | none =>
      let (f, s) := takeFree acc.2
      (acc.1 ++ [f.setWidth 32], s)) ([], s)

/-- The results of a vertex group go to the binner (R303). -/
def vertexEnd (s : State) (id pid : Nat) (p : Pass) (r : RasSetup) : State :=
  let out := match (tkeys s.groups (fun _ g => g.wg == id)).head? with
    | none => []
    | some k => (tget s.fly.ras k { out := [] }).out
  r.lanes.foldl (fun s l =>
    let (v, s) := vertexOut s out l.lane (4 + drNvar (p.draw r.draw))
    modPass s pid (fun p => { p with verts := tput p.verts (vertKey r.draw l.inst l.vidx) v })) s

/-- The threads of a raster group have ended: a vertex group's results go to the binner, a fragment group
is merged once every earlier one of its tile has been (R303, R311). -/
def rasEnd (s : State) (id : Nat) (w : Wg) : State :=
  match w.ras, passOf s w.inst w.node with
  | some r, some (pid, p) =>
    match r.stage with
    | .vertex => vertexEnd s id pid p r
    | .fragment =>
      let s := modMerge s pid w.core id (fun m => { m with done := true })
      let s := modPass s pid fun p =>
        match tfind p.owners w.core with
        | none => p
        | some t =>
          let (q, l) := mergeFront t (tget p.queue w.core []) p
          { q with queue := tput q.queue w.core l }
      unstallAll s (· == .unit)
  | _, _ => s

/-- A fragment of an earlier triangle at the pixel of one of some lanes has neither ended nor executed
`oexit` (R312). Its group stands in the tile's queue, for pieces are placed in submission order, and no
group of an ordered pass holds two triangles' fragments of one pixel. Helpers are no fragments. -/
def earlierFragment (s : State) (l : List Merge) (mine : Merge) (helpers lanes : W32) : Bool :=
  let asks := mine.setup.lanes.filter (fun f => lanes.getLsbD f.lane && !helpers.getLsbD f.lane)
  let out (m : Merge) : W32 :=
    match s.groups.find? (fun e => e.2.wg == m.wg) with
    | none => BitVec.allOnes 32
    | some (_, g) => g.exited ||| m.exited ||| ((tfind s.wgs m.wg).map (·.helpers)).getD 0
  l.any fun m => !m.done && m.setup.lanes.any fun f => !(out m).getLsbD f.lane &&
    asks.any (fun e => e.x == f.x && e.y == f.y && decide (f.tri < e.tri))

end Sys2Proof.Machine
end

