-- ==== Sys2Proof/Machine/Splits.lean ====
section
/-! DEFINITION. Splits.lean: the mask stack, splits, sets, control instructions and the end of threads
(09 R174 to R187, 10 R204, R205). -/

namespace Sys2Proof.Machine

/-! ## Mask stack (R175 to R177) -/

/-- Lowest free stack place, 1 to 16. -/
def freeStack (g : Group) : Option Nat := tfirst g.stack (fun _ => false) 1 16

/-- The places of a view, from its top entry down; at most 16 entries. -/
def viewFrom (stack : Tab MaskEnt) : Nat → Nat → List Nat
  | 0, _ => []
  | f + 1, p =>
    if p = 0 then []
    else match tfind stack p with
      | none => []
      | some e => p :: viewFrom stack f e.below

/-- A split's view of the stack, top first. -/
def Group.view (g : Group) (x : Split) : List Nat := viewFrom g.stack 16 x.top

/-- The nearest SPLIT entry at or beneath a place. -/
def nearestSplit (g : Group) (p : Nat) : Option (Nat × MaskEnt) :=
  ((viewFrom g.stack 16 p).filterMap (fun q => (tfind g.stack q).map (fun e => (q, e)))).find?
    (fun e => e.2.isSplit)

/-- Put an entry on top of a view; none when all 16 are in use (R177). -/
def pushEnt (g : Group) (e : MaskEnt) : Option (Group × Nat) :=
  (freeStack g).map fun p => ({ g with stack := tput g.stack p e }, p)

/-! ## Sets (R180) -/

/-- Members of the set whose SPLIT entry stands at a place. -/
def setMembers (g : Group) (p : Nat) : List (Nat × Split) := g.splits.filter (fun e => e.2.level == p)

/-- Splits that see a stack place. -/
def seers (g : Group) (p : Nat) : List (Nat × Split) := g.splits.filter (fun e => (g.view e.2).contains p)

/-- Level and rpc a split takes from the nearest SPLIT entry at or beneath its top (R180). -/
def relevel (g : Group) (x : Split) : Split :=
  match nearestSplit g x.top with
  | some (p, e) => { x with level := p, rpc := e.rpc }
  | none => { x with level := 0, rpc := 0xFFFFFF, origin := 0 }

/-- Merge members: the lowest split number holds the union of the masks. -/
def unionMask (l : List (Nat × Split)) : W32 := l.foldl (fun m e => m ||| e.2.mask) 0

/-- A set whose members all wait at rpc, with no split left above its SPLIT entry: the merged split
runs at rpc and the entry is popped (R180). Answers the merged split's number. -/
def joinSet (g : Group) (now : BitVec 48) (p : Nat) : Option (Group × Nat) :=
  match tfind g.stack p, setMembers g p with
  | some e, (sid, x) :: r =>
    let all := (sid, x) :: r
    if all.all (fun m => m.2.st == .rejoinWait) && (seers g p).length == all.length then
      let stack := tdel g.stack p
      let keep := g.splits.filter (fun y => y.2.level != p)
      let y := ({ x with mask := unionMask all, top := e.below, pc := x.rpc } : Split).toReady now
      let g := { g with stack := stack, splits := keep }
      some (g.putSplit sid (relevel g y), sid)
    else none
  | some _, [] =>
    if (seers g p).isEmpty then
      some ({ g with stack := tdel g.stack p }, 99)
    else none
  | none, _ => none

/-! ## Arriving at a PC (R176, R180) -/

/-- A split stands at its pc: entries whose rpc it has reached act, until none does. -/
def arrive (now : BitVec 48) : Nat → Group → Nat → Group
  | 0, g, _ => g
  | f + 1, g, sid =>
    match tfind g.splits sid with
    | none => g
    | some x =>
      match tfind g.stack x.top with
      | none => g
      | some e =>
        if e.rpc != x.pc then g
        else if e.isSplit then
          if x.cb.isSome then
            if x.st = .ready then g.putSplit sid { x with st := .stalled, why := .callback } else g
          else if x.st = .ready then
            let g := g.putSplit sid { x with st := .rejoinWait }
            match joinSet g now x.top with
            | some (g', sid') => arrive now f g' sid'
            | none => g
          else g
        else if e.alt = e.rpc then
          let y := { x with mask := x.mask ||| e.mask, top := e.below }
          arrive now f ({ g with stack := tdel g.stack x.top }.putSplit sid y) sid
        else
          let g := { g with stack := tput g.stack x.top { e with mask := x.mask, alt := e.rpc } }
          arrive now f (g.putSplit sid { x with mask := e.mask, pc := e.alt }) sid

/-- Settle a group: complete sets join (R180). -/
def settleSets (now : BitVec 48) : Nat → Group → Group
  | 0, g => g
  | f + 1, g =>
    match (g.stack.map (·.1)).findSome? (fun p =>
        if (tfind g.stack p).any (·.isSplit) then joinSet g now p else none) with
    | some (g', sid) => settleSets now f (arrive now 40 g' sid)
    | none => g

/-- Move a split to a PC. -/
def goPc (now : BitVec 48) (g : Group) (sid : Nat) (pc : BitVec 24) : Group :=
  arrive now 40 (g.modSplit sid (fun x => { x with pc := pc })) sid

/-- Change a group and let its sets settle. -/
def settleGroup (s : State) (key : Nat) (f : Group → Group) : State :=
  let now := coreNow s (key / 64)
  modGroup s key (fun g => retrySpin now g (settleSets now 24 (f g)))

/-- The split goes on at the next instruction. -/
def advance (s : State) (i : Iss) : State :=
  settleGroup s i.key fun g =>
    goPc (coreNow s i.sp.core) g i.sp.sid (i.x.pc + BitVec.ofNat 24 (iLen i.iw))

/-! ## Dividing (R179) -/

/-- Lowest split number not in use. -/
def freeSid (g : Group) : Option Nat := tfirst g.splits (fun _ => false) 0 4

/-- Whether the executing split may divide (R179). -/
def mayDivide (g : Group) (x : Split) : Bool := decide (g.splits.length < 3) && !x.pin && x.cb.isNone && !g.nosplit

/-- Divide a split: `lanes` become a new split at `pcN` in a state, the rest go on at `pcO`; both take
the new SPLIT entry (R179). None when the stack is full. -/
def divide (now : BitVec 48) (g : Group) (sid : Nat) (lanes : W32) (pcN pcO rpc : BitVec 24) (origin : Nat)
    (st : SplitState) (why : Why) : Option (Group × Nat) :=
  match tfind g.splits sid, freeSid g with
  | some x, some n =>
    match pushEnt g { isSplit := true, owner := sid, rpc := rpc, alt := 0, mask := x.mask, below := x.top } with
    | none => none
    | some (g, p) =>
      let old : Split := { x with level := p, top := p, rpc := rpc, mask := x.mask &&& ~~~lanes, pc := pcO,
                                  origin := origin }
      let new : Split := { st := st, why := why, level := p, top := p, rpc := rpc, mask := lanes, pc := pcN,
                           origin := origin, readyAt := now }
      some ((g.putSplit sid old).putSplit n new, n)
  | _, _ => none

/-! ## `bra` (R175, R186, R204) -/

def braTarget (w : IWord) : BitVec 24 := BitVec.ofNat 24 (w1Bits w 87 64)
def braRpc (w : IWord) : BitVec 24 := BitVec.ofNat 24 (w1Bits w 111 88)
def braRj (w : IWord) : BitVec 24 := BitVec.ofNat 24 (bits w.w0 63 40)

/-- A reconvergence PC of a divergent branch: a word of the code, or none (R172, R200, R204). -/
def rpcOk (w : Wg) (pc : BitVec 24) : Bool := pc == 0xFFFFFF || pcInside w pc.toNat

/-- PC of the instruction that follows. -/
def nextPc (i : Iss) : BitVec 24 := i.x.pc + BitVec.ofNat 24 (iLen i.iw)

/-- A divergent branch with no split: a SERIAL entry holds the taken lanes (R175). -/
def serialBranch (now : BitVec 48) (i : Iss) (g : Group) (takenL : W32) : Option Group :=
  let x := i.x
  let rest : Split := { x with mask := x.mask &&& ~~~takenL }
  let loop := match tfind g.stack x.top with
    | some e => !e.isSplit && e.rpc == braRpc i.iw && e.alt == e.rpc && braTarget i.iw == e.rpc
    | none => false
  if loop then
    let g := { g with stack := tupd g.stack x.top (fun e => { e with mask := e.mask ||| takenL }) }
    some (goPc now (g.putSplit i.sp.sid rest) i.sp.sid (nextPc i))
  else
    (pushEnt g { isSplit := false, owner := i.sp.sid, rpc := braRpc i.iw, alt := braTarget i.iw,
                 mask := takenL, below := x.top }).map fun (g, p) =>
      goPc now (g.putSplit i.sp.sid { rest with top := p }) i.sp.sid (nextPc i)

/-- The set W joins, or a SPLIT entry for it: in case 2 the removed SERIAL entry's place is free again
(R186 step 4). -/
def spinSet (g : Group) (sid : Nat) (x : Split) (rpc : BitVec 24) : Option (Group × Nat × Bool) :=
  match nearestSplit g x.top with
  | some (p, e) =>
    if e.rpc = rpc then some (g, p, true)
    else (pushEnt g { isSplit := true, owner := sid, rpc := rpc, alt := 0, mask := x.mask, below := x.top }).map
      fun (g, p) => (g, p, false)
  | none => (pushEnt g { isSplit := true, owner := sid, rpc := rpc, alt := 0, mask := x.mask, below := x.top }).map
      fun (g, p) => (g, p, false)

/-- Create W with `lanes` at `pc`, in a set with `rpc`; S keeps the rest and goes to the target. -/
def spinDivide (now : BitVec 48) (i : Iss) (g : Group) (x : Split) (lanes : W32) (pc rpc : BitVec 24) :
    Option Group :=
  match freeSid g, spinSet g i.sp.sid { x with mask := x.mask ||| lanes } rpc with
  | some n, some (g, p, joined) =>
    let old : Split := { x with mask := x.mask &&& ~~~lanes, rot := true, level := p, rpc := rpc,
                                top := if joined then x.top else p, origin := 3 }
    let new : Split := { st := .ready, level := p, top := p, rpc := rpc, mask := lanes, pc := pc,
                         origin := 3, readyAt := now }
    let g := goPc now ((g.putSplit i.sp.sid old).putSplit n new) i.sp.sid (braTarget i.iw)
    some (arrive now 40 g n)
  | _, _ => none

/-- A spin-marked back-edge under R186: none where the group has no place for W. -/
def spinBranch (now : BitVec 48) (i : Iss) (g : Group) (takenL : W32) : Option Group :=
  let x := i.x
  let rot (g : Group) : Group := g.modSplit i.sp.sid (fun x => { x with rot := true })
  if takenL != x.mask then spinDivide now i g x (x.mask &&& ~~~takenL) (nextPc i) (braRj i.iw)
  else match tfind g.stack x.top with
    | some e =>
      if e.isSplit then some (rot (goPc now g i.sp.sid (braTarget i.iw)))
      else
        let g' := { g with stack := tdel g.stack x.top }
        let y : Split := { x with top := e.below }
        if e.alt != e.rpc then spinDivide now i g' y e.mask e.alt e.rpc
        else spinDivide now i g' y e.mask e.rpc (braRj i.iw)
    | none => some (rot (goPc now g i.sp.sid (braTarget i.iw)))


/-- Replace a group and let its sets settle. -/
def putGroup (s : State) (i : Iss) (g : Group) : State := settleGroup s i.key (fun _ => g)

/-- `bra`. -/
def braOp (s : State) (i : Iss) : State :=
  let now := coreNow s i.sp.core
  let t := i.lanes
  let spin := wCtlBit i.iw 0
  let rot (g : Group) : Group := if spin then g.modSplit i.sp.sid (fun x => { x with rot := true }) else g
  if depends s i (if wGen i.iw then [.p (wGp i.iw)] else []) then stall s i .result
  else if !wL i.iw || !pcInside i.w (braTarget i.iw).toNat ||
      (spin && (decide (i.x.pc.toNat < (braTarget i.iw).toNat) || !pcInside i.w (braRj i.iw).toNat)) ||
      (t != 0 && t != i.x.mask && !rpcOk i.w (braRpc i.iw)) then badEncoding s i
  else if t = 0 then advance s i
  else if spin && !i.x.pin && i.x.cb.isNone && !i.g.nosplit then
    if 4 ≤ i.g.splits.length then stall s i .splitPlace
    else match spinBranch now i i.g t with
      | some g => putGroup s i g
      | none => badEncoding s i
  else if t = i.x.mask then putGroup s i (rot (goPc now i.g i.sp.sid (braTarget i.iw)))
  else if mayDivide i.g i.x then
    match divide now i.g i.sp.sid t (braTarget i.iw) (nextPc i) (braRpc i.iw) 1 .ready .none with
    | some (g, n) => putGroup s i (arrive now 40 (arrive now 40 (rot g) i.sp.sid) n)
    | none => badEncoding s i
  else match serialBranch now i i.g t with
    | some g => putGroup s i (rot g)
    | none => badEncoding s i

/-! ## Exits and barriers (Table 13-3) -/

/-- E falls by exits at a workgroup's barrier (Table 13-3). -/
def wgBarFall (s : State) (id : Nat) (w : Wg) : State := barFall s 0 id [(id, w)]

/-- E falls by exits at a cluster's barrier (Table 13-3). -/
def clBarFall (s : State) (w : Wg) : State := barFall s 1 (rank0 s w) (clusterOf s w)

/-- The exits leave only threads that have arrived for a hub barrier: the workgroup's arrival goes
out (R267). -/
def hubFall (s : State) (id : Nat) : State :=
  match tfind s.wgs id with
  | none => s
  | some w =>
    let e := threadsLeft [(id, w)]
    if 0 < w.hubN && 0 < e && e ≤ w.hubN then
      hubArrive (modWg s id (fun w => { w with hubN := 0 })) w.hubAt w.hubCtrs else s

/-- The exits leave only threads that have executed `commit`: writing begins (R214). -/
def commitFall (s : State) (id : Nat) : State :=
  modWg s id fun w =>
    if 0 < w.commits && !w.committed && 0 < threadsLeft [(id, w)] && threadsLeft [(id, w)] ≤ w.commits then
      { w with writing := true } else w

/-! ## The end of threads (R192, R204) -/

/-- A workgroup whose threads have all ended: its groups are gone, and with its whole cluster ended
its local store and counters go too; a KERNEL node counts it (R143, R192, R258). -/
def wgEnd (s : State) (id : Nat) : State :=
  match tfind s.wgs id with
  | none => s
  | some w =>
    let s := modWg s id (fun w => { w with st := .ended })
    let l := clusterOf s w
    let s := if w.ras.isSome then rasEnd s id w else modNode s w.inst w.node (fun r => { r with ended := r.ended + 1 })
    let s := (tkeys s.groups (fun _ g => g.wg == id)).foldl (fun s k =>
      { s with fly := { s.fly with ras := tdel s.fly.ras k } }) s
    let f := s.fly
    let s := unstallAll s Why.place
    let s := { s with groups := s.groups.filter (fun e => e.2.wg != id), fly := { f with
      loads := f.loads.filter (·.2.wg != id), watches := f.watches.filter (·.wg != id)
      mmas := f.mmas.map (fun e => (e.1, e.2.filter (·.wg != id)))
      traces := f.traces.filter (·.2.wg != id) } }
    if l.all (·.2.st == .ended) then
      let ids := l.map (·.1)
      { s with
        wgs := s.wgs.filter (fun e => !ids.contains e.1)
        fly := { s.fly with copies := s.fly.copies.filter (fun e => !ids.contains e.2.wg) } }
    else s

/-- What a split does when all its active lanes have ended: it runs on with the lanes its own top
SERIAL entry holds, or leaves its set (R180; log 26). -/
def lanesGone (now : BitVec 48) (g : Group) (sid : Nat) : Group :=
  match tfind g.splits sid with
  | none => g
  | some x =>
    match tfind g.stack x.top with
    | some e =>
      if e.isSplit then { g with splits := tdel g.splits sid }
      else
        let g := { g with stack := tdel g.stack x.top }
        arrive now 40 (g.putSplit sid { x with mask := e.mask, pc := e.alt, top := e.below }) sid
    | none => { g with splits := tdel g.splits sid }

/-- Threads of a split end: its group, its workgroup and their barriers follow (R180, R204, R266). -/
def exitLanes (s : State) (i : Iss) (ended : W32) : State :=
  let now := coreNow s i.sp.core
  let n := popcount ended 32
  let s := settleGroup s i.key fun g =>
    let g := { g with exited := g.exited ||| ended }
    let g := g.modSplit i.sp.sid (fun x => { x with mask := x.mask &&& ~~~ended, pin := false })
    if i.x.mask &&& ~~~ended = 0 then lanesGone now g i.sp.sid else goPc now g i.sp.sid (nextPc i)
  let s := modWg s i.id (fun w => { w with exited := w.exited + n })
  match tfind s.wgs i.id with
  | none => s
  | some w =>
    let s := commitFall (hubFall (clBarFall (wgBarFall s i.id w) w) i.id) i.id
    if w.groups * 32 ≤ w.exited then wgEnd s i.id else s

/-- `exit` (R204). -/
def exitOp (s : State) (i : Iss) : State :=
  if depends s i (if wGen i.iw then [.p (wGp i.iw)] else []) then stall s i .result
  else if i.lanes = 0 then advance s i
  else exitLanes s i i.lanes

/-! ## `split`, `rejoin`, `yield`, `pin`, `unpin` (R182, R185, R205) -/

/-- `split`: the active lanes whose predicate p(a) is 1 become a new split (R179, R205). -/
def splitOp (s : State) (i : Iss) : State :=
  let now := coreNow s i.sp.core
  let rj := braRpc i.iw
  if !wL i.iw || !pOk (wA i.iw) || !pcInside i.w rj.toNat then badEncoding s i
  else if depends s i [.p (wA i.iw)] then stall s i .result
  else
    let t := i.x.mask &&& readP i.g (wA i.iw)
    if t = 0 || t = i.x.mask || !mayDivide i.g i.x then advance s i
    else match divide now i.g i.sp.sid t (nextPc i) (nextPc i) rj 1 .ready .none with
      | some (g, n) => putGroup s i (arrive now 40 (arrive now 40 g i.sp.sid) n)
      | none => badEncoding s i

/-- Set a flag of the split and go on. -/
def flagOp (f : Split → Split) (s : State) (i : Iss) : State :=
  advance (modSplit s i.key i.sp.sid f) i

/-! ## Promotion (R185) -/

/-- The group's longest-waiting READY split. -/
def longestReady (g : Group) : Option (Nat × Split) :=
  (g.splits.filter (fun e => e.2.st == .ready)).foldl (fun best e =>
    match best with
    | none => some e
    | some b => if e.2.readyAt < b.2.readyAt then some e else best) none

/-- The no-progress counter of a group: issue cycles since its longest-waiting READY split entered
READY or the counter was reset, at most 1,024 (Table 9-3, R185). -/
def nprog (s : State) (core : Nat) (g : Group) : Nat :=
  match longestReady g with
  | none => 0
  | some (_, x) =>
    let now := coreNow s core
    min 1024 (min (now - x.readyAt).toNat (now - g.nprogAt).toNat)

/-- SPLIT_PROMOTE: at 1,024 the longest-waiting split is promoted and the counter reset (R185). -/
def promoteOp (s : State) (core cpart place : Nat) : State :=
  let key := groupKey core cpart place
  match tfind s.groups key with
  | none => s
  | some g =>
    match longestReady g with
    | none => s
    | some (sid, _) =>
      if nprog s core g = 1024 then
        let p := (key % 64) * 4 + sid
        let s := modGroup s key (fun g => { g with nprogAt := coreNow s core })
        modCore s core fun c => { c with
          promoted := if c.promoted.contains p then c.promoted else c.promoted ++ [p] }
      else s

/-! ## Meanings -/

/-- `bra` (R204). -/
def execBra (sp : SplitRef) (w : IWord) (s : State) : Host.Outcome State Fault Refusal :=
  onLive s (onIssue s sp w (· == 0x200) .b braOp)

/-- `exit` (R204). -/
def execExit (sp : SplitRef) (w : IWord) (s : State) : Host.Outcome State Fault Refusal :=
  onLive s (onIssue s sp w (· == 0x201) .none exitOp)

/-- `split` (R205). -/
def execSplit (sp : SplitRef) (w : IWord) (s : State) : Host.Outcome State Fault Refusal :=
  onLive s (onIssue s sp w (· == 0x202) .b splitOp)

/-- `rejoin` (R205): executed by a split that does not wait there, it does nothing. -/
def execRejoin (sp : SplitRef) (w : IWord) (s : State) : Host.Outcome State Fault Refusal :=
  onLive s (onIssue s sp w (· == 0x203) .none advance)

/-- `yield` (R185). -/
def execYield (sp : SplitRef) (w : IWord) (s : State) : Host.Outcome State Fault Refusal :=
  onLive s (onIssue s sp w (· == 0x204) .none (flagOp (fun x => { x with rot := true })))

/-- `pin` (R182). -/
def execPin (sp : SplitRef) (w : IWord) (s : State) : Host.Outcome State Fault Refusal :=
  onLive s (onIssue s sp w (· == 0x205) .none (flagOp (fun x => { x with pin := true })))

/-- `unpin` (R182). -/
def execUnpin (sp : SplitRef) (w : IWord) (s : State) : Host.Outcome State Fault Refusal :=
  onLive s (onIssue s sp w (· == 0x206) .none (flagOp (fun x => { x with pin := false })))

/-- SPLIT_PROMOTE (R185). -/
def execSplitPromote (core cpart place : Nat) (s : State) : Host.Outcome State Fault Refusal :=
  onLive s (promoteOp s core cpart place)

end Sys2Proof.Machine
end

