-- ==== Sys2Proof/Machine/Alu.lean ====
section
/-! DEFINITION. Alu.lean: ordinary arithmetic (10 Table 10-9, 12 R244 to R247) and `cvt` (R248 to
R250). -/

namespace Sys2Proof.Machine

/-! ## One lane -/

/-- Class an operation belongs to (Table 10-7). A move may stand in any of classes 0 to 5 (log 10). -/
def aluClass : AluOp → Option Nat
  | .fadd => some 1 | .fsub => some 1 | .fmul => some 1 | .ffma => some 1 | .fmin => some 1
  | .fmax => some 1 | .fabs => some 1 | .fneg => some 1
  | .iadd => some 0 | .isub => some 0 | .iand => some 0 | .ior => some 0 | .ixor => some 0
  | .shl => some 0 | .shrLogical => some 0 | .shrArith => some 0 | .imin => some 0 | .imax => some 0
  | .imul => some 0 | .imad => some 0 | .addc64 => some 0
  | .rcp => some 3 | .rsqrt => some 3 | .sqrt => some 3 | .exp2 => some 3 | .log2 => some 3
  | .sin => some 3 | .cos => some 3
  | .cmp _ _ => some 4 | .select => some 4 | .pand => some 4 | .por => some 4 | .pxor => some 4
  | .pnot => some 4
  | .shuffle => some 5 | .broadcast => some 5 | .voteAny => some 5 | .voteAll => some 5
  | .ballot => some 5
  | .movImm _ => none

/-- Apply an operation to each element of a register: one for FP32 and INT32, two for 16-bit pairs. -/
def perElem (c : Nat) (f : Nat → Nat → Nat → Nat) (a b d : W32) : W32 :=
  if fmtWidth c = 16 then
    BitVec.ofNat 32 (f (elemAt c 0 a.toNat) (elemAt c 0 b.toNat) (elemAt c 0 d.toNat) +
      2 ^ 16 * f (elemAt c 1 a.toNat) (elemAt c 1 b.toNat) (elemAt c 1 d.toNat))
  else BitVec.ofNat 32 (f a.toNat b.toNat d.toNat)

/-- A floating-point element operation (R244, R245). -/
def fpElem (op : AluOp) (c rm x y z : Nat) : Nat :=
  let a := fpDecode c x
  let b := fpDecode c y
  let sgn := 2 ^ (fmtWidth c - 1)
  match op with
  | .fadd => fpEncode c rm (fpAdd rm a b)
  | .fsub => fpEncode c rm (fpAdd rm a (fpNeg b))
  | .fmul => fpEncode c rm (fpMul a b)
  | .ffma => fpEncode c rm (fpAdd rm (fpMul a b) (fpDecode c z))
  | .fmin => fpMinMax c false x y
  | .fmax => fpMinMax c true x y
  | .fabs => x % sgn
  | .fneg => if sgn ≤ x then x - sgn else x + sgn
  | _ => 0

/-- An integer element operation of w bits (R247). -/
def intElem (op : AluOp) (w : Nat) (uns : Bool) (x y : Nat) : Nat :=
  let lt := if uns then decide (x < y) else decide (signed w x < signed w y)
  let k := y % w
  match op with
  | .iadd => (x + y) % 2 ^ w
  | .isub => (x + 2 ^ w - y) % 2 ^ w
  | .iand => x &&& y
  | .ior => x ||| y
  | .ixor => x ^^^ y
  | .shl => (x * 2 ^ k) % 2 ^ w
  | .shrLogical => x / 2 ^ k
  | .shrArith => wrap w (signed w x / (2 ^ k : Nat))
  | .imin => if lt then x else y
  | .imax => if lt then y else x
  | _ => 0

/-- Low or high half of a 32 × 32 product (R247). -/
def mulHalf (w : IWord) (x y : Nat) : Nat :=
  let p := if wCtlBit w 1 then wrap 64 (x * y : Nat) else wrap 64 (signed 32 x * signed 32 y)
  if wCtlBit w 0 then p / 2 ^ 32 else p % 2 ^ 32

/-- A special function (R246). -/
def specialOp (op : AluOp) (x : W32) : Nat :=
  match op with
  | .rcp => rcp32 x
  | .rsqrt => rsqrt32 x
  | .sqrt => sqrt32 x.toNat
  | .exp2 => exp2_32 x
  | .log2 => log2_32 x
  | .sin => trig32 false x
  | _ => trig32 true x

/-- What an element-wise operation computes in a lane; `mad` with ctl bit 0 adds c to the high half
(log 10). -/
def laneOp (op : AluOp) (w : IWord) (a b c : W32) : W32 :=
  match aluClass op with
  | some 1 => perElem (wFmt w) (fpElem op (wFmt w) (wRm w)) a b c
  | some 3 => BitVec.ofNat 32 (specialOp op a)
  | _ =>
    match op with
    | .imul => BitVec.ofNat 32 (mulHalf w a.toNat b.toNat)
    | .imad => BitVec.ofNat 32 (mulHalf w a.toNat b.toNat + c.toNat)
    | _ => perElem (wFmt w) (fun x y _ => intElem op (if wFmt w = 8 then 16 else 32) (wCtlBit w 1) x y) a b c

/-- Source operands an element-wise operation reads. -/
def aluSrcs (op : AluOp) : List Nat :=
  match op with
  | .ffma => [0, 1, 2] | .imad => [0, 1, 2]
  | .fabs => [0] | .fneg => [0]
  | .rcp => [0] | .rsqrt => [0] | .sqrt => [0] | .exp2 => [0] | .log2 => [0] | .sin => [0] | .cos => [0]
  | _ => [0, 1]

/-- With an immediate, the last source is the immediate, in the place of c (Table 10-4; log 10). -/
def aluFields (op : AluOp) (w : IWord) : List Nat :=
  let l := aluSrcs op
  if wL w then l.dropLast ++ [2] else l

/-- Format and rounding codes an operation permits: INT32 takes code 0 (log 10), a scale is no operand, and
SAT stands only with the formats of Table 10-6 (R200, R206, R241, R244, R246). -/
def aluFmtOk (op : AluOp) (w : IWord) : Bool :=
  match aluClass op with
  | some 1 => decide (wFmt w ≤ 2 ∧ wRm w ≤ 4)
  | some 3 => wFmt w == 0 && wRm w == 0
  | some 0 =>
    match op with
    | .imul => wFmt w == 0 | .imad => wFmt w == 0 | .addc64 => wFmt w == 0
    | _ => wFmt w == 0 || wFmt w == 8
  | _ => decide (wFmt w ≤ 0xA ∧ (wRm w ≤ 4 ∨ 3 ≤ wFmt w))

/-- The high half of form I's word 1 is 0 but in a 64-bit move (Table 10-4). -/
def immOk (w : IWord) : Bool := !wL w || w1Bits w 127 96 == 0

/-! ## Issue -/

/-- Lane whose operands a scalar-writing form takes where an operand is a vector register: the lowest
executing lane (log 10). -/
def scalarLane (lanes : W32) : Nat := (laneList lanes).headD 0

/-- Whether the destination register exists (R196, R198). -/
def dstOk (i : Iss) (d : Dst) : Bool :=
  match d with
  | .vector => vOk i (wD i.iw) | .scalar => sOk (wD i.iw) | .predicate => pOk (wD i.iw)

/-- Registers the destination names. -/
def dstRegs (i : Iss) (d : Dst) (lanes : List Nat) : List RegId :=
  match d with
  | .vector => vRegs (wD i.iw) lanes | .scalar => [.s (wD i.iw)] | .predicate => [.p (wD i.iw)]

/-- Registers a guard reads. -/
def guardRegs (i : Iss) : List RegId := if wGen i.iw then [.p (wGp i.iw)] else []

/-- Issue an instruction whose encoding is checked by `ok`, that touches `rs` and acts on the group. -/
def aluIssue (s : State) (i : Iss) (ok : Bool) (rs : List RegId) (f : Group → Group) : State :=
  if !ok then badEncoding s i
  else if depends s i (guardRegs i ++ rs) then stall s i .result
  else if i.lanes = 0 then advance s i
  else advance (modGroup s i.key f) i

/-- Element-wise operations. -/
def elemIssue (op : AluOp) (d : Dst) (s : State) (i : Iss) : State :=
  let ks := aluFields op i.iw
  let ls := laneList i.lanes
  let k (n : Nat) : Nat := ks.getD n 2
  let val (l : Nat) : W32 := laneOp op i.iw (srcVal i (k 0) l) (srcVal i (k 1) l) (srcVal i (k 2) l)
  aluIssue s i (aluFmtOk op i.iw && ks.all (srcOk i) && d != .predicate && dstOk i d && immOk i.iw)
    (ks.flatMap (srcRegs i · ls) ++ dstRegs i d ls)
    fun g => match d with
      | .scalar => writeReg g (.s (wD i.iw)) (val (scalarLane i.lanes))
      | _ => writeRegs g (ls.map fun l => (.v (wD i.iw) l, val l))

/-- 64-bit add on register pairs; an immediate is zero-extended (Table 10-9, R196; log 10). -/
def pairIssue (d : Dst) (s : State) (i : Iss) : State :=
  let ls := laneList i.lanes
  let a := wA i.iw
  let b := wB i.iw
  let dd := wD i.iw
  let pair (k n : Nat) : List RegId :=
    if wKind i.iw k then [.s n, .s (n + 1)] else vRegs n ls ++ vRegs (n + 1) ls
  let rd (k n l : Nat) : Nat :=
    if wKind i.iw k then readS64 i.g n else (readV i.g n l).toNat + 2 ^ 32 * (readV i.g (n + 1) l).toNat
  let okr (k n : Nat) : Bool := n % 2 == 0 && (if wKind i.iw k then sOk n else vRunOk i n 2)
  let sum (l : Nat) : Nat := rd 0 a l + (if wL i.iw then (wImm i.iw).toNat else rd 1 b l)
  aluIssue s i (aluFmtOk .addc64 i.iw && immOk i.iw && okr 0 a && (wL i.iw || okr 1 b) && d != .predicate &&
      dd % 2 == 0 && (if d = .scalar then sOk dd else vRunOk i dd 2))
    (pair 0 a ++ (if wL i.iw then [] else pair 1 b) ++ (if d = .scalar then [.s dd, .s (dd + 1)] else vRegs dd ls ++ vRegs (dd + 1) ls))
    fun g => match d with
      | .scalar =>
        let v := sum (scalarLane i.lanes)
        writeRegs g [(.s dd, BitVec.ofNat 32 v), (.s (dd + 1), BitVec.ofNat 32 (v / 2 ^ 32))]
      | _ => writeRegs g (ls.flatMap fun l =>
          [(.v dd l, BitVec.ofNat 32 (sum l)), (.v (dd + 1) l, BitVec.ofNat 32 (sum l / 2 ^ 32))])

/-- Compare into a predicate, in the executing lanes (R245, R247). -/
def cmpIssue (r : Rel) (int32 : Bool) (d : Dst) (s : State) (i : Iss) : State :=
  let ls := laneList i.lanes
  let kb := if wL i.iw then 2 else 1
  aluIssue s i (aluFmtOk (.cmp r int32) i.iw && d == .predicate && pOk (wD i.iw) && srcOk i 0 && srcOk i kb &&
      immOk i.iw)
    (srcRegs i 0 ls ++ srcRegs i kb ls ++ [.p (wD i.iw)])
    fun g => predWrite g (wD i.iw) i.lanes
      (laneMask i.lanes fun l => laneCompare r int32 i.iw (srcVal i 0 l) (srcVal i kb l))

/-- A predicate operand: register n, or with `imm` the immediate, one bit a lane (Table 10-4; log 10). -/
def predSrc (i : Iss) (imm : Bool) (n : Nat) : W32 := if imm then wImm i.iw else readP i.g n

/-- Select: predicate c chooses a or b in each lane. -/
def selectIssue (d : Dst) (s : State) (i : Iss) : State :=
  let ls := laneList i.lanes
  let p := predSrc i (wL i.iw) (wC i.iw)
  let val (l : Nat) : W32 := if p.getLsbD l then srcVal i 0 l else srcVal i 1 l
  aluIssue s i (aluFmtOk .select i.iw && immOk i.iw && (wL i.iw || pOk (wC i.iw)) && srcOk i 0 && srcOk i 1 &&
      d != .predicate && dstOk i d)
    ((if wL i.iw then [] else [.p (wC i.iw)]) ++ srcRegs i 0 ls ++ srcRegs i 1 ls ++ dstRegs i d ls)
    fun g => match d with
      | .scalar => writeReg g (.s (wD i.iw)) (val (scalarLane i.lanes))
      | _ => writeRegs g (ls.map fun l => (.v (wD i.iw) l, val l))

/-- Predicate logic on the executing lanes. -/
def predIssue (op : AluOp) (d : Dst) (s : State) (i : Iss) : State :=
  let one := op == .pnot
  let a := predSrc i (wL i.iw && one) (wA i.iw)
  let b := predSrc i (wL i.iw) (wB i.iw)
  let v := match op with
    | .pand => a &&& b | .por => a ||| b | .pxor => a ^^^ b | _ => ~~~a
  let ra := !(wL i.iw && one)
  let rb := !wL i.iw && !one
  aluIssue s i (aluFmtOk op i.iw && immOk i.iw && d == .predicate && pOk (wD i.iw) && (!ra || pOk (wA i.iw)) &&
      (!rb || pOk (wB i.iw)))
    (.p (wD i.iw) :: (if ra then [.p (wA i.iw)] else []) ++ (if rb then [.p (wB i.iw)] else []))
    fun g => predWrite g (wD i.iw) i.lanes v

/-- Shuffle: lane l receives a of lane b(l) mod 32. Broadcast: every lane receives a of lane b. -/
def shuffleIssue (op : AluOp) (d : Dst) (s : State) (i : Iss) : State :=
  let ls := laneList i.lanes
  let kb := if wL i.iw then 2 else 1
  let src (l : Nat) : Nat :=
    if op = .broadcast then (srcVal i kb (scalarLane i.lanes)).toNat % 32 else (srcVal i kb l).toNat % 32
  let val (l : Nat) : W32 := readV i.g (wA i.iw) (src l)
  aluIssue s i (aluFmtOk op i.iw && immOk i.iw && !wKind i.iw 0 && vOk i (wA i.iw) && srcOk i kb &&
      d != .predicate && dstOk i d)
    (vRegs (wA i.iw) (List.range 32) ++ srcRegs i kb ls ++ dstRegs i d ls)
    fun g => match d with
      | .scalar => writeReg g (.s (wD i.iw)) (val (scalarLane i.lanes))
      | _ => writeRegs g (ls.map fun l => (.v (wD i.iw) l, val l))

/-- Votes over predicate a: any, all, or the ballot mask, of the executing lanes. -/
def voteIssue (op : AluOp) (d : Dst) (s : State) (i : Iss) : State :=
  let m := predSrc i (wL i.iw) (wA i.iw) &&& i.lanes
  let v : W32 := match op with
    | .voteAny => if m = 0 then 0 else 1
    | .voteAll => if m = i.lanes then 1 else 0
    | _ => m
  let all : W32 := match op with
    | .voteAny => if m = 0 then 0 else 0xFFFFFFFF
    | .voteAll => if m = i.lanes then 0xFFFFFFFF else 0
    | _ => m
  aluIssue s i (aluFmtOk op i.iw && immOk i.iw && (wL i.iw || pOk (wA i.iw)) && dstOk i d)
    ((if wL i.iw then [] else [.p (wA i.iw)]) ++ dstRegs i d (laneList i.lanes))
    fun g => match d with
      | .scalar => writeReg g (.s (wD i.iw)) v
      | .predicate => predWrite g (wD i.iw) i.lanes all
      | .vector => writeRegs g ((laneList i.lanes).map fun l => (.v (wD i.iw) l, v))

/-- Move of an immediate; the 64-bit form writes an even-aligned pair (Table 10-4, R196). -/
def movIssue (wide : Bool) (d : Dst) (s : State) (i : Iss) : State :=
  let ls := laneList i.lanes
  let dd := wD i.iw
  let hi : W32 := BitVec.ofNat 32 (w1Bits i.iw 127 96)
  let one (n : Nat) (v : W32) : List (RegId × W32) :=
    match d with
    | .scalar => [(.s n, v)]
    | _ => ls.map fun l => (.v n l, v)
  let ws := one dd (wImm i.iw) ++ (if wide then one (dd + 1) hi else [])
  let okd := match d with
    | .scalar => sOk dd
    | .vector => if wide then vRunOk i dd 2 else vOk i dd
    | .predicate => false
  aluIssue s i (aluFmtOk (.movImm wide) i.iw && wL i.iw && okd && (if wide then dd % 2 == 0 else hi == 0))
    (ws.map (·.1))
    fun g => writeRegs g ws

/-- An ordinary instruction. -/
def aluOpIssue (op : AluOp) (d : Dst) (s : State) (i : Iss) : State :=
  match op with
  | .addc64 => pairIssue d s i
  | .cmp r int32 => cmpIssue r int32 d s i
  | .select => selectIssue d s i
  | .pand => predIssue .pand d s i
  | .por => predIssue .por d s i
  | .pxor => predIssue .pxor d s i
  | .pnot => predIssue .pnot d s i
  | .shuffle => shuffleIssue .shuffle d s i
  | .broadcast => shuffleIssue .broadcast d s i
  | .voteAny => voteIssue .voteAny d s i
  | .voteAll => voteIssue .voteAll d s i
  | .ballot => voteIssue .ballot d s i
  | .movImm wide => movIssue wide d s i
  | _ => elemIssue op d s i

/-- Whether a word's class is the operation's. -/
def aluClassIs (op : AluOp) (opc : Nat) : Bool :=
  match aluClass op with
  | some c => opc / 64 == c
  | none => decide (opc / 64 < 6) && opc != 0x080

/-! ## `cvt` (R248 to R250) -/

def cvtSfmt (w : IWord) : Nat := w1Bits w 67 64
def cvtPs (w : IWord) : Nat := w1Bits w 70 68
def cvtPt (w : IWord) : Nat := w1Bits w 74 72
def cvtMx (w : IWord) : Bool := w1Bits w 75 75 == 1
def cvtGiven (w : IWord) : Bool := w1Bits w 76 76 == 1

/-- Encoding of a `cvt` (R248 to R250). -/
def cvtOk (i : Iss) : Bool :=
  let w := i.iw
  let sf := cvtSfmt w
  let df := wFmt w
  wL w && w1Bits w 127 96 == 0 && w1Bits w 95 77 == 0 && w1Bits w 71 71 == 0 &&
  decide (sf ≤ 0xA ∧ df ≤ 0xA ∧ cvtPs w < fmtCount sf ∧ cvtPt w < fmtCount df) &&
  wC w == 0 && wCtl w == 0 && vOk i (wA w) && vOk i (wD w) &&
  (if cvtMx w then
     bits w.w0 24 22 == 2 && sOk (wB w) && decide (sf ≤ 2 ∧ 3 ≤ df) && df != 8 && decide (wRm w ≤ 5)
   else bits w.w0 24 22 == 0 && wB w == 0 && !cvtGiven w && cvtRmOk sf df (wRm w))

/-- `cvt`. -/
def cvtIssue (s : State) (i : Iss) : State :=
  let w := i.iw
  let ls := laneList i.lanes
  let sf := cvtSfmt w
  let df := wFmt w
  let src (l : Nat) : Nat := elemAt sf (cvtPs w) (readV i.g (wA w) l).toNat
  let put (g : Group) (l v : Nat) : RegId × W32 :=
    (.v (wD w) l, BitVec.ofNat 32 (elemPut df (cvtPt w) (readV g (wD w) l).toNat v))
  let sc := if cvtGiven w then bits (readS i.g (wB w)) 7 0
            else blockScale df (ls.map (fun l => fpDecode sf (src l)))
  aluIssue s i (cvtOk i)
    (vRegs (wA w) ls ++ vRegs (wD w) ls ++ (if cvtMx w then [.s (wB w)] else []))
    fun g =>
      if cvtMx w then
        let g := if cvtGiven w then g else writeReg g (.s (wB w)) (BitVec.ofNat 32 sc)
        writeRegs g (ls.map fun l => put g l (scaledElem df (wRm w) sc (fpDecode sf (src l))))
      else writeRegs g (ls.map fun l => put g l (convert sf df (wRm w) (src l)))

/-! ## Meanings -/

/-- Ordinary arithmetic (Table 10-9). -/
def execAlu (sp : SplitRef) (op : AluOp) (dst : Dst) (w : IWord) (s : State) :
    Host.Outcome State Fault Refusal :=
  onLive s (onIssue s sp w (aluClassIs op) .i (aluOpIssue op dst) (dst != .scalar))

/-- `cvt` (R248). -/
def execCvt (sp : SplitRef) (w : IWord) (s : State) : Host.Outcome State Fault Refusal :=
  onLive s (onIssue s sp w (· == 0x080) .i cvtIssue (!cvtMx w))

end Sys2Proof.Machine
end

