-- ==== Sys2Proof/Machine/Lsu.lean ====
section
/-! DEFINITION. Lsu.lean: loads, stores and atomics (10 R203, R205, R214, Table 10-7; 09 R188, R191; 14
R283 to R289). -/

namespace Sys2Proof.Machine

/-! ## Addresses (R188, R205) -/

/-- Signed byte offset of form L. -/
def lsOffset (w : IWord) : Int := if wL w then signed 32 (w1Bits w 95 64) else 0

/-- ctl bits of class 6 and 7; release and acquire order nothing on a local-store access (R205, R286). -/
def mSplit (w : IWord) : Bool := wCtlBit w 0
def mLocal (w : IWord) : Bool := wCtlBit w 1
def mRelease (w : IWord) : Bool := wCtlBit w 2 && !mLocal w
def mAcquire (w : IWord) : Bool := wCtlBit w 3 && !mLocal w

/-- Access width in bytes (R200). -/
def mBytes (w : IWord) : Nat := 2 ^ wFmt w

/-- 32-bit registers an access of n bytes takes. -/
def mRegs (n : Nat) : Nat := if n ≤ 4 then 1 else n / 4

/-- Address of a lane: local, or scalar pair + v(b) + offset. -/
def laneAddr (i : Iss) (l : Nat) : Int :=
  let v : Int := ((srcVal i 1 l).toNat : Nat)
  if mLocal i.iw then (wrap 20 (v + lsOffset i.iw) : Nat)
  else (readS64 i.g (wA i.iw) : Nat) + v + lsOffset i.iw

/-- The workgroup whose local store a rank of the cluster names. -/
def rankWg (s : State) (w : Wg) (r : Nat) : Option Wg :=
  if r = w.rank then some w
  else ((clusterOf s w).find? (fun e => e.2.rank == r)).map (·.2)

/-- Core and byte of a local address, when the whole access lies in the named allocation (R188,
R191). -/
def localAt (s : State) (w : Wg) (a n : Nat) : Option (Nat × Nat) :=
  let off := a % 262144
  match rankWg s w (a / 262144 % 4) with
  | none => none
  | some t => if off + n ≤ t.lsKib * 1024 then some (t.core, t.lsBase * 1024 + off) else none

/-- Bytes of a core's local store. -/
def lsRead (s : State) (core a n : Nat) : List Byte := mreads (coreOf s core).ls a n

/-- Write a core's local store. -/
def lsWrite (s : State) (core a : Nat) (d : List Byte) : State :=
  modCore s core (fun c => { c with ls := mwrites c.ls a d })

/-- Ranges resolved on behalf of a workgroup's launch (R106). -/
def wgRanges (s : State) (w : Wg) : List Range := ((tfind s.insts w.inst).map (·.ranges)).getD []

/-- Whether a device-memory access of a workgroup is permitted (R106). -/
def wgMay (s : State) (w : Wg) (a : Int) (n : Nat) (r : Right) : Bool :=
  decide (0 ≤ a) && permits s w.ctx (wgRanges s w) a.toNat n r

/-- Number of a refused address as the record holds it. -/
def addrNat (a : Int) : Nat := wrap 40 a

/-! ## Values and registers -/

/-- Register words of loaded bytes, lowest first; narrow values are zero-extended. -/
def bytesWords (d : List Byte) : List W32 :=
  let n := mRegs d.length
  (List.range n).map fun k => BitVec.ofNat 32 (leNat ((d.drop (4 * k)).take 4))

/-- Register operand of a store in a lane: operand c and the registers after it (log 11). -/
def dataBytes (i : Iss) (l n : Nat) : List Byte :=
  let word (k : Nat) : W32 :=
    if wKind i.iw 2 then readS i.g (wC i.iw + k) else readV i.g (wC i.iw + k) l
  natBytes (leNat ((List.range (mRegs n)).flatMap fun k => natBytes (word k).toNat 4)) n

/-- Registers the data operand reads. -/
def dataRegs (i : Iss) (ls : List Nat) (n : Nat) : List RegId :=
  (List.range n).flatMap fun k =>
    if wKind i.iw 2 then [.s (wC i.iw + k)] else vRegs (wC i.iw + k) ls

/-- Registers the address reads. -/
def addrRegs (i : Iss) (ls : List Nat) : List RegId :=
  (if mLocal i.iw then [] else [.s (wA i.iw), .s (wA i.iw + 1)]) ++ srcRegs i 1 ls

/-- Encoding of the address operands and the width. -/
def addrOk (i : Iss) : Bool :=
  decide (wFmt i.iw ≤ 4) && (mLocal i.iw || sPairOk (wA i.iw)) && srcOk i 1

/-- Whether n registers from r exist and are aligned: an even register where they form a pair. -/
def runOk (i : Iss) (scalar : Bool) (r n : Nat) : Bool :=
  (n == 1 || r % 2 == 0) && (if scalar then decide (r + n ≤ 64) else vRunOk i r n)

/-- A trace by lanes of the split has not completed: it is ordered as a load (R330). A callback round's own
trace ends only after the round. -/
def tracePending (s : State) (i : Iss) : Bool :=
  s.fly.traces.any fun e => e.2.grp == i.key && e.2.lanes &&& i.x.mask != 0 &&
    !(i.x.cb == some e.1 && e.2.round.isSome)

/-- An earlier access by lanes of the split has not completed: it keeps a release, or a fence, from taking
effect (R209, R286). -/
def accessPending (s : State) (i : Iss) : Bool :=
  s.fly.loads.any (fun e => e.2.grp == i.key && !e.2.move && e.2.lanes &&& i.x.mask != 0) || tracePending s i

/-- A split waits for earlier accesses: where a callback trace is one of them, its rounds run in the meantime
(R327). -/
def orderWait (s : State) (i : Iss) : State :=
  stall s i (if (cbTrace s i.x).isSome then .callback else .orderWait)

/-- An acquire by lanes of the split has not completed (R286). -/
def acquirePending (s : State) (i : Iss) : Bool :=
  s.fly.loads.any (fun e => e.2.grp == i.key && e.2.acquire && e.2.lanes &&& i.x.mask != 0)

/-- An access must wait for an acquire before it or, as a release, for every access before it (R286). -/
def mustWait (s : State) (i : Iss) : Bool :=
  acquirePending s i || (mRelease i.iw && accessPending s i)

/-! ## Miss places (R172, R281, R285) -/

/-- Lines of the lanes' accesses that the core's L1 does not hold. -/
def missLines (s : State) (i : Iss) (ls : List Nat) (n : Nat) : List Nat :=
  if mLocal i.iw then []
  else (ls.flatMap (fun l => linesOf (laneAddr i l).toNat n)).dedup.filter
    (fun l => (l1Hit (coreOf s i.sp.core) l).isNone)

/-- L1 misses of a core in flight. -/
def missUse (s : State) (core : Nat) : Nat :=
  ((s.fly.loads.filter (fun e => e.2.grp / 64 == core)).map (·.2.lines.length)).foldl (· + ·) 0

/-- Transactions a DRAM channel holds. -/
def chanUse (s : State) (ch : Nat) : Nat :=
  ((s.fly.loads.flatMap (·.2.lines)).filter (fun l => (chanOf s l).map (·.1) == some ch)).length

/-- The core's 256 miss places, and the 128 transactions of each channel, take these misses too. -/
def missRoom (s : State) (core : Nat) (ls : List Nat) : Bool :=
  decide (missUse s core + ls.length ≤ 256) &&
  ls.all fun l =>
    match chanOf s l with
    | none => true
    | some (ch, _) =>
      decide (chanUse s ch + (ls.filter (fun k => (chanOf s k).map (·.1) == some ch)).length ≤ 128)

/-! ## Stride prefetch (R289, Table 14-5) -/

/-- Prefetch distance in strides. -/
def pfDist (c : PfCtl) : Int := if c.dist = 0 || 16 < c.dist.toNat then 16 else (c.dist.toNat : Int)

/-- The stream after a match at an address: three equal non-zero deltas confirm it. -/
def strideNext (e : Stride) (a : Nat) : Stride :=
  let d : Int := (a : Int) - (e.last : Int)
  if d = e.delta && d != 0 && decide (d.natAbs ≤ 65536) then { e with last := a, hits := e.hits + 1 }
  else { e with last := a, delta := d, hits := if d = 0 || 65536 < d.natAbs then 0 else 1, pf := a / 128 * 128 }

/-- Lines a confirmed stream prefetches: up to two beyond the last one, toward a + dist·δ. -/
def strideLines (e : Stride) (dist : Int) : List Nat :=
  let goal := ((e.last : Int) + dist * e.delta).toNat / 128 * 128
  if e.delta < 0 then
    let p := min e.pf (e.last / 128 * 128)
    ([p - 128, p - 256]).filter (fun l => decide (goal ≤ l ∧ l < p))
  else
    let p := max e.pf (e.last / 128 * 128)
    ([p + 128, p + 256]).filter (fun l => decide (l ≤ goal))

/-- Fill the L1, and for DRAM of policy 0 to 2 the L2, with a prefetched line, under the policy of the segment
that holds it (R283); an uncached line is left alone. -/
def prefetchLine (s : State) (core ctx l : Nat) (l1Only : Bool) : State :=
  let pol := polAt s ctx l
  if (dmFault s l 128).isSome then s else l1Fill s core (if l1Only && pol != 4 then 3 else pol) l 128

/-- A load meets the stride table of its partition (R289). -/
def strideMatch (s : State) (i : Iss) (a : Nat) : State :=
  let p := i.w.part
  let pol := polAt s i.w.ctx a
  let ctl := tget s.mem.pfCtl p {}
  if pol = 4 || !ctl.en then s
  else
    let place := i.key % 64
    let l := tget s.mem.strides p []
    let mine (e : Stride) : Bool := e.core == i.sp.core && e.place == place && e.pc == i.x.pc
    let e : Stride := match l.find? mine with
      | none => { core := i.sp.core, place := place, pc := i.x.pc, last := a, delta := 0, hits := 0,
                  pf := a / 128 * 128 }
      | some e => strideNext e a
    let ls := if 3 < e.hits then strideLines e (pfDist ctl) else []
    let room := decide (missUse s i.sp.core + 64 ≤ 256)
    let ok := if room then ls.takeWhile (fun x => permits s i.w.ctx (wgRanges s i.w) x 128 .rd) else []
    let e := { e with pf := ok.getLast?.getD e.pf }
    let s := { s with mem := { s.mem with
      strides := tput s.mem.strides p ((e :: l.filter (fun y => !mine y)).take 16) } }
    ok.foldl (fun s x => prefetchLine s i.sp.core i.w.ctx x ctl.l1Only) s

/-! ## Loads (R205, R287) -/

/-- What a load that misses its core's L1 meets: the lines it fills are read whole, an uncached one only where
the load reads it (Table 14-3). -/
def loadFault (s : State) (core pol a n : Nat) : Option MemFault :=
  (linesOf a n).findSome? fun l =>
    if (l1Hit (coreOf s core) l).isSome then none
    else if pol = 4 then
      let lo := max a l
      dmFault s lo (min (a + n) (l + 128) - lo)
    else dmFault s l 128

/-- Whether every line of a lane's access is in the core's L1. -/
def lineHits (s : State) (core a n : Nat) : Bool := (linesOf a n).all (fun l => (l1Hit (coreOf s core) l).isSome)

/-- Bytes of a lane's access. -/
def laneBytes (s : State) (i : Iss) (l n : Nat) : List Byte :=
  let a := (laneAddr i l).toNat
  if mLocal i.iw then
    match localAt s i.w a n with
    | some (c, b) => lsRead s c b n
    | none => []
  else coreRead s i.sp.core a n

/-- First lane whose access is refused. -/
def refusedLane (s : State) (i : Iss) (ls : List Nat) (n : Nat) (rs : List Right) : Option Nat :=
  ls.find? fun l =>
    if mLocal i.iw then (localAt s i.w (laneAddr i l).toNat n).isNone
    else rs.any (fun r => !wgMay s i.w (laneAddr i l) n r)

/-- Register writes of a load in some lanes. -/
def loadWrites (s : State) (i : Iss) (d : Dst) (ls : List Nat) (n : Nat) : List (RegId × W32) :=
  match d with
  | .scalar => ((bytesWords (laneBytes s i (ls.headD 0) n)).zipIdx).map fun (v, k) => (.s (wD i.iw + k), v)
  | _ => ls.flatMap fun l =>
      ((bytesWords (laneBytes s i l n)).zipIdx).map fun (v, k) => (.v (wD i.iw + k) l, v)

/-- Put a load or atomic under way, with the L1 misses it waits for. -/
def flyLoad (s : State) (i : Iss) (sid : Nat) (ws : List (RegId × W32)) (lines : List Nat) : State × Nat :=
  let id := s.fly.nextId
  let o : OutLoad := { grp := i.key, sid := sid, writes := ws, acquire := mAcquire i.iw, wg := i.id, move := false
                       lines := lines, lanes := i.x.mask }
  ({ s with fly := { s.fly with loads := tput s.fly.loads id o, nextId := id + 1 } }, id)

/-- Caches after a load of some lanes. -/
def loadTouch (s : State) (i : Iss) (ls : List Nat) (n : Nat) : State :=
  if mLocal i.iw then s
  else
    let s := ls.foldl (fun s l =>
      let a := (laneAddr i l).toNat
      l1Fill s i.sp.core (polAt s i.w.ctx a) a n) s
    match ls with
    | [] => s
    | l :: _ => strideMatch s i (laneAddr i l).toNat

/-- A splittable load divides: at least 8 lanes hit and at least one misses (R179). -/
def loadSplits (s : State) (i : Iss) (ls : List Nat) (n : Nat) : Option (List Nat × List Nat) :=
  let hit (l : Nat) : Bool := lineHits s i.sp.core (laneAddr i l).toNat n
  let hs := ls.filter hit
  let ms := ls.filter (fun l => !hit l)
  if mSplit i.iw && !mLocal i.iw && mayDivide i.g i.x && decide (8 ≤ hs.length) && !ms.isEmpty then
    some (hs, ms) else none

/-- Lanes as a mask. -/
def maskOf (ls : List Nat) : W32 := BitVec.ofNat 32 ((ls.map (2 ^ ·)).foldl (· + ·) 0)

/-- Perform a load whose accesses are permitted. -/
def loadGo (s : State) (i : Iss) (d : Dst) (ls : List Nat) (n : Nat) : State :=
  match loadSplits s i ls n with
  | none =>
    let ws := loadWrites s i d ls n
    let miss := missLines s i ls n
    advance (flyLoad (loadTouch s i ls n) i i.sp.sid ws miss).1 i
  | some (hs, ms) =>
    let wh := loadWrites s i d hs n
    let wm := loadWrites s i d ms n
    let miss := missLines s i ms n
    let (s, _) := flyLoad (loadTouch s i ls n) i i.sp.sid wh []
    let (s, id) := flyLoad s i i.sp.sid wm miss
    let rj : BitVec 24 := BitVec.ofNat 24 (w1Bits i.iw 119 96)
    match divide (coreNow s i.sp.core) i.g i.sp.sid (maskOf ms) (nextPc i) (nextPc i) rj 2 .stalled
        (.loadWait id) with
    | some (g, _) => putGroup s i (arrive (coreNow s i.sp.core) 40 g i.sp.sid)
    | none => badEncoding s i

/-- `load`. -/
def loadOp (d : Dst) (s : State) (i : Iss) : State :=
  let w := i.iw
  let n := mBytes w
  let ls := match d with | .scalar => (laneList i.lanes).take 1 | _ => laneList i.lanes
  if !addrOk i || d == .predicate || !runOk i (d == .scalar) (wD w) (mRegs n) ||
      (mSplit w && (!wL w || !pcInside i.w (w1Bits w 119 96))) || (!mSplit w && wL w && w1Bits w 119 96 != 0)
  then badEncoding s i
  else
    let dst := match d with
      | .scalar => (List.range (mRegs n)).map (fun k => RegId.s (wD w + k))
      | _ => (List.range (mRegs n)).flatMap (fun k => vRegs (wD w + k) ls)
    if depends s i (guardRegs i ++ addrRegs i ls ++ dst) then stall s i .result
    else if mustWait s i then orderWait s i
    else if ls.isEmpty then advance s i
    else match refusedLane s i ls n [.rd] with
      | some l => refusedAccess s i (addrNat (laneAddr i l))
      | none =>
        if mLocal w then loadGo s i d ls n
        else match ls.findSome? (fun l =>
            loadFault s i.sp.core (polAt s i.w.ctx (laneAddr i l).toNat) (laneAddr i l).toNat n) with
          | some m => hwFault s i.w.ctx m (some i.w.inst)
          | none => if missRoom s i.sp.core (missLines s i ls n) then loadGo s i d ls n else stall s i .missPlace

/-- Splits of a group that stand at the rpc of their top entry act on it (R176, R180). -/
def arriveAll (now : BitVec 48) (g : Group) : Group :=
  (g.splits.map (·.1)).foldl (fun g sid => arrive now 40 g sid) g

/-- LOAD_COMPLETE: the registers are written, an acquire invalidates the L1 data, and splits that
waited try again; a load-split that stands at its rejoin PC waits there (R180, R203, R287). -/
def loadDoneOp (s : State) (id : Nat) : State :=
  match tfind s.fly.loads id with
  | none => s
  | some o =>
    if o.amov.isSome then s
    else
    let s := { s with fly := { s.fly with loads := tdel s.fly.loads id } }
    let s := modGroup s o.grp (fun g => writeRegs g o.writes)
    let s := if o.acquire then l1Flash s (o.grp / 64) else s
    let s := unstall s o.grp (fun y => y == .result || y == .orderWait || y == .loadWait id)
    let s := settleGroup s o.grp (arriveAll (coreNow s (o.grp / 64)))
    if o.lines.isEmpty then s else unstallAll s (· == .missPlace)

/-! ## Stores (R214, R283, R286) -/

/-- Staged pieces of one lane of a store: one for each aligned 16-byte unit (R214). -/
def stagedOf (a : Nat) (d : List Byte) : List Staged :=
  (List.range' (a / 16) ((a + d.length - 1) / 16 - a / 16 + 1)).map fun u =>
    let at_ (k : Nat) : Option Byte := if a ≤ u * 16 + k then d[u * 16 + k - a]? else none
    { addr := u * 16
      mask := BitVec.ofNat 16 (((List.range 16).map (fun k => if (at_ k).isSome then 2 ^ k else 0)).foldl (· + ·) 0)
      data := (List.range 16).map (fun k => (at_ k).getD 0) }

/-- A piece joins the entry of its unit, its bytes over those of earlier lanes, or is a new entry. -/
def stagedJoin (l : List Staged) (e : Staged) : List Staged :=
  if l.any (·.addr == e.addr) then
    l.map fun x =>
      if x.addr == e.addr then
        { x with mask := x.mask ||| e.mask
                 data := (x.data.zip e.data).zipIdx.map fun (p, k) => if e.mask.getLsbD k then p.2 else p.1 }
      else x
  else l ++ [e]

/-- Staged entries of one store: one for each aligned 16-byte unit it writes (R214). -/
def stagedStore (i : Iss) (ls : List Nat) (n : Nat) : List Staged :=
  (ls.flatMap (fun l => stagedOf (laneAddr i l).toNat (dataBytes i l n))).foldl stagedJoin []

/-- Entries a staged-write area holds. -/
def stageRoom (w : Wg) : Nat := w.stageKib * 32

/-- The 32 bytes of an entry, as `stagedEnt` reads them (log 37). -/
def Staged.bytes (e : Staged) : List Byte :=
  natBytes e.addr 5 ++ natBytes e.mask.toNat 2 ++ List.replicate 9 0 ++ e.data

/-- Entries are appended to a workgroup's staged-write area, in its local store. -/
def stagedAppend (s : State) (id : Nat) (w : Wg) (es : List Staged) : State :=
  modWg (lsWrite s w.core (w.stageAt + 32 * w.staged) (es.flatMap Staged.bytes)) id
    (fun w => { w with staged := w.staged + es.length })

/-- A direct store of one lane. -/
def storeLane (s : State) (i : Iss) (l n : Nat) : State :=
  let a := (laneAddr i l).toNat
  let d := dataBytes i l n
  if mLocal i.iw then
    match localAt s i.w a n with
    | some (c, b) => lsWrite s c b d
    | none => s
  else l1Store (dmWrite s (polAt s i.w.ctx a) a d) i.sp.core a (d.map some)

/-- Perform a store whose accesses are permitted. -/
def storeGo (s : State) (i : Iss) (ls : List Nat) (n : Nat) : State :=
  if 0 < i.w.stageKib && !mLocal i.iw then
    let es := stagedStore i ls n
    match es[stageRoom i.w - i.w.staged]? with
    | some e => refusedAccess s i e.addr
    | none => advance (stagedAppend s i.id i.w es) i
  else
    match (if mLocal i.iw then none else ls.findSome? (fun l => macDrops s (laneAddr i l).toNat n)) with
    | some m => hwFault s i.w.ctx m (some i.w.inst)
    | none =>
      let s := ls.foldl (fun s l => storeLane s i l n) s
      advance (if mAcquire i.iw then l1Flash s i.sp.core else s) i

/-- `store`. An acquire store has completed when its bytes are written, and then invalidates the core's L1
data (R286, R287). -/
def storeOp (s : State) (i : Iss) : State :=
  let n := mBytes i.iw
  let ls := laneList i.outLanes
  if !addrOk i || (wL i.iw && w1Bits i.iw 119 96 != 0) ||
      !runOk i (wKind i.iw 2) (wC i.iw) (mRegs n) then badEncoding s i
  else if depends s i (guardRegs i ++ addrRegs i ls ++ dataRegs i ls (mRegs n)) then stall s i .result
  else if mustWait s i then orderWait s i
  else match refusedLane s i ls n [.wr] with
    | some l => refusedAccess s i (addrNat (laneAddr i l))
    | none => storeGo s i ls n

/-! ## Atomics (Table 10-7, R286) -/

/-- The new value of an atomic; min and max are signed (log 11). -/
def atomNew (op : AtomOp) (w old a b : Nat) : Nat :=
  match op with
  | .add => (old + a) % 2 ^ w
  | .min => if signed w a < signed w old then a else old
  | .max => if signed w old < signed w a then a else old
  | .and => old &&& a
  | .or => old ||| a
  | .xor => old ^^^ a
  | .exchange => a
  | .cas => if old = a then b else old

/-- Remove the lines of a range from a core's L1 (R286). -/
def l1Drop (s : State) (core a n : Nat) : State :=
  modCore s core fun c => (linesOf a n).foldl (fun c l =>
    if (l1Hit c l).isSome then { c with l1 := tdel c.l1 (l / 128 % 512) } else c) c

/-- One lane of an atomic: the old value and the state with the new one. -/
def atomLane (op : AtomOp) (n : Nat) (s : State) (i : Iss) (l : Nat) : Nat × State :=
  let a := (laneAddr i l).toNat
  let opn := leNat (dataBytes i l n)
  let opm := leNat ((dataBytes i l (2 * n)).drop n)
  if mLocal i.iw then
    match localAt s i.w a n with
    | some (c, b) =>
      let old := leNat (lsRead s c b n)
      (old, lsWrite s c b (natBytes (atomNew op (8 * n) old opn opm) n))
    | none => (0, s)
  else
    let old := dmNum s a n
    let s := dmWrite s (polAt s i.w.ctx a) a (natBytes (atomNew op (8 * n) old opn opm) n)
    (old, l1Drop s i.sp.core a n)

/-- Perform the lanes of an atomic in increasing order, collecting the old values. -/
def atomRun (op : AtomOp) (n : Nat) (i : Iss) : List Nat → State → List (RegId × W32) →
    State × List (RegId × W32)
  | [], s, acc => (s, acc)
  | l :: r, s, acc =>
    let (old, s) := atomLane op n s i l
    atomRun op n i r s (acc ++ ((bytesWords (natBytes old n)).zipIdx).map fun (v, k) => (.v (wD i.iw + k) l, v))

/-- An atomic. Before `commit` a commit-form kernel may make none on device memory (R156). -/
def atomOp (op : AtomOp) (wide : Bool) (s : State) (i : Iss) : State :=
  let n := if wide then 8 else 4
  let regs := if op = .cas then 2 * mRegs n else mRegs n
  let ls := laneList i.outLanes
  if !addrOk { i with iw := { i.iw with w0 := i.iw.w0 &&& 0xFFFFFFFF0FFFFFFF } } ||
      (wL i.iw && w1Bits i.iw 119 96 != 0) || !runOk i (wKind i.iw 2) (wC i.iw) regs ||
      !runOk i false (wD i.iw) (mRegs n) || (i.w.commitForm && !mLocal i.iw) then badEncoding s i
  else if depends s i (guardRegs i ++ addrRegs i ls ++ dataRegs i ls regs ++
      (List.range (mRegs n)).flatMap (fun k => vRegs (wD i.iw + k) ls)) then stall s i .result
  else if mustWait s i then orderWait s i
  else if ls.isEmpty then advance s i
  else match refusedLane s i ls n [.rd, .wr] with
    | some l => refusedAccess s i (addrNat (laneAddr i l))
    | none =>
      match (if mLocal i.iw then none else ls.findSome? (fun l => dmFault s (laneAddr i l).toNat n)) with
      | some m => hwFault s i.w.ctx m (some i.w.inst)
      | none =>
        let (s, ws) := atomRun op n i ls s []
        advance (flyLoad s i i.sp.sid ws []).1 i

/-! ## Meanings -/

/-- `load` (R205). -/
def execLoad (sp : SplitRef) (dst : Dst) (w : IWord) (s : State) : Host.Outcome State Fault Refusal :=
  onLive s (onIssue s sp w (· == 0x180) .l (loadOp dst) (dst != .scalar))

/-- LOAD_COMPLETE (R203). -/
def execLoadComplete (id : Nat) (s : State) : Host.Outcome State Fault Refusal := onLive s (loadDoneOp s id)

/-- `store` (R205, R214). -/
def execStore (sp : SplitRef) (w : IWord) (s : State) : Host.Outcome State Fault Refusal :=
  onLive s (onIssue s sp w (· == 0x181) .l storeOp)

/-- Atomics (Table 10-7). -/
def execAtomic (sp : SplitRef) (op : AtomOp) (wide : Bool) (w : IWord) (s : State) :
    Host.Outcome State Fault Refusal := onLive s (onIssue s sp w (fun o => o / 64 == 7) .l (atomOp op wide))

end Sys2Proof.Machine
end

