-- ==== Sys2Proof/Machine/Matrix.lean ====
section
/-! DEFINITION. Matrix.lean: the matrix engines (11, 10 R206, R207, 12 R238 to R254). -/

namespace Sys2Proof.Machine

/-! ## The matrix descriptor (Table 10-8) -/

def mFa (d : BitVec 64) : Nat := bits d 3 0
def mFb (d : BitVec 64) : Nat := bits d 7 4
def mInt (d : BitVec 64) : Bool := bit d 8
/-- Passes: 0 means 1. -/
def mPasses (d : BitVec 64) : Nat := max 1 (bits d 10 9)
def mZero (d : BitVec 64) : Bool := bit d 11
def mAt (d : BitVec 64) : Bool := bit d 12
def mBt (d : BitVec 64) : Bool := bit d 13
def mAmx (d : BitVec 64) : Bool := bit d 14
def mBmx (d : BitVec 64) : Bool := bit d 15
def mAsrc (d : BitVec 64) : Nat := bits d 17 16
def mBsrc (d : BitVec 64) : Nat := bits d 19 18

/-- k of the panel shape, from the wider format (R206, R216). -/
def panelK (d : BitVec 64) : Nat :=
  let w := max (fmtWidth (mFa d)) (fmtWidth (mFb d))
  if 16 ≤ w then 16 else if w = 8 then 32 else 64

/-- Vector registers of a register operand (Table 11-1). -/
def panelRegs (f k : Nat) : Nat := ceilDiv (k / 2 * fmtWidth f) 32

/-- Scale blocks a panel touches along k (R229). -/
def scaleBlocks (k : Nat) : Nat := ceilDiv k 32

/-! ## Gathering operands (R217, R219, R222) -/

/-- Element i of the k/2 elements packed in one lane. -/
def laneElem (g : Group) (reg f lane i : Nat) : Nat :=
  let w := fmtWidth f
  let b := w * i
  let lo := (readV g (reg + b / 32) lane).toNat
  let hi := (readV g (reg + b / 32 + 1) lane).toNat
  (lo + hi * 2 ^ 32) / 2 ^ (b % 32) % 2 ^ w

/-- A panel held in vector registers: row r (a row of A, a column of B), element i, at r·k + i. -/
def regPanel (g : Group) (reg f k : Nat) : List Nat :=
  (List.range (16 * k)).map fun j =>
    let r := j / k
    let i := j % k
    laneElem g reg f (if i < k / 2 then r else r + 16) (i % (k / 2))

/-- Rows of a memory operand and bytes in each (R219). -/
def memRows (f k : Nat) (t : Bool) : Nat × Nat :=
  if t then (k, 16 * fmtWidth f / 8) else (16, k * fmtWidth f / 8)

/-- A panel from its rows in memory. -/
def memPanel (rows : List (List Byte)) (f k : Nat) (t : Bool) : List Nat :=
  let w := fmtWidth f
  let nums := rows.map leNat
  (List.range (16 * k)).map fun j =>
    let r := j / k
    let i := j % k
    if t then nums.getD i 0 / 2 ^ (w * r) % 2 ^ w else nums.getD r 0 / 2 ^ (w * i) % 2 ^ w

/-- Address of a memory operand from its scalar block (Table 11-2). -/
def memAddr (g : Group) (src x : Nat) : Nat :=
  if src = 1 then (readS g x).toNat % 2 ^ 20 else (readS g x).toNat + (readS g (x + 1)).toNat % 256 * 2 ^ 32

/-- Row stride of a memory operand. -/
def memStride (g : Group) (x : Nat) : Nat := (readS g (x + 2)).toNat % 2 ^ 18

/-- Kept-copy offset and counter (Table 11-2). -/
def keptOff (g : Group) (x : Nat) : Nat := (readS g (x + 3)).toNat % 2 ^ 18
def keptCtr (g : Group) (x : Nat) : Nat := (readS g (x + 3)).toNat / 2 ^ 24 % 64

/-- Bytes of a row of a memory operand, or none where the row is refused (R188, R191, R220). -/
def memRow (s : State) (i : Iss) (src a n : Nat) : Option (List Byte) :=
  if src = 1 then (localAt s i.w a n).map (fun e => lsRead s e.1 e.2 n)
  else if isSs a && wgMay s i.w (a : Nat) n .rd then some (dmRead s a n) else none

/-- Address of row q: a local address keeps its rank, so a row past the 18-bit offset is none. -/
def rowAddr (src a stride q : Nat) : Option Nat :=
  if src = 1 && decide (262144 ≤ a % 262144 + q * stride) then none else some (a + q * stride)

/-- The rows of a memory operand: an address that is refused, or the bytes. -/
def memGather (s : State) (i : Iss) (src a stride n : Nat) : List Nat → Except Nat (List (List Byte))
  | [] => .ok []
  | q :: r =>
    match (rowAddr src a stride q).bind (fun b => memRow s i src b n), memGather s i src a stride n r with
    | some d, .ok l => .ok (d :: l)
    | some _, .error e => .error e
    | none, _ => .error (a + q * stride)

/-- One operand: registers or memory. `x` is its a or b field. -/
def gather (s : State) (i : Iss) (src x f k : Nat) (t : Bool) : Except Nat (List Nat) :=
  if src = 0 then .ok (regPanel i.g x f k)
  else
    let (rows, n) := memRows f k t
    match memGather s i src (memAddr i.g src x) (memStride i.g x) n (List.range rows) with
    | .ok l => .ok (memPanel l f k t)
    | .error e => .error e

/-- Scales of an operand: byte q of lane r of the register, at r·blocks + q (R229). -/
def gatherScales (g : Group) (reg k : Nat) : List Nat :=
  let nb := scaleBlocks k
  (List.range (16 * nb)).map fun j => (readV g reg (j / nb)).toNat / 2 ^ (8 * (j % nb)) % 256

/-! ## Arithmetic (R225 to R231, R238 to R240) -/

/-- RTO to the 26 bits of W36 (R238, R241). -/
def w36 : Fp → Fp
  | .nan => .nan
  | .inf n => .inf n
  | .fin n m e =>
    let b := flog2 m + 1
    if b ≤ 26 then .fin n m e else .fin n (roundShift 4 n m (b - 26)) (e + (b - 26 : Nat))

/-- Multiply by a power of two, exactly. -/
def fpScale (x : Fp) (k : Int) : Fp :=
  match x with
  | .fin n m e => .fin n m (e + k)
  | y => y

/-- hi of an FP32 operand: BF16 by RNE, the largest finite value where that would overflow (R231). -/
def hiPart (x : Nat) : Fp :=
  match fpDecode 0 x with
  | .fin n m e =>
    match fpRound 2 0 n m e with
    | some y => fpDecode 2 y
    | none => fpDecode 2 (fpLargest 2 n)
  | y => y

/-- lo of an FP32 operand: x − hi, 0 for an infinity or NaN. -/
def loPart (x : Nat) : Fp :=
  match fpDecode 0 x with
  | .fin n m e => fpAdd 0 (.fin n m e) (fpNeg (hiPart x))
  | _ => .fin false 0 0

/-- hi or lo of an operand element: a format other than FP32 is all hi (R231). -/
def partOf (f x : Nat) (hi : Bool) : Fp :=
  if f = 0 then (if hi then hiPart x else loPart x)
  else if hi then fpDecode f x else .fin false 0 0

/-- The byte of an INT16 element taken in a cycle: the high byte signed × 2^8, the low unsigned
(R239). -/
def bytePart (x : Nat) (hi : Bool) : Fp :=
  if hi then
    let v := signed 8 (x / 256)
    .fin (decide (v < 0)) v.natAbs 8
  else .fin false (x % 256) 0

/-- The scale of an element: NaN for 0xFF, and the implicit 2^−6 of MXINT8 (R230). -/
def scaled (f : Nat) (mx : Bool) (sc : Nat) (x : Fp) : Fp :=
  if !mx then x
  else if sc = 255 then .nan
  else fpScale x ((sc : Int) - 127 - (if f = 9 then 6 else 0))

/-- The decoded part of an element that a pass uses; of an INT16 element, the part of the byte the
cycle takes, its lo being 0 as of every format but FP32 (R231). -/
def elemPart (f : Nat) (mx : Bool) (sc x : Nat) (hi byte : Bool) : Fp :=
  if f = 8 && hi then bytePart x byte else scaled f mx sc (partOf f x hi)

/-- Pairs of halves each pass multiplies: ll, then cross, then hh (Table 11-5). -/
def passPairs (p : Nat) : List (List (Bool × Bool)) :=
  match p with
  | 1 => [[(true, true)]]
  | 2 => [[(true, false), (false, true)], [(true, true)]]
  | _ => [[(false, false)], [(true, false), (false, true)], [(true, true)]]

/-- Products of one cycle summed in a fixed pairwise tree, each addition rounded by RTO (R225). -/
def treeSum : Nat → List Fp → List Fp
  | 0, l => l
  | f + 1, l =>
    match l with
    | [] => []
    | [x] => [x]
    | l =>
      let rec pairs : List Fp → List Fp
        | x :: y :: r => w36 (fpAdd 4 x y) :: pairs r
        | r => r
      treeSum f (pairs l)

/-- Whether a pair holds an INT16 operand, whose bytes take successive cycles (R225). -/
def int16Pair (d : BitVec 64) : Bool := mFa d == 8 || mFb d == 8

/-- The bytes of A and of B (true: the high one) that successive cycles take from the same elements;
one cycle where neither operand is INT16 (R225, R239). -/
def byteSteps (d : BitVec 64) : List (Bool × Bool) :=
  let one (f : Nat) : List Bool := if f = 8 then [true, false] else [true]
  (one (mFa d)).flatMap fun x => (one (mFb d)).map fun y => (x, y)

/-- Elements along k that one cycle takes (Table 11-7): with INT16, as many as its bytes take cycles,
so that every element still has one cycle of the instruction's 16 (DEDUCED, log 27). -/
def perCycle (d : BitVec 64) : Nat :=
  if int16Pair d then (byteSteps d).length
  else if panelK d = 64 then 8 else if panelK d = 32 then 4 else 2

/-- Elements along k in groups of one cycle. -/
def cycleElems (d : BitVec 64) : List (List Nat) :=
  let n := perCycle d
  (List.range (panelK d / n)).map fun c => (List.range n).map (fun j => c * n + j)

/-- Element i of row r of a gathered panel. -/
def panelAt (l : List Nat) (k r i : Nat) : Nat := l.getD (r * k + i) 0

/-- The products of one element in a pass and a cycle that takes the bytes `by_` (R225, R231). -/
def elemProducts (m : Mma) (prs : List (Bool × Bool)) (by_ : Bool × Bool) (r n i : Nat) : List Fp :=
  let k := panelK m.desc
  let nb := scaleBlocks k
  let x := panelAt m.a k r i
  let y := panelAt m.b k n i
  let sx := m.sa.getD (r * nb + i / 32) 0
  let sy := m.sb.getD (n * nb + i / 32) 0
  prs.map fun pr =>
    w36 (fpMul (elemPart (mFa m.desc) (mAmx m.desc) sx x pr.1 by_.1)
      (elemPart (mFb m.desc) (mBmx m.desc) sy y pr.2 by_.2))

/-- The cycles of an instruction: the products each sums (R225, R231). -/
def cycles (m : Mma) (r n : Nat) : List (List Fp) :=
  (passPairs (mPasses m.desc)).flatMap fun prs =>
    (cycleElems m.desc).flatMap fun es =>
      (byteSteps m.desc).map fun by_ => es.flatMap (elemProducts m prs by_ r n)

/-- The term a cycle adds to the running sum: the root of its tree; with INT16, whose pairs have one
term per element and cycle and so no tree to round (Table 12-9), the exact sum of its byte products
(DEDUCED, log 27). -/
def cycleTerm (d : BitVec 64) (ps : List Fp) : Fp :=
  if int16Pair d then ps.foldl (fpAdd 4) (.fin false 0 0) else (treeSum 8 ps).headD (.fin false 0 0)

/-- The W36 running sum after the last cycle. -/
def runSum (m : Mma) (r n : Nat) : Fp :=
  (cycles m r n).foldl (fun acc ps => w36 (fpAdd 4 acc (cycleTerm m.desc ps))) (.fin false 0 0)

/-- FP32 result of an element: S + C rounded once (R225, R253). -/
def fpResult (m : Mma) (old : W32) (r n : Nat) : W32 :=
  let t := runSum m r n
  let v := if mZero m.desc then t else fpAdd m.rm t (fpDecode 0 old.toNat)
  BitVec.ofNat 32 (fpEncode 0 m.rm v)

/-- INT32 result of an element (R226). -/
def intResult (m : Mma) (old : W32) (r n : Nat) : W32 :=
  let k := panelK m.desc
  let t : Int := ((List.range k).map fun i =>
    signed (fmtWidth (mFa m.desc)) (panelAt m.a k r i) *
      signed (fmtWidth (mFb m.desc)) (panelAt m.b k n i)).foldl (· + ·) 0
  let v := if mZero m.desc then t else t + old.toInt
  BitVec.ofNat 32 (intToInt 32 m.rm v)

/-- New value of an accumulator element. -/
def mmaElem (m : Mma) (old : W32) (r n : Nat) : W32 :=
  if mInt m.desc then intResult m old r n else fpResult m old r n

/-- The accumulator after an instruction: live rows only (R227). -/
def mmaWrite (m : Mma) (g : Group) : Group :=
  let rows := (List.range 16).filter (fun r => m.live.getLsbD r)
  writeRegs g (rows.flatMap fun r => (List.range 16).map fun n =>
    (.acc m.acc r n, mmaElem m (readAcc g m.acc r n) r n))

/-! ## `mma` (R206, R233) -/

/-- Encoding of one operand. -/
def operandOk (i : Iss) (src x f k : Nat) (t mx : Bool) : Bool :=
  decide (f ≤ 10) && decide (src ≤ 2) && !(mx && decide (8 < fmtWidth f)) &&
  (if src = 0 then !t && vRunOk i x (panelRegs f k)
   else
     decide (x % 4 = 0 ∧ x < 64) && !(t && fmtWidth f % 8 != 0) &&
     memAddr i.g src x % 16 == 0 && memStride i.g x % 16 == 0)

/-- Encoding of a kept operand: a row length that is a multiple of 16 and a declared counter (R200,
R233). -/
def keptOk (i : Iss) (src x f k : Nat) (t : Bool) : Bool :=
  !(wCtlBit i.iw 0 && src == 2) || ((memRows f k t).2 % 16 == 0 && decide (keptCtr i.g x < i.w.lullCtrs))

/-- Encoding constraints of `mma` (R200, R206, R229, R233). -/
def mmaOk (i : Iss) : Bool :=
  let w := i.iw
  let d := w.w1
  let k := panelK d
  let mx := mAmx d || mBmx d
  wL w && wCtl w / 2 == 0 && wFmt w == 0 && bits w.w0 24 22 == 0 && aOk i (wD w) &&
  operandOk i (mAsrc d) (wA w) (mFa d) k (mAt d) (mAmx d) &&
  operandOk i (mBsrc d) (wB w) (mFb d) k (mBt d) (mBmx d) &&
  keptOk i (mAsrc d) (wA w) (mFa d) k (mAt d) && keptOk i (mBsrc d) (wB w) (mFb d) k (mBt d) &&
  (!wCtlBit w 0 || mAsrc d == 2 || mBsrc d == 2) &&
  (!mInt d || (fmtInt (mFa d) && fmtInt (mFb d) && !mx)) &&
  (mPasses d == 1 || mFa d == 0 || mFb d == 0) &&
  (!mx || vRunOk i (wC w) (if mAmx d && mBmx d then 2 else 1)) &&
  (if mInt d then wRm w == 0 || wRm w == 5 else decide (wRm w ≤ 4))

/-- Registers `mma` reads. -/
def mmaRegs (i : Iss) : List RegId :=
  let d := i.iw.w1
  let k := panelK d
  let lanes := List.range 32
  let one (src x f : Nat) : List RegId :=
    if src = 0 then (List.range (panelRegs f k)).flatMap (fun j => vRegs (x + j) lanes)
    else (List.range 4).map (fun j => .s (x + j))
  one (mAsrc d) (wA i.iw) (mFa d) ++ one (mBsrc d) (wB i.iw) (mFb d) ++
  (if mAmx d || mBmx d then vRegs (wC i.iw) lanes else []) ++
  (if mAmx d && mBmx d then vRegs (wC i.iw + 1) lanes else [])

/-- Live rows: lanes r and r + 16 both active (R227). -/
def liveRows (m : W32) : BitVec 16 := (m.setWidth 16) &&& ((m >>> 16).setWidth 16)

/-- Engine of a core partition. -/
def engineOf (sp : SplitRef) : Nat := sp.core * 4 + sp.cpart

/-- A kept copy: its rows inside the workgroup's local store, holding the bytes the engine is given,
or the offset that is not (R221). -/
def keptCopy (s : State) (i : Iss) (src x f k : Nat) (t : Bool) : Except Nat (List Copy) :=
  if wCtlBit i.iw 0 && src == 2 then
    let (rows, n) := memRows f k t
    let off := keptOff i.g x
    let st := memStride i.g x
    if off + (rows - 1) * st + n ≤ i.w.lsKib * 1024 then
      .ok [{ wg := i.id, core := i.sp.core, kept := true, src := memAddr i.g 2 x, srcStride := (st : Nat)
             dst := off, dstStride := st, rowBytes := n, rows := rows, ranks := [i.w.rank]
             ctr := keptCtr i.g x
             data := (List.range rows).map fun q => dmRead s (memAddr i.g 2 x + q * st) n }]
    else .error off
  else .ok []

/-- First memory error that fetching an operand meets (R404). -/
def operandFault (s : State) (i : Iss) (src x f k : Nat) (t : Bool) : Option MemFault :=
  if src = 2 then
    let (rows, n) := memRows f k t
    (List.range rows).findSome? (fun q => dmFault s (memAddr i.g 2 x + q * memStride i.g x) n)
  else none


/-- Put copies under way. -/
def flyCopies (s : State) (l : List Copy) : State :=
  l.foldl (fun s c => { s with fly := { s.fly with
    copies := tput s.fly.copies s.fly.nextId c, nextId := s.fly.nextId + 1 } }) s

/-- Issue an `mma` whose operands have been gathered. -/
def mmaIssue (s : State) (i : Iss) (a b : List Nat) (kept : List Copy) : State :=
  let d := i.iw.w1
  let k := panelK d
  let m : Mma := { id := s.fly.nextId, grp := i.key, acc := wD i.iw, live := liveRows i.x.mask, desc := d
                   rm := wRm i.iw, a := a, b := b
                   sa := if mAmx d then gatherScales i.g (wC i.iw) k else []
                   sb := if mBmx d then gatherScales i.g (wC i.iw + b2n (mAmx d)) k else []
                   wg := i.id }
  let e := engineOf i.sp
  let s := { s with fly := { s.fly with
    mmas := tput s.fly.mmas e (tget s.fly.mmas e [] ++ [m]), nextId := s.fly.nextId + 1 } }

  let s := flyCopies s kept
  let s := if i.x.mask = BitVec.allOnes 32 then s else modGroup s i.key (fun g => { g with part_ := true })
  advance s i

/-- `mma`: an invalid encoding outside a pinned region (R183). -/
def mmaOp (s : State) (i : Iss) : State :=
  let d := i.iw.w1
  let k := panelK d
  if !i.x.pin then badEncoding s i
  else if depends s i (mmaRegs i) then stall s i .result
  else if !mmaOk i then badEncoding s i
  else if 4 ≤ (tget s.fly.mmas (engineOf i.sp) []).length then stall s i .mmaPlace
  else
    match gather s i (mAsrc d) (wA i.iw) (mFa d) k (mAt d), gather s i (mBsrc d) (wB i.iw) (mFb d) k (mBt d),
        keptCopy s i (mAsrc d) (wA i.iw) (mFa d) k (mAt d), keptCopy s i (mBsrc d) (wB i.iw) (mFb d) k (mBt d) with
    | .ok a, .ok b, .ok ka, .ok kb =>
      match operandFault s i (mAsrc d) (wA i.iw) (mFa d) k (mAt d),
          operandFault s i (mBsrc d) (wB i.iw) (mFb d) k (mBt d) with
      | none, none => mmaIssue s i a b (ka ++ kb)
      | some m, _ => hwFault s i.w.ctx m (some i.w.inst)
      | none, some m => hwFault s i.w.ctx m (some i.w.inst)
    | .error a, _, _, _ => refusedAccess s i a
    | _, .error a, _, _ => refusedAccess s i a
    | _, _, .error a, _ => refusedAccess s i a
    | _, _, _, .error a => refusedAccess s i a

/-! ## Completion, `msync` and `amov` (R207, R218, R224, R228) -/

/-- Whether a group's matrix instructions numbered up to `upto`, to an accumulator that satisfies a
test, are still incomplete. -/
def mmaBusy (s : State) (key : Nat) (acc : Nat → Bool) (upto : Nat) : Bool :=
  (tget s.fly.mmas (key / 16) []).any (fun m => m.grp == key && acc m.acc && decide (m.id ≤ upto))

/-- Element bits an `amov` packs for a lane: the eight elements of its half row (R218). -/
def amovElems (g : Group) (acc lane : Nat) : List W32 :=
  (List.range 8).map fun j => readAcc g acc (lane % 16) (lane / 16 * 8 + j)

/-- Register writes of an `amov`. -/
def amovWrites (g : Group) (isInt : Bool) (r : AmovRef) : List (RegId × W32) :=
  (laneList r.lanes).flatMap fun l =>
    let es := amovElems g r.acc l
    let w := fmtWidth r.fmt
    let packed := if r.fmt = 0 then 0 else
      (es.zipIdx.map fun (v, j) =>
        (if isInt && fmtInt r.fmt then intToInt w r.rm v.toInt
         else if isInt then fpEncode r.fmt r.rm (.fin (decide (v.toInt < 0)) v.toInt.natAbs 0)
         else convert 0 r.fmt r.rm v.toNat) * 2 ^ (w * j)).foldl (· + ·) 0
    (List.range 8).map fun j =>
      (.v (r.d + j) l, if r.fmt = 0 then es.getD j 0 else BitVec.ofNat 32 (packed / 2 ^ (32 * j)))

/-- An `amov` whose earlier matrix instructions are complete takes its values. -/
def amovTake (s : State) (o : OutLoad) : OutLoad :=
  match o.amov, tfind s.groups o.grp with
  | some r, some g =>
    if mmaBusy s o.grp (· == r.acc) r.upto then o
    else { o with amov := none, writes := amovWrites g (g.accInt.getLsbD r.acc) r }
  | _, _ => o

/-- Splits of a group whose `msync` is satisfied go on, clearing partial as asked (R228). -/
def msyncSettle (s : State) (key : Nat) : State :=
  match tfind s.groups key with
  | none => s
  | some g =>
    let ready := g.splits.filterMap fun e =>
      match e.2.st, e.2.why with
      | .stalled, .msync mask upto clr =>
        if mmaBusy s key (fun a => mask.getLsbD a) upto then none else some (e.1, clr)
      | _, _ => none
    let now := coreNow s (key / 64)
    settleGroup s key fun g => ready.foldl (fun g e =>
      let g := if e.2 then { g with part_ := false } else g
      let pc := ((tfind g.splits e.1).map (·.pc)).getD 0
      goPc now (g.modSplit e.1 (fun x => x.toReady now)) e.1 (pc + 1)) g

/-- MMA_COMPLETE: the engine completes its oldest instruction (R224). -/
def mmaDoneOp (s : State) (core cpart : Nat) : State :=
  let e := core * 4 + cpart
  match tget s.fly.mmas e [] with
  | [] => s
  | m :: r =>
    let s := { s with fly := { s.fly with mmas := tput s.fly.mmas e r } }
    let s := modGroup s m.grp fun g =>
      let g := mmaWrite m g
      { g with accInt := if mInt m.desc then g.accInt ||| (1#8 <<< m.acc) else g.accInt &&& ~~~(1#8 <<< m.acc) }
    let s := { s with fly := { s.fly with loads := s.fly.loads.map (fun x => (x.1, amovTake s x.2)) } }
    let keys := (tkeys s.groups (fun k _ => decide (k / 16 = e)))
    keys.foldl (fun s k => msyncSettle (unstall s k (· == .mmaPlace)) k) s

/-- `msync` (R183, R207, R233). -/
def msyncOp (s : State) (i : Iss) : State :=
  let mask : Byte := BitVec.ofNat 8 (wD i.iw)
  let upto := s.fly.nextId
  if wCtl i.iw / 2 != 0 || !i.x.pin then badEncoding s i
  else if mmaBusy s i.key (fun a => mask.getLsbD a) upto then stall s i (.msync mask upto (wCtlBit i.iw 0))
  else
    let s := if wCtlBit i.iw 0 then modGroup s i.key (fun g => { g with part_ := false }) else s
    advance s i

/-- Whether an accumulator will hold INT32 once the instructions issued so far have completed. -/
def accIsInt (s : State) (i : Iss) (a : Nat) : Bool :=
  match ((tget s.fly.mmas (engineOf i.sp) []).filter (fun m => m.grp == i.key && m.acc == a)).getLast? with
  | some m => mInt m.desc
  | none => i.g.accInt.getLsbD a

/-- Rounding codes `amov` permits: those of a conversion from the accumulator's type (R218, Table
10-6). -/
def amovRmOk (isInt : Bool) (fmt rm : Nat) : Bool := cvtRmOk (if isInt then 8 else 0) fmt rm

/-- `amov` (R207, R218). -/
def amovOp (s : State) (i : Iss) : State :=
  let a := wA i.iw
  let f := wFmt i.iw
  let rm := wRm i.iw
  let ls := laneList i.x.mask
  let dst := (List.range 8).flatMap (fun j => vRegs (wD i.iw + j) ls)
  if !aOk i a || !vRunOk i (wD i.iw) 8 || 10 < f ||
      !amovRmOk (accIsInt s i a) f rm then badEncoding s i
  else if depends s i dst then stall s i .result
  else
    let o : OutLoad := { grp := i.key, sid := i.sp.sid, writes := dst.map (·, 0), acquire := false, wg := i.id
                         move := true
                         amov := some { upto := s.fly.nextId, acc := a, fmt := f, rm := rm
                                        lanes := i.x.mask, d := wD i.iw } }
    let s := { s with fly := { s.fly with
      loads := tput s.fly.loads s.fly.nextId (amovTake s o), nextId := s.fly.nextId + 1 } }
    advance s i

/-! ## Meanings -/

/-- `mma` (R206). -/
def execMma (sp : SplitRef) (w : IWord) (s : State) : Host.Outcome State Fault Refusal :=
  onLive s (onIssue s sp w (· == 0x240) .m mmaOp)

/-- MMA_COMPLETE (R224). -/
def execMmaComplete (core cpart : Nat) (s : State) : Host.Outcome State Fault Refusal :=
  onLive s (mmaDoneOp s core cpart)

/-- `msync` (R207). -/
def execMsync (sp : SplitRef) (w : IWord) (s : State) : Host.Outcome State Fault Refusal :=
  onLive s (onIssue s sp w (· == 0x241) .none msyncOp)

/-- `amov` (R207). -/
def execAmov (sp : SplitRef) (w : IWord) (s : State) : Host.Outcome State Fault Refusal :=
  onLive s (onIssue s sp w (· == 0x242) .none amovOp)

end Sys2Proof.Machine
end

