-- ==== Sys2Proof/Machine/Lull.lean ====
section
/-! DEFINITION. Lull.lean: `watch`, `sig`, `bar`, wake messages, hub counter commands and the restore
of saved workgroups (10 R208 to R210, 13 R258 to R272, 08 R153). -/

namespace Sys2Proof.Machine

/-! ## Counter references (R259) -/

/-- What a counter reference names. -/
inductive Ref where
  | ok (home : Option Nat) (i : Nat)
  | invalid
  | refused

/-- Resolve a counter reference of a workgroup. A ring counter that no root has agreed to is not
usable (R272). -/
def resolveRef (s : State) (w : Wg) (r : Nat) : Ref :=
  let i := crIndex r
  if !crClean r then .invalid
  else match crScope r with
    | 0 => if i < w.lullCtrs then .ok (some w.core) (w.ctrBase + i) else .invalid
    | 1 =>
      match (clusterOf s w).find? (fun e => e.2.rank == crPeer r) with
      | none => .refused
      | some (_, p) => if i < p.lullCtrs then .ok (some p.core) (p.ctrBase + i) else .refused
    | 2 =>
      let h := hubOf s i
      if h.owner = some w.ctx && (!h.ring || h.joined) then .ok none i else .refused
    | _ => .invalid

/-- The low 16 bits of s(a), a counter reference. -/
def refOf (i : Iss) : Nat := (readS i.g (wA i.iw)).toNat % 65536

/-! ## `watch` (R208, R262) -/

/-- `watch`: a condition that already holds fires at once, with the L1 flash a wake would bring. -/
def watchOp (s : State) (i : Iss) : State :=
  let cmp := wCtl i.iw % 8
  let consume := wCtlBit i.iw 3
  let target := readS i.g (wB i.iw)
  if !sOk (wA i.iw) || !sOk (wB i.iw) || 4 ≤ cmp || (consume && cmp == 3) then badEncoding s i
  else if depends s i [.s (wA i.iw), .s (wB i.iw)] then stall s i .result
  else match resolveRef s i.w (refOf i) with
    | .invalid => badEncoding s i
    | .refused => refusedAccess s i 0
    | .ok home k =>
      let away := home == none && ringAway s k
      if !away && watchHolds cmp (ctrGet s home k) target then
        let flash := outsideOf s home k i.sp.core || s.fly.wakes.any (fun m => m.flash && m.sp.core == i.sp.core)
        let s := if home == some i.sp.core then
            modCore s i.sp.core (fun x => { x with ctrOut := x.ctrOut.filter (· != k) }) else s
        let s := if consume then evalCtr (ctrSet s home k (ctrGet s home k - target)) home k else s
        let s := if flash then l1Flash s i.sp.core else s
        advance s i
      else if !watchRoom s home i.sp.core then stall s i .watchPlace
      else
        let x : Watch := { home := home, ctr := k, sp := i.sp, cmp := cmp, target := target,
                           consume := consume, wg := i.id }
        let s := { s with fly := { s.fly with watches := s.fly.watches ++ [x] } }
        modSplit s i.key i.sp.sid (fun x => { x with st := .gated, why := .none })

/-! ## `sig` (R209) -/

/-- `sig` to a counter. -/
def sigCounter (s : State) (i : Iss) : State :=
  let v := if wL i.iw then wImm i.iw else readS i.g (wB i.iw)
  match resolveRef s i.w (refOf i) with
  | .invalid => badEncoding s i
  | .refused => refusedAccess s i 0
  | .ok home k =>
    if i.w.commitForm && !i.w.committed && home == none then badEncoding s i
    else advance (ctrAdd s home k v (some i.sp.core)) i

/-- `sig` to a fence. -/
def sigFence (s : State) (i : Iss) : State :=
  let f := (readS i.g (wA i.iw)).toNat % 16384
  let v := BitVec.ofNat 64 (readS64 i.g (wB i.iw))
  if i.w.commitForm && !i.w.committed then badEncoding s i
  else if !fenceSig s i.w.ctx f then refusedAccess s i 0
  else advance (fenceSignal s f v (wCtlBit i.iw 0)) i

/-- `sig`: after every earlier access of the split has completed (R209). -/
def sigOp (s : State) (i : Iss) : State :=
  let fence := wCtlBit i.iw 4
  let srcs : List RegId := .s (wA i.iw) ::
    (if fence then [.s (wB i.iw), .s (wB i.iw + 1)] else if wL i.iw then [] else [.s (wB i.iw)])
  if !sOk (wA i.iw) || (if fence then !sPairOk (wB i.iw) else !wL i.iw && !sOk (wB i.iw)) ||
      (wL i.iw && w1Bits i.iw 127 96 != 0) then badEncoding s i
  else if depends s i srcs then stall s i .result
  else if accessPending s i then orderWait s i
  else if fence then sigFence s i else sigCounter s i

/-! ## `bar` (R210, R266, R267, R269) -/

/-- Whether a split's view of the mask stack holds a SERIAL entry. -/
def serialInView (g : Group) (x : Split) : Bool :=
  (g.view x).any (fun p => (tfind g.stack p).any (fun e => !e.isSplit))

/-- Counters a realignment mask selects, from an offset (R269). -/
def realignBits (i : Iss) (off n : Nat) : List Nat :=
  if wCtlBit i.iw 2 then ((setBits (readS i.g (wB i.iw)) n).map (· + off)) else []

/-- Arrive at a workgroup or cluster barrier: `z` keeps it, `l` are the workgroups that share it, and
`kind` is 0 or 1. -/
def slotArrive (s : State) (i : Iss) (kind : Nat) (z : Nat) (l : List (Nat × Wg)) (ctrs : List Nat) : State :=
  let b := ((tfind s.wgs z).map (·.slotBar kind)).getD {}
  let n := b.n + popcount i.x.mask 32
  let s := modSplit s i.key i.sp.sid (fun x => { x with st := .syncWait, why := .barrier kind b.sense })
  if n < threadsLeft l then modWg s z (fun w => w.putBar kind { n := n, sense := b.sense, ctrs := ctrs })
  else barFlip s kind z l b.sense ctrs

/-- Arrive at a hub barrier: the workgroup's last thread sends its arrival. -/
def hubBar (s : State) (i : Iss) (h : Nat) : State :=
  let sense := (hubOf s h).sense
  let s := modSplit s i.key i.sp.sid (fun x => { x with st := .syncWait, why := .barrier (2 + h) sense })
  let n := i.w.hubN + popcount i.x.mask 32
  let ctrs := realignBits i (h + 1) 16
  if n < threadsLeft [(i.id, i.w)] then modWg s i.id (fun w => { w with hubN := n, hubAt := h, hubCtrs := ctrs })
  else hubArrive (modWg s i.id (fun w => { w with hubN := 0, hubAt := h, hubCtrs := ctrs })) h ctrs

/-- `bar`. -/
def barOp (s : State) (i : Iss) : State :=
  let kind := wCtl i.iw % 4
  let realign := wCtlBit i.iw 2
  let half := wCtlBit i.iw 3
  let ctrs := if half then realignBits i 32 16 else realignBits i 0 32
  let srcs : List RegId := (if kind = 2 then [.s (wA i.iw)] else []) ++ (if realign then [.s (wB i.iw)] else [])
  if kind = 3 || (kind == 2 && !sOk (wA i.iw)) ||
      (realign && !sOk (wB i.iw)) || serialInView i.g i.x then badEncoding s i
  else if depends s i srcs then stall s i .result
  else if kind = 2 then
    match crScope (refOf i), resolveRef s i.w (refOf i) with
    | 2, .ok _ h =>
      if (realignBits i (h + 1) 16).any (fun k => (hubOf s k).owner != some i.w.ctx) then refusedAccess s i 0
      else hubBar s i h
    | 2, .refused => refusedAccess s i 0
    | _, _ => badEncoding s i
  else if ctrs.any (fun k => decide (i.w.lullCtrs ≤ k)) then badEncoding s i
  else if kind = 0 then slotArrive s i 0 i.id [(i.id, i.w)] ctrs
  else slotArrive s i 1 (rank0 s i.w) (clusterOf s i.w) ctrs

/-! ## WAKE_ARRIVE (R263, R267) -/

/-- The oldest message to a split, and the others. -/
def takeWake (sp : SplitRef) : List WakeMsg → Option (WakeMsg × List WakeMsg)
  | [] => none
  | m :: r => if m.sp = sp then some (m, r) else (takeWake sp r).map (fun e => (e.1, m :: e.2))

/-- A message arrives: the core drops its L1 data where it must, and the split goes on READY. -/
def wakeOp (s : State) (sp : SplitRef) : State :=
  match takeWake sp s.fly.wakes with
  | none => s
  | some (m, r) =>
    let s := { s with fly := { s.fly with wakes := r } }
    let s := if m.flash then l1Flash s sp.core else s
    let now := coreNow s sp.core
    settleGroup s (spKey sp) fun g =>
      match tfind g.splits sp.sid with
      | none => g
      | some x =>
        if x.st = .gated || x.st = .syncWait then
          goPc now (g.putSplit sp.sid (x.toReady now)) sp.sid (x.pc + 1)
        else g

/-! ## Hub counter commands (R271, R272) -/

def luCtx (r : W64) : Nat := bits r 22 13
def luBase (r : W64) : Nat := bits r 30 23
def luN (r : W64) : Nat := bits r 34 31
/-- Counters a command names. -/
def luIdx (r : W64) : List Nat := (List.range (luN r + 1)).map (luBase r + ·)

/-- Set LU_CMD_STAT. -/
def setLuCmd (s : State) (st : CmdStat) : State := { s with luCmd := st }

/-- HUB_ALLOC. With ring set on a chip that is not the root, it stays busy until every join is
acknowledged (R401); `extra` then holds the counters it names. -/
def hubAllocOp (s : State) (r : W64) (tag : Nat) : State :=
  let ring := bit r 35
  if (luIdx r).any (fun k => (hubOf s k).owner.isSome) then setLuCmd s (done tag .resource 0)
  else if ring && s.ring.st == .none then setLuCmd s (done tag .badBlock 0)
  else
    let h : Hub := { owner := some (luCtx r), parts := bits r 50 36, ring := ring, joined := ring && isRoot s }
    let s := { s with hub := (luIdx r).foldl (fun t k => tput t k h) s.hub }
    if ring && !isRoot s then setLuCmd s { (done tag .ok (luBase r * 16 + luN r)) with busy := true }
    else setLuCmd s (done tag .ok 0)

/-- Whether a named counter holds a watch or a barrier with arrivals pending. -/
def hubBusy (s : State) (k : Nat) : Bool := s.fly.watches.any (onCtr none k)
def hubPending (s : State) (k : Nat) : Bool := decide (0 < (hubOf s k).n)

/-- SNAPSHOT: capture timestamp, and the counts from byte 64 (R272). A count another chip keeps is not
known here (log 15). -/
def hubSnap (s : State) (r : W64) (tag : Nat) : State :=
  let page := bits r 63 51
  if !pbPageIn s page 0 (some (luCtx r)) then setLuCmd s (done tag .badPage 0)
  else
    let s := pbStore s (page * 4096) (natBytes (stamp s 35).toNat 8)
    let s := (luIdx r).foldl (fun s k =>
      let (v, s) : W32 × State := if ringAway s k then
          let (f, s) := takeFree s
          (f.setWidth 32, s)
        else ((hubOf s k).count, s)
      pbStore s (page * 4096 + 64 + 4 * (k - luBase r)) (natBytes v.toNat 4)) s
    setLuCmd s (done tag .ok 0)

/-- Carry out a Lull command (Table 13-4). -/
def luRun (s : State) (r : W64) : State :=
  let tag := bits r 3 0
  let op := bits r 7 4
  let fail (x : Result) : State := setLuCmd s (done tag x 0)
  let owns := (luIdx r).all (fun k => (hubOf s k).owner == some (luCtx r))
  if op = 0 || 4 < op then fail .badOp
  else if (ctxOf s (luCtx r)).st != .active then fail .bad3
  else if 255 < luBase r + luN r then fail .badBlock
  else if op = 1 then hubAllocOp s r tag
  else if !owns || (luIdx r).any (fun k => (hubOf s k).ring && !(hubOf s k).joined) then fail .badBlock
  else match op with
    | 2 =>
      if (luIdx r).any (fun k => hubBusy s k || hubPending s k) then fail .r5
      else setLuCmd { s with hub := (luIdx r).foldl tdel s.hub } (done tag .ok 0)
    | 3 => hubSnap s r tag
    | _ =>
      if (luIdx r).any (hubPending s) then fail .r5
      else setLuCmd ((luIdx r).foldl (fun s k => ctrZero s none k) s) (done tag .ok 0)

/-- A write of LU_CMD (R271). -/
def luCmdWrite (s : State) (raw : W64) : State :=
  feCmd s 0x480 raw (bits raw 3 0) s.luCmd setLuCmd (fun s => luRun s raw)

/-- An LU_CMD word. -/
def luWord (tag : BitVec 4) (op ctx base n parts : Nat) (ring : Bool) (page : Nat) : W64 :=
  BitVec.ofNat 64 (packNat [(page, 51), (parts, 36), (b2n ring, 35), (n, 31), (base, 23), (ctx, 13), (op, 4),
    (tag.toNat, 0)])

/-! ## RESTORE (R153, R265) -/

/-- Restored splits stand where a release met while they were saved left them. -/
def resettle (s : State) (id : Nat) : State :=
  (tkeys s.groups (fun k g => g.wg == id && decide (k < 100000))).foldl (fun s k =>
    let now := coreNow s (k / 64)
    settleGroup s k fun g => (g.splits.map (·.1)).foldl (fun g sid => arrive now 40 g sid) g) s

/-- A restored watch is registered again at its home and evaluated in that cycle (R265). One that
does not fire and finds no place there leaves its split STALLED at its `watch`, as R262 has it. -/
def reRegister (s : State) (x : Watch) : State :=
  let t := evalCtr { s with fly := { s.fly with watches := s.fly.watches ++ [x] } } x.home x.ctr
  let u := { t with fly := { t.fly with watches := t.fly.watches.filter (· != x) } }
  if watchRoom u x.home x.sp.core || !t.fly.watches.contains x then t
  else modSplit u (spKey x.sp) x.sp.sid (fun y => { y with st := .stalled, why := .watchPlace })

/-- RESTORE: a saved cluster comes back on cores with room; its counters first, then its watches, each
registered again and evaluated (R265). -/
def restoreOp (s : State) (id core : Nat) : State :=
  match tfind s.wgs id with
  | none => s
  | some w =>
    match tfind s.insts w.inst with
    | none => s
    | some x =>
      match graphOf s x with
      | none => s
      | some g =>
        if w.st = .saved && partRuns s x.part &&
            isNext s w.inst x g w.node w.cluster core then
          match coresFor s x.part core w.csize w.need with
          | none => s
          | some cs =>
            let l := (clusterOf s w).filter (·.2.st == .saved)
            let (s, ws) := restoreAll s l cs
            let s := (l.map (·.1)).foldl resettle s
            ws.foldl reRegister s
        else s

/-! ## Meanings -/

/-- `watch` (R208). -/
def execWatch (sp : SplitRef) (w : IWord) (s : State) : Host.Outcome State Fault Refusal :=
  onLive s (onIssue s sp w (· == 0x280) .none watchOp)

/-- `sig` (R209). -/
def execSig (sp : SplitRef) (w : IWord) (s : State) : Host.Outcome State Fault Refusal :=
  onLive s (onIssue s sp w (· == 0x281) .i sigOp)

/-- `bar` (R210). -/
def execBar (sp : SplitRef) (w : IWord) (s : State) : Host.Outcome State Fault Refusal :=
  onLive s (onIssue s sp w (· == 0x282) .none barOp)

/-- WAKE_ARRIVE (R263). -/
def execWakeArrive (sp : SplitRef) (s : State) : Host.Outcome State Fault Refusal := onLive s (wakeOp s sp)

/-- HUB_ALLOC (R272). -/
def execHubAlloc (tag : BitVec 4) (ctx base n parts : Nat) (ring : Bool) (s : State) :
    Host.Outcome State Fault Refusal := onLive s (luCmdWrite s (luWord tag 1 ctx base n parts ring 0))

/-- HUB_FREE (R272). -/
def execHubFree (tag : BitVec 4) (ctx base n : Nat) (s : State) : Host.Outcome State Fault Refusal :=
  onLive s (luCmdWrite s (luWord tag 2 ctx base n 0 false 0))

/-- SNAPSHOT (R272). -/
def execSnapshot (tag : BitVec 4) (ctx base n pbPage : Nat) (s : State) : Host.Outcome State Fault Refusal :=
  onLive s (luCmdWrite s (luWord tag 3 ctx base n 0 false pbPage))

/-- RESET (R272). -/
def execHubReset (tag : BitVec 4) (ctx base n : Nat) (s : State) : Host.Outcome State Fault Refusal :=
  onLive s (luCmdWrite s (luWord tag 4 ctx base n 0 false 0))

/-- RESTORE (R153). -/
def execRestore (wg core : Nat) (s : State) : Host.Outcome State Fault Refusal := onLive s (restoreOp s wg core)

end Sys2Proof.Machine
end

