-- ==== Sys2Proof/Machine/Async.lean ====
section
/-! DEFINITION. Async.lean: the allocator, the copy engine, staged writes and `sv` (06 R116, R117, 09
R193 to R195, 08 R156, R157, 10 R211 to R215). -/

namespace Sys2Proof.Machine

/-! ## The allocator (R116, R117) -/

/-- Size class of a request: the smallest 2^k, k from 8, that holds it; none above 64 MiB. -/
def sizeClass (n : Nat) : Option Nat :=
  ((List.range' 8 19).find? (fun k => decide (n ≤ 2 ^ k))).map (2 ^ ·)

/-- The arena segment of a context. -/
def arenaOf (s : State) (ctx : Nat) : Option Seg := (ctxOf s ctx).segs.find? (fun g => g.valid && g.arena)

/-- Blocks of a context that are LIVE or RETIRING. -/
def blocksOf (s : State) (ctx : Nat) : List Obj :=
  (s.objs.filter (fun e => allocIdx e.1 && e.2.owner == ctx && (e.2.st == .live || e.2.st == .retiring))).map
    (·.2)

/-- Lowest aligned offset of a block that overlaps none in use: 0, or the first aligned place at or
after the end of one in use. -/
def lowestBlock (used : List (Nat × Nat)) (len n : Nat) : Option Nat :=
  let cands := 0 :: used.map (fun u => ceilDiv (u.1 + u.2) n * n)
  let ok := cands.filter (fun c => decide (c + n ≤ len) && !used.any (fun u => overlaps c n u.1 u.2))
  ok.foldl (fun m c => match m with
    | none => some c
    | some x => some (min x c)) none

/-- Lowest allocator index whose object is FREE. -/
def freeAllocIdx (s : State) : Option Nat := tfirst s.objs (fun o => o.st == .free) 196608 65536

/-- The generation after the one an index carried last. -/
def nextGen (g : Nat) : Nat := if g = 16383 then 1 else g + 1

/-- Serve one request: handle and base, both 0 where there is no block. -/
def allocBlock (s : State) (ctx size : Nat) : Nat × Nat × State :=
  match arenaOf s ctx, sizeClass size with
  | some g, some n =>
    match lowestBlock ((blocksOf s ctx).map (fun o => (o.base - g.base, o.len))) (g.limit - g.base) n,
        freeAllocIdx s with
    | some off, some i =>
      let gen := nextGen (tget s.allocGen i 0)
      let o : Obj := { st := .live, gen := gen, owner := ctx, ownerHolds := true, base := g.base + off,
                       len := n, rd := g.rd, wr := g.wr, ex := g.ex, policy := g.policy }
      (gen * 262144 + i, g.base + off, { s with objs := tput s.objs i o, allocGen := tput s.allocGen i gen })
    | _, _ => (0, 0, s)
  | _, _ => (0, 0, s)

/-- `alloc`: the request goes to the allocator, which holds 64 (R117). -/
def allocOp (s : State) (i : Iss) : State :=
  let d := wD i.iw
  if !sOk (wA i.iw) || d % 4 != 0 || 64 ≤ d || i.w.commitForm then badEncoding s i
  else if depends s i (.s (wA i.iw) :: (List.range 4).map (fun k => .s (d + k))) then stall s i .result
  else if 64 ≤ s.fly.allocs.length then stall s i .unit
  else
    let s := { s with fly := { s.fly with
      allocs := s.fly.allocs ++ [.split i.sp i.w.ctx (readS i.g (wA i.iw)).toNat d] } }
    stall s i (.allocResult d)

/-- Context of an allocator request. -/
def AllocReq.ctx (r : AllocReq) : Nat :=
  match r with
  | .split _ c _ _ => c
  | .node _ _ c _ _ => c

/-- The request the allocator serves next: the oldest of the next partition that has one (R116, R150). -/
def nextAlloc (s : State) : Option (Nat × AllocReq) :=
  let part (r : AllocReq) : Nat := (ctxOf s r.ctx).part
  match rrNext s.rr.alloc ((List.range 8).filter (fun p => s.fly.allocs.any (fun r => part r == p))) with
  | none => none
  | some p => (s.fly.allocs.find? (fun r => part r == p)).map (fun r => (p, r))

/-- ALLOC_SERVED (R116, R150). A node's result goes into its parameter block. -/
def allocServedOp (s : State) : State :=
  match nextAlloc s with
  | none => s
  | some (p, r) =>
    let s := unstallAll { s with rr := { s.rr with alloc := p }, fly := { s.fly with allocs := s.fly.allocs.erase r } }
      (· == .unit)
    match r with
    | .split sp ctx size d =>
      let (h, base, s) := allocBlock s ctx size
      let now := coreNow s sp.core
      settleGroup s (spKey sp) fun g =>
        let g := writeRegs g [(.s d, BitVec.ofNat 32 h), (.s (d + 1), 0), (.s (d + 2), BitVec.ofNat 32 base),
          (.s (d + 3), BitVec.ofNat 32 (base / 2 ^ 32))]
        match tfind g.splits sp.sid with
        | none => g
        | some x => goPc now (g.putSplit sp.sid (x.toReady now)) sp.sid (x.pc + 1)
    | .node id n ctx cls off =>
      match (tfind s.insts id).bind (graphOf s) with
      | none => s
      | some g =>
        let (h, base, s) := allocBlock s ctx (2 ^ (cls + 8))
        match macDrops s (g.param off) 16 with
        | some m => hwFault s ctx m (some id)
        | none => nodeEnded (paramWrite s g off (natBytes h 8 ++ natBytes base 8)) id n

/-- `free` (R211). -/
def freeOp (s : State) (i : Iss) : State :=
  let h := (readS i.g (wA i.iw)).toNat
  if !sOk (wA i.iw) || i.w.commitForm then badEncoding s i
  else if depends s i [.s (wA i.iw)] then stall s i .result
  else if h = 0 then advance s i
  else if liveAlloc s i.w.ctx h then advance (allocFree s h) i
  else badEncoding s i

/-! ## The copy engine (R193, R194, R212) -/

/-- The parameters of an `acopy` (R212), as a copy not yet under way. -/
def acopyOf (i : Iss) : Copy :=
  let r (k : Nat) : Nat := (readS i.g (wA i.iw + k)).toNat
  { wg := i.id, core := i.sp.core, kept := false, src := r 0 + r 1 * 2 ^ 32
    srcStride := signed 40 (r 2 + r 3 % 256 * 2 ^ 32), dst := r 4, dstStride := r 5, rowBytes := r 6 % 8192
    rows := r 6 / 65536 % 8192, ranks := setBits (readS i.g (wA i.iw + 7)) 4, ctr := r 7 / 256 % 64 }

/-- Every parameter inside Table 9-7. -/
def acopyOk (i : Iss) (c : Copy) : Bool :=
  decide (c.src < 2 ^ 40 ∧ c.src % 16 = 0 ∧ c.srcStride % 16 = 0 ∧ c.dst < 2 ^ 18 ∧ c.dst % 16 = 0 ∧
    c.dstStride % 16 = 0 ∧ c.dstStride ≤ 262128 ∧ 16 ≤ c.rowBytes ∧ c.rowBytes ≤ 4096 ∧ c.rowBytes % 16 = 0 ∧
    1 ≤ c.rows ∧ c.rows ≤ 4096 ∧ c.rowBytes * c.rows ≤ 262144 ∧ c.ctr < i.w.lullCtrs) &&
  (decide (1 < i.w.csize) || c.ranks == [0]) &&
  (!i.w.commitForm || c.ranks == [i.w.rank])

/-- Address of a source row. -/
def Copy.rowAt (c : Copy) (q : Nat) : Int := (c.src : Int) + (q : Int) * c.srcStride

/-- First source row that is refused. -/
def copySrcBad (s : State) (i : Iss) (c : Copy) : Option Int :=
  ((List.range c.rows).map c.rowAt).find? (fun a => !wgMay s i.w a c.rowBytes .rd)

/-- Whether every destination lies in its rank's allocation. -/
def copyDstOk (s : State) (i : Iss) (c : Copy) : Bool :=
  c.ranks.all fun r =>
    match rankWg s i.w r with
    | none => false
    | some t => decide (c.dst + (c.rows - 1) * c.dstStride + c.rowBytes ≤ t.lsKib * 1024)

/-- `acopy`. -/
def acopyIssue (s : State) (i : Iss) : State :=
  let a := wA i.iw
  if a % 8 != 0 || 64 ≤ a then badEncoding s i
  else if depends s i ((List.range 8).map (fun k => .s (a + k))) then stall s i .result
  else
    let c := acopyOf i
    if !acopyOk i c then badEncoding s i
    else match copySrcBad s i c with
      | some x => refusedAccess s i (addrNat x)
      | none =>
        if !copyDstOk s i c then refusedAccess s i c.dst
        else if c.ranks.isEmpty then advance s i
        else if 32 ≤ (s.fly.copies.filter (fun e => !e.2.kept && e.2.core == i.sp.core)).length then
          stall s i .copyPlace
        else advance (flyCopies s [c]) i

/-- Bytes of the rows of a copy. -/
def copyRow (s : State) (c : Copy) (q : Nat) : List Byte := dmRead s (c.rowAt q).toNat c.rowBytes

/-- Write a copy into one destination's local store. -/
def copyInto (s : State) (c : Copy) (t : Wg) : State :=
  (List.range c.rows).foldl (fun s q =>
    lsWrite s t.core (t.lsBase * 1024 + c.dst + q * c.dstStride)
      (if c.kept then c.data.getD q [] else copyRow s c q)) s

/-- The L2's part of a copy's reads (R193). -/
def copyTouch (s : State) (ctx : Nat) (c : Copy) : State :=
  (List.range c.rows).foldl (fun s q =>
    let a := (c.rowAt q).toNat
    dmTouch s (polAt s ctx a) a c.rowBytes) s

/-- A copy has landed whole in one destination: its counter there grows by 1, and with every
destination served it leaves its place (R194, R221). -/
def landed (s : State) (id : Nat) (c : Copy) (t : Wg) : State :=
  let rest := c.ranks.filter (· != t.rank)
  let s := copyInto (if c.kept then s else copyTouch s t.ctx c) c t
  let s := ctrAdd s (some t.core) (t.ctrBase + c.ctr) 1 (some c.core)
  if rest.isEmpty then
    unstallAll { s with fly := { s.fly with copies := tdel s.fly.copies id } } (· == .copyPlace)
  else { s with fly := { s.fly with copies := tput s.fly.copies id { c with ranks := rest } } }

/-- COPY_LANDED or KEPT_COPY_LANDED in a destination core. -/
def landOp (s : State) (id core : Nat) (kept : Bool) : State :=
  match tfind s.fly.copies id with
  | none => s
  | some c =>
    if c.kept != kept then s
    else match tfind s.wgs c.wg with
      | none => s
      | some w =>
        let core := if kept then c.core else core
        match c.ranks.findSome? (fun r => (rankWg s w r).bind (fun t => if t.core = core then some t else none)) with
        | none => s
        | some t =>
          match (if c.kept then none
              else (List.range c.rows).findSome? (fun q => dmFault s (c.rowAt q).toNat c.rowBytes)) with
          | some m => hwFault s w.ctx m (some w.inst)
          | none => landed s id c t

/-! ## `commit` (R157, R214) -/

/-- `commit`: a barrier of the workgroup; with its last thread writing begins. -/
def commitOp (s : State) (i : Iss) : State :=
  if i.w.stageKib = 0 || i.w.committed then badEncoding s i
  else
    let n := i.w.commits + popcount i.x.mask 32
    let s := modSplit s i.key i.sp.sid (fun x => { x with st := .syncWait, why := .commitWait })
    modWg s i.id fun w => { w with commits := n, writing := decide (threadsLeft [(i.id, w)] ≤ n) }

/-- COMMIT_WRITE_END: the staged entries are in memory, in order, and the splits go on (R157, R214). A graph
image registered since the store takes no write, and a line whose MAC fails drops its own (R140, R297). -/
def commitEndOp (s : State) (id : Nat) : State :=
  match tfind s.wgs id with
  | none => s
  | some w =>
    if !w.writing then s
    else
      let es := stagedEnts s w
      let t := modWg (stagedWrites s w) id (fun w => { w with writing := false, committed := true, staged := 0 })
      match es.find? (fun e => imageHit s e.addr 16), es.findSome? (fun e => macDrops s e.addr 16) with
      | some e, _ => wgFault t id .boundFault e.addr 0xFFFFFF
      | none, some m => hwFault t w.ctx m (some w.inst)
      | none, none =>
        let now := coreNow t w.core
        (tkeys t.groups (fun _ g => g.wg == id)).foldl (fun s k =>
          settleGroup s k fun g => g.splits.foldl (fun g e =>
            if e.2.st = .syncWait && e.2.why = .commitWait then
              goPc now (g.putSplit e.1 (e.2.toReady now)) e.1 (e.2.pc + 1) else g) g) t

/-! ## `sv` (R215) -/

/-- Workgroup index x, y, z: x first (R190). -/
def wgIndex (s : State) (w : Wg) (k : Nat) : Nat :=
  let n := ((tfind s.insts w.inst).bind (graphOf s)).map (fun g => g.nodes.getD w.node 0)
  let x := max 1 ((n.map nGridX).getD 1)
  let y := max 1 ((n.map nGridY).getD 1)
  match k with
  | 0 => w.idx % x
  | 1 => w.idx / x % y
  | _ => w.idx / (x * y)

/-- Value of a system value; true marks the 64-bit ones. -/
def svVal (s : State) (i : Iss) (k : Nat) : Nat × Bool :=
  match k with
  | 1 => (i.g.gidx, false)
  | 2 => (wgIndex s i.w 0, false)
  | 3 => (wgIndex s i.w 1, false)
  | 4 => (wgIndex s i.w 2, false)
  | 5 => (i.w.rank, false)
  | 6 => (i.w.paramBase, true)
  | 7 => (i.w.paramBase + 8 * i.w.argOff, true)
  | 8 => ((stamp s (i.sp.core / 6)).toNat, true)
  | _ => (b2n i.g.part_ * 16 + (i.g.splits.length - 1), false)

/-- `sv`. -/
def svOp (s : State) (i : Iss) : State :=
  let k := wCtl i.iw
  let d := wD i.iw
  if k = 0 then
    let ls := laneList i.x.mask
    if !vOk i d then badEncoding s i
    else if depends s i (vRegs d ls) then stall s i .result
    else advance (modGroup s i.key (fun g =>
      writeRegs g (ls.map (fun l => (.v d l, BitVec.ofNat 32 l))))) i
  else if 9 < k then badEncoding s i
  else
    let (v, wide) := svVal s i k
    if !(if wide then sPairOk d else sOk d) then badEncoding s i
    else if depends s i (.s d :: (if wide then [.s (d + 1)] else [])) then stall s i .result
    else advance (modGroup s i.key (fun g => writeRegs g
      ((.s d, BitVec.ofNat 32 v) :: (if wide then [(.s (d + 1), BitVec.ofNat 32 (v / 2 ^ 32))] else [])))) i

/-! ## Meanings -/

/-- `alloc` (R211). -/
def execAlloc (sp : SplitRef) (w : IWord) (s : State) : Host.Outcome State Fault Refusal :=
  onLive s (onIssue s sp w (· == 0x2C0) .none allocOp)

/-- ALLOC_SERVED (R116). -/
def execAllocServed (s : State) : Host.Outcome State Fault Refusal := onLive s (allocServedOp s)

/-- `free` (R211). -/
def execFree (sp : SplitRef) (w : IWord) (s : State) : Host.Outcome State Fault Refusal :=
  onLive s (onIssue s sp w (· == 0x2C1) .none freeOp)

/-- `acopy` (R212). -/
def execAcopy (sp : SplitRef) (w : IWord) (s : State) : Host.Outcome State Fault Refusal :=
  onLive s (onIssue s sp w (· == 0x300) .none acopyIssue)

/-- COPY_LANDED (R194). -/
def execCopyLanded (id core : Nat) (s : State) : Host.Outcome State Fault Refusal :=
  onLive s (landOp s id core false)

/-- KEPT_COPY_LANDED (R221). -/
def execKeptCopyLanded (id : Nat) (s : State) : Host.Outcome State Fault Refusal := onLive s (landOp s id 0 true)

/-- `commit` (R214). -/
def execCommit (sp : SplitRef) (w : IWord) (s : State) : Host.Outcome State Fault Refusal :=
  onLive s (onIssue s sp w (· == 0x3C0) .none commitOp)

/-- COMMIT_WRITE_END (R157). -/
def execCommitWriteEnd (wg : Nat) (s : State) : Host.Outcome State Fault Refusal := onLive s (commitEndOp s wg)

/-- `sv` (R215). -/
def execSv (sp : SplitRef) (w : IWord) (s : State) : Host.Outcome State Fault Refusal :=
  onLive s (onIssue s sp w (· == 0x3C1) .none svOp)

end Sys2Proof.Machine
end

