-- ==== Sys2Proof/Machine/Compose.lean ====
section
/-! DEFINITION. Compose.lean: what a display pipe's configuration and layers say, and the picture it composes of
them (17 R342, R343, R347, R349). -/

namespace Sys2Proof.Machine

/-! ## Configuration (Table 17-5) -/

def cBg (c : BitVec 1024) : Nat := bits c 479 450
def cPclk (c : BitVec 1024) : Nat := bits c 447 416
def cHact (c : BitVec 1024) : Nat := bits c 415 403
def cHfp (c : BitVec 1024) : Nat := bits c 402 390
def cHsync (c : BitVec 1024) : Nat := bits c 389 377
def cHbp (c : BitVec 1024) : Nat := bits c 376 364
def cVact (c : BitVec 1024) : Nat := bits c 363 351
def cVfp (c : BitVec 1024) : Nat := bits c 350 338
def cVsync (c : BitVec 1024) : Nat := bits c 337 325
def cVbp (c : BitVec 1024) : Nat := bits c 324 312
def cLead (c : BitVec 1024) : Nat := bits c 311 299
def cGang (c : BitVec 1024) : Bool := bit c 293
def cOut (c : BitVec 1024) : Bool := bit c 292
/-- Element i of the output matrix, offsets last, in units of 2^−12. -/
def cCsc (c : BitVec 1024) (i : Nat) : Int := (BitVec.ofNat 16 (bits c (16 * i + 847) (16 * i + 832))).toInt
/-- Bits per pixel on the output. -/
def cBpp (c : BitVec 1024) : Nat := if bit c 295 then 30 else 24
def cVtotal (c : BitVec 1024) : Nat := cVact c + cVfp c + cVsync c + cVbp c

/-! ## Layers (Table 17-6) -/

def lEn (l : BitVec 512) : Bool := bit l 368
def lReproj (l : BitVec 512) : Bool := bit l 367
def lStatic (l : BitVec 512) : Bool := bit l 365
def lGen (l : BitVec 512) : Nat := bits l 359 352
def lWaitEn (l : BitVec 512) : Bool := bit l 369
def lWaitFence (l : BitVec 512) : Nat := bits l 383 370
def lWaitVal (l : BitVec 512) : W64 := BitVec.ofNat 64 (bits l 447 384)
def lFmt (l : BitVec 512) : Nat := bits l 339 336
def lLayout (l : BitVec 512) : Nat := bits l 341 340
def lSrc (l : BitVec 512) : Nat × Nat × Nat × Nat :=
  (bits l 307 295, bits l 294 282, bits l 281 269 + 1, bits l 268 256 + 1)
def lDst (l : BitVec 512) : Nat × Nat × Nat × Nat :=
  (bits l 255 243, bits l 242 230, bits l 229 217 + 1, bits l 216 204 + 1)
def lBufW (l : BitVec 512) : Nat := bits l 119 107 + 1
def lBufH (l : BitVec 512) : Nat := bits l 106 94 + 1
def lOff (l : BitVec 512) : Nat := bits l 93 54

/-- Bytes per sample of an image format (Table 15-4); the first plane of NV12 and P010. -/
def fmtBytes (f : Nat) : Nat :=
  match f with
  | 0 => 4 | 1 => 4 | 2 => 4 | 3 => 8 | 4 => 4 | 5 => 1 | 6 => 4 | 8 => 4 | 9 => 4
  | 12 => 1 | 13 => 2
  | _ => 0

/-- Bytes of a tile-major image, compressed or not (R300, R316). -/
def tiledBytes (w h b samples : Nat) (comp : Bool) : Nat :=
  let t := ceilDiv w 32 * ceilDiv h 32
  (if comp then ceilDiv (16 * t) 4096 * 4096 else 0) + 1024 * b * samples * t

/-- Pre-blend LUT, and what becomes of samples outside the source. -/
def lLut (l : BitVec 512) : Bool := bit l 363
def lEdge (l : BitVec 512) : Bool := bit l 366
def lPremul (l : BitVec 512) : Bool := bit l 364
def lGalpha (l : BitVec 512) : Nat := bits l 351 344
def lStride (l : BitVec 512) : Nat := bits l 335 320 * 64

/-- Source and destination sizes differ: the layer is scaled (R342). -/
def lScaled (l : BitVec 512) : Bool :=
  let (_, _, sw, sh) := lSrc l
  let (_, _, dw, dh) := lDst l
  sw != dw || sh != dh

/-! ## Arithmetic in FP32 -/

def f32One : W32 := 0x3F800000

/-- n / d for d > 0, rounded to FP32 by RNE. -/
def f32Ratio (n : Int) (d : Nat) : W32 :=
  let a := n.natAbs * 2 ^ 200
  if n = 0 then 0
  else BitVec.ofNat 32 (fpEncode 0 0 (.fin (decide (n < 0)) (2 * (a / d) + (if a % d = 0 then 0 else 1)) (-201)))

/-- A value clamped to [0, 1]; a NaN gives 0 (log 29). -/
def f32Unit (x : W32) : W32 :=
  let v := fpDecode 0 x.toNat
  if fpLt (.fin false 0 0) v then (if fpLt v (fpDecode 0 f32One.toNat) then x else f32One) else 0

/-- A LUT's value: entry i = ⌊1,023 v⌋ and the next one, by the fraction; no entries stand for the identity
(R343). The formula is exact, rounded once to FP32 (log 13). -/
def lutAt (e : List (BitVec 12)) (x : W32) : W32 :=
  let at_ (i : Nat) : Int := match e[i]? with
    | some v => v.toNat
    | none => ((2 * 4095 * i + 1023) / 2046 : Nat)
  match fpDecode 0 (f32Unit x).toNat with
  | .fin _ m k =>
    let den := 2 ^ (-k).toNat
    let p := 1023 * m * 2 ^ k.toNat
    let i := p / den
    f32Ratio (at_ i * den + (p % den : Nat) * (at_ (min (i + 1) 1023) - at_ i)) (4095 * den)
  | _ => 0

/-- Three channels through a LUT; alpha as it is. -/
def lutPx (e : List (BitVec 12)) (c : List W32) : List W32 := (c.take 3).map (lutAt e) ++ c.drop 3

/-! ## Layers (R342, R349) -/

/-- A pixel of a layer's image, and the ranges it is read from (R300, R316, R341). -/
def imagePx (s : State) (l : Layer) (u v : Nat) : Nat × List (Nat × Nat) :=
  let base := ((l.buf.map (·.2.1)).getD 0) + lOff l.desc
  let b := fmtBytes (lFmt l.desc)
  let tx := ceilDiv (lBufW l.desc) 32
  let tiles := tx * ceilDiv (lBufH l.desc) 32
  let t := v / 32 * tx + u / 32
  let k := v % 32 * 32 + u % 32
  let plain (a : Nat) : Nat × List (Nat × Nat) := (dmNum s a b, [(a, b)])
  match lLayout l.desc with
  | 2 => plain (base + v * lStride l.desc + u * b)
  | 1 =>
    let ha := base + 16 * t
    let sa := base + ceilDiv (16 * tiles) 4096 * 4096 + 1024 * b * t
    let hdr := dmNum s ha 16
    match hdr / 2 ^ 62 % 4 with
    | 2 => (hdr / 2 ^ 64 % 2 ^ (8 * b), [(ha, 16)])
    | 1 =>
      let n := min (hdr % 65536 * 128) (1024 * b)
      ((decodeTile (lFmt l.desc) (leNat (dmRead s sa n))).getD k 0, [(ha, 16), (sa, n)])
    | _ => (dmNum s (sa + k * b) b, [(ha, 16), (sa + k * b, b)])
  | _ => plain (base + 1024 * b * t + k * b)

/-- Free channels of layer k at a pixel, where the rules give no arithmetic (logs 8, 13). -/
def freePx (s : State) (k x y : Nat) : List W32 :=
  (List.range 4).map fun c => (Config.freeValue (s.free + ((k * 8192 + y) * 8192 + x) * 4 + c)).setWidth 32

/-- Element i of a warp. -/
def warpElt (h : BitVec 288) (i : Nat) : W32 := BitVec.ofNat 32 (bits h (32 * i + 31) (32 * i))

/-- Row r of a warp on (x + 0.5, y + 0.5, 1), in FP32. -/
def warpRow (h : BitVec 288) (r x y : Nat) : W32 :=
  f32Add (f32Add (f32Mul (warpElt h (3 * r)) (f32Ratio (2 * x + 1) 2)) (f32Mul (warpElt h (3 * r + 1)) (f32Ratio (2 * y + 1) 2)))
    (warpElt h (3 * r + 2))

/-- Whether a warped sample falls in the source rectangle (R349). -/
def warpInside (h : BitVec 288) (x y sw sh : Nat) : Bool :=
  let f (v : W32) : Fp := fpDecode 0 v.toNat
  let zero : Fp := .fin false 0 0
  let w := warpRow h 2 x y
  let u := warpRow h 0 x y
  let v := warpRow h 1 x y
  fpLt zero (f w) && !fpLt (f u) zero && !fpLt (f v) zero && fpLt (f u) (f (f32Mul w (f32Ratio sw 1))) &&
    fpLt (f v) (f (f32Mul w (f32Ratio sh 1)))

/-- Steps 1 to 3 of a layer at a pixel of its destination; none where its read meets an uncorrectable error
(R352). Chroma, scaling and warping have no stated arithmetic: their results are free. -/
def layerSample (s : State) (pre : List (BitVec 12)) (k : Nat) (l : Layer) (x y : Nat) : Option (List W32) :=
  let (dx, dy, _, _) := lDst l.desc
  let (sx, sy, sw, sh) := lSrc l.desc
  let lut (c : List W32) : List W32 := if lLut l.desc then lutPx pre c else c
  match l.warp with
  | some h => some (if lEdge l.desc || warpInside h (x - dx) (y - dy) sw sh then freePx s k x y else [0, 0, 0, 0])
  | none =>
    if lScaled l.desc then some (freePx s k x y)
    else if lFmt l.desc = 12 || lFmt l.desc = 13 then some (lut (freePx s k x y))
    else
      let (v, rs) := imagePx s l (sx + (x - dx)) (sy + (y - dy))
      if rs.any (fun r => (dmFault s r.1 r.2).isSome) then none else some (lut (pxDecode (lFmt l.desc) v))

/-- Step 4: alpha becomes a × galpha / 255, and colour is multiplied by it unless premul is set. -/
def layerAlpha (l : BitVec 512) (c : List W32) : List W32 :=
  let a := f32Mul (c.getD 3 0) (unormDecode 8 (lGalpha l))
  (c.take 3).map (fun x => if lPremul l then x else f32Mul x a) ++ [a]

/-- Step 5: source-over. -/
def pxOver (dst src : List W32) : List W32 :=
  let k := f32Sub f32One (src.getD 3 0)
  (src.zip dst).map fun (a, b) => f32Add a (f32Mul b k)

/-- Whether a layer's destination covers a pixel. -/
def layerCovers (l : BitVec 512) (x y : Nat) : Bool :=
  let (dx, dy, dw, dh) := lDst l
  lEn l && decide (dx ≤ x ∧ x < dx + dw ∧ dy ≤ y ∧ y < dy + dh)

/-- Blend some layers, lowest first, onto a pixel. -/
def blendLayers (s : State) (p : Pipe) (ks : List Nat) (x y : Nat) (dst : List W32) : Option (List W32) :=
  ks.foldl (fun acc k =>
    match acc, tfind p.layers k with
    | some d, some l =>
      if layerCovers l.desc x y then (layerSample s p.lutPre k l x y).map (fun c => pxOver d (layerAlpha l.desc c))
      else some d
    | acc, _ => acc) (some dst)

/-- Background colour. -/
def bgPx (c : BitVec 1024) : List W32 :=
  [unormDecode 10 (bits c 479 470), unormDecode 10 (bits c 469 460), unormDecode 10 (bits c 459 450), f32One]

/-! ## Layer cache (R347) -/

/-- Format of the cache, and where a pixel lies in it: line by line, a layout of the device's own (log 13). -/
def cacheFmt (c : BitVec 1024) : Nat := if bit c 291 then 2 else 3
def cacheAt (p : Pipe) (c : BitVec 1024) (x y : Nat) : Nat :=
  ((p.cacheObj.map (·.2.1)).getD 0) + (y * cHact c + x) * pxBytes (cacheFmt c)

/-- The flatten set's blend at a pixel, after step 4, as the cache holds it; 0 where a read fails. -/
def flattenPx (s : State) (p : Pipe) (c : BitVec 1024) (x y : Nat) : Nat :=
  pxEncode (cacheFmt c) ((blendLayers s p (p.flat.map (·.1)) x y [0, 0, 0, 0]).getD [0, 0, 0, 0])

/-- A line of the cache. -/
def flattenLine (s : State) (p : Pipe) (c : BitVec 1024) (y : Nat) : List Byte :=
  (List.range (cHact c)).flatMap fun x => natBytes (flattenPx s p c x y) (pxBytes (cacheFmt c))

/-! ## The picture (R342) -/

/-- Layers that compose a pixel: those of pipe 1 on the right half of a ganged output (R336, R344). -/
def layersAt (n : Nat) (c : BitVec 1024) (x : Nat) : List Nat :=
  if n = 0 && cGang c && cHact c / 2 ≤ x then List.range' 8 8 else List.range 8

/-- Steps 1 to 5 at a pixel, the flatten set from the cache where the frame reads it; none where a read
fails. -/
def composePx (s : State) (n : Nat) (p : Pipe) (c : BitVec 1024) (x y : Nat) : Option (List W32) :=
  let ks := layersAt n c x
  if p.cache && ks.contains 0 then
    let a := cacheAt p c x y
    let b := pxBytes (cacheFmt c)
    if (dmFault s a b).isSome then none
    else blendLayers s p (ks.filter (fun k => !(p.flat.map (·.1)).contains k)) x y
      (pxOver (bgPx c) (pxDecode (cacheFmt c) (dmNum s a b)))
  else blendLayers s p ks x y (bgPx c)

/-- The output matrix, in FP32 in the order of its terms. -/
def cscPx (c : BitVec 1024) (v : List W32) : List W32 :=
  (List.range 3).map fun r =>
    f32Unit ((List.range 3).foldl (fun a k => f32Add a (f32Mul (f32Ratio (cCsc c (3 * r + k)) 4096) (v.getD k 0)))
      (f32Ratio (cCsc c (9 + r)) 4096))

/-- Step 6 without dither: the post-blend LUT, then the matrix. -/
def finishPx (p : Pipe) (c : BitVec 1024) (v : List W32) : List W32 :=
  let v := (v.take 3).map (fun x => lutAt p.lutPost (f32Unit x))
  if bit c 294 then cscPx c v else v

/-- A pixel of a write-back frame, its alpha free, and whether a read failed: then it shows the background
colour (R350, R352). -/
def writeBackPx (s : State) (n : Nat) (p : Pipe) (c : BitVec 1024) (fmt x y : Nat) : Nat × Bool :=
  let v := composePx s n p c x y
  (pxEncode fmt (finishPx p c (v.getD (bgPx c)) ++ (freePx s 16 x y).take 1), v.isNone)

/-- Lines of a write-back frame, and whether a read failed. -/
def writeBackFrame (s : State) (n : Nat) (p : Pipe) (c : BitVec 1024) (fmt : Nat) : List (List Nat) × Bool :=
  let l := (List.range (cVact c)).map fun y => (List.range (cHact c)).map fun x => writeBackPx s n p c fmt x y
  (l.map (fun r => r.map (·.1)), l.any (fun r => r.any (·.2)))

end Sys2Proof.Machine
end

