-- ==== Sys2Proof/Machine/Display.lean ====
section
/-! DEFINITION. Display.lean: display pipes (17): ownership, configuration, flips, lead points,
vblanks, write-back, sideband. -/

namespace Sys2Proof.Machine

/-- The partition whose pipe_mask names a pipe (R336). -/
def pipePart (s : State) (n : Nat) : Option Partition := s.cfg.parts.find? (fun p => p.pipeMask.getLsbD n)

/-- A context of the pipe's partition (R420). -/
def pipeShows (s : State) (n ctx : Nat) : Bool :=
  (pipePart s n).any (fun p => p.idx == (ctxOf s ctx).part) && (ctxOf s ctx).st != .free

/-! ## DC_PIPE_n (R337) -/

/-- A write of DC_PIPE_n: owner in [23:14], own_en in [13]; masked bytes keep their bits (R417). -/
def dcPipeWrite (s : State) (n : Nat) (val : W64) (mask : Byte) : State :=
  let p := pipeOf s n
  let old := packNat [(p.owner, 14), (b2n p.ownEn, 13)]
  let v : W64 := BitVec.ofNat 64 (maskBytes 8 old val.toNat mask.toNat)
  let owner := bits v 23 14
  let en := bit v 13
  if en && !pipeShows s n owner then event s 0x0033 0 9 n 0 (n + 512) (some owner)
  else if en = p.ownEn && owner = p.owner then s
  else modPipe s n (fun p => { p with owner := owner, ownEn := en, ownPend := true })

/-! ## Configuration (R339, R340) -/

/-- Lanes a two-bit code names. -/
def laneCount (code : Nat) : Nat := 2 ^ code

/-- The payload rule of a link, in units of 100 bit/s: DP lanes × rate × 0.8, DSI × 0.9 (Table 17-1). -/
def payloadFits (c : BitVec 1024) (lanes mbps share : Nat) : Bool :=
  cPclk c * cBpp c * 10 ≤ lanes * mbps * 1000 * share

/-- The checks of Table 17-5 and R340 that need no handle. -/
def confOk (s : State) (n : Nat) (c : BitVec 1024) : Bool :=
  let g := cGang c
  let w := if g then cHact c / 2 else cHact c
  let dsi := 2 ≤ n
  decide (1 ≤ cHact c ∧ 1 ≤ cVact c) &&
  decide (2 ≤ cHfp c ∧ 2 ≤ cHsync c ∧ 2 ≤ cHbp c ∧ 2 ≤ cVfp c ∧ 2 ≤ cVsync c ∧ 2 ≤ cVbp c) &&
  decide (w ≤ 3840 ∧ cVact c ≤ 4096 ∧ w * cVact c ≤ 8294400) &&
  decide (4 ≤ cLead c ∧ cLead c ≤ cVtotal c - 1) &&
  decide (cPclk c ≤ (if g then 2800000 else 1400000)) &&
  (!g || (n == 0 && (pipeOf s 1).ownEn && (pipeOf s 1).owner == (pipeOf s 0).owner)) &&
  (!dsi || (decide (80 ≤ bits c 287 272 ∧ bits c 287 272 ≤ 4500 ∧ bits c 271 270 ≤ 2) &&
    payloadFits c (laneCount (bits c 271 270)) (bits c 287 272) 9))

/-- What a change of which does not restart the output: background, dither, the matrix, the layer
cache and the lead. -/
def confTiming (c : BitVec 1024) : Nat × Nat × List Bool × Nat :=
  (cPclk c, bits c 415 312, [bit c 298, bit c 297, bit c 295, bit c 293, bit c 292], bits c 287 269)

/-- Link state after the output restarts: off, training for DP, active for DSI (Table 17-2). -/
def linkStart (n : Nat) (c : BitVec 1024) : Nat := if !cOut c then 0 else if n < 2 then 1 else 2

/-- Put a configuration into a pipe: with another timing or output the pipe restarts, else it takes
effect at the next vblank (R339). -/
def confApply (s : State) (n : Nat) (c : BitVec 1024) (cache : Option (Nat × Nat × Nat)) : State :=
  let p := pipeOf s n
  let s := dropRef s p.cacheObj
  let s := match cache with
    | some (i, _, _) => objRef s i
    | none => s
  let same := p.conf.any (fun o => confTiming o == confTiming c)
  let s := if n = 0 && cGang c then modPipe s 1 (fun p => { p with link := 0 }) else s
  modPipe s n fun p =>
    if same then { p with confPend := some c, cacheObj := cache }
    else { p with conf := some c, confPend := none, cacheObj := cache, link := linkStart n c,
                  flat := [], cache := false }

/-- CONFIG (R339). -/
def dcConfig (s : State) (n issuer page : Nat) : Result × State :=
  let (d, s) := pbTake s (page * 4096) 128
  let c : BitVec 1024 := BitVec.ofNat 1024 (leNat d)
  let h := bits c 511 480
  let need := cHact c * cVact c * (if bit c 291 then 4 else 8)
  if !confOk s n c then (.badBlock, s)
  else if h = 0 then (.ok, confApply s n c none)
  else match resolve s issuer h true true false with
    | none => (.r5, s)
    | some o =>
      if o.remote then (.r5, s)
      else if o.len < need then (.badBlock, s)
      else (.ok, confApply s n c (some (o.idx, o.base, o.len)))

/-! ## Layers of a flip (R341, R345) -/

/-- Bytes of its object an image reaches, from the object's start. -/
def imageEnd (l : BitVec 512) : Nat :=
  let b := fmtBytes (lFmt l)
  let stride := bits l 335 320 * 64
  if lLayout l = 2 then
    let luma := lOff l + stride * lBufH l
    if lFmt l = 12 || lFmt l = 13 then
      max luma (bits l 159 120 + stride * ceilDiv (lBufH l) 2)
    else luma
  else lOff l + tiledBytes (lBufW l) (lBufH l) b 1 (lLayout l == 1)

/-- The checks of R341, R342 and R345 on one enabled layer. -/
def layerOk (c : Option (BitVec 1024)) (n : Nat) (gangHalf : Nat) (l : BitVec 512) : Bool :=
  let f := lFmt l
  let yuv := f == 12 || f == 13
  let (sx, sy, sw, sh) := lSrc l
  let (dx, _, dw, dh) := lDst l
  [0, 1, 2, 3, 5, 12, 13].contains f && lLayout l != 3 &&
  (!yuv || lLayout l == 2) &&
  (if yuv then bits l 343 342 != 0 else bits l 343 342 == 0) &&
  (lOff l % (if lLayout l = 2 then 64 else 4096) == 0) &&
  (if lLayout l = 2 then decide (lBufW l * fmtBytes f ≤ bits l 335 320 * 64)
   else bits l 335 320 == 0) &&
  decide (sx + sw ≤ lBufW l ∧ sy + sh ≤ lBufH l) &&
  decide (sw ≤ 4 * dw ∧ dw ≤ 8 * sw ∧ sh ≤ 4 * dh ∧ dh ≤ 8 * sh) &&
  (!lReproj l || (!lScaled l && !lStatic l)) &&
  (match c with
   | some c =>
     if n = 0 && cGang c then
       let half := cHact c / 2
       if gangHalf = 0 then decide (dx + dw ≤ half) else decide (half ≤ dx ∧ dx + dw ≤ cHact c)
     else true
   | none => true)

/-- The layers a flip names, with their descriptors, from its block (R344). -/
def flipDescs (d : List Byte) (mask : BitVec 16) : Tab (BitVec 512) :=
  ((setBits mask 16).zipIdx).map fun (b, i) =>
    (b, BitVec.ofNat 512 (leNat ((d.drop (64 + 64 * i)).take 64)))

/-- Resolve the handles of one layer; none when one fails (R345). -/
def layerResolve (s : State) (ctx : Nat) (l : BitVec 512) : Option Layer :=
  let buf : Option (Option Hit) :=
    if !lEn l then some none
    else match resolve s ctx (bits l 511 480) true false false with
      | some h => if h.remote then none else some (some h)
      | none => none
  let pose : Option (Option Hit) :=
    if bits l 479 448 = 0 then some none
    else match resolve s ctx (bits l 479 448) true false false with
      | some h => if h.remote then none else some (some h)
      | none => none
  match buf, pose with
  | some b, some p =>
    some { desc := l, buf := b.map (fun h => (h.idx, h.base, h.len)),
           pose := p.map (fun h => (h.idx, h.base, h.len)), warp := none }
  | _, _ => none

/-- All layers of a flip, or none when a handle fails. -/
def layersResolve (s : State) (ctx : Nat) : Tab (BitVec 512) → Option (Tab Layer)
  | [] => some []
  | (i, d) :: r =>
    match layerResolve s ctx d, layersResolve s ctx r with
    | some l, some t => some ((i, l) :: t)
    | _, _ => none

/-- The layers a pipe would show after a set of new ones. -/
def layersAfter (old new : Tab Layer) : Tab Layer := new.foldl (fun t e => tput t e.1 e.2) old

/-- The state the queue leads to, on top of which a new flip is checked. -/
def pipeFuture (p : Pipe) : Tab Layer :=
  (p.taken ++ p.flips).foldl (fun t f => layersAfter t f.layers) p.layers

/-- Whether a layer's image and pose lie within their objects (R345, Table 17-8). -/
def layerFits (l : Layer) : Bool :=
  (match l.buf with | some (_, _, n) => decide (imageEnd l.desc ≤ n) | none => true) &&
  (match l.pose with | some (_, _, n) => decide (64 ≤ n) | none => true)

/-- Write-back checks: format, layout, alignment, range (Table 17-7). -/
def wbOk (h : BitVec 512) (c : Option (BitVec 1024)) (wb : Option (Nat × Nat × Nat)) : Bool :=
  let off := bits h 433 394
  let stride := bits h 393 378 * 64
  let lay := bits h 377 376
  let fmt := bits h 375 372
  (fmt == 0 || fmt == 2) && (lay == 0 || lay == 2) && off % 4096 == 0 &&
  match c, wb with
  | some c, some (_, _, n) =>
    if lay = 2 then decide (cHact c * 4 ≤ stride ∧ off + stride * cVact c ≤ n)
    else decide (off + tiledBytes (cHact c) (cVact c) 4 1 false ≤ n)
  | _, _ => true

/-- Fences of a flip: those it waits on and those it signals. -/
def flipFences (h : BitVec 512) (ls : Tab Layer) : List Nat :=
  (ls.filter (fun e => lWaitEn e.2.desc)).map (fun e => lWaitFence e.2.desc) ++
  (if fSigEn h then [fSigFence h] else []) ++ (if fWbEn h then [fWbFence h] else [])

/-- Fence rights of a flip (R345, R137). -/
def flipRights (s : State) (ctx : Nat) (h : BitVec 512) (ls : Tab Layer) : Bool :=
  ls.all (fun e => !lWaitEn e.2.desc || fenceWait s ctx (lWaitFence e.2.desc)) &&
  (!fSigEn h || fenceSig s ctx (fSigFence h)) && (!fWbEn h || fenceSig s ctx (fWbFence h))

/-- Take a flip into the queue with its references (R345). -/
def flipQueue (s : State) (n : Nat) (f : Flip) : State :=
  let ref (s : State) (r : Option (Nat × Nat × Nat)) : State :=
    match r with
    | some (i, _, _) => objRef s i
    | none => s
  let s := f.layers.foldl (fun s e => ref (ref s e.2.buf) e.2.pose) s
  let s := f.fences.foldl fenceRef (ref s f.wb)
  modPipe s n (fun p => { p with flips := p.flips ++ [f] })

/-- Length of the flip block in a page: its header and a descriptor for each set bit of its mask (R344). -/
def flipLen (s : State) (page : Nat) : Nat :=
  64 + 64 * popcount (fMask (BitVec.ofNat 512 (leNat (pbFetch s (page * 4096) 64)))) 16

/-- FLIP (R344, R345). -/
def dcFlip (s : State) (n issuer page : Nat) : Result × State :=
  let (d, s) := pbTake s (page * 4096) (flipLen s page)
  let h : BitVec 512 := BitVec.ofNat 512 (leNat (d.take 64))
  let p := pipeOf s n
  let conf := match p.confPend with
    | some c => some c
    | none => p.conf
  let wide := conf.any cGang && n == 0
  match layersResolve s issuer (flipDescs d (fMask h)) with
  | none => (.r5, s)
  | some ls =>
    let wb := if fWbEn h then resolve s issuer (bits h 371 340) false true false else none
    if fWbEn h && (wb.isNone || wb.any (·.remote)) then (.r5, s)
    else
      let wb3 := wb.map (fun o => (o.idx, o.base, o.len))
      let after := layersAfter (pipeFuture p) ls
      let good :=
        flipRights s issuer h ls && (bits h 79 72 == 0 || wide) &&
        ls.all (fun e => !lEn e.2.desc ||
          (layerOk conf n (e.1 / 8) e.2.desc && layerFits e.2)) &&
        decide (((after.filter (fun e => e.1 < 8 && lEn e.2.desc && lScaled e.2.desc)).length) ≤ 2) &&
        decide (((after.filter (fun e => 8 ≤ e.1 && lEn e.2.desc && lScaled e.2.desc)).length) ≤ 2) &&
        (!fWbEn h || wbOk h conf wb3)
      if !good then (.badBlock, s)
      else if 4 ≤ p.flips.length then (.resource, s)
      else (.ok, flipQueue s n { hdr := h, layers := ls, wb := wb3, fences := flipFences h ls })

/-! ## LUT and SIDEBAND -/

/-- The 16-bit entries of a LUT page. -/
def lutWords (d : List Byte) : List Nat :=
  (List.range 2048).map fun i => (d.getD (2 * i) 0).toNat + 256 * (d.getD (2 * i + 1) 0).toNat

/-- LUT (R343): both tables are replaced at the next vblank. -/
def dcLut (s : State) (n page : Nat) : Result × State :=
  let (d, s) := pbTake s (page * 4096) 4096
  let w := lutWords d
  if w.any (fun x => 4096 ≤ x) then (.badBlock, s)
  else
    let e := w.map (BitVec.ofNat 12)
    (.ok, modPipe s n (fun p => { p with lutPend := some (e.take 1024, e.drop 1024) }))

/-- SIDEBAND (R351): the request in bytes 0-31, the reply in bytes 32-63 (log 22). -/
def dcSideband (s : State) (n page : Nat) (r : SideReply) : Result × State :=
  let (d, s) := pbTake s (page * 4096) 32
  let kind := (d.getD 0 0).toNat
  let len := (d.getD 1 0).toNat
  let kindOk := if n < 2 then 1 ≤ kind && kind ≤ 4 else kind == 5
  if !kindOk || len = 0 || 16 < len then (.badBlock, s)
  else
    let data := r.data.take 16
    let reply := natBytes (packNat [(r.code, 0), (data.length, 8), (leNat data, 128)]) 32
    (.ok, pbStore s (page * 4096 + 32) reply)

/-! ## DC_CMD_n (R338) -/

/-- Set DC_CMD_STAT_n. -/
def setDc (n : Nat) (s : State) (st : CmdStat) : State := modPipe s n (fun p => { p with stat := st })

/-- Run a display command: owner, operation, page, then the operation's own checks (R338). -/
def dcRun (s : State) (n issuer : Nat) (raw : W64) (reply : SideReply) : State :=
  let op := bits raw 7 4
  let tag := bits raw 3 0
  let page := bits raw 44 32
  let p := pipeOf s n
  if !(p.ownEn && p.owner == issuer && (ctxOf s issuer).st == .active) then
    setDc n s (done tag .bad3 0)
  else if op = 0 || 4 < op then setDc n s (done tag .badOp 0)
  else if !writePage s page (some issuer) then setDc n s (done tag .badPage 0)
  else
    let (r, s) := match op with
      | 1 => dcConfig s n issuer page
      | 2 => dcFlip s n issuer page
      | 3 => dcLut s n page
      | _ => dcSideband s n page reply
    setDc n s (done tag r 0)

/-- A write of DC_CMD_n by a context: not shown to other partitions' contexts (R416, R420). -/
def dcCmdWrite (s : State) (n issuer : Nat) (raw : W64) (reply : SideReply) : State :=
  if pipeShows s n issuer then
    mgmtCmd s (0x100 + 0x20 * n) (issuer + 1) raw (pipeOf s n).stat (setDc n)
      (fun s => dcRun s n issuer raw reply)
  else s

/-- A command register's value (Table 17-3). -/
def cmdWord (page op tag : Nat) : W64 := BitVec.ofNat 64 (packNat [(page, 32), (op, 4), (tag, 0)])

/-! ## Timing events -/

/-- Rates of DP links in Mb/s (Table 17-1). -/
def dpRates : List Nat := [1620, 2160, 2430, 2700, 3240, 4320, 5400, 8100]

/-- The link trains at the highest lane count and rate the sink permits; a link that cannot carry the
mode reads 3 (R339, R340). -/
def linkTrainedOp (s : State) (n lanes rate : Nat) : State :=
  let p := pipeOf s n
  match p.conf with
  | some c =>
    if p.link = 1 && n < 2 then
      modPipe s n (fun p => { p with link := if [1, 2, 4].contains lanes && dpRates.contains rate && payloadFits c lanes rate 8 then 2 else 3 })
    else s
  | none => s

/-- Whether the head flip's fences are all met; none when one is abandoned (R346). -/
def flipReady (s : State) (f : Flip) : Option Bool :=
  let w := f.layers.filter (fun e => lWaitEn e.2.desc)
  if w.any (fun e => (fenceOf s (lWaitFence e.2.desc)).abandoned) then none
  else some (w.all (fun e => fenceMet s (lWaitFence e.2.desc) (lWaitVal e.2.desc)))

/-- Take ready flips from the head of the queue, discarding abandoned ones (R346). -/
def takeFlips : Nat → State → Nat → State
  | 0, s, _ => s
  | k + 1, s, n =>
    match (pipeOf s n).flips with
    | [] => s
    | f :: rest =>
      match flipReady s f with
      | none => takeFlips k (flipDiscard (modPipe s n (fun p => { p with flips := rest })) f) n
      | some true => takeFlips k (modPipe s n (fun p => { p with flips := rest, taken := p.taken ++ [f] })) n
      | some false => s

/-- A pose record accepted for a layer: whole, valid generation, matching tag (R349). -/
def poseRead (s : State) (owner : Nat) (l : Layer) : Option (BitVec 288) × State :=
  match l.pose with
  | none => (none, s)
  | some (_, base, _) =>
    let (d, s) := portRead s owner base 64
    let r : BitVec 512 := BitVec.ofNat 512 (leNat d)
    let g := bits r 63 0
    (if g = bits r 511 448 && g != 0 && g != 2 ^ 64 - 1 && bits r 447 416 = bits l.desc 191 160 then
      some (BitVec.ofNat 288 (bits r 415 128))
    else none, s)

/-- Late re-projection of the layers no taken flip names (R349). -/
def reproject (s : State) (n : Nat) : State :=
  let p := pipeOf s n
  (p.layers.filter (fun e => lEn e.2.desc && lReproj e.2.desc && !p.taken.any (fun f => thas f.layers e.1))).foldl
    (fun s e =>
      match poseRead s p.owner e.2 with
      | (some h, s) => modPipe s n (fun p => { p with layers := tupd p.layers e.1 (fun l => { l with warp := some h }) })
      | (none, s) => s) s

/-- A lead point (R346, R349). -/
def leadPointOp (s : State) (n : Nat) : State :=
  let p := pipeOf s n
  if fnOn s (8 + n) && p.conf.isSome then reproject (takeFlips (p.flips.length) s n) n else s

/-- Put a taken flip into force: replaced images are released, its fence signals (R346). The
reference on wb_fence, the last of its fences, stays until the write-back ends. -/
def flipShow (n : Nat) (s : State) (f : Flip) : State :=
  let old := ((pipeOf s n).layers.filter (fun e => thas f.layers e.1)).map (·.2)
  let s := modPipe s n fun p => { p with
    layers := layersAfter p.layers f.layers
    wb := if fWbEn f.hdr then p.wb ++ [f] else p.wb }
  let s := old.foldl layerRelease s
  let held := if fWbEn f.hdr then f.fences.dropLast else f.fences
  held.foldl fenceUnref (flipSignal s f false)

/-- The flatten set: layers 0 to k − 1, k at least 2, all enabled and static, with gen (R347). -/
def flattenSet (ls : Tab Layer) : List (Nat × Nat) :=
  let run := ((List.range 8).map (tfind ls)).takeWhile
    (fun l => l.any (fun l => lEn l.desc && lStatic l.desc))
  let set := (run.zipIdx).map fun (l, i) => (i, (l.map (fun l => lGen l.desc)).getD 0)
  if set.length < 2 then [] else set

/-- A late or unreadable pixel: the frame counts once (R352). -/
def underrunOp (s : State) (n : Nat) : State :=
  if (pipeOf s n).badFrame || !fnOn s (8 + n) then s
  else event (modPipe s n (fun p => { p with badFrame := true, underruns := p.underruns + 1 }))
    0x0033 0 9 n 0 n none

/-- Writes of a pipe, in order, up to one that makes its owner LOST. -/
def pipeWrites (s : State) (n : Nat) (ws : List (Nat × List Byte)) : State :=
  let o := (pipeOf s n).owner
  ws.foldl (fun t w => if (ctxOf t o).st = (ctxOf s o).st then portWrite t o 9 n w.1 w.2 else t) s

/-- The flatten set has changed: its blend is written into the cache in this frame (R347). -/
def cacheWrite (s : State) (n : Nat) : State :=
  let p := pipeOf s n
  match p.conf with
  | some c => pipeWrites { s with free := s.free + 2 ^ 33 } n
      ((List.range (cVact c)).map fun y => (cacheAt p c 0 y, flattenLine s p c y))
  | none => s

/-- Compose the frame of each flip whose write-back has not been composed (R350). -/
def frameTake (s : State) (n : Nat) : State :=
  let p := pipeOf s n
  match p.conf with
  | some c =>
    if p.wb.all (·.frame.isSome) then s
    else
      let fr (f : Flip) : List (List Nat) × Bool := writeBackFrame s n p c (bits f.hdr 375 372)
      let bad := p.wb.any (fun f => f.frame.isNone && (fr f).2)
      let s := modPipe { s with free := s.free + 2 ^ 33 } n fun p => { p with
        wb := p.wb.map (fun f => if f.frame.isNone then { f with frame := some (fr f).1 } else f) }
      if bad then underrunOp s n else s
  | none => s

/-- What a vblank puts into force besides the flips: LUTs, configuration, the cache's use (R339, R343, R347). -/
def vblankPipe (p : Pipe) : Pipe :=
  let p := match p.lutPend with
    | some (a, b) => { p with lutPre := a, lutPost := b, lutPend := none }
    | none => p
  let p := match p.confPend with
    | some c => { p with conf := some c, confPend := none }
    | none => p
  let f := if p.cacheObj.isSome then flattenSet p.layers else []
  { p with
    frames := p.frames + 1
    badFrame := false
    reproj := p.layers.any (fun e => lEn e.2.desc && e.2.warp.isSome)
    cache := !f.isEmpty && f == p.flat
    flat := f }

/-- Vblank (R337, R339, R343, R346, R347, R350). A pipe without a configuration has no timing (R339). -/
def vblankOp (s : State) (n : Nat) : State :=
  if !fnOn s (8 + n) || (pipeOf s n).conf.isNone then s
  else
    let p := pipeOf s n
    let s := if p.ownPend then pipeClear s n
      else p.taken.foldl (flipShow n) (modPipe s n (fun p => { p with taken := [] }))
    let s := frameTake (modPipe s n vblankPipe) n
    if (pipeOf s n).flat.isEmpty || (pipeOf s n).cache then s else cacheWrite s n

/-- Where a line's pixels of a write-back lie: whole for the linear layout, 32 to a tile else (Table 17-7). -/
def wbPieces (hdr : BitVec 512) (base y : Nat) (px : List Nat) : List (Nat × List Byte) :=
  let off := base + bits hdr 433 394
  let bytes (l : List Nat) : List Byte := l.flatMap (fun v => natBytes v 4)
  if bits hdr 377 376 = 2 then [(off + bits hdr 393 378 * 64 * y, bytes px)]
  else
    let tx := ceilDiv px.length 32
    (List.range tx).map fun t =>
      (off + 4096 * (y / 32 * tx + t) + 128 * (y % 32), bytes ((px.drop (32 * t)).take 32 ++ List.replicate (32 * (t + 1) - px.length) 0))

/-- Bytes of the pad lines of the last tile row. -/
def wbPad (hdr : BitVec 512) (base : Nat) (frame : List (List Nat)) : List (Nat × List Byte) :=
  let w := (frame.headD []).length
  if bits hdr 377 376 = 2 then []
  else (List.range' frame.length (ceilDiv frame.length 32 * 32 - frame.length)).flatMap fun y =>
    wbPieces hdr base y (List.replicate w 0)

/-- A write-back frame ends: its lines, or those it has when it is late, land in the object, and its fence
signals (R350). -/
def writeBackOp (s : State) (n lines : Nat) (late : Bool) : State :=
  match (pipeOf s n).wb with
  | [] => s
  | f :: rest =>
    let s := modPipe s n (fun p => { p with wb := rest })
    let fr := f.frame.getD []
    let s := match f.wb with
      | some (_, base, _) =>
        let all := (fr.zipIdx).map fun e => wbPieces f.hdr base e.2 e.1
        let ws := if late then (all.take lines).flatten else all.flatten ++ wbPad f.hdr base fr
        pipeWrites s n ws
      | none => s
    let s := fenceSignal s (fWbFence f.hdr) (fWbVal f.hdr) late
    let s := if late then underrunOp s n else s
    fenceUnref (dropRef s f.wb) (fWbFence f.hdr)

/-- A hot-plug change (R351). -/
def hpdOp (s : State) (n : Nat) (level : Bool) : State :=
  if n < 2 && (pipeOf s n).hpd != level then
    event (modPipe s n (fun p => { p with hpd := level })) 0x0033 0 9 n 0 (n + 256) none
  else s

/-! ## Meanings -/

/-- DC_PIPE_WRITE (R337). -/
def execDcPipeWrite (pipe : Nat) (val : W64) (mask : Byte) (s : State) : Host.Outcome State Fault Refusal :=
  onLive s (dcPipeWrite s pipe val mask)

/-- CONFIG (R339). -/
def execConfig (pipe issuer : Nat) (tag : BitVec 4) (pbPage : Nat) (s : State) :
    Host.Outcome State Fault Refusal :=
  onLive s (dcCmdWrite s pipe issuer (cmdWord pbPage 1 tag.toNat) { code := 3, data := [] })

/-- FLIP (R345). -/
def execFlip (pipe issuer : Nat) (tag : BitVec 4) (pbPage : Nat) (s : State) :
    Host.Outcome State Fault Refusal :=
  onLive s (dcCmdWrite s pipe issuer (cmdWord pbPage 2 tag.toNat) { code := 3, data := [] })

/-- LUT (R343). -/
def execLut (pipe issuer : Nat) (tag : BitVec 4) (pbPage : Nat) (s : State) :
    Host.Outcome State Fault Refusal :=
  onLive s (dcCmdWrite s pipe issuer (cmdWord pbPage 3 tag.toNat) { code := 3, data := [] })

/-- SIDEBAND (R351). -/
def execSideband (pipe issuer : Nat) (tag : BitVec 4) (pbPage : Nat) (reply : SideReply) (s : State) :
    Host.Outcome State Fault Refusal :=
  onLive s (dcCmdWrite s pipe issuer (cmdWord pbPage 4 tag.toNat) reply)

/-- LINK_TRAINED (R339). -/
def execLinkTrained (pipe lanes rateMbps : Nat) (s : State) : Host.Outcome State Fault Refusal :=
  onLive s (linkTrainedOp s pipe lanes rateMbps)

/-- LEAD_POINT (R346). -/
def execLeadPoint (pipe : Nat) (s : State) : Host.Outcome State Fault Refusal :=
  onLive s (leadPointOp s pipe)

/-- VBLANK (R346). -/
def execVblank (pipe : Nat) (s : State) : Host.Outcome State Fault Refusal := onLive s (vblankOp s pipe)

/-- UNDERRUN (R352). -/
def execUnderrun (pipe : Nat) (s : State) : Host.Outcome State Fault Refusal := onLive s (underrunOp s pipe)

/-- WRITE_BACK_DONE (R350). -/
def execWriteBackDone (pipe lines : Nat) (late : Bool) (s : State) : Host.Outcome State Fault Refusal :=
  onLive s (writeBackOp s pipe lines late)

/-- HPD (R351). -/
def execHpd (pipe : Nat) (level : Bool) (s : State) : Host.Outcome State Fault Refusal :=
  onLive s (hpdOp s pipe level)

end Sys2Proof.Machine
end

