-- ==== Sys2Proof/Machine/Capture.lean ====
section
/-! DEFINITION. Capture.lean: the four capture ports and the TDM audio port (18). -/

namespace Sys2Proof.Machine

/-- Whether a capture port belongs to a context's partition (R355). -/
def capShows (s : State) (n ctx : Nat) : Bool :=
  (partRec s (ctxOf s ctx).part).any (fun p => p.capMask.getLsbD n) && (ctxOf s ctx).st != .free

/-- Whether the audio port belongs to a context's partition (R355). -/
def audShows (s : State) (ctx : Nat) : Bool :=
  (partRec s (ctxOf s ctx).part).any (·.aud) && (ctxOf s ctx).st != .free

/-- Whether a range lies in the stacked-store range of a context's partition (R355). -/
def inSsRange (s : State) (ctx a n : Nat) : Bool :=
  (partRec s (ctxOf s ctx).part).any (fun p => inside a n (ssRange p).1 (ssRange p).2)

/-! ## Capture ports -/

/-- Stored bytes per pixel of a data type; 0 for a type the port does not take (Table 18-1). -/
def dtBytes (dt : Nat) : Nat :=
  match dt with
  | 0x2A => 1 | 0x2B => 2 | 0x2C => 2 | 0x1E => 2 | 0x24 => 4
  | _ => 0

/-- A pixel as stored (Table 18-1). -/
def dtPixel (dt p : Nat) : List Byte :=
  match dt with
  | 0x2A => natBytes (p % 256) 1
  | 0x2B => natBytes (p % 1024) 2
  | 0x2C => natBytes (p % 4096) 2
  | 0x1E => natBytes (p % 65536) 2
  | _ => natBytes (p % 16777216) 4

/-! Fields of the START block (Table 18-2). -/
def kNbuf (k : BitVec 256) : Nat := bits k 209 206 + 1
def kFence (k : BitVec 256) : Nat := bits k 223 210
def kDt (k : BitVec 256) : Nat := bits k 205 200
def kVc (k : BitVec 256) : Nat := bits k 199 196
def kStride (k : BitVec 256) : Nat := bits k 191 160
def kWidth (k : BitVec 256) : Nat := bits k 159 147 + 1
def kHeight (k : BitVec 256) : Nat := bits k 146 134 + 1

/-- The checks of a capture START block (R355, R356, Table 18-2). -/
def capBlockOk (s : State) (issuer : Nat) (k : BitVec 256) (len : Nat) : Bool :=
  let b := dtBytes (kDt k)
  b != 0 && decide (kNbuf k ≤ 8 ∧ kStride k % 64 = 0 ∧ kWidth k * kHeight k * b ≤ kStride k) &&
  decide (bits k 133 132 ≤ 2 ∧ 80 ≤ bits k 131 118 ∧ bits k 131 118 ≤ 4500) &&
  decide (kNbuf k * (kStride k + 32) ≤ len) && fenceSig s issuer (kFence k)

/-- START of a capture port (R355). -/
def capStartOp (s : State) (n issuer page : Nat) : Result × State :=
  if (capOf s n).run != 0 then (.bad3, s)
  else if !writePage s page (some issuer) then (.badPage, s)
  else
    let (d, s) := pbTake s (page * 4096) 32
    let k : BitVec 256 := BitVec.ofNat 256 (leNat d)
    match resolve s issuer (bits k 255 224) true true false with
    | none => (.r5, s)
    | some o =>
      if o.remote || !inSsRange s issuer o.base o.len then (.r5, s)
      else if !capBlockOk s issuer k o.len then (.badBlock, s)
      else
        (.ok, modCap (objRef s o.idx) n fun c => { c with
          owner := issuer, run := 1, blk := k, buf := some (o.idx, o.base, o.len), frame := 0,
          cur := none, frames := 0 })

/-- Set CAP_CMD_STAT_n. -/
def setCap (n : Nat) (s : State) (st : CmdStat) : State := modCap s n (fun c => { c with stat := st })

/-- Run a capture command (R354, R355). STOP is the owner's. -/
def capRun (s : State) (n issuer : Nat) (raw : W64) : State :=
  let tag := bits raw 3 0
  match bits raw 7 4 with
  | 1 =>
    let (r, s) := capStartOp s n issuer (bits raw 44 32)
    setCap n s (done tag r 0)
  | 2 =>
    if (capOf s n).run != 0 && (capOf s n).owner != issuer then setCap n s (done tag .bad3 0)
    else setCap n (capHalt s n) (done tag .ok 0)
  | _ => setCap n s (done tag .badOp 0)

/-- A write of CAP_CMD_n (R354, R420). -/
def capCmdWrite (s : State) (n issuer : Nat) (raw : W64) : State :=
  if capShows s n issuer then
    mgmtCmd s (0x200 + 0x20 * n) (issuer + 1) raw (capOf s n).stat (setCap n)
      (fun s => capRun s n issuer raw)
  else s

/-- A frame ends: its status record is written, then the capture fence signals f, with the error bit
when a flag is set (R357, Table 18-3). -/
def capEndFrame (s : State) (n : Nat) (noFe : Bool) : State :=
  let c := capOf s n
  match c.cur, c.buf with
  | some f, some (_, base, _) =>
    let k := c.blk
    let short := f.short || f.lines < kHeight k
    let bad := noFe || f.crc || short || f.long
    let i := (c.frame - 1) % kNbuf k
    let dom := 20 + n
    let rec_ := packNat
      [((stamp s dom).toNat, 192), (dom <<< 48 + f.sof.toNat, 128), (c.frame % 2 ^ 32, 96),
       (f.lines % 65536, 80), (b2n noFe, 3), (b2n f.crc, 2), (b2n short, 1), (b2n f.long, 0)]
    let a := base + kNbuf k * kStride k + 32 * i
    let s := portWrite s c.owner 10 n a (natBytes rec_ 32)
    if (capOf s n).run = 0 then s
    else
      let s := fenceSignal s (kFence k) (BitVec.ofNat 64 c.frame) bad
      modCap s n fun c => { c with
        cur := none, frames := c.frames + 1, errors := if bad then c.errors + 1 else c.errors }
  | _, _ => s

/-- A frame-start packet (R358). -/
def frameStartOp (s : State) (n vc : Nat) : State :=
  let c := capOf s n
  if c.run = 0 || vc != kVc c.blk then s
  else
    let s := if c.cur.isSome then capEndFrame s n true else s
    let now := domCount s (20 + n)
    modCap s n fun c => { c with
      run := 2, frame := c.frame + 1
      cur := some { sof := now, lines := 0, crc := false, short := false, long := false } }

/-- A line packet (R357, R358): line y lands at y·width·pixel bytes of its buffer. -/
def linePacketOp (s : State) (n : Nat) (l : CsiLine) : State :=
  let c := capOf s n
  let k := c.blk
  match c.cur, c.buf with
  | some f, some (_, base, _) =>
    if c.run = 0 then s
    else if l.hdrBad then modCap s n (fun c => { c with cur := some { f with crc := true } })
    else if l.vc != kVc k || l.dt != kDt k then s
    else if l.crcBad then
      modCap s n (fun c => { c with cur := some { f with crc := true, lines := f.lines + 1 } })
    else if kHeight k ≤ f.lines then
      modCap s n (fun c => { c with cur := some { f with long := true, lines := f.lines + 1 } })
    else
      let w := kWidth k
      let a := base + (c.frame - 1) % kNbuf k * kStride k + f.lines * (w * dtBytes (kDt k))
      let s := portWrite s c.owner 10 n a ((l.pixels.take w).flatMap (dtPixel (kDt k)))
      if (capOf s n).run = 0 then s
      else modCap s n fun c => { c with
        cur := some { f with
          lines := f.lines + 1
          short := f.short || l.pixels.length < w
          long := f.long || w < l.pixels.length } }
  | _, _ => s

/-- A frame-end packet (R357). -/
def frameEndOp (s : State) (n vc : Nat) : State :=
  let c := capOf s n
  if c.run = 0 || vc != kVc c.blk then s else capEndFrame s n false

/-! ## Audio port -/

/-! Fields of the audio START block (Table 18-5). -/
def aInMask (k : BitVec 256) : BitVec 32 := BitVec.ofNat 32 (bits k 191 160)
def aOutMask (k : BitVec 256) : BitVec 32 := BitVec.ofNat 32 (bits k 159 128)
def aInFence (k : BitVec 256) : Nat := bits k 127 114
def aOutFence (k : BitVec 256) : Nat := bits k 113 100
/-- Frames per period. -/
def aPeriod (k : BitVec 256) : Nat := bits k 99 88 + 1
def aNper (k : BitVec 256) : Nat := bits k 87 83
/-- Slots of a frame: 8, 16 or 32. -/
def aSlots (k : BitVec 256) : Nat := 8 * 2 ^ bits k 82 81
def aMaster (k : BitVec 256) : Bool := bit k 80

/-- Bytes of a ring of `m` slots a frame (R360). -/
def aRing (k : BitVec 256) (m : Nat) : Nat := aNper k * aPeriod k * m * 4

/-- Checks of the audio START block (R355, R431, Table 18-5). -/
def audBlockOk (s : State) (issuer : Nat) (k : BitVec 256) (inLen outLen : Option Nat) : Bool :=
  s.cfg.mg0 == 1 && decide (bits k 82 81 ≤ 2 ∧ 2 ≤ aNper k ∧ aNper k ≤ 16) &&
  decide ((aInMask k).toNat < 2 ^ aSlots k ∧ (aOutMask k).toNat < 2 ^ aSlots k) &&
  inLen.all (fun n => decide (aRing k (popcount (aInMask k) 32) ≤ n) && fenceSig s issuer (aInFence k)) &&
  outLen.all (fun n => decide (aRing k (popcount (aOutMask k) 32) ≤ n) && fenceWait s issuer (aOutFence k))

/-- A ring handle: none for the null handle, else a stacked-store object with the right (R355). -/
def audRing (s : State) (issuer h : Nat) (r w : Bool) : Option (Option Hit) :=
  if h = 0 then some none
  else match resolve s issuer h r w false with
    | none => none
    | some o => if o.remote || !inSsRange s issuer o.base o.len then none else some (some o)

/-- START of the audio port (R355). -/
def audStartOp (s : State) (issuer page : Nat) : Result × State :=
  if s.aud.run != 0 then (.bad3, s)
  else if !writePage s page (some issuer) then (.badPage, s)
  else
    let (d, s) := pbTake s (page * 4096) 32
    let k : BitVec 256 := BitVec.ofNat 256 (leNat d)
    match audRing s issuer (bits k 255 224) false true, audRing s issuer (bits k 223 192) true false with
    | some i, some o =>
      if !audBlockOk s issuer k (i.map (·.len)) (o.map (·.len)) then (.badBlock, s)
      else
        let three (h : Option Hit) := h.map (fun h => (h.idx, h.base, h.len))
        let hold (s : State) (h : Option Hit) : State :=
          match h with
          | some h => objRef s h.idx
          | none => s
        let s := hold (hold s i) o
        (.ok, { s with aud := { s.aud with
          owner := issuer, run := 1, stopping := false, blk := k, inBuf := three i, outBuf := three o,
          frames := 0, outOn := false, examined := 0, dout := [], underruns := s.aud.underruns } })
    | _, _ => (.r5, s)

/-- Set AUD_CMD_STAT. -/
def setAud (s : State) (st : CmdStat) : State := { s with aud := { s.aud with stat := st } }

/-- Run an audio command (R354, R355). -/
def audRun (s : State) (issuer : Nat) (raw : W64) : State :=
  let tag := bits raw 3 0
  match bits raw 7 4 with
  | 1 =>
    let (r, s) := audStartOp s issuer (bits raw 44 32)
    setAud s (done tag r 0)
  | 2 =>
    if s.aud.run != 0 && s.aud.owner != issuer then setAud s (done tag .bad3 0)
    else setAud (audStopSoon s) (done tag .ok 0)
  | _ => setAud s (done tag .badOp 0)

/-- A write of AUD_CMD (R354, R420). -/
def audCmdWrite (s : State) (issuer : Nat) (raw : W64) : State :=
  if audShows s issuer then
    mgmtCmd s 0x300 (issuer + 1) raw s.aud.stat setAud (fun s => audRun s issuer raw)
  else s

/-- Period (from 1) of the frame about to pass, counted from START. -/
def audPeriod (a : Aud) : Nat := a.frames / aPeriod a.blk + 1

/-- The first frame of an output period: out_fence decides between playback and zeros (R361). -/
def audExamine (s : State) : State :=
  let a := s.aud
  let k := audPeriod a
  if a.run != 0 && a.outBuf.isSome && a.frames % aPeriod a.blk = 0 && a.examined < k then
    let play := fenceMet s (aOutFence a.blk) (BitVec.ofNat 64 k)
    { s with aud := { a with
        examined := k, outOn := play, underruns := if play then a.underruns else a.underruns + 1 } }
  else s

/-- Byte offset in a ring of the frame about to pass (R360). -/
def audAt (a : Aud) (m : Nat) : Nat :=
  ((audPeriod a - 1) % aNper a.blk * aPeriod a.blk + a.frames % aPeriod a.blk) * m * 4

/-- Capture the enabled slots of a frame (R360). -/
def audCapture (s : State) (din : List W32) : State :=
  let a := s.aud
  match a.inBuf with
  | none => s
  | some (_, base, _) =>
    let slots := setBits (aInMask a.blk) 32
    let at_ := base + audAt a slots.length
    let words := slots.flatMap (fun i => natBytes ((din.getD i 0).toNat / 256 * 256) 4)
    let s := portWrite s a.owner 11 0 at_ words
    if s.aud.run = 0 then s
    else if a.frames % aPeriod a.blk = aPeriod a.blk - 1 then
      fenceSignal s (aInFence a.blk) (BitVec.ofNat 64 (audPeriod a)) false
    else s

/-- What AUD_DOUT drives: samples, zeros, or high impedance in slots the mask leaves out (R359 to
R361, Table 18-5). -/
def audDrive (s : State) : List (Option W32) × State :=
  let a := s.aud
  match a.outBuf with
  | none => ((List.range (aSlots a.blk)).map (fun _ => none), s)
  | some (_, base, _) =>
    let slots := setBits (aOutMask a.blk) 32
    let (d, s) := if a.outOn then portRead s a.owner (base + audAt a slots.length) (4 * slots.length)
      else ([], s)
    ((List.range (aSlots a.blk)).map fun i =>
      if slots.contains i then some (BitVec.ofNat 32 (leNat ((d.drop (4 * slots.idxOf i)).take 4) / 256 * 256))
      else none, s)

/-- A TDM frame (R359 to R361). -/
def audioFrameOp (s : State) (f : TdmFrame) : State :=
  if s.aud.run = 0 then s
  else if f.badLen && !aMaster s.aud.blk then
    { s with aud := { s.aud with badFrames := s.aud.badFrames + 1 } }
  else
    let s := audExamine { s with aud := { s.aud with run := 2 } }
    let (d, s) := audDrive s
    let s := if s.aud.run = 0 then s else audCapture s f.din
    if s.aud.run = 0 then s
    else
      let s := { s with aud := { s.aud with dout := d, frames := s.aud.frames + 1 } }
      if s.aud.stopping then audHalt s else s

/-! ## Meanings -/

/-- CAP_START (R355). -/
def execCapStart (port issuer : Nat) (tag : BitVec 4) (pbPage : Nat) (s : State) :
    Host.Outcome State Fault Refusal := onLive s (capCmdWrite s port issuer (cmdWord pbPage 1 tag.toNat))

/-- CAP_STOP (R355). -/
def execCapStop (port issuer : Nat) (tag : BitVec 4) (s : State) : Host.Outcome State Fault Refusal :=
  onLive s (capCmdWrite s port issuer (cmdWord 0 2 tag.toNat))

/-- FRAME_START (R358). -/
def execFrameStart (port vc : Nat) (s : State) : Host.Outcome State Fault Refusal :=
  onLive s (frameStartOp s port vc)

/-- LINE_PACKET (R357). -/
def execLinePacket (port : Nat) (line : CsiLine) (s : State) : Host.Outcome State Fault Refusal :=
  onLive s (linePacketOp s port line)

/-- FRAME_END (R357). -/
def execFrameEnd (port vc : Nat) (s : State) : Host.Outcome State Fault Refusal :=
  onLive s (frameEndOp s port vc)

/-- AUD_START (R355). -/
def execAudStart (issuer : Nat) (tag : BitVec 4) (pbPage : Nat) (s : State) :
    Host.Outcome State Fault Refusal := onLive s (audCmdWrite s issuer (cmdWord pbPage 1 tag.toNat))

/-- AUD_STOP (R355). -/
def execAudStop (issuer : Nat) (tag : BitVec 4) (s : State) : Host.Outcome State Fault Refusal :=
  onLive s (audCmdWrite s issuer (cmdWord 0 2 tag.toNat))

/-- AUDIO_FRAME (R360). -/
def execAudioFrame (f : TdmFrame) (s : State) : Host.Outcome State Fault Refusal :=
  onLive s (audioFrameOp s f)

/-- OUTPUT_PERIOD_START (R361). -/
def execOutputPeriodStart (s : State) : Host.Outcome State Fault Refusal := onLive s (audExamine s)

end Sys2Proof.Machine
end

