-- ==== Sys2Proof/Machine/Deflate.lean ====
section
/-! DEFINITION. Deflate.lean: the stream formats the compression engines read and write (19 R362): raw
DEFLATE decoding, the zlib and gzip headers and trailers, and the two check values. -/

namespace Sys2Proof.Machine

/-! ## Check values (R371) -/

/-- One bit of CRC-32. -/
def crcBits : Nat → Nat → Nat
  | 0, c => c
  | n + 1, c => crcBits n (if c % 2 = 1 then c / 2 ^^^ 0xEDB88320 else c / 2)

/-- CRC-32 of more bytes. -/
def crc32 (c : Nat) (d : List Byte) : Nat :=
  d.foldl (fun c b => crcBits 8 (c ^^^ b.toNat)) (c ^^^ 0xFFFFFFFF) ^^^ 0xFFFFFFFF

/-- Adler-32 of more bytes. -/
def adler32 (c : Nat) (d : List Byte) : Nat :=
  let r := d.foldl (fun (x : Nat × Nat) b =>
    let a := (x.1 + b.toNat) % 65521
    (a, (x.2 + a) % 65521)) (c % 65536, c / 65536)
  r.2 * 65536 + r.1

/-- A number's bytes, most significant first. -/
def beBytes (v n : Nat) : List Byte := (natBytes v n).reverse

/-! ## Raw DEFLATE (RFC 1951) -/

/-- Why decoding stopped: invalid input, or input that ends too soon. -/
inductive Inf where
  | bad | short
  deriving DecidableEq, Repr

/-- The bits of bytes, least significant first. -/
def streamBits (d : List Byte) : List Bool := d.flatMap fun b => (List.range 8).map b.getLsbD

/-- A number of n bits, least significant first. -/
def takeNum : Nat → List Bool → Except Inf (Nat × List Bool)
  | 0, l => .ok (0, l)
  | _ + 1, [] => .error .short
  | n + 1, b :: l => (takeNum n l).map fun r => (b2n b + 2 * r.1, r.2)

/-- Symbols with a code of a length, in order. -/
def symsOf (lens : List Nat) (k : Nat) : List Nat :=
  ((lens.zipIdx).filter (fun e => e.1 == k)).map (·.2)

/-- Decode one symbol of a canonical code: lengths from `k` on, `code` read so far, `first` code of the
length. -/
def decodeSym (lens : List Nat) : Nat → Nat → Nat → Nat → List Bool → Except Inf (Nat × List Bool)
  | 0, _, _, _, _ => .error .bad
  | _ + 1, _, _, _, [] => .error .short
  | f + 1, k, code, first, b :: l =>
    let code := code + b2n b
    let ss := symsOf lens k
    if code < first + ss.length then .ok (ss.getD (code - first) 0, l)
    else decodeSym lens f (k + 1) (2 * code) (2 * (first + ss.length)) l

/-- Decode one symbol. -/
def nextSym (lens : List Nat) (l : List Bool) : Except Inf (Nat × List Bool) := decodeSym lens 15 1 0 0 l

/-- A code's lengths are over-subscribed. -/
def overFull (lens : List Nat) : Bool :=
  decide (2 ^ 15 < ((List.range' 1 15).map (fun k => (symsOf lens k).length * 2 ^ (15 - k))).foldl (· + ·) 0)

/-- Base and extra bits of length codes 257 to 285, and of distance codes 0 to 29. -/
def lenCode (s : Nat) : Option (Nat × Nat) :=
  if s < 257 || 285 < s then none
  else if s = 285 then some (258, 0)
  else if s < 265 then some (s - 254, 0)
  else some (3 + (4 + (s - 261) % 4) * 2 ^ ((s - 261) / 4), (s - 261) / 4)

def distCode (s : Nat) : Option (Nat × Nat) :=
  if 29 < s then none
  else if s < 4 then some (s + 1, 0)
  else some (1 + (2 + s % 2) * 2 ^ (s / 2 - 1), s / 2 - 1)

/-- Order of the code-length code. -/
def clOrder : List Nat := [16, 17, 18, 0, 8, 7, 9, 6, 10, 5, 11, 4, 12, 3, 13, 2, 14, 1, 15]

/-- Code lengths of the code-length code. -/
def clLens : List Nat → Nat → List Bool → List (Nat × Nat) → Except Inf (List (Nat × Nat) × List Bool)
  | [], _, l, acc => .ok (acc, l)
  | _, 0, l, acc => .ok (acc, l)
  | p :: r, n + 1, l, acc =>
    match takeNum 3 l with
    | .error e => .error e
    | .ok (v, l) => clLens r n l (acc ++ [(p, v)])

/-- Code lengths, run-length coded; `acc` holds those read, newest first. -/
def runLens (cl : List Nat) (n : Nat) : Nat → List Bool → List Nat → Except Inf (List Nat × List Bool)
  | 0, _, _ => .error .bad
  | f + 1, l, acc =>
    if n < acc.length then .error .bad
    else if acc.length = n then .ok (acc.reverse, l)
    else match nextSym cl l with
      | .error e => .error e
      | .ok (s, l) =>
        let run (base bits v : Nat) : Except Inf (List Nat × List Bool) :=
          match takeNum bits l with
          | .error e => .error e
          | .ok (x, l) => runLens cl n f l (List.replicate (base + x) v ++ acc)
        if s < 16 then runLens cl n f l (s :: acc)
        else if s = 16 then (if acc.isEmpty then .error .bad else run 3 2 (acc.headD 0))
        else if s = 17 then run 3 3 0 else run 11 7 0

/-- Codes of a dynamic block. -/
def dynCodes (l : List Bool) : Except Inf (List Nat × List Nat × List Bool) :=
  match takeNum 5 l with
  | .error e => .error e
  | .ok (hl, l) =>
    match takeNum 5 l with
    | .error e => .error e
    | .ok (hd, l) =>
      match takeNum 4 l with
      | .error e => .error e
      | .ok (hc, l) =>
        match clLens clOrder (hc + 4) l [] with
        | .error e => .error e
        | .ok (m, l) =>
          let cl := (List.range 19).map fun i => ((m.find? (·.1 == i)).map (·.2)).getD 0
          if overFull cl || 29 < hl || 29 < hd then .error .bad
          else match runLens cl (hl + 257 + hd + 1) 400 l [] with
            | .error e => .error e
            | .ok (ls, l) =>
              let ll := ls.take (hl + 257)
              let dl := ls.drop (hl + 257)
              if overFull ll || overFull dl then .error .bad else .ok (ll, dl, l)

/-- Fixed codes. -/
def fixedLit : List Nat :=
  List.replicate 144 8 ++ List.replicate 112 9 ++ List.replicate 24 7 ++ List.replicate 8 8
def fixedDist : List Nat := List.replicate 30 5

/-! ### A decoder that can stop and go on (R369, R372) -/

/-- A decoder: what is left of its input and the bits taken so far; the block it is in, the final one or not, with
its codes or the bytes left of it; a copy under way; the bytes behind it, newest first, of which some are of the
stream; bytes given since it started; and of each block its kind, where its header began and ended, and what
had been given then. -/
structure InfSt where
  bits   : List Bool
  pos    : Nat
  blk    : Nat := 0
  last   : Bool := false
  ll     : List Nat := []
  dl     : List Nat := []
  left   : Nat := 0
  mLen   : Nat := 0
  mDist  : Nat := 0
  hist   : List Byte := []
  fill   : Nat := 0
  made   : Nat := 0
  blocks : List (Nat × Nat × Nat) := []

/-- Why a decoder stops: invalid input, the end of it, no room, or the end of the final block. -/
inductive InfStop where
  | bad | short | full | fin
  deriving DecidableEq, Repr

/-- Take input up to a rest. -/
def InfSt.to (d : InfSt) (l : List Bool) : InfSt := { d with bits := l, pos := d.pos + (d.bits.length - l.length) }

/-- Give a byte. -/
def InfSt.give (d : InfSt) (b : Byte) : InfSt := { d with hist := b :: d.hist, fill := d.fill + 1, made := d.made + 1 }

/-- An error of a reading step as a stop. -/
def Inf.stop : Inf → InfStop
  | .bad => .bad
  | .short => .short

/-- A block header. -/
def infHead (d : InfSt) : Except InfStop InfSt :=
  match takeNum 3 d.bits with
  | .error e => .error e.stop
  | .ok (h, l) =>
    let s (k : Nat) : InfSt := { d with last := h % 2 == 1, blocks := (h / 2, d.pos, d.made) :: d.blocks, blk := k }
    match h / 2 with
    | 0 =>
      let l := l.drop ((8 - (d.pos + 3) % 8) % 8)
      match takeNum 32 l with
      | .error e => .error e.stop
      | .ok (v, l) =>
        if v % 65536 + v / 65536 != 65535 then .error .bad
        else .ok { (s 1).to l with left := v % 65536 }
    | 1 => .ok { (s 2).to l with ll := fixedLit, dl := fixedDist }
    | 2 => match dynCodes l with
      | .error e => .error e.stop
      | .ok (ll, dl, l) => .ok { (s 3).to l with ll := ll, dl := dl }
    | _ => .error .bad

/-- A symbol of a compressed block. -/
def infSym (cap : Nat) (d : InfSt) : Except InfStop InfSt :=
  match nextSym d.ll d.bits with
  | .error e => .error e.stop
  | .ok (s, l) =>
    if s = 256 then .ok { d.to l with blk := 0 }
    else if d.made = cap then .error .full
    else if s < 256 then .ok ((d.to l).give (BitVec.ofNat 8 s))
    else match lenCode s with
      | none => .error .bad
      | some (lb, le) =>
        match takeNum le l with
        | .error e => .error e.stop
        | .ok (x, l) =>
          match nextSym d.dl l with
          | .error e => .error e.stop
          | .ok (ds, l) =>
            match distCode ds with
            | none => .error .bad
            | some (db, de) =>
              match takeNum de l with
              | .error e => .error e.stop
              | .ok (y, l) =>
                if d.fill < db + y then .error .bad else .ok { d.to l with mLen := lb + x, mDist := db + y }

/-- One step: a byte of a copy or of a stored block, a symbol, or a header. A step that cannot be made takes
nothing. -/
def infStep (cap : Nat) (d : InfSt) : Except InfStop InfSt :=
  if 0 < d.mLen then
    if d.made = cap then .error .full
    else .ok ({ d with mLen := d.mLen - 1 }.give (d.hist.getD (d.mDist - 1) 0))
  else match d.blk with
    | 0 => if d.last then .error .fin else infHead d
    | 1 =>
      if d.left = 0 then .ok { d with blk := 0 }
      else if d.made = cap then .error .full
      else match takeNum 8 d.bits with
        | .error e => .error e.stop
        | .ok (v, l) => .ok ({ d.to l with left := d.left - 1 }.give (BitVec.ofNat 8 v))
    | _ => infSym cap d

/-- Decode until a stop. -/
def infRun (cap : Nat) : Nat → InfSt → InfSt × InfStop
  | 0, d => (d, .short)
  | f + 1, d =>
    match infStep cap d with
    | .error e => (d, e)
    | .ok d => infRun cap f d

/-- Decode as far as input and room allow: a symbol, of at least one bit, gives at most 258 bytes. -/
def infAll (cap : Nat) (d : InfSt) : InfSt × InfStop := infRun cap (260 * (d.bits.length + 3)) d

/-- Data given. -/
def InfSt.data (d : InfSt) : List Byte := (d.hist.take d.made).reverse

/-- Code lengths as a state object holds them: 288 of literals and lengths, 32 of distances (R372). -/
def InfSt.lens (d : InfSt) : List Byte :=
  ((d.ll ++ List.replicate (288 - d.ll.length) 0) ++ (d.dl ++ List.replicate (32 - d.dl.length) 0)).map (BitVec.ofNat 8)

/-- Bytes of bits that stand at a byte boundary. -/
def bitBytes (l : List Bool) : List Byte :=
  (List.range (l.length / 8)).map fun i => BitVec.ofNat 8 (((l.drop (8 * i)).take 8).foldr (fun b a => b2n b + 2 * a) 0)

/-! ## Wrappers (R362, R368) -/

/-- Length of a gzip header from its optional fields on. -/
def gzipRest (d : List Byte) (flg : Nat) : Option Nat :=
  let extra : Option Nat :=
    if flg / 4 % 2 = 0 then some 10
    else if d.length < 12 then none else some (12 + leNat ((d.drop 10).take 2))
  let str (want : Bool) (p : Option Nat) : Option Nat :=
    p.bind fun k => if !want then some k else ((d.drop k).findIdx? (· == 0)).map (k + · + 1)
  let p := str (flg / 16 % 2 == 1) (str (flg / 8 % 2 == 1) extra)
  p.bind fun k =>
    if flg / 2 % 2 = 0 then (if k ≤ d.length then some k else none)
    else if d.length < k + 2 || leNat ((d.drop k).take 2) != crc32 0 (d.take k) % 65536 then none
    else some (k + 2)

/-- Length of the header a reading stream starts with; none where it is cut off or not accepted. -/
def headerLen (wrap : Nat) (d : List Byte) : Option Nat :=
  let b (k : Nat) : Nat := (d.getD k 0).toNat
  match wrap with
  | 0 => some 0
  | 1 =>
    if d.length < 2 || b 0 % 16 != 8 || 7 < b 0 / 16 || b 1 / 32 % 2 == 1 || (b 0 * 256 + b 1) % 31 != 0 then
      none
    else some 2
  | _ =>
    if d.length < 10 || b 0 != 0x1F || b 1 != 0x8B || b 2 != 8 || 32 ≤ b 3 then none else gzipRest d (b 3)

/-- The header a writing stream starts with. -/
def headerBytes (wrap depth : Nat) : List Byte :=
  match wrap with
  | 0 => []
  | 1 => [0x78, if depth = 1 then 0x01 else if depth ≤ 4 then 0x5E else if depth ≤ 7 then 0x9C else 0xDA]
  | _ => [0x1F, 0x8B, 0x08, 0x00, 0x00, 0x00, 0x00, 0x00, 0x00, 0xFF]

/-- Bytes of a trailer. -/
def trailerLen (wrap : Nat) : Nat := match wrap with | 0 => 0 | 1 => 4 | _ => 8

/-- The trailer of a stream with a check value and a number of data bytes. -/
def trailerBytes (wrap check total : Nat) : List Byte :=
  match wrap with
  | 0 => []
  | 1 => beBytes check 4
  | _ => natBytes check 4 ++ natBytes total 4

end Sys2Proof.Machine
end

