-- ==== Sys2Proof/Machine/Functions.lean ====
section
/-! DEFINITION. Functions.lean: the power-gated functions and their transitions (02 R32 to R34, 08 R159,
16 R334, 17 R353, 19 R374, 23 R421). -/

namespace Sys2Proof.Machine

/-- Partitions a function concerns (R421). -/
def fnConcerns (s : State) (n : Nat) : List Partition :=
  s.cfg.parts.filter fun p =>
    if n < 8 then p.idx == n
    else if n < 12 then p.pipeMask.getLsbD (n - 8)
    else if n < 20 then (groupsOf p).contains (n - 12)
    else p.cmpMask.getLsbD (n - 20)

/-- Change a function. -/
def modFn (s : State) (n : Nat) (f : Fn → Fn) : State :=
  { s with pwr := { s.pwr with fns := tmod s.pwr.fns n {} f } }

/-- Entry into ON or OFF: an FN_STATE record and the cause (R33). -/
def fnEnter (s : State) (n : Nat) (st : FnState) : State :=
  raise (event (modFn s n (fun f => { f with st := st })) 0x0021 0 16 0 0 (packNat [(n, 0), (st.code, 8)]) none) .fnState

/-- The rail is set for a starting partition's groups within its cold start (R425, R426). -/
def railStart (s : State) : State :=
  match least ((poweredGroups s).map (demand s.pwr)) with
  | some w => if w < s.pwr.vStep then { s with pwr := { s.pwr with vStep := w } } else s
  | none => s

/-- Entry into STARTING or RESTARTING of a function other than a partition (Table 2-7). -/
def fnBegin (s : State) (n : Nat) (again : Bool) : State :=
  modFn s n fun f => { f with
    st := if again then .restarting else .starting, pending := false
    restarts := if again then satInc f.restarts else f.restarts }

/-- A pipe keeps no layer, no configuration and no link (R353). -/
def pipeOff (s : State) (n : Nat) : State :=
  modPipe (pipeClear s n) n (fun p => { p with conf := none, confPend := none, link := 0 })

/-- A write of en to a function that is no partition (Table 2-7, R353, R374). In RETAIN an enable is
stored, and the function starts once the device is ACTIVE (R30). -/
def fnPlain (s : State) (n : Nat) (en : Bool) : State :=
  let s := modFn s n (fun f => { f with en := en })
  match (fnOf s n).st, en with
  | .off, true =>
    if s.pwr.dev = .active then fnBegin s n false else mgmtWake (modFn s n (fun f => { f with latched := true }))
  | .off, false => modFn s n (fun f => { f with latched := false })
  | .starting, _ => s
  | .restarting, _ => s
  | .on, true => s
  | .on, false =>
    if 8 ≤ n && n < 12 then
      modFn (pipeOff s (n - 8)) n (fun f => { f with st := .stopping })
    else if 20 ≤ n && (tget s.cmps (n - 20) {}).run.isSome then s
    else modFn s n (fun f => { f with st := .stopping })
  | .stopping, e => modFn s n (fun f => { f with pending := e })

/-- Eddy unit groups follow a partition that starts: en = 1 for every group that holds a core of it
(R34). -/
def eddyOn (s : State) (p : Partition) : State := (groupsOf p).foldl (fun s g => fnPlain s (12 + g) true) s

/-- Eddy unit groups follow a partition that stops: en = 0 for every group of it that holds no core of
another partition whose en is 1 (R34). -/
def eddyOff (s : State) (p : Partition) : State :=
  (groupsOf p).foldl (fun s g =>
    if s.cfg.parts.any (fun q => q.idx != p.idx && (fnOf s q.idx).en && (groupsOf q).contains g) then s
    else fnPlain s (12 + g) false) s

/-- A partition enters STARTING or RESTARTING. -/
def partBegin (s : State) (p : Partition) (again : Bool) : State := eddyOn (railStart (fnBegin s p.idx again)) p

/-- A partition stops: every running instance completes with PREEMPTED before it enters STOPPING
(R159); a maintenance operation is waited for (R292). -/
def partStop (s : State) (p : Partition) : State :=
  if s.mem.op.isSome then s
  else
    let s := finishAll s (tkeys s.insts (fun _ x => x.part == p.idx)) .preempted 0xFFFF
    eddyOff (modFn s p.idx (fun f => { f with st := .stopping })) p

/-- Partitions whose stop waited for a maintenance operation. -/
def partsStop (s : State) : State :=
  s.cfg.parts.foldl (fun s p => if (fnOf s p.idx).st = .on && !(fnOf s p.idx).en then partStop s p else s) s

/-- A write of en to a partition (Table 2-7). -/
def partWrite (s : State) (p : Partition) (en : Bool) : State :=
  let n := p.idx
  let s := modFn s n (fun f => { f with en := en })
  match (fnOf s n).st, en with
  | .off, true =>
    if s.pwr.dev = .active then partBegin s p false else mgmtWake (modFn s n (fun f => { f with latched := true }))
  | .off, false => modFn s n (fun f => { f with latched := false })
  | .starting, _ => s
  | .restarting, _ => s
  | .on, true => s
  | .on, false => partStop s p
  | .stopping, e => modFn s n (fun f => { f with pending := e })

/-- PWR_FN_n.en written by the management firmware: a function no configured partition concerns stays
OFF (R34, R421). -/
def fnSet (s : State) (n : Nat) (en : Bool) : State :=
  if n < 8 then
    match partRec s n with
    | some p => partWrite s p en
    | none => s
  else if (fnConcerns s n).isEmpty then s
  else fnPlain s n en

/-- PWR_FN_n.en written through the global register window: only with fn_grant of every partition
concerned (R421). -/
def fnHostSet (s : State) (n : Nat) (en : Bool) : State :=
  if (fnConcerns s n).all (·.fnGrant) then fnSet s n en else s

/-- A starting function's stop (Table 2-7). -/
def fnStop (s : State) (n : Nat) : State :=
  match (if n < 8 then partRec s n else none) with
  | some p => partStop s p
  | none => modFn s n (fun f => { f with st := .stopping })

/-- What STOPPING of a partition leaves zeroed: its cores' storage and prefetch streams; its L2 slices are
written back first (R32, R33, R115, R288). -/
def partZero (s : State) (p : Partition) : State :=
  let s := (tkeys s.mem.l2 (fun k _ => p.chMask.getLsbD (k / 8192))).foldl l2Evict s
  let s := (wcAddrs s (fun l => (chanOf s l).any (fun c => p.chMask.getLsbD c.1))).foldl wcFlush s
  { s with
    cores := s.cores.filter (fun e => !p.coreMask.getLsbD e.1)
    mem := { s.mem with strides := s.mem.strides.map fun e =>
      (e.1, e.2.filter (fun x => !p.coreMask.getLsbD x.core)) } }

/-- STOPPING ends: OFF, or RESTARTING if an enable was latched (Table 2-7). -/
def fnStopped (s : State) (n : Nat) : State :=
  let p? := if n < 8 then partRec s n else none
  let s := match p? with
    | some p => partZero s p
    | none => s
  if (fnOf s n).pending then
    match p? with
    | some p => partBegin s p true
    | none => fnBegin s n true
  else fnEnter s n .off

/-- Whether a trace is in flight on a core of a group (R334). -/
def tracing (s : State) (g : Nat) : Bool := s.fly.traces.any (fun e => e.2.core / 6 == g)

/-- FN_TRANSITION_DONE (R33). A pipe enters ON with every layer disabled, no configuration and frames 0
(R353, Table 17-2). -/
def fnDoneOp (s : State) (n : Nat) : State :=
  let f := fnOf s n
  match f.st with
  | .off => s
  | .on => s
  | .stopping => if 12 ≤ n && n < 20 && tracing s (n - 12) then s else fnStopped s n
  | _ =>
    if f.en then
      let s := fnEnter (if 8 ≤ n && n < 12 then
        modPipe (pipeOff s (n - 8)) (n - 8) (fun p => { p with frames := 0 }) else s) n .on
      if 12 ≤ n && n < 20 then unstallAll s (· == .eddyOff) else s
    else fnStop s n

/-! ## Meanings -/

/-- PWR_FN_WRITE (R33): by the host, whose register is mapped from READY on (R55), or by the management
firmware. -/
def execPwrFnWrite (fn : Nat) (en mgmt : Bool) (s : State) : Host.Outcome State Fault Refusal :=
  onLive s (if mgmt then fnSet s fn en else if s.boot.stage = .ready then fnHostSet s fn en else s)

/-- FN_TRANSITION_DONE (R33). -/
def execFnTransitionDone (fn : Nat) (s : State) : Host.Outcome State Fault Refusal := onLive s (fnDoneOp s fn)

end Sys2Proof.Machine
end

