-- ==== Sys2Proof/Machine/Maint.lean ====
section
/-! DEFINITION. Maint.lean: cache maintenance and the patrol scrub (14 R290 to R292, 22 R405). -/

namespace Sys2Proof.Machine

/-! ## The maintenance block (Table 14-7) -/

def mbLen (b : BitVec 256) : Nat := bits b 255 216
def mbBase (b : BitVec 256) : Nat := bits b 215 176
def mbCount (b : BitVec 256) : Nat := bits b 127 114
def mbSet (b : BitVec 256) : Nat := bits b 113 101
def mbWay (b : BitVec 256) : Nat := bits b 100 97
def mbUnit (b : BitVec 256) : Nat := bits b 69 64
def mbCache (b : BitVec 256) : Nat := bits b 1 0

/-- Sets of a cache: L1 data, L1 instruction, an L2 slice (R285, R288). -/
def setsOf (cache : Nat) : Nat := if cache = 0 then 512 else if cache = 1 then 256 else 8192

/-- Whether a partition owns the unit a cache belongs to. -/
def unitOwned (s : State) (part cache unit : Nat) : Bool :=
  if cache = 2 then decide (unit < 32) && (partRec s part).any (fun p => p.chMask.getLsbD unit)
  else decide (unit < 48) && coreIn s part unit

/-- Whether the fields of a block are in range (R291); reserved bits have no effect (R8). -/
def blockOk (s : State) (part : Nat) (bySet : Bool) (b : BitVec 256) : Bool :=
  mbWay b == 0 &&
  (if bySet then
     decide (mbCache b < 3 ∧ 1 ≤ mbCount b ∧ mbSet b + mbCount b ≤ setsOf (mbCache b)) &&
     unitOwned s part (mbCache b) (mbUnit b)
   else decide (128 ≤ mbLen b ∧ mbLen b % 128 = 0 ∧ mbBase b % 128 = 0) && mbCache b == 0)

/-- Whether a range lies in the segments of a list, one after the other. -/
def covered (l : List Seg) : Nat → Nat → Nat → Bool
  | 0, _, _ => false
  | f + 1, a, n =>
    match l.find? (fun g => g.valid && inside a 1 g.base (g.limit - g.base)) with
    | none => false
    | some g => decide (a + n ≤ g.limit) || covered l f g.limit (n - (g.limit - a))

/-- Whether a range may be maintained for a context: its segments, or its partition's stacked store
(R291). -/
def rangeOk (s : State) (ctx a n : Nat) : Bool :=
  covered (ctxOf s ctx).segs 65 a n ||
  (partRec s (ctxOf s ctx).part).any (fun p => inside a n (ssRange p).1 (ssRange p).2)

/-- The L2 lines at some places, with their tags. -/
def linesAt (s : State) (ks : List Nat) : List (Nat × Nat) :=
  ks.filterMap (fun k => (tfind s.mem.l2 k).map (fun l => (k, l.tag)))

/-- The lines an operation by address acts on, as they stand now. -/
def maintAddr (s : State) (part op a n : Nat) : MaintOp :=
  { clean := op != 2, discard := op != 1, lines := linesAt s (l2Keys s (fun l => overlaps l 128 a n)), l1 := []
    flash := if op = 1 then [] else ((partRec s part).map partCores).getD [] }

/-- The lines an operation by set acts on; INVAL of the L2 cleans first, and every operation on an L1 data cache
invalidates (R291). -/
def maintSet (s : State) (op cache unit set count : Nat) : MaintOp :=
  let sets := List.range' set count
  if cache = 2 then
    { clean := true, discard := op != 1, l1 := [], flash := []
      lines := linesAt s (tkeys s.mem.l2 (fun k _ => decide (k / 8192 = unit) && sets.contains (k % 8192))) }
  else
    { clean := false, discard := false, lines := [], flash := []
      l1 := if op = 1 && cache = 1 then [] else sets.map (fun k => (unit, cache == 1, k)) }

/-- Set MEM_CMD_STAT. -/
def setMemCmd (s : State) (st : CmdStat) : State := { s with mem := { s.mem with stat := st } }

/-- Start a maintenance operation (R290, R291). -/
def memRun (s : State) (r : W64) : State :=
  let tag := bits r 3 0
  let op := bits r 7 4
  let mode := bits r 9 8
  let ctx := bits r 23 14
  let page := bits r 44 32
  let fail (s : State) (x : Result) : State := setMemCmd s (done tag x 0)
  if op = 0 || 3 < op then fail s .badOp
  else if (ctxOf s ctx).st != .active then fail s .bad3
  else if !writePage s page (some ctx) then fail s .badPage
  else if 1 < mode then fail s .badBlock
  else
    let (d, s) := pbTake s (page * 4096) 32
    let b : BitVec 256 := BitVec.ofNat 256 (leNat d)
    let part := (ctxOf s ctx).part
    if !blockOk s part (mode == 1) b then fail s .badBlock
    else if mode = 0 && !rangeOk s ctx (mbBase b) (mbLen b) then fail s .r5
    else
      let m := if mode = 0 then maintAddr s part op (mbBase b) (mbLen b)
        else maintSet s op (mbCache b) (mbUnit b) (mbSet b) (mbCount b)
      { s with mem := { s.mem with stat := { result := s.mem.stat.result, tag := tag, busy := true }
                                   op := some m } }

/-- A write of MEM_CMD (R290). -/
def memCmdWrite (s : State) (view : Nat) (raw : W64) : State :=
  mgmtCmd s 0x4A0 view raw s.mem.stat setMemCmd (fun s => memRun s raw)

/-- Clean one L2 line: written to DRAM, clean and present. A poisoned line is not written back
(R404). -/
def l2Clean (s : State) (key : Nat) : State :=
  match tfind s.mem.l2 key with
  | none => s
  | some l =>
    match l2Addr s key l.tag with
    | none => s
    | some a =>
      if l.dirty && !s.mem.poison.any (fun w => inside w 8 a 128) then
        dramPut { s with mem := { s.mem with l2 := tput s.mem.l2 key { l with dirty := false } } } a l.data
      else s

/-- Discard one L2 line without writing it back; its poisoned words go with it. -/
def l2Discard (s : State) (key : Nat) : State :=
  let at_ := match tfind s.mem.l2 key with
    | none => none
    | some l => l2Addr s key l.tag
  { s with mem := { s.mem with
    l2 := tdel s.mem.l2 key
    poison := s.mem.poison.filter (fun w => !at_.any (fun a => inside w 8 a 128)) } }

/-- The listed lines that are still present. -/
def MaintOp.left (m : MaintOp) (s : State) : List Nat :=
  (m.lines.filter (fun e => (tfind s.mem.l2 e.1).any (fun l => l.tag == e.2))).map (·.1)

/-- MAINTENANCE_DONE: the walk and the write-backs have ended; a partition disable that waited goes on
(R292). -/
def maintDoneOp (s : State) : State :=
  match s.mem.op with
  | none => s
  | some m =>
    let s := if m.clean then (m.left s).foldl l2Clean s else s
    let s := if m.discard then (m.left s).foldl l2Discard s else s
    let s := m.l1.foldl (fun s e => modCore s e.1 (fun c =>
      if e.2.1 then { c with l1i := tdel c.l1i e.2.2 } else { c with l1 := tdel c.l1 e.2.2 })) s
    let s := m.flash.foldl l1Flash s
    partsStop { s with mem := { s.mem with op := none, stat := { s.mem.stat with result := .ok, busy := false } } }

/-! ## Patrol scrub (R405) -/

/-- The context whose segment or object holds an address, if there is one. -/
def ownerOf (s : State) (a : Nat) : Option Nat :=
  match (s.ctxs.find? (fun e => e.2.segs.any (fun g => g.valid && inside a 1 g.base (g.limit - g.base)))) with
  | some (c, _) => some c
  | none => ((s.objs.map (·.2)).find? (fun o => o.st != .free && inside a 1 o.base o.len)).map (·.owner)

/-- Mark a word poisoned (R404). -/
def poisonWord (s : State) (a : Nat) : State :=
  if s.mem.poison.contains a then s else { s with mem := { s.mem with poison := a :: s.mem.poison } }

/-- PATROL_SCRUB of the stacked-store line at an offset: corrected words are rewritten in place with a
record each, uncorrectable ones are poisoned with a SCRUB_UE. The syndrome of a corrected word is a
free value (log 8). -/
def scrubOp (s : State) (line : Nat) (ce ue : List Nat) : State :=
  let base := ssStart + line * 128
  let s := (ce.filter (· < 16)).foldl (fun s w =>
    let (v, s) := takeFree s
    errWrite s (mkErr s 1 0x0001 0 1 (ssSlice base) (base + 8 * w) (v.toNat % 256) none)) s
  (ue.filter (· < 16)).foldl (fun s w =>
    let a := base + 8 * w
    let own := ownerOf s a
    event (poisonWord s a) 0x0003 0 1 (ssSlice base) a (own.getD 0x3FF) own) s

/-- A MEM_CMD word. -/
def memWord (tag : BitVec 4) (op ctx mode page : Nat) : W64 :=
  BitVec.ofNat 64 (packNat [(page, 32), (ctx, 14), (mode, 8), (op, 4), (tag.toNat, 0)])

/-! ## Meanings -/

/-- CLEAN (R291). -/
def execClean (tag : BitVec 4) (ctx mode pbPage : Nat) (s : State) : Host.Outcome State Fault Refusal :=
  onLive s (memCmdWrite s 0 (memWord tag 1 ctx mode pbPage))

/-- INVAL (R291). -/
def execInval (tag : BitVec 4) (ctx mode pbPage : Nat) (s : State) : Host.Outcome State Fault Refusal :=
  onLive s (memCmdWrite s 0 (memWord tag 2 ctx mode pbPage))

/-- CLEAN_INVAL (R291). -/
def execCleanInval (tag : BitVec 4) (ctx mode pbPage : Nat) (s : State) : Host.Outcome State Fault Refusal :=
  onLive s (memCmdWrite s 0 (memWord tag 3 ctx mode pbPage))

/-- MAINTENANCE_DONE (R292). -/
def execMaintenanceDone (s : State) : Host.Outcome State Fault Refusal := onLive s (maintDoneOp s)

/-- PATROL_SCRUB (R405). -/
def execPatrolScrub (line : Nat) (correctable uncorrectable : List Nat) (s : State) :
    Host.Outcome State Fault Refusal := onLive s (scrubOp s line correctable uncorrectable)

end Sys2Proof.Machine
end

