-- ==== Sys2Proof/Machine/Raster.lean ====
section
/-! DEFINITION. Raster.lean: DRAW nodes, the binner and the bin pool, tiles, and the raster
instructions (15). -/

namespace Sys2Proof.Machine

/-! ## Start of a DRAW node (R299 to R301) -/

/-- A handle record in the parameter block: its object's base, and the object's length (R138). -/
def handleRec (s : State) (g : Graph) (off : Nat) : Nat × Nat :=
  let v := dmNum s (g.param (8 * off)) 16
  (v / 2 ^ 64 % 2 ^ 40, (tget s.objs (v % 262144) {}).len)

def pdSpill (d : BitVec 1024) : Nat := bits d 127 115
def pdPool (d : BitVec 1024) : Nat := bits d 114 102
def pdGeom (d : BitVec 1024) : Nat := bits d 101 89
def pdList (d : BitVec 1024) : Nat := bits d 88 76
/-- Handle record of an attachment. -/
def attRec (w : Nat) : Nat := w % 8192

/-- Handle records a pass names. -/
def pdRecs (d : BitVec 1024) : List Nat :=
  [pdList d, pdGeom d, pdPool d] ++ (if 0 < pdSlog d then [pdSpill d] else []) ++
    (pdAtts d).map (fun i => attRec (pdAtt d i))

/-- Bytes per sample of some attachments together. -/
def attsB (d : BitVec 1024) (l : List Nat) : Nat := (l.map (fun i => pxBytes (attFmt (pdAtt d i)))).foldl (· + ·) 0

/-- Bytes of one tile's working buffer (R305). -/
def tileBytes (d : BitVec 1024) : Nat := 1024 * pdSamples d * attsB d (pdAtts d)

/-- Attachment word i in range (Tables 15-3, 15-4). -/
def attOk (d : BitVec 1024) (i : Nat) : Bool :=
  let w := pdAtt d i
  w / 2 ^ 26 == 0 && w / 2 ^ 13 % 16 == 0 && (colourFmt (attFmt w) || depthFmt (attFmt w)) &&
  decide (attLoad w ≤ 2 ∧ attStore w ≤ 1) && (i != 4 || !attComp w) &&
  (!(pdAtts d).contains i || (if i = 4 then depthFmt (attFmt w) else colourFmt (attFmt w)))

/-- Fields of Tables 15-2 and 15-3 in range, reserved bits zero. -/
def passFieldsOk (d : BitVec 1024) : Bool :=
  zeroField d 1023 768 && zeroField d 59 40 && decide (pdSlog d ≤ 3 ∧ pdNcol d ≤ 4 ∧ 1 ≤ pdWidth d ∧
    pdWidth d ≤ 8192 ∧ 1 ≤ pdHeight d ∧ pdHeight d ≤ 8192 ∧ 1 ≤ pdNdraw d) && (List.range 5).all (attOk d)

/-- Bytes an attachment object must hold (R300, R316). -/
def attBytes (d : BitVec 1024) (i : Nat) : Nat :=
  let w := pdAtt d i
  let b := pxBytes (attFmt w)
  let t := pdTiles d
  if i = 4 then 1024 * b * pdSamples d * t
  else if attComp w then ceilDiv (16 * t) 4096 * 4096 + 1024 * b * t else 1024 * b * t

/-- A draw record inside Table 15-5. -/
def drawOk (d : BitVec 512) : Bool :=
  zeroField d 383 378 && zeroField d 344 344 && zeroField d 319 312 && zeroField d 179 176 && zeroField d 95 0 &&
  decide (drCull d ≤ 2 ∧ drNvar d ≤ 16 ∧ 1 ≤ drInst d ∧ bits d 183 182 ≤ 2 ∧ bits d 181 180 ≤ 1) &&
  (List.range 4).all (fun i => drBlend d i / 2 ^ 9 % 8 == 0 && decide (drBlend d i % 8 ≤ 5))

/-- Draw record i, as the list holds it. -/
def drawAt (s : State) (base i : Nat) : BitVec 512 := BitVec.ofNat 512 (dmNum s (base + 64 * i) 64)

/-- Bytes of the working buffers of a partition's cores: W. -/
def pdBuffers (s : State) (part : Nat) (d : BitVec 1024) : Nat :=
  ((partRec s part).map (fun p => (partCores p).length)).getD 0 * tileBytes d

/-- Checks of R301 on objects and draw records. -/
def passOk (s : State) (g : Graph) (part : Nat) (d : BitVec 1024) (draws : List (BitVec 512)) : Bool :=
  let (pool, plen) := handleRec s g (pdPool d)
  (pdAtts d).all (fun i => decide (attBytes d i ≤ (handleRec s g (attRec (pdAtt d i))).2)) &&
  (partRec s part).any (fun p => inside pool plen (ssRange p).1 (ssRange p).2 &&
    decide (pdBuffers s part d + 524288 ≤ plen)) &&
  (pdSlog d == 0 || decide (pdTiles d * tileBytes d ≤ (handleRec s g (pdSpill d)).2)) &&
  draws.all (fun r => drawOk r && (pdDepth d || (!drSEn r && !drZTest r)))

/-- The 64 KiB chunks of a range. -/
def chunksOf (a n : Nat) : List Nat := (List.range (n / 65536)).map (fun i => a + 65536 * i)

/-- What a failing access of a DRAW node does: refused under R106, or a memory error. -/
def drawFail (s : State) (inst ctx : Nat) (e : Nat × Option MemFault) : State :=
  match e.2 with
  | none => fixedFault s ctx 15 0 .boundFault e.1 (some inst)
  | some m => hwFault s ctx m (some inst)

/-- TCLK a node waits for a grant (Table 15-1). -/
def growTclk (n : BitVec 512) : Nat := (if bits n 399 384 = 0 then 1368 else bits n 399 384) * 1024

/-- A new pass in BINNING. -/
def newPass (s : State) (inst node : Nat) (x : Inst) (g : Graph) (d : BitVec 1024) (draws : List (BitVec 512)) : Pass :=
  let (pool, plen) := handleRec s g (pdPool d)
  let w := pdBuffers s x.part d
  let p : Pass :=
    { part := x.part, st := .binning, inst := inst, node := node, ctx := x.ctx, desc := d, draws := draws
      geomAt := (handleRec s g (pdGeom d)).1, poolAt := pool, area := chunksOf (pool + w) (plen - w)
      wait := growTclk (g.nodes.getD node 0), spillAt := (handleRec s g (pdSpill d)).1
      atts := (List.range 5).map (fun i => (handleRec s g (attRec (pdAtt d i))).1)
      pos := none, chunks := chunksOf (pool + w) (plen - w) }
  { p with pos := drawFrom p draws.length 0 }

/-- DRAW_NODE_START: checks, then a new pass in BINNING (R301, R304, R305). -/
def drawStartOp (s : State) (inst node : Nat) : State :=
  match tfind s.insts inst with
  | none => s
  | some x =>
    match graphOf s x with
    | none => s
    | some g =>
      let n := g.nodes.getD node 0
      if nType n = 2 && (x.node node).st = .running && (x.node node).ended = 0 && (passOf s inst node).isNone &&
          partRuns s x.part then
        let at_ := g.param (8 * nPassOff n)
        let d : BitVec 1024 := BitVec.ofNat 1024 (dmNum s at_ 128)
        let list := (handleRec s g (pdList d)).1
        let bad := failInst (nodeEnded s inst node) inst node .formatFault
        match dmFault s at_ 128 with
        | some m => hwFault s x.ctx m (some inst)
        | none =>
          if !passFieldsOk d || !(pdRecs d).all (x.handlePatched.contains ·) then bad
          else match (pdRecs d).findSome? (fun r => dmFault s (g.param (8 * r)) 16) with
            | some m => hwFault s x.ctx m (some inst)
            | none =>
              match (List.range (pdNdraw d)).findSome? (fun i =>
                  (drawCheck s x (list + 64 * i) 64 .rd).map (fun f => (list + 64 * i, f))) with
              | some e => drawFail s inst x.ctx e
              | none =>
                let draws := (List.range (pdNdraw d)).map (drawAt s list)
                if passOk s g x.part d draws then
                  { s with passes := tput s.passes s.orders (newPass s inst node x g d draws), orders := s.orders + 1 }
                else bad
      else s

/-! ## Bin pool (R305 to R309) -/

/-- A write of a pass: checked, then made; a dropped or refused one makes the context LOST (R106, R297). -/
def drawWrite (s : State) (p : Pass) (a : Nat) (d : List Byte) : State :=
  match tfind s.insts p.inst with
  | none => s
  | some x =>
    if d.isEmpty then s
    else match drawCheck s x a d.length .wr with
      | some f => drawFail s p.inst p.ctx (a, f)
      | none => dmWrite s (polAt s p.ctx a) a d

/-- Bytes whose contents are the device's own: they hold free values (log 8). -/
def drawScribble (s : State) (p : Pass) (a n : Nat) : State :=
  let (d, s) := freeBytes s n
  drawWrite s p a d

/-- Reserve objects of a context that no pass uses. -/
def reserveFree (s : State) (ctx : Nat) : List Nat :=
  (ctxOf s ctx).reserve.filter (fun i => !s.passes.any (·.2.taken.contains i))

/-- Chunks of an object. -/
def objChunks (s : State) (i : Nat) : List Nat := chunksOf (tget s.objs i {}).base (tget s.objs i {}).len

/-- Whether records of some sizes find room: in what is left of a chunk, then in whole chunks. -/
def recsFit : List Nat → Nat → Nat → Bool
  | [], _, _ => true
  | n :: r, left, chunks =>
    if n ≤ left then recsFit r (left - n) chunks
    else if 0 < chunks then recsFit r (65536 - n) (chunks - 1) else false

/-- Take reserve objects, in order, until records of some sizes fit (Table 15-9). -/
def takeReserve (s : State) (sizes : List Nat) : List Nat → Pass → Pass × Bool
  | l, p =>
    if recsFit sizes p.left p.chunks.length then (p, true)
    else match l with
      | [] => (p, false)
      | i :: r => takeReserve s sizes r { p with taken := i :: p.taken, chunks := p.chunks ++ objChunks s i }

/-- Room for records, in order, and where each lies. -/
def placeRecs : List Nat → Pass → Pass × List Nat
  | [], p => (p, [])
  | n :: r, p =>
    let (p, a) : Pass × Nat :=
      if n ≤ p.left then ({ p with fill := p.fill + n, left := p.left - n }, p.fill)
      else match p.chunks with
        | [] => (p, 0)
        | c :: r => ({ p with chunks := r, fill := c + n, left := 65536 - n }, c)
    let (p, l) := placeRecs r p
    (p, a :: l)

/-- The most list blocks a triangle takes: with its vertices they fill 512 KiB, which hold a triangle of
any size (R305, log 29). -/
def blockCap : Nat := 8188

/-- Tiles a triangle is listed in. -/
def binTiles (p : Pass) (d : BitVec 512) (t : Tri) : List Nat :=
  if polyCulled d t.poly then [] else polyTiles p.desc d t.poly

/-- Bin the triangle at a place: its vertices' records, unless the list area has them, then its entry in
each tile's list. The answer says whether it found room. -/
def binTri (s : State) (id : Nat) (p : Pass) (c : DrawPos) (t : Tri) : State × Bool :=
  let d := p.draw c.1
  let keys := posKeys s p c
  let tiles := binTiles p d t
  let fresh := if tiles.isEmpty then [] else keys.dedup.filter (!p.recs.contains ·)
  let grow := (tiles.filter (fun k => (tget p.lists k []).length % 15 == 0)).take blockCap
  let sizes := fresh.map (fun _ => 16 + 4 * drNvar d) ++ grow.map (fun _ => 64)
  let (q, ok) := takeReserve s sizes (reserveFree s p.ctx) p
  if !ok then ({ s with passes := tput s.passes id q }, false)
  else
    let (q, l) := placeRecs sizes q
    let own := fun k => (grow.zip (l.drop fresh.length)).find? (fun e => e.1 == k)
    let q := { q with
      tris := q.tris ++ [({ draw := c.1, inst := c.2.1, tri := c.2.2, keys := keys, poly := t.poly } : TriRec)]
      lists := tiles.foldl (fun m k => tput m k (tget m k [] ++ [p.tris.length])) q.lists
      recs := fresh ++ q.recs, pos := nextPos p c
      blocks := (grow.zip (l.drop fresh.length)).foldl (fun m e => tput m e.1 e.2) q.blocks }
    let s := { s with passes := tput s.passes id q }
    let s := (triVerts d c.2.2).foldl (fun s k =>
      if drIdx d = 0 then s else dmTouch s (polAt s p.ctx (p.idxAt d k)) (p.idxAt d k) (drIdx d)) s
    let s := (fresh.zip l).foldl (fun s e =>
      drawWrite s p e.2 ((tget p.verts e.1 []).flatMap (fun v => natBytes v.toNat 4))) s
    (tiles.foldl (fun s k =>
      let s := match tfind p.blocks k with
        | some a => drawScribble s p a 64
        | none => s
      match own k with
      | some e => drawScribble s p e.2 64
      | none => s) s, true)

/-- Bin triangles in order; stop at the one that finds no room. -/
def binTris (id : Nat) : List Tri → State → State
  | [], s => s
  | t :: r, s =>
    match tfind s.passes id with
    | none => s
    | some p =>
      match p.pos with
      | none => s
      | some c =>
        let (s, ok) := binTri s id p c t
        if ok then binTris id r s else modPass s id (fun p => { p with todo := t :: r })

/-- Counts of MEM_BIN_REQ. -/
def modBinReq (s : State) (part : Nat) (f : BinReq → BinReq) : State :=
  { s with binReq := tmod s.binReq part {} f }

/-- Growth is requested: pend, waits, an event record and cause bin_grow (Table 15-9). -/
def growWait (s : State) (id : Nat) (p : Pass) : State :=
  let s := { s with passes := tput s.passes id { p with
      st := .growWait, expired := false, reqAt := s.orders, asked := now35 s }
                    orders := s.orders + 1 }
  let s := modBinReq s p.part (fun b => { b with waits := b.waits + 1 })
  raise (event s 0x0031 0 15 0 0 p.node (some p.ctx)) .binGrow

/-- The binner goes on with a pass: to RENDER after the last draw, to GROW_WAIT when it finds no chunk
(Table 15-9). -/
def binGo (s : State) (id : Nat) : State :=
  let todo := ((tfind s.passes id).map (·.todo)).getD []
  let s := binTris id todo (modPass s id (fun p => { p with todo := [] }))
  match tfind s.passes id with
  | none => s
  | some p =>
    if !p.todo.isEmpty then growWait s id p
    else if p.pos.isNone then modPass s id (fun p => { p with st := .render, next := 0, back := [], finished := [] })
    else s

/-- Start of a flush (Table 15-9). -/
def startFlush (s : State) (id : Nat) : State :=
  match tfind s.passes id with
  | none => s
  | some p =>
    let s := modPass s id (fun p => { p with st := .flush, next := 0, back := [], finished := [], expired := false })
    let s := modBinReq s p.part (fun b => { b with flushes := b.flushes + 1 })
    event s 0x0031 0 15 0 0 (p.node + 65536) (some p.ctx)

/-- An expiry that passed while the binner was yielded starts its flush once the pass holds the binner
(R309). -/
def binSettle (s : State) (part : Nat) : State :=
  match binHolder s part with
  | some (id, p) => if p.st = .growWait && p.expired then startFlush s id else s
  | none => s

/-- Whether triangles can be those of the list from a place on: their vertices are shaded, and each polygon
is one that clipping can leave. -/
def batchOk (s : State) (p : Pass) : Option DrawPos → List Tri → Bool
  | _, [] => true
  | none, _ :: _ => false
  | some c, t :: r =>
    (posStop s p c).isNone && posShaded s p c && polyOk t.poly &&
      clipOk ((posKeys s p c).map (fun k => (tget p.verts k []).take 4)) t.poly && batchOk s p (nextPos p c) r

/-- BIN_BATCH: the partition whose turn it is bins the next triangles, at most 256, of the pass that holds
its binner (R304); a batch that names another pass is none of it. -/
def binBatchOp (s : State) (part : Nat) (tris : List Tri) (pass : Nat) : State :=
  let s := binSettle s part
  match binHolder s part with
  | none => s
  | some (id, p) =>
    if id = pass && p.st = .binning && partRuns s part && rrNext s.rr.bin ((List.range 8).filter (binPending s)) == some part &&
        decide (tris.length ≤ 256) && (p.todo.isEmpty || tris.isEmpty) then
      let t := { s with rr := { s.rr with bin := part } }
      match p.pos.bind (fun c => posStop s p c) with
      | some e => drawFail t p.inst p.ctx e
      | none =>
        if batchOk s p p.pos tris then binSettle (binGo (modPass t id (fun p => { p with todo := p.todo ++ tris })) id) part
        else s
    else s

/-- TCLK since a pass asked for growth. -/
def waited (s : State) (p : Pass) : Nat := (now35 s - p.asked).toNat

/-- Pass of a partition whose grow timer has run out, the one that ran out first. -/
def growing (s : State) (part : Nat) : Option (Nat × Pass) :=
  (s.passes.filter (fun e => e.2.part == part && e.2.st == .growWait && !e.2.expired &&
      decide (e.2.wait < waited s e.2))).foldl (fun b e =>
    match b with
    | none => some e
    | some x => if waited s x.2 - x.2.wait < waited s e.2 - e.2.wait then some e else some x) none

/-- GROW_WAIT_EXPIRE (R307, R309). -/
def growExpireOp (s : State) (part : Nat) : State :=
  let s := binSettle s part
  match growing s part with
  | none => s
  | some (id, _) => binSettle (modPass s id (fun p => { p with expired := true })) part

/-- FLUSH_END: every tile with entries is stored; the list area is reset and binning goes on (R307,
R308). -/
def flushEndOp (s : State) (part : Nat) : State :=
  let s := binSettle s part
  match binHolder s part with
  | none => s
  | some (id, p) =>
    if p.st = .flush && p.owners.isEmpty && (tkeys p.lists (fun _ l => !l.isEmpty)).all (p.finished.contains ·) then
      let s := modPass s id (fun p => { p with
        st := .binning, chunks := p.area ++ p.taken.reverse.flatMap (objChunks s), fill := 0, left := 0, lists := []
        blocks := [], recs := [], tris := [], shaded := [], next := 0, back := [], finished := [], flushed := true })
      binSettle (binGo s id) part
    else s

/-! ## MEM_BIN_CMD (R306) -/

/-- Set MEM_BIN_STAT. -/
def setBinCmd (s : State) (st : CmdStat) : State := { s with binCmd := st }

/-- Pass of a context whose growth request a grant answers: the oldest. -/
def grantee (s : State) (ctx : Nat) : Option (Nat × Pass) :=
  (s.passes.filter (fun e => e.2.ctx == ctx && e.2.st == .growWait && !e.2.expired)).foldl (fun b e =>
    match b with
    | none => some e
    | some x => if e.2.reqAt < x.2.reqAt then some e else some x) none

/-- GRANT: the object joins the reserve, and a pass of the context whose timer runs takes it at once. -/
def grantOp (s : State) (ctx h tag : Nat) : State :=
  let p := partRec s (ctxOf s ctx).part
  match resolve s ctx h true true false with
  | none => setBinCmd s (done tag .badBlock 0)
  | some o =>
    if !p.any (fun p => inside o.base o.len (ssRange p).1 (ssRange p).2) || o.len < 65536 ||
        (ctxOf s ctx).reserve.contains o.idx then setBinCmd s (done tag .badBlock 0)
    else if 8 ≤ (ctxOf s ctx).reserve.length then setBinCmd s (done tag .resource 0)
    else
      let s := modCtx (objRef s o.idx) ctx (fun c => { c with reserve := c.reserve ++ [o.idx] })
      let s := setBinCmd s (done tag .ok 0)
      match grantee s ctx with
      | none => s
      | some (id, p) =>
        let s := modPass s id (fun p => { p with
          st := .binning, taken := o.idx :: p.taken, chunks := p.chunks ++ objChunks s o.idx })
        if (binHolder s p.part).any (·.1 == id) then binSettle (binGo s id) p.part else s

/-- WITHDRAW. -/
def withdrawOp (s : State) (ctx h tag : Nat) : State :=
  let i := h % 262144
  if !(ctxOf s ctx).reserve.contains i || (tget s.objs i {}).gen != h / 262144 then
    setBinCmd s (done tag .badBlock 0)
  else if s.passes.any (·.2.taken.contains i) then setBinCmd s (done tag .r5 0)
  else
    let s := modCtx s ctx (fun c => { c with reserve := c.reserve.filter (· != i) })
    setBinCmd (objUnref s i) (done tag .ok 0)

/-- Carry out a bin command (Table 15-6). -/
def binRun (s : State) (r : W64) : State :=
  let tag := bits r 3 0
  let op := bits r 7 4
  let ctx := bits r 23 14
  if op = 0 || 2 < op then setBinCmd s (done tag .badOp 0)
  else if (ctxOf s ctx).st != .active then setBinCmd s (done tag .bad3 0)
  else if op = 1 then grantOp s ctx (bits r 63 32) tag
  else withdrawOp s ctx (bits r 63 32) tag

/-- A write of MEM_BIN_CMD. -/
def binCmdWrite (s : State) (raw : W64) : State :=
  feCmd s 0x4C0 raw (bits raw 3 0) s.binCmd setBinCmd (fun s => binRun s raw)

/-- A MEM_BIN_CMD word. -/
def binWord (tag : BitVec 4) (op ctx : Nat) (h : W32) : W64 :=
  BitVec.ofNat 64 (packNat [(h.toNat, 32), (ctx, 14), (op, 4), (tag.toNat, 0)])

/-! ## Tiles (R300, R308, R310, R315, R316) -/

/-- Where attachment i of tile t lies: header address (compressed only) and slot address. -/
def attAt (p : Pass) (i t : Nat) : Nat × Nat :=
  let w := pdAtt p.desc i
  let b := pxBytes (attFmt w)
  let base := p.atts.getD i 0
  if i = 4 then (base, base + 1024 * b * pdSamples p.desc * t)
  else if attComp w then (base + 16 * t, base + ceilDiv (16 * pdTiles p.desc) 4096 * 4096 + 1024 * b * t)
  else (base, base + 1024 * b * t)

/-- Bytes of an attachment's slot. -/
def slotBytes (p : Pass) (i : Nat) : Nat :=
  1024 * pxBytes (attFmt (pdAtt p.desc i)) * (if i = 4 then pdSamples p.desc else 1)

/-- Where a flush of a multisampled pass stores attachment i of tile t: tile by tile, attachment by attachment
(a layout of the device's own: log 29). -/
def spillOf (p : Pass) (i t : Nat) : Nat :=
  p.spillAt + tileBytes p.desc * t + 1024 * pdSamples p.desc * attsB p.desc ((pdAtts p.desc).filter (· < i))

/-- Bytes of every sample of an attachment of a tile. -/
def allBytes (p : Pass) (i : Nat) : Nat := 1024 * pdSamples p.desc * pxBytes (attFmt (pdAtt p.desc i))

/-- Values of b bytes in a row. -/
def pxWords (l : List Byte) (b n : Nat) : List Nat := (List.range n).map fun k => leNat ((l.drop (k * b)).take b)

/-- Where the samples of an attachment of a tile are loaded from: the spill object after a flush that stored
the tile there; the attachment where its load field says so, or a flush has forced it (Table 15-9, R308).
Otherwise the tile is not loaded. -/
inductive LoadFrom where
  | spill | attachment | none
  deriving DecidableEq, Repr

def loadFrom (p : Pass) (t i : Nat) : LoadFrom :=
  if p.spilled.contains t then .spill
  else if (p.flushed && pdSlog p.desc == 0) || attLoad (pdAtt p.desc i) == 0 then .attachment else .none

/-- Ranges that loading an attachment of a tile reads. -/
def loadRanges (p : Pass) (t i : Nat) : List (Nat × Nat) :=
  match loadFrom p t i with
  | .spill => [(spillOf p i t, allBytes p i)]
  | .attachment =>
    let (ha, sa) := attAt p i t
    (if i != 4 && attComp (pdAtt p.desc i) then [(ha, 16)] else []) ++ [(sa, slotBytes p i)]
  | .none => []

/-- Samples of an attachment as memory holds them: a colour value stands for every sample of its
pixel. -/
def loadAtt (s : State) (p : Pass) (t i : Nat) : List Nat :=
  let w := pdAtt p.desc i
  let b := pxBytes (attFmt w)
  let n := pdSamples p.desc
  let (ha, sa) := attAt p i t
  if loadFrom p t i = .spill then pxWords (dmRead s (spillOf p i t) (allBytes p i)) b (1024 * n)
  else
    let slot := dmRead s sa (slotBytes p i)
    if i = 4 then pxWords slot b (1024 * n)
    else (if attComp w then tileLoad (attFmt w) (dmNum s ha 16) slot else pxWords slot b 1024).flatMap (List.replicate n ·)

/-- Free samples, for an undefined load (log 8). -/
def freeSamples (s : State) (n : Nat) : List W64 × State :=
  ((List.range n).map (fun k => Config.freeValue (s.free + k)), { s with free := s.free + n })

/-- Fill the working buffer of one attachment of a tile (Table 15-3, R308). -/
def fillAtt (s : State) (id t i : Nat) : State :=
  match tfind s.passes id with
  | none => s
  | some p =>
    let n := 1024 * pdSamples p.desc
    let (l, s) : List W64 × State :=
      if loadFrom p t i != .none then ((loadAtt s p t i).map (BitVec.ofNat 64), s)
      else if attLoad (pdAtt p.desc i) = 1 then
        (List.replicate n (BitVec.ofNat 64 (pdClear p.desc i % 2 ^ (8 * pxBytes (attFmt (pdAtt p.desc i))))), s)
      else freeSamples s n
    let s := (loadRanges p t i).foldl (fun s r => dmTouch s (polAt s p.ctx r.1) r.1 r.2) s
    modPass s id (fun p => { p with buf := tput p.buf (5 * t + i) l })

/-- Next tile of a pass: dropped ones first, then in increasing order; a flush takes only tiles with
entries. -/
def nextTile (p : Pass) : Option (Nat × Pass) :=
  match p.back with
  | t :: r => some (t, { p with back := r })
  | [] =>
    let want (t : Nat) : Bool := p.st == .render || !(tget p.lists t []).isEmpty
    ((List.range' p.next (pdTiles p.desc - p.next)).find? want).map fun t => (t, { p with next := t + 1 })

/-- Passes of a partition that render, in the order of R151. -/
def rendering (s : State) (part : Nat) : List (Nat × Pass) :=
  sortBy (fun a b => match tfind s.insts a.2.inst, tfind s.insts b.2.inst with
      | some x, some y => goesFirst (a.2.inst, x) a.2.node (b.2.inst, y) b.2.node
      | _, _ => false)
    (s.passes.filter (fun e => e.2.part == part && (e.2.st == .render || e.2.st == .flush)))

/-- Working buffer of a core of a pass's partition: one for each core, in order, from the start of the pool
(R305). -/
def bufferOf (s : State) (p : Pass) (core : Nat) : Nat :=
  p.poolAt + tileBytes p.desc * (((partRec s p.part).map (fun q => (partCores q).idxOf core)).getD 0)

/-- TILE_ASSIGN (R310). -/
def tileAssignOp (s : State) (part core : Nat) : State :=
  if !coreIn s part core || !partRuns s part then s
  else
    match (rendering s part).find? (fun e => !thas e.2.owners core && (nextTile e.2).isSome) with
    | none => s
    | some (id, p) =>
      match nextTile p, tfind s.insts p.inst with
      | some (t, q), some x =>
        match ((pdAtts p.desc).flatMap (loadRanges p t)).findSome? (fun r => (drawCheck s x r.1 r.2 .rd).map (r.1, ·)) with
        | some e => drawFail s p.inst p.ctx e
        | none =>
          let s := { s with passes := tput s.passes id { q with owners := tput q.owners core t } }
          let s := (pdAtts p.desc).foldl (fun s i => fillAtt s id t i) s
          drawScribble s p (bufferOf s p core) (tileBytes p.desc)
      | _, _ => s

/-- FP32 mean of a pixel's samples (R315). -/
def meanPx (f : Nat) (l : List Nat) (slog : Nat) : Nat :=
  if slog = 0 then l.headD 0
  else
    let cs := l.map (pxDecode f)
    let scale : W32 := BitVec.ofNat 32 ((127 - slog) * 2 ^ 23)
    pxEncode f ((List.range 4).map fun k =>
      f32Mul (cs.foldl (fun a c => f32Add a (c.getD k 0)) 0) scale)

/-- Whether a pixel of a tile lies inside the pass (R300). -/
def pxInside (p : Pass) (t k : Nat) : Bool :=
  decide (t % pdTilesX p.desc * 32 + k % 32 < pdWidth p.desc ∧ t / pdTilesX p.desc * 32 + k / 32 < pdHeight p.desc)

/-- What a resolve, or a flush, writes of attachment i: (address, bytes) pairs. -/
def attWrites (p : Pass) (i t : Nat) : List (Nat × List Byte) :=
  let w := pdAtt p.desc i
  let b := pxBytes (attFmt w)
  let n := pdSamples p.desc
  let l := (tget p.buf (5 * t + i) []).map (·.toNat)
  let (ha, sa) := attAt p i t
  if i = 4 then
    [(sa, (List.range 1024).flatMap fun k => (List.range n).flatMap fun j =>
      natBytes (if pxInside p t k then l.getD (k * n + j) 0 else 0) b)]
  else
    let px := (List.range 1024).map fun k =>
      if pxInside p t k then meanPx (attFmt w) ((l.drop (k * n)).take n) (pdSlog p.desc) else 0
    if attComp w then
      let (h, d) := tileStore (attFmt w) px
      [(ha, h), (sa, d)]
    else [(sa, px.flatMap (fun v => natBytes v b))]

/-- Write an attachment of a tile. -/
def storeAtt (s : State) (p : Pass) (i t : Nat) : State :=
  (attWrites p i t).foldl (fun s w => drawWrite s p w.1 w.2) s

/-- Store every sample of an attachment of a tile in the spill object (R308). -/
def spillAtt (s : State) (p : Pass) (i t : Nat) : State :=
  let b := pxBytes (attFmt (pdAtt p.desc i))
  drawWrite s p (spillOf p i t) ((tget p.buf (5 * t + i) []).flatMap (fun v => natBytes v.toNat b))

/-- A tile is finished: its core is free and its buffer gone; with the last tile of RENDER the node
completes (Table 15-9). -/
def tileDone (s : State) (id core t : Nat) (spilled : Bool) : State :=
  let s := modPass s id fun p => { p with
    owners := tdel p.owners core, queue := tdel p.queue core, finished := t :: p.finished
    spilled := if spilled then t :: p.spilled else p.spilled
    buf := p.buf.filter (fun e => e.1 / 5 != t) }
  match tfind s.passes id with
  | none => s
  | some p =>
    let s := drawScribble s p (bufferOf s p core) (tileBytes p.desc)
    if p.st = .render && p.finished.length = pdTiles p.desc && thas s.passes id then
      nodeEnded (passDrop s id) p.inst p.node
    else s

/-- A core's tile of a pass has been shaded and merged. -/
def tileReady (p : Pass) (core : Nat) : Bool :=
  match tfind p.owners core with
  | none => false
  | some t => (tileTodo p t).isEmpty && (tget p.queue core []).isEmpty

/-- TILE_RESOLVE: a tile of a core, every fragment of which has been merged, is resolved or, in a
flush, stored (R308, R315). -/
def tileResolveOp (s : State) (part core : Nat) : State :=
  match (rendering s part).find? (fun e => tileReady e.2 core) with
  | none => s
  | some (id, p) =>
    let t := tget p.owners core 0
    if p.st = .flush && 0 < pdSlog p.desc then
      tileDone ((pdAtts p.desc).foldl (fun s i => spillAtt s p i t) s) id core t true
    else
      let which := (pdAtts p.desc).filter (fun i => p.st == .flush || attStore (pdAtt p.desc i) == 0)
      tileDone (which.foldl (fun s i => storeAtt s p i t) s) id core t false

/-! ## Placing raster groups (R303, R310, R311) -/

/-- The lanes of a set-up as a mask. -/
def setupLanes (r : RasSetup) : W32 := maskOf ((r.lanes.map (·.lane)).filter (· < 32)).dedup

/-- What a lane shades: triangle, quad of its tile, and sample. -/
def laneItem (l : RasLane) : Item := (l.tri, l.y % 32 / 2 * 16 + l.x % 32 / 2, l.sample)

/-- Whether lanes make up whole pieces of shading: each piece's quad has its four pixels, once each. -/
def quadsWhole (desc : BitVec 1024) (t : Nat) (ls : List RasLane) : Bool :=
  (ls.map laneItem).dedup.all fun k =>
    let px := (ls.filter (fun l => laneItem l == k)).map (fun l => (l.x, l.y))
    px.length == 4 && (quadPixels desc t k.2.1).all (px.contains ·)

/-- Whether the lanes' provoking-vertex values are those of one vertex of each lane's triangle. -/
def provOk (p : Pass) (ls : List RasLane) : Bool :=
  [0, 1, 2].any fun v => ls.all fun l =>
    match p.tris[l.tri]? with
    | none => false
    | some t => l.prov == (tget p.verts (t.keys.getD v 0) []).drop 4

/-- Whether a fragment group may be placed: 2×2 quads of the tile its core owns, what is left to shade of the
tile in submission order and of one draw, and no earlier group with a test to make before this one's. A group
that tests late, or of an ordered pass, holds no pixel twice. -/
def fragmentOk (p : Pass) (core : Nat) (r : RasSetup) : Bool :=
  (p.st == .render || p.st == .flush) &&
  match tfind p.owners core with
  | none => false
  | some t =>
    let d := p.draw r.draw
    let todo := tileTodo p t
    let items := (r.lanes.map laneItem).dedup
    let top := (items.map (·.1)).foldl max 0
    r.lanes.all (fun l => l.x / 32 < pdTilesX p.desc && p.tileAt l.x l.y == t && l.depth.length == pdSamples p.desc &&
      (p.tris[l.tri]?).any (fun k => k.draw == r.draw)) &&
    quadsWhole p.desc t r.lanes && items.all (todo.contains ·) &&
    todo.all (fun k => top ≤ k.1 || items.contains k) &&
    (r.lanes.zip r.lanes.tail).all (fun e => decide (e.1.tri ≤ e.2.tri)) &&
    ((!pdOrdered p.desc && !drLateZ d) || (r.lanes.map (fun l => (l.x, l.y, l.sample))).Nodup) &&
    provOk p r.lanes && (drLateZ d || (tget p.queue core []).all (·.tested))

/-- Whether a vertex group may be placed: vertices of the next 256 triangles the binner takes (R303, R304). -/
def vertexOk (s : State) (id : Nat) (p : Pass) (r : RasSetup) : Bool :=
  let next := (positions p 256 p.pos).takeWhile (fun c => (posStop s p c).isNone)
  let keys := next.flatMap (posKeys s p)
  p.st == .binning && (binHolder s p.part).any (·.1 == id) &&
    r.lanes.all (fun l => l.vidx < 2 ^ 32 && l.inst < 2 ^ 32 && keys.contains (vertKey r.draw l.inst l.vidx))

/-- Samples of a lane its fragment covers (R303, R314): none makes it a helper (R310). -/
def coverOf (p : Pass) (d : BitVec 512) (l : RasLane) : Byte :=
  let m := triCover p l.tri l.x l.y
  if drPerSample d then m &&& (1#8 <<< l.sample) else m

/-- Put a raster group on a core as a workgroup of one group whose missing lanes have ended. -/
def rasSetup (s : State) (inst : Nat) (x : Inst) (g : Graph) (node core pc : Nat) (helpers : W32) (r : RasSetup) : State :=
  let len := (heldObj s (g.nodes.getD node 0) 0).len
  let f : Form := { need := rasNeed, csize := 1, entry := 0, codeLen := len, stageKib := 0, commitForm := false
                    nosplit := false, argOff := 0 }
  let id := s.orders
  let w := formWg s f inst x g node id core 0 0 (0, 0) (some r)
  let mask := setupLanes r
  let w := { w with start := BitVec.ofNat 24 pc, exited := 32 - popcount mask 32, helpers := helpers }
  let first := !((x.node node).cores.contains core)
  let s := modNode { s with orders := s.orders + 1 } inst node fun n =>
    { n with cores := if n.cores.contains core then n.cores else core :: n.cores }
  let s := setupWg s id w first
  (tkeys s.groups (fun _ g => g.wg == id)).foldl (fun s k => modGroup s k (fun g =>
    { g with exited := ~~~mask, splits := g.splits.map (fun e => (e.1, { e.2 with mask := mask })) })) s

/-- Place a fragment group: its place in the tile's order, and its tests where they run before shading. -/
def placeFragments (s : State) (inst : Nat) (x : Inst) (g : Graph) (node core pid : Nat) (p : Pass) (r : RasSetup) : State :=
  let d := p.draw r.draw
  let t := tget p.owners core 0
  let cover : Tab Byte := r.lanes.foldl (fun m l => tput m l.lane (coverOf p d l)) []
  let helpers := maskOf ((r.lanes.filter (fun l => coverOf p d l == 0)).map (·.lane))
  let m : Merge := { wg := s.orders, setup := r, cover := cover }
  let s := rasSetup s inst x g node core (bits d 311 288) helpers r
  modPass s pid fun p =>
    let (p, m) := if drLateZ d then (p, m) else testGroup p d t m
    { p with queue := tmod p.queue core [] (· ++ [m])
             shaded := tmod p.shaded t [] ((r.lanes.map laneItem).dedup ++ ·) }

/-- WORKGROUP_PLACE of a vertex or fragment group. -/
def rasPlace (s : State) (inst node core : Nat) (r : RasSetup) : State :=
  match tfind s.insts inst, passOf s inst node with
  | some x, some (pid, p) =>
    match graphOf s x with
    | none => s
    | some g =>
      let ok := partRuns s x.part && coreIn s x.part core && (roomOn s core rasNeed).isSome &&
        noneAhead s inst x node core && decide (r.draw < p.draws.length) && r.lanes != [] &&
        r.lanes.all (fun l => l.lane < 32) && decide (r.lanes.map (·.lane)).Nodup
      match r.stage with
      | .vertex =>
        if ok && vertexOk s pid p r then rasSetup s inst x g node core (bits (p.draw r.draw) 343 320) 0 r else s
      | .fragment => if ok && fragmentOk p core r then placeFragments s inst x g node core pid p r else s
  | _, _ => s

/-! ## Raster instructions (R319) -/

/-- The pass and set-up of a raster group at one of the stages given. -/
def rasOf (s : State) (i : Iss) (st : List RasStage) : Option (Nat × Pass × RasSetup) :=
  match i.w.ras, passOf s i.w.inst i.w.node with
  | some r, some (id, p) => if st.contains r.stage then some (id, p, r) else none
  | _, _ => none

/-- Set-up of a lane. -/
def laneOf (r : RasSetup) (l : Nat) : Option RasLane := r.lanes.find? (·.lane == l)

/-- Colour formats, size and layout of a texture level (Table 15-13, R319). -/
def tdFmt (d : BitVec 256) : Nat := bits d 108 105
def tdComp (d : BitVec 256) : Bool := bit d 109
def tdLevels (d : BitVec 256) : Nat := bits d 113 110 + 1
def tdW (d : BitVec 256) (k : Nat) : Nat := max 1 ((bits d 91 79 + 1) / 2 ^ k)
def tdH (d : BitVec 256) (k : Nat) : Nat := max 1 ((bits d 104 92 + 1) / 2 ^ k)

/-- A texture descriptor in range; reserved bits have no effect (R8). -/
def tdOk (d : BitVec 256) : Bool :=
  colourFmt (tdFmt d) &&
  decide (bits d 119 118 ≤ 2 ∧ bits d 117 116 ≤ 2 ∧ bits d 115 114 ≤ 2 ∧ bits d 113 110 ≤ 13 ∧ bits d 39 0 % 4096 = 0)

/-- Tiles and bytes of a level. -/
def tdTiles (d : BitVec 256) (k : Nat) : Nat := ceilDiv (tdW d k) 32 * ceilDiv (tdH d k) 32
def tdBytes (d : BitVec 256) (k : Nat) : Nat :=
  let t := tdTiles d k
  (if tdComp d then ceilDiv (16 * t) 4096 * 4096 else 0) + 1024 * pxBytes (tdFmt d) * t

/-- Address of a level: each begins at the first 4 KiB boundary after the one before. -/
def tdBase (d : BitVec 256) (k : Nat) : Nat :=
  (List.range k).foldl (fun a j => ceilDiv (a + tdBytes d j) 4096 * 4096) (bits d 39 0)

/-- Wrap a coordinate into [0, n): repeat, clamp, mirror. -/
def wrapCoord (mode : Nat) (c : Int) (n : Nat) : Nat :=
  match mode with
  | 0 => (c % (n : Int)).toNat
  | 1 => if c < 0 then 0 else min c.toNat (n - 1)
  | _ =>
    let m := (c % (2 * n : Nat)).toNat
    if m < n then m else 2 * n - 1 - m

/-- A texel: the ranges it reads, and its value. -/
def texel (s : State) (d : BitVec 256) (k : Nat) (x y : Int) : List (Nat × Nat) × Nat :=
  let w := tdW d k
  let h := tdH d k
  let u := wrapCoord (bits d 117 116) x w
  let v := wrapCoord (bits d 119 118) y h
  let t := v / 32 * ceilDiv w 32 + u / 32
  let b := pxBytes (tdFmt d)
  let idx := v % 32 * 32 + u % 32
  let base := tdBase d k
  if tdComp d then
    let ha := base + 16 * t
    let sa := base + ceilDiv (16 * tdTiles d k) 4096 * 4096 + 1024 * b * t
    let hdr := dmNum s ha 16
    match hdr / 2 ^ 62 % 4 with
    | 2 => ([(ha, 16)], hdr / 2 ^ 64 % 2 ^ (8 * b))
    | 1 =>
      let n := min (hdr % 65536 * 128) (1024 * b)
      ([(ha, 16), (sa, n)], (decodeTile (tdFmt d) (leNat (dmRead s sa n))).getD idx 0)
    | _ => ([(ha, 16), (sa + idx * b, b)], dmNum s (sa + idx * b) b)
  else ([(base + 1024 * b * t + idx * b, b)], dmNum s (base + 1024 * b * t + idx * b) b)

/-- Integer coordinates of a lane: as given for `tload`, the texel under a coordinate in [0, 1) for
`tex`. -/
def texCoord (unfiltered : Bool) (v : W32) (n : Nat) : Int :=
  if unfiltered then v.toInt
  else match fpDecode 0 v.toNat with
    | .fin neg m e => fpToInt 3 neg (m * n) e
    | _ => 0

/-- Level of a lane: the integer of `tload`, clamped; level 0 for `tex`, whose level selection the
manual does not give (log 29). -/
def texLevel (unfiltered : Bool) (d : BitVec 256) (v : W32) : Nat :=
  if unfiltered then (if v.toInt < 0 then 0 else min v.toNat (tdLevels d - 1)) else 0

/-- A texture instruction in one lane: the colour, free where filter weights or the level are not given
(log 29). -/
def texLane (s : State) (i : Iss) (unfiltered : Bool) (d : BitVec 256) (l : Nat) : List W32 × State :=
  let k := texLevel unfiltered d (readV i.g (wC i.iw) l)
  let x := texCoord unfiltered (readV i.g (wB i.iw) l) (tdW d k)
  let y := texCoord unfiltered (readV i.g (wB i.iw + 1) l) (tdH d k)
  if unfiltered || (bits d 115 114 == 0 && tdLevels d == 1) then (pxDecode (tdFmt d) (texel s d k x y).2, s)
  else
    ((List.range 4).map (fun c => (Config.freeValue (s.free + c)).setWidth 32), { s with free := s.free + 4 })

/-- Ranges a lane's texel lies in. -/
def texRanges (s : State) (i : Iss) (unfiltered : Bool) (d : BitVec 256) (l : Nat) : List (Nat × Nat) :=
  let k := texLevel unfiltered d (readV i.g (wC i.iw) l)
  (texel s d k (texCoord unfiltered (readV i.g (wB i.iw) l) (tdW d k))
    (texCoord unfiltered (readV i.g (wB i.iw + 1) l) (tdH d k))).1

/-- `tex` and `tload`: the descriptor and the texels are checked (R106). -/
def texOp (unfiltered : Bool) (s : State) (i : Iss) : State :=
  let w := i.iw
  let ls := laneList i.lanes
  let a := readS64 i.g (wA w)
  let regs := [.s (wA w), .s (wA w + 1)] ++ vRegs (wB w) ls ++ vRegs (wB w + 1) ls ++ vRegs (wC w) ls ++
    (List.range 4).flatMap (fun k => vRegs (wD w + k) ls)
  if !sPairOk (wA w) || !vRunOk i (wB w) 2 || !vOk i (wC w) || !vRunOk i (wD w) 4 then badEncoding s i
  else if depends s i (guardRegs i ++ regs) then stall s i .result
  else if ls.isEmpty then advance s i
  else if !wgMay s i.w (a : Nat) 32 .rd then refusedAccess s i (addrNat (a : Nat))
  else
    let d : BitVec 256 := BitVec.ofNat 256 (dmNum s a 32)
    if !tdOk d then badEncoding s i
    else
      let rs := ls.flatMap (texRanges s i unfiltered d)
      match rs.find? (fun r => !wgMay s i.w (r.1 : Nat) r.2 .rd) with
      | some r => refusedAccess s i r.1
      | none =>
        match ((a, 32) :: rs).findSome? (fun r => dmFault s r.1 r.2) with
        | some m => hwFault s i.w.ctx m (some i.w.inst)
        | none =>
          let (ws, s) := ls.foldl (fun (acc : List (RegId × W32) × State) l =>
            let (c, s) := texLane acc.2 i unfiltered d l
            (acc.1 ++ (c.zipIdx).map (fun e => (RegId.v (wD w + e.2) l, e.1)), s)) ([], s)
          advance (modGroup s i.key (fun g => writeRegs g ws)) i

/-- `vout` (R319): outputs of a vertex group. -/
def voutOp (s : State) (i : Iss) : State :=
  let w := i.iw
  let k := wCtl w
  let n := if k = 0 then 4 else 1
  let ls := laneList i.lanes
  match rasOf s i [.vertex] with
  | none => badEncoding s i
  | some (_, p, r) =>
    if 16 < k || !vRunOk i (wA w) n then badEncoding s i
    else if depends s i (guardRegs i ++ (List.range n).flatMap (fun j => vRegs (wA w + j) ls)) then stall s i .result
    else if k != 0 && decide (drNvar (p.draw r.draw) ≤ k - 1) then advance s i
    else
      let slot (j : Nat) : Nat := if k = 0 then j else 3 + k
      let o := (tfind s.fly.ras i.key).getD { out := [] }
      let out := ls.foldl (fun t l => (List.range n).foldl (fun t j =>
        tput t (l * 32 + slot j) (readV i.g (wA w + j) l)) t) o.out
      advance { s with fly := { s.fly with ras := tput s.fly.ras i.key { out := out } } } i

/-- `vin` (R319). -/
def vinOp (s : State) (i : Iss) : State :=
  let w := i.iw
  let ls := laneList i.lanes
  match rasOf s i [.fragment] with
  | none => badEncoding s i
  | some (_, _, r) =>
    if !vOk i (wD w) then badEncoding s i
    else if depends s i (guardRegs i ++ vRegs (wD w) ls) then stall s i .result
    else
      let val (l : Nat) : W32 := match laneOf r l with
        | none => 0
        | some f => (if wCtlBit w 4 then f.prov else f.vars).getD (wCtl w % 16) 0
      advance (modGroup s i.key (fun g => writeRegs g (ls.map (fun l => (.v (wD w) l, val l))))) i

/-- Change the queue entry of the executing fragment group. -/
def modMine (s : State) (pid : Nat) (i : Iss) (f : Merge → Merge) : State := modMerge s pid i.sp.core i.id f

/-- `fout` (R319). -/
def foutOp (s : State) (i : Iss) : State :=
  let w := i.iw
  let ls := laneList i.lanes
  match rasOf s i [.fragment] with
  | none => badEncoding s i
  | some (pid, _, _) =>
    if 3 < wCtl w || !vRunOk i (wA w) 4 then badEncoding s i
    else if depends s i (guardRegs i ++ (List.range 4).flatMap (fun j => vRegs (wA w + j) ls)) then stall s i .result
    else
      advance (modMine s pid i (fun m => { m with
        out := ls.foldl (fun t l => (List.range 4).foldl (fun t j =>
          tput t (l * 16 + wCtl w * 4 + j) (readV i.g (wA w + j) l)) t) m.out })) i

/-- `kill` (R319): the outputs of the lanes are discarded; they run on (log 29). -/
def killOp (s : State) (i : Iss) : State :=
  match rasOf s i [.fragment] with
  | none => badEncoding s i
  | some (pid, _, _) =>
    if depends s i (guardRegs i) then stall s i .result
    else advance (modMine s pid i (fun m => { m with killed := m.killed ||| i.lanes })) i

/-- The executing group's queue, and its own entry. -/
def myQueue (p : Pass) (i : Iss) : List Merge × Option Merge :=
  let l := tget p.queue i.sp.core []
  (l, l.find? (·.wg == i.id))

/-- `aread` (R319): waits until every earlier group of the tile has been merged. -/
def areadOp (s : State) (i : Iss) : State :=
  let w := i.iw
  let ls := laneList i.lanes
  match rasOf s i [.fragment] with
  | none => badEncoding s i
  | some (_, p, r) =>
    let att := wCtl w
    if 3 < att || pdNcol p.desc ≤ att || !vRunOk i (wD w) 4 then badEncoding s i
    else if depends s i (guardRegs i ++ (List.range 4).flatMap (fun j => vRegs (wD w + j) ls)) then stall s i .result
    else if ((myQueue p i).1.takeWhile (·.wg != i.id)) != [] then stall s i .unit
    else
      let t := tget p.owners i.sp.core 0
      let val (l : Nat) : List W32 := match laneOf r l with
        | none => [0, 0, 0, 0]
        | some f => pxDecode (attFmt (pdAtt p.desc att)) (p.sample t att (sampleIdx p.desc f.x f.y f.sample))
      advance (modGroup s i.key (fun g => writeRegs g (ls.flatMap (fun l =>
        (val l).zipIdx.map (fun e => (.v (wD w + e.2) l, e.1)))))) i

/-- `oenter` (R312). -/
def oenterOp (s : State) (i : Iss) : State :=
  match rasOf s i [.fragment] with
  | none => badEncoding s i
  | some (_, p, _) =>
    if depends s i (guardRegs i) then stall s i .result
    else if !pdOrdered p.desc then advance s i
    else match myQueue p i with
      | (l, some m) => if earlierFragment s l m i.w.helpers i.lanes then stall s i .unit else advance s i
      | (_, none) => advance s i

/-- `oexit` (R312). -/
def oexitOp (s : State) (i : Iss) : State :=
  match rasOf s i [.fragment] with
  | none => badEncoding s i
  | some (pid, p, _) =>
    if depends s i (guardRegs i) then stall s i .result
    else if !pdOrdered p.desc then advance s i
    else
      unstallAll (advance (modMine s pid i (fun m => { m with exited := m.exited ||| i.lanes })) i) (· == .unit)

/-- A raster system value of a lane; one that does not apply to the stage reads 0 (R319). -/
def rsvVal (r : Option (Pass × RasSetup)) (k l : Nat) : Nat :=
  match r.bind (fun (p, r) => (laneOf r l).map (fun f => (p, r, f))) with
  | none => 0
  | some (p, r, f) =>
    match r.stage with
    | .vertex => if k = 0 then f.vidx else if k = 1 then f.inst else 0
    | .fragment =>
      match k, p.tris[f.tri]? with
      | 1, some t => t.inst
      | 2, _ => f.x
      | 3, _ => f.y
      | 4, _ => f.sample
      | 5, some t => t.tri
      | 6, some t => b2n (polyFront (p.draw t.draw) t.poly)
      | _, _ => 0

/-- The 64-bit addresses of the vertex data and the draw constants. -/
def rsvAddr (s : State) (i : Iss) (k : Nat) : Nat :=
  match rasOf s i [.vertex, .fragment] with
  | none => 0
  | some (_, p, r) =>
    let d := p.draw r.draw
    p.geomAt + (if k = 7 then bits d 175 136 else bits d 135 96)

/-- `rsv` (R319). -/
def rsvOp (dst : Dst) (s : State) (i : Iss) : State :=
  let k := wCtl i.iw
  let d := wD i.iw
  let ls := laneList i.lanes
  if 8 < k || dst == .predicate || (7 ≤ k && (dst != .scalar || !sPairOk d)) || !dstOk i dst then badEncoding s i
  else
    let regs : List RegId := if 7 ≤ k then [.s d, .s (d + 1)] else dstRegs i dst ls
    if depends s i (guardRegs i ++ regs) then stall s i .result
    else if ls.isEmpty then advance s i
    else
      let ws : List (RegId × W32) :=
        if 7 ≤ k then
          [(.s d, BitVec.ofNat 32 (rsvAddr s i k)), (.s (d + 1), BitVec.ofNat 32 (rsvAddr s i k / 2 ^ 32))]
        else if dst == .scalar then [(.s d, BitVec.ofNat 32 (rsvVal ((rasOf s i [.vertex, .fragment]).map (fun e => (e.2.1, e.2.2))) k (scalarLane i.lanes)))]
        else ls.map (fun l => (.v d l, BitVec.ofNat 32 (rsvVal ((rasOf s i [.vertex, .fragment]).map (fun e => (e.2.1, e.2.2))) k l)))
      advance (modGroup s i.key (fun g => writeRegs g ws)) i

/-! ## Meanings -/

/-- DRAW_NODE_START (R301). -/
def execDrawNodeStart (inst node : Nat) (s : State) : Host.Outcome State Fault Refusal :=
  onLive s (drawStartOp s inst node)

/-- BIN_BATCH (R304). -/
def execBinBatch (part : Nat) (tris : List Tri) (pass : Nat) (s : State) : Host.Outcome State Fault Refusal :=
  onLive s (binBatchOp s part tris pass)

/-- GROW_WAIT_EXPIRE (R307). -/
def execGrowWaitExpire (part : Nat) (s : State) : Host.Outcome State Fault Refusal := onLive s (growExpireOp s part)

/-- FLUSH_END (R308). -/
def execFlushEnd (part : Nat) (s : State) : Host.Outcome State Fault Refusal := onLive s (flushEndOp s part)

/-- TILE_ASSIGN (R310). -/
def execTileAssign (part core : Nat) (s : State) : Host.Outcome State Fault Refusal :=
  onLive s (tileAssignOp s part core)

/-- TILE_RESOLVE (R315). -/
def execTileResolve (part core : Nat) (s : State) : Host.Outcome State Fault Refusal :=
  onLive s (tileResolveOp s part core)

/-- GRANT (R306). -/
def execGrant (tag : BitVec 4) (ctx : Nat) (handle : W32) (s : State) : Host.Outcome State Fault Refusal :=
  onLive s (binCmdWrite s (binWord tag 1 ctx handle))

/-- WITHDRAW (R306). -/
def execWithdraw (tag : BitVec 4) (ctx : Nat) (handle : W32) (s : State) : Host.Outcome State Fault Refusal :=
  onLive s (binCmdWrite s (binWord tag 2 ctx handle))

/-- `tex` (R319). -/
def execTex (sp : SplitRef) (w : IWord) (s : State) : Host.Outcome State Fault Refusal :=
  onLive s (onIssue s sp w (· == 0x380) .none (texOp false))

/-- `tload` (R319). -/
def execTload (sp : SplitRef) (w : IWord) (s : State) : Host.Outcome State Fault Refusal :=
  onLive s (onIssue s sp w (· == 0x381) .none (texOp true))

/-- `vout` (R319). -/
def execVout (sp : SplitRef) (w : IWord) (s : State) : Host.Outcome State Fault Refusal :=
  onLive s (onIssue s sp w (· == 0x382) .none voutOp)

/-- `vin` (R319). -/
def execVin (sp : SplitRef) (w : IWord) (s : State) : Host.Outcome State Fault Refusal :=
  onLive s (onIssue s sp w (· == 0x383) .none vinOp)

/-- `fout` (R319). -/
def execFout (sp : SplitRef) (w : IWord) (s : State) : Host.Outcome State Fault Refusal :=
  onLive s (onIssue s sp w (· == 0x384) .none foutOp)

/-- `kill` (R319). -/
def execKill (sp : SplitRef) (w : IWord) (s : State) : Host.Outcome State Fault Refusal :=
  onLive s (onIssue s sp w (· == 0x385) .none killOp)

/-- `aread` (R319). -/
def execAread (sp : SplitRef) (w : IWord) (s : State) : Host.Outcome State Fault Refusal :=
  onLive s (onIssue s sp w (· == 0x386) .none areadOp)

/-- `oenter` (R312). -/
def execOenter (sp : SplitRef) (w : IWord) (s : State) : Host.Outcome State Fault Refusal :=
  onLive s (onIssue s sp w (· == 0x387) .none oenterOp)

/-- `oexit` (R312). -/
def execOexit (sp : SplitRef) (w : IWord) (s : State) : Host.Outcome State Fault Refusal :=
  onLive s (onIssue s sp w (· == 0x388) .none oexitOp)

/-- `rsv` (R319). -/
def execRsv (sp : SplitRef) (dst : Dst) (w : IWord) (s : State) : Host.Outcome State Fault Refusal :=
  onLive s (onIssue s sp w (· == 0x389) .none (rsvOp dst))

end Sys2Proof.Machine
end

