-- ==== Sys2Proof/Machine/Eddy.lean ====
section
/-! DEFINITION. Eddy.lean: the ray traversal units, their callbacks and coherence buckets (16). The order in
which a unit visits the hierarchy arrives with the events; every fetch, every box a ray meets, every candidate
and every acceptance is the model's (log 13). -/

namespace Sys2Proof.Machine

/-! ## Exact FP32 arithmetic -/

/-- A finite FP32 value in units of 2^−149. -/
def fxInt (x : Nat) : Int :=
  match fpDecode 0 x with
  | .fin neg m e => let v : Int := (m * 2 ^ (e + 149).toNat : Nat); if neg then -v else v
  | _ => 0

/-- Neither NaN nor an infinity. -/
def fpFinite (x : Nat) : Bool :=
  match fpDecode 0 x with
  | .fin _ _ _ => true
  | _ => false

/-- One unit in the last place, in units of 2^−149. -/
def fxUlp (x : Nat) : Int :=
  match fpDecode 0 x with
  | .fin _ _ e => (2 ^ (e + 149).toNat : Nat)
  | _ => 0

/-- FP32 order: x ≤ y. -/
def fpLe (x y : W32) : Bool :=
  let a := fpDecode 0 x.toNat
  let b := fpDecode 0 y.toNat
  fpLt a b || fpEq a b

/-- +inf. -/
def plusInf : W32 := 0x7F800000

/-! ## The hierarchy (R320 to R322) -/

/-- Header fields (Table 16-1). -/
structure BvhHdr where
  magic  : Nat
  fmt    : Nat
  nmat   : Nat
  len    : Nat
  root   : Nat
  matOff : Nat
  air    : List (BitVec 16)
  lo     : List Nat
  hi     : List Nat

/-- Decode a header. -/
def bvhHdr (d : List Byte) : BvhHdr :=
  { magic := blockNum d 0 4, fmt := blockNum d 4 2, nmat := blockNum d 6 2, len := blockNum d 8 4
    root := blockNum d 12 4, matOff := blockNum d 16 4
    air := (List.range 8).map fun b => BitVec.ofNat 16 (blockNum d (24 + 2 * b) 2)
    lo := (List.range 3).map fun k => blockNum d (40 + 4 * k) 4
    hi := (List.range 3).map fun k => blockNum d (52 + 4 * k) 4 }

/-- A child of a node, with its box: an internal node's offset, or a run of leaf entries. -/
inductive Kid where
  | node (off : Nat) (bx : List (Int × Int))
  | leaves (off count : Nat) (box : Bool) (bx : List (Int × Int))
  deriving DecidableEq, Repr

/-- Meta byte of child i. -/
def metaOf (d : List Byte) (i : Nat) : Nat := blockNum d (24 + i) 1

/-- A malformed meta byte (R322). -/
def metaBad (m : Nat) : Bool :=
  let valid := m / 128 % 2 == 1
  let proc := m / 64 % 2 == 1
  let internal := m / 32 % 2 == 1
  (internal && proc) || (valid && !internal && (m % 16 == 0 || decide (8 < m % 16)))

/-- A child that is empty in some axis is never entered (R321). -/
def kidEmpty (d : List Byte) (i : Nat) : Bool :=
  (List.range 3).any fun k => decide (blockNum d (56 + 8 * k + i) 1 < blockNum d (32 + 8 * k + i) 1)

/-- Box of child i, axis by axis, in units of 2^−149: computed exactly (R321). -/
def kidBox (d : List Byte) (i : Nat) : List (Int × Int) :=
  (List.range 3).map fun k =>
    let q (at_ : Nat) : Int := (blockNum d (at_ + 8 * k + i) 1 * 2 ^ (blockNum d (12 + k) 1 + 22) : Nat)
    (fxInt (blockNum d (4 * k) 4) + q 32, fxInt (blockNum d (4 * k) 4) + q 56)

/-- Children of a node that may be entered (R321); `ni` and `nl` count internal children and leaf
entries of lower slots. -/
def kidsFrom (d : List Byte) : Nat → Nat → Nat → Nat → List Kid
  | 0, _, _, _ => []
  | k + 1, i, ni, nl =>
    let m := metaOf d i
    if m / 128 % 2 = 0 then kidsFrom d k (i + 1) ni nl
    else if m / 32 % 2 = 1 then
      let r := kidsFrom d k (i + 1) (ni + 1) nl
      if kidEmpty d i then r else .node (blockNum d 16 4 + 5 * ni) (kidBox d i) :: r
    else
      let r := kidsFrom d k (i + 1) ni (nl + m % 16)
      if kidEmpty d i then r
      else .leaves (blockNum d 20 4 + 3 * nl) (m % 16) (m / 64 % 2 == 1) (kidBox d i) :: r

/-- Children of a node. -/
def nodeKids (d : List Byte) : List Kid := kidsFrom d 8 0 0 0

/-- Leaf entry fields (Table 16-3). -/
structure LeafEnt where
  shape  : List Nat
  prim   : W32
  geom   : BitVec 16
  mat    : Byte
  opaq   : Bool

/-- Decode a leaf entry. -/
def leafEnt (d : List Byte) : LeafEnt :=
  { shape := (List.range 9).map fun k => blockNum d (4 * k) 4
    prim := BitVec.ofNat 32 (blockNum d 36 4), geom := BitVec.ofNat 16 (blockNum d 40 2)
    mat := BitVec.ofNat 8 (blockNum d 42 1), opaq := blockNum d 43 1 % 2 == 1 }

/-! ## Fetches (R320, R330, R335) -/

/-- Why a fetch stops the trace. -/
inductive FetchBad where
  | format
  | bound (addr : Nat)
  | hw (m : MemFault)

/-- Check a fetch of n bytes at an address; `lim` is the end of the hierarchy. -/
def fetchBad (s : State) (w : Wg) (core a n lim : Nat) : Option FetchBad :=
  if lim < a + n then some .format
  else if !wgMay s w (a : Nat) n .rd then some (.bound (addrNat (a : Nat)))
  else (loadFault s core (polAt s w.ctx a) a n).map .hw

/-- The bytes of a fetch, through the core's L1 data cache. -/
def eddyFetch (s : State) (w : Wg) (core a n : Nat) : List Byte × State :=
  (coreRead s core a n, l1Fill s core (polAt s w.ctx a) a n)

/-- A fetch that stops a trace stops its context's work. -/
def fetchStop (s : State) (w : Wg) (id : Nat) (pc : BitVec 24) : FetchBad → State
  | .format => wgFault s id .formatFault 0 pc
  | .bound a => wgFault s id .boundFault a pc
  | .hw m => hwFault s w.ctx m (some w.inst)

/-- What a walk over nodes gives: a node the hierarchy does not lead to, a stop, or the children met, each with
its node. -/
inductive Walk where
  | away
  | bad (b : FetchBad) (s : State)
  | ok (runs : List (Nat × Kid)) (s : State)

/-- Visit nodes in order, each the root or a child of one visited before. -/
def walkNodes (w : Wg) (core base lim : Nat) : List Nat → List Nat → List (Nat × Kid) → State → Walk
  | [], _, runs, s => .ok runs s
  | n :: r, known, runs, s =>
    if !known.contains n then .away
    else match fetchBad s w core (base + 16 * n) 80 lim with
      | some b => .bad b s
      | none =>
        let (d, s) := eddyFetch s w core (base + 16 * n) 80
        if (List.range 8).any (fun i => metaBad (metaOf d i)) then .bad .format s
        else
          let kids := nodeKids d
          let sub := kids.filterMap fun k => match k with
            | .node o _ => some o
            | .leaves _ _ _ _ => none
          walkNodes w core base lim r (known ++ sub) (runs ++ kids.map (n, ·)) s

/-- Whether the hierarchy leads to a leaf entry, and whether it is a box entry. -/
def entryKind (runs : List (Nat × Kid)) (e : Nat) : Option Bool :=
  runs.findSome? fun k => match k.2 with
    | .node _ _ => none
    | .leaves o c box _ => if o ≤ e && e < o + 3 * c && (e - o) % 3 == 0 then some box else none

/-- Fetch leaf entries. -/
def walkEntries (w : Wg) (core base lim : Nat) (runs : List (Nat × Kid)) : List Nat → State → Walk
  | [], s => .ok runs s
  | e :: r, s =>
    if (entryKind runs e).isNone then .away
    else match fetchBad s w core (base + 16 * e) 48 lim with
      | some b => .bad b s
      | none => walkEntries w core base lim runs r (eddyFetch s w core (base + 16 * e) 48).2

/-- Read a header: wrong magic or fmt is a bad fetch. -/
def readHdr (s : State) (w : Wg) (core base : Nat) : FetchBad ⊕ (BvhHdr × State) :=
  match fetchBad s w core base 64 (base + 64) with
  | some b => .inl b
  | none =>
    let (d, s) := eddyFetch s w core base 64
    let h := bvhHdr d
    if h.magic != 0x38485642 || h.fmt != 1 || decide (h.len < 64) then .inl .format else .inr (h, s)

/-! ## `trace` (R213, R323, R324, R330, R331, R334, R335) -/

/-- Registers of a ray and of a hit record. -/
def Trace.span (t : Trace) : Nat := if t.acoustic then 12 else 8

/-- Whether a ray may be traversed (R323). -/
def rayValid (r : List W32) : Bool :=
  let g (k : Nat) : Nat := (r.getD k 0).toNat
  ([0, 1, 2, 3, 4, 5, 6].all fun k => fpFinite (g k)) && ([4, 5, 6].any fun k => fxInt (g k) != 0) &&
  decide (0 ≤ fxInt (g 3)) && !fpLt (fpDecode 0 (g 7)) (fpDecode 0 (g 3))

/-- Bucket of a ray: octant and origin cell (R331). -/
def rayBucket (h : BvhHdr) (r : List W32) : Nat :=
  let o := (List.range 3).map fun k => if (r.getD (4 + k) 0).getLsbD 31 then 2 ^ k else 0
  let c := (List.range 3).map fun k =>
    if fxInt (h.lo.getD k 0) + fxInt (h.hi.getD k 0) ≤ 2 * fxInt (r.getD k 0).toNat then 2 ^ k else 0
  8 * o.foldl (· + ·) 0 + c.foldl (· + ·) 0

/-- The trace an instruction asks for. -/
def traceOf (i : Iss) : Trace :=
  let n := if wCtlBit i.iw 0 then 12 else 8
  let b := wB i.iw
  let ls := laneList i.lanes
  let rays : Tab (List W32) := ls.map fun l => (l, (List.range n).map fun k => readV i.g (wA i.iw + k) l)
  let ok := (rays.filter (fun e => rayValid e.2)).map (·.1)
  { grp := i.key, sid := i.sp.sid, core := i.sp.core, wg := i.id, lanes := i.lanes, valid := maskOf ok
    a := wA i.iw, d := wD i.iw, acoustic := wCtlBit i.iw 0
    bvh := readS64 i.g b % 2 ^ 40, stack := (readS i.g (b + 2)).toNat % 262144
    depth := bits (readS i.g (b + 2)) 27 24, flags := (readS i.g (b + 3)).setWidth 6
    cbAny := BitVec.ofNat 24 (w1Bits i.iw 87 64), cbInt := BitVec.ofNat 24 (w1Bits i.iw 111 88)
    pc := i.x.pc, rays := rays
    tcur := ok.map fun l => (l, ((tfind rays l).getD []).getD 7 0) }

/-- Whether a trace may call back. -/
def Trace.calls (t : Trace) : Bool := t.cbAny != 0xFFFFFF || t.cbInt != 0xFFFFFF

/-- Encoding of `trace`: fields of word 0 that must be 0, registers, callback PCs (R323, R200). -/
def traceEncOk (i : Iss) (n : Nat) : Bool :=
  let pc (hi lo : Nat) : Bool := w1Bits i.iw hi lo == 0xFFFFFF || pcInside i.w (w1Bits i.iw hi lo)
  wL i.iw && wC i.iw == 0 && wFmt i.iw == 0 && wRm i.iw == 0 && wCtl i.iw / 2 == 0 && !wKind i.iw 0 &&
  wKind i.iw 1 && !wKind i.iw 2 && wB i.iw % 4 == 0 && decide (wB i.iw + 3 < 64) && vRunOk i (wA i.iw) n &&
  vRunOk i (wD i.iw) n && pc 87 64 && pc 111 88

/-- The scalar block holds what Table 16-5 allows. -/
def traceBlockOk (i : Iss) : Bool :=
  let b := wB i.iw
  let d := bits (readS i.g (b + 2)) 27 24
  decide (1 ≤ d ∧ d ≤ 8) && zeroField (readS i.g (b + 2)) 31 28 && zeroField (readS i.g (b + 3)) 31 6 &&
  (readS i.g (b + 2)).toNat % 64 == 0 && readS64 i.g b % 64 == 0

/-- Enter a trace: rays into their buckets, a callback trace held by its split (R327, R331). -/
def traceGo (s : State) (i : Iss) (t : Trace) (h : BvhHdr) : State :=
  let id := s.fly.nextId
  let now := coreNow s t.core
  let bk := (laneList t.valid).foldl (fun bk l =>
    tmod bk (t.core * 64 + rayBucket h ((tfind t.rays l).getD [])) [] (· ++ [(id, l, now)])) s.fly.buckets
  let s := { s with fly := { s.fly with traces := tput s.fly.traces id t, nextId := id + 1, buckets := bk } }
  let s := stackFill s i.w.lsBase t
  let s := if t.calls then modSplit s i.key i.sp.sid (fun x => { x with cb := some id }) else s
  advance s i

/-- `trace`. -/
def traceOp (s : State) (i : Iss) : State :=
  let n := if wCtlBit i.iw 0 then 12 else 8
  let b := wB i.iw
  let ls := laneList i.lanes
  let span (r : Nat) : List RegId := (List.range n).flatMap (fun k => vRegs (r + k) ls)
  if !traceEncOk i n then badEncoding s i
  else if depends s i (guardRegs i ++ (List.range 4).map (fun k => .s (b + k)) ++ span (wA i.iw) ++
      span (wD i.iw)) then stall s i .result
  else if ls.isEmpty then advance s i
  else if !fnOn s (12 + i.sp.core / 6) then stall s i .eddyOff
  else if acquirePending s i then stall s i .orderWait
  else
    let t := traceOf i
    let sa := (readS i.g (b + 2)).toNat % 2 ^ 20
    if t.calls && i.x.cb.isSome then stall s i .callback
    else if !traceBlockOk i then badEncoding s i
    else if sa / 262144 != i.w.rank || (localAt s i.w sa (32 * t.areaLen)).isNone then refusedAccess s i sa
    else if 32 ≤ (s.fly.traces.filter (·.2.core == i.sp.core)).length then stall s i .tracePlace
    else match readHdr s i.w t.core t.bvh with
      | .inl f => fetchStop s i.w i.id i.x.pc f
      | .inr (h, s) => traceGo s i t h

/-- BUCKET_RELEASE: a bucket that holds 32 rays, or whose oldest ray has waited 64 CCLK, is taken in
(R331). -/
def bucketOp (s : State) (core bucket : Nat) : State :=
  let k := core * 64 + bucket
  let l := (tget s.fly.buckets k []).filter (fun r => thas s.fly.traces r.1)
  match l with
  | [] => s
  | (_, _, at_) :: _ =>
    if 32 ≤ l.length || 64 ≤ (coreNow s core - at_).toNat then
      { s with fly := { s.fly with buckets := tput s.fly.buckets k (l.drop 32) } }
    else s

/-- Whether any ray of a trace still waits in a bucket. -/
def rayWaits (s : State) (id : Nat) (lanes : List Nat) : Bool :=
  s.fly.buckets.any fun e => e.2.any (fun r => r.1 == id && lanes.contains r.2.1)

/-! ## Candidates and acceptance (R326, R328, R329) -/

def flag (t : Trace) (k : Nat) : Bool := t.flags.getLsbD k

/-- Exact numerator and denominator of the plane distance of a triangle, in units of 2^−447. -/
def triangleT (r : List W32) (v : List Nat) : Int × Int :=
  let p (l : List Int) (a b : Nat) : Int := l.getD a 0 - l.getD b 0
  let c := v.map fxInt
  let o := (List.range 3).map fun k => fxInt (r.getD k 0).toNat
  let d := (List.range 3).map fun k => fxInt (r.getD (4 + k) 0).toNat
  let e (k : Nat) : Int := p c (3 + k) k
  let f (k : Nat) : Int := p c (6 + k) k
  let n : List Int := [e 1 * f 2 - e 2 * f 1, e 2 * f 0 - e 0 * f 2, e 0 * f 1 - e 1 * f 0]
  let dot (g : Nat → Int) : Int := (List.range 3).foldl (fun a k => a + n.getD k 0 * g k) 0
  (dot (fun k => c.getD k 0 - o.getD k 0), dot (fun k => d.getD k 0))

/-- Whether a ray meets a closed box between two distances, in exact arithmetic (R326). -/
def rayMeets (r : List W32) (near far : W32) (bx : List (Int × Int)) : Bool :=
  let ax := (List.range 3).map fun k =>
    let o := fxInt (r.getD k 0).toNat
    let b := bx.getD k (0, 0)
    (fxInt (r.getD (4 + k) 0).toNat, b.1 - o, b.2 - o)
  let end_ (up : Bool) (a : Int × Int × Int) : Option (Int × Int) :=
    if a.1 = 0 then none
    else if 0 < a.1 then some (if up then a.2.2 else a.2.1, a.1)
    else some (-(if up then a.2.1 else a.2.2), -a.1)
  let lows := (fxInt near.toNat, (2 : Int) ^ 149) :: ax.filterMap (end_ false)
  let ups := (if fpFinite far.toNat then [(fxInt far.toNat, (2 : Int) ^ 149)] else []) ++ ax.filterMap (end_ true)
  ax.all (fun a => a.1 != 0 || decide (a.2.1 ≤ 0 ∧ 0 ≤ a.2.2)) &&
    lows.all (fun l => ups.all (fun u => decide (l.1 * u.2 ≤ u.1 * l.2)))

/-- Where a ray enters a box: numerator and denominator of the distance, no nearer than its near limit. -/
def boxEntry (r : List W32) (bx : List (Int × Int)) : Int × Int :=
  (List.range 3).foldl (fun m k =>
    let o := fxInt (r.getD k 0).toNat
    let d := fxInt (r.getD (4 + k) 0).toNat
    let b := bx.getD k (0, 0)
    let c : Int × Int := if 0 < d then (b.1 - o, d) else (o - b.2, -d)
    if d = 0 || decide (c.1 * m.2 ≤ m.1 * c.2) then m else c) (fxInt (r.getD 3 0).toNat, 2 ^ 149)

/-- The sides of a triangle's edges on which a ray's line passes: all of one sign where it meets the triangle, 0
on an edge. -/
def triangleSides (r : List W32) (v : List Nat) : List Int :=
  let c := v.map fxInt
  let p (i k : Nat) : Int := c.getD (3 * i + k) 0 - fxInt (r.getD k 0).toNat
  let d (k : Nat) : Int := fxInt (r.getD (4 + k) 0).toNat
  let vol (i j : Nat) : Int := d 0 * (p i 1 * p j 2 - p i 2 * p j 1) + d 1 * (p i 2 * p j 0 - p i 0 * p j 2) +
    d 2 * (p i 0 * p j 1 - p i 1 * p j 0)
  [vol 1 2, vol 2 0, vol 0 1]

/-- An FP32 value within 2 ulp of a distance n / d of at least 0, the same for the same ray and shape (R326,
log 12). -/
def distWithin (r : List W32) (v : List Nat) (n d : Int) : W32 :=
  let a := n.natAbs * 2 ^ 300
  let b := d.natAbs
  let lo := fpEncode 0 2 (.fin false (a / b) (-300))
  let exact := a % b = 0 && fxInt lo * 2 ^ 151 == ((a / b : Nat) : Int)
  let key := packNat (((r.map (·.toNat)) ++ v).zipIdx.map (fun e => (e.1, 32 * e.2 + 64)))
  BitVec.ofNat 32 (between32 key 0 (unord32 (ord32 lo - (if exact then 2 else 1))) (min 0x7F7FFFFF (lo + 2)))

/-- The candidate an entry gives a ray between its near limit and the current tmax (R326): a box the ray meets,
or a triangle it meets inside or on an edge; none where a flag excludes it. -/
def candOf (t : Trace) (ent : LeafEnt) (box : Bool) (lane : Nat) : Option RayBest :=
  let r := (tfind t.rays lane).getD []
  let near := r.getD 3 0
  let cur := tget t.tcur lane 0
  let b : RayBest := { t := 0, u := 0, v := 0, prim := ent.prim, geom := ent.geom, front := false, box := box
                       mat := ent.mat, attr := 0 }
  let within (b : RayBest) : Option RayBest := if fpLe near b.t && fpLe b.t cur then some b else none
  if box then
    let bx := (List.range 3).map fun k => (fxInt (ent.shape.getD k 0), fxInt (ent.shape.getD (3 + k) 0))
    let (n, d) := boxEntry r bx
    let e := distWithin r (ent.shape.take 6) n d
    if flag t 5 || !rayMeets r near cur bx then none
    else within { b with t := if fpLe near e then e else near }
  else
    let (n, d) := triangleT r ent.shape
    let front := decide (d < 0)
    let sides := triangleSides r ent.shape
    if d = 0 || !ent.shape.all fpFinite || decide (n * d < 0) ||
        !(sides.all (fun k => decide (0 ≤ k)) || sides.all (fun k => decide (k ≤ 0))) then none
    else if (flag t 1 && !front) || (flag t 2 && front) then none
    else
      let (u, v) := Config.bary r ent.shape
      within { b with t := distWithin r ent.shape n d, u := u, v := v, front := front }

/-- Nodes a ray enters between its near limit and a far one, of those the unit has visited: the root, and each
whose box it meets below one it enters. -/
def raySees (t : Trace) (lane root : Nat) (far : W32) (runs : List (Nat × Kid)) : List Nat :=
  let r := (tfind t.rays lane).getD []
  runs.foldl (fun l k => match k.2 with
    | .node o bx => if l.contains k.1 && rayMeets r (r.getD 3 0) far bx then l ++ [o] else l
    | .leaves _ _ _ _ => l) [root]

/-- Leaf entries it comes to there, each with whether it is a box entry. -/
def rayEntries (t : Trace) (lane root : Nat) (far : W32) (runs : List (Nat × Kid)) : List (Nat × Bool) :=
  let r := (tfind t.rays lane).getD []
  let l := raySees t lane root far runs
  runs.flatMap fun k => match k.2 with
    | .node _ _ => []
    | .leaves o c box bx =>
      if l.contains k.1 && rayMeets r (r.getD 3 0) far bx then (List.range c).map (fun j => (o + 3 * j, box)) else []

/-- A leaf entry of a trace's hierarchy. -/
def entryAt (s : State) (t : Trace) (e : Nat) : LeafEnt := leafEnt (coreRead s t.core (t.bvh + 16 * e) 48)

/-- Whether a triangle counts as opaque (flags 3 and 4). -/
def opaqueNow (t : Trace) (ent : LeafEnt) : Bool := flag t 3 || (!flag t 4 && ent.opaq)

/-- Callback a candidate needs: none, any-hit (false) or intersection (true). -/
def callbackFor (t : Trace) (ent : LeafEnt) (box : Bool) : Option Bool :=
  if box then (if t.cbInt = 0xFFFFFF then none else some true)
  else if opaqueNow t ent || t.cbAny = 0xFFFFFF then none else some false

/-- Keep the better of two accepted hits: at equal t, the lower geom, then the lower prim_id (R326). -/
def better (old : Option RayBest) (new : RayBest) : RayBest :=
  match old with
  | none => new
  | some o =>
    if fpEq (fpDecode 0 o.t.toNat) (fpDecode 0 new.t.toNat) &&
        (decide (o.geom < new.geom) || (o.geom == new.geom && decide (o.prim ≤ new.prim))) then o
    else new

/-- A hit is accepted for a lane: the current tmax falls to its t. -/
def acceptHit (t : Trace) (lane : Nat) (b : RayBest) (stop : Bool) : Trace :=
  { t with
    best := tput t.best lane (better (tfind t.best lane) b), tcur := tput t.tcur lane b.t
    stopped := if stop || flag t 0 then t.stopped ||| BitVec.ofNat 32 (2 ^ lane) else t.stopped }

/-! ## Hit records (Table 16-6) -/

/-- The eight words of a record. -/
def hitWords (status : Nat) (b : Option RayBest) (ncb nodes tests : Nat) : List W32 :=
  let low : List W32 := match b with
    | none => [plusInf, 0, 0, 0, 0, 0]
    | some h => [h.t, h.u, h.v, h.prim,
        BitVec.ofNat 32 (packNat [(h.mat.toNat, 24), (b2n h.box, 17), (b2n h.front, 16), (h.geom.toNat, 0)]), h.attr]
  low ++ [BitVec.ofNat 32 (packNat [(min tests 65535, 16), (min nodes 65535, 0)]),
          BitVec.ofNat 32 (packNat [(status, 28), (min ncb 255, 0)])]

/-- Register writes of words from a register on, in a lane. -/
def laneWords (d lane : Nat) (l : List W32) : List (RegId × W32) :=
  (l.zipIdx).map fun (v, k) => (.v (d + k) lane, v)

/-! ## Callbacks (R327 to R329) -/

/-- What an event found, in order: a candidate that needs no callback is accepted, the others wait for their
round, one for each lane. None where the unit cannot have found one of them. -/
def takeFound (s : State) (id root : Nat) (runs : List (Nat × Kid)) (entries : List Nat) :
    List RayHit → Trace → List (RayHit × RayBest × Bool) → Option (Trace × List (RayHit × RayBest × Bool))
  | [], t, l => some (t, l)
  | h :: r, t, l =>
    match (rayEntries t h.lane root (tget t.tcur h.lane 0) runs).find? (fun e => e.1 == h.entry) with
    | none => none
    | some (e, box) =>
      let ent := entryAt s t e
      if !entries.contains e || !t.valid.getLsbD h.lane || t.stopped.getLsbD h.lane || rayWaits s id [h.lane] ||
          t.seen.contains (h.lane, e) || l.any (fun c => c.1.lane == h.lane) then none
      else match candOf t ent box h.lane, callbackFor t ent box with
        | some b, none => takeFound s id root runs entries r (acceptHit t h.lane b false) l
        | some b, some k => takeFound s id root runs entries r t (l ++ [(h, b, k)])
        | none, _ => none

/-- Start a round: the kind with more lanes, any-hit on a tie (R328). -/
def roundStart (s : State) (id : Nat) (t : Trace) (x : Split) (l : List (RayHit × RayBest × Bool)) : State :=
  let kind := decide (l.length < 2 * (l.filter (·.2.2)).length)
  let mine := l.filter (fun c => c.2.2 == kind)
  let mask := maskOf (mine.map (·.1.lane))
  let rd : Round := { lanes := mask, intersect := kind
                      cands := mine.foldl (fun tb c => tput tb c.1.lane c.2.1) []
                      retPc := x.pc, retMask := x.mask, retWhy := x.why }
  let t' := { t with
    round := some rd, seen := t.seen ++ mine.map (fun c => (c.1.lane, c.1.entry))
    ncb := mine.foldl (fun tb c => tmod tb c.1.lane 0 (fun n => min 255 (n + 1))) t.ncb }
  let ws := mine.flatMap fun c =>
    laneWords t.d c.1.lane (hitWords 0 (some c.2.1) (tget t'.ncb c.1.lane 0) c.1.nodes c.1.tests) ++
      [(.v (t.a + 7) c.1.lane, tget t.tcur c.1.lane 0)]
  let s := { s with fly := { s.fly with traces := tput s.fly.traces id t' } }
  modGroup s t.grp fun g => (writeRegs g ws).modSplit t.sid fun x =>
    { x.toReady (coreNow s t.core) with pc := if kind then t.cbInt else t.cbAny, mask := mask }

/-- CALLBACK_ROUND: candidates are pending and the split is stalled under R327. -/
def callbackOp (s : State) (id : Nat) (nodes entries : List Nat) (cands : List RayHit) : State :=
  match tfind s.fly.traces id with
  | none => s
  | some t =>
    match (tfind s.groups t.grp).bind (fun g => tfind g.splits t.sid), tfind s.wgs t.wg with
    | some x, some w =>
      if t.round.isSome || x.cb != some id || x.st != .stalled || (x.why != .callback && x.why != .result) ||
          w.st != .placed then s
      else match readHdr s w t.core t.bvh with
        | .inl b => fetchStop s w t.wg t.pc b
        | .inr (h, s') =>
          match walkNodes w t.core t.bvh (t.bvh + h.len) nodes [h.root] [] s' with
          | .away => s
          | .bad b s' => fetchStop s' w t.wg t.pc b
          | .ok runs s' =>
            match walkEntries w t.core t.bvh (t.bvh + h.len) runs entries s' with
            | .away => s
            | .bad b s' => fetchStop s' w t.wg t.pc b
            | .ok _ s' =>
              match takeFound s' id h.root runs entries cands t [] with
              | none | some (_, []) => s
              | some (t, l) => roundStart s' id t x l
    | _, _ => s

/-- One lane's verdict; a verdict of 3, whose effect no rule states, is one of the three (log 8). -/
def verdict (t : Trace) (rd : Round) (i : Iss) (st : State × Trace) (lane : Nat) : State × Trace :=
  let (s, _) := st
  let raw := (srcVal i 0 lane).toNat % 4
  let (f, s') := takeFree s
  let (k, s) := if raw = 3 then (f.toNat % 3, s') else (raw, s)
  match tfind rd.cands lane with
  | none => (s, st.2)
  | some b =>
    let b := if rd.intersect then { b with t := srcVal i 1 lane, attr := srcVal i 2 lane } else b
    let near := ((tfind t.rays lane).getD []).getD 3 0
    if k = 0 || !fpLe near b.t || !fpLe b.t (tget st.2.tcur lane 0) then (s, st.2)
    else (s, acceptHit st.2 lane b (k == 2))

/-- `hitret` ends a round (R329). -/
def hitretOp (s : State) (i : Iss) : State :=
  match i.x.cb.bind (fun id => (tfind s.fly.traces id).map (fun t => (id, t))) with
  | none => badEncoding s i
  | some (id, t) =>
    match t.round with
    | none => badEncoding s i
    | some rd =>
      let ls := laneList rd.lanes
      let src := if rd.intersect then [0, 1, 2] else [0]
      if i.lanes != rd.lanes || i.x.mask != rd.lanes || !src.all (srcOk i) then badEncoding s i
      else if depends s i (guardRegs i ++ src.flatMap (fun k => srcRegs i k ls)) then stall s i .result
      else
        let (s, t) := ls.foldl (verdict t rd i) (s, { t with round := none })
        let s := { s with fly := { s.fly with traces := tput s.fly.traces id t } }
        modSplit s i.key i.sp.sid fun x =>
          { x with st := .stalled, why := rd.retWhy, pc := rd.retPc, mask := rd.retMask }

/-! ## Completion (R325, R332) -/

/-- FP16 of e × q/255 × 2^(−air·t), computed within 2^−20 before its rounding (R332; log 12). -/
def airOut (e : BitVec 16) (q : Nat) (air : BitVec 16) (t : W32) : BitVec 16 :=
  let nan : BitVec 16 := BitVec.ofNat 16 (fmtNan 1)
  let key := 2 ^ 40 + e.toNat * 2 ^ 24 + air.toNat * 2 ^ 8 + q
  match fpDecode 1 e.toNat, fpMul (fpDecode 1 air.toNat) (fpDecode 0 t.toNat) with
  | .nan, _ => nan
  | _, .nan => nan
  | .inf neg, .inf an => if q = 0 || !an then nan else BitVec.ofNat 16 (fpInf 1 neg)
  | .inf neg, .fin _ _ _ => if q = 0 then nan else BitVec.ofNat 16 (fpInf 1 neg)
  | .fin neg m _, .inf an =>
    if !an then BitVec.ofNat 16 (b2n neg * 2 ^ 15)
    else if m * q = 0 then nan else BitVec.ofNat 16 (fpInf 1 neg)
  | .fin neg m ee, .fin an am ae =>
    let u : Int := (roundTo 1 false am ae (-60) : Nat)
    let v := if an then u else -u
    if m * q = 0 then BitVec.ofNat 16 (b2n neg * 2 ^ 15)
    else if 400 * 2 ^ 60 ≤ v then BitVec.ofNat 16 (fpInf 1 neg)
    else if v ≤ -400 * 2 ^ 60 then BitVec.ofNat 16 (b2n neg * 2 ^ 15)
    else
      let y := if v = 0 then 2 ^ 60 else exp2Bits 60 (v % 2 ^ 60).toNat (2 * 2 ^ 60) (2 ^ 60)
      let p := m * q * y * 2 ^ 40 / 255
      let x := ee + v / 2 ^ 60 - 100
      let w := p / 2 ^ 20 - p / 2 ^ 40
      let f := between32 key t (fpEncode 0 2 (.fin false (p - w) x)) (fpEncode 0 3 (.fin false (p + w) x))
      BitVec.ofNat 16 (convert 0 1 0 (b2n neg * 2 ^ 31 + f))

/-- Coefficients of a material: 0 for an index at or above nmat (R320, Table 16-3). -/
def matCoef (s : State) (core base : Nat) (h : BvhHdr) (m : Byte) : List Nat :=
  if m.toNat < h.nmat then
    (coreRead s core (base + 16 * h.matOff + 8 * m.toNat) 8).map (·.toNat)
  else List.replicate 8 0

/-- Acoustic words of a lane (R332). -/
def acousticWords (s : State) (t : Trace) (h : BvhHdr) (lane : Nat) (b : Option RayBest) : List W32 :=
  let r := (tfind t.rays lane).getD []
  let out (k : Nat) : Nat :=
    let e : BitVec 16 := BitVec.ofNat 16 ((r.getD (8 + k / 2) 0).toNat / 2 ^ (16 * (k % 2)))
    if !t.valid.getLsbD lane then 0
    else match b with
      | some x => (airOut e ((matCoef s t.core t.bvh h x.mat).getD k 0) (h.air.getD k 0) x.t).toNat
      | none =>
        let far := r.getD 7 0
        if far = plusInf then 0 else (airOut e 255 (h.air.getD k 0) far).toNat
  (List.range 4).map fun j => BitVec.ofNat 32 (out (2 * j) + 65536 * out (2 * j + 1))

/-- The best of two accepted hits in either order. -/
def bestOf (old : Option RayBest) (new : RayBest) : RayBest :=
  match old with
  | some o => if fpLe new.t o.t then better old new else o
  | none => new

/-- Candidates a lane comes to that need no callback. -/
def ownCands (s : State) (t : Trace) (root : Nat) (runs : List (Nat × Kid)) (lane : Nat) : List (Nat × RayBest) :=
  (rayEntries t lane root (tget t.tcur lane 0) runs).filterMap fun e =>
    let ent := entryAt s t e.1
    if (callbackFor t ent e.2).isSome then none else (candOf t ent e.2 lane).map (e.1, ·)

/-- Levels of nodes visited. -/
def walkDepth (root : Nat) (runs : List (Nat × Kid)) (nodes : List Nat) : Nat :=
  let lev : Tab Nat := runs.foldl (fun m k => match k.2 with
    | .node o _ => tput m o (max (tget m o 0) (tget m k.1 0 + 1))
    | .leaves _ _ _ _ => m) [(root, 1)]
  (nodes.map (tget lev · 0)).foldl max 0

/-- A lane's final hit (R326): the closest of the candidates it comes to and of those callbacks have accepted.
A ray that stops at its first accepted hit, or whose stack has overflowed, has taken one of them or none; an
overflow needs more than S ≥ 7h + 1 entries (R324). None where the report does not hold. -/
def finalHit (s : State) (t : Trace) (root : Nat) (runs : List (Nat × Kid)) (nodes entries : List Nat) (h : RayHit) :
    Option (Option RayBest) :=
  let old := tfind t.best h.lane
  let l := (ownCands s t root runs h.lane).filter (fun e => entries.contains e.1)
  if t.stopped.getLsbD h.lane then (if h.ovf then none else some old)
  else if h.ovf && decide (7 * walkDepth root runs nodes + 1 ≤ 8 * t.depth) then none
  else if h.ovf || flag t 0 then
    if h.hit then (l.find? (fun e => e.1 == h.entry)).map (fun e => some (bestOf old e.2))
    else if h.ovf || l.isEmpty then some old else none
  else some (l.foldl (fun b e => some (bestOf b e.2)) old)

/-- Whether the unit has come to all a lane's final hit rests on: every node and entry the ray meets up to it,
and a callback for every candidate up to it that needs one (R326, R328). -/
def sawAll (s : State) (t : Trace) (root : Nat) (runs : List (Nat × Kid)) (nodes entries : List Nat) (h : RayHit)
    (b : Option RayBest) : Bool :=
  let far := (b.map (·.t)).getD (tget t.tcur h.lane 0)
  t.stopped.getLsbD h.lane || h.ovf || (flag t 0 && h.hit) ||
    ((raySees t h.lane root far runs).all (nodes.contains ·) && (rayEntries t h.lane root far runs).all fun e =>
      let ent := entryAt s t e.1
      entries.contains e.1 && ((callbackFor t ent e.2).isNone || t.seen.contains (h.lane, e.1) ||
        !(candOf t ent e.2 h.lane).any (fun c => fpLe c.t far)))

/-- Register writes of one lane's record; none where the report does not hold. -/
def laneRecord (s : State) (t : Trace) (hd : BvhHdr) (runs : List (Nat × Kid)) (nodes entries : List Nat)
    (hits : List RayHit) (lane : Nat) : Option (List (RegId × W32)) :=
  let words (status : Nat) (b : Option RayBest) (ncb nodes tests : Nat) : List (RegId × W32) :=
    laneWords t.d lane (hitWords status b ncb nodes tests ++
      (if t.acoustic then acousticWords s t hd lane b else []))
  if !t.valid.getLsbD lane then some (words 3 none 0 0 0)
  else match hits.find? (·.lane == lane) with
    | none => none
    | some h =>
      match finalHit s t hd.root runs nodes entries h with
      | none => none
      | some b =>
        if sawAll s t hd.root runs nodes entries h b && decide (h.nodes ≤ nodes.length ∧ h.tests ≤ entries.length) then
          some (words (if h.ovf then 2 else if b.isSome then 0 else 1) b (tget t.ncb lane 0) h.nodes h.tests)
        else none

/-- Addresses of the material entries the hits of an acoustic trace need. -/
def matAddrs (s : State) (t : Trace) (hd : BvhHdr) (runs : List (Nat × Kid)) (nodes entries : List Nat)
    (hits : List RayHit) : List Nat :=
  if !t.acoustic then []
  else hits.filterMap fun h =>
    match finalHit s t hd.root runs nodes entries h with
    | some (some b) => if b.mat.toNat < hd.nmat then some (t.bvh + 16 * hd.matOff + 8 * b.mat.toNat) else none
    | _ => none

/-- The results are written, the split may go on, and a place is free. -/
def traceEnd (s : State) (id : Nat) (t : Trace) (lsBase : Nat) (ws : List (RegId × W32)) : State :=
  let now := coreNow s t.core
  let s := stackFill s lsBase t
  let s := { s with fly := { s.fly with traces := tdel s.fly.traces id } }
  let s := modGroup s t.grp fun g => { writeRegs g ws with
    splits := g.splits.map fun e => (e.1, if e.2.cb = some id then { e.2 with cb := none } else e.2) }
  let s := unstall s t.grp (fun y => y == .result || y == .callback || y == .orderWait)
  let s := unstallAll s (· == .tracePlace)
  settleGroup s t.grp fun g => (g.splits.map (·.1)).foldl (fun g sid => arrive now 40 g sid) g

/-- TRACE_COMPLETE. -/
def traceDoneOp (s : State) (id : Nat) (nodes entries : List Nat) (hits : List RayHit) : State :=
  match tfind s.fly.traces id with
  | none => s
  | some t =>
    match tfind s.wgs t.wg with
    | none => s
    | some w =>
      if t.round.isSome || (w.st != .placed && w.st != .stopping) || rayWaits s id (laneList t.valid) then s
      else match readHdr s w t.core t.bvh with
        | .inl b => fetchStop s w t.wg t.pc b
        | .inr (h, s') =>
          match walkNodes w t.core t.bvh (t.bvh + h.len) nodes [h.root] [] s' with
          | .away => s
          | .bad b s' => fetchStop s' w t.wg t.pc b
          | .ok runs s' =>
            match walkEntries w t.core t.bvh (t.bvh + h.len) runs entries s' with
            | .away => s
            | .bad b s' => fetchStop s' w t.wg t.pc b
            | .ok _ s' =>
              let mats := matAddrs s' t h runs nodes entries hits
              match mats.findSome? (fun a => fetchBad s' w t.core a 8 (t.bvh + h.len)) with
              | some b => fetchStop s' w t.wg t.pc b
              | none =>
                let s' := mats.foldl (fun s a => (eddyFetch s w t.core a 8).2) s'
                let rs := (laneList t.lanes).map (laneRecord s' t h runs nodes entries hits)
                if rs.all (·.isSome) then traceEnd s' id t w.lsBase (rs.flatMap (fun r => r.getD [])) else s

/-! ## Meanings -/

/-- `trace` (R213, R323). -/
def execTrace (sp : SplitRef) (w : IWord) (s : State) : Host.Outcome State Fault Refusal :=
  onLive s (onIssue s sp w (· == 0x340) .t traceOp)

/-- BUCKET_RELEASE (R331). -/
def execBucketRelease (core bucket : Nat) (s : State) : Host.Outcome State Fault Refusal :=
  onLive s (bucketOp s core bucket)

/-- CALLBACK_ROUND (R328). -/
def execCallbackRound (id : Nat) (nodes entries : List Nat) (cands : List RayHit) (s : State) :
    Host.Outcome State Fault Refusal := onLive s (callbackOp s id nodes entries cands)

/-- `hitret` (R329). -/
def execHitret (sp : SplitRef) (w : IWord) (s : State) : Host.Outcome State Fault Refusal :=
  onLive s (onIssue s sp w (· == 0x341) .none hitretOp)

/-- TRACE_COMPLETE (R325). -/
def execTraceComplete (id : Nat) (nodes entries : List Nat) (hits : List RayHit) (s : State) :
    Host.Outcome State Fault Refusal := onLive s (traceDoneOp s id nodes entries hits)

end Sys2Proof.Machine
end

