-- ==== Sys2Proof/Machine/Place.lean ====
section
/-! DEFINITION. Place.lean: WORKGROUP_PLACE and pre-emption (08 R152 to R157, 09 R173). -/

namespace Sys2Proof.Machine

/-! ## Victims (R152) -/

/-- A unit of work that pre-emption can stop: the groups of a tile, or a cluster. -/
structure Victim where
  rank : Nat
  /-- 0 raster, 1 commit-form, 2 direct. -/
  kind : Nat
  ord  : Nat
  wgs  : List (Nat × Wg)
  tile : Option Nat

/-- Rank of an instance. -/
def rankOf (s : State) (id : Nat) : Nat := ((tfind s.insts id).map (·.rank)).getD 0

/-- Latest start among workgroups. -/
def lastOrd (l : List (Nat × Wg)) : Nat := (l.map (·.2.ord)).foldl max 0

/-- Tiles a core renders that rank lower. -/
def tileVictims (s : State) (core rank : Nat) : List Victim :=
  s.passes.filterMap fun e =>
    let l := s.wgs.filter fun w =>
      w.2.inst == e.2.inst && w.2.node == e.2.node && w.2.core == core && w.2.st == .placed &&
        w.2.ras.any (·.stage == .fragment)
    let r := rankOf s e.2.inst
    if decide (r < rank) && thas e.2.owners core && !l.isEmpty then
      some { rank := r, kind := 0, ord := lastOrd l, wgs := l, tile := some e.1 }
    else none

/-- Vertex groups on a core that rank lower: raster work too (R303). -/
def vertexVictims (s : State) (core rank : Nat) : List Victim :=
  s.wgs.filterMap fun e =>
    let r := rankOf s e.2.inst
    if e.2.core == core && e.2.st == .placed && e.2.ras.any (·.stage == .vertex) && decide (r < rank) then
      some { rank := r, kind := 0, ord := e.2.ord, wgs := [e], tile := none }
    else none

/-- Clusters with a workgroup on a core that rank lower, taken whole: none with a member whose commit has
started, no commit-form one killed 4 times (R152, R157). -/
def clusterVictims (s : State) (core rank : Nat) : List Victim :=
  s.wgs.filterMap fun e =>
    let w := e.2
    let l := clusterOf s w
    let r := rankOf s w.inst
    if w.core == core && w.st == .placed && w.ras.isNone && decide (r < rank) &&
        l.all (fun m => !m.2.writing && !m.2.committed) && (!w.commitForm || l.all (fun m => decide (m.2.kills < 4)))
    then some { rank := r, kind := if w.commitForm then 1 else 2, ord := lastOrd l, wgs := l, tile := none }
    else none

/-- Whether a victim goes before another: lowest rank, kind, most recently started. -/
def Victim.first (a b : Victim) : Bool :=
  decide (a.rank < b.rank) ||
  (a.rank == b.rank && (decide (a.kind < b.kind) || (a.kind == b.kind && decide (b.ord ≤ a.ord))))

/-- Insert in order. -/
def victimIn (v : Victim) : List Victim → List Victim
  | [] => [v]
  | x :: r => if v.first x then v :: x :: r else x :: victimIn v r

/-- All victims of a core in order. -/
def victimsOn (s : State) (core rank : Nat) : List Victim :=
  (tileVictims s core rank ++ vertexVictims s core rank ++ clusterVictims s core rank).foldr victimIn []

/-- Save slots of a partition not holding or awaiting a workgroup (R154). -/
def freeSaveSlots (s : State) (part : Nat) : Nat :=
  match partRec s part with
  | none => 0
  | some p => saveSlots p - (s.wgs.filter (fun e => e.2.part == part &&
      (e.2.st == .saved || e.2.st == .stopping))).length

/-- Take victims until a core has room: the ones taken, or none when even all of them are too few. -/
def takeVictims (s : State) (core : Nat) (n : Need) : List Victim → Nat → List Nat → Option (List Victim)
  | l, slots, gone =>
    match l with
    | [] => none
    | v :: r =>
      if v.kind = 2 && decide (slots < v.wgs.length) then takeVictims s core n r slots gone
      else
        let gone := gone ++ v.wgs.map (·.1)
        let left := (onCore s core).filter (fun e => !gone.contains e.1)
        if (roomAmong (left.map (·.2) ++ heldOn s core) n).isSome then some [v]
        else (takeVictims s core n r (if v.kind = 2 then slots - v.wgs.length else slots) gone).map (v :: ·)

/-! ## Stopping victims (R153, Table 8-2) -/

/-- A tile is dropped and goes back to the head of its pass. -/
def dropTile (s : State) (pid core : Nat) : State :=
  modPass s pid fun p =>
    match tfind p.owners core with
    | none => p
    | some t =>
      { p with
        owners := tdel p.owners core, back := t :: p.back, queue := tdel p.queue core, shaded := tdel p.shaded t
        buf := p.buf.filter (fun e => e.1 / 5 != t) }

/-- Killed commit-form workgroups wait to be run again from the start; a member that had ended no longer
counts in its node. -/
def killToRerun (s : State) (l : List (Nat × Wg)) : State :=
  let s := killWgs s (fun k _ => (l.map (·.1)).contains k)
  l.foldl (fun s e =>
    let s := if e.2.st = .ended then modNode s e.2.inst e.2.node (fun r => { r with ended := r.ended - 1 }) else s
    { s with wgs := tput s.wgs e.1 { e.2 with
        st := .killed, kills := e.2.kills + 1, staged := 0, commits := 0, exited := 0, hubN := 0
        since := now35 s } }) s

/-- Stop one victim as its kind requires. -/
def stopVictim (core : Nat) (s : State) (v : Victim) : State :=
  match v.tile with
  | some pid => dropTile (killWgs s (fun k _ => (v.wgs.map (·.1)).contains k)) pid core
  | none =>
    if v.kind = 0 then killWgs s (fun k _ => (v.wgs.map (·.1)).contains k)
    else if v.kind = 1 then killToRerun s v.wgs
    else v.wgs.foldl (fun s e => modWg s e.1 (fun w => { w with st := .stopping })) s

/-- Need of a waiting ready workgroup and the workgroups of its cluster. -/
def waitingNeed (s : State) (inst node idx : Nat) (x : Inst) (g : Graph) : Option (Need × Nat) :=
  if (readyWgs s inst x g).contains (node, idx) then
    some ((kernelForm g node).need, (kernelForm g node).csize)
  else match passOf s inst node with
    | some (k, p) =>
      if (List.range 48).any (fun c => coreIn s x.part c && rasReady s k p c) then some (rasNeed, 1) else none
    | none => none

/-- Whether no core of a partition takes it. -/
def noPlace (s : State) (part : Nat) (n : Need) (csize : Nat) : Bool :=
  (List.range 48).all fun c => !coreIn s part c || (coresFor s part c csize n).isNone

/-- Cores of a partition being freed. -/
def freeing (s : State) (part : Nat) : List Nat :=
  (s.wgs.filter (fun e => e.2.part == part && e.2.st == .stopping)).map (·.2.core) |>.dedup

/-- When a ready workgroup began to wait for a place: when its node started, or when it was last killed or
saved (R152). -/
def waitsSince (s : State) (inst node idx : Nat) (x : Inst) : BitVec 48 :=
  match wgFind s inst node idx with
  | some (_, w) => w.since
  | none => (x.node node).since

/-- The core a pre-emption frees: of the partition's cores on which victims make enough room, the one whose
first victim goes first (R152). -/
def preemptCore (s : State) (part rank : Nat) (n : Need) : Option (Nat × List Victim) :=
  (List.range 48).foldl (fun best c =>
    if coreIn s part c then
      match takeVictims s c n (victimsOn s c rank) (freeSaveSlots s part) [], best with
      | some (v :: l), some (b, w :: m) =>
        if w.first v then some (b, w :: m) else some (c, v :: l)
      | some (v :: l), _ => some (c, v :: l)
      | _, _ => best
    else best) none

/-- The core keeps the room of victims stopped at once until the direct ones of the same pre-emption have
stopped too (R155). -/
def holdRoom (s : State) (core : Nat) (vs : List Victim) : State :=
  let slow := (vs.filter (·.kind == 2)).flatMap (fun v => v.wgs.map (·.1))
  let fast := (vs.filter (·.kind != 2)).flatMap (fun v => (v.wgs.map (·.2)).filter (·.core == core))
  if slow.isEmpty then s
  else
    let old := (coreOf s core).held.filter (fun e => e.2.any (fun i => (tfind s.wgs i).any (·.st == .stopping)))
    modCore s core (fun c => { c with held := fast.map (fun w => (w, slow)) ++ old })

/-- PREEMPTION: places on one core are freed for a ready workgroup that has waited 256 TCLK, or at once for
one of rank 16. -/
def preemptOp (s : State) (inst node idx core : Nat) : State :=
  match tfind s.insts inst with
  | none => s
  | some x =>
    match graphOf s x with
    | none => s
    | some g =>
      match waitingNeed s inst node idx x g with
      | none => s
      | some (n, c) =>
        if !partRuns s x.part || !noPlace s x.part n c || 4 ≤ (freeing s x.part).length ||
            (x.rank != 16 && decide ((now35 s - waitsSince s inst node idx x).toNat < 256)) then s
        else match preemptCore s x.part x.rank n with
          | none => s
          | some (k, vs) => if k = core then vs.foldl (stopVictim core) (holdRoom s core vs) else s

/-! ## Meanings -/

/-- WORKGROUP_PLACE (R173). -/
def execWorkgroupPlace (inst node wgIdx core : Nat) (ras : Option RasSetup) (s : State) :
    Host.Outcome State Fault Refusal :=
  onLive s (match ras with
    | none => placeKernel s inst node wgIdx core
    | some r => rasPlace s inst node core r)

/-- PREEMPTION (R152). -/
def execPreemption (inst node wgIdx core : Nat) (s : State) : Host.Outcome State Fault Refusal :=
  onLive s (preemptOp s inst node wgIdx core)

end Sys2Proof.Machine
end

