-- ==== Sys2Proof/Machine/Compress.lean ====
section
/-! DEFINITION. Compress.lean: COMPRESS nodes and the two engines (19). Which codes the engine chooses
arrives with its end (log 13); what can be read back from it is checked. -/

namespace Sys2Proof.Machine

/-- An engine. -/
def cmpOf (s : State) (e : Nat) : Cmp := tget s.cmps e {}
def modCmp (s : State) (e : Nat) (f : Cmp → Cmp) : State := { s with cmps := tmod s.cmps e {} f }

/-- Depth of a compressing node. -/
def nDepth (n : BitVec 512) : Nat := bits n 390 388 + 1

/-- Argument record (Table 19-2). -/
def cmpArg (s : State) (g : Graph) (n : BitVec 512) : BitVec 256 :=
  BitVec.ofNat 256 (dmNum s (g.param (8 * nCmpArg n)) 32)
def caSrcOff (a : BitVec 256) : Nat := bits a 63 0
def caSrcLen (a : BitVec 256) : Nat := bits a 127 96
def caDstOff (a : BitVec 256) : Nat := bits a 191 128
def caDstCap (a : BitVec 256) : Nat := bits a 255 224

/-- State-object index of a node, if it has one. -/
def cmpStateObj (n : BitVec 512) : Option Nat := if nHist n then some (nHandle n 2 % 262144) else none

/-- Whether a node waits for an engine or runs on one. -/
def cmpTaken (s : State) (id i : Nat) : Bool :=
  s.cmpWait.contains (id, i) || s.cmps.any (fun e => e.2.run == some (id, i))

/-- COMPRESS_NODE_READY: the argument record is read and checked (R364). -/
def cmpReadyOp (s : State) (id i : Nat) : State :=
  match tfind s.insts id with
  | none => s
  | some x =>
    match graphOf s x with
    | none => s
    | some g =>
      let n := g.nodes.getD i 0
      if (x.node i).st != .running || nType n != 4 || (x.node i).ended != 0 || cmpTaken s id i then s
      else match dmFault s (g.param (8 * nCmpArg n)) 32 with
        | some m => hwFault s x.ctx m (some id)
        | none =>
          let a := cmpArg s g n
          if !zeroField a 95 64 || !zeroField a 223 192 || 2 ^ 40 ≤ caSrcOff a || 2 ^ 40 ≤ caDstOff a then
            failInst (nodeEnded s id i) id i .formatFault
          else if (heldObj s n 0).len < caSrcOff a + caSrcLen a || (heldObj s n 1).len < caDstOff a + caDstCap a then
            failInst (nodeEnded s id i) id i .boundFault
          else modNode { s with cmpWait := s.cmpWait ++ [(id, i)] } id i (fun r => { r with arg := a })

/-- Whether an engine may take a waiting node: its partition owns it, it is the lowest-numbered free
one, and no running node uses the same state object (R364). -/
def cmpMay (s : State) (e : Nat) (w : Nat × Nat) : Bool :=
  match tfind s.insts w.1 with
  | none => false
  | some x =>
    match graphOf s x, partRec s x.part with
    | some g, some p =>
      let free (k : Nat) : Bool := p.cmpMask.getLsbD k && fnOn s (20 + k) && (fnOf s (20 + k)).en && (cmpOf s k).run.isNone
      let mine := cmpStateObj (g.nodes.getD w.2 0)
      let used := s.cmps.any fun c => c.2.run.any fun r =>
        ((tfind s.insts r.1).bind (graphOf s)).any fun h =>
          mine.isSome && cmpStateObj (h.nodes.getD r.2 0) == mine
      free e && (List.range e).all (fun k => !free k) && !used
    | _, _ => false

/-- COMPRESS_START: the engine takes the first waiting node it may. -/
def cmpStartOp (s : State) (e : Nat) : State :=
  match s.cmpWait.find? (cmpMay s e) with
  | none => s
  | some w =>
    match (tfind s.insts w.1).bind (fun x => (graphOf s x).map (fun g => (x, g))) with
    | none => s
    | some (x, g) =>
      let n := g.nodes.getD w.2 0
      let a := (x.node w.2).arg
      modCmp { s with cmpWait := s.cmpWait.filter (· != w) } e (fun c => { c with
        ctx := x.ctx, run := some w, dst := ((heldObj s n 1).base + caDstOff a, caDstCap a) })

/-! ## Stream state (R372, Table 19-5) -/

def shMagicOk (h : BitVec 512) (n : BitVec 512) : Bool :=
  bits h 31 0 == 0x4D435453 && bits h 47 32 == 1 && bit h 48 == nDir n && bits h 50 49 == nWrap n &&
  bit h 51 == nChk n
def shWpos (h : BitVec 512) : Nat := bits h 111 96
def shFill (h : BitVec 512) : Nat := bits h 127 112
def shCheck (h : BitVec 512) : Nat := bits h 159 128
def shIn (h : BitVec 512) : Nat := bits h 223 160
def shOut (h : BitVec 512) : Nat := bits h 287 224

/-- Whether the check value is Adler-32 (R371). -/
def useAdler (n : BitVec 512) : Bool := nWrap n == 1 || (nWrap n == 0 && nChk n)

/-- Check value before any byte. -/
def checkInit (n : BitVec 512) : Nat := if useAdler n then 1 else 0

/-- Check value after more bytes. -/
def checkMore (n : BitVec 512) (c : Nat) (d : List Byte) : Nat := if useAdler n then adler32 c d else crc32 c d

/-- The window after n more bytes of data; its write position was w. -/
def windowMore (old : List Byte) (w : Nat) (d : List Byte) : List Byte :=
  let n := d.length
  let w' := (w + n) % 32768
  (List.range 32768).map fun i =>
    let back := (w' + 32767 - i) % 32768
    if back < n then d.getD (n - 1 - back) 0 else old.getD i 0

/-- A stream as a node finds it: its totals and window, its pending bits, the block it is in, and a copy under
way. -/
structure Stream where
  wpos  : Nat
  fill  : Nat
  check : Nat
  totIn : Nat
  totOut : Nat
  win   : List Byte
  bits  : List Bool := []
  blk   : Nat := 0
  ended : Bool := false
  lens  : List Byte := []
  left  : Nat := 0
  mLen  : Nat := 0
  mDist : Nat := 0

/-- The low n bits of a number, least significant first. -/
def numBits (v n : Nat) : List Bool := (List.range n).map v.testBit

/-- The window's bytes, newest first. -/
def Stream.hist (st : Stream) : List Byte :=
  (List.range st.fill).map fun i => st.win.getD ((st.wpos + 32767 - i) % 32768) 0

/-- A decoder where a stream stands, with more input. -/
def Stream.decoder (st : Stream) (more : List Bool) : InfSt :=
  { bits := st.bits ++ more, pos := (8 - st.bits.length % 8) % 8, blk := st.blk, last := st.ended
    ll := if st.blk = 2 then fixedLit else (st.lens.take 288).map (·.toNat)
    dl := if st.blk = 2 then fixedDist else (st.lens.drop 288).map (·.toNat)
    left := st.left, mLen := st.mLen, mDist := st.mDist, hist := st.hist, fill := st.fill }

/-- Bytes of a state object (R372). -/
def stateBytes (n : BitVec 512) (st : Stream) : List Byte :=
  natBytes (packNat [(st.mDist, 313), (st.mLen, 304), (st.left, 288), (st.totOut % 2 ^ 64, 224),
    (st.totIn % 2 ^ 64, 160), (st.check, 128), (st.fill, 112), (st.wpos, 96),
    (st.bits.foldr (fun b a => b2n b + 2 * a) 0, 64), (st.bits.length, 56),
    (st.blk, 53), (b2n st.ended, 52), (b2n (nChk n), 51), (nWrap n, 49), (b2n (nDir n), 48), (1, 32),
    (0x4D435453, 0)]) 64 ++ st.lens ++ List.replicate 128 0 ++ st.win

/-- Fields of an outcome inside Table 19-5. -/
def outcomeOk (r : CmpOutcome) : Bool := decide (r.nbits ≤ 32 ∧ r.lens.length = 320)

/-! ## What a node's end may be (R365 to R371) -/

/-- Result codes (Table 19-4). -/
inductive CmpCode where
  | done | end_ | dstFull | badData | mismatch | badState
  deriving DecidableEq, Repr

def CmpCode.num : CmpCode → Nat
  | .done => 0 | .end_ => 1 | .dstFull => 2 | .badData => 3 | .mismatch => 4 | .badState => 5

/-- How a node ends: its code, the source bytes it used, the destination bytes it wrote, whether state is
saved, and the stream after it. -/
structure CmpEnd where
  code  : CmpCode
  used  : Nat
  bytes : List Byte
  save  : Bool
  st    : Stream

/-- The stream after a node with its data, input and output lengths. -/
def Stream.after (st : Stream) (n : BitVec 512) (data : List Byte) (i o : Nat) (drop : Bool) : Stream :=
  { st with
    wpos := (st.wpos + data.length) % 32768
    fill := if drop then 0 else min 32768 (st.fill + data.length)
    check := checkMore n st.check data, totIn := st.totIn + i, totOut := st.totOut + o
    win := windowMore st.win st.wpos data }

/-- The blocks of a compressing node, newest first, with where each ends: none of more than 65,535 bytes, of the
kind `tables` asks for, and stored wherever that is no longer (R365). -/
def blocksOk (n : BitVec 512) : List (Nat × Nat × Nat) → Nat → Nat → Bool
  | [], _, _ => true
  | (k, p, m) :: r, pos, made =>
    let len := made - m
    let stored := 3 + (8 - (p + 3) % 8) % 8 + 32 + 8 * len
    decide (len ≤ 65535) && (k == 0 || (k == (if bit n 387 then 2 else 1) && decide (pos - p < stored))) && blocksOk n r p m

/-- End of a compressing node; none where the engine's outcome breaks a rule (R365 to R368). What it wrote,
after the bits pending before and with those pending now, decodes to the source. -/
def compressEnd (n : BitVec 512) (st : Stream) (src : List Byte) (cap : Nat) (r : CmpOutcome) : Option CmpEnd :=
  let len := src.length
  let fl := nFlush n
  let ended := fl == 3
  let head := if nFirst n then headerBytes (nWrap n) (nDepth n) else []
  let tail := if ended then
    trailerBytes (nWrap n) (checkMore n st.check src) ((st.totIn + len) % 2 ^ 32) else []
  let bytes := head ++ r.out ++ tail
  let pend := numBits r.bitbuf.toNat r.nbits
  let all := streamBits r.out ++ pend
  let (d, stop) := infAll len (({ st with bits := [], blk := 0, ended := false, mLen := 0 } : Stream).decoder all)
  let shape :=
    decide (r.out.length ≤ len + 5 * ceilDiv len 65535 + 6) && st.bits.isPrefixOf all && d.data == src && d.blk == 0 &&
    d.mLen == 0 && (if ended then stop == .fin && decide (d.bits.length < 8) && d.bits.all (!·) else stop == .short && d.bits.isEmpty) &&
    (if fl = 0 then decide (r.nbits < 8) else r.nbits == 0) && blocksOk n d.blocks d.pos d.made &&
    (!(fl == 1 || fl == 2) || [(0 : Byte), 0, 0xFF, 0xFF].isSuffixOf r.out)
  if !shape then none
  else if cap < bytes.length then some { code := .dstFull, used := min r.used len, bytes := [], save := false, st := st }
  else some { code := if ended then .end_ else .done, used := len, bytes := bytes, save := true
              st := { st.after n src len bytes.length (fl == 2) with bits := pend, ended := ended, lens := r.lens } }

/-- The stream a decompressing node leaves: where its decoder stands, and the bits it has taken in beyond
that. -/
def Stream.stopped (st : Stream) (n : BitVec 512) (d : InfSt) (used : Nat) (bits : List Bool) : Stream :=
  { st.after n d.data used d.made false with
    bits := bits, blk := d.blk, ended := d.last, lens := d.lens, left := if d.blk = 1 then d.left else 0
    mLen := d.mLen, mDist := if 0 < d.mLen then d.mDist else 0 }

/-- End of a decompressing node (R369, R371): what its decoder makes of the source. How far beyond it the engine
has taken input in when the destination fills, how much it had consumed of invalid input, and what it holds of
a block header cut off by the end of the source, which the state object has no room for, are the engine's. None
where the outcome fits neither. -/
def decompressEnd (n : BitVec 512) (st : Stream) (src : List Byte) (cap : Nat) (r : CmpOutcome) : Option CmpEnd :=
  let len := src.length
  match if nFirst n then headerLen (nWrap n) src else some 0 with
  | none => if r.used ≤ len then some { code := .badData, used := r.used, bytes := [], save := false, st := st } else none
  | some h =>
    let (d, stop) := infAll cap (st.decoder (streamBits (src.drop h)))
    let fin (code : CmpCode) (used : Nat) (bits : List Bool) (save : Bool) : CmpEnd :=
      { code := code, used := used, bytes := d.data, save := save, st := st.stopped n d used bits }
    let bad := if r.used ≤ len then some (fin .badData r.used [] false) else none
    match stop with
    | .bad => bad
    | .fin =>
      let t := trailerLen (nWrap n)
      let rest := bitBytes (d.bits.drop ((8 - d.pos % 8) % 8))
      if rest.length < t then bad
      else
        let e := fin .end_ (len - (rest.length - t)) [] true
        if rest.take t = trailerBytes (nWrap n) e.st.check (e.st.totOut % 2 ^ 32) then some e
        else some { e with code := .mismatch, save := false }
    | .full =>
      let ahead := d.bits.length - 8 * (len - r.used)
      if len < r.used || d.bits.length < 8 * (len - r.used) || 32 < ahead then none
      else some (fin .dstFull r.used (d.bits.take ahead) true)
    | .short =>
      some (fin .done len (if d.bits.length ≤ 32 then d.bits else numBits r.bitbuf.toNat r.nbits) true)

/-! ## COMPRESS_END -/

/-- Result record (Table 19-4). -/
def resultBytes (e : CmpEnd) : List Byte :=
  natBytes (packNat [(e.st.totOut % 2 ^ 64, 192), (e.st.totIn % 2 ^ 64, 128), (e.st.check, 96), (e.bytes.length, 64),
    (e.used, 32), (e.code.num, 0)]) 32

/-- First fault among a node's accesses: source and state read, destination, state and result written. -/
def cmpFault (s : State) (g : Graph) (n : BitVec 512) (a : BitVec 256) : Option MemFault :=
  let o (k : Nat) : Obj := heldObj s n k
  ((dmFault s ((o 0).base + caSrcOff a) (caSrcLen a)).orElse fun _ =>
   (if nHist n then dmFault s (o 2).base 33280 else none)).orElse fun _ =>
  ((macDrops s ((o 1).base + caDstOff a) (caDstCap a)).orElse fun _ =>
   (if nHist n then macDrops s (o 2).base 33280 else none)).orElse fun _ =>
  macDrops s (g.param (8 * nCmpRes n)) 32

/-- First destination under a registered image. -/
def cmpImage (s : State) (n : BitVec 512) (a : BitVec 256) : Option Nat :=
  let o (k : Nat) : Obj := heldObj s n k
  if imageHit s ((o 1).base + caDstOff a) (caDstCap a) then some ((o 1).base + caDstOff a)
  else if nHist n && imageHit s (o 2).base 33280 then some (o 2).base
  else none

/-- The stream a node starts from; none where the state object is another stream's (R372). -/
def streamOf (s : State) (n : BitVec 512) : Option Stream × State :=
  if nFirst n || !nHist n then
    let (w, s) := freeBytes s 32768
    (some { wpos := 0, fill := 0, check := checkInit n, totIn := 0, totOut := 0, win := w }, s)
  else
    let b := (heldObj s n 2).base
    let h : BitVec 512 := BitVec.ofNat 512 (dmNum s b 64)
    if shMagicOk h n then
      (some { wpos := shWpos h % 32768, fill := min 32768 (shFill h), check := shCheck h, totIn := shIn h
              totOut := shOut h, win := dmRead s (b + 512) 32768, bits := numBits (bits h 95 64) (min 32 (bits h 63 56))
              blk := bits h 54 53, ended := bit h 52, lens := dmRead s (b + 64) 320, left := bits h 303 288
              mLen := bits h 312 304, mDist := bits h 328 313 }, s)
    else (none, s)

/-- Write what a node leaves: destination bytes, of which those past the ones written are not defined,
the state object, the result record (R370). -/
def cmpWrite (s : State) (g : Graph) (n : BitVec 512) (a : BitVec 256) (e : CmpEnd) : State :=
  let dst := heldObj s n 1
  let put (s : State) (at_ : Nat) (d : List Byte) : State := dmWrite s (polAt s g.ctx at_) at_ d
  let (rest, s) := if e.code = .badState then (([] : List Byte), s) else freeBytes s (caDstCap a - e.bytes.length)
  let s := if e.code = .badState then s else put s (dst.base + caDstOff a) (e.bytes ++ rest)
  let s := if nHist n && e.save then put s (heldObj s n 2).base (stateBytes n e.st) else s
  put s (g.param (8 * nCmpRes n)) (resultBytes e)

/-- A BAD_STATE end: the totals and check value of the record are no stream's (log 8). -/
def badStateEnd (s : State) : CmpEnd × State :=
  let (i, s) := takeFree s
  let (o, s) := takeFree s
  let (c, s) := takeFree s
  ({ code := .badState, used := 0, bytes := [], save := false
     st := { wpos := 0, fill := 0, check := c.toNat % 2 ^ 32, totIn := i.toNat, totOut := o.toNat, win := [] } }, s)

/-- Count a node's end, free the engine, and complete the node; strict ends the instance (R370). -/
def cmpFinish (s : State) (eng id i : Nat) (n : BitVec 512) (code : CmpCode) : State :=
  let s := modCmp s eng fun c => { c with
    run := none, nodes := c.nodes + 1, errors := if 2 ≤ code.num then c.errors + 1 else c.errors }
  let s := nodeEnded { s with pwr := s.pwr.cmpStops [eng] } id i
  if nStrict n && 2 ≤ code.num then failInst s id i .formatFault else s

/-- COMPRESS_END. -/
def cmpEndOp (s : State) (eng : Nat) (r : CmpOutcome) : State :=
  match (cmpOf s eng).run with
  | none => s
  | some (id, i) =>
    match tfind s.insts id with
    | none => s
    | some x =>
      match graphOf s x with
      | none => s
      | some g =>
        let n := g.nodes.getD i 0
        let a := (x.node i).arg
        match cmpFault s g n a, cmpImage s n a with
        | some m, _ => hwFault s x.ctx m (some id)
        | none, some at_ => fixedFault s x.ctx 12 eng .boundFault at_ (some id)
        | none, none =>
          let src0 := heldObj s n 0
          let at_ := src0.base + caSrcOff a
          let src := dmRead s at_ (caSrcLen a)
          let s := dmTouch s (polAt s x.ctx at_) at_ (caSrcLen a)
          match streamOf s n with
          | (none, s') =>
            let (e, s') := badStateEnd s'
            cmpFinish (cmpWrite s' g n a e) eng id i n .badState
          | (some st, s') =>
            if !outcomeOk r then s
            else match (if nDir n then decompressEnd n st src (caDstCap a) r
                else compressEnd n st src (caDstCap a) r) with
              | none => s
              | some e => cmpFinish (cmpWrite s' g n a e) eng id i n e.code

/-! ## Meanings -/

/-- COMPRESS_NODE_READY (R364). -/
def execCompressNodeReady (inst node : Nat) (s : State) : Host.Outcome State Fault Refusal :=
  onLive s (cmpReadyOp s inst node)

/-- COMPRESS_START (R364). -/
def execCompressStart (engine : Nat) (s : State) : Host.Outcome State Fault Refusal := onLive s (cmpStartOp s engine)

/-- COMPRESS_END (R370). -/
def execCompressEnd (engine : Nat) (r : CmpOutcome) (s : State) : Host.Outcome State Fault Refusal :=
  onLive s (cmpEndOp s engine r)

end Sys2Proof.Machine
end

