-- ==== Sys2Proof/Machine/Security.lean ====
section
/-! DEFINITION. Security.lean: the security commands, attestation, set records, weight loads and debug
access (20). The standards' functions are the constants of Config (log 7). -/

namespace Sys2Proof.Machine

/-! ## SEC_CMD (Tables 20-5a and 20-5b) -/

def scTag (r : W64) : Nat := bits r 3 0
def scOp (r : W64) : Nat := bits r 7 4
def scCtx (r : W64) : Nat := bits r 23 14
def scIn (r : W64) : Nat := bits r 44 32
def scOut (r : W64) : Nat := bits r 63 51

/-- End a command; progress is kept (Table 20-5b). -/
def secDone (s : State) (tag : Nat) (r : Result) : State := setSecCmd s (done tag r s.sec.stat.extra)

/-- Input and output pages of an op (Table 20-6). -/
def scPages : Nat → Nat × Nat
  | 1 => (1, 2) | 2 => (0, 1) | 3 => (2, 0) | 6 => (0, 1) | 7 => (2, 0) | _ => (1, 0)

/-- The page rules of R381. -/
def scPagesOk (s : State) (r : W64) : Bool :=
  let (i, o) := scPages (scOp r)
  (List.range i).all (fun k => pbPageIn s (scIn r + k) 1 (some (scCtx r))) &&
  (List.range o).all (fun k => pbPageIn s (scOut r + k) 0 (some (scCtx r)))

/-- A run of bytes. -/
def slice (d : List Byte) (at_ n : Nat) : List Byte := (d.drop at_).take n

/-- Whether a run of bytes is zero. -/
def zeroRun (d : List Byte) (at_ n : Nat) : Bool := (slice d at_ n).all (· == 0)

/-- A list as exactly n bytes. -/
def fit (n : Nat) (d : List Byte) : List Byte := (d ++ List.replicate n 0).take n

/-- Bytes of a digest. -/
def digestBytes (x : BitVec 384) : List Byte := natBytes x.toNat 48

/-! ## Identity (R377) -/

/-- The fuse measurement F: whole bytes for each field, in the order named. -/
def fuseMeasure (f : Fuses) : BitVec 384 :=
  Config.sha3 (natBytes f.serial.toNat 8 ++ natBytes f.grade 1 ++ digestBytes f.vendorKh ++ digestBytes f.ownerKh ++
    [if f.dbgClose then 1 else 0] ++ fit 416 f.repair)

/-- Characters as bytes. -/
def ascii (s : String) : List Byte := s.toList.map (fun c => BitVec.ofNat 8 c.toNat)

/-- CDI_0, from UDS and the fuse measurement (R376, Table 20-2). -/
def cdiOf (f : Fuses) : List Byte :=
  Config.kmac256 (natBytes f.uds.toNat 32) (digestBytes (fuseMeasure f)) 512 (ascii "TOL CDI0")

/-- Seeds of IDS and IDK (Table 20-2). -/
def idsSeed (s : State) : List Byte := Config.kmac256 (s.sec.cdi.getD []) (ascii "IDS") 256 []
def idkSeed (s : State) : List Byte := Config.kmac256 (s.sec.cdi.getD []) (ascii "IDK") 512 []

/-- IDS public key and IDK encapsulation key. -/
def idsKey (s : State) : List Byte := fit 1952 (Config.mldsaPublic (idsSeed s))
def idkKey (s : State) : List Byte := fit 1184 (Config.mlkemPublic (idkSeed s))

/-- The key that wraps what an ML-KEM ciphertext carries: KMAC256 of the shared secret (R384, R386). -/
def wrapKey (seed ct bound : List Byte) (name : String) : List Byte :=
  Config.kmac256 (Config.mlkemDecap seed ct) bound 256 (ascii name)

/-- Open a wrapped key: AES-256-GCM with an all-zero IV and no additional data. -/
def unwrap (kek wrapped : List Byte) : Option (List Byte) := Config.gcmOpen kek (List.replicate 12 0) [] wrapped

/-! ## Attestation (R382, R383) -/

/-- A PARTITION record body (Table 3-5). -/
def partBytes (p : Partition) : List Byte :=
  natBytes (packNat [(p.olShare.toNat, 128), (p.cmpMask.toNat, 121), (b2n p.aud, 120), (p.capMask.toNat, 116),
    (p.pipeMask.toNat, 112), (p.ssSize, 104), (p.ssBase, 96), (p.chMask.toNat, 64), (p.coreMask.toNat, 8),
    (b2n p.fnGrant, 7), (b2n p.enc, 6), (p.cls, 4), (b2n p.auto, 3), (p.idx, 0)]) 24

/-- Record of a firmware stage. -/
def stageBytes (s : State) (k : Nat) : List Byte :=
  let count := match k with | 1 => s.fuses.svnM | 2 => s.fuses.svnF | _ => s.fuses.svnC
  let ok := s.boot.fwDone.getLsbD (k - 1)
  match tfind s.boot.images k with
  | none => List.replicate 49 0 ++ natBytes count 1 ++ List.replicate 14 0
  | some i => digestBytes i.digest ++ natBytes i.svn 1 ++ natBytes count 1 ++ [if ok then 1 else 0] ++ [0] ++
      natBytes i.image.length 4 ++ List.replicate 8 0

/-- Set slots (Table 20-7). -/
def secSlotBytes (s : State) (k : Nat) : List Byte :=
  match tfind s.sec.slots k with
  | none => List.replicate 64 0
  | some x => natBytes x.setId.toNat 4 ++ natBytes x.policy.toNat 2 ++ [0, 0] ++ digestBytes x.ekHash ++
      List.replicate 8 0

/-- The 4,096-byte body of the report (Table 20-7). -/
def reportBody (s : State) (nonce : List Byte) : List Byte :=
  let pol := s.cfg.attestPolicy
  let repair := if pol.getLsbD 1 then fit 416 s.fuses.repair else List.replicate 416 0
  let parts := (List.range 8).flatMap fun i =>
    match partRec s i with
    | none => List.replicate 32 0
    | some p => if pol.getLsbD 0 then partBytes p ++ natBytes (fnOf s i).st.code 1 ++ List.replicate 7 0
      else List.replicate 32 0
  natBytes 0x54525041 4 ++ natBytes 1 2 ++ natBytes 3309 2 ++ natBytes 4096 4 ++ natBytes s.sec.reports.toNat 4 ++
  fit 64 nonce ++ natBytes s.fuses.serial.toNat 8 ++ natBytes (stamp s 37).toNat 8 ++
  [0xA7, Config.stepping, 0x48, BitVec.ofNat 8 s.fuses.grade] ++
  [BitVec.ofNat 8 s.boot.cfgSrc, BitVec.ofNat 8 s.boot.stage.code, BitVec.ofNat 8 s.boot.lastReset, pol] ++
  natBytes s.boot.cfgGen.toNat 4 ++ List.replicate 4 0 ++
  digestBytes (Config.sha3 (idsKey s)) ++ digestBytes (Config.sha3 (idkKey s)) ++ digestBytes s.fuses.vendorKh ++
  digestBytes s.fuses.ownerKh ++ digestBytes s.boot.cfgDigest ++
  stageBytes s 1 ++ stageBytes s 2 ++ stageBytes s 3 ++
  [if s.fuses.dbgClose then 0 else 1, if s.fuses.dbgKill then 1 else 0] ++
  [s.cfg.debugPolicy, s.sec.level, s.sec.pend, s.sec.signer].map (BitVec.ofNat 8) ++ [0, 0] ++
  digestBytes s.sec.tokHash ++ List.replicate 8 0 ++
  [s.fuses.svnM, s.fuses.svnF, s.fuses.svnC, b2n s.fuses.ok].map (BitVec.ofNat 8) ++ List.replicate 28 0 ++
  repair ++ List.replicate 96 0 ++ parts ++ List.replicate 64 0 ++
  (List.range 16).flatMap (secSlotBytes s) ++ List.replicate 1600 0

/-- ATTEST: body, signature, and zeros to the end of the second page. -/
def attestOp (s : State) (r : W64) : State :=
  let (nonce, s) := pbTake s (scIn r * 4096) 64
  let body := fit 4096 (reportBody s nonce)
  let sig := fit 3309 (Config.mldsaSign (idsSeed s) (Config.sha3 body) s.free)
  let s := { s with free := s.free + 1 }
  let s := pbStore s (scOut r * 4096) (body ++ fit 4096 sig)
  secDone { s with sec := { s.sec with reports := s.sec.reports + 1 } } (scTag r) .ok

/-- GET_ID. -/
def getIdOp (s : State) (r : W64) : State :=
  let at_ := scOut r * 4096
  let s := pbStore s at_ (natBytes s.fuses.serial.toNat 8)
  secDone (pbStore (pbStore s (at_ + 64) (idsKey s)) (at_ + 2016) (idkKey s)) (scTag r) .ok

/-! ## Set records (R384, R385) -/

/-- The slot that holds a set. -/
def slotOfSet (s : State) (id : W32) : Option Nat :=
  ((s.sec.slots.filter (fun e => e.2.setId == id)).map (·.1)).head?

/-- SET_LOAD, checks in the order of R385. -/
def setLoadOp (s : State) (r : W64) : State :=
  let (d, s) := pbTake s (scIn r * 4096) 8192
  let policy : BitVec 16 := BitVec.ofNat 16 (blockNum d 6 2)
  let id : W32 := BitVec.ofNat 32 (blockNum d 8 4)
  let key := slice d 1296 1952
  let fail := secDone s (scTag r)
  if blockNum d 0 4 != 0x4B544553 || blockNum d 4 2 != 1 || policy.toNat / 4 != 0 || id == 0 || !zeroRun d 12 4 ||
      blockNum d 16 8 != s.fuses.serial.toNat || !zeroRun d 24 8 || !zeroRun d 80 48 || !zeroRun d 6557 1635 then
    fail .badBlock
  else if Config.sha3 key != s.fuses.ownerKh ||
      !Config.sigValid key (Config.sha3 (slice d 0 3248)) (slice d 3248 3309) then fail .badSig
  else if policy.getLsbD 0 && decide (2 ≤ s.sec.level) then fail .policy
  else match unwrap (wrapKey (idkSeed s) (slice d 128 1088) (slice d 0 128) "TOL SETK") (slice d 1216 80) with
    | none => fail .tag
    | some seed =>
      let h := Config.sha3 (Config.mlkemPublic seed)
      if digestBytes h != slice d 32 48 then fail .tag
      else match (slotOfSet s id).orElse (fun _ => tfirst s.sec.slots (fun _ => false) 0 16) with
        | none => fail .resource
        | some k => secDone (slotPut s k (some { setId := id, policy := policy, ekHash := h, seed := seed })) (scTag r) .ok

/-- SET_DROP; a set that no slot holds leaves every slot as it is (log 21). -/
def setDropOp (s : State) (r : W64) : State :=
  let (d, s) := pbTake s (scIn r * 4096) 4
  match slotOfSet s (BitVec.ofNat 32 (leNat d)) with
  | none => secDone s (scTag r) .ok
  | some k => secDone (slotPut s k none) (scTag r) .ok

/-! ## Weight loads (R386, R387) -/

/-- Chunks of a package. -/
def whChunks (h : List Byte) : Nat := ceilDiv (whPlain h) (2 ^ whLog h)
/-- Bytes of a package. -/
def whLen (h : List Byte) : Nat := 4096 + whPlain h + 16 * whChunks h

/-- Layout of a package header. -/
def whOk (h : List Byte) : Bool :=
  blockNum h 0 4 == 0x50475457 && blockNum h 4 2 == 1 && whPolicy h / 4 == 0 &&
  decide (16 ≤ whLog h ∧ whLog h ≤ 24 ∧ 1 ≤ whPlain h) && zeroRun h 40 24 && zeroRun h 1200 2896

/-- WEIGHT_LOAD up to its first chunk: the block, the handles, the header and the checks of R387. -/
def weightLoadOp (s : State) (r : W64) : State :=
  let (d, s) := pbTake s (scIn r * 4096) 32
  let b : BitVec 256 := BitVec.ofNat 256 (leNat d)
  let ctx := scCtx r
  let s := setSecCmd s { s.sec.stat with extra := 0 }
  let fail (s : State) := secDone s (scTag r)
  if bits b 215 176 % 64 != 0 then fail s .badBlock
  else match resolve s ctx (bits b 31 0) true false false, resolve s ctx (bits b 63 32) false true false with
    | some a, some c =>
      if a.remote || c.remote then fail s .r5
      else if a.len < bits b 215 176 + 4096 then fail s .badBlock
      else
        let at_ := a.base + bits b 215 176
        match dmFault s at_ 4096 with
        | some m => fail (hwFault s ctx m none) .stopped
        | none =>
          let h := dmRead s at_ 4096
          if !whOk h || a.len < bits b 215 176 + whLen h || c.len < bits b 255 216 + whPlain h then fail s .badBlock
          else match (slotOfSet s (whSet h)).bind (fun k => (tfind s.sec.slots k).map (fun x => (k, x))) with
            | none => fail s .resource
            | some (k, x) =>
              let pol := whPolicy h ||| x.policy.toNat
              if (pol.testBit 1 && !(partRec s (ctxOf s ctx).part).any (·.enc)) ||
                  (pol.testBit 0 && decide (2 ≤ s.sec.level)) then fail s .policy
              else match unwrap (wrapKey x.seed (slice h 64 1088) (slice h 0 1152) "TOL CNTK") (slice h 1152 48) with
              | none => fail s .tag
              | some key =>
                let l : WLoad := { ctx := ctx, src := a.idx, dst := c.idx, srcAt := at_, dstAt := c.base + bits b 255 216
                                   header := h, key := key, next := 0, slot := k }
                let s := objRef (objRef s a.idx) c.idx
                setSecCmd { s with sec := { s.sec with load := some l } } { tag := scTag r, busy := true }
    | _, _ => fail s .r5

/-- A chunk's plaintext when its tag passes: IV iv_base ‖ i, additional data header bytes 0 to 63 and i (R386). -/
def chunkOpen (l : WLoad) (d : List Byte) : Option (List Byte) :=
  Config.gcmOpen l.key (slice l.header 32 8 ++ natBytes l.next 4) (slice l.header 0 64 ++ natBytes l.next 8) d

/-- WEIGHT_CHUNK: the next chunk is read, checked and written. -/
def weightChunkOp (s : State) : State :=
  match s.sec.load with
  | none => s
  | some l =>
    let size := 2 ^ whLog l.header
    let n := min size (whPlain l.header - l.next * size)
    let src := l.srcAt + 4096 + l.next * (size + 16)
    let dst := l.dstAt + l.next * size
    if (ctxOf s l.ctx).st != .active then loadAbort s l .stopped
    else if imageHit s dst n then loadAbort (fixedFault s l.ctx 8 0 .boundFault dst none) l .stopped
    else match (dmFault s src (n + 16)).orElse (fun _ => macDrops s dst n) with
      | some m => loadAbort (hwFault s l.ctx m none) l .stopped
      | none =>
        match chunkOpen l (dmRead s src (n + 16)) with
        | none => loadAbort s l .tag
        | some p =>
          let s := dmWrite s (polAt s l.ctx dst) dst (fit n p)
          let l := { l with next := l.next + 1 }
          let s := { s with sec := { s.sec with load := some l } }
          let s := setSecCmd s { s.sec.stat with extra := l.next }
          if l.next = whChunks l.header then loadFinish s l .ok else s

/-! ## Debug (R388, R389) -/

/-- DEBUG_CHALLENGE. -/
def challengeOp (s : State) (r : W64) : State :=
  let n := Config.randomNonce s.free
  let s := { s with free := s.free + 1, sec := { s.sec with nonce := some n } }
  secDone (pbStore s (scOut r * 4096) (natBytes n.toNat 32)) (scTag r) .ok

/-- A token's outcome; the nonce is consumed by any (R389). -/
def tokenOp (s : State) (d : List Byte) : Result × State :=
  let nonce := s.sec.nonce
  let s := { s with sec := { s.sec with nonce := none } }
  let lvl := blockNum d 4 1
  let signer := blockNum d 5 1
  let key := slice d 64 1952
  if blockNum d 0 4 != 0x4E4B5444 || decide (3 < lvl ∨ 1 < signer) || !zeroRun d 6 2 || !zeroRun d 48 16 ||
      !zeroRun d 5325 2867 then (.badBlock, s)
  else if s.fuses.dbgKill || s.cfg.debugPolicy = 0 || (s.cfg.debugPolicy = 1 && signer = 0) || lvl ≤ s.sec.level then
    (.policy, s)
  else if Config.sha3 key != (if signer = 0 then s.fuses.vendorKh else s.fuses.ownerKh) ||
      !Config.sigValid key (Config.sha3 (slice d 0 2016)) (slice d 2016 3309) then (.badSig, s)
  else if blockNum d 8 8 != s.fuses.serial.toNat || nonce != some (BitVec.ofNat 256 (blockNum d 16 32)) then
    (.badBlock, s)
  else
    let h := Config.sha3 (slice d 0 8192)
    (.ok, { s with sec := { s.sec with
      level := if lvl = 1 then 1 else s.sec.level, pend := if lvl = 1 then 0 else lvl
      signer := signer, tokHash := h } })

/-- DEBUG_UNLOCK. -/
def unlockOp (s : State) (r : W64) : State :=
  let (d, s) := pbTake s (scIn r * 4096) 8192
  let (res, s) := tokenOp s d
  secDone s (scTag r) res

/-- TAP instructions: the mandatory ones always, the others by the level in force (Table 20-10). -/
def tapOp (s : State) (i : TapInstr) : State :=
  let ok := match i with
    | .bypass => true
    | .idcode => true
    | .samplePreload => true
    | .boundaryScan _ => decide (1 ≤ s.sec.level)
    | .debugPort security => if security then decide (3 ≤ s.sec.level) else decide (2 ≤ s.sec.level)
  { s with sec := { s.sec with tapOk := ok } }

/-! ## Fuses (R380, Table 20-6) -/

/-- Count of a stage's SVN counter. -/
def svnOf (f : Fuses) (k : Nat) : Nat := match k with | 1 => f.svnM | 2 => f.svnF | _ => f.svnC

/-- Set a stage's SVN counter. -/
def svnSet (f : Fuses) (k v : Nat) : Fuses :=
  match k with
  | 1 => { f with svnM := v }
  | 2 => { f with svnF := v }
  | _ => { f with svnC := v }

/-- SVN_ADVANCE: `supply` says the programming supply is within its limits; `blown` is the count an
interrupted programming leaves. -/
def svnAdvanceOp (s : State) (r : W64) (supply : Bool) (blown : Option Nat) : State :=
  let (d, s) := pbTake s (scIn r * 4096) 1
  let k := leNat d
  match (if k = 0 || 3 < k then none else tfind s.boot.images k) with
  | none => secDone s (scTag r) .badBlock
  | some i =>
    let c := svnOf s.fuses k
    if i.svn ≤ c then secDone s (scTag r) .ok
    else if !supply then secDone s (scTag r) .resource
    else
      let v := match blown with
        | some b => max c (min b i.svn)
        | none => i.svn
      secDone { s with fuses := svnSet s.fuses k v } (scTag r) .ok

/-- KILL_DEBUG. -/
def killDebugOp (s : State) (r : W64) (supply : Bool) : State :=
  let (d, s) := pbTake s (scIn r * 4096) 4
  if leNat d != 0x4B494C4C then secDone s (scTag r) .badBlock
  else if !supply then secDone s (scTag r) .resource
  else secDone { s with fuses := { s.fuses with dbgKill := true } } (scTag r) .ok

/-! ## Carrying out SEC_CMD -/

/-- Carry out a security command. -/
def secRun (s : State) (r : W64) (supply : Bool) (blown : Option Nat) : State :=
  let op := scOp r
  if op = 0 || 9 < op then secDone s (scTag r) .badOp
  else if (ctxOf s (scCtx r)).st != .active then secDone s (scTag r) .bad3
  else if !scPagesOk s r then secDone s (scTag r) .badPage
  else match op with
    | 1 => attestOp s r
    | 2 => getIdOp s r
    | 3 => setLoadOp s r
    | 4 => setDropOp s r
    | 5 => weightLoadOp s r
    | 6 => challengeOp s r
    | 7 => unlockOp s r
    | 8 => svnAdvanceOp s r supply blown
    | _ => killDebugOp s r supply

/-- A write of SEC_CMD with the state of the fuse supply. -/
def secCmdSupply (s : State) (view : Nat) (raw : W64) (supply : Bool) (blown : Option Nat) : State :=
  mgmtCmd s 0x4E0 view raw s.sec.stat setSecCmd fun s =>
    if s.sec.downUntil.isSome then
      setSecCmd { s with sec := { s.sec with heldCmds := s.sec.heldCmds ++ [(view, raw)] } }
        { s.sec.stat with busy := true, tag := scTag raw }
    else secRun s raw supply blown

/-- A write of SEC_CMD (R381); the fuse supply is outside the device (log 8). -/
def secCmdWrite (s : State) (view : Nat) (raw : W64) : State :=
  let (f, s) := takeFree s
  secCmdSupply s view raw (f.getLsbD 0) none

/-- A SEC_CMD word. -/
def secWord (tag : BitVec 4) (op ctx inPage outPage : Nat) : W64 :=
  BitVec.ofNat 64 (packNat [(outPage, 51), (inPage, 32), (ctx, 14), (op, 4), (tag.toNat, 0)])

/-! ## Meanings -/

/-- ATTEST (R382). -/
def execAttest (tag : BitVec 4) (ctx inPage outPage : Nat) (s : State) : Host.Outcome State Fault Refusal :=
  onLive s (secCmdSupply s 0 (secWord tag 1 ctx inPage outPage) true none)

/-- GET_ID (Table 20-6). -/
def execGetId (tag : BitVec 4) (ctx outPage : Nat) (s : State) : Host.Outcome State Fault Refusal :=
  onLive s (secCmdSupply s 0 (secWord tag 2 ctx 0 outPage) true none)

/-- SET_LOAD (R385). -/
def execSetLoad (tag : BitVec 4) (ctx inPage : Nat) (s : State) : Host.Outcome State Fault Refusal :=
  onLive s (secCmdSupply s 0 (secWord tag 3 ctx inPage 0) true none)

/-- SET_DROP (R385). -/
def execSetDrop (tag : BitVec 4) (ctx inPage : Nat) (s : State) : Host.Outcome State Fault Refusal :=
  onLive s (secCmdSupply s 0 (secWord tag 4 ctx inPage 0) true none)

/-- WEIGHT_LOAD (R387). -/
def execWeightLoad (tag : BitVec 4) (ctx inPage : Nat) (s : State) : Host.Outcome State Fault Refusal :=
  onLive s (secCmdSupply s 0 (secWord tag 5 ctx inPage 0) true none)

/-- WEIGHT_CHUNK (R387). -/
def execWeightChunk (s : State) : Host.Outcome State Fault Refusal := onLive s (weightChunkOp s)

/-- DEBUG_CHALLENGE (R389). -/
def execDebugChallenge (tag : BitVec 4) (ctx outPage : Nat) (s : State) : Host.Outcome State Fault Refusal :=
  onLive s (secCmdSupply s 0 (secWord tag 6 ctx 0 outPage) true none)

/-- DEBUG_UNLOCK (R389). -/
def execDebugUnlock (tag : BitVec 4) (ctx inPage : Nat) (s : State) : Host.Outcome State Fault Refusal :=
  onLive s (secCmdSupply s 0 (secWord tag 7 ctx inPage 0) true none)

/-- A token shifted in through the TAP (R389): a security processor that restarts takes none (Table 1-3). -/
def execDebugTokenTap (token : List Byte) (s : State) : Host.Outcome State Fault Refusal :=
  onLive s (if s.sec.downUntil.isSome then s else (tokenOp s token).2)

/-- TAP instructions (R388). -/
def execTapInstruction (i : TapInstr) (s : State) : Host.Outcome State Fault Refusal := onLive s (tapOp s i)

/-- SVN_ADVANCE (R380). -/
def execSvnAdvance (tag : BitVec 4) (ctx inPage : Nat) (supplyOk : Bool) (blown : Option Nat) (s : State) :
    Host.Outcome State Fault Refusal :=
  onLive s (secCmdSupply s 0 (secWord tag 8 ctx inPage 0) supplyOk blown)

/-- KILL_DEBUG (Table 20-6). -/
def execKillDebug (tag : BitVec 4) (ctx inPage : Nat) (supplyOk : Bool) (s : State) :
    Host.Outcome State Fault Refusal :=
  onLive s (secCmdSupply s 0 (secWord tag 9 ctx inPage 0) supplyOk none)

end Sys2Proof.Machine
end

