-- ==== Sys2Proof/Machine/Links.lean ====
section
/-! DEFINITION. Links.lean: Otvas links, rings, grants, proxies and ring counters (21). -/

namespace Sys2Proof.Machine

/-! ## Links (R391, R392) -/

/-- A link. -/
def linkOf (s : State) (n : Nat) : Link := tget s.links n {}

/-- Change a link. -/
def modLink (s : State) (n : Nat) (f : Link → Link) : State := { s with links := tmod s.links n {} f }

/-- Peer chip and peer port of port p of chip i (Table 21-1). -/
def ringPeer (n i p : Nat) : Nat × Nat :=
  match n, p with
  | 2, p => ((i + 1) % 2, p)
  | 4, 0 => ((i + 1) % 4, 1)
  | 4, 1 => ((i + 3) % 4, 0)
  | 4, p => ((i + 2) % 4, p)
  | _, 0 => ((i + 1) % 8, 1)
  | _, 1 => ((i + 7) % 8, 0)
  | _, 2 => ((i + 4) % 8, 2)
  | _, p => (i ^^^ 2, p)

/-- Every chip of a ring of n. -/
def ringAll (n : Nat) : Nat := 2 ^ n - 1

/-- Ring state of R394, once RING_SET has been issued. -/
def ringState (s : State) : RingState :=
  let up := (List.range 4).filter (fun n => (linkOf s n).st == .up)
  if up.length = 4 then .up
  else if !up.isEmpty && s.ring.reach.toNat == ringAll s.ring.n then .degraded
  else .forming

/-- Bring the ring state up to date after a link changed. -/
def ringUpdate (s : State) : State :=
  if s.ring.st = .none then s else { s with ring := { s.ring with st := ringState s } }

/-- A link that comes UP gives a path to every chip again, and nothing that ended is restored (R402;
log 15). -/
def ringReached (s : State) : State :=
  if s.ring.st = .none then s
  else { s with ring := { s.ring with reach := BitVec.ofNat 8 (ringAll s.ring.n) } }

/-- Lanes that passed and the first that failed. -/
def badLanes (ok : BitVec 9) : List Nat := (List.range 9).filter (fun i => !ok.getLsbD i)

/-- LINK_TRAINING: a training ends. -/
def trainOp (s : State) (n : Nat) (ok : BitVec 9) : State :=
  if (linkOf s n).st != .training then s
  else match badLanes ok with
    | [] => ringUpdate (ringReached (modLink s n (fun l => { l with st := .up, spare := 8, trainedOnce := true })))
    | [k] => ringUpdate (ringReached (modLink s n (fun l => { l with st := .up, spare := k, trainedOnce := true })))
    | _ =>
      let s := modLink s n (fun l => { l with st := .failed, spare := 15, trainedOnce := true })
      ringUpdate (event s 0x0034 0 13 n 0 n none)

/-- RETRAIN: an UP link trains again. -/
def retrainOp (s : State) (n : Nat) : State :=
  if (linkOf s n).st = .up then
    ringUpdate (modLink s n (fun l => { l with st := .training, spare := 15, retrains := l.retrains + 1 }))
  else s

/-- FLIT_REPLAY: a flit is sent again; none is lost or duplicated. -/
def replayOp (s : State) (n : Nat) : State :=
  if (linkOf s n).st = .up then modLink s n (fun l => { l with replays := l.replays + 1 }) else s

/-! ## OL_CMD (R394, R397, R399) -/

/-- Set OL_CMD_STAT. -/
def setOl (s : State) (st : CmdStat) : State := { s with olCmd := st }

/-- End a link command; the grant ID of the last export stays. -/
def olEnd (s : State) (tag : Nat) (r : Result) : State := setOl s (done tag r s.olCmd.extra)

/-- What a link does with its peer's answer. -/
def linkMeet (s : State) (p : Nat) (x : Option PeerId) : State :=
  if (linkOf s p).st != .up then s
  else match x with
    | none => s
    | some x =>
      let ok := x.ringId == s.ring.id && (x.chip, x.port) == ringPeer s.ring.n s.ring.chip p
      modLink s p (fun l => { l with
        peerChip := x.chip % 8, peerPort := x.port % 4, st := if ok then .up else .miswired })

/-- RING_SET: the ring block is checked and the ring formed. -/
def ringSetRun (s : State) (page tag : Nat) (peers : List (Option PeerId)) : State :=
  let (d, s) := pbTake s (page * 4096) 16
  let b : BitVec 128 := BitVec.ofNat 128 (leNat d)
  let n := bits b 35 32
  let chip := bits b 42 40
  let root := bits b 50 48
  let standby := bits b 63 56
  let clean := zeroField b 39 36 && zeroField b 47 43 && zeroField b 55 51 && zeroField b 127 64
  if !clean || !(n == 2 || n == 4 || n == 8) || n ≤ chip || n ≤ root || 2 ^ n ≤ standby then
    olEnd s tag .badBlock
  else if !s.grants.isEmpty || s.hub.any (fun e => e.2.owner.isSome && e.2.ring) then olEnd s tag .resource
  else
    let s := { s with ring :=
      { id := BitVec.ofNat 32 (bits b 31 0), reach := BitVec.ofNat 8 (2 ^ chip),
        standby := BitVec.ofNat 8 standby, root := root, chip := chip, n := n, st := .forming } }
    let s := (peers.zipIdx).foldl (fun s e => linkMeet s e.2 e.1) s
    let s := if (List.range 4).any (fun p => (linkOf s p).st == .up) then ringReached s else s
    olEnd (ringUpdate s) tag .ok

/-! Fields of a grant block (Table 21-2). -/
def gbHandle (b : BitVec 256) : Nat := bits b 255 224
def gbPhandle (b : BitVec 256) : Nat := bits b 223 192
def gbFence (b : BitVec 256) : Nat := bits b 191 178
def gbPfence (b : BitVec 256) : Nat := bits b 177 164
def gbTctx (b : BitVec 256) : Nat := bits b 163 154
def gbTchip (b : BitVec 256) : Nat := bits b 153 151
def gbR0 (b : BitVec 256) : Bool := bit b 149
def gbR1 (b : BitVec 256) : Bool := bit b 150
def gbOctx (b : BitVec 256) : Nat := bits b 9 0

/-- The holder a grant counts as (R397). -/
def grantHolder (id : Nat) : Nat := 1024 + id

/-- Lowest free grant ID. -/
def freeGrant (s : State) : Option Nat := tfirst s.grants (fun _ => false) 0 4096

/-- Whether an export may use the ring: UP or DEGRADED, and this chip not in standby (R394, R397). -/
def ringUsable (s : State) : Bool :=
  (s.ring.st == .up || s.ring.st == .degraded) && !s.ring.standby.getLsbD s.ring.chip

/-- Whether a grant block names another chip of the ring. -/
def tchipOk (s : State) (b : BitVec 256) : Bool :=
  decide (gbTchip b < s.ring.n) && gbTchip b != s.ring.chip

/-- Take a grant ID for an export. -/
def grantTake (s : State) (tag id : Nat) (g : Grant) : State :=
  setOl { s with grants := tput s.grants id g } (done tag .ok id)

/-- EXPORT_OBJ on the owner's chip; `ok` says that tctx is ACTIVE there and phandle FREE. -/
def exportObjRun (s : State) (tag : Nat) (b : BitVec 256) (ok : Bool) : State :=
  let octx := gbOctx b
  match resolve s octx (gbHandle b) (gbR0 b) (gbR1 b) false with
  | none => olEnd s tag .r5
  | some h =>
    let o := tget s.objs h.idx {}
    let pi := gbPhandle b % 262144
    if !(o.ownerHolds && o.owner == octx) || h.remote || allocIdx h.idx || !ok || !tchipOk s b || allocIdx pi ||
        pi = 0 || gbPhandle b / 262144 = 0 then olEnd s tag .r5
    else match freeGrant s with
      | none => olEnd s tag .resource
      | some id =>
        if !ringUsable s || 7 ≤ o.importers.length then olEnd s tag .resource
        else
          let s := modObj s h.idx (fun o => { o with
            importers := o.importers ++ [{ ctx := grantHolder id, r0 := gbR0 b, r1 := gbR1 b }] })
          grantTake s tag id { isFence := false, index := h.idx, octx := octx, tctx := gbTctx b,
                               tchip := gbTchip b, r0 := gbR0 b, r1 := gbR1 b, proxy := gbPhandle b }

/-- EXPORT_FENCE on the owner's chip. -/
def exportFenceRun (s : State) (tag : Nat) (b : BitVec 256) (ok : Bool) : State :=
  let octx := gbOctx b
  let f := gbFence b
  let x := fenceOf s f
  if x.st != .live || !(x.ownerHolds && x.owner == octx) || x.remote.isSome || !ok || !tchipOk s b then
    olEnd s tag .r5
  else match freeGrant s with
    | none => olEnd s tag .resource
    | some id =>
      if !ringUsable s || 15 ≤ x.importers.length then olEnd s tag .resource
      else
        let s := modFence s f (fun x => { x with
          importers := x.importers ++ [{ ctx := grantHolder id, r0 := gbR0 b, r1 := gbR1 b }] })
        grantTake s tag id { isFence := true, index := f, octx := octx, tctx := gbTctx b, tchip := gbTchip b,
                             r0 := gbR0 b, r1 := gbR1 b, proxy := gbPfence b }

/-- A grant's hold on the owner's object or fence ends. -/
def grantLeave (s : State) (id : Nat) (g : Grant) : State :=
  if g.isFence then fenceLeave s g.index (grantHolder id) else objLeave s g.index (grantHolder id)

/-- A grant ends (R399): a revoked one gives back the reference of the copies that still ran. -/
def grantEnd (s : State) (id : Nat) : State :=
  match tfind s.grants id with
  | none => s
  | some g =>
    let s := { s with grants := tdel s.grants id }
    if g.revoked then objUnref s g.index else grantLeave s id g

/-- REVOKE. COPY nodes that have resolved the proxy run to their end and hold a reference (R399). -/
def revokeRun (s : State) (tag id : Nat) (inFlight : Bool) : State :=
  match tfind s.grants id with
  | none => olEnd s tag .r5
  | some g =>
    if g.revoked then olEnd s tag .r5
    else if inFlight && !g.isFence then
      let s := grantLeave (objRef s g.index) id g
      olEnd { s with grants := tput s.grants id { g with revoked := true } } tag .ok
    else olEnd (grantEnd s id) tag .ok

/-- What the other chips answer while a link command runs: peers for RING_SET, whether the target
context and proxy are as an export needs, and whether a revoked proxy is in use. -/
structure OlAnswer where
  peers : List (Option PeerId)
  ok    : Bool

/-- Run a link command: operation, page, then the operation's own checks. -/
def olRun (s : State) (raw : W64) (a : OlAnswer) : State :=
  let tag := bits raw 3 0
  let page := bits raw 44 32
  match bits raw 7 4 with
  | 4 => revokeRun s tag (bits raw 31 16) a.ok
  | op =>
    if op = 0 || 4 < op then olEnd s tag .badOp
    else if !writePage s page none then olEnd s tag .badPage
    else if op = 1 then ringSetRun s page tag a.peers
    else
      let (d, s) := pbTake s (page * 4096) 32
      let b : BitVec 256 := BitVec.ofNat 256 (leNat d)
      if op = 2 then exportObjRun s tag b a.ok
      else exportFenceRun s tag b a.ok

/-- A write of OL_CMD (R107, R397). -/
def olCmdWrite (s : State) (raw : W64) (a : OlAnswer) : State :=
  mgmtCmd s 0x500 0 raw s.olCmd setOl (fun s => olRun s raw a)

/-- The answers of other chips to a command written as a plain register write are free values (log 8). -/
def olCmdRaw (s : State) (raw : W64) : State :=
  let (v, s) := takeFree s
  let peer (i : Nat) : Option PeerId :=
    let w := v.toNat >>> (8 * i)
    if w.testBit 0 then some { ringId := s.ring.id, chip := w / 2 % 8, port := w / 16 % 4 } else none
  olCmdWrite s raw { peers := (List.range 4).map peer, ok := v.toNat.testBit 63 }

/-! ## Proxies on the target chip (R397, R399, R400) -/

/-- Chip that owns a proxy's object or fence, as `remote` keeps it. -/
def remoteChip (r : Option Nat) : Option Nat := r.map (· % 8)

/-- A proxy object comes into being. -/
def proxyObj (s : State) (chip gid tctx h len : Nat) (r0 r1 : Bool) : State :=
  let i := h % 262144
  if (ctxOf s tctx).st = .active && (tget s.objs i {}).st == .free && !allocIdx i && i != 0 && h / 262144 != 0 &&
      s.ring.st != .none then
    let o : Obj :=
      { st := .live, gen := h / 262144, owner := tctx, ownerHolds := true, len := len, rd := r0, wr := r1,
        remote := some (gid * 8 + chip) }
    { s with objs := tput s.objs i o }
  else s

/-- A proxy fence comes into being. -/
def proxyFence (s : State) (chip gid tctx f : Nat) (v : W64) (err abandoned r0 r1 : Bool) : State :=
  if (ctxOf s tctx).st = .active && (fenceOf s f).st == .free && s.ring.st != .none then
    let x : Fence :=
      { st := if abandoned then .abandoned else .live, own0 := r0, own1 := r1, val := v, err := err,
        abandoned := abandoned, owner := tctx, ownerHolds := true, remote := some (gid * 8 + chip) }
    { s with fences := tput s.fences f x }
  else s

/-- A proxy's grant has ended: its context no longer holds it. -/
def proxyGone (s : State) (isFence : Bool) (i : Nat) : State :=
  if isFence then
    if (fenceOf s i).remote.isSome then fenceLeave s i (fenceOf s i).owner else s
  else if (tget s.objs i {}).remote.isSome then objLeave s i (tget s.objs i {}).owner
  else s

/-- A proxy whose owner fence is ABANDONED is so too, and stays held. -/
def Fence.proxyAbandon (x : Fence) : Fence :=
  { x with st := .abandoned, val := BitVec.allOnes 64, err := true, abandoned := true }

/-- PROXY_FENCE_UPDATE. -/
def proxyUpdate (s : State) (f : Nat) (v : W64) (err abandoned : Bool) : State :=
  let x := fenceOf s f
  if x.remote.isSome && x.st == .live then
    modFence s f (fun x => if abandoned then x.proxyAbandon else { x with val := v, err := err })
  else s

/-- PROXY_SIGNAL_FORWARD: a signal of a holder with signal rights, applied at the owner (R14, R119). -/
def signalForward (s : State) (chip f ctx : Nat) (v : W64) (err : Bool) : State :=
  if s.grants.any (fun e => e.2.isFence && e.2.index == f && e.2.tchip == chip && e.2.tctx == ctx && e.2.r1) then
    fenceSignal s f v err
  else s

/-- REMOTE_ACCESS_REQUEST at the owner's chip: its L2 serves a read, or takes a write, inside the
object and with the grant's rights; a registered image is not written (R140, R398). -/
def remoteAccess (s : State) (gid off len : Nat) (d : Option (List Byte)) : State :=
  match tfind s.grants gid with
  | none => s
  | some g =>
    let o := tget s.objs g.index {}
    let a := o.base + off
    if g.isFence || o.len < off + len then s
    else match d with
      | none =>
        if !g.r0 then s
        else match dmFault s a len with
          | some m => hwFault s o.owner m none
          | none => dmTouch s o.policy a len
      | some d =>
        if !g.r1 || d.length != len || imageHit s a len then s
        else match macDrops s a len with
          | some m => hwFault s o.owner m none
          | none => dmWrite s o.policy a d

/-! ## Ring counters (R401) -/

/-- Counters the HUB_ALLOC that waits for the root names. -/
def joinIdx (s : State) : List Nat :=
  (List.range (s.luCmd.extra % 16 + 1)).map (s.luCmd.extra / 16 + ·)

/-- The root answers a join. -/
def joinAcked (s : State) (i : Nat) (ok : Bool) : State :=
  let l := joinIdx s
  if !s.luCmd.busy || !l.contains i || isRoot s then s
  else if ok then
    let s := { s with hub := tupd s.hub i (fun h => { h with joined := true }) }
    if l.all (fun k => !thas s.hub k || (hubOf s k).joined) then
      { s with luCmd := { s.luCmd with result := .ok, busy := false, extra := 0 } }
    else s
  else
    { s with hub := s.hub.filter (fun e => !l.contains e.1)
             luCmd := { s.luCmd with result := .badBlock, busy := false, extra := 0 } }

/-- A wake returns from the root: this chip's watches are evaluated against its count, and each core
that fires drops its L1 data (R287, R401). -/
def ringWake (s : State) (i : Nat) (c : W32) : State :=
  let (_, _, fired) := runWatches (s.fly.watches.filter (onCtr none i)) c
  let s := { s with fly := { s.fly with
    watches := s.fly.watches.filter (fun w => !(onCtr none i w && fired.contains w))
    wakes := s.fly.wakes ++ fired.map (fun w => { sp := w.sp, flash := true }) } }
  unstallAll s (· == .watchPlace)

/-- Counters that a mask carried by a ring message names at this chip: those of the barrier's owner,
ring counters at the root and the others on the chip of the completing agent (R269, R401; log 15). -/
def ringMask (s : State) (i : Nat) (m : BitVec 16) (ring : Bool) : List Nat :=
  (((List.range 16).filter (fun j => m.getLsbD j)).map (i + 1 + ·)).filter
    (fun k => (hubOf s k).owner == (hubOf s i).owner && (hubOf s k).ring == ring)

/-- RING_COUNTER_MESSAGE: to the root, or back from it. -/
def ringMessage (s : State) (m : RingMsg) : State :=
  let live (i : Nat) : Bool := (hubOf s i).owner.isSome && (hubOf s i).ring
  match m with
  | .join _ => s
  | .joinAck i ok => joinAcked s i ok
  | .signal i v => if live i && isRoot s then ctrAdd s none i v none else s
  | .arrive i m => if live i && isRoot s then hubArrive s i (ringMask s i m true) else s
  | .wake i c => if live i && !isRoot s then ringWake s i c else s
  | .release i m =>
    if live i && !isRoot s then
      let sense := (hubOf s i).sense
      let s := (ringMask s i m false).foldl (fun s k => ctrZero s none k) s
      releaseBar (modHub s i (fun h => { h with sense := !sense })) (s.wgs.map (·.1)) (2 + i) sense
    else s

/-! ## UNREACHABLE (R402) -/

/-- A COPY node that runs on a proxy of a chip. -/
def copyOnChip (s : State) (g : Graph) (i chip : Nat) : Bool :=
  let n := g.nodes.getD i 0
  nType n == 3 && ([0, 1].any (fun k => remoteChip (heldObj s n k).remote == some chip))

/-- The COPY nodes of an instance in flight on a lost chip complete with TIMEOUT. -/
def copiesLost (chip : Nat) (s : State) (id : Nat) : State :=
  match tfind s.insts id with
  | none => s
  | some x =>
    match graphOf s x with
    | none => s
    | some g =>
      let hit := (x.nodes.filter (fun e => e.2.st == .running && copyOnChip s g e.1 chip)).map (·.1)
      if hit.isEmpty then s
      else
        let s := hit.foldl (fun s i => modNode s id i (fun r => { r with st := .done })) s
        settleFail (modInst s id (fun x => if x.fail.isSome then x else { x with
          fail := some (.timeout, 0xFFFF) })) id

/-- Whether a context holds a watch or a pending arrival on a ring counter. -/
def ringUser (s : State) (ctx : Nat) : Bool :=
  let ofCtx (id : Nat) : Bool := (tfind s.wgs id).any (·.ctx == ctx)
  let ring (i : Nat) : Bool := (hubOf s i).ring
  s.fly.watches.any (fun w => w.home.isNone && ring w.ctr && ofCtx w.wg) ||
  s.wgs.any (fun e => e.2.ctx == ctx &&
    (e.2.savedWatches.any (fun w => w.home.isNone && ring w.ctr) || (e.2.hubN != 0 && ring e.2.hubAt))) ||
  s.groups.any (fun e => ofCtx e.2.wg && e.2.splits.any (fun p => match p.2.why with
    | .barrier k _ => p.2.st == .syncWait && decide (2 ≤ k) && ring (k - 2)
    | _ => false))

/-- A context is lost with its root. -/
def ringLost (chip : Nat) (s : State) (ctx : Nat) : State :=
  ctxError s ctx (mkErr s 2 0x0034 Status.contextLost.code 13 0 0 (chip + 256) (some ctx)) .contextLost none

/-- Whether an UP link goes to chip j: there is a path to it. -/
def linkedTo (s : State) (j : Nat) : Bool :=
  (List.range 4).any (fun p => (linkOf s p).st == .up && (ringPeer s.ring.n s.ring.chip p).1 == j)

/-- UNREACHABLE: chip j has had no path for 10 ms. -/
def unreachableOp (s : State) (j : Nat) : State :=
  if s.ring.st = .none || s.ring.n ≤ j || j = s.ring.chip || !s.ring.reach.getLsbD j || linkedTo s j then s
  else
    let s := { s with ring := { s.ring with reach := s.ring.reach &&& ~~~(1#8 <<< j) } }
    let s := event s 0x0034 0 13 0 0 (j + 256) none
    let s := { s with fences := s.fences.map fun e =>
      (e.1, if remoteChip e.2.remote = some j && e.2.st = .live then e.2.proxyAbandon else e.2) }
    let s := (tkeys s.insts (fun _ _ => true)).foldl (copiesLost j) s
    let s := (tkeys s.objs (fun _ o => remoteChip o.remote == some j)).foldl
      (fun s i => objLeave s i (tget s.objs i {}).owner) s
    let s := (tkeys s.grants (fun _ g => g.tchip == j)).foldl grantEnd s
    let s := if s.ring.root = j then
        (tkeys s.ctxs (fun k c => c.st == .active && ringUser s k)).foldl (ringLost j) s
      else s
    ringUpdate s

/-! ## Meanings -/

/-- LINK_TRAINING (R392). -/
def execLinkTraining (link : Nat) (lanesOk : BitVec 9) (s : State) : Host.Outcome State Fault Refusal :=
  onLive s (trainOp s link lanesOk)

/-- RETRAIN (R392). -/
def execRetrain (link : Nat) (s : State) : Host.Outcome State Fault Refusal := onLive s (retrainOp s link)

/-- FLIT_REPLAY (R391). -/
def execFlitReplay (link : Nat) (s : State) : Host.Outcome State Fault Refusal := onLive s (replayOp s link)

/-- RING_SET (R394). -/
def execRingSet (tag : BitVec 4) (pbPage : Nat) (peers : List (Option PeerId)) (s : State) :
    Host.Outcome State Fault Refusal :=
  onLive s (olCmdWrite s (cmdWord pbPage 1 tag.toNat) { peers := peers, ok := true })

/-- OL_EXPORT_OBJ (R397). -/
def execOlExportObj (e : ObjExport) (s : State) : Host.Outcome State Fault Refusal :=
  onLive s (match e with
    | .issue tag page act free => olCmdWrite s (cmdWord page 2 tag.toNat) { peers := [], ok := act && free }
    | .arrive chip gid tctx h len r0 r1 => proxyObj s chip gid tctx h.toNat len r0 r1)

/-- OL_EXPORT_FENCE (R397). -/
def execOlExportFence (e : FenceExport) (s : State) : Host.Outcome State Fault Refusal :=
  onLive s (match e with
    | .issue tag page act free => olCmdWrite s (cmdWord page 3 tag.toNat) { peers := [], ok := act && free }
    | .arrive chip gid tctx f v err ab r0 r1 => proxyFence s chip gid tctx f v err ab r0 r1)

/-- REVOKE (R399). -/
def execRevoke (r : Revoke) (s : State) : Host.Outcome State Fault Refusal :=
  onLive s (match r with
    | .issue tag id fly =>
      olCmdWrite s (BitVec.ofNat 64 (packNat [(id, 16), (4, 4), (tag.toNat, 0)])) { peers := [], ok := fly }
    | .proxyGone f i => proxyGone s f i
    | .ended id => grantEnd s id)

/-- PROXY_FENCE_UPDATE (R400). -/
def execProxyFenceUpdate (fence : Nat) (value : W64) (err abandoned : Bool) (s : State) :
    Host.Outcome State Fault Refusal := onLive s (proxyUpdate s fence value err abandoned)

/-- RING_COUNTER_MESSAGE (R401). -/
def execRingCounterMessage (m : RingMsg) (s : State) : Host.Outcome State Fault Refusal :=
  onLive s (ringMessage s m)

/-- UNREACHABLE (R402). -/
def execUnreachable (chip : Nat) (s : State) : Host.Outcome State Fault Refusal := onLive s (unreachableOp s chip)

/-- PROXY_SIGNAL_FORWARD (R400). -/
def execProxySignalForward (chip fence holderCtx : Nat) (value : W64) (err : Bool) (s : State) :
    Host.Outcome State Fault Refusal := onLive s (signalForward s chip fence holderCtx value err)

/-- REMOTE_ACCESS_REQUEST (R398). -/
def execRemoteAccessRequest (grantId off len : Nat) (data : Option (List Byte)) (s : State) :
    Host.Outcome State Fault Refusal := onLive s (remoteAccess s grantId off len data)

end Sys2Proof.Machine
end

