-- ==== Sys2Proof/Machine/CmdRegs.lean ====
section
/-! DEFINITION. CmdRegs.lean: the command registers by offset and view, and commands held while
firmware restarts (Tables 1-3, 23-1, 23-2). -/

namespace Sys2Proof.Machine

/-- DC_CMD_n as a plain register write: a SIDEBAND reply comes from outside, and is a free value
(log 8). -/
def dcCmdRaw (s : State) (n ctx : Nat) (raw : W64) : State :=
  let (v, s) := takeFree s
  let (d, s) := freeBytes s (v.toNat / 256 % 17)
  dcCmdWrite s n ctx raw { code := v.toNat % 256, data := d }

/-- A value written to a command register of the global window (Table 23-1). -/
def globalCmd (s : State) (off : Nat) (raw : W64) : State :=
  match off with
  | 0x400 => feCmdWrite s raw
  | 0x420 => ctxCmdWrite s raw
  | 0x440 => gmCmdWrite s raw
  | 0x460 => sqCmdWrite s raw
  | 0x480 => luCmdWrite s raw
  | 0x4A0 => memCmdWrite s 0 raw
  | 0x4C0 => binCmdWrite s raw
  | 0x4E0 => secCmdWrite s 0 raw
  | 0x500 => olCmdRaw s raw
  | _ => s

/-- A value written to a command register of a context view (Table 23-2). -/
def viewCmd (s : State) (ctx off : Nat) (raw : W64) : State :=
  match off with
  | 0x100 => dcCmdRaw s 0 ctx raw
  | 0x120 => dcCmdRaw s 1 ctx raw
  | 0x140 => dcCmdRaw s 2 ctx raw
  | 0x160 => dcCmdRaw s 3 ctx raw
  | 0x200 => capCmdWrite s 0 ctx raw
  | 0x220 => capCmdWrite s 1 ctx raw
  | 0x240 => capCmdWrite s 2 ctx raw
  | 0x260 => capCmdWrite s 3 ctx raw
  | 0x300 => audCmdWrite s ctx raw
  | _ => s

/-- No longer busy. -/
def CmdStat.idle (c : CmdStat) : CmdStat := { c with busy := false }

/-- A held command of the front-end firmware is carried out (Table 1-3). -/
def feHeldRun (s : State) (h : Nat × W64) : State :=
  let s := match h.1 with
    | 0x400 => setFeCmd s s.feCmd.idle
    | 0x440 => setGmCmd s s.gmCmd.idle
    | 0x460 => setSqCmd s s.sqCmd.idle
    | 0x480 => setLuCmd s s.luCmd.idle
    | _ => setBinCmd s s.binCmd.idle
  globalCmd s h.1 h.2

/-- A held command of the management firmware is carried out. -/
def mgmtHeldRun (s : State) (h : Nat × Nat × W64) : State :=
  let (off, view, raw) := h
  if view = 0 then
    let s := match off with
      | 0x420 => setCtxCmd s s.ctxCmd.idle
      | 0x4A0 => setMemCmd s s.mem.stat.idle
      | 0x4E0 => setSecCmd s s.sec.stat.idle
      | _ => setOl s s.olCmd.idle
    globalCmd s off raw
  else
    let s := if off < 0x200 then setDc ((off - 0x100) / 0x20) s (pipeOf s ((off - 0x100) / 0x20)).stat.idle
      else if off < 0x300 then setCap ((off - 0x200) / 0x20) s (capOf s ((off - 0x200) / 0x20)).stat.idle
      else setAud s s.aud.stat.idle
    viewCmd s (view - 1) off raw

end Sys2Proof.Machine
end

