-- ==== Sys2Proof/Machine/Restart.lean ====
section
/-! DEFINITION. Restart.lean: restarts of the front-end and management firmware and faults of the
security processor (Table 1-3, R17, R18, R381). -/

namespace Sys2Proof.Machine

/-- Whether anything of a launch has been issued: a node that runs or ran on a core or a
fixed-function unit. -/
def Inst.issued (x : Inst) : Bool :=
  x.nodes.any (fun e => e.2.placed != 0 || e.2.st == .running) ||
  (x.released && x.nodes.any (fun e => e.2.st == .done && e.2.ended != 0))

/-- FE_RESTART: dispatch stops, and what is fetched but not issued is lost (Table 1-3). Entries rung and
not yet fetched stay in their rings and run after the reload: Table 1-3 says "fetched or queued", Table
8-3 "fetched", and the model takes the second (DESIGN CHOICE, log 35). -/
def feRestartOp (s : State) : State :=
  if s.fw.feReloading then s
  else
    let lostI := tkeys s.insts (fun _ x => !x.issued)
    let lostC := tkeys s.cmds (fun id _ =>
      !(s.insts.any (·.2.cmd == some id)) && !thas s.graphs (retiredKey id))
    let s := raise (event s 0x0020 0 6 0 0 0 none) .feRestart
    { s with fw := { s.fw with feReloading := true, feLost := lostC, feLostInsts := lostI } }

/-- FE_RELOAD_DONE: dispatch resumes, lost launches and commands complete with PREEMPTED, and held
commands are carried out (R18). -/
def feReloadOp (s : State) : State :=
  if s.fw.feReloading then
    let f := s.fw
    let s := { s with fw := { f with feReloading := false, feLost := [], feLostInsts := [], feHeld := [] } }
    let s := finishAll s f.feLostInsts .preempted 0xFFFF
    let s := f.feLost.foldl (fun s c => cmdDone s c .preempted 0xFFFF) s
    f.feHeld.foldl feHeldRun (resolveHeld s)
  else s

/-- MGMT_RESTART: the management firmware stops; every other plane runs on (R17). -/
def mgmtRestartOp (s : State) : State :=
  if s.pwr.mgmtRestarting then s
  else
    let s := raise (event s 0x0020 0 7 0 0 1 none) .mgmtRestart
    { s with pwr := { s.pwr with mgmtRestarting := true, mgmtRestarts := satInc s.pwr.mgmtRestarts } }

/-- MGMT_RESTART_DONE: the firmware runs again, and held commands are carried out (Table 1-3). -/
def mgmtDoneOp (s : State) : State :=
  if s.pwr.mgmtRestarting then
    let l := s.fw.mgmtHeld
    let s := { s with pwr := { s.pwr with mgmtRestarting := false }, fw := { s.fw with mgmtHeld := [] } }
    l.foldl mgmtHeldRun s
  else s

/-- A request in the mailbox fails (Table 1-3). -/
def mailFail (s : State) : State :=
  match s.sec.heldCmds with
  | [] => s
  | (_, r) :: _ => setSecCmd { s with sec := { s.sec with heldCmds := [] } } (done (scTag r) .secFault 0)

/-- SEC_FAULT: the running command ends with SEC_FAULT, a weight load's bytes zeroed first (R381,
R387), and a request in the mailbox fails; loaded keys stay. The processor is up again after a time the
manual does not give (log 47). -/
def secFaultOp (s : State) : State :=
  let s := mailFail (event s 0x0020 0 8 0 0 2 none)
  let s := match s.sec.load with
    | none => s
    | some l => loadAbort s l .secFault
  let (v, s) := takeFree s
  { s with sec := { s.sec with downUntil := some (s.clk.now + 1 + v.toNat) } }

/-- The security processor is up again: commands that waited in the mailbox are carried out. -/
def secUp (s : State) : State :=
  if s.sec.downUntil.any (· ≤ s.clk.now) then
    let l := s.sec.heldCmds
    l.foldl (fun s c => secCmdWrite (setSecCmd s s.sec.stat.idle) c.1 c.2)
      { s with sec := { s.sec with downUntil := none, heldCmds := [] } }
  else s

/-- An idle step: one tick passes, and a restart of the security processor may end. -/
def idleStep (s : State) : State := if s.runs then secUp (idleTick s) else idleTick s

/-! ## Meanings -/

/-- FE_RESTART (R18). -/
def execFeRestart (s : State) : Host.Outcome State Fault Refusal := onLive s (feRestartOp s)

/-- FE_RELOAD_DONE (R18). -/
def execFeReloadDone (s : State) : Host.Outcome State Fault Refusal := onLive s (feReloadOp s)

/-- MGMT_RESTART (R17). -/
def execMgmtRestart (s : State) : Host.Outcome State Fault Refusal := onLive s (mgmtRestartOp s)

/-- SEC_FAULT (R381). -/
def execSecFault (s : State) : Host.Outcome State Fault Refusal := onLive s (secFaultOp s)

end Sys2Proof.Machine
end

