-- ==== Sys2Proof/Machine/Errors.lean ====
section
/-! DEFINITION. Errors.lean: detected errors, the drain of the log and error injection (22). -/

namespace Sys2Proof.Machine

/-! ## ERROR_DETECT (R403 to R408, Tables 22-1 and 22-2) -/

/-- A corrected-class record. -/
def corrected (s : State) (code unit inst addr info : Nat) : State :=
  errWrite s (mkErr s 1 code 0 unit inst addr info none)

/-- addr of an SRAM_CE record: the word of an addressed array, else 0 (Table 22-5). -/
def ceAddr (unit addr : Nat) : Nat := if unit = 1 || unit = 2 || unit = 5 then addr / 8 * 8 else 0

/-- A device DRAM channel is trained and powered: some partition owns it (R281). -/
def chanUp (s : State) (ch : Nat) : Bool :=
  s.boot.trained && s.cfg.parts.any (fun p => p.chMask.getLsbD ch)

/-- Whether an address lies in the instance an error is reported of: a word of an addressed array has one
slice or channel (R280, R282). -/
def errAt (s : State) (unit inst addr : Nat) : Bool :=
  match unit with
  | 1 => isSs addr && ssSlice addr == inst && (ssPhys s addr).isSome
  | 2 => (chanOf s addr).any (·.1 == inst)
  | 3 => (chanOf s addr).any (·.1 == inst) && chanUp s inst
  | 5 => inst < 2
  | _ => true

/-- A single-bit error: a link error of a DRAM channel, or a SECDED array's. A channel that is powered
down, and a place that does not exist, has none. -/
def correctedOp (s : State) (unit inst addr syndrome : Nat) : State :=
  if !errAt s unit inst addr then s
  else if unit = 3 then corrected s 5 3 inst (addr / 128 * 128) 0
  else corrected s 1 unit inst (ceAddr unit addr) (syndrome % 256)

/-- An uncorrectable error in storage of a workgroup. -/
def wgArrayOp (s : State) (core wg : Nat) : State :=
  match tfind s.wgs wg with
  | none => s
  | some w => if w.core = core then hwFault s w.ctx { code := 2, unit := 0, inst := core, addr := 0 } (some w.inst) else s

/-- A bad line of an L1 is invalidated and refetched (Table 22-1). -/
def l1Op (s : State) (core : Nat) (instruction : Bool) (addr : Nat) : State :=
  let s := modCore s core fun c =>
    if instruction then { c with l1i := tdel c.l1i (addr / 128 % 256) } else { c with l1 := tdel c.l1 (addr / 128 % 512) }
  corrected s 1 0 core 0 0

/-- Poison a word of the port buffer. -/
def poisonPb (s : State) (off : Nat) : State :=
  let w := off / 8
  if s.pbPoison.contains w then s else { s with pbPoison := w :: s.pbPoison }

/-- An uncorrectable word of the L2, the stacked store or a DRAM link, read for a context. -/
def memoryOp (s : State) (addr ctx : Nat) (link : Bool) : State :=
  if link then
    if !(chanOf s addr).any (fun c => chanUp s c.1) then s
    else hwFault s ctx { code := 6, unit := 3, inst := ((chanOf s addr).map (·.1)).getD 0, addr := addr / 128 * 128 } none
  else
    let s := poisonWord (l2Fill s addr) (addr / 8 * 8)
    hwFault s ctx { code := 2, addr := addr / 8 * 8, unit := if isSs addr then 1 else 2,
                    inst := if isSs addr then ssSlice addr else ((chanOf s addr).map (·.1)).getD 0 } none

/-- The ciphertext and MAC of a line of an encrypted partition are replaced in DRAM. A MAC line in the
controller's cache stands against the one in DRAM (R296). The line then holds what its ciphertext
deciphers to where the MAC matches, as on a replay, and else is not delivered (R294, R297). -/
def tamperOp (s : State) (addr : Nat) (cipher mac : List Byte) : State :=
  let l := addr / 64 * 64
  match encAt s l with
  | none => s
  | some (_, k) =>
    let s := wcFlush s l
    let own := cipherOf k l (mreads s.mem.dram l 64)
    let cached := macCached s l && !s.mem.macBad.contains l
    let mac := if cached then macOf k l own else mac
    let rest := s.mem.macBad.filter (· != l)
    if macOf k l cipher != mac then { s with mem := { s.mem with macBad := l :: rest } }
    else if cipher = own then { s with mem := { s.mem with macBad := rest } }
    else
      { s with mem := { s.mem with
          macBad := rest
          dram := mwrites s.mem.dram l (fit 64 (Config.xtsDec k.x1 k.x2 (BitVec.ofNat 128 (l / 64)) cipher)) } }

/-! ### Port buffer -/

/-- Pages of the port buffer the boot doorbell and the staging window lie on; the manual names none
(log 14). -/
def bootDbPage : Nat := 4
def stagingPage : Nat := 4096

/-- Whether the boot windows of Table 3-8 are in force. -/
def bootWindows (s : State) : Bool := s.boot.pbZeroed && s.boot.stage != .ready

/-- A page of the boot doorbell or staging window while they are in force. -/
def bootPage (s : State) (page : Nat) : Bool :=
  bootWindows s && (page == bootDbPage || (decide (stagingPage ≤ page) && decide (page < stagingPage + 4096)))

/-- Whether a word is part of the stage image being copied. -/
def BootJob.word (j : BootJob) (w : Nat) : Bool :=
  !j.copied && overlaps (8 * w) 8 (stagingPage * 4096 + j.off) j.len

/-- Host-port half whose channel maps a port-buffer page, the first where none does (R409; log 14). -/
def pbHalf (s : State) (page : Nat) : Nat :=
  match pbEntry s page with
  | some e => e.ap / 4194304 % 2
  | none => 0

/-- The page is rewritten from its source (Table 22-2). The record's addr is the page's first byte: Table
22-5 says "Port-buffer byte offset" and not of the word or of the page (DESIGN CHOICE, log 14). -/
def pbRegen (s : State) (page : Nat) : State :=
  corrected { s with pbPoison := s.pbPoison.filter (fun w => w / 512 != page) } 9 5 (pbHalf s page) (page * 4096) 0

/-- What an uncorrectable port-buffer word met on a read reports; `apPage` is the aperture page of a
host read, 0 for a device-side read (R78, Table 22-2). -/
def pbUe (s : State) (w apPage : Nat) : State :=
  let page := w / 512
  if bootPage s page then
    let s := match s.boot.cur with
      | some j =>
        if j.word w && apPage = 0 then { s with boot := { s.boot with cur := some { j with bad := true } } } else s
      | none => s
    errWrite s (mkErr s 0 0x0008 0 5 (pbHalf s page) (8 * w) apPage none)
  else if page < 256 then pbRegen s page
  else match pbEntry s page with
    | none => s
    | some e =>
      ctxError s e.ctx
        (mkErr s 2 0x0008 Status.contextLost.code 5 (pbHalf s page) (8 * w) apPage (some e.ctx)) .contextLost none

/-- A port-buffer word goes bad. -/
def portBufferOp (s : State) (off : Nat) (deviceRead : Bool) : State :=
  let s := poisonPb s off
  if deviceRead then pbUe s (off / 8) 0 else s

/-- A hardware error of a context's table entries, at their place in the protected range (R278). -/
def tableOp (s : State) (ctx unit addr : Nat) : State :=
  hwFault s ctx { code := 2, unit := unit, inst := 0, addr := addr } none

/-- The word of the context table that fails: somewhere in its part of the protected range, whose layout
the manual does not give (a free value, log 8). -/
def ctxTableOp (s : State) (ctx : Nat) : State :=
  let (v, s) := takeFree s
  tableOp s ctx 7 (workAt.1 + v.toNat % (workAt.2 / 8) * 8)

/-- ERROR_DETECT. -/
def errorDetectOp (s : State) (e : ErrSrc) : State :=
  match e with
  | .corrected unit inst addr syn => correctedOp s unit inst addr syn
  | .groupArray core wg => wgArrayOp s core wg
  | .localStore core _ wg => wgArrayOp s core wg
  | .l1 core i addr => l1Op s core i addr
  | .devMemory addr ctx link => memoryOp s addr ctx link
  | .macTamper addr cipher mac => tamperOp s addr cipher mac
  | .portBuffer off dev => portBufferOp s off dev
  | .graphDir ctx gid =>
    match tfind s.graphs (graphKey ctx gid) with
    | none => s
    | some g => tableOp s ctx 6 (dirAt g.dir)
  | .seqEntry i =>
    match tfind s.seqs i with
    | none => s
    | some x => tableOp s x.ctx 6 (seqAt i)
  | .ctxEntry ctx => ctxTableOp s ctx
  | .stageImage k =>
    if thas s.boot.images k then corrected s 0x000A 1 0 0 k else s
  | .tradeMem => feRestartOp s
  | .mgmtMem => mgmtRestartOp s
  | .secMem => secFaultOp s
  | .windowTable i =>
    fatalError { s with wt := { s.wt with table := tdel s.wt.table i } } 2 4 0 0 0
  | .fenceEntry f =>
    fatalError (modFence s f (fun x => if x.st = .live then Fence.settle x.abandon else x)) 2 6 0 (fenceAt f) 0
  | .fabricRoute => fatalError s 4 14 0 0 0
  | .flitData ctx path =>
    ctxError s ctx (mkErr s 2 4 Status.contextLost.code 14 0 0 path (some ctx)) .contextLost none

/-! ## The drain (R411, R412) -/

/-- log_n in force: other values act as 7 (Table 22-7). -/
def ringLog (l : Log) : Nat :=
  let n := bits l.ringCfg 18 15
  if 7 ≤ n && n ≤ 12 then n else 7

/-- First page of the host log ring, and its pages: 32-byte records. -/
def ringPage (l : Log) : Nat := bits l.ringCfg 31 19
def ringPages (l : Log) : Nat := 2 ^ ringLog l / 128

/-- The ring lies in one READ window with snap clear. -/
def ringMapped (s : State) : Bool :=
  let p := ringPage s.log
  (pbEntry s p).any (fun e => e.cls == 0 && !e.snap && inside p (ringPages s.log) e.pb e.npages)

/-- Whether the host ring has no room for the next record (R411). -/
def ringHeld (l : Log) : Bool :=
  match l.recs with
  | [] => false
  | r :: _ => decide (2 ^ ringLog l < (r.seq - l.ringHead).toNat)

/-- The 32 bytes of a record (Table 22-4). -/
def ErrRec.bytes (r : ErrRec) : List Byte :=
  natBytes (packNat [(r.ts.toNat, 192), (r.addr.toNat, 152), (r.info.toNat, 120), (r.seq.toNat, 88), (r.idx, 64),
    (r.ctx.getD 0, 54), (b2n r.ctx.isSome, 53), (b2n r.resv, 52), (r.cls, 50), (r.code, 32), (r.status, 28),
    (r.unit, 22), (r.inst, 16), (r.reps, 0)]) 32

/-- A waiting record is accepted; its context's err_idx shows the slot (R410). -/
def acceptWaiting (s : State) (r : ErrRec) (i : Nat) (resv : Bool) : State :=
  let s := { s with log := s.log.take r i resv }
  match r.ctx with
  | some c => if r.cls = 2 && (ctxOf s c).errIdx == 0xFFFE then
      modCtx s c (fun x => { x with errIdx := BitVec.ofNat 16 i }) else s
  | none => s

/-- The first record held in a context entry takes the free place of the queue (R412). -/
def heldEnters (s : State) : State :=
  match s.log.heldOrd with
  | [] => s
  | c :: rest =>
    if (s.log.overQ.filter (·.cls == 2)).length < 31 then
      match (ctxOf s c).heldErr with
      | none => { s with log := { s.log with heldOrd := rest } }
      | some r =>
        let s := modCtx s c (fun x => { x with heldErr := none })
        { s with log := { s.log with heldOrd := rest, overQ := s.log.overQ ++ [r] } }
    else s

/-- A slot was freed: the first waiting record enters the log. -/
def waitingEnters (s : State) : State :=
  match s.log.overQ with
  | [] => s
  | r :: rest =>
    match s.log.slotFor r.cls with
    | none => s
    | some (i, resv) => heldEnters (acceptWaiting { s with log := { s.log with overQ := rest } } r i resv)

/-- LOG_DRAIN: the next record in seq order goes to its ring position while the ring has room. -/
def logDrainOp (s : State) : State :=
  if !bit s.log.ringCfg 0 || s.pwr.mgmtRestarting || !ringMapped s then s
  else match s.log.recs with
    | [] => s
    | r :: rest =>
      if ringHeld s.log then { s with log := { s.log with ringFull := true } }
      else
        let pos := (r.seq - 1).toNat % 2 ^ ringLog s.log
        let s := pbStore s (ringPage s.log * 4096 + 32 * pos) r.bytes
        waitingEnters { s with log := { s.log with recs := rest, ringFull := false } }

/-! ## ERR_RING_CFG, ERR_INJECT (R411, R414) -/

/-- A 32-bit value written over an old one under byte masks (R417). -/
def merge32 (old val : W32) (mask : Nat) : W32 := BitVec.ofNat 32 (maskBytes 4 old.toNat val.toNat mask)

/-- ERR_RING_CFG: while en is 1 a write that changes page or size is ignored. -/
def ringCfgWrite (s : State) (val : W32) (mask : Nat) : State :=
  let v := merge32 s.log.ringCfg val mask &&& 0xFFFF8001
  if bit s.log.ringCfg 0 && (v ^^^ s.log.ringCfg) &&& 0xFFFF8000 != 0 then s
  else { s with log := { s.log with ringCfg := v } }

/-- A commit that unmaps a ring page clears en (R411). -/
def ringCheck (s : State) : State :=
  if bit s.log.ringCfg 0 && !ringMapped s then { s with log := { s.log with ringCfg := s.log.ringCfg &&& 0xFFFFFFFE } }
  else s

/-- ERR_INJECT: only while the debug level is 1 or higher. -/
def injectWrite (s : State) (val : W32) (mask : Nat) : State :=
  if s.sec.level = 0 then s
  else { s with log := { s.log with inject := merge32 s.log.inject val mask &&& 0x003F3F03 } }

/-- Whether an address lies in the array ERR_INJECT names; only memories the model keeps word by word
have addresses. -/
def injectHits (s : State) (unit inst addr : Nat) : Bool :=
  match unit with
  | 1 => isSs addr && ssSlice addr == inst
  | 2 => !isSs addr && ((chanOf s addr).map (·.1) == some inst)
  | 5 => decide (addr < 33554432) && pbHalf s (addr / 4096) == inst
  | _ => true

/-- INJECTED_WRITE: the armed write lands; two flipped bits make its word uncorrectable (R414). -/
def injectedOp (s : State) (addr : Nat) : State :=
  let w := s.log.inject
  let kind := bits w 1 0
  let unit := bits w 21 16
  if kind = 0 || kind = 3 || !injectHits s unit (bits w 13 8) addr then s
  else
    let s := { s with log := { s.log with inject := w &&& 0xFFFFFFFC } }
    if kind = 1 then s
    else match unit with
      | 1 => poisonWord s (addr / 8 * 8)
      | 2 => poisonWord (l2Fill s addr) (addr / 8 * 8)
      | 5 => poisonPb s addr
      | _ => s

/-! ## Meanings -/

/-- ERROR_DETECT (R406). -/
def execErrorDetect (e : ErrSrc) (s : State) : Host.Outcome State Fault Refusal := onLive s (errorDetectOp s e)

/-- LOG_DRAIN (R411). -/
def execLogDrain (s : State) : Host.Outcome State Fault Refusal := onLive s (logDrainOp s)

/-- ERR_RING_CFG_WRITE (R411). -/
def execErrRingCfgWrite (val : W32) (mask : BitVec 4) (s : State) : Host.Outcome State Fault Refusal :=
  onLive s (ringCfgWrite s val mask.toNat)

/-- ERR_INJECT_WRITE (R414). -/
def execErrInjectWrite (val : W32) (mask : BitVec 4) (s : State) : Host.Outcome State Fault Refusal :=
  onLive s (injectWrite s val mask.toNat)

/-- INJECTED_WRITE (R414). -/
def execInjectedWrite (addr : Nat) (s : State) : Host.Outcome State Fault Refusal := onLive s (injectedOp s addr)

end Sys2Proof.Machine
end

