-- ==== Sys2Proof/Machine/Power.lean ====
section
/-! DEFINITION. Power.lean: device power states, throttling, the core rail and the clock correlation
record (02, 23, 24). -/

namespace Sys2Proof.Machine

/-! ## RETAIN (R29 to R31, R422) -/

/-- The management firmware takes a request: RETAIN if every function is OFF, else it is dropped. -/
def retainTake (s : State) : State :=
  if s.pwr.retain && s.pwr.dev == .active && !s.pwr.mgmtRestarting then
    if s.pwr.fns.all (fun e => e.2.st == .off) then { s with pwr := { s.pwr with dev := .retain, sramMv := 600 } }
    else { s with pwr := { s.pwr with retain := false } }
  else s

/-- RETAIN_REQUEST. -/
def retainOp (s : State) : State :=
  if s.pwr.dev = .active then retainTake { s with pwr := { s.pwr with retain := true } } else s

/-- WAKE. A request not yet taken is dropped. -/
def wakeDevOp (s : State) : State :=
  if s.pwr.dev = .retain then mgmtWake s else { s with pwr := { s.pwr with retain := false } }

/-- RETAIN_EXIT_DONE: ACTIVE, and latched enables start (R30). -/
def retainExitOp (s : State) : State :=
  if s.pwr.dev = .retain && s.pwr.waking then
    let s := { s with pwr := { s.pwr with dev := .active, waking := false, retain := false, sramMv := 750 } }
    (List.range 22).foldl (fun s n =>
      if (fnOf s n).latched then fnSet (modFn s n (fun f => { f with latched := false })) n (fnOf s n).en else s) s
  else s

/-- MGMT_RESTART_DONE also carries out what waited: the host limit, contexts whose zeroing ended, and a
request for RETAIN. -/
def mgmtDoneAll (s : State) : State :=
  if !s.pwr.mgmtRestarting then s
  else
    let f := s.fw
    let s := mgmtDoneOp { s with fw := { f with limHeld := none, zeroedHeld := [] } }
    let s := match f.limHeld with
      | some v => { s with pwr := { s.pwr with hostLim := v } }
      | none => s
    retainTake (f.zeroedHeld.foldl ctxZeroedOp s)

/-! ## Power loop and host limit (R36, R37, R423, R426) -/

/-- Limit in force in W and the cause code of a change made under it. -/
def powerLimit (s : State) : Nat × Nat :=
  let c := s.cfg.limitW
  let h := min c (max 35 s.pwr.hostLim.toNat)
  if h < c then (h, 3) else (c, 0)

/-- PWR_LIMIT.host_lim written (R423); while the management firmware restarts the limit in force stays
(Table 1-3). -/
def limitWrite (s : State) (v : Byte) : State :=
  if !s.cfg.hostWritesLimit then s
  else if s.pwr.mgmtRestarting then { s with fw := { s.fw with limHeld := some v } }
  else { s with pwr := { s.pwr with hostLim := v } }

/-- POWER_SAMPLE: READ_POUT of every regulator that answers, in mW; ten samples make 1 ms. No telemetry is
updated while the management firmware restarts (Table 1-3). -/
def sampleOp (s : State) (l : List Nat) : State :=
  if s.pwr.mgmtRestarting then s
  else { s with pwr := { s.pwr with samples := (l.foldl (· + ·) 0 :: s.pwr.samples).take 10 } }

/-- Whether a group holds a core of a real-time partition. -/
def rtGroup (s : State) (g : Nat) : Bool := s.cfg.parts.any (fun p => p.cls == 1 && (groupsOf p).contains g)

/-- Powered groups in the order the loop raises them (R37). -/
def raiseOrder (s : State) : List Nat :=
  let l := (poweredGroups s).reverse
  l.filter (fun g => !rtGroup s g) ++ l.filter (rtGroup s)

/-- The loop raises the index of one group by 1. -/
def loopRaise (s : State) (cause : Nat) : State :=
  match (raiseOrder s).find? (fun g => decide (tget s.pwr.steps g 0 < 12)) with
  | none => s
  | some g => applySteps s cause false { s.pwr with dLoop := tput s.pwr.dLoop g (tget s.pwr.steps g 0 + 1) }

/-- The loop lowers by 1 the index it demands of one group. -/
def loopRelax (s : State) (cause : Nat) : State :=
  match (raiseOrder s).reverse.find? (fun g => decide (0 < tget s.pwr.dLoop g 0)) with
  | none => s
  | some g => applySteps s cause false { s.pwr with dLoop := tput s.pwr.dLoop g (tget s.pwr.dLoop g 0 - 1) }

/-- POWER_LOOP_TICK. -/
def loopOp (s : State) : State :=
  let n := s.pwr.samples.length
  let sum := s.pwr.samples.foldl (· + ·) 0
  let (lim, cause) := powerLimit s
  if s.pwr.dev != .active || s.pwr.mgmtRestarting || n = 0 then s
  else if lim * 1000 * n < sum then loopRaise s cause
  else if sum * 100 < 95 * lim * 1000 * n then loopRelax s cause
  else s

/-! ## Thermal and current (R36, R433, R434) -/

/-- Trip temperature of the grade (Table 24-7). -/
def tripC (s : State) : Nat := match s.fuses.grade with | 0 => 130 | 1 => 120 | _ => 105

/-- THERMAL_THROTTLE: the sensor's group is raised by 2, up to 12. -/
def thermalOp (s : State) (sensor t : Nat) : State :=
  if s.cfg.throttleC < t then
    let g := sensor / 3
    let hot := if s.pwr.hot.contains sensor then s.pwr.hot else sensor :: s.pwr.hot
    applySteps s 1 false
      { s.pwr with hot := hot, dTherm := tput s.pwr.dTherm g (min 12 (tget s.pwr.steps g 0 + 2)) }
  else s

/-- THERMAL_RELEASE: with no hot sensor left in the group, the mechanism demands nothing of it. -/
def coolOp (s : State) (sensor t : Nat) : State :=
  if s.cfg.throttleC < t || !s.pwr.hot.contains sensor then s
  else
    let hot := s.pwr.hot.filter (· != sensor)
    let p := { s.pwr with hot := hot }
    if hot.any (fun x => x / 3 == sensor / 3) then { s with pwr := p }
    else applySteps s 1 false { p with dTherm := tdel p.dTherm (sensor / 3) }

/-- TRIP_WARN: within 5 °C of the trip temperature. -/
def tripWarnOp (s : State) (t : Nat) : State :=
  if tripC s ≤ t + 5 then raise { s with pwr := { s.pwr with tripWarn := true, tripAt := domCount s 36 } } .therm else s

/-- THERMTRIP: THERMTRIP_N is asserted and every clock but the REFCLK counters stops. -/
def thermtripOp (s : State) (t : Nat) : State :=
  if tripC s ≤ t then { s with pins := { s.pins with thermtrip := true, clocksStopped := true } } else s

/-- CURRENT_LIMIT: every core group at 8 or higher. -/
def currentOp (s : State) : State :=
  applySteps { s with pins := { s.pins with coreOcN := false } } 2 false
    { s.pwr with currentOn := true, dCur := (List.range 8).map (fun g => (g, 8)) }

/-- CURRENT_LIMIT_RELEASE. -/
def currentOffOp (s : State) : State :=
  applySteps { s with pins := { s.pins with coreOcN := true } } 2 false { s.pwr with currentOn := false, dCur := [] }

/-! ## Core rail (R425, R426) -/

/-- VOLTAGE_WAIT_END: the rail serves the lower step, and groups may run at it. -/
def voltageOp (s : State) : State :=
  match s.pwr.vNext with
  | none => s
  | some v => applySteps s s.pwr.vCause false { s.pwr with vStep := v, vNext := none, dHold := [] }

/-- REGULATOR_BUS_FAILURE: every group stays at or above the step of the last acknowledged voltage. -/
def busFailOp (s : State) : State :=
  applySteps s 4 true { s.pwr with vNext := none, dHold := (List.range 8).map (fun g => (g, s.pwr.vStep)) }

/-! ## Clock correlation (R28) -/

/-- CLOCK_CORRELATION: every domain's count is captured with its frequency. -/
def correlateOp (s : State) : State :=
  if s.boot.stage != .ready || s.pwr.mgmtRestarting then s
  else { s with clk := { s.clk with
    corr := (List.range 44).map (fun d => (d, (domCount s d, BitVec.ofNat 32 (domHz s d))))
    corrTs := domCount s 36 } }

/-! ## Meanings -/

/-- RETAIN_REQUEST (R422). -/
def execRetainRequest (s : State) : Host.Outcome State Fault Refusal := onLive s (retainOp s)

/-- WAKE (R422). -/
def execWake (s : State) : Host.Outcome State Fault Refusal := onLive s (wakeDevOp s)

/-- RETAIN_EXIT_DONE (R30). -/
def execRetainExitDone (s : State) : Host.Outcome State Fault Refusal := onLive s (retainExitOp s)

/-- PWR_LIMIT_WRITE (R423). -/
def execPwrLimitWrite (hostLim : Byte) (s : State) : Host.Outcome State Fault Refusal :=
  onLive s (if s.boot.stage = .ready then limitWrite s hostLim else s)

/-- POWER_LOOP_TICK (R37). -/
def execPowerLoopTick (s : State) : Host.Outcome State Fault Refusal := onLive s (loopOp s)

/-- POWER_SAMPLE (R426). -/
def execPowerSample (readings : List Nat) (s : State) : Host.Outcome State Fault Refusal :=
  onLive s (sampleOp s readings)

/-- THERMAL_THROTTLE (R36). -/
def execThermalThrottle (sensor tempC : Nat) (s : State) : Host.Outcome State Fault Refusal :=
  onLive s (thermalOp s sensor tempC)

/-- THERMAL_RELEASE (R36). -/
def execThermalRelease (sensor tempC : Nat) (s : State) : Host.Outcome State Fault Refusal :=
  onLive s (coolOp s sensor tempC)

/-- TRIP_WARN (R433). -/
def execTripWarn (_sensor tempC : Nat) (s : State) : Host.Outcome State Fault Refusal := onLive s (tripWarnOp s tempC)

/-- THERMTRIP (R36). -/
def execThermtrip (_sensor tempC : Nat) (s : State) : Host.Outcome State Fault Refusal :=
  onLive s (thermtripOp s tempC)

/-- CURRENT_LIMIT (R36). -/
def execCurrentLimit (s : State) : Host.Outcome State Fault Refusal := onLive s (currentOp s)

/-- CURRENT_LIMIT_RELEASE (R36). -/
def execCurrentLimitRelease (s : State) : Host.Outcome State Fault Refusal := onLive s (currentOffOp s)

/-- VOLTAGE_WAIT_END (R426). -/
def execVoltageWaitEnd (s : State) : Host.Outcome State Fault Refusal := onLive s (voltageOp s)

/-- REGULATOR_BUS_FAILURE (R426). -/
def execRegulatorBusFailure (s : State) : Host.Outcome State Fault Refusal := onLive s (busFailOp s)

/-- CLOCK_CORRELATION (R28). -/
def execClockCorrelation (s : State) : Host.Outcome State Fault Refusal := onLive s (correlateOp s)

/-- MGMT_RESTART_DONE (R17). -/
def execMgmtRestartDone (s : State) : Host.Outcome State Fault Refusal := onLive s (mgmtDoneAll s)

end Sys2Proof.Machine
end

