-- ==== Sys2Proof/Machine/Registers.lean ====
section
/-! DEFINITION. Registers.lean: the register map: what each register reads, what a write does, and the
shadows (05 R93, R94, 23). -/

namespace Sys2Proof.Machine

/-- Codes of the result fields. -/
def Result.code : Result → Nat
  | .ok => 0 | .badOp => 2 | .bad3 => 3 | .badBlock => 4 | .r5 => 5 | .resource => 6 | .badPage => 7 | .badSig => 8
  | .policy => 9 | .tag => 10 | .secFault => 11 | .stopped => 12

/-! ## Channel registers (Tables 4-2, 4-7, 4-8) -/

/-- A host-port channel. -/
def chOf (s : State) (n : Nat) : Chan := tget s.hp n {}

/-- Change a channel. -/
def modCh (s : State) (n : Nat) (f : Chan → Chan) : State := { s with hp := tmod s.hp n {} f }

/-- Mode registers of the set point in force. -/
def Chan.mr (c : Chan) : ModeRegs := if c.fspOp then c.mr1 else c.mr0

/-- Configured data rate of the set point in force. -/
def chRate (s : State) (c : Chan) : Nat :=
  if s.cfg.valid then (if c.fspOp then s.cfg.rate1 else s.cfg.rate0) else 0

/-- Smallest RL of a rate (Table 4-2). -/
def rlMin (rate : Nat) : Nat :=
  if rate ≤ 3200 then 8 else if rate ≤ 4266 then 10 else if rate ≤ 5500 then 13 else if rate ≤ 6400 then 15
  else if rate ≤ 7500 then 17 else 20

/-- rl_err (R67): there is no rate to hold RL against until the configuration is in force (Table 4-7). -/
def rlErr (s : State) (c : Chan) : Bool := s.cfg.valid && decide (c.mr.rl < rlMin (chRate s c))

/-- rate_err (R65, Table 4-5). -/
def Chan.rateErr (c : Chan) : Bool := c.ckErr || c.ratioErr

/-- Codes of HP_CH_STATE_n.state. -/
def ChState.code : ChState → Nat
  | .untrained => 0 | .training => 1 | .active => 2 | .powerDown => 3 | .selfRefresh => 4 | .srPowerDown => 5
  | .deepSleep => 6 | .noClock => 7 | .disabled => 8

/-- State a channel reports: DISABLED outside the enabled mask (R61). -/
def chState (s : State) (n : Nat) : ChState :=
  if s.cfg.valid && !s.cfg.chMask.getLsbD n then .disabled else (chOf s n).st

/-- HP_CH_STATE_n. -/
def chStateReg (s : State) (n : Nat) : Nat :=
  let c := chOf s n
  packNat [(b2n (rlErr s c), 25), (b2n c.rateErr, 24), (b2n c.mr.recc, 23), (b2n c.mr.wecc, 22), (b2n c.mr.rdbi, 21),
    (b2n c.mr.wdbi, 20), (b2n c.mr.bg, 19), (b2n c.fspOp, 18), ((chState s n).code, 14), (chRate s c, 0)]

/-- HP_CNT_n. -/
def chCntReg (s : State) (n : Nat) : Nat :=
  let c := chOf s n
  packNat [(c.cntRef.toNat, 48), (c.proto.toNat, 40), (c.weccUe.toNat, 32), (c.weccCe.toNat, 24),
    (c.unmapRd.toNat, 12), (c.unmapWr.toNat, 0)]

/-! ## Power registers (Tables 2-6, 2-11, 2-12, 23-3, 23-4) -/

/-- Codes of PWR_MGMT_STATE.dev (Table 23-3). -/
def DevState.code : DevState → Nat
  | .boot => 1 | .active => 2 | .retain => 3

def mgmtStateReg (s : State) : Nat :=
  packNat [(s.pwr.mgmtRestarts.toNat, 16), (b2n s.pwr.retain, 8), (b2n s.pwr.mgmtRestarting, 4), (s.pwr.dev.code, 0)]

def thrReg (s : State) : Nat :=
  let p := s.pwr
  let mask := (p.steps.map (fun e => if e.2 = 0 then 0 else 2 ^ e.1)).foldl (· + ·) 0
  let top := (p.steps.map (·.2)).foldl max 0
  packNat [(p.gen.toNat, 24), (b2n (!p.hot.isEmpty || p.dTherm.any (·.2 != 0)), 19), (b2n (p.dLoop.any (·.2 != 0)), 18),
    (b2n p.currentOn, 17), (b2n p.tripWarn, 16), (mask, 8), (top, 0)]

def stepReg (s : State) : Nat := packNat ((List.range 8).map (fun g => (tget s.pwr.steps g 0, 4 * g)))

def fnReg (f : Fn) : Nat := packNat [(f.restarts.toNat, 16), (b2n f.pending, 7), (f.st.code, 4), (b2n f.en, 0)]

/-! ## Command status registers -/

/-- A `_STAT` with tag in [7:4] and result in [31:24]. -/
def statReg (c : CmdStat) : Nat := packNat [(c.result.code, 24), (c.tag, 4), (b2n c.busy, 0)]

def feStatReg (c : CmdStat) : Nat := packNat [(c.result.code, 8), (c.tag, 2), (b2n c.busy, 0)]

def ctxStatReg (c : CmdStat) : Nat := packNat [(c.extra, 32), (c.result.code, 24), (c.tag, 16), (b2n c.busy, 0)]

/-! ## Other registers -/

/-- Codes of CTX_STATE.state (Table 6-12). -/
def CtxState.code : CtxState → Nat
  | .free => 0 | .active => 1 | .lost => 2 | .teardown => 3 | .zeroing => 4

def ctxReg (c : Ctx) : Nat := packNat [(c.errIdx.toNat, 16), (c.cause, 8), (c.step, 4), (c.st.code, 0)]

/-- GM_ENT_n (Table 8-7). -/
def monReg (s : State) (n : Nat) : Nat :=
  match tfind s.mons n with
  | none => 0
  | some m =>
    let st := match monInst s n with
      | none => 1
      | some (_, x) => if x.isFb then 3 else 2
    packNat [(m.misses.toNat, 48), (m.fallbacks.toNat, 32), (min 16777215 (winMax m.win / 64), 8), (st, 0)]

/-- Passes of a partition whose growth request is pending, the oldest first (Table 15-8). -/
def oldestReq (s : State) (p : Nat) : Option Pass :=
  (s.passes.filter (fun e => e.2.part == p && e.2.st == .growWait && !e.2.expired)).foldl (fun m e => match m with
    | none => some e.2
    | some x => if e.2.reqAt < x.reqAt then some e.2 else some x) none

def binReqReg (s : State) (p : Nat) : Nat :=
  let b := tget s.binReq p {}
  let r := oldestReq s p
  packNat [(b.waits.toNat, 32), (b.flushes.toNat, 24), ((r.map (·.ctx)).getD 0, 14), (b2n r.isSome, 0)]

def pipeReg (p : Pipe) : Nat :=
  packNat [(p.frames.toNat, 32), (p.underruns.toNat, 24), (p.owner, 14), (b2n p.ownEn, 13), (b2n p.hpd, 12),
    (p.flips.length, 9), (b2n p.reproj, 8), (b2n p.cache, 7), (p.link, 4)]

def capReg (c : Cap) : Nat := packNat [(c.frames.toNat, 32), (c.errors.toNat, 24), (c.owner, 14), (c.run, 0)]

def audReg (a : Aud) : Nat := packNat [(a.underruns.toNat, 48), (a.badFrames.toNat, 40), (a.owner, 30), (a.run, 0)]

def cmpReg (s : State) (n : Nat) : Nat :=
  let c := tget s.cmps n {}
  packNat [(c.nodes.toNat, 32), (c.errors.toNat, 16), (c.ctx, 6),
    (if !fnOn s (20 + n) then 2 else b2n c.run.isSome, 0)]

/-- Codes of link and ring states (Tables 21-3, 21-4). -/
def LinkState.code : LinkState → Nat
  | .off => 0 | .training => 1 | .up => 2 | .failed => 3 | .miswired => 4
def RingState.code : RingState → Nat
  | .none => 0 | .forming => 1 | .up => 2 | .degraded => 3

def linkReg (l : Link) : Nat :=
  packNat [(l.replays.toNat, 48), (l.retrains.toNat, 40), (l.peerPort, 12), (l.peerChip, 9), (l.spare, 5), (l.st.code, 0)]

def ringReg (r : Ring) : Nat :=
  packNat [(r.id.toNat, 32), (r.reach.toNat, 24), (r.standby.toNat, 16), (r.root, 10), (r.chip, 7), (r.n, 3), (r.st.code, 0)]

/-- ERR_LOG_STAT: ring_full shows that the drain met a full ring that is still full (Table 22-6). -/
def logReg (l : Log) : Nat :=
  packNat [(l.written.toNat, 32), (l.dropped.toNat, 16), (l.resvUsed, 8),
    (b2n (l.ringFull && bit l.ringCfg 0 && ringHeld l), 1), (b2n l.fatal, 0)]

def ceReg (l : Log) : Nat := packNat [(l.ceSs.toNat, 48), (l.ceDram.toNat, 32), (l.ceCore.toNat, 16), (l.ceOther.toNat, 0)]

def pfReg (p : PfCtl) : Nat := packNat [(p.dist.toNat, 8), (b2n p.l1Only, 1), (b2n p.en, 0)]

def wtReg (w : Wt) : Nat := packNat [(w.cnt.toNat, 48), (w.err, 36), (b2n w.busy, 32), (w.gen.toNat, 0)]

/-! ## Register map (Tables 23-1 and 23-2) -/

/-- Index of an offset in an array of n slots at a base. -/
def slotIdx (off base n : Nat) : Option Nat :=
  if base ≤ off && off < base + 16 * n && off % 16 = 0 then some ((off - base) / 16) else none

/-- A row of the register map: base, number of slots, domain, and value by index. -/
abbrev RegRow := Nat × Nat × (Nat → Nat) × (Nat → Nat)

/-- Look an offset up in rows: domain and value. -/
def rowFind (off : Nat) : List RegRow → Option (Nat × Nat)
  | [] => none
  | (base, n, dom, val) :: r =>
    match slotIdx off base n with
    | some i => some (dom i, val i)
    | none => rowFind off r

/-- Half of a channel's domain. -/
def chDom (n : Nat) : Nat := if n < 4 then 33 else 34

/-- Rows of the global window up to the power functions. -/
def rowsA (s : State) : List RegRow :=
  [(0x0000, 1, fun _ => 33, fun _ => wtReg s.wt), (0x0010, 1, fun _ => 35, fun _ => s.irq.cause.toNat),
   (0x0020, 1, fun _ => 35, fun _ => s.irq.mask0.toNat), (0x0030, 1, fun _ => 35, fun _ => s.irq.mask1.toNat),
   (0x0040, 1, fun _ => 35, fun _ => s.irq.mask2.toNat), (0x0050, 1, fun _ => 35, fun _ => s.irq.mask3.toNat),
   (0x0100, 8, chDom, chStateReg s), (0x0180, 8, chDom, chCntReg s),
   (0x0200, 1, fun _ => 36, fun _ => mgmtStateReg s),
   (0x0210, 1, fun _ => 36, fun _ => packNat [(s.pwr.hostLim.toNat, 8), (s.cfg.limitW, 0)]),
   (0x0220, 1, fun _ => 36, fun _ => thrReg s), (0x0230, 1, fun _ => 36, fun _ => stepReg s),
   (0x0280, 22, fun _ => 36, fun i => fnReg (fnOf s i))]

/-- Command registers read 0 and are followed by their status. -/
def rowsB (s : State) : List RegRow :=
  [(0x0400, 1, fun _ => 35, fun _ => 0), (0x0410, 1, fun _ => 35, fun _ => feStatReg s.feCmd),
   (0x0420, 1, fun _ => 36, fun _ => 0), (0x0430, 1, fun _ => 36, fun _ => ctxStatReg s.ctxCmd),
   (0x0440, 1, fun _ => 35, fun _ => 0), (0x0450, 1, fun _ => 35, fun _ => statReg s.gmCmd + s.gmCmd.extra <<< 8),
   (0x0460, 1, fun _ => 35, fun _ => 0), (0x0470, 1, fun _ => 35, fun _ => statReg s.sqCmd + s.sqCmd.extra <<< 32),
   (0x0480, 1, fun _ => 35, fun _ => 0), (0x0490, 1, fun _ => 35, fun _ => statReg s.luCmd),
   (0x04A0, 1, fun _ => 36, fun _ => 0), (0x04B0, 1, fun _ => 36, fun _ => statReg s.mem.stat),
   (0x04C0, 1, fun _ => 35, fun _ => 0), (0x04D0, 1, fun _ => 35, fun _ => statReg s.binCmd),
   (0x04E0, 1, fun _ => 36, fun _ => 0), (0x04F0, 1, fun _ => 36, fun _ => statReg s.sec.stat + s.sec.stat.extra <<< 32),
   (0x0500, 1, fun _ => 36, fun _ => 0), (0x0510, 1, fun _ => 36, fun _ => statReg s.olCmd + s.olCmd.extra <<< 32)]

/-- The remaining rows. -/
def rowsC (s : State) : List RegRow :=
  [(0x0600, 8, fun _ => 36, fun i => pfReg (tget s.mem.pfCtl i {})), (0x0680, 8, fun _ => 35, binReqReg s),
   (0x0700, 4, fun _ => 36, fun i => pipeReg (pipeOf s i)), (0x0740, 4, fun _ => 36, fun i => capReg (capOf s i)),
   (0x0780, 1, fun _ => 36, fun _ => audReg s.aud), (0x0790, 2, fun _ => 35, cmpReg s),
   (0x0800, 4, fun _ => 36, fun i => linkReg (linkOf s i)), (0x0840, 1, fun _ => 36, fun _ => ringReg s.ring),
   (0x0900, 1, fun _ => 36, fun _ => logReg s.log), (0x0910, 1, fun _ => 36, fun _ => s.log.ringCfg.toNat),
   (0x0920, 1, fun _ => 36, fun _ => s.log.ringHead.toNat), (0x0930, 1, fun _ => 36, fun _ => ceReg s.log),
   (0x0940, 1, fun _ => 36, fun _ => s.log.inject.toNat), (0x1000, 64, fun _ => 35, monReg s),
   (0x8000, 1024, fun _ => 35, fun i => ctxReg (ctxOf s i)), (0xC000, 1024, fun _ => 35, fun i => (ctxOf s i).orphans.toNat)]

/-- A register of the global window: domain and value. -/
def globalReg (s : State) (off : Nat) : Option (Nat × Nat) := rowFind off (rowsA s ++ rowsB s ++ rowsC s)

/-- Whether a compression engine is of a context's partition. -/
def cmpShows (s : State) (n ctx : Nat) : Bool :=
  (partRec s (ctxOf s ctx).part).any (·.cmpMask.getLsbD n) && (ctxOf s ctx).st != .free

/-- Rows of a context's view that it is shown (Table 23-2). -/
def viewRows (s : State) (c : Nat) : List RegRow :=
  [(0x000, 1, fun _ => 35, fun _ => ctxReg (ctxOf s c)), (0x010, 1, fun _ => 35, fun _ => (ctxOf s c).orphans.toNat),
   (0x020, 1, fun _ => 36, fun _ => thrReg s), (0x030, 1, fun _ => 36, fun _ => stepReg s),
   (0x040, 1, fun _ => 36, fun _ => ceReg s.log), (0x080, 4, fun _ => 36, fun i => pipeReg (pipeOf s i))] ++
  ((List.range 4).filter (fun n => pipeShows s n c)).flatMap (fun n =>
    [(0x100 + 0x20 * n, 1, fun _ => 36, fun _ => 0), (0x110 + 0x20 * n, 1, fun _ => 36, fun _ => statReg (pipeOf s n).stat)]) ++
  ((List.range 4).filter (fun n => capShows s n c)).flatMap (fun n =>
    [(0x200 + 0x20 * n, 1, fun _ => 36, fun _ => 0), (0x210 + 0x20 * n, 1, fun _ => 36, fun _ => statReg (capOf s n).stat),
     (0x280 + 0x10 * n, 1, fun _ => 36, fun _ => capReg (capOf s n))]) ++
  (if audShows s c then
    [(0x300, 1, fun _ => 36, fun _ => 0), (0x310, 1, fun _ => 36, fun _ => statReg s.aud.stat),
     (0x320, 1, fun _ => 36, fun _ => audReg s.aud)] else []) ++
  ((List.range 2).filter (fun n => cmpShows s n c)).map (fun n => (0x340 + 0x10 * n, 1, fun _ => 35, fun _ => cmpReg s n))

/-- A register of a view: the global window, or a context's. -/
def regAt (s : State) (view : Option Nat) (off : Nat) : Option (Nat × Nat) :=
  match view with
  | none => globalReg s off
  | some c => if off < 4096 then rowFind off (viewRows s c) else none

/-- Value a slot shows before its first capture: the register's reset value. -/
def regReset (view : Option Nat) (off : Nat) : Nat :=
  match view with
  | some _ => if off = 0 then 0xFFFF0000 else 0
  | none =>
    if off = 0x200 then 2 else if off = 0x210 then 0xFF00
    else if 0x600 ≤ off && off < 0x680 then 0x401
    else if 0x800 ≤ off && off < 0x840 then 0x1E0
    else if 0x8000 ≤ off && off < 0xC000 then 0xFFFF0000
    else 0

/-! ## Shadows (R93) -/

/-- Domains clocked in RETAIN (Table 2-4). -/
def clocked (s : State) (dom : Nat) : Bool := s.pwr.dev != .retain || (decide (33 ≤ dom) && decide (dom ≤ 37))

/-- Key of a slot of a view. -/
def slotKey (view : Option Nat) (off : Nat) : Nat :=
  (match view with | none => 0 | some c => c + 1) * 4096 + off / 16

/-- First port-buffer page of the global register window, one of pages 0 to 255; the manual names none
(log 14). -/
def regsPage : Nat := 32

/-- Whether a port-buffer word is part of a shadow slot: in the global register window, or in a REGISTER
window of the context (Tables 5-2, 5-6). -/
def slotWord (s : State) (view : Option Nat) (off w : Nat) : Bool :=
  match view with
  | none => inside (8 * w) 8 (regsPage * 4096 + off) 16
  | some c => s.wt.table.any fun e =>
      e.2.valid && e.2.cls == 4 && e.2.ctx == c && decide (off < e.2.npages * 4096) &&
        inside (8 * w) 8 (e.2.pb * 4096 + off) 16

/-- SHADOW_CAPTURE: value, domain and instant together; a slot the view does not show empties. The refresh
writes the slot's words whole, which clears their poison (R404). -/
def captureOp (s : State) (view : Option Nat) (off : Nat) : State :=
  if s.boot.stage != .ready then s
  else match regAt s view off with
    | none => { s with shadow := tdel s.shadow (slotKey view off) }
    | some (dom, v) =>
      if clocked s dom then
        let x : Shadow := { value := BitVec.ofNat 64 v, dom := dom, at_ := some (refclkNow s) }
        { s with shadow := tput s.shadow (slotKey view off) x
                 pbPoison := s.pbPoison.filter (fun w => !slotWord s view off w) }
      else s

/-- The 16 bytes of a slot (Table 5-6); a slot that the view does not show reads as zeros (R416). -/
def slotBytes16 (s : State) (view : Option Nat) (off : Nat) : List Byte :=
  let pack (v dom age : Nat) : List Byte := natBytes (packNat [(dom, 80), (age, 64), (v, 0)]) 16
  match regAt s view off with
  | none => List.replicate 16 0
  | some (dom, _) =>
    match tfind s.shadow (slotKey view off) with
    | some x =>
      pack x.value.toNat x.dom (match x.at_ with
        | some t => min 65535 (refclkNow s - t)
        | none => 65535)
    | none => pack (regReset view off) dom 65535

/-! ## Writes (R7 to R9, R94, R417, R420 to R423) -/

/-- A written value with its masked bytes as 0. -/
def unmasked (val : W64) (mask : Byte) : W64 := BitVec.ofNat 64 (maskBytes 8 0 val.toNat mask.toNat)

/-- MEM_PF_CTL_p. -/
def pfWrite (s : State) (p : Nat) (val : W64) (mask : Byte) : State :=
  let v : W64 := BitVec.ofNat 64 (maskBytes 8 (pfReg (tget s.mem.pfCtl p {})) val.toNat mask.toNat)
  let c : PfCtl := { dist := BitVec.ofNat 5 (bits v 12 8), l1Only := bit v 1, en := bit v 0 }
  { s with mem := { s.mem with pfCtl := tput s.mem.pfCtl p c } }

/-- PWR_MGMT_STATE: a write that sets both bits leaves the device ACTIVE (R422). -/
def mgmtStateWrite (s : State) (v : W64) : State :=
  if bit v 9 then wakeDevOp s else if bit v 8 then retainOp s else s

/-- HP_INT_MASKk. -/
def maskWrite (s : State) (k : Nat) (val : W64) (mask : Byte) : State :=
  let set (m : BitVec 13) : BitVec 13 := BitVec.ofNat 13 (maskBytes 8 m.toNat val.toNat mask.toNat)
  let q := s.irq
  { s with irq := match k with
    | 0 => { q with mask0 := set q.mask0 }
    | 1 => { q with mask1 := set q.mask1 }
    | 2 => { q with mask2 := set q.mask2 }
    | _ => { q with mask3 := set q.mask3 } }

/-- A write to a slot of the global window takes effect. -/
def globalWrite (s : State) (off : Nat) (val : W64) (mask : Byte) : State :=
  let v := unmasked val mask
  let low : W32 := val.setWidth 32
  let m4 := mask.toNat % 16
  match off with
  | 0x010 => { s with irq := s.irq.clear (domCount s 35) (v.setWidth 13) }
  | 0x020 => maskWrite s 0 val mask
  | 0x030 => maskWrite s 1 val mask
  | 0x040 => maskWrite s 2 val mask
  | 0x050 => maskWrite s 3 val mask
  | 0x200 => mgmtStateWrite s v
  | 0x210 => if mask.getLsbD 1 then s else limitWrite s (BitVec.ofNat 8 (bits val 15 8))
  | 0x220 =>
    if bit v 16 && s.pwr.tripAt != domCount s 36 then { s with pwr := { s.pwr with tripWarn := false } } else s
  | 0x910 => ringCfgWrite s low m4
  | 0x920 => { s with log := { s.log with ringHead := merge32 s.log.ringHead low m4 } }
  | 0x940 => injectWrite s low m4
  | _ =>
    match slotIdx off 0x280 22, slotIdx off 0x600 8, slotIdx off 0x700 4 with
    | some n, _, _ => if mask.getLsbD 0 then s else fnHostSet s n (bit val 0)
    | _, some p, _ => pfWrite s p val mask
    | _, _, some n => dcPipeWrite s n val mask
    | _, _, _ => globalCmd s off v

/-- A write to a slot takes effect: in a context view only the command registers accept writes (R420). -/
def regEffect (s : State) (view : Option Nat) (off : Nat) (val : W64) (mask : Byte) : State :=
  match view with
  | none => globalWrite s off val mask
  | some c => viewCmd s c off (unmasked val mask)

/-- Key of a held write's register. -/
def heldKey (view : Option Nat) (off : Nat) : Nat := slotKey view off

/-- Whether a view exists: the global window from READY, a context's while a REGISTER window of it is in
force (R415, R420). -/
def viewExists (s : State) (view : Option Nat) : Bool :=
  match view with
  | none => s.boot.stage == .ready
  | some c => s.wt.table.any (fun e => e.2.valid && e.2.cls == 4 && e.2.ctx == c)

/-- A host write to a slot: in force at once, or held while the register's domain is gated (R94). -/
def regWrite (s : State) (view : Option Nat) (off : Nat) (val : W64) (mask : Byte) : State :=
  match regAt s view off with
  | none => s
  | some (dom, _) =>
    if clocked s dom then regEffect s view off val mask
    else { s with held := tput s.held (heldKey view off) (val, mask) }

/-- HELD_WRITE_APPLY. -/
def heldApply (s : State) (view : Option Nat) (off : Nat) : State :=
  match tfind s.held (heldKey view off), regAt s view off with
  | some (v, m), some (dom, _) =>
    if clocked s dom then regEffect { s with held := tdel s.held (heldKey view off) } view off v m else s
  | _, _ => s

/-! ## Meanings -/

/-- SHADOW_CAPTURE (R93). -/
def execShadowCapture (view : Option Nat) (off : Nat) (s : State) : Host.Outcome State Fault Refusal :=
  onLive s (captureOp s view off)

/-- REGISTER_WRITE (R94). -/
def execRegisterWrite (view : Option Nat) (off : Nat) (val : W64) (mask : Byte) (s : State) :
    Host.Outcome State Fault Refusal := onLive s (if viewExists s view then regWrite s view off val mask else s)

/-- HELD_WRITE_APPLY (R94). -/
def execHeldWriteApply (view : Option Nat) (off : Nat) (s : State) : Host.Outcome State Fault Refusal :=
  onLive s (heldApply s view off)

end Sys2Proof.Machine
end

