-- ==== Sys2Proof/Machine/Windows.lean ====
section
/-! DEFINITION. Windows.lean: the window table and its commits, snapshot pages, doorbells and fence
writes (05). -/

namespace Sys2Proof.Machine

/-! ## Entries (Table 5-1) -/

/-- A table entry as its 128 bits; reserved fields are 0. -/
def WtEntry.word (e : WtEntry) : BitVec 128 :=
  BitVec.ofNat 128 (packNat [(e.base, 109), (e.ctx, 99), (e.cls, 96), (e.npages, 82), (e.pb, 64),
    (b2n e.snap, 24), (b2n e.valid, 23), (e.ap, 0)])

/-- The entry 128 bits hold. -/
def wtEntryOf (w : BitVec 128) : WtEntry :=
  { valid := bit w 23, snap := bit w 24, ap := bits w 22 0, pb := bits w 76 64, npages := bits w 95 82,
    cls := bits w 98 96, ctx := bits w 108 99, base := bits w 122 109 }

/-- Entry i of the working copy. -/
def wtEntry (s : State) (i : Nat) : WtEntry := tget s.wt.table i {}

/-! ## TABLE_WRITE (R87) -/

/-- Whether byte p of the table window is written, and to what. -/
def burstByte (off : Nat) (data : List Byte) (masked : List Bool) (p : Nat) : Option Byte :=
  if p < off || masked.getD (p - off) false then none else data[p - off]?

/-- Stage one entry if the burst touches it: bytes not written keep what is staged, or the working
copy's where nothing is. -/
def stageEntry (off : Nat) (data : List Byte) (masked : List Bool) (s : State) (i : Nat) : State :=
  let new := (List.range 16).map (fun j => burstByte off data masked (16 * i + j))
  if new.any Option.isSome then
    let old := natBytes (tget s.wt.staged i (wtEntry s i).word).toNat 16
    let w : BitVec 128 := BitVec.ofNat 128 (leNat ((List.range 16).map fun j => ((new.getD j none).getD (old.getD j 0))))
    { s with wt := { s.wt with staged := tput s.wt.staged i w, cnt := s.wt.cnt + 1 } }
  else s

/-- TABLE_WRITE: a burst stages every entry it touches and counts each once. -/
def tableWriteOp (s : State) (off : Nat) (data : List Byte) (masked : List Bool) : State :=
  if s.boot.stage != .ready then s
  else (List.range' (off / 16) ((off % 16 + data.length + 15) / 16)).foldl (stageEntry off data masked) s

/-! ## Commits (R84, R88, R89) -/

/-- Checks of R84 on one valid entry alone; `fresh`: the entry is new or changed. -/
def entryOk (s : State) (e : WtEntry) (fresh : Bool) : Bool :=
  e.npages != 0 && decide (e.cls < 6) && (!e.snap || e.cls == 0) && decide (256 ≤ e.ap) &&
  decide (e.ap + e.npages ≤ 8388608) && decide (256 ≤ e.pb) && decide (e.pb + e.pbPages ≤ 8192) &&
  (!fresh || (ctxOf s e.ctx).st == .active || (ctxOf s e.ctx).st == .lost) &&
  (e.cls != 2 || decide (e.base + 128 * e.npages - 1 ≤ 1023)) &&
  (e.cls != 5 || decide (e.base + 256 * e.npages - 1 ≤ 16383))

/-- Two entries share neither aperture nor port-buffer pages. -/
def entriesApart (a b : WtEntry) : Bool :=
  !overlaps a.ap a.npages b.ap b.npages && !overlaps a.pb a.pbPages b.pb b.pbPages

/-- Every pair of a list satisfies a test. -/
def allPairs {α : Type} (p : α → α → Bool) : List α → Bool
  | [] => true
  | x :: r => r.all (p x) && allPairs p r

/-- A table a commit would produce passes R84. -/
def tableOk (s : State) (t : Tab WtEntry) : Bool :=
  t.all (fun e => !e.2.valid || entryOk s e.2 (wtEntry s e.1 != e.2)) &&
  allPairs entriesApart ((t.map (·.2)).filter (·.valid))

/-- The table with staged entries applied. -/
def tableApply (t : Tab WtEntry) (staged : Tab (BitVec 128)) : Tab WtEntry :=
  staged.foldl (fun t e =>
    let x := wtEntryOf e.2
    if x = {} then tdel t e.1 else tput t e.1 x) t

/-- Valid entry of a table over a port-buffer page. -/
def tablePage (t : Tab WtEntry) (page : Nat) : Option WtEntry :=
  (t.map (·.2)).find? (fun e => e.valid && inside page 1 e.pb e.pbPages)

/-- Pages to zero: under an entry before, and after under none or one of another context (R89 step 4). -/
def commitZero (old new : Tab WtEntry) : List Nat :=
  ((old.map (·.2)).filter (·.valid)).flatMap fun e =>
    (List.range' e.pb e.pbPages).filter fun pg =>
      match tablePage new pg with
      | none => true
      | some x => x.ctx != e.ctx

/-- A rejected commit records its code and raises WT_ERR. -/
def wtReject (s : State) (code : Nat) : State := raise { s with wt := { s.wt with err := code } } .wtErr

/-- INVALIDATION_WRITE: steps 1 to 3 of R89. An entry that the commit removes or changes leaves the
working copy at once, so a table-window read, and the bytes a masked write stages, show it cleared until
the commit ends: R87 does not say what they show then (DESIGN CHOICE, log 51). -/
def invalidationOp (s : State) (gen : W32) (n : BitVec 16) : State :=
  if s.boot.stage != .ready then s
  else
    let staged := s.wt.staged
    let cnt := s.wt.cnt
    let s := { s with wt := { s.wt with staged := [], cnt := 0 } }
    let new := tableApply s.wt.table staged
    if s.wt.busy then wtReject s 1
    else if gen != s.wt.gen + 1 then wtReject s 2
    else if n != cnt then wtReject s 3
    else if !tableOk s new then wtReject s 4
    else
      let c : Commit := { table := new, gen := gen, zero := commitZero s.wt.table new, teardown := none }
      { s with wt := { s.wt with
          busy := true, commit := some c
          table := s.wt.table.filter (fun e => tget new e.1 {} == e.2) } }

/-- Steps 4 to 6 of a commit; a teardown's advances gen and clears busy only (R127). -/
def commitEnd (s : State) (c : Commit) : State :=
  let s := pbZeroPages s c.zero
  let w := { s.wt with table := c.table, gen := c.gen, busy := false, commit := none }
  ringCheck { s with wt := if c.teardown.isSome then w else { w with err := 0 } }

/-- WT_COMMIT_END: a teardown that waited for the commit takes its step 4. -/
def wtCommitEndOp (s : State) : State :=
  match s.wt.commit with
  | none => s
  | some c =>
    let s := commitEnd s c
    match s.wt.waiting with
    | [] => s
    | x :: r => tdStep4 { s with wt := { s.wt with waiting := r } } x

/-! ## Snapshot pages (R91, Table 3-9) -/

/-- Key of a published page; its port-buffer pages are 2k and 2k + 1 (log 14). -/
def snapKey : SnapPage → Nat
  | .bootStatus => 0 | .management => 1

/-- A published page. -/
def snapOf (s : State) (p : SnapPage) : Snap := tget s.snaps (snapKey p) {}

/-- The port-buffer page the host sees. -/
def snapShown (s : State) (p : SnapPage) : Nat := 2 * snapKey p + b2n (snapOf s p).odd

/-- Bytes 8 to 88 of the boot status page. -/
def bootStatus (b : Boot) : List Byte :=
  natBytes b.stage.code 1 ++ natBytes b.err 1 ++ natBytes b.cfgSrc 1 ++ [b.fwDone] ++
  natBytes b.seqCopied.toNat 4 ++ natBytes b.seqDone.toNat 4 ++ natBytes b.cfgGen.toNat 4 ++
  natBytes b.readyTs.toNat 8 ++ natBytes b.cfgDigest.toNat 48 ++ natBytes b.zeroLeft 8 ++ natBytes b.fails 1

/-- Contents of a new version between its generation words. -/
def snapBody (s : State) : SnapPage → List Byte
  | .bootStatus => fit 4080 (bootStatus s.boot)
  | .management => fit 4080 (Config.corrPage s.clk.corr s.clk.corrTs)

/-- Whether the device publishes the page: the boot status page from the boot windows on, the management
page from READY while its firmware runs (R55, R85, Table 1-3). -/
def snapLive (s : State) : SnapPage → Bool
  | .bootStatus => s.boot.pbZeroed
  | .management => s.boot.stage == .ready && !s.pwr.mgmtRestarting

/-- SNAPSHOT_SWAP: the hidden page takes the new version with the next generation, and becomes the one
shown. -/
def snapshotSwapOp (s : State) (p : SnapPage) : State :=
  if snapLive s p then
    let x := snapOf s p
    let g : W64 := x.gen + 1
    let hidden := 2 * snapKey p + b2n (!x.odd)
    let s := pbStore s (hidden * 4096) (natBytes g.toNat 8 ++ snapBody s p ++ natBytes g.toNat 8)
    { s with snaps := tput s.snaps (snapKey p) { gen := g, odd := !x.odd } }
  else s

/-! ## Doorbells (R95, R131, R30) -/

/-- Host-port channel of an aperture page (Table 4-1). -/
def pageChan (page : Nat) : Nat := page / 1048576 % 8

/-- Whether an aperture page lies in a DOORBELL window of a context that holds a queue's doorbell. -/
def dbWindow (s : State) (page wctx queue : Nat) : Bool :=
  (apEntry s page).any fun e =>
    e.cls == 2 && e.ctx == wctx && inside queue 1 (e.base + 128 * (page - e.ap)) 128

/-- The latch is set and the values stored; masked bytes keep their previous values. -/
def latchSet (s : State) (q : Nat) (data : BitVec 256) (mask : W32) : State :=
  let d := data.toNat
  let m := mask.toNat
  let s := { s with orders := s.orders + 1 }
  modQueue s q fun x => { x with
    latch := true
    latchOrd := if x.latch then x.latchOrd else s.orders
    dTail := BitVec.ofNat 32 (maskBytes 4 x.dTail.toNat d m)
    dHead := BitVec.ofNat 32 (maskBytes 4 x.dHead.toNat (d >>> 64) (m >>> 8)) }

/-- DOORBELL. A doorbell to a queue that teardown has stopped is dropped without DB_DROP (Table 6-13). -/
def doorbellOp (s : State) (page wctx q : Nat) (data : BitVec 256) (mask : W32) : State :=
  let x := queueOf s q
  if x.st = .free || x.ctx != wctx then dbDrop s wctx page 0 (pageChan page)
  else if x.stopped then s
  else if x.st = .destroying then dbDrop s wctx page 1 (pageChan page)
  else mgmtWake (latchSet s q data mask)

/-! ## Fence writes (R83, R126, R276) -/

/-- Whether an aperture page lies in a FENCE window of a context that holds a fence's word. -/
def fenceWindow (s : State) (page wctx f : Nat) : Bool :=
  (apEntry s page).any fun e =>
    e.cls == 5 && e.ctx == wctx && inside f 1 (e.base + 256 * (page - e.ap)) 256

/-- FENCE_WRITE: a signal by the window's context. -/
def fenceWriteOp (s : State) (page wctx f : Nat) (data : BitVec 128) (mask : BitVec 16) : State :=
  if fenceSig s wctx f then
    let v : W64 := BitVec.ofNat 64 (maskBytes 8 (fenceOf s f).val.toNat data.toNat mask.toNat)
    fenceSignal s f v (bit data 64 && !bit mask 8)
  else dbDrop s wctx page 2 (pageChan page)

/-! ## Meanings -/

/-- TABLE_WRITE (R87). -/
def execTableWrite (off : Nat) (data : List Byte) (masked : List Bool) (s : State) :
    Host.Outcome State Fault Refusal := onLive s (tableWriteOp s off data masked)

/-- INVALIDATION_WRITE (R89). -/
def execInvalidationWrite (gen : W32) (nWrites : BitVec 16) (s : State) : Host.Outcome State Fault Refusal :=
  onLive s (invalidationOp s gen nWrites)

/-- WT_COMMIT_END (R89). -/
def execWtCommitEnd (s : State) : Host.Outcome State Fault Refusal := onLive s (wtCommitEndOp s)

/-- SNAPSHOT_SWAP (R91). -/
def execSnapshotSwap (page : SnapPage) (s : State) : Host.Outcome State Fault Refusal :=
  onLive s (snapshotSwapOp s page)

/-- DOORBELL (R95). -/
def execDoorbell (page wctx queue : Nat) (data : BitVec 256) (mask : W32) (s : State) :
    Host.Outcome State Fault Refusal :=
  onLive s (if dbWindow s page wctx queue then doorbellOp s page wctx queue data mask else s)

/-- FENCE_WRITE (R83). -/
def execFenceWrite (page wctx fence : Nat) (data : BitVec 128) (mask : BitVec 16) (s : State) :
    Host.Outcome State Fault Refusal :=
  onLive s (if fenceWindow s page wctx fence then fenceWriteOp s page wctx fence data mask else s)

end Sys2Proof.Machine
end

