-- ==== Sys2Proof/Machine/HostPort.lean ====
section
/-! DEFINITION. HostPort.lean: the eight LPDDR5X channels of the host port: their commands, mode
registers, training and port-idle states, and what a burst does at its aperture offset (04, 05 R83 to
R95). -/

namespace Sys2Proof.Machine

/-! ## When a channel acts (R54, R61, R80, R439) -/

/-- The channel answers: the port is ready and the channel enabled. -/
def chEnabled (s : State) (n : Nat) : Bool := s.cfg.valid && !s.pins.int3Hold && s.cfg.chMask.getLsbD n

/-- The channel's command receivers are on (Table 4-6). -/
def ChState.hears : ChState → Bool
  | .powerDown => false | .srPowerDown => false | .deepSleep => false | .disabled => false
  | .untrained => true | .training => true | .active => true | .selfRefresh => true | .noClock => true

/-- The channel receives a command other than the exit from a port-idle state. -/
def chHears (s : State) (n : Nat) : Bool := chEnabled s n && (chOf s n).st.hears

/-- Command bus training has completed at the set point in force. -/
def Chan.trained (c : Chan) : Bool := if c.fspOp then c.trained1 else c.trained0

/-- The channel acts on ACT, RD, WR and MWR (R439). -/
def chActs (s : State) (n : Nat) : Bool :=
  let c := chOf s n
  chEnabled s n && (c.st == .training || c.st == .active) && c.trained && !c.rateErr

/-- Raise HP_LINK. -/
def hpLink (s : State) : State := raise s .hpLink

/-- A protocol error (R71). -/
def protoErr (s : State) (n : Nat) : State := hpLink (modCh s n (fun c => { c with proto := c.proto + 1 }))

/-- The first ordinary RD or WR acted on makes the channel ACTIVE (R76). -/
def chTouch (s : State) (n : Nat) : State := modCh s n (fun c => { c with st := .active })

/-- A training command: TRAINING from the first one since the channel was last untrained (R76). -/
def chTrains (s : State) (n : Nat) : State :=
  modCh s n fun c => { c with st := if c.st = .untrained || c.st = .noClock then .training else c.st }

/-- The HP_LINK of the next RD is armed again once rl_err is clear (R67). -/
def rlArm (s : State) (n : Nat) : State :=
  if rlErr s (chOf s n) then s else modCh s n (fun c => { c with rlSeen := false })

/-- Training is dropped (R65, R76). -/
def Chan.untrain (c : Chan) (st : ChState) : Chan :=
  { c with st := st, trained0 := false, trained1 := false, rows := [], cbt := false, duty := false, wckSync := false }

/-! ## Windows behind an aperture page (R55, R58, R72, R85) -/

/-- What lies behind an aperture page. -/
inductive HpWin where
  | unmapped
  | snap (p : SnapPage)
  | inval
  | table
  | regs
  | bootDb
  /-- Staging, from a port-buffer page. -/
  | staging (pbPage : Nat)
  | entry (e : WtEntry)
  deriving DecidableEq, Repr

/-- The window over an aperture page: Table 3-8 before READY, Table 5-3 and the window table after. -/
def hpWin (s : State) (page : Nat) : HpWin :=
  if page = 0 then .snap .bootStatus
  else if s.boot.stage != .ready then
    if page = 1 then .bootDb
    else if 4096 ≤ page && page < 8192 then .staging (stagingPage + (page - 4096))
    else .unmapped
  else if page = 2 then .inval
  else if page = 4 then .snap .management
  else if 16 ≤ page && page < 32 then .table
  else if 32 ≤ page && page < 48 then .regs
  else match apEntry s page with
    | some e => .entry e
    | none => .unmapped

/-! ## Writes -/

/-- Mask bits of the bytes from `at_`; an unmasked write has an empty list. -/
def maskBits (masked : List Bool) (at_ n : Nat) : Nat :=
  packNat ((List.range n).map fun i => (b2n (masked.getD (at_ + i) false), i))

/-- Whether every byte from `at_` is masked. -/
def allMasked (masked : List Bool) (at_ n : Nat) : Bool :=
  (List.range n).all fun i => masked.getD (at_ + i) false

/-- Host bytes land in the port buffer; words written whole lose their poison (R404). -/
def pbHostStore (s : State) (off : Nat) (data : List Byte) (masked : List Bool) : State :=
  { s with
    pb := mwritesMasked s.pb off data masked
    pbPoison := s.pbPoison.filter fun w =>
      !(inside (8 * w) 8 off data.length && maskBits masked (8 * w - off) 8 == 0) }

/-- A refused or unmapped write is dropped and counted (R72, R83). -/
def refuseWr (s : State) (n : Nat) : State := modCh s n (fun c => { c with unmapWr := c.unmapWr + 1 })

/-- One slot of a burst to a register window; byte 8 and above act on nothing (R94, R417). -/
def slotWrite (view : Option Nat) (at_ : Nat) (data : List Byte) (masked : List Bool) (s : State) (k : Nat) : State :=
  if allMasked masked k 8 then s
  else regWrite s view (at_ + k) (BitVec.ofNat 64 (leNat (slice data k 8))) (BitVec.ofNat 8 (maskBits masked k 8))

/-- One doorbell of a burst. -/
def dbUnit (e : WtEntry) (page at_ : Nat) (data : List Byte) (masked : List Bool) (s : State) (k : Nat) : State :=
  if allMasked masked k 32 then s
  else doorbellOp s page e.ctx (e.base + (at_ + k) / 32) (BitVec.ofNat 256 (leNat (slice data k 32)))
    (BitVec.ofNat 32 (maskBits masked k 32))

/-- One fence word of a burst. -/
def fenceUnit (e : WtEntry) (page at_ : Nat) (data : List Byte) (masked : List Bool) (s : State) (k : Nat) : State :=
  if allMasked masked k 16 then s
  else fenceWriteOp s page e.ctx (e.base + (at_ + k) / 16) (BitVec.ofNat 128 (leNat (slice data k 16)))
    (BitVec.ofNat 16 (maskBits masked k 16))

/-- Offsets of the units of a size in a burst. -/
def burstUnits (size : Nat) (data : List Byte) : List Nat := (List.range (data.length / size)).map (· * size)

/-- The invalidation write of bytes 0 to 31; a masked byte acts as 0 (R88, R417). -/
def invalUnit (s : State) (data : List Byte) (masked : List Bool) : State :=
  if allMasked masked 0 32 then s
  else
    let v := maskBytes 8 0 (leNat (slice data 0 8)) (maskBits masked 0 8)
    invalidationOp s (BitVec.ofNat 32 v) (BitVec.ofNat 16 (v >>> 48))

/-- The boot doorbell: the latch is set, and masked bytes keep their previous values (R58, R95). -/
def bootDbWrite (s : State) (data : List Byte) (masked : List Bool) : State :=
  if allMasked masked 0 32 then s
  else
    let r := maskBytes 32 s.boot.dbRec.toNat (leNat (slice data 0 32)) (maskBits masked 0 32)
    { s with boot := { s.boot with dbPend := true, dbRec := BitVec.ofNat 256 r } }

/-- A write under a table entry, by class (Table 5-2). -/
def entryWrite (s : State) (n page off : Nat) (e : WtEntry) (data : List Byte) (masked : List Bool) : State :=
  let at_ := off - e.ap * 4096
  match e.cls with
  | 1 => pbHostStore s (e.pbByte off) data masked
  | 2 => (burstUnits 32 data).foldl (dbUnit e page at_ data masked) s
  | 4 => (burstUnits 16 data).foldl (slotWrite (some e.ctx) at_ data masked) s
  | 5 => (burstUnits 16 data).foldl (fenceUnit e page at_ data masked) s
  | _ => refuseWr s n

/-- A burst lands at its aperture offset. -/
def hostWrite (s : State) (n off : Nat) (data : List Byte) (masked : List Bool) : State :=
  let page := off / 4096
  match hpWin s page with
  | .unmapped => refuseWr s n
  | .snap _ => refuseWr s n
  | .inval => if off % 4096 = 0 then invalUnit s data masked else s
  | .table => tableWriteOp s (off - 65536) data masked
  | .regs => (burstUnits 16 data).foldl (slotWrite none (off - 131072) data masked) s
  | .bootDb => if off % 4096 = 0 then bootDbWrite s data masked else s
  | .staging p => pbHostStore s (p * 4096 + off % 4096) data masked
  | .entry e => entryWrite s n page off e data masked

/-! ## Reads -/

/-- Doorbell status (Table 5-8). -/
def dbStatus (s : State) (q : Nat) : List Byte :=
  let x := queueOf s q
  let (slot, st) := match boundSlot s q with
    | none => (0, 0)
    | some i => (i, match (slotOf s i).st with | .idle => 1 | .active => 2 | .draining => 3)
  natBytes (packNat [(slot, 101), (b2n x.latch, 100), (st, 97), (x.cqHead.toNat, 64), (x.tail.toNat, 32),
    (x.head.toNat, 0)]) 32

/-- A fence's mirror word (R83). -/
def mirrorWord (s : State) (f : Nat) : List Byte :=
  let x := fenceOf s f
  natBytes (packNat [(b2n x.abandoned, 65), (b2n x.err, 64), (x.val.toNat, 0)]) 16

/-- Bytes of the working copy of the window table (R87). -/
def tableBytes (s : State) (at_ n : Nat) : List Byte :=
  (List.range (n / 16)).flatMap fun k => natBytes (wtEntry s (at_ / 16 + k)).word.toNat 16

/-- A host read of port-buffer bytes: an uncorrectable word makes the whole burst 0xFF (R78). -/
def pbHostRead (s : State) (off n apPage : Nat) : List Byte × State :=
  match pbBad s off n with
  | [] => (pbRaw s off n, s)
  | w :: r => (List.replicate n 0xFF, pbUe (raise s .hpUe) (r.foldl min w) apPage)

/-- A host read of what the device keeps in port-buffer bytes without their being its source: shadow slots,
doorbell status, mirror words, and zeros of the boot doorbell page. An uncorrectable word there is met as
any other (R78, R404; log 14). -/
def pbShown (s : State) (off n apPage : Nat) (d : List Byte) : List Byte × State :=
  match pbBad s off n with
  | [] => (d, s)
  | _ => pbHostRead s off n apPage

/-- A read under a table entry, by class (Table 5-2). A snapshot entry shows a page never published
(R91). -/
def entryRead (s : State) (page off len : Nat) (e : WtEntry) : List Byte × State :=
  let at_ := off - e.ap * 4096
  if e.snap then (List.replicate len 0, s)
  else match e.cls with
    | 2 => pbShown s (e.pbByte off) len page
        ((List.range (len / 32)).flatMap (fun k => dbStatus s (e.base + at_ / 32 + k)))
    | 4 => pbShown s (e.pbByte off) len page
        ((List.range (len / 16)).flatMap (fun k => slotBytes16 s (some e.ctx) (at_ + 16 * k)))
    | 5 => pbShown s (e.pbByte off) len page
        ((List.range (len / 16)).flatMap (fun k => mirrorWord s (e.base + at_ / 16 + k)))
    | _ => pbHostRead s (e.pbByte off) len page

/-- The data of a read burst. -/
def hostRead (s : State) (n off len : Nat) : List Byte × State :=
  let page := off / 4096
  let zero := List.replicate len 0
  match hpWin s page with
  | .unmapped => (zero, modCh s n (fun c => { c with unmapRd := c.unmapRd + 1 }))
  | .snap p => pbHostRead s (snapShown s p * 4096 + off % 4096) len page
  | .inval => (zero, s)
  | .table => (tableBytes s (off - 65536) len, s)
  | .regs => pbShown s (regsPage * 4096 + (off - 131072)) len page
      ((List.range (len / 16)).flatMap (fun k => slotBytes16 s none (off - 131072 + 16 * k)))
  | .bootDb => pbShown s (bootDbPage * 4096 + off % 4096) len page zero
  | .staging p => pbHostRead s (p * 4096 + off % 4096) len page
  | .entry e => entryRead s page off len e

/-! ## ACT, RD, WR, MWR, PRE, REF (R70, R71) -/

/-- Aperture offset of a burst (Table 4-1); `col` counts 32-byte bursts. -/
def apOffset (ch row bank col : Nat) : Nat := packNat [(ch, 32), (row, 15), (bank, 11), (col, 5)]

/-- ACT. -/
def actOp (s : State) (n bank row : Nat) : State :=
  if chActs s n then
    let s := if thas (chOf s n).rows bank then protoErr s n else s
    modCh s n (fun c => { c with rows := tput c.rows bank row })
  else s

/-- Set what the channel drives. -/
def chAnswer (s : State) (n : Nat) (a : Answer) : State := modCh s n (fun c => { c with answer := a })

/-- The data of an RD to an open row: zeros while rl_err is set or the port buffer is not zeroed (R42,
R67). -/
def rdData (s : State) (n off len : Nat) : List Byte × State :=
  if rlErr s (chOf s n) then
    (List.replicate len 0, if (chOf s n).rlSeen then s else hpLink (modCh s n (fun c => { c with rlSeen := true })))
  else if s.boot.pbZeroed then hostRead s n off len
  else (List.replicate len 0, s)

/-- The burst an RD drives: with read link ECC its check bits go with it, with read DBI it is coded (R77). -/
def Chan.burst (c : Chan) (d : List Byte) : Answer :=
  if c.mr.recc || c.mr.rdbi then .burst d (if c.mr.recc then Config.linkEcc d else []) c.mr.rdbi else .data d

/-- RD. -/
def rdOp (s : State) (n bank col : Nat) (bl32 : Bool) : State :=
  if chActs s n then
    let len := if bl32 then 64 else 32
    let s := chTouch s n
    match tfind (chOf s n).rows bank with
    | none =>
      chAnswer (if s.boot.pbZeroed then protoErr s n else s) n ((chOf s n).burst (List.replicate len 0))
    | some row =>
      let (d, s) := rdData s n (apOffset n row bank col) len
      chAnswer s n ((chOf s n).burst d)
  else if chEnabled s n then chAnswer s n .none
  else s

/-- A write burst dropped for uncorrectable link ECC (R77). -/
def weccDrop (s : State) (n page : Nat) : State :=
  hpLink (event (modCh s n (fun c => { c with weccUe := c.weccUe + 1 })) 0x000B 0 4 n 0 page none)

/-- WR and MWR: dropped without a count until the port buffer is zeroed (Table 3-2); a masked write is
refused while the data mask is disabled (R75). -/
def wrOp (s : State) (n bank col : Nat) (ecc : Ecc) (data : List Byte) (masked : Option (List Bool)) : State :=
  if chActs s n then
    let s := chTouch s n
    let c := chOf s n
    if !s.boot.pbZeroed then s else
    match tfind c.rows bank with
    | none => protoErr s n
    | some row =>
      let off := apOffset n row bank col
      if masked.isSome && c.mr.dmDis then s
      else if c.mr.wecc && ecc == .uncorrectable then weccDrop s n (off / 4096)
      else
        let s := if c.mr.wecc && ecc == .corrected then modCh s n (fun c => { c with weccCe := c.weccCe + 1 }) else s
        hostWrite s n off data (masked.getD [])
  else s

/-- PRE of a bank, or of all. -/
def preOp (s : State) (n : Nat) (bank : Option Nat) : State :=
  if chHears s n then
    modCh s n fun c => { c with rows := match bank with | some b => tdel c.rows b | none => [] }
  else s

/-- REF: an untrained channel counts nothing (R439). -/
def refOp (s : State) (n : Nat) : State :=
  if chActs s n then modCh s n (fun c => { c with cntRef := c.cntRef + 1 }) else s

/-! ## Mode registers (R74, R75, R79) -/

/-- Read-only mode registers (Table 4-4). -/
def mrReadOnly (mr : Nat) : Option Byte :=
  match mr with
  | 0 => some (Config.mrStandard 0)
  | 4 => some (Config.mrStandard 4)
  | 5 => some 0xA7
  | 6 => some (if Config.stepping < 0x10 then 0x10 else Config.stepping)
  | 7 => some 0x48
  | 8 => some (Config.mrStandard 8)
  | _ => none

/-- What an MRW does to a set point's copy. -/
def ModeRegs.write (m : ModeRegs) (mr : Nat) (raw : Byte) (f : MrFields) : ModeRegs :=
  let m := { m with raw := tput m.raw mr raw }
  match f with
  | .latency rl wl nwr ck => if mr = 1 then { m with ckMode := ck } else { m with rl := rl, wl := wl, nwr := nwr }
  | .mr3 drive bg wdbi rdbi => { m with drive := drive, bg := bg, wdbi := wdbi, rdbi := rdbi }
  | .mr13 dm vro => { m with dmDis := dm, vro := vro }
  | .mr16 _ _ _ _ => m
  | .mr18 ratio4 on _ => { m with ratio4 := ratio4, wckOn := on }
  | .mr22 w r => { m with wecc := w, recc := r }
  | .mr28 mode stop reset => { m with zqMode := mode, zqStop := stop, zqReset := reset }
  | .stored => m

/-- The channel-wide effects of an MRW: set point selection, training modes, a refused WCK:CK ratio, which
sets rate_err: no open row is kept (R439). -/
def Chan.mrEffect (c : Chan) (f : MrFields) : Chan :=
  match f with
  | .mr16 wr op cbt _ =>
    let c := { c with fspWr := wr, fspOp := op, cbt := cbt }
    if c.trained then c else { c with rows := [] }
  | .mr18 ratio4 _ _ => if ratio4 then c else { c with ratioErr := true, rows := [] }
  | .latency _ _ _ _ => c
  | .mr3 _ _ _ _ => c
  | .mr13 _ _ => c
  | .mr22 _ _ => c
  | .mr28 _ _ _ => c
  | .stored => c

/-- Whether an MRW is a training command (R76). -/
def mrTrains : MrFields → Bool
  | .mr16 _ _ cbt _ => cbt
  | .mr18 _ _ lev => lev
  | .latency _ _ _ _ => false
  | .mr3 _ _ _ _ => false
  | .mr13 _ _ => false
  | .mr22 _ _ => false
  | .mr28 _ _ _ => false
  | .stored => false

/-- MRW: a read-only register ignores it. -/
def mrwOp (s : State) (n mr : Nat) (raw : Byte) (f : MrFields) : State :=
  if chHears s n && (mrReadOnly mr).isNone then
    let s := modCh s n fun c =>
      (if c.fspWr then { c with mr1 := c.mr1.write mr raw f } else { c with mr0 := c.mr0.write mr raw f }).mrEffect f
    rlArm (if mrTrains f then chTrains s n else s) n
  else s

/-- MRR. -/
def mrrOp (s : State) (n mr : Nat) : State :=
  if chHears s n then
    let c := chOf s n
    let v := match mrReadOnly mr with
      | some v => v
      | none => tget (if c.fspWr then c.mr1 else c.mr0).raw mr 0
    chAnswer s n (.modeReg v)
  else s

/-! ## Port-idle states (R80, Table 4-6) -/

/-- States from which a channel enters a port-idle state. -/
def ChState.live : ChState → Bool
  | .untrained => true | .training => true | .active => true
  | .powerDown => false | .selfRefresh => false | .srPowerDown => false | .deepSleep => false
  | .noClock => false | .disabled => false

/-- Change the state of an enabled channel. -/
def chMove (s : State) (n : Nat) (f : Chan → Chan) : State := if chEnabled s n then modCh s n f else s

/-- Entry into a port-idle state. -/
def Chan.idleIn (c : Chan) (st : ChState) : Chan := if c.st.live then { c with st := st, back := c.st } else c

/-- Return from a port-idle state. -/
def Chan.idleOut (c : Chan) (st : ChState) : Chan := if c.st = st then { c with st := c.back } else c

/-- PDE. -/
def Chan.pde (c : Chan) : Chan := if c.st = .selfRefresh then { c with st := .srPowerDown } else c.idleIn .powerDown

/-- PDX. -/
def Chan.pdx (c : Chan) : Chan := if c.st = .srPowerDown then { c with st := .selfRefresh } else c.idleOut .powerDown

/-! ## Training (R65, R76) -/

/-- The end of command bus training: it completes with CK in range, which clears rate_err. -/
def cbtEnd (s : State) (n : Nat) (ok : Bool) : State :=
  if !(chOf s n).cbt then s
  else if ok then
    modCh s n fun c =>
      let c := { c with cbt := false, ckErr := false, ratioErr := false }
      if c.fspOp then { c with trained1 := true } else { c with trained0 := true }
  else hpLink (modCh s n (fun c => { c with cbt := false, ckErr := true, rows := [] }))

/-- The read DQ calibration pattern of the pattern and invert registers. -/
def calData (s : State) (n : Nat) : List Byte := fit 32 (Config.calPattern (chOf s n).mr.raw)

/-- MPC. -/
def mpcOp (s : State) (n : Nat) (op : MpcOp) : State :=
  if chHears s n then
    let s := chTrains s n
    match op with
    | .zqStart => modCh s n (fun c => { c with zqBusy := !c.mr.zqStop })
    | .zqLatch => modCh s n (fun c => { c with zqBusy := false })
    | .cbtEnter => modCh s n (fun c => { c with cbt := true })
    | .cbtDone ok => cbtEnd s n ok
    | .wckLevelling => s
    | .dutyStart => modCh s n (fun c => { c with duty := true })
    | .dutyStop => modCh s n (fun c => { c with duty := false })
    | .fifo => s
    | .readCal => chAnswer s n (.data (calData s n))
  else s

/-- WFF: the training FIFO keeps the last 8 bursts. -/
def wffOp (s : State) (n : Nat) (data : List Byte) : State :=
  if chHears s n then
    modCh (chTrains s n) n fun c =>
      let l := c.fifo ++ [data]
      { c with fifo := l.drop (l.length - 8) }
  else s

/-- RFF: the oldest burst; an empty FIFO gives free bytes (log 8). -/
def rffOp (s : State) (n : Nat) : State :=
  if chHears s n then
    let s := chTrains s n
    match (chOf s n).fifo with
    | d :: r => chAnswer (modCh s n (fun c => { c with fifo := r })) n (.data d)
    | [] =>
      let (d, s) := freeBytes s 32
      chAnswer s n (.data d)
  else s

/-- RDC. -/
def rdcOp (s : State) (n : Nat) : State :=
  if chHears s n then chAnswer (chTrains s n) n (.data (calData s n)) else s

/-- RATE_ERR: CK leaves the configured rate; training that had completed is dropped. -/
def rateErrOp (s : State) (n : Nat) : State :=
  if chEnabled s n then
    hpLink (modCh s n fun c =>
      let c := { c with ckErr := true }
      if c.trained0 || c.trained1 then c.untrain .untrained else c)
  else s

/-- NO_CLOCK: CK stopped outside a port-idle state. -/
def noClockOp (s : State) (n : Nat) : State :=
  if chEnabled s n && (chOf s n).st.live then hpLink (modCh s n (·.untrain .noClock)) else s

/-! ## Meanings -/

/-- ACT (R70). -/
def execAct (ch bank row : Nat) (s : State) : Host.Outcome State Fault Refusal := onLive s (actOp s ch bank row)

/-- RD (R70). -/
def execRd (ch bank col : Nat) (bl32 : Bool) (s : State) : Host.Outcome State Fault Refusal :=
  onLive s (rdOp s ch bank col bl32)

/-- WR (R70). -/
def execWr (ch bank col : Nat) (_bl32 : Bool) (ecc : Ecc) (data : List Byte) (s : State) :
    Host.Outcome State Fault Refusal := onLive s (wrOp s ch bank col ecc data none)

/-- MWR (R70). -/
def execMwr (ch bank col : Nat) (_bl32 : Bool) (ecc : Ecc) (data : List Byte) (masked : List Bool) (s : State) :
    Host.Outcome State Fault Refusal := onLive s (wrOp s ch bank col ecc data (some masked))

/-- PRE (R70). -/
def execPre (ch : Nat) (bank : Option Nat) (s : State) : Host.Outcome State Fault Refusal := onLive s (preOp s ch bank)

/-- REF (R70). -/
def execRef (ch : Nat) (_kind : RefKind) (s : State) : Host.Outcome State Fault Refusal := onLive s (refOp s ch)

/-- MRW (R75). -/
def execMrw (ch mr : Nat) (raw : Byte) (f : MrFields) (s : State) : Host.Outcome State Fault Refusal :=
  onLive s (mrwOp s ch mr raw f)

/-- MRR (R74). -/
def execMrr (ch mr : Nat) (s : State) : Host.Outcome State Fault Refusal := onLive s (mrrOp s ch mr)

/-- SRE (R80). -/
def execSre (ch : Nat) (s : State) : Host.Outcome State Fault Refusal :=
  onLive s (chMove s ch (·.idleIn .selfRefresh))

/-- SRX (R80). -/
def execSrx (ch : Nat) (s : State) : Host.Outcome State Fault Refusal :=
  onLive s (chMove s ch (·.idleOut .selfRefresh))

/-- PDE (R80). -/
def execPde (ch : Nat) (s : State) : Host.Outcome State Fault Refusal := onLive s (chMove s ch (·.pde))

/-- PDX (R80). -/
def execPdx (ch : Nat) (s : State) : Host.Outcome State Fault Refusal := onLive s (chMove s ch (·.pdx))

/-- DEEP_SLEEP_ENTRY (R80). -/
def execDeepSleepEntry (ch : Nat) (s : State) : Host.Outcome State Fault Refusal :=
  onLive s (chMove s ch (·.idleIn .deepSleep))

/-- DEEP_SLEEP_EXIT (R80). -/
def execDeepSleepExit (ch : Nat) (s : State) : Host.Outcome State Fault Refusal :=
  onLive s (chMove s ch (·.idleOut .deepSleep))

/-- CAS: WCK is synchronised to CK (R70). -/
def execCas (ch : Nat) (_kind : CasKind) (s : State) : Host.Outcome State Fault Refusal :=
  onLive s (if chHears s ch then modCh s ch (fun c => { c with wckSync := true }) else s)

/-- MPC (R76). -/
def execMpc (ch : Nat) (op : MpcOp) (s : State) : Host.Outcome State Fault Refusal := onLive s (mpcOp s ch op)

/-- WFF (R76). -/
def execWff (ch : Nat) (data : List Byte) (s : State) : Host.Outcome State Fault Refusal := onLive s (wffOp s ch data)

/-- RFF (R76). -/
def execRff (ch : Nat) (s : State) : Host.Outcome State Fault Refusal := onLive s (rffOp s ch)

/-- RDC (R76). -/
def execRdc (ch : Nat) (s : State) : Host.Outcome State Fault Refusal := onLive s (rdcOp s ch)

/-- NOP and DES: nothing (Table 4-3). -/
def execNop (_ch : Nat) (_des : Bool) (s : State) : Host.Outcome State Fault Refusal := .next s

/-- RATE_ERR (R65). -/
def execRateErr (ch : Nat) (s : State) : Host.Outcome State Fault Refusal := onLive s (rateErrOp s ch)

/-- NO_CLOCK (R76). -/
def execNoClock (ch : Nat) (s : State) : Host.Outcome State Fault Refusal := onLive s (noClockOp s ch)

end Sys2Proof.Machine
end

