-- ==== Sys2Proof/Machine/Boot.lean ====
section
/-! DEFINITION. Boot.lean: resets, the configuration image, the firmware stages and entry into READY
(03, 20 R375 to R379, 24 R428). -/

namespace Sys2Proof.Machine

/-! ## Resets (R40 to R43, Table 3-2) -/

/-- Whether a low pulse of a reset pin acts: never below 38 REFCLK cycles, always from 384, and in between
as a free value says (R41). -/
def pulseActs (s : State) (refclks : Nat) : Bool × State :=
  if refclks < 38 then (false, s)
  else if 384 ≤ refclks then (true, s)
  else
    let (v, s) := takeFree s
    (bit v 0, s)

/-- Debug level from reset without a token (R388). -/
def baseLevel (f : Fuses) : Nat := if f.dbgClose then 0 else 3

/-- Everything at its power-on value; the queue, the fuse array and the free values are no part of it. -/
def powerOn (s : State) (p : Pins) : State :=
  { State.reset with
    pending := s.pending, free := s.free, fuses := s.fuses, pins := p
    sec := { level := baseLevel s.fuses } }

/-- PORST_N goes low. -/
def porstLowOp (s : State) (refclks : Nat) : State :=
  let (acts, s) := pulseActs s refclks
  if acts then powerOn s { porstN := false, xspiDriven := false } else s

/-- PORST_N rises: the fuses are sensed (R375). -/
def porstHighOp (s : State) (fuseOk : Bool) : State :=
  if s.pins.porstN then s else powerOn { s with fuses := { s.fuses with ok := fuseOk } } {}

/-- An internal reset: as PORST_N low until it falls and rises; THERMTRIP_N keeps its latch (R428). -/
def internalResetOp (s : State) : State :=
  if s.pins.porstN then powerOn s { held := true, xspiDriven := false, thermtrip := s.pins.thermtrip } else s

/-- Bytes of every populated device DRAM channel. -/
def populatedBytes (c : Cfg) : Nat :=
  ((setBits c.dmMask 32).map (fun i => c.density.getD i 0)).foldl (· + ·) 0

/-- A 256-bit number of the random generator: a free value (log 8). -/
def take256 (s : State) : BitVec 256 × State :=
  let (a, s) := takeFree s
  let (b, s) := takeFree s
  let (c, s) := takeFree s
  let (d, s) := takeFree s
  (a ++ b ++ c ++ d, s)

/-- Three fresh keys for every partition with enc set (R295). -/
def drawKeys (s : State) : State :=
  (s.cfg.parts.filter (·.enc)).foldl (fun s p =>
    let (x1, s) := take256 s
    let (x2, s) := take256 s
    let (m, s) := take256 s
    { s with mem := { s.mem with keys := tput s.mem.keys p.idx { x1 := x1, x2 := x2, mac := m } } }) s

/-- Every populated byte is left to zero. Zeroing starts at once where the channels are trained, and with
it the memory keys are drawn; else when training ends (R60, R295). -/
def zeroStart (s : State) : State :=
  let s := { s with boot := { s.boot with zeroLeft := populatedBytes s.cfg } }
  if s.boot.trained then drawKeys s else s

/-- HRST_N is low. -/
def hrstLow (s : State) : Bool := s.clk.now < s.pins.hrstUntil

/-- What HRST_N leaves (Table 3-2, and the registers of 04, 20, 22 and 23 that outlive it). Under the
fallback configuration the flash is read again; where what it now holds gives another HOST_PORT record,
training and mode registers are lost and INT3_N is low from the release (R54; log 31). -/
def afterHrst (s : State) (portChanges : Bool) : State :=
  let lost := s.cfg.fallback && portChanges
  { State.reset with
    pending := s.pending, free := s.free, fuses := s.fuses, cfg := s.cfg
    pins := { s.pins with xspiDriven := s.cfg.fallback, int3Hold := lost }
    clk := { s.clk with corr := [], corrTs := 0 }
    boot := { lastReset := 1, cfgSrc := s.boot.cfgSrc, cfgGen := s.boot.cfgGen, cfgDigest := s.boot.cfgDigest,
              trained := s.boot.trained, reread := s.cfg.fallback }
    hp := if lost then [] else
      s.hp.map fun e => (e.1, { e.2 with cntRef := 0, proto := 0, weccUe := 0, weccCe := 0, unmapRd := 0, unmapWr := 0 })
    pwr := { mgmtRestarts := s.pwr.mgmtRestarts, ocWarn := s.pwr.ocWarn }
    sec := { level := max s.sec.level s.sec.pend, signer := s.sec.signer, tokHash := s.sec.tokHash
             reports := s.sec.reports, cdi := s.sec.cdi, udsBlocked := s.sec.udsBlocked }
    log := { written := s.log.written, ceSs := s.log.ceSs, ceDram := s.log.ceDram, ceCore := s.log.ceCore
             ceOther := s.log.ceOther } }

/-- HRST_N pulse: before the configuration has been captured it resets nothing, but its level is seen when
capture ends (R43). -/
def hrstOp (s : State) (refclks : Nat) (portChanges : Bool) : State :=
  let (acts, s) := pulseActs s refclks
  if !acts then s
  else
    let s := { s with pins := { s.pins with hrstUntil := max s.pins.hrstUntil (s.clk.now + 875 * refclks) } }
    if s.boot.stage = .cfg && (!s.cfg.valid || s.boot.reread) then s
    else
      let s := afterHrst s portChanges
      if s.cfg.fallback then s else zeroStart s

/-- HPRSTn_N low: mode registers and training of its half go; the counters go on (R62, R81). -/
def hprstOp (s : State) (half : Nat) : State :=
  (List.range' (4 * half) 4).foldl (fun s n => modCh s n fun c =>
    { cntRef := c.cntRef, proto := c.proto, weccUe := c.weccUe, weccCe := c.weccCe, unmapRd := c.unmapRd
      unmapWr := c.unmapWr }) s

/-! ## The configuration image (R44 to R52, R278, R281, R433) -/

/-- Bytes of the flash from an offset of an image; a byte the image does not hold is erased and reads
0xFF. -/
def flashBytes (m : List Byte) (off n : Nat) : List Byte :=
  let d := (m.drop off).take n
  d ++ List.replicate (n - d.length) 0xFF

/-- The image header (Table 3-3). -/
def imgHeader (m : List Byte) : BitVec 512 := BitVec.ofNat 512 (leNat (flashBytes m 0 64))

/-! Fields of the header. -/
def ihMagic (h : BitVec 512) : Nat := bits h 31 0
def ihFmt (h : BitVec 512) : Nat := bits h 47 32
def ihCount (h : BitVec 512) : Nat := bits h 63 48
def ihLen (h : BitVec 512) : Nat := bits h 95 64
def ihGen (h : BitVec 512) : W32 := BitVec.ofNat 32 (bits h 127 96)
def ihRdOp (h : BitVec 512) : Byte := BitVec.ofNat 8 (bits h 135 128)
def ihDummy (h : BitVec 512) : Nat := bits h 143 136
def ihMhz (h : BitVec 512) : Nat := bits h 151 144
def ihModeN (h : BitVec 512) : Nat := bits h 155 152

/-- Mode-entry write i, 0 or 1: opcode, data byte and register address (Table 3-3). -/
def ihMode (h : BitVec 512) (i : Nat) : XspiOp :=
  let m : BitVec 64 := BitVec.ofNat 64 (bits h (255 + 64 * i) (192 + 64 * i))
  .modeWrite (BitVec.ofNat 8 (bits m 63 56)) (BitVec.ofNat 8 (bits m 55 48)) (BitVec.ofNat 32 (bits m 47 16))

/-- Whether the header names an image the rest of which can be read (R45, R51 step 1). -/
def headOk (h : BitVec 512) : Bool :=
  ihMagic h == 0x31434654 && ihFmt h == 1 && ihLen h % 8 == 0 && decide (64 ≤ ihLen h) && decide (ihLen h ≤ 131072)

/-- What the device does on the flash interface for the image at an address: the header in 1S-1S-1S, then,
if it names an image, the mode-entry writes, the rest in 8D-8D-8D at no more than 200 MHz, and the release
(R44, R46; log 19). -/
def imgReads (addr : Nat) (m : List Byte) : List XspiOp :=
  let h := imgHeader m
  .read1S addr 64 :: (if headOk h then
    (List.range (min 2 (ihModeN h))).map (ihMode h) ++
      [.read8D (ihRdOp h) (ihDummy h) (min 200 (ihMhz h)) (addr + 64) (ihLen h - 64), .release]
    else [])

/-- A record with its header decoded (R48). -/
structure CfgRecord where
  typ  : Nat
  len  : Nat
  crit : Bool
  body : List Byte
  deriving DecidableEq, Repr

/-- `n` records that lie end to end in a byte string and fill it (R48); none where their lengths are not
consistent with it. -/
def recWalk : Nat → List Byte → Option (List CfgRecord)
  | 0, d => if d.isEmpty then some [] else none
  | n + 1, d =>
    let h : BitVec 64 := BitVec.ofNat 64 (leNat (d.take 8))
    let len := bits h 31 16
    if d.length < 8 || len < 8 || len % 8 != 0 || d.length < len then none
    else (recWalk n (d.drop len)).map
      ({ typ := bits h 15 0, len := len, crit := bit h 32, body := (d.drop 8).take (len - 8) } :: ·)

/-- The records of an image. -/
def imgRecords (m : List Byte) : Option (List CfgRecord) :=
  let h := imgHeader m
  if headOk h then recWalk (ihCount h) (flashBytes m 64 (ihLen h - 64)) else none

/-- A PARTITION record body (Table 3-5). -/
def partitionOf (d : List Byte) : Partition :=
  let w : BitVec 192 := BitVec.ofNat 192 (leNat d)
  { idx := bits w 2 0, auto := bit w 3, cls := bits w 5 4, enc := bit w 6, fnGrant := bit w 7
    coreMask := BitVec.ofNat 48 (bits w 55 8), chMask := BitVec.ofNat 32 (bits w 95 64)
    ssBase := bits w 103 96, ssSize := bits w 111 104, pipeMask := BitVec.ofNat 4 (bits w 115 112)
    capMask := BitVec.ofNat 4 (bits w 119 116), aud := bit w 120, cmpMask := BitVec.ofNat 2 (bits w 122 121)
    olShare := BitVec.ofNat 16 (bits w 143 128) }

/-- Type of a body whose layout the manual leaves to the image tools (Table 3-4). -/
def bodyType : RecBody → Nat
  | .clock _ _ _ _ => 0x10 | .hostPort _ _ _ _ => 0x20 | .dram _ _ _ => 0x30 | .pins _ _ => 0x50
  | .dispatch _ _ => 0x60 | .security _ _ _ => 0x70 | .power _ _ _ _ => 0x80

/-- Types with such a body. -/
def openTypes : List Nat := [0x10, 0x20, 0x30, 0x50, 0x60, 0x70, 0x80]

/-- a ≤ x ≤ b. -/
def within (a x b : Nat) : Bool := decide (a ≤ x) && decide (x ≤ b)

/-- A range of a data rate (R65, R281). -/
def rateOk (r : Nat) : Bool := within 3200 r 8533

/-- Trip temperature of a grade (Table 24-7). -/
def gradeTrip (f : Fuses) : Nat := match f.grade with | 0 => 130 | 1 => 120 | _ => 105

/-- Whether every field of a body is within the range given for it: Tables 2-2 (PLLs), 3-4, 24-4 (drive
codes), 24-5 and 24-7. -/
def bodyOk (f : Fuses) : RecBody → Bool
  | .clock r i d m => rateOk r && decide (i ≤ 12) && decide (d ≤ 700) && decide (m = 600)
  | .hostPort a b _ d => rateOk a && rateOk b && decide (d ≤ 3)
  | .dram _ _ n => within 1 n 4
  | .pins a b => decide (a ≤ 1) && decide (b ≤ 1)
  | .dispatch _ l => decide (l.foldl (· + ·) 0 ≤ 32)
  | .security d _ a => decide (d ≤ 2) && decide (a.toNat < 4)
  | .power w t _ _ => within 35 w 180 && within 60 t (gradeTrip f - 10)

/-- Whether the fields of a partition are within the ranges of Table 3-5. -/
def partOk (p : Partition) : Bool :=
  decide (p.cls ≤ 1) && within 1 p.ssSize 176 && decide (p.ssBase + p.ssSize ≤ 176)

/-- A record is one of Table 3-4 with its fields in range, or of an unknown type and not critical (R48,
R51). -/
def recordOk (f : Fuses) (r : CfgRecord) : Bool :=
  if openTypes.contains r.typ then
    let b := Config.recBody r.typ r.body
    bodyType b == r.typ && bodyOk f b
  else if r.typ = 0x40 then r.len == 32 && partOk (partitionOf r.body)
  else if r.typ = 0x7FFF then (r.body.drop 5261).all (· == 0)
  else !r.crit

/-- How many records have a type. -/
def countType (rs : List CfgRecord) (t : Nat) : Nat := (rs.filter (·.typ == t)).length

/-- What a body of a record gives the configuration; one without PINS has code 0 (R431). -/
def bodyAdd (c : Cfg) : RecBody → Cfg
  | .clock rate i d m => { c with dramRate := rate, initStep := i, dispMhz := d, camMhz := m }
  | .hostPort a b m d => { c with rate0 := a, rate1 := b, chMask := m, drive := d }
  | .dram m d n => { c with dmMask := m, density := d, packages := n }
  | .pins a b => { c with mg0 := a, mg1 := b }
  | .dispatch m l => { c with central := m, slots := l }
  | .security d n a => { c with debugPolicy := d, needEnc := n, attestPolicy := a }
  | .power w t a h => { c with limitW := w, throttleC := t, currentA := a, hostWritesLimit := h }

/-- What a record gives the configuration: nothing, if its type is unknown (R48). -/
def cfgAdd (c : Cfg) (r : CfgRecord) : Cfg :=
  if openTypes.contains r.typ then bodyAdd c (Config.recBody r.typ r.body)
  else if r.typ = 0x40 then { c with parts := c.parts ++ [partitionOf r.body] }
  else c

/-- The configuration of a list of records. -/
def cfgOf (rs : List CfgRecord) : Cfg := rs.foldl cfgAdd { valid := true }

/-- Two PARTITION records share nothing. -/
def partsApart (a b : Partition) : Bool :=
  a.idx != b.idx && a.coreMask &&& b.coreMask == 0 && a.chMask &&& b.chMask == 0 &&
  !overlaps a.ssBase a.ssSize b.ssBase b.ssSize && a.pipeMask &&& b.pipeMask == 0 &&
  a.capMask &&& b.capMask == 0 && !(a.aud && b.aud) && a.cmpMask &&& b.cmpMask == 0

/-- Channel masks come in aligned groups of 4, inside the populated mask. -/
def chansOk (c : Cfg) (p : Partition) : Bool :=
  (List.range 8).all (fun g => bits p.chMask (4 * g + 3) (4 * g) == 0 || bits p.chMask (4 * g + 3) (4 * g) == 15) &&
  p.chMask &&& ~~~c.dmMask == 0

/-- The checks of R51 step 3 over the whole configuration. -/
def cfgWholeOk (c : Cfg) : Bool :=
  allPairs partsApart c.parts && c.parts.all (chansOk c) &&
  decide ((c.parts.map (fun p =>
    (partChans p).length * ((partChans p).map (fun i => c.density.getD i 0)).foldl min (c.density.getD ((partChans p).headD 0) 0))).foldl
      (· + ·) 0 ≤ 2 ^ 37) &&
  (List.range 4).all (fun l => decide ((c.parts.map (fun p => bits p.olShare (4 * l + 3) (4 * l))).foldl (· + ·) 0 ≤ 16)) &&
  (!c.needEnc || c.parts.all (·.enc))

/-- Bytes from the start of the header to the start of the SIGNATURE record, the last one (R50). -/
def sigCovers (m : List Byte) (r : CfgRecord) : List Byte := flashBytes m 0 (ihLen (imgHeader m) - r.len)

/-- SHA3-384 digest of an image (R50). -/
def imgDigest (m : List Byte) : BitVec 384 :=
  match (imgRecords m).bind (·.getLast?) with
  | some r => Config.sha3 (sigCovers m r)
  | none => 0

/-- The SIGNATURE record is last, its key is the owner's, and its signature over the digest verifies
(R50). -/
def sigOk (f : Fuses) (m : List Byte) (rs : List CfgRecord) : Bool :=
  rs.getLast?.any fun r =>
    r.typ == 0x7FFF && r.len == 5272 && Config.sha3 (r.body.take 1952) == f.ownerKh &&
      Config.sigValid (r.body.take 1952) (imgDigest m) ((r.body.drop 1952).take 3309)

/-- The records, singletons and header fields pass R51 step 3. -/
def recordsOk (f : Fuses) (h : BitVec 512) (rs : List CfgRecord) : Bool :=
  rs.all (recordOk f) && [0x10, 0x20, 0x30, 0x60, 0x70, 0x80, 0x7FFF].all (fun t => countType rs t == 1) &&
    decide (countType rs 0x50 ≤ 1) && decide (countType rs 0x40 ≤ 8) && within 25 (ihMhz h) 200 &&
    decide (ihDummy h ≤ 31) && decide (ihModeN h ≤ 2) && cfgWholeOk (cfgOf rs)

/-- Error code of an image, 0 for a valid one: the checks in their order (R51, Table 3-11). -/
def imageErr (f : Fuses) (m : List Byte) : Nat :=
  match imgRecords m with
  | none => 1
  | some rs => if !sigOk f m rs then 2 else if !recordsOk f (imgHeader m) rs then 3 else 0

/-- The configuration an image gives. -/
def imgCfg (m : List Byte) : Cfg := cfgOf ((imgRecords m).getD [])

/-- Generation of an image. -/
def imgGen (m : List Byte) : W32 := ihGen (imgHeader m)

/-- An image is blank: its first word is all ones (R52). -/
def imgBlank (m : List Byte) : Bool := ihMagic (imgHeader m) == 0xFFFFFFFF

/-- The fallback configuration (R52). Its set point 1 rate, 3,200 as on set point 0, and its INT drive code
0 are the model's choice: R52 names neither, and both decide whether a HOST_PORT record read again after
HRST_N is another one (DESIGN CHOICE, log 48). -/
def fallbackCfg : Cfg := { valid := true, fallback := true, rate0 := 3200, rate1 := 3200, chMask := 0xFF }

/-- Configuration, source, generation, digest and error of a boot (R45, R52); a fuse array that failed
its check stops boot under the fallback configuration (R375). Where image A fails and image B is valid,
the error reads NONE, the model's choice (DESIGN CHOICE, log 48). -/
def cfgChoose (s : State) (a b : List Byte) : Cfg × Nat × W32 × BitVec 384 × Nat :=
  if !s.fuses.ok then (fallbackCfg, 2, 0, 0, 4)
  else if imageErr s.fuses a = 0 then (imgCfg a, 0, imgGen a, imgDigest a, 0)
  else if imageErr s.fuses b = 0 then (imgCfg b, 1, imgGen b, imgDigest b, 0)
  else (fallbackCfg, 2, 0, 0, if imgBlank b then imageErr s.fuses a else imageErr s.fuses b)

/-- Flash accesses of a boot: image A at 0x0000_0000, image B at 0x0002_0000 only if A fails (R45). A
device that stops on its fuses reads nothing. After a header that names no image the interface is
released all the same (log 19). -/
def cfgReads (s : State) (a b : List Byte) : List XspiOp :=
  if !s.fuses.ok then []
  else
    let l := imgReads 0 a ++ (if imageErr s.fuses a = 0 then [] else imgReads 0x20000 b)
    if l.getLast? = some .release then l else l ++ [.release]

/-- Whether two configurations give the host port the same HOST_PORT record. -/
def samePort (a b : Cfg) : Bool := a.rate0 == b.rate0 && a.rate1 == b.rate1 && a.chMask == b.chMask && a.drive == b.drive

/-- CONFIG_READ: the images at the two flash addresses are read, the flash is released, XSPI_RESET_N low for
10 µs, and the images are checked; the configuration comes into force and INT3_N is released; after HRST_N
a changed HOST_PORT record loses training (R44 to R46, R51, R54, Table 3-2). -/
def configReadOp (s : State) (a b : List Byte) : State :=
  if s.boot.stage = .cfg && (!s.cfg.valid || s.boot.reread) then
    let (c, src, gen, dig, err) := cfgChoose s a b
    let hp := if s.cfg.valid && !samePort s.cfg c then [] else s.hp
    let s := { s with
      cfg := c, hp := hp
      pins := { s.pins with int3Hold := false, xspiDriven := false, xspiRst := s.clk.now + 336000 }
      sec := { s.sec with udsBlocked := true, cdi := if s.sec.udsBlocked then s.sec.cdi else some (cdiOf s.fuses) }
      pwr := { s.pwr with ocWarn := c.currentA }
      boot := { s.boot with
        cfgSrc := src, cfgGen := gen, cfgDigest := dig, err := err, reread := false, xspi := cfgReads s a b } }
    if c.fallback then s else zeroStart s
  else s

/-! ## READY (R36, R55, R60, R82, R392) -/

/-- The boot doorbell and staging pages are zeroed. -/
def bootPagesZero (s : State) : State :=
  let out (page : Nat) : Bool := page == bootDbPage || within stagingPage page (stagingPage + 4095)
  { s with pb := s.pb.filter (fun c => !out (c.1 / 4096)), pbPoison := s.pbPoison.filter (fun w => !out (w / 512)) }

/-- The management firmware enables an auto partition and its pipes and compression engines. -/
def autoStart (s : State) (p : Partition) : State :=
  if p.auto then
    let s := fnSet s p.idx true
    let s := (setBits p.pipeMask 4).foldl (fun s n => fnSet s (8 + n) true) s
    (setBits p.cmpMask 2).foldl (fun s n => fnSet s (20 + n) true) s
  else s

/-- Every link starts to train. -/
def linksStart (s : State) : State :=
  (List.range 4).foldl (fun s n => modLink s n (fun l => { l with st := .training })) s

/-- Entry into READY. -/
def readyOp (s : State) : State :=
  let s := bootPagesZero s
  let s := { s with
    boot := { s.boot with stage := .ready, readyTs := stamp s 35, dbPend := false, dbRec := 0 }
    wt := {}, pwr := { s.pwr with dev := .active } }
  let s := applySteps s 5 true { s.pwr with dLoop := (List.range 8).map (fun g => (g, s.cfg.initStep)) }
  s.cfg.parts.foldl autoStart (linksStart s)

/-- READY once every stage is verified and nothing is left to zero (R60). -/
def readyCheck (s : State) : State :=
  if s.boot.fwDone = 7 && s.boot.zeroLeft = 0 && s.boot.stage = .dram then readyOp s else s

/-- PORT_BUFFER_ZEROED: port buffer and stacked store are zero, and the boot windows come into force
(R43, R52, R60). With HRST_N low the zeroing is still to come, and the download does not start (R42,
R43). -/
def pbZeroedOp (s : State) : State :=
  if (s.boot.stage == .cfg || s.boot.stage == .halted && !s.boot.pbZeroed) && s.cfg.valid && !s.boot.reread && !hrstLow s then
    readyCheck { s with
      pb := [], pbPoison := [], mem := { s.mem with ss := [] }
      boot := { s.boot with pbZeroed := true, stage := if s.cfg.fallback || s.boot.stage == .halted then .halted else .awaitM } }
  else s

/-- DRAM_TRAINING_DONE (R60, Table 3-11). -/
def trainingDoneOp (s : State) (failed : Bool) : State :=
  if !s.cfg.valid || s.cfg.fallback || s.boot.trained || s.boot.stage = .ready then s
  else if failed then { s with boot := { s.boot with stage := .halted, err := 9, cur := none } }
  else readyCheck (drawKeys { s with boot := { s.boot with trained := true } })

/-- DRAM_ZEROING_DONE. -/
def zeroingDoneOp (s : State) : State :=
  if s.cfg.valid && s.boot.trained && s.boot.stage != .ready then
    readyCheck { s with
      mem := { s.mem with dram := [], l2 := [], wcb := [], macC := [], macBad := [], poison := [] }
      boot := { s.boot with zeroLeft := 0 } }
  else s

/-! ## Firmware stages (R57 to R59, R378, R379) -/

/-- Maximum size of a stage (Table 3-12). -/
def stageMax (k : Nat) : Nat := match k with | 1 => 4194304 | 2 => 1048576 | _ => 2097152

/-- Whether a stage is awaited. -/
def awaited (b : Boot) (k : Nat) : Bool :=
  (b.stage == .awaitM && k == 1) || (b.stage == .awaitFC && (k == 2 || k == 3) && !b.fwDone.getLsbD (k - 1))

/-- The stage shown while stage k is verified, and while the next is awaited. -/
def verifyStage (k : Nat) : Stage := match k with | 1 => .verifyM | 2 => .verifyF | _ => .verifyC
def awaitStage (k : Nat) : Stage := if k = 1 then .awaitM else .awaitFC

/-- BOOT_DOORBELL: the pending doorbell is taken; in HALTED and READY boot takes none. The stage shows
VERIFY_x from here, before the copy: R59 names no moment (DESIGN CHOICE, log 48). -/
def bootDoorbellOp (s : State) : State :=
  let b := s.boot
  if !b.dbPend || b.cur.isSome || !b.pbZeroed || b.stage = .halted || b.stage = .ready then s
  else
    let seq : W32 := BitVec.ofNat 32 (bits b.dbRec 31 0)
    let k := bits b.dbRec 39 32
    let len := bits b.dbRec 95 64
    let off := bits b.dbRec 127 96
    let b := { b with dbPend := false }
    let bad (e : Nat) : State := { s with boot := { b with err := e, seqCopied := seq, seqDone := seq } }
    if !awaited b k then bad 5
    else if len = 0 || stageMax k < len || 16777216 < off + len || off % 4096 != 0 then bad 6
    else
      let j : BootJob := { seq := seq, stage := k, off := off, len := len, image := [], copied := false, bad := false }
      { s with boot := { b with stage := verifyStage k, cur := some j } }

/-- STAGE_COPIED: the image has left the staging window; an uncorrectable word there is reported and fails
the stage (R59, Table 22-2). -/
def stageCopiedOp (s : State) : State :=
  match s.boot.cur with
  | none => s
  | some j =>
    if j.copied then s
    else
      let off := stagingPage * 4096 + j.off
      let img := pbFetch s off j.len
      let s := (pbBad s off j.len).foldl (fun s w => pbUe s w 0) s
      match s.boot.cur with
      | none => s
      | some j => { s with boot := { s.boot with seqCopied := j.seq, cur := some { j with image := img, copied := true } } }

/-- Digest a stage's signature covers (R379). -/
def stageDigest (img : List Byte) : BitVec 384 := Config.sha3 (img.take 2016 ++ img.drop 8192)

/-- Error of a copied stage, 0 for none (R379). -/
def stageErr (s : State) (j : BootJob) : Nat :=
  let h : BitVec 512 := BitVec.ofNat 512 (leNat (j.image.take 64))
  let key := slice j.image 64 1952
  if j.bad || bits h 31 0 != 0x45475453 || bits h 47 32 != 1 || bits h 95 64 != 8192 + bits h 127 96 ||
      bits h 95 64 != j.len || bits h 127 96 < 4 || bits h 55 48 != j.stage || bits h 511 160 != 0 ||
      !zeroRun j.image 5325 2867 then 7
  else if Config.sha3 key != s.fuses.vendorKh then 7
  else if !Config.sigValid key (stageDigest j.image) (slice j.image 2016 3309) then 7
  else if bits h 63 56 < svnOf s.fuses j.stage then 8
  else 0

/-- STAGE_VERIFIED: three failures of a stage halt boot (R59). -/
def stageVerifiedOp (s : State) : State :=
  match s.boot.cur with
  | none => s
  | some j =>
    if !j.copied then s
    else
      let b := { s.boot with cur := none, seqDone := j.seq }
      let e := stageErr s j
      if e != 0 then
        let n := tget b.failCnt j.stage 0 + 1
        { s with boot := { b with
            err := e, fails := n, failCnt := tput b.failCnt j.stage n
            stage := if 3 ≤ n then .halted else awaitStage j.stage } }
      else
        let done := b.fwDone ||| BitVec.ofNat 8 (2 ^ (j.stage - 1))
        let img : StageImage := { image := j.image, digest := stageDigest j.image, svn := bits (BitVec.ofNat 512 (leNat (j.image.take 64))) 63 56 }
        readyCheck { s with boot := { b with
          err := 0, fails := 0, fwDone := done, images := tput b.images j.stage img
          stage := if done = 7 then .dram else .awaitFC } }

/-! ## Meanings -/

/-- PORST_N_RELEASE (R40, R375). -/
def execPorstNRelease (fuseOk : Bool) (s : State) : Host.Outcome State Fault Refusal := .next (porstHighOp s fuseOk)

/-- PORST_N_ASSERT (R40, R41). -/
def execPorstNAssert (refclks : Nat) (s : State) : Host.Outcome State Fault Refusal :=
  .next (porstLowOp s refclks)

/-- HRST_N_PULSE (R42). -/
def execHrstNPulse (pulse : HrstPulse) (s : State) : Host.Outcome State Fault Refusal :=
  onLive s (hrstOp s pulse.refclks pulse.portChanges)

/-- INTERNAL_RESET (R428). -/
def execInternalReset (_why : IntReset) (s : State) : Host.Outcome State Fault Refusal := .next (internalResetOp s)

/-- HPRST_N_ASSERT (R62). -/
def execHprstNAssert (half : Nat) (s : State) : Host.Outcome State Fault Refusal := onLive s (hprstOp s half)

/-- CONFIG_READ (R51). -/
def execConfigRead (a b : List Byte) (s : State) : Host.Outcome State Fault Refusal := onLive s (configReadOp s a b)

/-- BOOT_DOORBELL (R58, R59). -/
def execBootDoorbell (s : State) : Host.Outcome State Fault Refusal := onLive s (bootDoorbellOp s)

/-- STAGE_COPIED (R59). -/
def execStageCopied (s : State) : Host.Outcome State Fault Refusal := onLive s (stageCopiedOp s)

/-- STAGE_VERIFIED (R59, R379). -/
def execStageVerified (s : State) : Host.Outcome State Fault Refusal := onLive s (stageVerifiedOp s)

/-- DRAM_TRAINING_DONE (R60). -/
def execDramTrainingDone (failed : Bool) (s : State) : Host.Outcome State Fault Refusal :=
  onLive s (trainingDoneOp s failed)

/-- DRAM_ZEROING_DONE (R60). -/
def execDramZeroingDone (s : State) : Host.Outcome State Fault Refusal := onLive s (zeroingDoneOp s)

/-- PORT_BUFFER_ZEROED (R43, R60). -/
def execPortBufferZeroed (s : State) : Host.Outcome State Fault Refusal := onLive s (pbZeroedOp s)

end Sys2Proof.Machine
end

