-- ==== Sys2Proof/Machine/Dispatch.lean ====
section
/-! DEFINITION. Dispatch.lean: one arm per command, each the direct call of its meaning. -/

namespace Sys2Proof.Machine

/-- The effect of a command on everything but the queue of waiting commands. -/
def exec (i : Instr) (s : State) : Host.Outcome State Fault Refusal :=
  match i with
  | .porstNRelease fuseOk => Sys2Proof.Machine.execPorstNRelease fuseOk s
  | .porstNAssert refclks => Sys2Proof.Machine.execPorstNAssert refclks s
  | .hrstNPulse pulse => Sys2Proof.Machine.execHrstNPulse pulse s
  | .internalReset why => Sys2Proof.Machine.execInternalReset why s
  | .hprstNAssert half => Sys2Proof.Machine.execHprstNAssert half s
  | .configRead a b => Sys2Proof.Machine.execConfigRead a b s
  | .bootDoorbell => Sys2Proof.Machine.execBootDoorbell s
  | .stageCopied => Sys2Proof.Machine.execStageCopied s
  | .stageVerified => Sys2Proof.Machine.execStageVerified s
  | .dramTrainingDone failed => Sys2Proof.Machine.execDramTrainingDone failed s
  | .dramZeroingDone => Sys2Proof.Machine.execDramZeroingDone s
  | .act ch bank row => Sys2Proof.Machine.execAct ch bank row s
  | .rd ch bank col bl32 => Sys2Proof.Machine.execRd ch bank col bl32 s
  | .wr ch bank col bl32 ecc data => Sys2Proof.Machine.execWr ch bank col bl32 ecc data s
  | .mwr ch bank col bl32 ecc data masked => Sys2Proof.Machine.execMwr ch bank col bl32 ecc data masked s
  | .pre ch bank => Sys2Proof.Machine.execPre ch bank s
  | .ref ch kind => Sys2Proof.Machine.execRef ch kind s
  | .mrw ch mr raw f => Sys2Proof.Machine.execMrw ch mr raw f s
  | .mrr ch mr => Sys2Proof.Machine.execMrr ch mr s
  | .sre ch => Sys2Proof.Machine.execSre ch s
  | .srx ch => Sys2Proof.Machine.execSrx ch s
  | .pde ch => Sys2Proof.Machine.execPde ch s
  | .pdx ch => Sys2Proof.Machine.execPdx ch s
  | .deepSleepEntry ch => Sys2Proof.Machine.execDeepSleepEntry ch s
  | .deepSleepExit ch => Sys2Proof.Machine.execDeepSleepExit ch s
  | .cas ch kind => Sys2Proof.Machine.execCas ch kind s
  | .mpc ch op => Sys2Proof.Machine.execMpc ch op s
  | .wff ch data => Sys2Proof.Machine.execWff ch data s
  | .rff ch => Sys2Proof.Machine.execRff ch s
  | .rdc ch => Sys2Proof.Machine.execRdc ch s
  | .nop ch des => Sys2Proof.Machine.execNop ch des s
  | .rateErr ch => Sys2Proof.Machine.execRateErr ch s
  | .noClock ch => Sys2Proof.Machine.execNoClock ch s
  | .tableWrite off data masked => Sys2Proof.Machine.execTableWrite off data masked s
  | .invalidationWrite gen nWrites => Sys2Proof.Machine.execInvalidationWrite gen nWrites s
  | .wtCommitEnd => Sys2Proof.Machine.execWtCommitEnd s
  | .snapshotSwap page => Sys2Proof.Machine.execSnapshotSwap page s
  | .shadowCapture view off => Sys2Proof.Machine.execShadowCapture view off s
  | .registerWrite view off val mask => Sys2Proof.Machine.execRegisterWrite view off val mask s
  | .heldWriteApply view off => Sys2Proof.Machine.execHeldWriteApply view off s
  | .doorbell page wctx queue data mask => Sys2Proof.Machine.execDoorbell page wctx queue data mask s
  | .fenceWrite page wctx fence data mask => Sys2Proof.Machine.execFenceWrite page wctx fence data mask s
  | .queueBind queue => Sys2Proof.Machine.execQueueBind queue s
  | .slotSample slot => Sys2Proof.Machine.execSlotSample slot s
  | .slotFetch slot => Sys2Proof.Machine.execSlotFetch slot s
  | .drainPassEnd slot => Sys2Proof.Machine.execDrainPassEnd slot s
  | .commandStart cmd => Sys2Proof.Machine.execCommandStart cmd s
  | .waitTimeout cmd => Sys2Proof.Machine.execWaitTimeout cmd s
  | .ctxCreate tag ctx pbPage => Sys2Proof.Machine.execCtxCreate tag ctx pbPage s
  | .ctxTeardown tag ctx => Sys2Proof.Machine.execCtxTeardown tag ctx s
  | .teardownStepEnd ctx => Sys2Proof.Machine.execTeardownStepEnd ctx s
  | .ctxZeroingDone ctx => Sys2Proof.Machine.execCtxZeroingDone ctx s
  | .ctxBatch tag ctx pbPage count => Sys2Proof.Machine.execCtxBatch tag ctx pbPage count s
  | .objZeroingDone index => Sys2Proof.Machine.execObjZeroingDone index s
  | .qCreate tag ctx queue pbPage => Sys2Proof.Machine.execQCreate tag ctx queue pbPage s
  | .qDestroy tag ctx queue => Sys2Proof.Machine.execQDestroy tag ctx queue s
  | .launchGraph cmd => Sys2Proof.Machine.execLaunchGraph cmd s
  | .registerGraph cmd => Sys2Proof.Machine.execRegisterGraph cmd s
  | .destroyGraph cmd => Sys2Proof.Machine.execDestroyGraph cmd s
  | .armGraph cmd => Sys2Proof.Machine.execArmGraph cmd s
  | .disarmGraph cmd => Sys2Proof.Machine.execDisarmGraph cmd s
  | .nopCommand cmd => Sys2Proof.Machine.execNopCommand cmd s
  | .triggeredLaunch ctx gid => Sys2Proof.Machine.execTriggeredLaunch ctx gid s
  | .instanceStart inst => Sys2Proof.Machine.execInstanceStart inst s
  | .waitNodeTimeout inst node => Sys2Proof.Machine.execWaitNodeTimeout inst node s
  | .nodeStart inst node => Sys2Proof.Machine.execNodeStart inst node s
  | .nodeComplete inst node => Sys2Proof.Machine.execNodeComplete inst node s
  | .preemption inst node wgIdx core => Sys2Proof.Machine.execPreemption inst node wgIdx core s
  | .stateSaveDone wg => Sys2Proof.Machine.execStateSaveDone wg s
  | .restore wg core => Sys2Proof.Machine.execRestore wg core s
  | .workgroupPlace inst node wgIdx core ras => Sys2Proof.Machine.execWorkgroupPlace inst node wgIdx core ras s
  | .monAdd tag pbPage => Sys2Proof.Machine.execMonAdd tag pbPage s
  | .monRemove tag mon => Sys2Proof.Machine.execMonRemove tag mon s
  | .galeCheck mon => Sys2Proof.Machine.execGaleCheck mon s
  | .join tag pbPage => Sys2Proof.Machine.execJoin tag pbPage s
  | .leave tag entry => Sys2Proof.Machine.execLeave tag entry s
  | .pause tag entry => Sys2Proof.Machine.execPause tag entry s
  | .resume tag entry => Sys2Proof.Machine.execResume tag entry s
  | .setPrio tag entry prio => Sys2Proof.Machine.execSetPrio tag entry prio s
  | .build inst node => Sys2Proof.Machine.execBuild inst node s
  | .retire inst node => Sys2Proof.Machine.execRetire inst node s
  | .bra sp w => Sys2Proof.Machine.execBra sp w s
  | .exit sp w => Sys2Proof.Machine.execExit sp w s
  | .split sp w => Sys2Proof.Machine.execSplit sp w s
  | .rejoin sp w => Sys2Proof.Machine.execRejoin sp w s
  | .yield sp w => Sys2Proof.Machine.execYield sp w s
  | .pin sp w => Sys2Proof.Machine.execPin sp w s
  | .unpin sp w => Sys2Proof.Machine.execUnpin sp w s
  | .splitPromote core cpart place => Sys2Proof.Machine.execSplitPromote core cpart place s
  | .alu sp op dst w => Sys2Proof.Machine.execAlu sp op dst w s
  | .cvt sp w => Sys2Proof.Machine.execCvt sp w s
  | .load sp dst w => Sys2Proof.Machine.execLoad sp dst w s
  | .loadComplete id => Sys2Proof.Machine.execLoadComplete id s
  | .store sp w => Sys2Proof.Machine.execStore sp w s
  | .atomic sp op wide w => Sys2Proof.Machine.execAtomic sp op wide w s
  | .mma sp w => Sys2Proof.Machine.execMma sp w s
  | .mmaComplete core cpart => Sys2Proof.Machine.execMmaComplete core cpart s
  | .msync sp w => Sys2Proof.Machine.execMsync sp w s
  | .amov sp w => Sys2Proof.Machine.execAmov sp w s
  | .keptCopyLanded id => Sys2Proof.Machine.execKeptCopyLanded id s
  | .watch sp w => Sys2Proof.Machine.execWatch sp w s
  | .sig sp w => Sys2Proof.Machine.execSig sp w s
  | .bar sp w => Sys2Proof.Machine.execBar sp w s
  | .wakeArrive sp => Sys2Proof.Machine.execWakeArrive sp s
  | .alloc sp w => Sys2Proof.Machine.execAlloc sp w s
  | .allocServed => Sys2Proof.Machine.execAllocServed s
  | .free sp w => Sys2Proof.Machine.execFree sp w s
  | .acopy sp w => Sys2Proof.Machine.execAcopy sp w s
  | .copyLanded id core => Sys2Proof.Machine.execCopyLanded id core s
  | .commit sp w => Sys2Proof.Machine.execCommit sp w s
  | .commitWriteEnd wg => Sys2Proof.Machine.execCommitWriteEnd wg s
  | .sv sp w => Sys2Proof.Machine.execSv sp w s
  | .hubAlloc tag ctx base n parts ring => Sys2Proof.Machine.execHubAlloc tag ctx base n parts ring s
  | .hubFree tag ctx base n => Sys2Proof.Machine.execHubFree tag ctx base n s
  | .snapshot tag ctx base n pbPage => Sys2Proof.Machine.execSnapshot tag ctx base n pbPage s
  | .hubReset tag ctx base n => Sys2Proof.Machine.execHubReset tag ctx base n s
  | .clean tag ctx mode pbPage => Sys2Proof.Machine.execClean tag ctx mode pbPage s
  | .inval tag ctx mode pbPage => Sys2Proof.Machine.execInval tag ctx mode pbPage s
  | .cleanInval tag ctx mode pbPage => Sys2Proof.Machine.execCleanInval tag ctx mode pbPage s
  | .maintenanceDone => Sys2Proof.Machine.execMaintenanceDone s
  | .patrolScrub line correctable uncorrectable => Sys2Proof.Machine.execPatrolScrub line correctable uncorrectable s
  | .drawNodeStart inst node => Sys2Proof.Machine.execDrawNodeStart inst node s
  | .binBatch part tris pass => Sys2Proof.Machine.execBinBatch part tris pass s
  | .growWaitExpire part => Sys2Proof.Machine.execGrowWaitExpire part s
  | .flushEnd part => Sys2Proof.Machine.execFlushEnd part s
  | .tileAssign part core => Sys2Proof.Machine.execTileAssign part core s
  | .tileResolve part core => Sys2Proof.Machine.execTileResolve part core s
  | .grant tag ctx handle => Sys2Proof.Machine.execGrant tag ctx handle s
  | .withdraw tag ctx handle => Sys2Proof.Machine.execWithdraw tag ctx handle s
  | .tex sp w => Sys2Proof.Machine.execTex sp w s
  | .tload sp w => Sys2Proof.Machine.execTload sp w s
  | .vout sp w => Sys2Proof.Machine.execVout sp w s
  | .vin sp w => Sys2Proof.Machine.execVin sp w s
  | .fout sp w => Sys2Proof.Machine.execFout sp w s
  | .kill sp w => Sys2Proof.Machine.execKill sp w s
  | .aread sp w => Sys2Proof.Machine.execAread sp w s
  | .oenter sp w => Sys2Proof.Machine.execOenter sp w s
  | .oexit sp w => Sys2Proof.Machine.execOexit sp w s
  | .rsv sp dst w => Sys2Proof.Machine.execRsv sp dst w s
  | .trace sp w => Sys2Proof.Machine.execTrace sp w s
  | .bucketRelease core bucket => Sys2Proof.Machine.execBucketRelease core bucket s
  | .callbackRound id nodes entries cands => Sys2Proof.Machine.execCallbackRound id nodes entries cands s
  | .hitret sp w => Sys2Proof.Machine.execHitret sp w s
  | .traceComplete id nodes entries hits => Sys2Proof.Machine.execTraceComplete id nodes entries hits s
  | .dcPipeWrite pipe val mask => Sys2Proof.Machine.execDcPipeWrite pipe val mask s
  | .config pipe issuer tag pbPage => Sys2Proof.Machine.execConfig pipe issuer tag pbPage s
  | .flip pipe issuer tag pbPage => Sys2Proof.Machine.execFlip pipe issuer tag pbPage s
  | .lut pipe issuer tag pbPage => Sys2Proof.Machine.execLut pipe issuer tag pbPage s
  | .sideband pipe issuer tag pbPage reply => Sys2Proof.Machine.execSideband pipe issuer tag pbPage reply s
  | .linkTrained pipe lanes rateMbps => Sys2Proof.Machine.execLinkTrained pipe lanes rateMbps s
  | .leadPoint pipe => Sys2Proof.Machine.execLeadPoint pipe s
  | .vblank pipe => Sys2Proof.Machine.execVblank pipe s
  | .underrun pipe => Sys2Proof.Machine.execUnderrun pipe s
  | .writeBackDone pipe lines late => Sys2Proof.Machine.execWriteBackDone pipe lines late s
  | .hpd pipe level => Sys2Proof.Machine.execHpd pipe level s
  | .capStart port issuer tag pbPage => Sys2Proof.Machine.execCapStart port issuer tag pbPage s
  | .capStop port issuer tag => Sys2Proof.Machine.execCapStop port issuer tag s
  | .frameStart port vc => Sys2Proof.Machine.execFrameStart port vc s
  | .linePacket port line => Sys2Proof.Machine.execLinePacket port line s
  | .frameEnd port vc => Sys2Proof.Machine.execFrameEnd port vc s
  | .audStart issuer tag pbPage => Sys2Proof.Machine.execAudStart issuer tag pbPage s
  | .audStop issuer tag => Sys2Proof.Machine.execAudStop issuer tag s
  | .audioFrame f => Sys2Proof.Machine.execAudioFrame f s
  | .outputPeriodStart => Sys2Proof.Machine.execOutputPeriodStart s
  | .compressNodeReady inst node => Sys2Proof.Machine.execCompressNodeReady inst node s
  | .compressStart engine => Sys2Proof.Machine.execCompressStart engine s
  | .compressEnd engine r => Sys2Proof.Machine.execCompressEnd engine r s
  | .attest tag ctx inPage outPage => Sys2Proof.Machine.execAttest tag ctx inPage outPage s
  | .getId tag ctx outPage => Sys2Proof.Machine.execGetId tag ctx outPage s
  | .setLoad tag ctx inPage => Sys2Proof.Machine.execSetLoad tag ctx inPage s
  | .setDrop tag ctx inPage => Sys2Proof.Machine.execSetDrop tag ctx inPage s
  | .weightLoad tag ctx inPage => Sys2Proof.Machine.execWeightLoad tag ctx inPage s
  | .weightChunk => Sys2Proof.Machine.execWeightChunk s
  | .debugChallenge tag ctx outPage => Sys2Proof.Machine.execDebugChallenge tag ctx outPage s
  | .debugUnlock tag ctx inPage => Sys2Proof.Machine.execDebugUnlock tag ctx inPage s
  | .debugTokenTap token => Sys2Proof.Machine.execDebugTokenTap token s
  | .tapInstruction instr => Sys2Proof.Machine.execTapInstruction instr s
  | .svnAdvance tag ctx inPage supplyOk blown => Sys2Proof.Machine.execSvnAdvance tag ctx inPage supplyOk blown s
  | .killDebug tag ctx inPage supplyOk => Sys2Proof.Machine.execKillDebug tag ctx inPage supplyOk s
  | .linkTraining link lanesOk => Sys2Proof.Machine.execLinkTraining link lanesOk s
  | .retrain link => Sys2Proof.Machine.execRetrain link s
  | .flitReplay link => Sys2Proof.Machine.execFlitReplay link s
  | .ringSet tag pbPage peers => Sys2Proof.Machine.execRingSet tag pbPage peers s
  | .olExportObj e => Sys2Proof.Machine.execOlExportObj e s
  | .olExportFence e => Sys2Proof.Machine.execOlExportFence e s
  | .revoke r => Sys2Proof.Machine.execRevoke r s
  | .proxyFenceUpdate fence value err abandoned => Sys2Proof.Machine.execProxyFenceUpdate fence value err abandoned s
  | .ringCounterMessage m => Sys2Proof.Machine.execRingCounterMessage m s
  | .unreachable chip => Sys2Proof.Machine.execUnreachable chip s
  | .errorDetect e => Sys2Proof.Machine.execErrorDetect e s
  | .logDrain => Sys2Proof.Machine.execLogDrain s
  | .errRingCfgWrite val mask => Sys2Proof.Machine.execErrRingCfgWrite val mask s
  | .errInjectWrite val mask => Sys2Proof.Machine.execErrInjectWrite val mask s
  | .injectedWrite addr => Sys2Proof.Machine.execInjectedWrite addr s
  | .pwrFnWrite fn en mgmt => Sys2Proof.Machine.execPwrFnWrite fn en mgmt s
  | .fnTransitionDone fn => Sys2Proof.Machine.execFnTransitionDone fn s
  | .retainRequest => Sys2Proof.Machine.execRetainRequest s
  | .wake => Sys2Proof.Machine.execWake s
  | .retainExitDone => Sys2Proof.Machine.execRetainExitDone s
  | .pwrLimitWrite hostLim => Sys2Proof.Machine.execPwrLimitWrite hostLim s
  | .powerLoopTick => Sys2Proof.Machine.execPowerLoopTick s
  | .powerSample readings => Sys2Proof.Machine.execPowerSample readings s
  | .thermalThrottle sensor tempC => Sys2Proof.Machine.execThermalThrottle sensor tempC s
  | .tripWarn sensor tempC => Sys2Proof.Machine.execTripWarn sensor tempC s
  | .thermtrip sensor tempC => Sys2Proof.Machine.execThermtrip sensor tempC s
  | .currentLimit => Sys2Proof.Machine.execCurrentLimit s
  | .currentLimitRelease => Sys2Proof.Machine.execCurrentLimitRelease s
  | .voltageWaitEnd => Sys2Proof.Machine.execVoltageWaitEnd s
  | .regulatorBusFailure => Sys2Proof.Machine.execRegulatorBusFailure s
  | .clockCorrelation => Sys2Proof.Machine.execClockCorrelation s
  | .feRestart => Sys2Proof.Machine.execFeRestart s
  | .feReloadDone => Sys2Proof.Machine.execFeReloadDone s
  | .mgmtRestart => Sys2Proof.Machine.execMgmtRestart s
  | .secFault => Sys2Proof.Machine.execSecFault s
  | .thermalRelease sensor tempC => Sys2Proof.Machine.execThermalRelease sensor tempC s
  | .mgmtRestartDone => Sys2Proof.Machine.execMgmtRestartDone s
  | .portBufferZeroed => Sys2Proof.Machine.execPortBufferZeroed s
  | .proxySignalForward chip fence holderCtx value err => Sys2Proof.Machine.execProxySignalForward chip fence holderCtx value err s
  | .remoteAccessRequest grantId off len data => Sys2Proof.Machine.execRemoteAccessRequest grantId off len data s

end Sys2Proof.Machine
end

