-- ==== Sys2Proof/Safety.lean ====
section
/-! DEFINITION. Safety.lean: the terms the statements are written in. What a command needs in order to run (a
register free, a firmware up, a split READY at a legal word), and what it may change at most. -/

namespace Sys2Proof
/-- Operations that compute each lane from the same lane of their operands. -/
def AluOp.elementwise (op : AluOp) : Bool :=
  (Machine.aluClass op == some 0 || Machine.aluClass op == some 1 || Machine.aluClass op == some 3) && op != .addc64

end Sys2Proof
namespace Sys2Proof.Machine
/-- A split stands READY at an instruction word that passes every check of its issue: its workgroup is placed,
no two splits of its group are about to merge, its core partition prefers it or it joins the pack that issued last,
the words lie in the code object
and are those in memory, no error stands behind their fetch, the opcode is listed, `wordOk` holds of the word in
form `f`, and no callback trace of the split, nor its round, forbids the instruction (R172, R180, R184, R199, R200, R214,
R327, R329). -/
structure Issues (s : State) (sp : SplitRef) (w : IWord) (f : Form1) (i : Iss) : Prop where
  runs    : s.runs = true
  found   : locate s sp w = some i
  ready   : i.x.st = .ready
  placed  : i.w.st = .placed
  apart   : mergePair i.g = none
  pref    : preferred (mergeCycle s i.key) sp.core sp.cpart = some (spNum sp) ∨
    joinsPack (mergeCycle s i.key) i = true
  inObj   : 8 * (i.x.pc.toNat + iLen w) ≤ i.w.codeObj
  fetched : fetched s sp.core i.w i.x.pc.toNat w = true
  sound   : (fetchLines i.w i.x.pc.toNat w).findSome? (fetchFault s sp.core) = none
  listed  : opListed (wOp w) = true
  word    : wordOk i f = true
  rounds  : (inRound s i.x && roundForbidden w) = false
  traced  : (i.x.cb.isSome && cbForbidden (wOp w)) = false

/-- Every line of the instruction stands in the core's L1 instruction cache. -/
def Iss.hot (s : State) (i : Iss) : Prop :=
  ∀ a ∈ fetchLines i.w i.x.pc.toNat i.iw, (l1iHit (coreOf s i.sp.core) a).isSome = true

/-- The split as its issue leaves it, at another pc. -/
def Iss.at_ (s : State) (i : Iss) (pc : BitVec 24) : Split :=
  { i.x with rot := false, readyAt := coreNow s i.sp.core, pc := pc }

/-- The issuing split is its group's only one, and the mask stack is empty. -/
def Iss.lone (i : Iss) : Prop := i.g.splits = [(i.sp.sid, i.x)] ∧ i.g.stack = []

/-- The group as the issue leaves it: its split no longer rotated, issued now. -/
def Iss.grp (s : State) (i : Iss) : Group := i.g.modSplit i.sp.sid (fun _ => i.at_ s i.x.pc)

/-- A group once its complete sets have joined, and splits that waited for a place try again (R180, R186). -/
def Iss.settled (s : State) (i : Iss) (g : Group) : Group :=
  let now := coreNow s (i.key / 64)
  retrySpin now (i.grp s) (settleSets now 24 g)

/-- Change only the issuing split, move it to a pc, and let its group settle. -/
def Iss.moved (s : State) (i : Iss) (f : Split → Split) (pc : BitVec 24) : Group :=
  i.settled s (goPc (coreNow s i.sp.core) ((i.grp s).modSplit i.sp.sid f) i.sp.sid pc)

/-- The guard's predicate, if the word has one. -/
def guardRead (w : IWord) : List RegId := if wGen w then [.p (wGp w)] else []

/-- The issuing split as its action sees it. -/
def issueIss (s : State) (i : Iss) : Iss :=
  let x := { i.x with rot := false, readyAt := coreNow s i.sp.core }
  { i with x := x, g := i.g.modSplit i.sp.sid (fun _ => x), was := i.x.rot }

/-- The state its action starts from: the issue is noted and the instruction's lines are fetched. -/
def issueState (s : State) (i : Iss) (packs : Bool) : State :=
  (fetchLines i.w i.x.pc.toNat i.iw).foldl (fun s a => l1iFill s i.sp.core i.w.ctx a)
    (modSplit (noteIssue (mergeCycle s i.key) i packs) i.key i.sp.sid (fun _ => (issueIss s i).x))

/-- Two groups hold the same registers. -/
def Group.sameRegs (g h : Group) : Prop :=
  g.sreg = h.sreg ∧ g.preg = h.preg ∧ g.vreg = h.vreg ∧ g.acc = h.acc ∧ g.seed = h.seed

/-- In the cores only the issuing split's differs, and there only what was issued, promoted and fetched. -/
def FetchOnly (s t : State) (i : Iss) : Prop :=
  (∀ c, c ≠ i.sp.core → coreOf t c = coreOf s c) ∧
  coreOf t i.sp.core = { coreOf s i.sp.core with
    issued := (coreOf t i.sp.core).issued, promoted := (coreOf t i.sp.core).promoted, l1i := (coreOf t i.sp.core).l1i }

/-- What an issue alone changes: its own group, and in its core what was issued, promoted and fetched; fetching a
line the core does not hold goes through the L2 (R172, R184, R285). -/
def IssueOnly (s t : State) (i : Iss) : Prop :=
  t = { s with groups := t.groups, cores := t.cores, mem := t.mem } ∧ (i.hot s → t.mem = s.mem) ∧
  (∀ k, k ≠ i.key → tfind t.groups k = tfind s.groups k) ∧ FetchOnly s t i

/-- What a load, store or atomic may change outside memory: its own group, and in its core what its issue changes
and the L1 data lines. -/
def LsuOnly (s t : State) (i : Iss) : Prop :=
  (∀ k, k ≠ i.key → tfind t.groups k = tfind s.groups k) ∧ (∀ c, c ≠ i.sp.core → coreOf t c = coreOf s c) ∧
  coreOf t i.sp.core = { coreOf s i.sp.core with
    issued := (coreOf t i.sp.core).issued, promoted := (coreOf t i.sp.core).promoted
    l1i := (coreOf t i.sp.core).l1i, l1 := (coreOf t i.sp.core).l1 }

/-- The group after an instruction that wrote no register yet: the registers as before, the split one instruction
on, where it is the only one. -/
def Moves (s t : State) (i : Iss) : Prop :=
  ∃ g, tfind t.groups i.key = some g ∧ g.sameRegs i.g ∧
    (i.lone → g.stack = [] ∧ g.splits = [(i.sp.sid, i.at_ s (nextPc i))])

/-- The registers a load writes. -/
def loadDst (d : Dst) (w : IWord) (ls : List Nat) : List RegId :=
  match d with
  | .scalar => (List.range (mRegs (mBytes w))).map (fun k => RegId.s (wD w + k))
  | _ => (List.range (mRegs (mBytes w))).flatMap (fun k => vRegs (wD w + k) ls)

/-- The scalar, predicate and vector registers of a group that an instruction gives a value hold it; every other,
and every accumulator, holds what it held. -/
structure RegsAre (i : Iss) (g : Group) (sv : Nat → Option W32) (pv : Nat → Nat → Option Bool)
    (vv : Nat → Nat → Option W32) : Prop where
  scalar : ∀ n, readS g n = (sv n).getD (readS i.g n)
  pred   : ∀ n l, l < 32 → (readP g n).getLsbD l = (pv n l).getD ((readP i.g n).getLsbD l)
  vector : ∀ n l, l < 32 → readV g n l = (vv n l).getD (readV i.g n l)
  acc    : g.acc = i.g.acc
  seed   : g.seed = i.g.seed

/-- In the executing lanes vector register `n` receives `f`; or scalar register `n` receives what `f` gives the
lowest of them, where there is one. -/
def Receives (i : Iss) (g : Group) (d : Dst) (n : Nat) (f : Nat → W32) : Prop :=
  match d with
  | .scalar => RegsAre i g (fun m => if m = n ∧ i.lanes ≠ 0 then some (f (scalarLane i.lanes)) else none)
      (fun _ _ => none) (fun _ _ => none)
  | _ => RegsAre i g (fun _ => none) (fun _ _ => none)
      (fun m l => if m = n ∧ i.lanes.getLsbD l = true then some (f l) else none)

/-- In the executing lanes predicate `n` receives `f`. -/
def Decides (i : Iss) (g : Group) (n : Nat) (f : Nat → Bool) : Prop :=
  RegsAre i g (fun _ => none) (fun m l => if m = n ∧ i.lanes.getLsbD l = true then some (f l) else none) (fun _ _ => none)

/-- An instruction runs on one group: it changes that and what its issue changes, and its split moves on one
instruction. -/
def RunsOn (s : State) (c : Instr) (i : Iss) (p : Group → Prop) : Prop :=
  ∃ t g, exec c s = .next t ∧ IssueOnly s t i ∧ tfind t.groups i.key = some g ∧
    (i.lone → g.stack = [] ∧ g.splits = [(i.sp.sid, i.at_ s (nextPc i))]) ∧ p g

/-- An issue that leaves the registers as they are: its split moves on. -/
def RunsBare (s : State) (c : Instr) (i : Iss) : Prop := RunsOn s c i (fun g => g.sameRegs i.g)

/-- A fragment group's instruction runs: beside the issue it changes only its entry in its core's queue. -/
def RunsInPass (s : State) (c : Instr) (i : Iss) (pid : Nat) (f : Merge → Merge) : Prop :=
  ∃ t, exec c s = .next t ∧ Moves s t i ∧ FetchOnly s t i ∧ (i.hot s → t.mem = s.mem) ∧
    (∀ k, k ≠ i.key → tfind t.groups k = tfind s.groups k) ∧
    t = { s with groups := t.groups, cores := t.cores, mem := t.mem
                 passes := (modMerge s pid i.sp.core i.id f).passes }

/-- The group with the issuing split stalled at its instruction, to issue it again (R172). -/
def Iss.stalled (s : State) (i : Iss) (why : Why) : Group :=
  (i.grp s).modSplit i.sp.sid (fun x => { x with st := .stalled, why := why, rot := i.x.rot })

/-- The group with the issuing split in a state in which it waits for a message. -/
def Iss.waits (s : State) (i : Iss) (st : SplitState) (why : Why) : Group :=
  (i.grp s).modSplit i.sp.sid (fun x => { x with st := st, why := why })

/-- A counter is evaluated against its watches from the count `c`: they fire in cycles, in order, until none
does; the fired ones leave and get a message each, and no other counter changes (R261). -/
def Evaluates (s t : State) (home : Option Nat) (k : Nat) (c : W32) : Prop :=
  ∀ d f, runCycles ((s.fly.watches.filter (onCtr home k)).length + 1) (s.fly.watches.filter (onCtr home k)) c = (d, f) →
    ctrGet t home k = d ∧ t.fly.watches = s.fly.watches.filter (fun w => !(onCtr home k w && f.contains w)) ∧
    t.fly.wakes.map (·.sp) = s.fly.wakes.map (·.sp) ++ f.map (·.sp) ∧
    ∀ h m, ¬(h = home ∧ m = k) → ctrGet t h m = ctrGet s h m

/-- Each core partition of a core has free places for its groups of a workgroup of `n` groups (R173). -/
def PlacesFor (s : State) (core n : Nat) : Prop :=
  ∀ c, c < 4 → grpOn n c ≤ ((List.range 16).filter (fun p => !thas s.groups (groupKey core c p))).length

/-- Group `gidx` of workgroup `id` stands on a core partition of `core`, with one READY split of lanes `m` at
`pc`, an empty mask stack and no register written (R174, R178). -/
def FreshGroup (s : State) (core id gidx : Nat) (pc : BitVec 24) (m : W32) : Prop :=
  ∃ k g x, tfind s.groups k = some g ∧ k / 16 = core * 4 + gidx % 4 ∧ g.wg = id ∧ g.gidx = gidx ∧ g.exited = ~~~m ∧
    g.sreg = [] ∧ g.preg = [] ∧ g.vreg = [] ∧ g.acc = [] ∧ g.stack = [] ∧ g.splits = [(0, x)] ∧
    x.st = .ready ∧ x.pc = pc ∧ x.mask = m

/-- A waiting workgroup makes the device free places on `core` by stopping the victims `vs` (R152). -/
structure Preempts (s : State) (inst node idx core : Nat) (vs : List Victim) : Prop where
  runs  : s.runs = true
  need  : ∃ x g n c, tfind s.insts inst = some x ∧ graphOf s x = some g ∧ waitingNeed s inst node idx x g = some (n, c) ∧
    partRuns s x.part = true ∧ noPlace s x.part n c = true ∧ (freeing s x.part).length < 4 ∧
    (x.rank = 16 ∨ 256 ≤ (now35 s - waitsSince s inst node idx x).toNat) ∧
    preemptCore s x.part x.rank n = some (core, vs)

/-- A device-memory access whose bytes no cache before the DRAM holds: one memory, a write policy of 2 or above. -/
structure PlainAccess (s : State) (ctx a n : Nat) : Prop where
  one   : a + n ≤ ssStart ∨ ssStart ≤ a
  pol   : 2 ≤ polAt s ctx a
  empty : s.mem.l2 = []
  wcb   : s.mem.wcb = []
  mac   : s.mem.macBad = []
  chan  : a < ssStart → polAt s ctx a = 3 → ∀ b, a ≤ b → b < a + n → (chanOf s b).isSome = true
  dram  : Memory.wf s.mem.dram = true
  ss    : Memory.wf s.mem.ss = true

/-- The management firmware takes a command: the device runs past READY, is not in RETAIN, and the firmware is
not restarting. -/
structure MgmtReady (s : State) : Prop where
  runs  : s.runs = true
  boot  : s.boot.stage = .ready
  awake : s.pwr.dev ≠ .retain
  up    : s.pwr.mgmtRestarting = false

/-- The front-end firmware takes a command. -/
structure FeReady (s : State) : Prop where
  runs : s.runs = true
  boot : s.boot.stage = .ready
  up   : s.fw.feReloading = false

/-- If the next ordinary log slot is free, the log gains exactly one record, and it satisfies `p` (R409, R410). -/
def Appends (s t : State) (p : ErrRec → Prop) : Prop :=
  s.log.used s.log.nextOrd = false → ∃ r, t.log.recs = s.log.recs ++ [r] ∧ p r

/-- The same where more records may follow: the first of the new ones satisfies `p`. -/
def AppendsFirst (s t : State) (p : ErrRec → Prop) : Prop :=
  s.log.used s.log.nextOrd = false → ∃ r l, t.log.recs = s.log.recs ++ r :: l ∧ p r

/-- Command `id` fails a submission check: it ends, with a SUBMIT_FAULT record of the check first (Table 22-5a). -/
def RefusedBy (s t : State) (id : Nat) (c : Cmd) (check detail : Nat) : Prop :=
  tfind t.cmds id = none ∧ AppendsFirst s t (fun r => r.code = 0x0011 ∧ r.cls = 0 ∧ r.ctx = some c.ctx ∧
    r.info = BitVec.ofNat 32 (packNat [(c.queue, 0), (check, 16), (detail, 20)]))

/-- A context may give a display pipe a command whose block lies in a page: it owns the pipe, the pipe is its
partition's and not busy, and the page is in a WRITE window of the context (R337, R338). -/
structure PipeReady (s : State) (n issuer page : Nat) : Prop where
  mgmt   : MgmtReady s
  idle   : (pipeOf s n).stat.busy = false
  owned  : (pipeOf s n).ownEn = true
  owner  : (pipeOf s n).owner = issuer
  active : (ctxOf s issuer).st = .active
  shows  : pipeShows s n issuer = true
  inPb   : page < 8192
  window : writePage s page (some issuer) = true

/-- Only the state of pipe `n` differs, and there it is `p`. -/
def PipeOnly (s t : State) (n : Nat) (p : Pipe) : Prop :=
  t = { s with pipes := t.pipes } ∧ pipeOf t n = p ∧ ∀ m, m ≠ n → pipeOf t m = pipeOf s m

/-- Only the state of capture port `n` differs, and there it is `c`. -/
def CapOnly (s t : State) (n : Nat) (c : Cap) : Prop :=
  t = { s with caps := t.caps } ∧ capOf t n = c ∧ ∀ m, m ≠ n → capOf t m = capOf s m

/-- A context may give a capture port a command. -/
structure CapReady (s : State) (n issuer : Nat) : Prop where
  mgmt  : MgmtReady s
  idle  : (capOf s n).stat.busy = false
  shows : capShows s n issuer = true

/-- A context may give the audio port a command. -/
structure AudReady (s : State) (issuer : Nat) : Prop where
  mgmt  : MgmtReady s
  idle  : s.aud.stat.busy = false
  shows : audShows s issuer = true

/-- A context may give the security processor operation `op`: it is ACTIVE and its pages pass R381. -/
structure SecReady (s : State) (tag : BitVec 4) (op ctx i o : Nat) : Prop where
  mgmt   : MgmtReady s
  idle   : s.sec.stat.busy = false
  up     : s.sec.downUntil = none
  active : (ctxOf s ctx).st = .active
  ctxLt  : ctx < 1024
  inLt   : i < 8192
  outLt  : o < 8192
  pages  : scPagesOk s (secWord tag op ctx i o) = true

/-- A security command ends with a result, on the security state `x`, and keeps its progress (Table 20-5b). -/
def SecEnds (s : State) (c : Instr) (x : Sec) (tag : BitVec 4) (r : Result) : Prop :=
  exec c s = .next { s with sec := { x with stat := done tag.toNat r x.stat.extra } }

/-- What a set record or a debug token is signed with passes: the key's digest is fused, the signature verifies. -/
def SignedBy (key msg sig : List Byte) (fused : BitVec 384) : Prop :=
  Config.sha3 key = fused ∧ Config.sigValid key (Config.sha3 msg) sig = true

/-- Fixed fields of a set record for this device (Table 20-8). -/
structure SetRecord (s : State) (d : List Byte) : Prop where
  magic  : blockNum d 0 4 = 0x4B544553
  ver    : blockNum d 4 2 = 1
  policy : blockNum d 6 2 < 4
  id     : blockNum d 8 4 ≠ 0
  serial : blockNum d 16 8 = s.fuses.serial.toNat
  zeros  : zeroRun d 12 4 && zeroRun d 24 8 && zeroRun d 80 48 && zeroRun d 6557 1635 = true

/-- Fixed fields of a debug token (R389). -/
structure TokenFields (d : List Byte) : Prop where
  magic  : blockNum d 0 4 = 0x4E4B5444
  level  : blockNum d 4 1 ≤ 3
  signer : blockNum d 5 1 ≤ 1
  zeros  : zeroRun d 6 2 && zeroRun d 48 16 && zeroRun d 5325 2867 = true

/-- A token this device accepts now (R389). -/
structure TokenGood (s : State) (d : List Byte) : Prop where
  fields : TokenFields d
  noKill : s.fuses.dbgKill = false
  policy : s.cfg.debugPolicy ≠ 0
  owner  : s.cfg.debugPolicy = 1 → blockNum d 5 1 = 1
  higher : s.sec.level < blockNum d 4 1
  signed : SignedBy (slice d 64 1952) (slice d 0 2016) (slice d 2016 3309)
    (if blockNum d 5 1 = 0 then s.fuses.vendorKh else s.fuses.ownerKh)
  serial : blockNum d 8 8 = s.fuses.serial.toNat
  nonce  : s.sec.nonce = some (BitVec.ofNat 256 (blockNum d 16 32))

/-- The security state after a token is accepted (R389). -/
def tokenTaken (x : Sec) (d : List Byte) : Sec :=
  { x with
    nonce := none, level := if blockNum d 4 1 = 1 then 1 else x.level
    pend := if blockNum d 4 1 = 1 then 0 else blockNum d 4 1
    signer := blockNum d 5 1, tokHash := Config.sha3 (slice d 0 8192) }

/-- Only link `n` of the links differs, and there it is `l`; a ring that is set follows its links, and one that comes
UP reaches every chip again (R394, R402; log 15). -/
def LinkOnly (s t : State) (n : Nat) (l : Link) (up : Bool) : Prop :=
  t = { s with links := t.links, ring := t.ring, log := t.log } ∧ linkOf t n = l ∧
  (∀ m, m ≠ n → linkOf t m = linkOf s m) ∧
  t.ring = (if s.ring.st = .none then s.ring else { s.ring with
    reach := if up then BitVec.ofNat 8 (2 ^ s.ring.n - 1) else s.ring.reach, st := ringState t })

/-- A link command whose block lies in a page may run (R107, R394, R397). -/
structure OlReady (s : State) (page : Nat) : Prop where
  mgmt   : MgmtReady s
  idle   : s.olCmd.busy = false
  inPb   : page < 8192
  window : writePage s page none = true

/-- An export may run on the grant block in a page. -/
structure ExportReady (s : State) (page : Nat) (b : BitVec 256) : Prop where
  ready : OlReady s page
  clean : pbBad s (page * 4096) 32 = []
  block : b = BitVec.ofNat 256 (leNat (pbFetch s (page * 4096) 32))

/-- A hub barrier's arrivals are complete: its splits that stand at it get their wakes, and the counters named that
no watch holds are 0 (Table 13-3, R269). -/
def HubReleases (s t : State) (h : Nat) (ctrs : List Nat) : Prop :=
  (∀ k ∈ ctrs, ringAway s k = false → s.fly.watches.filter (onCtr none k) = [] → (hubOf t k).count = 0) ∧
  (∀ k, k ∉ ctrs → k ≠ h → hubOf t k = hubOf s k) ∧
  ∀ k g sid x, tfind s.groups k = some g → thas s.wgs g.wg = true → k < 100000 → (sid, x) ∈ g.splits →
    x.st = .syncWait → x.why = .barrier (2 + h) (hubOf s h).sense →
    ∃ m ∈ t.fly.wakes, m.sp = { core := k / 64, cpart := k / 16 % 4, place := k % 16, sid := sid }

/-- A ring block RING_SET accepts (R394). -/
def ringBlockOk (b : BitVec 128) : Prop :=
  zeroField b 39 36 = true ∧ zeroField b 47 43 = true ∧ zeroField b 55 51 = true ∧ zeroField b 127 64 = true ∧
  (bits b 35 32 = 2 ∨ bits b 35 32 = 4 ∨ bits b 35 32 = 8) ∧ bits b 42 40 < bits b 35 32 ∧
  bits b 50 48 < bits b 35 32 ∧ bits b 63 56 < 2 ^ bits b 35 32

/-- Every byte memory is in its one canonical form: addresses strictly rising, no cell at the value an unlisted
byte reads as. -/
def Canonical (s : State) : Prop :=
  Memory.wf s.pb = true ∧ Memory.wf s.mem.dram = true ∧ Memory.wf s.mem.ss = true

/-- Only the state of channel `ch` differs, and there it is `c`. -/
def ChanOnly (s t : State) (ch : Nat) (c : Chan) : Prop :=
  t = { s with hp := t.hp } ∧ chOf t ch = c ∧ ∀ n, n ≠ ch → chOf t n = chOf s n

/-- A channel that hears a training command: TRAINING from the first one since it was last untrained (R76). -/
def Chan.training (c : Chan) : Chan := { c with st := if c.st = .untrained || c.st = .noClock then .training else c.st }

/-- Byte j of a staged or working-copy window entry. -/
def entryByte (w : BitVec 128) (j : Nat) : Byte := (natBytes w.toNat 16).getD j 0

/-- Commands held behind a registration stay held once command `id` is gone (R440). -/
def StillHeld (s : State) (id : Nat) : Prop :=
  ∀ j x, tfind s.cmds j = some x → x.unresolved = true →
    regPending { s with cmds := tdel s.cmds id } x.ctx (dGid x.desc) x.ord = true

/-- What taking the latest doorbell leaves of a queue: each value is taken or refused on its own (R96). -/
def Queue.sampled (x : Queue) : Queue :=
  { x with latch := false
           tail := if tailOk x then x.dTail else x.tail
           cqHead := if cqHeadOk x then x.dHead else x.cqHead }

/-- A slot that takes its queue's latest doorbell becomes ACTIVE, with a record for the value it refuses, or for
the tail where it refuses both. -/
def Samples (s t : State) (i q : Nat) : Prop :=
  t = { s with slots := t.slots, queues := t.queues, log := t.log, irq := t.irq } ∧
  slotOf t i = { slotOf s i with st := .active, served := false } ∧ (∀ j, j ≠ i → slotOf t j = slotOf s j) ∧
  queueOf t q = (queueOf s q).sampled ∧ (∀ r, r ≠ q → queueOf t r = queueOf s r) ∧
  (tailOk (queueOf s q) = true → cqHeadOk (queueOf s q) = true → t.log = s.log ∧ t.irq = s.irq) ∧
  (tailOk (queueOf s q) = false → AppendsFirst s t (fun r =>
    r.code = 0x0011 ∧ r.ctx = some (queueOf s q).ctx ∧ r.info = BitVec.ofNat 32 (packNat [(q, 0), (1, 16)]))) ∧
  (tailOk (queueOf s q) = true → cqHeadOk (queueOf s q) = false →
    Appends s t (fun r => r.code = 0x0011 ∧ r.ctx = some (queueOf s q).ctx ∧
      r.info = BitVec.ofNat 32 (packNat [(q, 0), (2, 16)]))) ∧
  ((tailOk (queueOf s q) && cqHeadOk (queueOf s q)) = false → t.irq.cause.getLsbD Cause.dbDrop.bit = true)

/-- What the record of a finished command holds. -/
def ringRecord (s : State) (c : Cmd) (st : Status) (errIdx : BitVec 16) : List Byte :=
  Rec.bytes s { queue := c.queue, tag := dTag c.desc, sig := sigOf c.sig c.desc (dSigVal c.desc), status := st
                errIdx := errIdx } (queueOf s c.queue).ctx ((queueOf s c.queue).recs + 1).toNat st.code 0

/-- Command `id` ends with a status: it is gone and no other is, its queue counts one more record, and the ring
holds it. -/
def Completes (s t : State) (id : Nat) (c : Cmd) (e : WtEntry) (st : Status) : Prop :=
  tfind t.cmds id = none ∧ (∀ j, j ≠ id → tfind t.cmds j = tfind s.cmds j) ∧
  (queueOf t c.queue).recs = (queueOf s c.queue).recs + 1 ∧
  ∀ i, i < 32 → mget t.pb (e.pbByte (queueOf s c.queue).nextPlace + i) = (ringRecord s c st 0xFFFF).getD i 0

/-- A context-class record of code `code` that satisfies `p`, and its outcome: cause err_log, and an ACTIVE context is
LOST (R406, R407). -/
def LosesCtx (s t : State) (ctx code : Nat) (p : ErrRec → Prop) : Prop :=
  t.irq.cause.getLsbD Cause.errLog.bit = true ∧
  (hasWaiting s (some ctx) = false →
    AppendsFirst s t (fun r => r.cls = 2 ∧ r.code = code ∧ r.ctx = some ctx ∧ r.status = Status.contextLost.code ∧ p r)) ∧
  ((ctxOf s ctx).st = .active → (ctxOf t ctx).st = .lost ∧ (ctxOf t ctx).cause = Status.contextLost.code)

/-- A fatal record: dispatch stops and every ACTIVE context is LOST (R408). -/
def Fatal (s t : State) (code unit addr : Nat) : Prop :=
  t.log.fatal = true ∧ t.irq.cause.getLsbD Cause.errLog.bit = true ∧
  AppendsFirst s t (fun r => r.cls = 3 ∧ r.code = code ∧ r.unit = unit ∧ r.addr = BitVec.ofNat 40 addr) ∧
  ∀ c x, tfind s.ctxs c = some x → x.st = .active → (ctxOf t c).st = .lost

/-- Demands `p` come into force (R37, R38, R162, R426): every core group takes its step and the rail follows;
exactly when a step changed, gen advances and normalised times are brought up to now, and then, or where `force`
says so, a THROTTLE record with the cause stands in the log. -/
def StepsTaken (s t : State) (cause : Nat) (force : Bool) (p : Pwr) : Prop :=
  t = { s with pwr := t.pwr, insts := t.insts, cmds := t.cmds, log := t.log } ∧
  (∀ g, g < 8 → tget t.pwr.steps g 0 = nextStep p (poweredGroups s) g) ∧
  t.pwr = railFollow (poweredGroups s) cause { p with steps := t.pwr.steps, gen := t.pwr.gen } ∧
  (t.pwr.steps = s.pwr.steps → t.pwr.gen = p.gen ∧ t.insts = s.insts ∧ t.cmds = s.cmds ∧ (force = false → t.log = s.log)) ∧
  (t.pwr.steps ≠ s.pwr.steps → t.pwr.gen = p.gen + 1 ∧
    ∀ k x, tfind s.insts k = some x → tfind t.insts k = some { x with norm := x.normNow s, normAt := now35 s }) ∧
  (t.pwr.steps ≠ s.pwr.steps ∨ force = true → Appends s t (fun r => r.code = 0x0022 ∧ r.unit = 16 ∧ r.cls = 0 ∧
    r.info = BitVec.ofNat 32 (packNat [((t.pwr.steps.map (fun e => 2 ^ e.1)).foldl (· + ·) 0, 0),
      (t.pwr.steps.foldl (fun m e => max m e.2) 0, 8), (cause, 12)])))

end Sys2Proof.Machine
end

