-- ==== Sys2Proof/Certificates/Slice0/Obligations.lean ====
section
/-! DEFINITION. Obligations.lean: the statements for the provers, by the rules of spec/. A clause names its
hypotheses on the state and the operands alone and concludes what exec answers. -/

open Sys2Proof Sys2Proof.Machine

/-- A step runs the front command; on an empty queue the clocks tick. For every command c and state s, step of s
with c at the front of its queue is exec c on s with the queue's rest. On an empty queue the step always answers
a next state; while the security processor is up only the clocks differ there, one tick later if the device
runs. What an empty queue does is the model's choice (log 5). (R26, 95_what_each_step_holds) -/
def Obligations.StepRunsFront : Prop :=
  (∀ (s : State) (c : Instr) (rest : List Instr),
    step { s with pending := c :: rest } = exec c { s with pending := rest }) ∧
  (∀ (s : State), s.sec.downUntil = none →
    ∃ t, step { s with pending := [] } = .next t ∧ t = { s with pending := [], clk := t.clk } ∧
      (s.runs = true → t.clk.now = s.clk.now + 1)) ∧
  (∀ (s : State), ∃ t, step { s with pending := [] } = .next t)

/-- In reset or with its clocks stopped the device answers nothing. While PORST_N is low, while the device holds
itself in reset, or once THERMTRIP has stopped its clocks, every command but a change of PORST_N and the
internal reset leaves the whole state as it was. (R40, R428, Table 2-10, Table 3-2) -/
def Obligations.OutOfReach : Prop :=
  ∀ (s : State) (c : Instr), s.runs = false →
    (∀ b, c ≠ .porstNRelease b) → (∀ n, c ≠ .porstNAssert n) → (∀ w, c ≠ .internalReset w) → exec c s = .next s

/-- The state right after reset. State.reset holds the reset values the manual gives: boot stage CFG with no
firmware done, no interrupt cause and no mask, INT3_N alone driven low, window generation 0 and no window in
force, every channel UNTRAINED without rl_err, every function OFF with no restarts, host_lim 0xFF, every context
FREE with err_idx 0xFFFF, every fence FREE, every pipe's link off, every Otvas link OFF with spare 15, no ring,
an empty log, prefetchers on at distance 4. Its memories are in canonical form and its queue is empty; those two
are the model's own. (R40, R42, Table 3-2, Table 3-9, Table 4-7, Table 5-13, Table 6-1, Table 6-10, Table 2-6,
Table 21-3, Table 14-5, Table 22-6) -/
def Obligations.ResetState : Prop :=
  Canonical State.reset ∧ State.reset.pending = [] ∧ State.reset.boot.stage = .cfg ∧ State.reset.boot.fwDone = 0 ∧
  State.reset.irq.cause = 0 ∧ State.reset.irq.mask0 = 0 ∧ State.reset.irq.mask1 = 0 ∧ State.reset.irq.mask2 = 0 ∧
  State.reset.irq.mask3 = 0 ∧ State.reset.wt.gen = 0 ∧ (∀ k, intLow State.reset k = true ↔ k = 3) ∧
  (∀ ch, (chOf State.reset ch).st = .untrained ∧ rlErr State.reset (chOf State.reset ch) = false) ∧
  (∀ ch p, (tget State.reset.wt.table ch {}).valid = false ∧ apEntry State.reset p = none) ∧
  (∀ n, (fnOf State.reset n).st = .off ∧ (fnOf State.reset n).restarts = 0) ∧ State.reset.pwr.dev = .boot ∧
  State.reset.pwr.hostLim = 0xFF ∧ (∀ c, (ctxOf State.reset c).st = .free ∧ (ctxOf State.reset c).errIdx = 0xFFFF) ∧
  (∀ f, (fenceOf State.reset f).st = .free) ∧ (∀ n, (pipeOf State.reset n).link = 0) ∧
  (∀ n, (linkOf State.reset n).spare = 15 ∧ (linkOf State.reset n).st = .off) ∧ State.reset.ring.st = .none ∧
  State.reset.log.recs = [] ∧ State.reset.log.written = 0 ∧ State.reset.log.dropped = 0 ∧
  State.reset.log.fatal = false ∧ (∀ p, (tget State.reset.mem.pfCtl p {}).dist = 4 ∧
    (tget State.reset.mem.pfCtl p {}).en = true)

/-- Every step keeps every byte memory in its canonical form. For every state s whose port buffer, DRAM and
stacked store are lists of cells with strictly rising addresses and no cell at the value an unlisted byte reads
as, if step s answers a next state t, those memories of t are in that form too. So equal memories are equal
data, whatever command ran. (14_memory, 05_windows, R16, R277) -/
def Obligations.MemoryCanonical : Prop :=
  ∀ (s t : State), Canonical s → step s = .next t → Canonical t

/-- Reset pulses below 38 REFCLK cycles are ignored, between 38 and 384 either way. A low pulse on PORST_N or
HRST_N shorter than 38 REFCLK cycles changes nothing, and one on PORST_N of 384 or more does the same whatever
its length. Between the two lengths the device either does nothing or does what a pulse of 384 cycles does;
which is a free value (log 8). For HRST_N that holds but for the instant the pin is released. (R41) -/
def Obligations.ResetPulses : Prop :=
  (∀ (s : State) (n : Nat) (pc : Bool), n < 38 →
    exec (.porstNAssert n) s = .next s ∧ exec (.hrstNPulse ⟨n, pc⟩) s = .next s) ∧
  (∀ (s : State) (n : Nat), 384 ≤ n → exec (.porstNAssert n) s = exec (.porstNAssert 384) s) ∧
  (∀ (s : State) (n : Nat) (pc : Bool), s.runs = true → 38 ≤ n → n < 384 →
    (exec (.porstNAssert n) s = .next { s with free := s.free + 1 } ∨
      exec (.porstNAssert n) s = exec (.porstNAssert 384) { s with free := s.free + 1 }) ∧
    (exec (.hrstNPulse ⟨n, pc⟩) s = .next { s with free := s.free + 1 } ∨
      ∃ t u, exec (.hrstNPulse ⟨n, pc⟩) s = .next t ∧ exec (.hrstNPulse ⟨384, pc⟩) { s with free := s.free + 1 } = .next u ∧
        t = { u with pins := { u.pins with hrstUntil := t.pins.hrstUntil } }))

/-- PORST_N and the internal reset leave the power-on state. PORST_N low for 384 REFCLK cycles, PORST_N rising,
and an internal reset each put every part of the state at its power-on value, but for the waiting commands, the
fuse array and the free values. PORST_N rising senses the fuses; where it is high already nothing happens. An
internal reset keeps the latch of THERMTRIP_N and holds the device. (R40, R42, R43, R375, R428, Table 3-2) -/
def Obligations.PowerOnResets : Prop :=
  (∀ (s : State) (n : Nat), 384 ≤ n →
    exec (.porstNAssert n) s = .next { State.reset with
      pending := s.pending, free := s.free, fuses := s.fuses, pins := { porstN := false, xspiDriven := false }
      sec := { level := if s.fuses.dbgClose then 0 else 3 } }) ∧
  (∀ (s : State) (n : Nat), n < 38 → exec (.porstNAssert n) s = .next s) ∧
  (∀ (s : State) (ok : Bool), s.pins.porstN = false →
    exec (.porstNRelease ok) s = .next { State.reset with
      pending := s.pending, free := s.free, fuses := { s.fuses with ok := ok }
      sec := { level := if s.fuses.dbgClose then 0 else 3 } }) ∧
  (∀ (s : State) (ok : Bool), s.pins.porstN = true → exec (.porstNRelease ok) s = .next s) ∧
  (∀ (s : State) (why : IntReset), s.pins.porstN = true →
    exec (.internalReset why) s = .next { State.reset with
      pending := s.pending, free := s.free, fuses := s.fuses
      pins := { held := true, xspiDriven := false, thermtrip := s.pins.thermtrip }
      sec := { level := if s.fuses.dbgClose then 0 else 3 } })

/-- HRST_N restarts boot, HPRST_N restarts one half of the host port. An HRST_N pulse of 384 cycles once the
configuration is captured restarts boot at CFG, keeps configuration, fuses, domain counters, restart counts and
the log's written count, and empties the log, the window table and every context, object, fence and queue. Mode
registers and channel states stay unless the fallback configuration is in force and the image now in flash has
another HOST_PORT record; then INT3_N is low (log 31). Before capture a pulse only keeps HRST_N low for its
length. A pulse below 38 cycles does nothing. HPRST_N clears mode registers and training of the four channels of
its half, keeps their counters and touches no other channel. (R41, R42, R43, R62, R81, Table 3-2) -/
def Obligations.HostResets : Prop :=
  (∀ (s : State) (n : Nat) (pc : Bool), s.runs = true → 384 ≤ n →
    (s.boot.stage ≠ .cfg ∨ (s.cfg.valid = true ∧ s.boot.reread = false)) →
    ∃ t, exec (.hrstNPulse ⟨n, pc⟩) s = .next t ∧ t.boot.stage = .cfg ∧ t.boot.lastReset = 1 ∧ t.boot.fwDone = 0 ∧
      t.cfg = s.cfg ∧ t.fuses = s.fuses ∧ t.log.written = s.log.written ∧ t.log.recs = [] ∧ t.wt = {} ∧
      t.ctxs = [] ∧ t.objs = [] ∧ t.fences = [] ∧ t.queues = [] ∧ t.clk.counts = s.clk.counts ∧
      t.pwr.mgmtRestarts = s.pwr.mgmtRestarts ∧ t.pins.int3Hold = (s.cfg.fallback && pc) ∧
      (∀ ch, ¬(s.cfg.fallback = true ∧ pc = true) → (chOf t ch).mr = (chOf s ch).mr ∧ (chOf t ch).st = (chOf s ch).st) ∧
      s.clk.now + 875 * n ≤ t.pins.hrstUntil) ∧
  (∀ (s : State) (n : Nat) (pc : Bool), s.runs = true → 384 ≤ n → s.boot.stage = .cfg →
    (s.cfg.valid = false ∨ s.boot.reread = true) →
    exec (.hrstNPulse ⟨n, pc⟩) s =
      .next { s with pins := { s.pins with hrstUntil := max s.pins.hrstUntil (s.clk.now + 875 * n) } }) ∧
  (∀ (s : State) (n : Nat) (pc : Bool), n < 38 → exec (.hrstNPulse ⟨n, pc⟩) s = .next s) ∧
  (∀ (s : State) (half ch : Nat), s.runs = true → half < 2 → ch < 8 →
    ∃ t, exec (.hprstNAssert half) s = .next t ∧ t = { s with hp := t.hp } ∧
      chOf t ch = if ch / 4 = half then
          { cntRef := (chOf s ch).cntRef, proto := (chOf s ch).proto, weccUe := (chOf s ch).weccUe
            weccCe := (chOf s ch).weccCe, unmapRd := (chOf s ch).unmapRd, unmapWr := (chOf s ch).unmapWr }
        else chOf s ch)

/-- Which configuration image comes into force. In stage CFG, before the configuration is captured or while the
flash is read again, CONFIG_READ takes image A at flash address 0 if it is valid, else image B at 0x20000, which
is read only then, else the fallback configuration, with the error of image B, or of A where B is blank; a
failed fuse check takes the fallback with error FUSE and reads no flash. INT3_N and the flash are released. A
changed HOST_PORT record leaves every channel UNTRAINED. In any other stage the command does nothing. (R45, R51,
R52, R54, R375, Table 3-9) -/
def Obligations.ConfigurationImage : Prop :=
  (∀ (s : State) (a b : List Byte), s.runs = true → s.boot.stage = .cfg → (s.cfg.valid = false ∨ s.boot.reread = true) →
    ∃ t, exec (.configRead a b) s = .next t ∧
      t = { s with cfg := t.cfg, hp := t.hp, pins := t.pins, sec := t.sec, boot := t.boot, mem := t.mem, pwr := t.pwr
                   free := t.free } ∧
      t.pins.int3Hold = false ∧ t.pins.xspiDriven = false ∧ t.boot.stage = .cfg ∧ t.boot.reread = false ∧
      (s.fuses.ok = false → t.cfg = fallbackCfg ∧ t.boot.cfgSrc = 2 ∧ t.boot.err = 4 ∧ t.boot.xspi = []) ∧
      (s.fuses.ok = true → imageErr s.fuses a = 0 →
        t.cfg = imgCfg a ∧ t.boot.cfgSrc = 0 ∧ t.boot.cfgGen = imgGen a ∧ t.boot.cfgDigest = imgDigest a ∧
        t.boot.err = 0) ∧
      (s.fuses.ok = true → imageErr s.fuses a ≠ 0 → imageErr s.fuses b = 0 →
        t.cfg = imgCfg b ∧ t.boot.cfgSrc = 1 ∧ t.boot.cfgGen = imgGen b ∧ t.boot.cfgDigest = imgDigest b) ∧
      (s.fuses.ok = true → imageErr s.fuses a ≠ 0 → imageErr s.fuses b ≠ 0 →
        t.cfg = fallbackCfg ∧ t.boot.cfgSrc = 2 ∧
        t.boot.err = if imgBlank b = true then imageErr s.fuses a else imageErr s.fuses b) ∧
      (s.fuses.ok = true → XspiOp.read1S 0 64 ∈ t.boot.xspi ∧ t.boot.xspi.getLast? = some .release ∧
        (XspiOp.read1S 0x20000 64 ∈ t.boot.xspi ↔ imageErr s.fuses a ≠ 0)) ∧
      (s.cfg.valid = true → samePort s.cfg t.cfg = false → ∀ ch, (chOf t ch).st = .untrained)) ∧
  (∀ (s : State) (a b : List Byte), s.boot.stage ≠ .cfg → exec (.configRead a b) s = .next s)

/-- Port buffer, DRAM and firmware stages of boot. PORT_BUFFER_ZEROED zeroes the port buffer and the stacked
store and awaits stage M, or halts under the fallback; with HRST_N low it waits. Failed DRAM training halts with
error 9; success records it and draws keys for every encrypted partition. DRAM zeroing ends with zero bytes left
and READY exactly when all three stages are done and stage DRAM is reached. A boot doorbell for an awaited stage
with legal length and offset starts it; one for another stage fails with error 5, one with an illegal length or
offset with error 6. STAGE_COPIED takes the staged bytes. A failed verification counts, and the third halts; a
good one sets the stage's bit of fw_done. (R54, R57, R58, R59, R60, Table 3-10, Table 3-11, Table 3-12, Table
3-13) -/
def Obligations.BootStages : Prop :=
  ((∀ (s : State), s.runs = true → (s.boot.stage = .cfg ∨ (s.boot.stage = .halted ∧ s.boot.pbZeroed = false)) →
    s.cfg.valid = true → s.boot.reread = false →
    (hrstLow s = true → exec .portBufferZeroed s = .next s) ∧
    (hrstLow s = false → exec .portBufferZeroed s = .next { s with
      pb := [], pbPoison := [], mem := { s.mem with ss := [] }
      boot := { s.boot with
        pbZeroed := true, stage := if s.cfg.fallback || s.boot.stage == .halted then .halted else .awaitM } })) ∧
  (∀ (s : State), s.runs = true → s.cfg.valid = true → s.cfg.fallback = false → s.boot.trained = false →
    s.boot.stage ≠ .ready →
    exec (.dramTrainingDone true) s = .next { s with boot := { s.boot with stage := .halted, err := 9, cur := none } } ∧
    ((s.boot.stage ≠ .dram ∨ s.boot.fwDone ≠ 7 ∨ s.boot.zeroLeft ≠ 0) →
      ∃ t, exec (.dramTrainingDone false) s = .next t ∧
        t = { s with boot := { s.boot with trained := true }, free := t.free
                     mem := { s.mem with keys := t.mem.keys } } ∧
        ∀ p ∈ s.cfg.parts, p.enc = true → (tfind t.mem.keys p.idx).isSome = true)) ∧
  (∀ (s : State), s.runs = true → s.cfg.valid = true → s.boot.trained = true → s.boot.stage ≠ .ready →
    ∃ t, exec .dramZeroingDone s = .next t ∧ t.boot.zeroLeft = 0 ∧ t.mem.dram = [] ∧
      (t.boot.stage = .ready ↔ s.boot.stage = .dram ∧ s.boot.fwDone = 7))) ∧
  ((∀ (s : State) (k len off : Nat), s.runs = true → s.boot.dbPend = true → s.boot.cur = none → s.boot.pbZeroed = true →
    s.boot.stage ≠ .halted → s.boot.stage ≠ .ready →
    k = bits s.boot.dbRec 39 32 → len = bits s.boot.dbRec 95 64 → off = bits s.boot.dbRec 127 96 →
    (awaited s.boot k = true → 0 < len → len ≤ stageMax k → off + len ≤ 16777216 → off % 4096 = 0 →
      exec .bootDoorbell s = .next { s with boot := { s.boot with
        dbPend := false, stage := verifyStage k
        cur := some { seq := BitVec.ofNat 32 (bits s.boot.dbRec 31 0), stage := k, off := off, len := len
                      image := [], copied := false, bad := false } } }) ∧
    (awaited s.boot k = false →
      exec .bootDoorbell s = .next { s with boot := { s.boot with
        dbPend := false, err := 5, seqCopied := BitVec.ofNat 32 (bits s.boot.dbRec 31 0)
        seqDone := BitVec.ofNat 32 (bits s.boot.dbRec 31 0) } })
    ∧ (awaited s.boot k = true → (len = 0 ∨ stageMax k < len ∨ 16777216 < off + len ∨ off % 4096 ≠ 0) →
      exec .bootDoorbell s = .next { s with boot := { s.boot with
        dbPend := false, err := 6, seqCopied := BitVec.ofNat 32 (bits s.boot.dbRec 31 0)
        seqDone := BitVec.ofNat 32 (bits s.boot.dbRec 31 0) } })) ∧
  (∀ (s : State) (j : BootJob), s.runs = true → s.boot.cur = some j → j.copied = false →
    pbBad s (stagingPage * 4096 + j.off) j.len = [] →
    exec .stageCopied s = .next { s with boot := { s.boot with
      seqCopied := j.seq, cur := some { j with image := pbFetch s (stagingPage * 4096 + j.off) j.len, copied := true } } }) ∧
  (∀ (s : State) (j : BootJob), s.runs = true → s.boot.cur = some j → j.copied = true → stageErr s j ≠ 0 →
    exec .stageVerified s = .next { s with boot := { s.boot with
      cur := none, seqDone := j.seq, err := stageErr s j, fails := tget s.boot.failCnt j.stage 0 + 1
      failCnt := tput s.boot.failCnt j.stage (tget s.boot.failCnt j.stage 0 + 1)
      stage := if 3 ≤ tget s.boot.failCnt j.stage 0 + 1 then .halted else awaitStage j.stage } }) ∧
  (∀ (s : State) (j : BootJob), s.runs = true → s.boot.cur = some j → j.copied = true → stageErr s j = 0 →
    ∃ t, exec .stageVerified s = .next t ∧ t.boot.cur = none ∧ t.boot.seqDone = j.seq ∧ t.boot.err = 0 ∧
      t.boot.fwDone = s.boot.fwDone ||| BitVec.ofNat 8 (2 ^ (j.stage - 1)) ∧
      (t.boot.fwDone ≠ 7 → t.boot.stage = .awaitFC)))

/-- ACT, PRE and REF on a channel. ACT opens a row of a closed bank; on an open bank it counts a protocol error,
raises HP_LINK and opens the new row. PRE closes one bank or all. REF counts. Nothing else changes, and no other
channel. ACT and REF do nothing on a channel that does not act under R439. (R70, R71, R81, R439, Table 4-3) -/
def Obligations.ChannelRows : Prop :=
  (∀ (s : State) (ch bank row : Nat), s.runs = true → chActs s ch = true → tfind (chOf s ch).rows bank = none →
    ∃ t, exec (.act ch bank row) s = .next t ∧
      ChanOnly s t ch { chOf s ch with rows := tput (chOf s ch).rows bank row }) ∧
  (∀ (s : State) (ch bank row old : Nat), s.runs = true → chActs s ch = true → tfind (chOf s ch).rows bank = some old →
    ∃ t, exec (.act ch bank row) s = .next t ∧ t = { s with hp := t.hp, irq := (raise s .hpLink).irq } ∧
      chOf t ch = { chOf s ch with proto := (chOf s ch).proto + 1, rows := tput (chOf s ch).rows bank row } ∧
      ∀ n, n ≠ ch → chOf t n = chOf s n) ∧
  (∀ (s : State) (ch : Nat) (bank : Option Nat), s.runs = true → chHears s ch = true →
    ∃ t, exec (.pre ch bank) s = .next t ∧
      ChanOnly s t ch { chOf s ch with rows := match bank with | some b => tdel (chOf s ch).rows b | none => [] }) ∧
  (∀ (s : State) (ch : Nat) (k : RefKind), s.runs = true → chActs s ch = true →
    ∃ t, exec (.ref ch k) s = .next t ∧ ChanOnly s t ch { chOf s ch with cntRef := (chOf s ch).cntRef + 1 }) ∧
  (∀ (s : State) (ch bank row : Nat) (k : RefKind), chActs s ch = false →
    exec (.act ch bank row) s = .next s ∧ exec (.ref ch k) s = .next s)

/-- Read and write bursts through a WRITE window, unmapped bursts and bursts to closed banks. RD of an open row
under a READ or WRITE window entry answers the port-buffer bytes behind it, with check bits where read link ECC
is on, or all ones where a word of them is uncorrectable. WR and MWR put the unmasked bytes there and nothing
else in the port buffer. At an unmapped offset RD answers zeros and WR does nothing, each counted. A write with
uncorrectable link ECC is dropped, counted and recorded, and raises HP_LINK. RD of a closed bank answers zeros,
counts a protocol error and raises HP_LINK. (R63, R68, R71, R72, R83, R439, Table 5-2) -/
def Obligations.HostBursts : Prop :=
  ((∀ (s : State) (ch bank col row : Nat) (bl32 : Bool) (e : WtEntry), s.runs = true → chActs s ch = true →
    tfind (chOf s ch).rows bank = some row → rlErr s (chOf s ch) = false → s.boot.pbZeroed = true →
    hpWin s (apOffset ch row bank col / 4096) = .entry e → e.snap = false → (e.cls = 0 ∨ e.cls = 1) →
    (pbBad s (e.pbByte (apOffset ch row bank col)) (if bl32 then 64 else 32) = [] →
      ∃ t, exec (.rd ch bank col bl32) s = .next t ∧
        ChanOnly s t ch { chOf s ch with
          st := .active
          answer := (chOf s ch).burst
            (mreads s.pb (e.pbByte (apOffset ch row bank col)) (if bl32 then 64 else 32)) }) ∧
    (pbBad s (e.pbByte (apOffset ch row bank col)) (if bl32 then 64 else 32) ≠ [] →
      ∃ t, exec (.rd ch bank col bl32) s = .next t ∧
        (chOf t ch).answer = (chOf s ch).burst (List.replicate (if bl32 then 64 else 32) 0xFF))) ∧
  (∀ (s : State) (ch bank col row : Nat) (bl32 : Bool) (ecc : Ecc) (data : List Byte) (e : WtEntry),
    s.runs = true → chActs s ch = true → tfind (chOf s ch).rows bank = some row →
    ((chOf s ch).mr.wecc = false ∨ ecc ≠ .uncorrectable) →
    s.boot.pbZeroed = true → hpWin s (apOffset ch row bank col / 4096) = .entry e → e.cls = 1 →
    ∃ t, exec (.wr ch bank col bl32 ecc data) s = .next t ∧ t = { s with hp := t.hp, pb := t.pb, pbPoison := t.pbPoison } ∧
      t.pb = mwritesMasked s.pb (e.pbByte (apOffset ch row bank col)) data [] ∧ (chOf t ch).st = .active ∧
      ∀ n, n ≠ ch → chOf t n = chOf s n) ∧
  (∀ (s : State) (ch bank col row : Nat) (bl32 : Bool) (ecc : Ecc) (data : List Byte) (masked : List Bool) (e : WtEntry),
    s.runs = true → chActs s ch = true → tfind (chOf s ch).rows bank = some row →
    ((chOf s ch).mr.wecc = false ∨ ecc ≠ .uncorrectable) → (chOf s ch).mr.dmDis = false →
    s.boot.pbZeroed = true → hpWin s (apOffset ch row bank col / 4096) = .entry e → e.cls = 1 →
    ∃ t, exec (.mwr ch bank col bl32 ecc data masked) s = .next t ∧
      t = { s with hp := t.hp, pb := t.pb, pbPoison := t.pbPoison } ∧
      t.pb = mwritesMasked s.pb (e.pbByte (apOffset ch row bank col)) data masked ∧ (chOf t ch).st = .active ∧
      ∀ n, n ≠ ch → chOf t n = chOf s n)) ∧
  ((∀ (s : State) (ch bank col row : Nat) (bl32 : Bool), s.runs = true → chActs s ch = true →
    tfind (chOf s ch).rows bank = some row → rlErr s (chOf s ch) = false → s.boot.pbZeroed = true →
    hpWin s (apOffset ch row bank col / 4096) = .unmapped →
    ∃ t, exec (.rd ch bank col bl32) s = .next t ∧
      ChanOnly s t ch { chOf s ch with
        st := .active, unmapRd := (chOf s ch).unmapRd + 1
        answer := (chOf s ch).burst (List.replicate (if bl32 then 64 else 32) 0) }) ∧
  (∀ (s : State) (ch bank col row : Nat) (bl32 : Bool) (ecc : Ecc) (data : List Byte), s.runs = true →
    chActs s ch = true → tfind (chOf s ch).rows bank = some row → (chOf s ch).mr.wecc = false →
    s.boot.pbZeroed = true → hpWin s (apOffset ch row bank col / 4096) = .unmapped →
    ∃ t, exec (.wr ch bank col bl32 ecc data) s = .next t ∧
      ChanOnly s t ch { chOf s ch with st := .active, unmapWr := (chOf s ch).unmapWr + 1 }) ∧
  (∀ (s : State) (ch bank col row : Nat) (bl32 : Bool) (data : List Byte), s.runs = true →
    chActs s ch = true → tfind (chOf s ch).rows bank = some row → (chOf s ch).mr.wecc = true → s.boot.pbZeroed = true →
    ∃ t, exec (.wr ch bank col bl32 .uncorrectable data) s = .next t ∧
      t = { s with hp := t.hp, irq := (raise s .hpLink).irq, log := t.log } ∧
      chOf t ch = { chOf s ch with st := .active, weccUe := (chOf s ch).weccUe + 1 } ∧
      Appends s t (fun r => r.code = 0x000B ∧ r.cls = 0 ∧ r.unit = 4 ∧ r.inst = ch)) ∧
  (∀ (s : State) (ch bank col : Nat) (bl32 : Bool), s.runs = true → chActs s ch = true →
    tfind (chOf s ch).rows bank = none → s.boot.pbZeroed = true →
    ∃ t, exec (.rd ch bank col bl32) s = .next t ∧ t = { s with hp := t.hp, irq := (raise s .hpLink).irq } ∧
      (chOf t ch).proto = (chOf s ch).proto + 1 ∧
      (chOf t ch).answer = (chOf s ch).burst (List.replicate (if bl32 then 64 else 32) 0)))

/-- Mode registers, CAS, and training commands of a channel. MRW writes the copy that FSP-WR names, with the
effects of the fields it carries, and enters TRAINING where it starts a training from UNTRAINED or NO_CLOCK; a
read-only register ignores it. MRR answers the fixed values or what was written. CAS synchronises WCK. Each MPC
operation makes an untrained channel TRAINING and has its effect; the end of command bus training records the
set point as trained and clears the rate errors, or fails with rate_err and HP_LINK. WFF and RFF move data
through the FIFO, whose depth is the model's (log 18) and which gives 32 free bytes when empty (log 8); RDC
answers the calibration pattern. No other channel changes. (R65, R74, R75, R76, R79, Table 4-3, Table 4-4, Table
4-5, Table 4-7) -/
def Obligations.ChannelModes : Prop :=
  ((∀ (s : State) (ch mr : Nat) (raw : Byte) (f : MrFields) (c d : Chan), s.runs = true → chHears s ch = true →
    mrReadOnly mr = none →
    c = (if (chOf s ch).fspWr then { chOf s ch with mr1 := (chOf s ch).mr1.write mr raw f }
        else { chOf s ch with mr0 := (chOf s ch).mr0.write mr raw f }).mrEffect f →
    d = (if mrTrains f && (c.st == .untrained || c.st == .noClock) then { c with st := .training } else c) →
    ∃ t, exec (.mrw ch mr raw f) s = .next t ∧ ChanOnly s t ch (if rlErr s d then d else { d with rlSeen := false })) ∧
  (∀ (s : State) (ch mr : Nat) (raw : Byte) (f : MrFields) (v : Byte), mrReadOnly mr = some v →
    exec (.mrw ch mr raw f) s = .next s) ∧
  (∀ (s : State) (ch mr : Nat), s.runs = true → chHears s ch = true →
    ∃ t, exec (.mrr ch mr) s = .next t ∧
      ChanOnly s t ch { chOf s ch with answer := .modeReg (match mrReadOnly mr with
        | some v => v
        | none => tget (if (chOf s ch).fspWr then (chOf s ch).mr1 else (chOf s ch).mr0).raw mr 0) }) ∧
  (∀ (s : State) (ch : Nat) (k : CasKind), s.runs = true → chHears s ch = true →
    ∃ t, exec (.cas ch k) s = .next t ∧ ChanOnly s t ch { chOf s ch with wckSync := true })) ∧
  ((∀ (s : State) (ch : Nat) (op : MpcOp), s.runs = true → chHears s ch = true →
    (∀ ok, op = .cbtDone ok → (chOf s ch).cbt = false) →
    ∃ t, exec (.mpc ch op) s = .next t ∧ ChanOnly s t ch
      (match op with
        | .zqStart => { (chOf s ch).training with zqBusy := !(chOf s ch).mr.zqStop }
        | .zqLatch => { (chOf s ch).training with zqBusy := false }
        | .cbtEnter => { (chOf s ch).training with cbt := true }
        | .cbtDone _ => (chOf s ch).training
        | .wckLevelling => (chOf s ch).training
        | .dutyStart => { (chOf s ch).training with duty := true }
        | .dutyStop => { (chOf s ch).training with duty := false }
        | .fifo => (chOf s ch).training
        | .readCal => { (chOf s ch).training with
            answer := .data (fit 32 (Config.calPattern (chOf s ch).mr.raw)) })) ∧
  (∀ (s : State) (ch : Nat), s.runs = true → chHears s ch = true → (chOf s ch).cbt = true →
    (∃ t, exec (.mpc ch (.cbtDone true)) s = .next t ∧
      ChanOnly s t ch { (chOf s ch).training with
        cbt := false, ckErr := false, ratioErr := false
        trained0 := (chOf s ch).trained0 || !(chOf s ch).fspOp
        trained1 := (chOf s ch).trained1 || (chOf s ch).fspOp }) ∧
    (∃ t, exec (.mpc ch (.cbtDone false)) s = .next t ∧ t = { s with hp := t.hp, irq := (raise s .hpLink).irq } ∧
      chOf t ch = { (chOf s ch).training with cbt := false, ckErr := true, rows := [] } ∧
      ∀ n, n ≠ ch → chOf t n = chOf s n)) ∧
  (∀ (s : State) (ch : Nat) (d : List Byte), s.runs = true → chHears s ch = true →
    ∃ t, exec (.wff ch d) s = .next t ∧
      ChanOnly s t ch { (chOf s ch).training with
        fifo := ((chOf s ch).fifo ++ [d]).drop ((chOf s ch).fifo.length + 1 - 8) }) ∧
  (∀ (s : State) (ch : Nat), s.runs = true → chHears s ch = true →
    (∀ d r, (chOf s ch).fifo = d :: r →
      ∃ t, exec (.rff ch) s = .next t ∧ ChanOnly s t ch { (chOf s ch).training with fifo := r, answer := .data d }) ∧
    ((chOf s ch).fifo = [] →
      ∃ t d, exec (.rff ch) s = .next t ∧ d.length = 32 ∧
        t = { s with hp := t.hp, free := t.free } ∧ chOf t ch = { (chOf s ch).training with answer := .data d } ∧
        ∀ n, n ≠ ch → chOf t n = chOf s n)) ∧
  (∀ (s : State) (ch : Nat), s.runs = true → chHears s ch = true →
    ∃ t, exec (.rdc ch) s = .next t ∧
      ChanOnly s t ch { (chOf s ch).training with
        answer := .data (fit 32 (Config.calPattern (chOf s ch).mr.raw)) }))

/-- Port-idle states, loss of rate and loss of clock. SRE, PDE and deep sleep entry put a live channel in the
state they name and remember where it came from; SRX, PDX and deep sleep exit go back. RATE_ERR sets rate_err
and raises HP_LINK, drops training and open rows where a set point was trained, and drives low every interrupt
output whose mask enables that cause. The loss of CK on a live channel drops training and open rows and raises
HP_LINK. NOP and DES change nothing. No other channel changes. (R65, R70, R76, R80, R102, Table 4-6, Table 4-7)
-/
def Obligations.ChannelStates : Prop :=
  (∀ (s : State) (ch : Nat), s.runs = true → chEnabled s ch = true →
    ((chOf s ch).st.live = true →
      (∃ t, exec (.sre ch) s = .next t ∧ ChanOnly s t ch { chOf s ch with st := .selfRefresh, back := (chOf s ch).st }) ∧
      (∃ t, exec (.pde ch) s = .next t ∧ ChanOnly s t ch { chOf s ch with st := .powerDown, back := (chOf s ch).st }) ∧
      (∃ t, exec (.deepSleepEntry ch) s = .next t ∧
        ChanOnly s t ch { chOf s ch with st := .deepSleep, back := (chOf s ch).st })) ∧
    ((chOf s ch).st = .selfRefresh →
      (∃ t, exec (.srx ch) s = .next t ∧ ChanOnly s t ch { chOf s ch with st := (chOf s ch).back }) ∧
      (∃ t, exec (.pde ch) s = .next t ∧ ChanOnly s t ch { chOf s ch with st := .srPowerDown })) ∧
    ((chOf s ch).st = .powerDown →
      ∃ t, exec (.pdx ch) s = .next t ∧ ChanOnly s t ch { chOf s ch with st := (chOf s ch).back }) ∧
    ((chOf s ch).st = .srPowerDown →
      ∃ t, exec (.pdx ch) s = .next t ∧ ChanOnly s t ch { chOf s ch with st := .selfRefresh }) ∧
    ((chOf s ch).st = .deepSleep →
      ∃ t, exec (.deepSleepExit ch) s = .next t ∧ ChanOnly s t ch { chOf s ch with st := (chOf s ch).back })) ∧
  ((∀ (s : State) (ch : Nat), s.runs = true → chEnabled s ch = true →
    ∃ t, exec (.rateErr ch) s = .next t ∧ t = { s with hp := t.hp, irq := (raise s .hpLink).irq } ∧
      chOf t ch = (if (chOf s ch).trained0 || (chOf s ch).trained1 then
          { chOf s ch with st := .untrained, ckErr := true, trained0 := false, trained1 := false, rows := []
                           cbt := false, duty := false, wckSync := false }
        else { chOf s ch with ckErr := true }) ∧
      (∀ n, n ≠ ch → chOf t n = chOf s n) ∧ ∀ k, (s.irq.mask k).getLsbD 2 = true → intLow t k = true) ∧
  (∀ (s : State) (ch : Nat), s.runs = true → chEnabled s ch = true → (chOf s ch).st.live = true →
    ∃ t, exec (.noClock ch) s = .next t ∧ t = { s with hp := t.hp, irq := (raise s .hpLink).irq } ∧
      chOf t ch = { chOf s ch with st := .noClock, trained0 := false, trained1 := false, rows := []
                                   cbt := false, duty := false, wckSync := false } ∧
      ∀ n, n ≠ ch → chOf t n = chOf s n) ∧
  (∀ (s : State) (ch : Nat) (des : Bool), exec (.nop ch des) s = .next s))

/-- Staging, the invalidation write and the end of a commit. From READY a table write stages every byte it does
not mask, and leaves every other byte of every entry as staged or, where nothing is, as in force; one of 16
bytes counts one entry. An invalidation write with the next generation, the right count, a legal result and no
commit running starts a commit: the entries that do not change stay in force meanwhile. With the table busy, a
wrong generation, a wrong count or an illegal result it fails with the first of those errors and raises wt_err.
The end of a commit puts the table and generation in force and zeroes exactly the port-buffer pages that changed
owner. (R87, R88, R89, R90, Table 5-4, Table 5-5) -/
def Obligations.WindowTableCommit : Prop :=
  (∀ (s : State) (off : Nat) (data : List Byte) (masked : List Bool), s.runs = true → s.boot.stage = .ready →
    ∃ t, exec (.tableWrite off data masked) s = .next t ∧
      t = { s with wt := { s.wt with staged := t.wt.staged, cnt := t.wt.cnt } } ∧
      ∀ k j, j < 16 → entryByte (tget t.wt.staged k (wtEntry s k).word) j =
        (burstByte off data masked (16 * k + j)).getD (entryByte (tget s.wt.staged k (wtEntry s k).word) j)) ∧
  (∀ (s : State) (k : Nat) (data : List Byte), s.runs = true → s.boot.stage = .ready → data.length = 16 →
    exec (.tableWrite (16 * k) data []) s = .next { s with wt := { s.wt with
      staged := tput s.wt.staged k (BitVec.ofNat 128 (leNat data)), cnt := s.wt.cnt + 1 } }) ∧
  (∀ (s : State) (gen : W32) (n : BitVec 16), s.runs = true → s.boot.stage = .ready → s.wt.busy = false →
    gen = s.wt.gen + 1 → n = s.wt.cnt → tableOk s (tableApply s.wt.table s.wt.staged) = true →
    exec (.invalidationWrite gen n) s = .next { s with wt := { s.wt with
      staged := [], cnt := 0, busy := true
      commit := some { table := tableApply s.wt.table s.wt.staged, gen := gen
                       zero := commitZero s.wt.table (tableApply s.wt.table s.wt.staged), teardown := none }
      table := s.wt.table.filter (fun e => tget (tableApply s.wt.table s.wt.staged) e.1 {} == e.2) } }) ∧
  (∀ (s : State) (gen : W32) (n : BitVec 16), s.runs = true → s.boot.stage = .ready →
    (s.wt.busy = true ∨ gen ≠ s.wt.gen + 1 ∨ n ≠ s.wt.cnt ∨
      tableOk s (tableApply s.wt.table s.wt.staged) = false) →
    exec (.invalidationWrite gen n) s = .next { s with
      irq := (raise s .wtErr).irq
      wt := { s.wt with staged := [], cnt := 0
                        err := if s.wt.busy then 1 else if gen ≠ s.wt.gen + 1 then 2
                          else if n ≠ s.wt.cnt then 3 else 4 } }) ∧
  (∀ (s : State) (c : Commit), s.runs = true → s.wt.commit = some c → s.wt.waiting = [] → c.teardown = none →
    ∃ t, exec .wtCommitEnd s = .next t ∧ t = { s with wt := t.wt, pb := t.pb, pbPoison := t.pbPoison, log := t.log } ∧
      t.wt.table = c.table ∧ t.wt.gen = c.gen ∧ t.wt.busy = false ∧ t.wt.err = 0 ∧
      ∀ a, mget t.pb a = if a / 4096 ∈ c.zero then 0 else mget s.pb a)

/-- Snapshot swaps, shadow captures, register writes and held writes. A snapshot swap advances the page's
generation, flips which version is shown and writes only that version's page. A capture stores value, domain and
instant in the slot and clears poison of its words. A write of 1s to HP_INT_CAUSE clears exactly those causes
that were not raised in the same cycle. HELD_WRITE_APPLY carries out the write its slot holds, and does nothing
where none is held. (R28, R91, R92, R93, R94, R102, Table 5-6, Table 5-13) -/
def Obligations.SnapshotsAndRegisters : Prop :=
  (∀ (s : State) (p : SnapPage), s.runs = true → snapLive s p = true → Memory.wf s.pb = true →
    ∃ t, exec (.snapshotSwap p) s = .next t ∧ t = { s with pb := t.pb, pbPoison := t.pbPoison, snaps := t.snaps } ∧
      (snapOf t p).gen = (snapOf s p).gen + 1 ∧ (snapOf t p).odd = !(snapOf s p).odd ∧
      (∀ q, q ≠ p → snapOf t q = snapOf s q) ∧
      ∀ a, (a < 4096 * snapShown t p ∨ 4096 * snapShown t p + 4096 ≤ a) → mget t.pb a = mget s.pb a) ∧
  (∀ (s : State) (view : Option Nat) (off dom v : Nat), s.runs = true → s.boot.stage = .ready →
    regAt s view off = some (dom, v) → clocked s dom = true →
    exec (.shadowCapture view off) s = .next { s with
      shadow := tput s.shadow (slotKey view off) (Shadow.mk (BitVec.ofNat 64 v) dom (some (refclkNow s)))
      pbPoison := s.pbPoison.filter (fun w => !slotWord s view off w) }) ∧
  (∀ (s : State) (view : Option Nat) (off : Nat), tfind s.held (slotKey view off) = none →
    exec (.heldWriteApply view off) s = .next s) ∧
  (∀ (s : State) (val : W64), s.runs = true → s.boot.stage = .ready → clocked s 35 = true →
    ∃ t, exec (.registerWrite none 0x10 val 0) s = .next t ∧ t = { s with irq := { s.irq with cause := t.irq.cause } } ∧
      ∀ b, b < 13 → t.irq.cause.getLsbD b =
        (s.irq.cause.getLsbD b && (!val.getLsbD b || (s.irq.freshNow (domCount s 35)).getLsbD b))) ∧
  (∀ (s : State) (val : W64), s.runs = true → clocked s 35 = true → tfind s.held 1 = some (val, 0) →
    ∃ t, exec (.heldWriteApply none 0x10) s = .next t ∧
      t = { s with held := tdel s.held 1, irq := { s.irq with cause := t.irq.cause } } ∧
      ∀ b, b < 13 → t.irq.cause.getLsbD b =
        (s.irq.cause.getLsbD b && (!val.getLsbD b || (s.irq.freshNow (domCount s 35)).getLsbD b)))

/-- A slot no register has reads as zeros and ignores writes. Where neither table assigns an offset, or the view
does not show the register there, the slot reads as 16 zero bytes and a write leaves the whole state as it was:
nothing is counted and no cause is raised. (R416) -/
def Obligations.UnassignedSlots : Prop :=
  ∀ (s : State) (view : Option Nat) (off : Nat), regAt s view off = none →
    slotBytes16 s view off = List.replicate 16 0 ∧
    (∀ val mask, exec (.registerWrite view off val mask) s = .next s) ∧
    ∀ data masked at_ k, at_ + k = off → slotWrite view at_ data masked s k = s

/-- Doorbells and host fence writes, accepted or dropped. A doorbell to a live queue of the window's context
sets its latch, stores the unmasked bytes of tail and cq_head and ends RETAIN; one to a queue the context does
not own, or that is being destroyed, is dropped with a record that names page and reason and with DB_DROP; one
to a queue that teardown stopped is dropped silently. A fence word of a holder with signal rights raises the
fence and never lowers it; without the right it is dropped with a record and DB_DROP. No other queue and no
other fence changes. (R83, R95, R119, R276, Table 5-7, Table 5-13) -/
def Obligations.DoorbellsAndFenceWrites : Prop :=
  (∀ (s : State) (page wctx q : Nat) (data : BitVec 256) (mask : W32), s.runs = true → dbWindow s page wctx q = true →
    (queueOf s q).st = .live → (queueOf s q).ctx = wctx → (queueOf s q).stopped = false →
    ∃ t, exec (.doorbell page wctx q data mask) s = .next t ∧
      t = { s with queues := t.queues, orders := t.orders, pwr := t.pwr } ∧
      queueOf t q = { queueOf s q with
        latch := true, latchOrd := if (queueOf s q).latch then (queueOf s q).latchOrd else s.orders + 1
        dTail := BitVec.ofNat 32 (maskBytes 4 (queueOf s q).dTail.toNat data.toNat mask.toNat)
        dHead := BitVec.ofNat 32 (maskBytes 4 (queueOf s q).dHead.toNat (data.toNat >>> 64) (mask.toNat >>> 8)) } ∧
      (∀ r, r ≠ q → queueOf t r = queueOf s r) ∧
      t.pwr = (if s.pwr.dev = .retain then { s.pwr with waking := true } else s.pwr)) ∧
  (∀ (s : State) (page wctx q : Nat) (data : BitVec 256) (mask : W32), s.runs = true → dbWindow s page wctx q = true →
    ((queueOf s q).st = .free ∨ (queueOf s q).ctx ≠ wctx ∨
      ((queueOf s q).st = .destroying ∧ (queueOf s q).stopped = false)) →
    ∃ t, exec (.doorbell page wctx q data mask) s = .next t ∧
      t = { s with log := t.log, irq := (raise s .dbDrop).irq } ∧
      Appends s t (fun r => r.code = 0x0012 ∧ r.cls = 0 ∧ r.ctx = some wctx ∧
        r.info = BitVec.ofNat 32 (packNat [(page, 0),
          (if (queueOf s q).st = .free ∨ (queueOf s q).ctx ≠ wctx then 0 else 1, 24)]))) ∧
  (∀ (s : State) (page wctx q : Nat) (data : BitVec 256) (mask : W32), dbWindow s page wctx q = true →
    (queueOf s q).st ≠ .free → (queueOf s q).ctx = wctx → (queueOf s q).stopped = true →
    exec (.doorbell page wctx q data mask) s = .next s) ∧
  (∀ (s : State) (page wctx f : Nat) (data : BitVec 128) (mask : BitVec 16), s.runs = true →
    fenceWindow s page wctx f = true → fenceSig s wctx f = true → (fenceOf s f).st = .live →
    (fenceOf s f).remote = none →
    ∃ t v, exec (.fenceWrite page wctx f data mask) s = .next t ∧ t = { s with fences := t.fences } ∧
      v = BitVec.ofNat 64 (maskBytes 8 (fenceOf s f).val.toNat data.toNat mask.toNat) ∧
      (fenceOf t f).val = (if (fenceOf s f).val < v then v else (fenceOf s f).val) ∧
      (∀ g, g ≠ f → fenceOf t g = fenceOf s g)) ∧
  (∀ (s : State) (page wctx f : Nat) (data : BitVec 128) (mask : BitVec 16), s.runs = true →
    fenceWindow s page wctx f = true → fenceSig s wctx f = false →
    ∃ t, exec (.fenceWrite page wctx f data mask) s = .next t ∧
      t = { s with log := t.log, irq := (raise s .dbDrop).irq } ∧
      Appends s t (fun r => r.code = 0x0012 ∧ r.cls = 0 ∧ r.ctx = some wctx ∧
        r.info = BitVec.ofNat 32 (packNat [(page, 0), (2, 24)])))

/-- A host write can raise a fence and set its error bit, never abandon it. Bit 65 of a host write to a FENCE
window makes no difference. A write with bit 64 set and a greater value raises the fence and sets its error bit.
No host write changes the state or the abandoned bit of any fence. (R276) -/
def Obligations.HostFenceWrites : Prop :=
  (∀ (s : State) (page wctx f : Nat) (data : BitVec 128) (mask : BitVec 16),
    exec (.fenceWrite page wctx f (data ^^^ (1#128 <<< 65)) mask) s = exec (.fenceWrite page wctx f data mask) s) ∧
  (∀ (s : State) (page wctx f : Nat) (data : BitVec 128), s.runs = true → fenceWindow s page wctx f = true →
    fenceSig s wctx f = true → (fenceOf s f).st = .live → (fenceOf s f).remote = none → bit data 64 = true →
    (fenceOf s f).val < BitVec.ofNat 64 data.toNat →
    exec (.fenceWrite page wctx f data 0) s = .next { s with
      fences := tput s.fences f { fenceOf s f with
        val := BitVec.ofNat 64 data.toNat, err := true, sigAt := some (domCount s 35), sigErr := true } }) ∧
  (∀ (s t : State) (page wctx f g : Nat) (data : BitVec 128) (mask : BitVec 16),
    exec (.fenceWrite page wctx f data mask) s = .next t →
    (fenceOf t g).st = (fenceOf s g).st ∧ (fenceOf t g).abandoned = (fenceOf s g).abandoned)

/-- Binding, sampling, draining and fetching of hardware slots. The first waiting queue of its partition takes a
free slot, or the one IDLE longest, and no other slot changes; where it is not the first, or there is neither,
nothing changes. An IDLE slot whose queue's latch is set becomes ACTIVE: the latch clears, tail and cq_head are
taken or refused each on its own, a refusal with a SUBMIT_FAULT record and DB_DROP. A drain pass that ends with
the latch set does the same; otherwise the slot is IDLE, with the pinned queue that waits for it where there is
one. A slot with nothing to fetch drains. A fetch, with no uncorrectable word in the port buffer, advances head
by one and leaves tail; of a legal NOP it makes exactly the command with that descriptor and takes one
completion place. Which slot is free first is log 16's. (R97, R98, R99, R130, R132, R133, Table 5-9, Table 5-10)
-/
def Obligations.SlotBinding : Prop :=
  (∀ (s : State) (q i : Nat), s.runs = true → dispatching s = true → firstWaiting s (queuePart s q) = some q →
    (freeSlot s (queuePart s q) = some i ∨ (freeSlot s (queuePart s q) = none ∧ idleLongest s (queuePart s q) = some i)) →
    ∃ t, exec (.queueBind q) s = .next t ∧ t = { s with slots := t.slots, orders := s.orders + 1 } ∧
      slotOf t i = { queue := some q, st := .idle, idleOrd := s.orders } ∧ ∀ j, j ≠ i → slotOf t j = slotOf s j) ∧
  (∀ (s : State) (q : Nat), (firstWaiting s (queuePart s q) ≠ some q ∨
      (freeSlot s (queuePart s q) = none ∧ idleLongest s (queuePart s q) = none)) →
    exec (.queueBind q) s = .next s) ∧
  (∀ (s : State) (i q : Nat), s.runs = true → (slotOf s i).queue = some q → (slotOf s i).st = .idle →
    (queueOf s q).latch = true → slotRuns s q = true →
    ∃ t, exec (.slotSample i) s = .next t ∧ Samples s t i q) ∧
  (∀ (s : State) (i q : Nat), (slotOf s i).queue = some q → (queueOf s q).latch = false →
    exec (.slotSample i) s = .next s) ∧
  (∀ (s : State) (i q : Nat), s.runs = true → (slotOf s i).queue = some q → (slotOf s i).st = .draining →
    (queueOf s q).latch = true → slotRuns s q = true →
    ∃ t, exec (.drainPassEnd i) s = .next t ∧ Samples s t i q) ∧
  (∀ (s : State) (i q : Nat), s.runs = true → (slotOf s i).queue = some q → (slotOf s i).st = .draining →
    ((queueOf s q).latch = false ∨ slotRuns s q = false) →
    ∃ t, exec (.drainPassEnd i) s = .next t ∧ t = { s with slots := t.slots, orders := s.orders + 1 } ∧
      slotOf t i = { slotOf s i with
        queue := if (slotOf s i).next = none then some q else (slotOf s i).next, next := none
        st := .idle, idleOrd := s.orders, served := false } ∧ ∀ j, j ≠ i → slotOf t j = slotOf s j) ∧
  (∀ (s : State) (i q : Nat), s.runs = true → (slotOf s i).queue = some q → (slotOf s i).st = .active →
    slotRuns s q = true → mayServe s i = true → nothingToFetch (queueOf s q) = true →
    ∃ t, exec (.slotFetch i) s = .next t ∧ t = { s with slots := t.slots, rr := t.rr } ∧
      slotOf t i = { slotOf s i with st := .draining, served := false } ∧ ∀ j, j ≠ i → slotOf t j = slotOf s j) ∧
  (∀ (s : State) (i q : Nat) (d : BitVec 512), s.runs = true → (slotOf s i).queue = some q → (slotOf s i).st = .active →
    slotRuns s q = true → mayServe s i = true → nothingToFetch (queueOf s q) = false → (unstarted s q).length < 4 →
    apRangeIn s ((queueOf s q).sqOff * 64 + 64 * ((queueOf s q).head.toNat % 2 ^ (queueOf s q).sqLog)) 64 1
      (queueOf s q).ctx = true → s.pbPoison = [] → (ctxOf s (queueOf s q).ctx).st = .active →
    d = BitVec.ofNat 512 (leNat (apTake s
      ((queueOf s q).sqOff * 64 + 64 * ((queueOf s q).head.toNat % 2 ^ (queueOf s q).sqLog)) 64).1) →
    descOk s (queueOf s q).ctx d = true → dOp d = 0 →
    (dWaitEn d = true → fenceWait s (queueOf s q).ctx (dWaitFence d) = true) →
    (dSigEn d = true → fenceSig s (queueOf s q).ctx (dSigFence d) = true) →
    ∃ t, exec (.slotFetch i) s = .next t ∧
      t = { s with slots := t.slots, rr := t.rr, queues := t.queues, orders := s.orders + 1, cmds := t.cmds
                   fences := t.fences } ∧
      queueOf t q = { queueOf s q with head := (queueOf s q).head + 1, resv := (queueOf s q).resv + 1 } ∧
      (∀ r, r ≠ q → queueOf t r = queueOf s r) ∧
      tfind t.cmds s.orders = some
        { queue := q, ctx := (queueOf s q).ctx, desc := d, ord := s.orders, s := now35 s, slot := i
          normAt := now35 s, sig := dSigEn d
          fences := (if dWaitEn d then [dWaitFence d] else []) ++ (if dSigEn d then [dSigFence d] else []) } ∧
      (∀ j, j ≠ s.orders → tfind t.cmds j = tfind s.cmds j) ∧
      (slotOf t i).st = if nothingToFetch (queueOf t q) then .draining else .active) ∧
  (∀ (s : State) (i q : Nat), s.runs = true → (slotOf s i).queue = some q → (slotOf s i).st = .active →
    slotRuns s q = true → mayServe s i = true → nothingToFetch (queueOf s q) = false → (unstarted s q).length < 4 →
    (queueOf s q).st = .live → s.pbPoison = [] →
    ∃ t, exec (.slotFetch i) s = .next t ∧ (queueOf t q).head = (queueOf s q).head + 1 ∧
      (queueOf t q).tail = (queueOf s q).tail ∧ s.orders < t.orders)

/-- Commands start, end with a completion record, or time out. A command whose turn it is and whose wait permits
starts, a LAUNCH_GRAPH with a walker place and its graph still registered; one not in turn, or whose wait is not
met, stays as it is. One whose wait is met by an abandoned fence ends ABANDONED, a NOP ends OK, and an unmet
wait with a limit ends TIMEOUT: the command is gone and no other is, its queue counts one more record, and the
record stands in the completion ring at its place. WAIT_TIMEOUT does nothing to a command not in turn or with no
limit. (R98, R99, R100, R120, R133, R137, Table 5-11) -/
def Obligations.CommandStartAndEnd : Prop :=
  (∀ (s : State) (id : Nat) (c : Cmd), s.runs = true → resolveHeld s = s →
    tfind s.cmds id = some c → ready s id c = true →
    (dWaitEn c.desc = true → (fenceOf s (dWaitFence c.desc)).abandoned = false) →
    (dOp c.desc = 1 → walkerRoom s (ctxOf s c.ctx).part (some id) = true ∧ (cmdGraph s c).isSome = true) →
    exec (.commandStart id) s = .next { s with cmds := tupd s.cmds id (fun c => { c with started := true }) }) ∧
  (∀ (s : State) (id : Nat) (c : Cmd), resolveHeld s = s → tfind s.cmds id = some c →
    (inTurn s id c = false ∨ waitMet s c = false) → exec (.commandStart id) s = .next s) ∧
  (∀ (s : State) (id : Nat) (c : Cmd) (e : WtEntry), s.runs = true → Memory.wf s.pb = true → StillHeld s id →
    tfind s.cmds id = some c → inTurn s id c = true → waitMet s c = true → dWaitEn c.desc = true →
    (fenceOf s (dWaitFence c.desc)).abandoned = true → (queueOf s c.queue).st = .live →
    placeEntry s (queueOf s c.queue) = some e →
    ∃ t, exec (.commandStart id) s = .next t ∧ Completes s t id c e .abandoned) ∧
  (∀ (s : State) (id : Nat) (c : Cmd) (e : WtEntry), s.runs = true → Memory.wf s.pb = true → tfind s.cmds id = some c →
    c.started = true → dOp c.desc = 0 → dispatching s = true → (queueOf s c.queue).st = .live →
    placeEntry s (queueOf s c.queue) = some e →
    ∃ t, exec (.nopCommand id) s = .next t ∧ Completes s t id c e .ok) ∧
  (∀ (s : State) (id : Nat) (c : Cmd) (e : WtEntry), s.runs = true → Memory.wf s.pb = true → StillHeld s id →
    tfind s.cmds id = some c → inTurn s id c = true → dWaitEn c.desc = true → dWaitTo c.desc ≠ 0 →
    fenceMet s (dWaitFence c.desc) (dWaitVal c.desc) = false → (queueOf s c.queue).st = .live →
    placeEntry s (queueOf s c.queue) = some e →
    ∃ t, exec (.waitTimeout id) s = .next t ∧ Completes s t id c e .timeout) ∧
  (∀ (s : State) (id : Nat) (c : Cmd), tfind s.cmds id = some c →
    (inTurn s id c = false ∨ dWaitEn c.desc = false ∨ dWaitTo c.desc = 0) →
    exec (.waitTimeout id) s = .next s)

/-- Contexts are created, torn down and zeroed. CTX_CREATE of a FREE context with a legal block makes it ACTIVE
with the partition, priority and segments of the block, the next generation, no orphan record and no reserve;
outside a WRITE window, or of a context that is not FREE, it fails with BAD_BLOCK. CTX_TEARDOWN of an ACTIVE or
LOST context enters step 1: doorbell latches of its queues clear, the queues stop, the command stays busy; of
any other context it fails. The end of step 1 leaves none of its instances and commands; of step 2 every fence
it owns ABANDONED; of step 3 none of its window entries in force, by a commit of its own, or waits for the
running one; step 4 ends only after that commit and leaves none of its queues, graphs, sequence entries and hub
counters, and the context in no object and among no fence's importers; step 5 ends with the context ZEROING and
the command done; the end of zeroing with it FREE. Each advances the generation of the entry. No other context
changes, but for bin reserves in the end of step 1. (R103, R104, R105, R107, R108, R124, R125, Table 6-1, Table
6-2, Table 6-13) -/
def Obligations.ContextLife : Prop :=
  (∀ (s : State) (tag : BitVec 4) (ctx page : Nat) (h : BitVec 512) (p : Partition) (gs : List Seg), MgmtReady s →
    s.ctxCmd.busy = false → ctx < 1024 → page < 8192 →
    writePage s page none = true → pbBad s (page * 4096) (blockLen s page) = [] →
    h = BitVec.ofNat 512 (leNat ((pbFetch s (page * 4096) (blockLen s page)).take 64)) →
    gs = blockSegs (pbFetch s (page * 4096) (blockLen s page)) (bits h 23 16) → partRec s (bits h 10 8) = some p →
    (ctxOf s ctx).st = .free → 1 ≤ bits h 23 16 → bits h 23 16 ≤ 64 → segsOk s p gs = true →
    ∃ t, exec (.ctxCreate tag ctx page) s = .next t ∧ t = { s with ctxs := t.ctxs, mem := t.mem, ctxCmd := t.ctxCmd } ∧
      ctxOf t ctx = { ctxOf s ctx with
        st := .active, errIdx := 0xFFFF, cause := 0, step := 0, part := p.idx, prio := bits h 7 4, segs := gs
        gen := (ctxOf s ctx).gen + 1, orphans := 0, reserve := [] } ∧
      t.ctxCmd = done tag.toNat .ok 0 ∧ ∀ c, c ≠ ctx → ctxOf t c = ctxOf s c) ∧
  (∀ (s : State) (tag : BitVec 4) (ctx page : Nat), MgmtReady s → s.ctxCmd.busy = false → ctx < 1024 → page < 8192 →
    (writePage s page none = false ∨
      (pbBad s (page * 4096) (blockLen s page) = [] ∧ (ctxOf s ctx).st ≠ .free)) →
    exec (.ctxCreate tag ctx page) s = .next { s with ctxCmd := done tag.toNat .badBlock 0 }) ∧
  (∀ (s : State) (tag : BitVec 4) (ctx : Nat), MgmtReady s → s.ctxCmd.busy = false → ctx < 1024 →
    ((ctxOf s ctx).st = .active ∨ (ctxOf s ctx).st = .lost) →
    ∃ t, exec (.ctxTeardown tag ctx) s = .next t ∧
      ctxOf t ctx = { ctxOf s ctx with st := .teardown, step := 1, gen := (ctxOf s ctx).gen + 1 } ∧
      t.ctxCmd = { result := s.ctxCmd.result, tag := tag.toNat, busy := true, extra := 0 } ∧
      (∀ c, c ≠ ctx → ctxOf t c = ctxOf s c) ∧
      (∀ q, (queueOf s q).ctx = ctx → (queueOf s q).st ≠ .free →
        queueOf t q = { queueOf s q with latch := false, stopped := true }) ∧
      ∀ q, ((queueOf s q).ctx ≠ ctx ∨ (queueOf s q).st = .free) → queueOf t q = queueOf s q) ∧
  (∀ (s : State) (tag : BitVec 4) (ctx : Nat), MgmtReady s → s.ctxCmd.busy = false → ctx < 1024 →
    (ctxOf s ctx).st ≠ .active → (ctxOf s ctx).st ≠ .lost →
    exec (.ctxTeardown tag ctx) s = .next { s with ctxCmd := done tag.toNat .bad3 0 }) ∧
  (∀ (s : State) (ctx : Nat), s.runs = true → (ctxOf s ctx).st = .teardown → s.pwr.mgmtRestarting = false →
    (ctxOf s ctx).step = 1 →
    ∃ t, exec (.teardownStepEnd ctx) s = .next t ∧ (ctxOf t ctx).step = 2 ∧ (ctxOf t ctx).st = .teardown ∧
      (ctxOf t ctx).gen = (ctxOf s ctx).gen + 1 ∧
      (∀ c, c ≠ ctx → { ctxOf t c with reserve := (ctxOf s c).reserve } = ctxOf s c) ∧
      (∀ i x, tfind t.insts i = some x → x.ctx ≠ ctx) ∧ ∀ i x, tfind t.cmds i = some x → x.ctx ≠ ctx) ∧
  (∀ (s : State) (ctx : Nat), s.runs = true → (ctxOf s ctx).st = .teardown → s.pwr.mgmtRestarting = false →
    (ctxOf s ctx).step = 2 →
    ∃ t, exec (.teardownStepEnd ctx) s = .next t ∧ t = { s with ctxs := t.ctxs, fences := t.fences } ∧
      ctxOf t ctx = { ctxOf s ctx with step := 3, gen := (ctxOf s ctx).gen + 1 } ∧
      (∀ c, c ≠ ctx → ctxOf t c = ctxOf s c) ∧
      ∀ f, fenceOf t f = if (fenceOf s f).st = .live ∧ (fenceOf s f).owner = ctx ∧ (fenceOf s f).ownerHolds = true ∧
          (fenceOf s f).remote = none then Fence.settle (fenceOf s f).abandon else fenceOf s f) ∧
  (∀ (s : State) (ctx : Nat), s.runs = true → (ctxOf s ctx).st = .teardown → s.pwr.mgmtRestarting = false →
    (ctxOf s ctx).step = 3 →
    ∃ t, exec (.teardownStepEnd ctx) s = .next t ∧ t = { s with ctxs := t.ctxs, wt := t.wt } ∧
      ctxOf t ctx = { ctxOf s ctx with step := 4, gen := (ctxOf s ctx).gen + 1 } ∧
      (∀ c, c ≠ ctx → ctxOf t c = ctxOf s c) ∧
      (s.wt.commit ≠ none → t.wt = { s.wt with waiting := s.wt.waiting ++ [ctx] }) ∧
      (s.wt.commit = none → t.wt.busy = true ∧ t.wt.gen = s.wt.gen ∧
        t.wt.table = s.wt.table.filter (fun e => !(e.2.valid && e.2.ctx == ctx)) ∧
        ∃ z, t.wt.commit = some { table := t.wt.table, gen := s.wt.gen + 1, zero := z, teardown := some ctx })) ∧
  (∀ (s : State) (ctx : Nat), (ctxOf s ctx).step = 4 →
    (s.wt.commit.any (·.teardown == some ctx) = true ∨ ctx ∈ s.wt.waiting) →
    exec (.teardownStepEnd ctx) s = .next s) ∧
  (∀ (s : State) (ctx : Nat), s.runs = true → (ctxOf s ctx).st = .teardown → s.pwr.mgmtRestarting = false →
    (ctxOf s ctx).step = 4 → s.wt.commit.any (·.teardown == some ctx) = false → ctx ∉ s.wt.waiting →
    ∃ t, exec (.teardownStepEnd ctx) s = .next t ∧
      ctxOf t ctx = { ctxOf s ctx with step := 5, gen := (ctxOf s ctx).gen + 1, reserve := [] } ∧
      (∀ c, c ≠ ctx → ctxOf t c = ctxOf s c) ∧
      (∀ q, (queueOf t q).ctx = ctx → (queueOf t q).st = .free) ∧ (∀ k g, tfind t.graphs k = some g → g.ctx ≠ ctx) ∧
      (∀ k e, tfind t.seqs k = some e → e.ctx = ctx → e.st = .free) ∧
      (∀ k e, tfind t.hub k = some e → e.owner ≠ some ctx) ∧
      (∀ i, (tget t.objs i {}).held ctx = false) ∧ ∀ f, (fenceOf t f).importers.all (·.ctx != ctx) = true) ∧
  (∀ (s : State) (ctx : Nat), s.runs = true → (ctxOf s ctx).st = .teardown → s.pwr.mgmtRestarting = false →
    (ctxOf s ctx).step = 5 →
    ∃ t, exec (.teardownStepEnd ctx) s = .next t ∧ t = { s with ctxs := t.ctxs, ctxCmd := t.ctxCmd } ∧
      ctxOf t ctx = { ctxOf s ctx with st := .zeroing, step := 0, gen := (ctxOf s ctx).gen + 1 } ∧
      (∀ c, c ≠ ctx → ctxOf t c = ctxOf s c) ∧
      t.ctxCmd = { s.ctxCmd with result := .ok, busy := false }) ∧
  (∀ (s : State) (ctx : Nat), s.runs = true → (ctxOf s ctx).st = .zeroing → s.pwr.mgmtRestarting = false →
    ∃ t, exec (.ctxZeroingDone ctx) s = .next t ∧ t = { s with ctxs := t.ctxs, cores := t.cores, mem := t.mem } ∧
      ctxOf t ctx = { ctxOf s ctx with
        st := .free, segs := [], cause := 0, errIdx := 0xFFFF, part := 0, prio := 0, gen := (ctxOf s ctx).gen + 1 } ∧
      ∀ c, c ≠ ctx → ctxOf t c = ctxOf s c) ∧
  (∀ (s : State) (ctx : Nat), (ctxOf s ctx).st ≠ .zeroing → exec (.ctxZeroingDone ctx) s = .next s)

/-- Batches of object and fence entries, and the zeroing of objects. CTX_BATCH carries out its entries in order
up to the first that fails and reports how many; of a context not ACTIVE, with an illegal count or outside its
WRITE window it carries out none. A CREATE_FENCE entry gives a FREE fence its value and owner; DESTROY_FENCE by
the owner leaves a fence that others hold or reference ABANDONED with value all ones and the error bit, and no
other fence changes. The end of zeroing frees an object and no other. (R107, R109, R110, R111, R112, R115, R118,
Table 6-6, Table 6-8, Table 6-10) -/
def Obligations.ObjectsAndFences : Prop :=
  (∀ (s s' : State) (tag : BitVec 4) (ctx page count n : Nat) (ok : Bool), MgmtReady s → s.ctxCmd.busy = false →
    ctx < 1024 → page < 8192 → 1 ≤ count → count ≤ 128 →
    (ctxOf s ctx).st = .active → writePage s page (some ctx) = true → pbBad s (page * 4096) (32 * count) = [] →
    batchRun ctx ((List.range count).map fun i =>
      BitVec.ofNat 256 (leNat (((pbFetch s (page * 4096) (32 * count)).drop (32 * i)).take 32))) s 0 = (n, ok, s') →
    exec (.ctxBatch tag ctx page count) s =
      .next { s' with ctxCmd := { result := if ok then .ok else .r5, tag := tag.toNat, busy := false, extra := n } }) ∧
  (∀ (ctx : Nat) (e : BitVec 256) (r : List (BitVec 256)) (s : State) (n : Nat),
    batchRun ctx [] s n = (n, true, s) ∧
    (∀ s', batchEntry s ctx e = some s' → batchRun ctx (e :: r) s n = batchRun ctx r s' (n + 1)) ∧
    (batchEntry s ctx e = none → batchRun ctx (e :: r) s n = (n, false, s))) ∧
  (∀ (s : State) (tag : BitVec 4) (ctx page count : Nat) (r : Result), MgmtReady s → s.ctxCmd.busy = false →
    ctx < 1024 → page < 8192 → count < 256 →
    ((ctxOf s ctx).st ≠ .active ∨ count = 0 ∨ 128 < count ∨ writePage s page (some ctx) = false) →
    r = (if (ctxOf s ctx).st = .active then .badBlock else .bad3) →
    exec (.ctxBatch tag ctx page count) s = .next { s with ctxCmd := done tag.toNat r 0 }) ∧
  (∀ (s : State) (ctx : Nat) (e : BitVec 256) (x : Fence), beOp e = 5 → (fenceOf s (beFence e)).st = .free →
    x = { st := .live, val := beValue e, owner := ctx, ownerHolds := true } →
    batchEntry s ctx e = some { s with fences := tput s.fences (beFence e) x }) ∧
  (∀ (s : State) (ctx : Nat) (e : BitVec 256), beOp e = 6 → (fenceOf s (beFence e)).st = .live →
    (fenceOf s (beFence e)).ownerHolds = true → (fenceOf s (beFence e)).owner = ctx → (fenceOf s (beFence e)).remote = none →
    ∃ t, batchEntry s ctx e = some t ∧ t = { s with fences := t.fences } ∧
      (∀ f, f ≠ beFence e → fenceOf t f = fenceOf s f) ∧
      (((fenceOf s (beFence e)).importers ≠ [] ∨ (fenceOf s (beFence e)).refs ≠ 0) →
        (fenceOf t (beFence e)).st = .abandoned ∧ (fenceOf t (beFence e)).val = BitVec.allOnes 64 ∧
        (fenceOf t (beFence e)).err = true ∧ (fenceOf t (beFence e)).abandoned = true)) ∧
  (∀ (s : State) (i : Nat) (o : Obj), s.runs = true → tfind s.objs i = some o → o.st = .zeroing →
    ∃ t, exec (.objZeroingDone i) s = .next t ∧ tfind t.objs i = none ∧
      (∀ j, j ≠ i → tfind t.objs j = tfind s.objs j) ∧ t = { s with objs := t.objs, mem := t.mem })

/-- Q_CREATE and Q_DESTROY. Q_CREATE with a legal block, both rings inside windows of the context and a slot
left makes the queue live with the block's fields; a pinned queue takes a free slot at once, an unpinned one
none. Of a queue in use or a context not ACTIVE it fails with BAD_QUEUE, outside the context's WRITE window with
BAD_BLOCK. Q_DESTROY of a live queue of the context unbinds it, clears its latch, leaves no command of it
unstarted and no graph armed by it; of any other queue it fails with BAD_QUEUE and changes nothing else. No
other queue changes in Q_CREATE. (R107, R128, R129, R131, R132, Table 7-1, Table 7-2, Table 7-3) -/
def Obligations.QueueCommands : Prop :=
  (∀ (s : State) (tag : BitVec 2) (ctx q page : Nat) (b : BitVec 128), FeReady s → s.feCmd.busy = false →
    ctx < 1024 → q < 1024 → page < 8192 → (queueOf s q).st = .free →
    (ctxOf s ctx).st = .active → writePage s page (some ctx) = true → pbBad s (page * 4096) 16 = [] →
    b = BitVec.ofNat 128 (leNat (pbFetch s (page * 4096) 16)) →
    4 ≤ bits b 64 61 → bits b 64 61 ≤ 12 → 4 ≤ bits b 97 94 → bits b 97 94 ≤ 12 →
    bits b 93 65 * 64 + 64 * 2 ^ bits b 64 61 ≤ 2 ^ 35 → bits b 127 98 * 32 + 32 * 2 ^ bits b 97 94 ≤ 2 ^ 35 →
    apRangeIn s (bits b 93 65 * 64) (64 * 2 ^ bits b 64 61) 1 ctx = true →
    apRangeIn s (bits b 127 98 * 32) (32 * 2 ^ bits b 97 94) 3 ctx = true →
    slotsLack s (ctxOf s ctx).part (bit b 1) = false →
    ∃ t, exec (.qCreate tag ctx q page) s = .next t ∧
      t = { s with queues := t.queues, slots := t.slots, orders := t.orders, feCmd := t.feCmd } ∧
      queueOf t q = { st := .live, ctx := ctx, sqOff := bits b 93 65, sqLog := bits b 64 61, cqOff := bits b 127 98
                      cqLog := bits b 97 94, pin := bit b 1, cqInt := bit b 0 } ∧
      t.feCmd = done tag.toNat .ok 0 ∧ (∀ r, r ≠ q → queueOf t r = queueOf s r) ∧
      (bit b 1 = false → t.slots = s.slots) ∧
      ∀ i, bit b 1 = true → freeSlot s (ctxOf s ctx).part = some i →
        slotOf t i = { queue := some q, st := .idle, idleOrd := s.orders }) ∧
  (∀ (s : State) (tag : BitVec 2) (ctx q page : Nat) (r : Result), FeReady s → s.feCmd.busy = false →
    ctx < 1024 → q < 1024 → page < 8192 →
    ((queueOf s q).st ≠ .free ∨ (ctxOf s ctx).st ≠ .active ∨ writePage s page (some ctx) = false) →
    r = (if (queueOf s q).st ≠ .free ∨ (ctxOf s ctx).st ≠ .active then .bad3 else .badBlock) →
    exec (.qCreate tag ctx q page) s = .next { s with feCmd := done tag.toNat r 0 }) ∧
  (∀ (s : State) (tag : BitVec 2) (ctx q : Nat), FeReady s → s.feCmd.busy = false →
    ctx < 1024 → q < 1024 → (queueOf s q).st = .live → (queueOf s q).ctx = ctx →
    s.slots.all (fun e => !(e.2.queue == some q && e.2.next == some q)) = true →
    ∃ t, exec (.qDestroy tag ctx q) s = .next t ∧ (queueOf t q).st ≠ .live ∧ (queueOf t q).latch = false ∧
      boundSlot t q = none ∧ t.feCmd = done tag.toNat .ok 0 ∧
      (∀ i x, tfind t.cmds i = some x → x.queue = q → x.started = true) ∧
      ∀ k g, tfind t.graphs k = some g → g.arm.any (·.queue == q) = false) ∧
  (∀ (s : State) (tag : BitVec 2) (ctx q : Nat), FeReady s → s.feCmd.busy = false →
    ctx < 1024 → q < 1024 → ((queueOf s q).st ≠ .live ∨ (queueOf s q).ctx ≠ ctx) →
    exec (.qDestroy tag ctx q) s = .next { s with feCmd := done tag.toNat .bad3 0 })

/-- REGISTER_GRAPH, DESTROY_GRAPH, ARM, DISARM and triggered launches. REGISTER_GRAPH of a readable image that
passes every check enters it in the directory; one that fails check n leaves the directory as it was and ends
with a SUBMIT_FAULT record of check 9, detail n. DESTROY_GRAPH takes the graph out of the directory at once and
ends when no instance or started launch of it is left (log 40). ARM_GRAPH sets the arm record, DISARM_GRAPH
clears it. DESTROY, ARM and DISARM of a graph that is no longer the one resolved, and ARM of an armed graph or
beyond 1,024, end with check 0xA and the graphs as they were. No other graph changes. A reached target launches
an instance of the armed graph with a ring place reserved, where its parameter block is intact, and sets the
next target; an unreached one does nothing; an abandoned trigger ends the arming with a record. (R138, R139,
R140, R141, R142, R146, R147, R440, Table 7-7, Table 7-8) -/
def Obligations.GraphCommands : Prop :=
  ((∀ (s : State) (id : Nat) (c : Cmd) (g : Graph), s.runs = true → tfind s.cmds id = some c → c.started = true →
    dOp c.desc = 2 → dispatching s = true → imageFault s c = none → graphCheck s id c = .ok g →
    ∃ t, exec (.registerGraph id) s = .next t ∧ tfind t.graphs (graphKey c.ctx (dGid c.desc)) = some g ∧
      tfind t.cmds id = none ∧ ∀ k, k ≠ graphKey c.ctx (dGid c.desc) → tfind t.graphs k = tfind s.graphs k) ∧
  (∀ (s : State) (id n : Nat) (c : Cmd), s.runs = true → tfind s.cmds id = some c → c.started = true →
    dOp c.desc = 2 → dispatching s = true → imageFault s c = none → graphCheck s id c = .error n →
    ∃ t, exec (.registerGraph id) s = .next t ∧ t.graphs = s.graphs ∧ RefusedBy s t id c 9 n) ∧
  (∀ (s : State) (id : Nat) (c : Cmd) (g : Graph), s.runs = true → tfind s.cmds id = some c → c.started = true →
    dOp c.desc = 3 → dispatching s = true → c.ctx < 1024 → cmdGraph s c = some g →
    tfind s.graphs (retiredKey id) = none →
    ∃ t, exec (.destroyGraph id) s = .next t ∧ tfind t.graphs (graphKey c.ctx (dGid c.desc)) = none ∧
      (∀ k, k ≠ graphKey c.ctx (dGid c.desc) → k ≠ retiredKey id → tfind t.graphs k = tfind s.graphs k) ∧
      (gidBusy s c.ctx (dGid c.desc) = true →
        tfind t.graphs (retiredKey id) = some { g with arm := none } ∧ tfind t.cmds id = some c) ∧
      (gidBusy s c.ctx (dGid c.desc) = false → tfind t.graphs (retiredKey id) = none ∧ tfind t.cmds id = none)) ∧
  (∀ (s : State) (id : Nat) (c : Cmd), s.runs = true → tfind s.cmds id = some c → c.started = true →
    dOp c.desc = 3 → dispatching s = true → thas s.graphs (retiredKey id) = true → keyBusy s (retiredKey id) = false →
    ∃ t, exec (.destroyGraph id) s = .next t ∧ tfind t.graphs (retiredKey id) = none ∧ tfind t.cmds id = none ∧
      ∀ k, k ≠ retiredKey id → tfind t.graphs k = tfind s.graphs k) ∧
  (∀ (s : State) (id : Nat) (c : Cmd), s.runs = true → tfind s.cmds id = some c → c.started = true →
    dOp c.desc = 3 → dispatching s = true → thas s.graphs (retiredKey id) = false → cmdGraph s c = none →
    ∃ t, exec (.destroyGraph id) s = .next t ∧ t.graphs = s.graphs ∧ RefusedBy s t id c 0xA (dGid c.desc))) ∧
  ((∀ (s : State) (id : Nat) (c : Cmd) (g : Graph), s.runs = true → tfind s.cmds id = some c → c.started = true →
    dOp c.desc = 4 → dispatching s = true → cmdGraph s c = some g → g.arm = none → armedCount s < 1024 →
    ∃ t, exec (.armGraph id) s = .next t ∧ tfind t.cmds id = none ∧
      tfind t.graphs (graphKey c.ctx (dGid c.desc)) = some { g with
        arm := some { queue := c.queue, desc := c.desc, trig := dTrig c.desc, first := dFirst c.desc
                      step := BitVec.ofNat 32 (dStep c.desc), target := (dFirst c.desc).toNat, sig := c.sig } } ∧
      ∀ k, k ≠ graphKey c.ctx (dGid c.desc) → tfind t.graphs k = tfind s.graphs k) ∧
  (∀ (s : State) (id : Nat) (c : Cmd), s.runs = true → tfind s.cmds id = some c → c.started = true →
    dOp c.desc = 4 → dispatching s = true →
    (∀ g, cmdGraph s c = some g → g.arm ≠ none ∨ 1024 ≤ armedCount s) →
    ∃ t, exec (.armGraph id) s = .next t ∧ t.graphs = s.graphs ∧ RefusedBy s t id c 0xA (dGid c.desc)) ∧
  (∀ (s : State) (id : Nat) (c : Cmd) (g : Graph), s.runs = true → tfind s.cmds id = some c → c.started = true →
    dOp c.desc = 5 → dispatching s = true → cmdGraph s c = some g →
    ∃ t, exec (.disarmGraph id) s = .next t ∧ tfind t.cmds id = none ∧
      tfind t.graphs (graphKey c.ctx (dGid c.desc)) = some { g with arm := none } ∧
      ∀ k, k ≠ graphKey c.ctx (dGid c.desc) → tfind t.graphs k = tfind s.graphs k) ∧
  (∀ (s : State) (id : Nat) (c : Cmd), s.runs = true → tfind s.cmds id = some c → c.started = true →
    dOp c.desc = 5 → dispatching s = true → cmdGraph s c = none →
    ∃ t, exec (.disarmGraph id) s = .next t ∧ t.graphs = s.graphs ∧ RefusedBy s t id c 0xA (dGid c.desc)) ∧
  (∀ (s : State) (ctx gid : Nat) (g : Graph) (a : Arm), s.runs = true → dispatching s = true →
    tfind s.graphs (graphKey ctx gid) = some g → g.arm = some a → (fenceOf s a.trig).abandoned = false →
    a.target ≤ (fenceOf s a.trig).val.toNat → (ctxOf s ctx).st = .active → gidBusy s ctx gid = false →
    walkerRoom s (ctxOf s ctx).part none = true → fnOn s (ctxOf s ctx).part = true →
    placeFree (queueOf s a.queue) = true → s.mem.macBad = [] →
    ∃ t x, exec (.triggeredLaunch ctx gid) s = .next t ∧
      t = { s with insts := t.insts, orders := s.orders + 1, queues := t.queues, graphs := t.graphs, mem := t.mem } ∧
      tfind t.insts s.orders = some x ∧ (∀ i, i ≠ s.orders → tfind t.insts i = tfind s.insts i) ∧
      x.key = graphKey ctx gid ∧ x.cmd = none ∧ x.trig = some (fenceOf s a.trig).val ∧ x.queue = a.queue ∧
      x.sig = a.sig ∧ x.s = now35 s ∧ x.nodes = freshNodes g ∧ x.released = false ∧ x.fail = none ∧
      queueOf t a.queue = { queueOf s a.queue with resv := (queueOf s a.queue).resv + 1 } ∧
      tfind t.graphs (graphKey ctx gid) = some { g with
        arm := some { a with target := a.nextTarget (fenceOf s a.trig).val } } ∧
      ∀ k, k ≠ graphKey ctx gid → tfind t.graphs k = tfind s.graphs k) ∧
  (∀ (s : State) (ctx gid : Nat) (g : Graph) (a : Arm) (e : WtEntry), s.runs = true → dispatching s = true →
    tfind s.graphs (graphKey ctx gid) = some g → g.arm = some a → (ctxOf s ctx).st ≠ .teardown →
    (fenceOf s a.trig).abandoned = true → placeFree (queueOf s a.queue) = true → (queueOf s a.queue).st = .live →
    placeEntry s (queueOf s a.queue) = some e →
    ∃ t, exec (.triggeredLaunch ctx gid) s = .next t ∧ t.insts = s.insts ∧
      tfind t.graphs (graphKey ctx gid) = some { g with arm := none } ∧
      (queueOf t a.queue).recs = (queueOf s a.queue).recs + 1) ∧
  (∀ (s : State) (ctx gid : Nat) (g : Graph) (a : Arm), tfind s.graphs (graphKey ctx gid) = some g → g.arm = some a →
    (fenceOf s a.trig).abandoned = false → (fenceOf s a.trig).val.toNat < a.target →
    exec (.triggeredLaunch ctx gid) s = .next s))

/-- Launches make instances, which start, or end at a WAIT node's limit. A started LAUNCH_GRAPH whose turn at
the walker has come makes an instance of the graph it resolved to, with fresh nodes, counted in order, where the
parameter block is intact; no other instance changes. INSTANCE_START marks it placed. With every WAIT node met,
its roots become READY: those of the directory record, and where that holds 64, every node whose count is 0. An
unmet WAIT node keeps it waiting. A WAIT node whose limit passes first ends the instance, and its command with
TIMEOUT. (R141, R142, R143, R144, R145, Table 7-9) -/
def Obligations.InstanceLife : Prop :=
  (∀ (s : State) (id key : Nat) (c : Cmd) (g : Graph), s.runs = true → tfind s.cmds id = some c →
    dispatching s = true → coming s id c = true → startedGraph s c = some (key, g) →
    instBusy s key = false → fnOn s (ctxOf s c.ctx).part = true → walkerTurn s (ctxOf s c.ctx).part id c = true →
    s.mem.macBad = [] →
    ∃ t x, exec (.launchGraph id) s = .next t ∧ tfind t.insts s.orders = some x ∧
      (∀ i, i ≠ s.orders → tfind t.insts i = tfind s.insts i) ∧
      t = { s with insts := t.insts, orders := s.orders + 1, rr := t.rr, mem := t.mem } ∧
      x.key = key ∧ x.ctx = g.ctx ∧ x.cmd = some id ∧ x.queue = c.queue ∧ x.s = c.s ∧ x.sig = c.sig ∧
      x.nodes = freshNodes g ∧ x.released = false ∧ x.fail = none) ∧
  (∀ (s : State) (id : Nat) (x : Inst) (g : Graph), s.runs = true → tfind s.insts id = some x → graphOf s x = some g →
    x.released = false → partRuns s x.part = true → g.nodes.any (fun n => nType n != 5) = true →
    (∀ i, i < g.nodes.length → nType (g.nodes.getD i 0) = 5 → nodeParamFault s g (g.nodes.getD i 0) = none ∧
      ∃ f, nodeFence s g x (g.nodes.getD i 0) = some f ∧ ((x.node i).st = .done ∨
        ((fenceOf s f.1).abandoned = false ∧ fenceMet s f.1 f.2 = true))) →
    ∃ t, exec (.instanceStart id) s = .next t ∧ t = { s with insts := t.insts } ∧
      (∀ i, i ≠ id → tfind t.insts i = tfind s.insts i) ∧
      tfind t.insts id = some { x with
        placed := true, released := true, norm := if x.isFb then 0 else x.norm
        normAt := if x.isFb then now35 s else x.normAt
        nodes := x.nodes.map fun e => (e.1, if nType (g.nodes.getD e.1 0) = 5 then { e.2 with st := .done }
          else if g.roots.contains e.1 || (64 ≤ g.roots.length && e.2.ctr == 0) then { e.2 with st := .ready }
          else e.2) }) ∧
  (∀ (s : State) (id i : Nat) (x : Inst) (g : Graph) (f : Nat × W64), s.runs = true → tfind s.insts id = some x →
    graphOf s x = some g → x.released = false → partRuns s x.part = true →
    (∀ j, j < g.nodes.length → nType (g.nodes.getD j 0) = 5 → nodeParamFault s g (g.nodes.getD j 0) = none ∧
      ∃ f, nodeFence s g x (g.nodes.getD j 0) = some f ∧ ((x.node j).st = .done ∨ (fenceOf s f.1).abandoned = false)) →
    i < g.nodes.length → nType (g.nodes.getD i 0) = 5 → nodeFence s g x (g.nodes.getD i 0) = some f →
    (x.node i).st ≠ .done → fenceMet s f.1 f.2 = false →
    ∃ t y, exec (.instanceStart id) s = .next t ∧ t = { s with insts := t.insts } ∧
      (∀ j, j ≠ id → tfind t.insts j = tfind s.insts j) ∧ tfind t.insts id = some y ∧
      y.placed = true ∧ y.released = false ∧ y.node i = x.node i ∧
      ∀ j, nType (g.nodes.getD j 0) ≠ 5 → y.node j = x.node j) ∧
  (∀ (s : State) (id node k : Nat) (x : Inst) (g : Graph) (f : Nat × W64) (c : Cmd) (e : WtEntry), s.runs = true →
    tfind s.insts id = some x → graphOf s x = some g → nodeFence s g x (g.nodes.getD node 0) = some f →
    x.placed = true → x.released = false → dispatching s = true → node < g.nodes.length →
    nType (g.nodes.getD node 0) = 5 → (x.node node).st ≠ .done → nLimit (g.nodes.getD node 0) ≠ 0 →
    fenceMet s f.1 f.2 = false →
    ∃ t, exec (.waitNodeTimeout id node) s = .next t ∧ tfind t.insts id = none ∧
      (∀ j, j ≠ id → (tfind t.insts j).isSome = (tfind s.insts j).isSome) ∧
      (Memory.wf s.pb = true → x.cmd = some k → tfind s.cmds k = some c → (queueOf s c.queue).st = .live →
        placeEntry s (queueOf s c.queue) = some e → Completes s t k c e .timeout))

/-- Nodes start, signal and complete. The first READY node of a released instance starts: a KERNEL, DRAW,
COMPRESS or STEP node runs; a NOP node, or a COPY node inside both objects and off every registered image, has
nothing left but its end; a SIGNAL node signals exactly its fence without the error bit; an ALLOC node puts its
request to the allocator. A node whose parts have ended completes, and exactly its successors count down, once
for each edge. The last node of an instance ends it, and its command with OK, or FALLBACK where it is a
fallback. A completing COPY node writes the source's bytes to its destination, where both are on this chip and
intact. (R119, R143, R144, R145, Table 7-9) -/
def Obligations.NodeLife : Prop :=
  (∀ (s : State) (id i : Nat) (x : Inst) (g : Graph), s.runs = true → tfind s.insts id = some x → graphOf s x = some g →
    x.released = true → x.fail = none → firstReady x = some i → partRuns s x.part = true →
    (nType (g.nodes.getD i 0) = 1 ∨ nType (g.nodes.getD i 0) = 2 ∨ nType (g.nodes.getD i 0) = 4 ∨
      nType (g.nodes.getD i 0) = 7) →
    ∃ t, exec (.nodeStart id i) s = .next t ∧ t = { s with insts := t.insts } ∧
      (∀ j, j ≠ id → tfind t.insts j = tfind s.insts j) ∧
      tfind t.insts id = some { x with nodes := tupd x.nodes i (fun r => { r with st := .running, since := now35 s }) }) ∧
  (∀ (s : State) (id i : Nat) (x : Inst) (g : Graph) (n : BitVec 512), s.runs = true → tfind s.insts id = some x →
    graphOf s x = some g → x.released = true → x.fail = none → firstReady x = some i → partRuns s x.part = true →
    n = g.nodes.getD i 0 →
    (nType n = 0 ∨ (nType n = 3 ∧ nEntry n + nCopyLen n ≤ (heldObj s n 0).len ∧
      nCopyDst n + nCopyLen n ≤ (heldObj s n 1).len ∧
      ((heldObj s n 1).remote ≠ none ∨ imageHit s ((heldObj s n 1).base + nCopyDst n) (nCopyLen n) = false))) →
    ∃ t, exec (.nodeStart id i) s = .next t ∧ t = { s with insts := t.insts } ∧
      (∀ j, j ≠ id → tfind t.insts j = tfind s.insts j) ∧
      tfind t.insts id = some { x with
        nodes := tupd x.nodes i (fun r => { r with st := .running, since := now35 s, ended := 1 }) }) ∧
  (∀ (s : State) (id i f : Nat) (v : W64) (x : Inst) (g : Graph) (n : BitVec 512), s.runs = true →
    tfind s.insts id = some x → graphOf s x = some g → x.released = true → x.fail = none → firstReady x = some i →
    partRuns s x.part = true → n = g.nodes.getD i 0 → nType n = 6 → nodeParamFault s g n = none →
    nodeFence s g x n = some (f, v) →
    ∃ t, exec (.nodeStart id i) s = .next t ∧ t = { s with insts := t.insts, fences := t.fences } ∧
      tfind t.insts id = some { x with
        nodes := tupd x.nodes i (fun r => { r with st := .running, since := now35 s, ended := 1 }) } ∧
      fenceOf t f = (fenceOf s f).signal (domCount s 35) v false ∧ ∀ k, k ≠ f → fenceOf t k = fenceOf s k) ∧
  (∀ (s : State) (id i : Nat) (x : Inst) (g : Graph) (n : BitVec 512), s.runs = true → tfind s.insts id = some x →
    graphOf s x = some g → x.released = true → x.fail = none → firstReady x = some i → partRuns s x.part = true →
    n = g.nodes.getD i 0 → nType n = 8 → s.fly.allocs.length < 64 →
    ∃ t, exec (.nodeStart id i) s = .next t ∧ t = { s with insts := t.insts, fly := t.fly } ∧
      t.fly = { s.fly with allocs := s.fly.allocs ++ [.node id i x.ctx (nClass n) (8 * nParam n)] } ∧
      tfind t.insts id = some { x with nodes := tupd x.nodes i (fun r => { r with st := .running, since := now35 s }) }) ∧
  (∀ (s : State) (id i k : Nat) (x : Inst) (g : Graph), s.runs = true → tfind s.insts id = some x → graphOf s x = some g →
    (x.node i).st = .running → nodeNeed (g.nodes.getD i 0) ≤ (x.node i).ended → dispatching s = true →
    nType (g.nodes.getD i 0) ≠ 3 → x.fail = none → thas x.nodes k = true → k ≠ i → (x.node k).st ≠ .done →
    i ∉ succOf g.edges (g.nodes.getD i 0) →
    ∃ t y, exec (.nodeComplete id i) s = .next t ∧ t = { s with insts := t.insts } ∧
      (∀ j, j ≠ id → tfind t.insts j = tfind s.insts j) ∧ tfind t.insts id = some y ∧ (y.node i).st = .done ∧
      ∀ j, j ≠ i → thas x.nodes j = true →
        y.node j = (decNode^[(succOf g.edges (g.nodes.getD i 0)).count j]) (x.node j)) ∧
  (∀ (s : State) (id i k : Nat) (x : Inst) (g : Graph) (c : Cmd) (e : WtEntry), s.runs = true →
    tfind s.insts id = some x → graphOf s x = some g → (x.node i).st = .running →
    nodeNeed (g.nodes.getD i 0) ≤ (x.node i).ended → dispatching s = true → nType (g.nodes.getD i 0) ≠ 3 →
    x.fail = none → succOf g.edges (g.nodes.getD i 0) = [] → x.nodes.all (fun r => r.1 == i || r.2.st == .done) = true →
    ∃ t, exec (.nodeComplete id i) s = .next t ∧ tfind t.insts id = none ∧
      (Memory.wf s.pb = true → x.cmd = some k → tfind s.cmds k = some c → (queueOf s c.queue).st = .live →
        placeEntry s (queueOf s c.queue) = some e →
        Completes s t k c e (if x.isFb then .fallback else .ok))) ∧
  (∀ (s : State) (id i k : Nat) (x : Inst) (g : Graph) (n : BitVec 512) (src dst : Nat), s.runs = true →
    tfind s.insts id = some x → graphOf s x = some g → n = g.nodes.getD i 0 → (x.node i).st = .running →
    1 ≤ (x.node i).ended → dispatching s = true → nType n = 3 → x.fail = none →
    thas x.nodes k = true → k ≠ i → (x.node k).st ≠ .done → i ∉ succOf g.edges n → k ∉ succOf g.edges n →
    (heldObj s n 0).remote = none → (heldObj s n 1).remote = none → src = (heldObj s n 0).base + nEntry n →
    dst = (heldObj s n 1).base + nCopyDst n → s.mem.poison = [] → s.mem.macBad = [] →
    imageHit s dst (nCopyLen n) = false →
    ∃ t, exec (.nodeComplete id i) s = .next t ∧ t = { s with insts := t.insts, mem := t.mem } ∧
      t.mem = (dmWrite (dmTouch s (polAt s x.ctx src) src (nCopyLen n)) (polAt s x.ctx dst) dst
        (dmRead s src (nCopyLen n))).mem)

/-- A workgroup is placed on a core with a fresh first split. The next workgroup of a kernel node, or a killed
one that waits to run again, goes to a core with room: it holds the local store and counters found for it, the
counters 0 and the blocks of other contexts zero, and each of its groups starts at the kernel's entry with all
32 lanes in one READY split and no register written; no other workgroup changes. A cluster goes to the cores
found for it, one workgroup on each in rank order. A vertex or fragment group of a pass is placed likewise, at
its shader's entry, with the lanes its set-up names (log 29). (R150, R151, R152, R173, R174, R258, R303, R310)
-/
def Obligations.WorkgroupPlacement : Prop :=
  (∀ (s : State) (inst node idx core lb cb id kills : Nat) (x : Inst) (g : Graph) (r : NodeRt), s.runs = true →
    tfind s.insts inst = some x → graphOf s x = some g → tfind x.nodes node = some r → partRuns s x.part = true →
    (kernelForm g node).csize = 1 → isNext s inst x g node idx core = true →
    coreIn s x.part core = true → roomOn s core (kernelForm g node).need = some (lb, cb) →
    PlacesFor s core (kernelForm g node).need.groups →
    ((wgFind s inst node idx = none ∧ id = s.orders ∧ kills = 0) ∨
      ∃ w, wgFind s inst node idx = some (id, w) ∧ w.st = .killed ∧ w.kills = kills) →
    ∃ t w y, exec (.workgroupPlace inst node idx core none) s = .next t ∧ tfind t.wgs id = some w ∧
      w.st = .placed ∧ w.inst = inst ∧ w.node = node ∧ w.idx = idx ∧ w.core = core ∧ w.lsBase = lb ∧ w.ctrBase = cb ∧
      w.groups = (kernelForm g node).need.groups ∧ w.lsKib = (kernelForm g node).need.lsKib ∧ w.kills = kills ∧
      w.start = BitVec.ofNat 24 ((kernelForm g node).entry / 8) ∧ w.exited = 0 ∧ w.staged = 0 ∧
      (∀ j, j ≠ id → tfind t.wgs j = tfind s.wgs j) ∧
      tfind t.insts inst = some y ∧ (y.node node).st = r.st ∧
      (y.node node).placed = r.placed + (if wgFind s inst node idx = none then 1 else 0) ∧
      (∀ i, i < w.lullCtrs → tget (coreOf t core).ctrs (cb + i) 0 = 0) ∧
      (∀ a, lb * 1024 ≤ a → a < (lb + w.lsKib) * 1024 → tfind (coreOf s core).lsOwner (a / 1024) ≠ some x.ctx →
        mget (coreOf t core).ls a = 0) ∧
      ∀ gi, gi < w.groups → FreshGroup t core id gi w.start 0xFFFFFFFF) ∧
  (∀ (s : State) (inst node idx core : Nat) (x : Inst) (g : Graph) (cs : List Nat), s.runs = true →
    tfind s.insts inst = some x → graphOf s x = some g → partRuns s x.part = true →
    1 < (kernelForm g node).csize → idx % (kernelForm g node).csize = 0 → isNext s inst x g node idx core = true →
    coresFor s x.part core (kernelForm g node).csize (kernelForm g node).need = some cs →
    (∀ k, k < (kernelForm g node).csize → wgFind s inst node (idx + k) = none) →
    ∃ t, exec (.workgroupPlace inst node idx core none) s = .next t ∧
      ∀ k, k < (kernelForm g node).csize → ∃ w, tfind t.wgs (s.orders + k) = some w ∧ w.st = .placed ∧
        w.inst = inst ∧ w.node = node ∧ w.idx = idx + k ∧ w.rank = k ∧ w.cluster = idx ∧ w.core = cs.getD k 0) ∧
  (∀ (s : State) (inst node idx core : Nat) (x : Inst) (g : Graph) (r : RasSetup) (pid : Nat) (p : Pass), s.runs = true →
    tfind s.insts inst = some x → graphOf s x = some g → passOf s inst node = some (pid, p) →
    partRuns s x.part = true → coreIn s x.part core = true → (roomOn s core rasNeed).isSome = true →
    PlacesFor s core 1 → noneAhead s inst x node core = true →
    r.draw < p.draws.length → r.lanes ≠ [] → r.lanes.all (fun l => l.lane < 32) = true → (r.lanes.map (·.lane)).Nodup →
    (r.stage = .vertex ∧ vertexOk s pid p r = true ∨ r.stage = .fragment ∧ fragmentOk p core r = true) →
    s.groups.all (fun e => e.2.wg != s.orders) = true →
    ∃ t w, exec (.workgroupPlace inst node idx core (some r)) s = .next t ∧ tfind t.wgs s.orders = some w ∧
      w.st = .placed ∧ w.inst = inst ∧ w.node = node ∧ w.core = core ∧ w.ras = some r ∧
      w.start = BitVec.ofNat 24 (if r.stage = .vertex then bits (p.draw r.draw) 343 320 else bits (p.draw r.draw) 311 288) ∧
      (∀ j, j ≠ s.orders → tfind t.wgs j = tfind s.wgs j) ∧ FreshGroup t core s.orders 0 w.start (setupLanes r))

/-- Pre-emption stops, kills or drops a victim; saves and restores keep its state. A waiting workgroup without
place, of rank 16 or after 256 TCLK, takes the victims found for it (R152): direct work stops; a commit-form
cluster that has not begun to write is killed, loses its groups and waits to run again, with memory as it was; a
raster tile is dropped with its groups and queued again first, with memory as it was. What stops at once keeps
its room for as long as the direct victims of the same pre-emption. Before 256 TCLK nothing changes. A save of a
drained cluster keeps each member's counters, local store and watches, and the registers of a workgroup of one
group, and its watches leave. A restore puts the same workgroup on a core with its local store, its counters
where no watch is registered again, and the registers of one group; no other workgroup changes in either. (R151,
R152, R153, R154, R157, R265, Table 8-2) -/
def Obligations.PreemptionSaveRestore : Prop :=
  (∀ (s : State) (inst node idx core : Nat) (vs : List Victim), Preempts s inst node idx core vs →
    (∀ v ∈ vs, v.tile = none ∧ v.kind = 2) →
    ∃ t, exec (.preemption inst node idx core) s = .next t ∧ t = { s with wgs := t.wgs, cores := t.cores } ∧
      (∀ v ∈ vs, ∀ id w, id ∈ v.wgs.map (·.1) → tfind s.wgs id = some w →
        tfind t.wgs id = some { w with st := .stopping }) ∧
      ∀ id, (∀ v ∈ vs, id ∉ v.wgs.map (·.1)) → tfind t.wgs id = tfind s.wgs id) ∧
  (∀ (s : State) (inst node idx core : Nat) (v : Victim), Preempts s inst node idx core [v] →
    v.tile = none → v.kind = 1 → (v.wgs.map (·.1)).Nodup →
    (∀ e ∈ s.wgs, e.1 ∈ v.wgs.map (·.1) → e.2.writing = false) →
    ∃ t, exec (.preemption inst node idx core) s = .next t ∧ t.mem = s.mem ∧
      (∀ id w, (id, w) ∈ v.wgs → tfind t.wgs id = some { w with
        st := .killed, kills := w.kills + 1, staged := 0, commits := 0, exited := 0, hubN := 0, since := now35 s }) ∧
      (∀ e ∈ t.groups, e.2.wg ∉ v.wgs.map (·.1)) ∧
      ∀ id, id ∉ v.wgs.map (·.1) → tfind t.wgs id = tfind s.wgs id) ∧
  (∀ (s : State) (inst node idx core pid tl : Nat) (v : Victim) (p : Pass), Preempts s inst node idx core [v] →
    v.tile = some pid → v.kind = 0 → tfind s.passes pid = some p → tfind p.owners core = some tl →
    (∀ e ∈ s.wgs, e.1 ∈ v.wgs.map (·.1) → e.2.writing = false) →
    ∃ t, exec (.preemption inst node idx core) s = .next t ∧ t.mem = s.mem ∧
      (∀ id, tfind t.wgs id = if id ∈ v.wgs.map (·.1) then none else tfind s.wgs id) ∧
      (∀ k, k ≠ pid → tfind t.passes k = tfind s.passes k) ∧
      tfind t.passes pid = some { p with
        owners := tdel p.owners core, back := tl :: p.back, queue := tdel p.queue core, shaded := tdel p.shaded tl
        buf := p.buf.filter (fun e => e.1 / 5 != tl) }) ∧
  (∀ (s : State) (inst node idx core : Nat) (vs : List Victim) (v : Victim) (e : Nat × Wg), Preempts s inst node idx core vs →
    v ∈ vs → v.kind ≠ 2 → e ∈ v.wgs → e.2.core = core →
    ∃ t, exec (.preemption inst node idx core) s = .next t ∧
      (vs.any (fun u => u.kind == 2 && !u.wgs.isEmpty) = true →
        (e.2, (vs.filter (·.kind == 2)).flatMap (fun u => u.wgs.map (·.1))) ∈ (coreOf t core).held)) ∧
  (∀ (s : State) (inst node idx core : Nat) (x : Inst), tfind s.insts inst = some x → x.rank ≠ 16 →
    (now35 s - waitsSince s inst node idx x).toNat < 256 → exec (.preemption inst node idx core) s = .next s) ∧
  (∀ (s : State) (id : Nat) (w : Wg) (l : List (Nat × Wg)), s.runs = true → tfind s.wgs id = some w →
    l = (clusterOf s w).filter (·.2.st != .ended) → (l.map (·.1)).Nodup →
    l.all (fun e => e.2.st == .stopping && !wgBusy s e.1) = true →
    ∃ t, exec (.stateSaveDone id) s = .next t ∧ (∀ j, j ∉ l.map (·.1) → tfind t.wgs j = tfind s.wgs j) ∧
      ∀ j v, (j, v) ∈ l → ∃ v', tfind t.wgs j = some v' ∧ v'.st = .saved ∧
        v'.savedCtrs = (List.range v.lullCtrs).map (fun i => tget (coreOf s v.core).ctrs (v.ctrBase + i) 0) ∧
        (s.fly.traces.all (fun e => e.2.wg ∉ l.map (·.1)) = true →
          v'.savedLs = mreads (coreOf s v.core).ls (v.lsBase * 1024) (v.lsKib * 1024)) ∧
        v'.savedWatches.length = (s.fly.watches.filter (·.wg == j)).length ∧
        t.fly.watches.all (·.wg != j) = true) ∧
  (∀ (s : State) (id k : Nat) (w : Wg) (g : Group), s.runs = true → tfind s.wgs id = some w →
    (clusterOf s w).filter (·.2.st != .ended) = [(id, w)] → w.st = .stopping → wgBusy s id = false →
    s.groups.filter (·.2.wg == id) = [(k, g)] → tfind s.groups k = some g → k < 100000 →
    ∃ t g', exec (.stateSaveDone id) s = .next t ∧ tfind t.groups k = none ∧
      tfind t.groups (savedKey id g.gidx) = some g' ∧ g'.sameRegs g) ∧
  (∀ (s : State) (id core lb cb : Nat) (w : Wg) (x : Inst) (g : Graph), s.runs = true → tfind s.wgs id = some w →
    tfind s.insts w.inst = some x → graphOf s x = some g → w.st = .saved → partRuns s x.part = true →
    isNext s w.inst x g w.node w.cluster core = true → w.csize = 1 →
    (clusterOf s w).filter (·.2.st == .saved) = [(id, w)] → coreIn s x.part core = true →
    roomOn s core w.need = some (lb, cb) →
    ∃ t, exec (.restore id core) s = .next t ∧ t.orders = s.orders + 1 ∧
      tfind t.wgs id = some { w with
        core := core, lsBase := lb, ctrBase := cb, savedLs := [], savedCtrs := [], savedWatches := [], ord := s.orders
        st := if w.groups * 32 ≤ w.exited then .ended else .placed } ∧
      (∀ j, j ≠ id → tfind t.wgs j = tfind s.wgs j) ∧
      (w.savedWatches = [] → ∀ i, i < w.savedCtrs.length → tget (coreOf t core).ctrs (cb + i) 0 = w.savedCtrs.getD i 0) ∧
      (Memory.wf (coreOf s core).ls = true → ∀ i, i < w.savedLs.length →
        mget (coreOf t core).ls (lb * 1024 + i) = w.savedLs.getD i 0) ∧
      ∀ gr, w.groups = 1 → tfind s.groups (savedKey id 0) = some gr → gr.wg = id →
        ∃ k gr', tfind t.groups k = some gr' ∧ k / 64 = core ∧ gr'.wg = id ∧ gr'.sameRegs gr)

/-- Monitors are added and removed, and a check falls back in time. MON_ADD fills the lowest free entry from its
block, refuses graphs that do not qualify with BAD_GRAPH, and an illegal block with BAD_BLOCK. MON_REMOVE
removes an unused monitor at once and marks a used one, which goes when its instance ends; of an entry not in
use it fails. A check that fits the deadline does nothing; one that does not, with the fallback short enough,
turns the instance into its fallback with the same start, rank and walker place, no workgroup left, and counts
it, where the fallback's parameter block is intact; where the fallback would not be shorter it writes a record
only. (R160, R161, R162, R163, R164, R165, Table 8-4, Table 8-5, Table 8-6) -/
def Obligations.GaleMonitor : Prop :=
  (∀ (s : State) (tag : BitVec 4) (page i : Nat) (b : BitVec 256), FeReady s → s.gmCmd.busy = false → page < 8192 → writePage s page none = true → pbBad s (page * 4096) 32 = [] →
    b = BitVec.ofNat 256 (pbBlock s page 32) → bits b 191 160 < bits b 159 128 → zeroField b 127 28 = true →
    zeroField b 11 10 = true → tfirst s.mons (fun _ => false) 0 64 = some i →
    (monGraphsOk s (bits b 9 0) (bits b 19 12) (bits b 27 20) = true →
      exec (.monAdd tag page) s = .next { s with
        gmCmd := done tag.toNat .ok i
        mons := tput s.mons i { ctx := bits b 9 0, gid := bits b 19 12, fb := bits b 27 20, deadline := bits b 159 128
                                guard := bits b 191 160, win := List.replicate 8 (bits b 223 192)
                                winFb := List.replicate 8 (bits b 255 224) } }) ∧
    (monGraphsOk s (bits b 9 0) (bits b 19 12) (bits b 27 20) = false →
      exec (.monAdd tag page) s = .next { s with gmCmd := done tag.toNat .bad3 s.gmCmd.extra })) ∧
  (∀ (s : State) (tag : BitVec 4) (page : Nat) (b : BitVec 256), FeReady s → s.gmCmd.busy = false → page < 8192 →
    (writePage s page none = false ∨ (pbBad s (page * 4096) 32 = [] ∧ b = BitVec.ofNat 256 (pbBlock s page 32) ∧
      (bits b 159 128 ≤ bits b 191 160 ∨ zeroField b 127 28 = false ∨ zeroField b 11 10 = false))) →
    exec (.monAdd tag page) s = .next { s with gmCmd := done tag.toNat .badBlock s.gmCmd.extra }) ∧
  (∀ (s : State) (tag : BitVec 4) (m : Nat), FeReady s → s.gmCmd.busy = false → m < 64 → thas s.mons m = false →
    exec (.monRemove tag m) s = .next { s with gmCmd := done tag.toNat .bad3 s.gmCmd.extra }) ∧
  (∀ (s : State) (tag : BitVec 4) (m : Nat), FeReady s → s.gmCmd.busy = false → m < 64 →
    thas s.mons m = true →
    (s.insts.any (·.2.mon == some m) = false →
      exec (.monRemove tag m) s = .next { s with mons := tdel s.mons m, gmCmd := done tag.toNat .ok s.gmCmd.extra }) ∧
    (s.insts.any (·.2.mon == some m) = true →
      exec (.monRemove tag m) s = .next { s with
        mons := tupd s.mons m (fun o => { o with removing := true }), gmCmd := done tag.toNat .ok s.gmCmd.extra })) ∧
  (∀ (s : State) (m id k rem : Nat) (o : Mon) (x : Inst), s.runs = true → tfind s.mons m = some o →
    monInst s m = some (id, x) → tfind s.insts id = some x → x.isFb = false → x.fail = none → dispatching s = true →
    k = 16 - partStep s x.part → rem = winMax o.win * 16 - x.normNow s →
    ((now35 s - x.s).toNat * k + rem ≤ (o.deadline - o.guard) * k → exec (.galeCheck m) s = .next s) ∧
    ((o.deadline - o.guard) * k < (now35 s - x.s).toNat * k + rem → rem ≤ winMax o.winFb * 16 + 600 * k →
      exec (.galeCheck m) s = .next (event s 0x0030 0 6 0 0 (m + 512) (some x.ctx))) ∧
    (∀ g, (o.deadline - o.guard) * k < (now35 s - x.s).toNat * k + rem → winMax o.winFb * 16 + 600 * k < rem →
      tfind s.graphs (graphKey x.ctx o.fb) = some g → s.mem.macBad = [] →
      ∃ t y, exec (.galeCheck m) s = .next t ∧ tfind t.insts id = some y ∧ y.isFb = true ∧ y.gid = o.fb ∧
        y.s = x.s ∧ y.rank = x.rank ∧ y.placed = x.placed ∧ y.released = false ∧ y.nodes = freshNodes g ∧
        tfind t.mons m = some { o with fallbacks := o.fallbacks + 1 } ∧ t.wgs.all (fun e => e.2.inst != id) = true))

/-- JOIN, LEAVE, PAUSE, RESUME and SET_PRIO on the sequence table. JOIN makes the lowest free entry READY with
the block's fields and holds a reference on its KV object; no other entry changes. Outside a WRITE window it
fails. LEAVE frees an entry with its reference, or marks one in a step LEAVING; PAUSE, RESUME and SET_PRIO act
as the table says. On an entry that is FREE or LEAVING each fails with BAD_ENTRY and changes nothing else.
(R166, R167, R168, Table 8-9, Table 8-10, Table 8-11, Table 8-12) -/
def Obligations.SequenceCommands : Prop :=
  (∀ (s : State) (tag : BitVec 4) (page i : Nat) (b : BitVec 256) (h : Hit), FeReady s → s.sqCmd.busy = false → page < 8192 → writePage s page none = true → pbBad s (page * 4096) 32 = [] →
    b = BitVec.ofNat 256 (pbBlock s page 32) → resolve s (bits b 63 54) (bits b 191 160) true true false = some h →
    h.remote = false → (ctxOf s (bits b 63 54)).st = .active → bits b 107 88 < bits b 127 108 →
    zeroField b 255 192 = true → zeroField b 75 64 = true → zeroField b 53 0 = true →
    seqRoom s (ctxOf s (bits b 63 54)).part = true → tfirst s.seqs (fun e => e.st == .free) 0 4096 = some i →
    ∃ t e, exec (.join tag page) s = .next t ∧ t = { s with seqs := t.seqs, objs := t.objs, sqCmd := t.sqCmd } ∧
      t.sqCmd = done tag.toNat .ok i ∧ tfind t.seqs i = some e ∧ e.st = .ready ∧ e.ctx = bits b 63 54 ∧
      e.seqId = BitVec.ofNat 32 (bits b 159 128) ∧ e.maxLen = bits b 127 108 ∧ e.len = bits b 107 88 ∧
      e.model = bits b 87 80 ∧ e.prio = bits b 79 76 ∧ e.kvBase = h.base ∧
      (∀ k, k ≠ i → tfind t.seqs k = tfind s.seqs k) ∧
      (tget t.objs h.idx {}).refs = (tget s.objs h.idx {}).refs + 1) ∧
  (∀ (s : State) (tag : BitVec 4) (page : Nat), FeReady s → s.sqCmd.busy = false → page < 8192 →
    writePage s page none = false →
    exec (.join tag page) s = .next { s with sqCmd := done tag.toNat .badBlock s.sqCmd.extra }) ∧
  (∀ (s : State) (tag prio : BitVec 4) (i : Nat) (e : SeqEnt), FeReady s → s.sqCmd.busy = false → i < 4096 → tfind s.seqs i = some e → e.st ≠ .free → e.st ≠ .leaving →
    (e.st = .inStep → exec (.leave tag i) s = .next { s with
      seqs := tput s.seqs i { e with st := .leaving }, sqCmd := done tag.toNat .ok s.sqCmd.extra }) ∧
    (e.st ≠ .inStep → ∃ t, exec (.leave tag i) s = .next t ∧
      t = { s with seqs := tdel s.seqs i, objs := t.objs, sqCmd := done tag.toNat .ok s.sqCmd.extra } ∧
      tget t.objs (e.kv.toNat % 262144) {} = Obj.settle (e.kv.toNat % 262144)
        { tget s.objs (e.kv.toNat % 262144) {} with refs := (tget s.objs (e.kv.toNat % 262144) {}).refs - 1 } ∧
      ∀ k, k ≠ e.kv.toNat % 262144 → tfind t.objs k = tfind s.objs k) ∧
    exec (.pause tag i) s = .next { s with
      sqCmd := done tag.toNat .ok s.sqCmd.extra
      seqs := if e.st = .ready then tput s.seqs i { e with st := .paused }
        else if e.st = .inStep then tput s.seqs i { e with pausePend := true } else s.seqs } ∧
    exec (.resume tag i) s = .next { s with
      sqCmd := done tag.toNat .ok s.sqCmd.extra
      seqs := if e.st = .paused then tput s.seqs i { e with st := .ready } else s.seqs } ∧
    exec (.setPrio tag i prio) s = .next { s with
      sqCmd := done tag.toNat .ok s.sqCmd.extra, seqs := tput s.seqs i { e with prio := prio.toNat } }) ∧
  (∀ (s : State) (tag prio : BitVec 4) (i : Nat), FeReady s → s.sqCmd.busy = false → i < 4096 →
    (∀ e, tfind s.seqs i = some e → e.st = .free ∨ e.st = .leaving) → ∀ c ∈ [Instr.leave tag i, .pause tag i,
      .resume tag i, .setPrio tag i prio],
    exec c s = .next { s with sqCmd := done tag.toNat .bad3 s.sqCmd.extra })

/-- STEP nodes build a batch and retire it. BUILD takes the qualifying entries in order, at most as many as the
node allows, marks exactly those IN_STEP with the count of the step, and writes the work list. RETIRE applies
each item of the batch to its entry in order and leaves every other entry as it was. Each ends its node. All of
it where the list's object lies off every registered image, no line's MAC fails and, for RETIRE, no word is
poisoned. (R168, R169, R170, R171, R441, Table 8-13, Table 8-14, Table 8-15, Table 8-16) -/
def Obligations.BatchedSteps : Prop :=
  (∀ (s : State) (id node : Nat) (x : Inst) (g : Graph) (n : BitVec 512) (l : List (Nat × SeqEnt)), s.runs = true →
    tfind s.insts id = some x → graphOf s x = some g → n = g.nodes.getD node 0 → nType n = 7 → nRetire n = false →
    (x.node node).st = .running → (x.node node).ended = 0 → thas x.nodes node = true → dispatching s = true →
    tabWf s.seqs = true → l = taken (qualify s x.ctx n) n → s.mem.macBad = [] →
    imageHit s (heldObj s n 0).base (64 + 32 * l.length) = false →
    ∃ t y, exec (.build id node) s = .next t ∧ tfind t.insts id = some y ∧ (y.node node).ended = 1 ∧
      y.built = x.built ++ l.map (fun e => (nHandle n 0, e.1)) ∧
      (∀ e ∈ l, tfind t.seqs e.1 = some { e.2 with st := .inStep, lastStep := now35 s }) ∧
      (∀ k, k ∉ l.map (·.1) → tfind t.seqs k = tfind s.seqs k) ∧ l.length ≤ nItems n ∧
      t.mem = (dmWrite s (polAt s x.ctx (heldObj s n 0).base) (heldObj s n 0).base
        (listHeader s n l ((qualify s x.ctx n).length - l.length) ++ l.flatMap itemBytes)).mem) ∧
  (∀ (s : State) (id node : Nat) (x : Inst) (g : Graph) (n : BitVec 512) (l : List Nat), s.runs = true →
    tfind s.insts id = some x → graphOf s x = some g → n = g.nodes.getD node 0 → nType n = 7 → nRetire n = true →
    (x.node node).st = .running → (x.node node).ended = 0 → thas x.nodes node = true → dispatching s = true →
    l = (x.built.filter (fun b => b.1 == nHandle n 0 && (tfind s.seqs b.2).any (fun e => e.model == nModel n))).map (·.2) →
    l.Nodup → s.mem.poison = [] → s.mem.macBad = [] →
    imageHit s (heldObj s n 0).base (64 + 40 * l.length) = false →
    ∃ t y, exec (.retire id node) s = .next t ∧ tfind t.insts id = some y ∧ (y.node node).ended = 1 ∧
      (∀ k, k ∉ l → tfind t.seqs k = tfind s.seqs k) ∧
      ∀ j e, j < l.length → tfind s.seqs (l.getD j 0) = some e →
        tfind t.seqs (l.getD j 0) =
          (match retireEntry e (BitVec.ofNat 256 (dmNum s ((heldObj s n 0).base + 64 + 32 * j) 32)) with
          | .inl e' => some e'
          | .inr _ => none))

/-- bra: no lane, all lanes, some lanes, with and without splits. A bra taken by no lane falls through; one
taken by all goes to its target, with rot set where it is a spin-marked back-edge of a split that is pinned, has
a callback trace or may not split. A spin-marked back-edge of another divides as R186 says, or stalls where all
four split places are taken. A diverging bra that may divide makes the new split, and the group settles; for a
group of one split with an empty stack that is a second split and a SPLIT entry, or a SERIAL entry in a kernel
without splits, of a pinned split or of one with a callback trace. Beyond the group, only what issuing and
fetching change does. (R175, R176, R179, R186, R203, R204) -/
def Obligations.Branches : Prop :=
  ∀ (s : State) (sp : SplitRef) (w : IWord) (i : Iss), Issues s sp w .b i → wOp w = 0x200 → wL w = true →
    depends s i (guardRead w) = false → pcInside i.w (braTarget w).toNat = true →
    (wCtlBit w 0 = true → (braTarget w).toNat ≤ i.x.pc.toNat ∧ pcInside i.w (braRj w).toNat = true) →
    (i.lanes = 0 → ∃ t, exec (.bra sp w) s = .next t ∧ IssueOnly s t i ∧
      tfind t.groups i.key = some (i.moved s id (nextPc i))) ∧
    (i.lanes = i.x.mask → i.lanes ≠ 0 → wCtlBit w 0 = false → ∃ t, exec (.bra sp w) s = .next t ∧ IssueOnly s t i ∧
      tfind t.groups i.key = some (i.moved s id (braTarget w))) ∧
    (i.lanes = i.x.mask → i.lanes ≠ 0 → wCtlBit w 0 = true → (i.x.pin || i.x.cb.isSome || i.g.nosplit) = true →
      ∃ t, exec (.bra sp w) s = .next t ∧ IssueOnly s t i ∧
      tfind t.groups i.key = some (i.settled s ((goPc (coreNow s sp.core) (i.grp s) sp.sid (braTarget w)).modSplit sp.sid
        (fun x => { x with rot := true })))) ∧
    (∀ g, i.lanes ≠ 0 → wCtlBit w 0 = true → i.x.pin = false → i.x.cb = none → i.g.nosplit = false →
      (i.grp s).splits.length < 4 →
      spinBranch (coreNow s sp.core) { i with g := i.grp s, x := i.at_ s i.x.pc } (i.grp s) i.lanes = some g →
      (i.lanes ≠ i.x.mask → rpcOk i.w (braRpc w) = true) →
      ∃ t, exec (.bra sp w) s = .next t ∧ IssueOnly s t i ∧ tfind t.groups i.key = some (i.settled s g)) ∧
    (i.lanes ≠ 0 → wCtlBit w 0 = true → i.x.pin = false → i.x.cb = none → i.g.nosplit = false →
      4 ≤ (i.grp s).splits.length →
      (i.lanes ≠ i.x.mask → rpcOk i.w (braRpc w) = true) →
      ∃ t, exec (.bra sp w) s = .next t ∧ IssueOnly s t i ∧ tfind t.groups i.key = some ((i.grp s).modSplit sp.sid
        (fun x => { x with st := .stalled, why := .splitPlace, rot := i.x.rot }))) ∧
    (∀ g n, i.lanes ≠ i.x.mask → i.lanes ≠ 0 → wCtlBit w 0 = false → mayDivide (i.grp s) i.x = true →
      rpcOk i.w (braRpc w) = true →
      divide (coreNow s sp.core) (i.grp s) sp.sid i.lanes (braTarget w) (nextPc i) (braRpc w) 1 .ready .none = some (g, n) →
      ∃ t, exec (.bra sp w) s = .next t ∧ IssueOnly s t i ∧ tfind t.groups i.key = some (i.settled s
        (arrive (coreNow s sp.core) 40 (arrive (coreNow s sp.core) 40 g sp.sid) n))) ∧
    (i.lone → i.x.top = 0 →
      i.moved s id (nextPc i) = { i.g with splits := [(sp.sid, i.at_ s (nextPc i))] } ∧
      (i.moved s id (braTarget w) = { i.g with splits := [(sp.sid, i.at_ s (braTarget w))] }) ∧
      (i.lanes = i.x.mask → i.lanes ≠ 0 → wCtlBit w 0 = true → ∃ t, exec (.bra sp w) s = .next t ∧ IssueOnly s t i ∧
        tfind t.groups i.key = some { i.g with splits := [(sp.sid, { i.at_ s (braTarget w) with rot := true })] }) ∧
      (i.lanes ≠ i.x.mask → i.lanes ≠ 0 → wCtlBit w 0 = false → i.x.pin = false → i.x.cb = none →
        i.g.nosplit = false → sp.sid = 0 →
        rpcOk i.w (braRpc w) = true → braRpc w ≠ braTarget w → braRpc w ≠ nextPc i → braTarget w ≠ nextPc i →
        ∃ t, exec (.bra sp w) s = .next t ∧ IssueOnly s t i ∧
          tfind t.groups i.key = some { i.g with
            stack := [(1, { isSplit := true, owner := 0, rpc := braRpc w, alt := 0, mask := i.x.mask, below := 0 })]
            splits := [
              (0, { i.at_ s (nextPc i) with
                level := 1, top := 1, origin := 1, rpc := braRpc w, mask := i.x.mask &&& ~~~i.lanes }),
              (1, { st := .ready, level := 1, top := 1, origin := 1, rpc := braRpc w, pc := braTarget w, mask := i.lanes
                    readyAt := coreNow s sp.core })] }) ∧
      (i.lanes ≠ i.x.mask → i.lanes ≠ 0 → wCtlBit w 0 = false → (i.g.nosplit || i.x.cb.isSome || i.x.pin) = true →
        rpcOk i.w (braRpc w) = true → braRpc w ≠ nextPc i →
        ∃ t, exec (.bra sp w) s = .next t ∧ IssueOnly s t i ∧
          tfind t.groups i.key = some { i.g with
            stack := [(1, { isSplit := false, owner := sp.sid, rpc := braRpc w, alt := braTarget w, mask := i.lanes
                            below := 0 })]
            splits := [(sp.sid, { i.at_ s (nextPc i) with top := 1, mask := i.x.mask &&& ~~~i.lanes })] }))

/-- rejoin, yield, pin, unpin, split and promotion. rejoin, yield, pin and unpin move their split on by one word
with the change each names, and the group settles; a group of one split with an empty stack has nothing to
settle. split parts the active lanes by a predicate, where both parts have lanes and the split may divide, into
two READY splits with one reconvergence point, and else only moves on. Beyond the group, only what issuing and
fetching change does. A promotion of a group at its limit of 1,024 restarts the count and marks its longest-
waiting READY split, once; below the limit nothing changes. (R176, R179, R180, R182, R185, R203, R205) -/
def Obligations.SplitControl : Prop :=
  (∀ (s : State) (sp : SplitRef) (w : IWord) (i : Iss),
    (Issues s sp w .none i → wOp w = 0x203 → ∃ t, exec (.rejoin sp w) s = .next t ∧ IssueOnly s t i ∧
      tfind t.groups i.key = some (i.moved s id (nextPc i))) ∧
    (Issues s sp w .none i → wOp w = 0x204 → ∃ t, exec (.yield sp w) s = .next t ∧ IssueOnly s t i ∧
      tfind t.groups i.key = some (i.moved s (fun x => { x with rot := true }) (nextPc i))) ∧
    (Issues s sp w .none i → wOp w = 0x205 → ∃ t, exec (.pin sp w) s = .next t ∧ IssueOnly s t i ∧
      tfind t.groups i.key = some (i.moved s (fun x => { x with pin := true }) (nextPc i))) ∧
    (Issues s sp w .none i → wOp w = 0x206 → ∃ t, exec (.unpin sp w) s = .next t ∧ IssueOnly s t i ∧
      tfind t.groups i.key = some (i.moved s (fun x => { x with pin := false }) (nextPc i))) ∧
    (∀ f pc, i.lone →
      i.moved s f pc = { i.g with splits := [(i.sp.sid, { f (i.at_ s i.x.pc) with pc := pc })] }) ∧
    (Issues s sp w .b i → wOp w = 0x202 → wL w = true → wA w < 16 → pcInside i.w (braRpc w).toNat = true →
      depends s i [.p (wA w)] = false →
      ((i.x.mask &&& readP i.g (wA w) = 0 ∨ i.x.mask &&& readP i.g (wA w) = i.x.mask ∨ mayDivide (i.grp s) i.x = false) →
        ∃ t, exec (.split sp w) s = .next t ∧ IssueOnly s t i ∧
          tfind t.groups i.key = some (i.moved s id (nextPc i))) ∧
      (∀ g n, i.x.mask &&& readP i.g (wA w) ≠ 0 → i.x.mask &&& readP i.g (wA w) ≠ i.x.mask →
        mayDivide (i.grp s) i.x = true → divide (coreNow s sp.core) (i.grp s) sp.sid (i.x.mask &&& readP i.g (wA w))
          (nextPc i) (nextPc i) (braRpc w) 1 .ready .none = some (g, n) →
        ∃ t, exec (.split sp w) s = .next t ∧ IssueOnly s t i ∧ tfind t.groups i.key = some (i.settled s
          (arrive (coreNow s sp.core) 40 (arrive (coreNow s sp.core) 40 g sp.sid) n))) ∧
      (i.lone → i.x.top = 0 → i.x.mask &&& readP i.g (wA w) ≠ 0 → i.x.mask &&& readP i.g (wA w) ≠ i.x.mask →
        i.x.pin = false → i.x.cb = none → i.g.nosplit = false → sp.sid = 0 → braRpc w ≠ nextPc i →
        ∃ t x y, exec (.split sp w) s = .next t ∧ IssueOnly s t i ∧ tfind t.groups i.key = some { i.g with
            stack := [(1, { isSplit := true, owner := 0, rpc := braRpc w, alt := 0, mask := i.x.mask, below := 0 })]
            splits := [(0, x), (1, y)] } ∧
          x.mask = i.x.mask &&& ~~~(i.x.mask &&& readP i.g (wA w)) ∧ y.mask = i.x.mask &&& readP i.g (wA w) ∧
          x.pc = nextPc i ∧ y.pc = nextPc i ∧ x.rpc = braRpc w ∧ y.rpc = braRpc w ∧ x.st = .ready ∧ y.st = .ready))) ∧
  (∀ (s : State) (core cpart place sid p : Nat) (g : Group) (x : Split), s.runs = true →
    tfind s.groups (groupKey core cpart place) = some g → longestReady g = some (sid, x) →
    nprog s core g = 1024 → p = groupKey core cpart place % 64 * 4 + sid →
    ∃ t, exec (.splitPromote core cpart place) s = .next t ∧ t = { s with groups := t.groups, cores := t.cores } ∧
      tfind t.groups (groupKey core cpart place) = some { g with nprogAt := coreNow s core } ∧
      (coreOf t core).promoted = (if p ∈ (coreOf s core).promoted then (coreOf s core).promoted
        else (coreOf s core).promoted ++ [p])) ∧
  (∀ (s : State) (core cpart place : Nat) (g : Group), tfind s.groups (groupKey core cpart place) = some g →
    nprog s core g ≠ 1024 → exec (.splitPromote core cpart place) s = .next s)

/-- exit ends threads, groups, workgroups. exit by no lane moves on. exit adds the active lanes to its group's
exited ones and counts them in its workgroup and no other, and leaves the registers; the one split of a group
goes on with the lanes left, or is gone with the last. When the last thread of a KERNEL node's workgroup exits,
none of its groups is left, the workgroup is gone where it is its whole cluster, and its node, and no other of
the instance, counts one more ended part. (R176, R180, R182, R192, R204) -/
def Obligations.ThreadEnd : Prop :=
  ∀ (s : State) (sp : SplitRef) (w : IWord) (i : Iss), Issues s sp w .none i → wOp w = 0x201 →
    depends s i (guardRead w) = false →
    (i.lanes = 0 → ∃ t, exec (.exit sp w) s = .next t ∧ IssueOnly s t i ∧
      tfind t.groups i.key = some (i.moved s id (nextPc i))) ∧
    (i.lanes ≠ 0 → i.w.exited + popcount i.lanes 32 < i.w.groups * 32 →
      ∃ t g v, exec (.exit sp w) s = .next t ∧ tfind t.groups i.key = some g ∧ g.exited = i.g.exited ||| i.lanes ∧
        g.sameRegs i.g ∧ tfind t.wgs i.id = some v ∧ v.exited = i.w.exited + popcount i.lanes 32 ∧ v.st = .placed ∧
        (∀ j, j ≠ i.id → (tfind t.wgs j).map (·.exited) = (tfind s.wgs j).map (·.exited)) ∧
        (i.lone → i.x.top = 0 → i.lanes ≠ i.x.mask → g.splits =
          [(sp.sid, { i.at_ s (nextPc i) with mask := i.x.mask &&& ~~~i.lanes, pin := false })]) ∧
        (i.lone → i.x.top = 0 → i.lanes = i.x.mask → g.splits = [])) ∧
    (i.lanes ≠ 0 → i.w.groups * 32 ≤ i.w.exited + popcount i.lanes 32 → i.w.ras = none →
      ∃ t, exec (.exit sp w) s = .next t ∧ (∀ e ∈ t.groups, e.2.wg ≠ i.id) ∧
        (clusterOf s i.w = [(i.id, i.w)] → tfind t.wgs i.id = none) ∧
        ∀ x r, tfind s.insts i.w.inst = some x → tfind x.nodes i.w.node = some r →
          ∃ y, tfind t.insts i.w.inst = some y ∧ (y.node i.w.node).ended = r.ended + 1 ∧
            ∀ k, k ≠ i.w.node → y.node k = x.node k)

/-- Lane-wise operations, compares and immediates. An ordinary instruction of classes 0 to 5 whose fields are
legal and whose registers nothing in flight will write runs: element-wise operations write in each executing
lane what Table 10-9 computes from its operands, compares, predicate logic and votes their bits, select,
shuffle, broadcast and ballot theirs, addc64 a pair of registers, a move its immediate. A scalar destination
takes what the lowest executing lane gives; with none nothing is written. No other register, accumulator or
group changes. Function numbers, the scalar destination's lane and where an immediate stands are log 10's.
(R196, R199, R201, R203, R243, R244, R245, R247, Table 10-4, Table 10-7, Table 10-9) -/
def Obligations.Arithmetic : Prop :=
  (∀ (s : State) (sp : SplitRef) (op : AluOp) (d : Dst) (w : IWord) (i : Iss) (ls : List Nat), Issues s sp w .i i →
    aluClassIs op (wOp w) = true → aluFmtOk op w = true → immOk w = true → dstOk i d = true → ls = laneList i.lanes →
    (op.elementwise = true → d ≠ .predicate → (∀ k ∈ aluFields op w, srcOk i k = true) →
      depends s i (guardRead w ++ ((aluFields op w).flatMap (srcRegs i · ls) ++ dstRegs i d ls)) = false →
      RunsOn s (.alu sp op d w) i (Receives i · d (wD w) (fun l => laneOp op w (srcVal i ((aluFields op w).getD 0 2) l)
        (srcVal i ((aluFields op w).getD 1 2) l) (srcVal i ((aluFields op w).getD 2 2) l)))) ∧
    (∀ r int32, op = .cmp r int32 → d = .predicate → srcOk i 0 = true → srcOk i (if wL w then 2 else 1) = true →
      depends s i (guardRead w ++ (srcRegs i 0 ls ++ srcRegs i (if wL w then 2 else 1) ls ++ [.p (wD w)])) = false →
      RunsOn s (.alu sp op d w) i (Decides i · (wD w) (fun l =>
        laneCompare r int32 w (srcVal i 0 l) (srcVal i (if wL w then 2 else 1) l)))) ∧
    (op = .select → d ≠ .predicate → srcOk i 0 = true → srcOk i 1 = true → (wL w = false → wC w < 16) →
      depends s i (guardRead w ++ ((if wL w then [] else [.p (wC w)]) ++ srcRegs i 0 ls ++ srcRegs i 1 ls ++
        dstRegs i d ls)) = false →
      RunsOn s (.alu sp op d w) i (Receives i · d (wD w) (fun l =>
        if (predSrc i (wL w) (wC w)).getLsbD l then srcVal i 0 l else srcVal i 1 l))) ∧
    (∀ f : Bool → Bool → Bool, (op, f) ∈ [(AluOp.pand, and), (.por, or), (.pxor, xor)] → d = .predicate →
      wA w < 16 → (wL w = false → wB w < 16) →
      depends s i (guardRead w ++ (.p (wD w) :: .p (wA w) :: (if wL w then [] else [.p (wB w)]))) = false →
      RunsOn s (.alu sp op d w) i (Decides i · (wD w) (fun l =>
        f ((readP i.g (wA w)).getLsbD l) ((predSrc i (wL w) (wB w)).getLsbD l)))) ∧
    (op = .pnot → d = .predicate → (wL w = false → wA w < 16) →
      depends s i (guardRead w ++ (.p (wD w) :: (if wL w then [] else [.p (wA w)]))) = false →
      RunsOn s (.alu sp op d w) i (Decides i · (wD w) (fun l => !(predSrc i (wL w) (wA w)).getLsbD l))) ∧
    (op = .shuffle ∨ op = .broadcast → d ≠ .predicate → wKind w 0 = false → wA w < i.w.vregs →
      srcOk i (if wL w then 2 else 1) = true →
      depends s i (guardRead w ++ (vRegs (wA w) (List.range 32) ++ srcRegs i (if wL w then 2 else 1) ls ++
        dstRegs i d ls)) = false →
      RunsOn s (.alu sp op d w) i (Receives i · d (wD w) (fun l => readV i.g (wA w)
        ((srcVal i (if wL w then 2 else 1) (if op = .broadcast then scalarLane i.lanes else l)).toNat % 32)))) ∧
    (∀ m : W32, op = .voteAny ∨ op = .voteAll ∨ op = .ballot → m = predSrc i (wL w) (wA w) &&& i.lanes →
      (wL w = false → wA w < 16) →
      depends s i (guardRead w ++ ((if wL w then [] else [.p (wA w)]) ++ dstRegs i d ls)) = false →
      RunsOn s (.alu sp op d w) i (fun g =>
        (d = .predicate → Decides i g (wD w) (fun l => if op = .voteAny then m != 0 else if op = .voteAll then
          m == i.lanes else m.getLsbD l)) ∧
        (d ≠ .predicate → Receives i g d (wD w) (fun _ => if op = .voteAny then (if m = 0 then 0 else 1) else
          if op = .voteAll then (if m = i.lanes then 1 else 0) else m))))) ∧
  (∀ (s : State) (sp : SplitRef) (d : Dst) (w : IWord) (i : Iss) (ls : List Nat) (x y v : Nat → Nat), Issues s sp w .i i →
    aluClassIs .addc64 (wOp w) = true → aluFmtOk .addc64 w = true → immOk w = true → d ≠ .predicate →
    ls = laneList i.lanes → wA w % 2 = 0 → wD w % 2 = 0 → (wL w = false → wB w % 2 = 0) →
    (if wKind w 0 then wA w < 64 else wA w + 2 ≤ i.w.vregs) →
    (wL w = false → if wKind w 1 then wB w < 64 else wB w + 2 ≤ i.w.vregs) →
    (if d = .scalar then wD w < 64 else wD w + 2 ≤ i.w.vregs) →
    depends s i (guardRead w ++
      ((if wKind w 0 then [.s (wA w), .s (wA w + 1)] else vRegs (wA w) ls ++ vRegs (wA w + 1) ls) ++
      (if wL w then [] else if wKind w 1 then [.s (wB w), .s (wB w + 1)] else vRegs (wB w) ls ++ vRegs (wB w + 1) ls) ++
      (if d = .scalar then [.s (wD w), .s (wD w + 1)] else vRegs (wD w) ls ++ vRegs (wD w + 1) ls))) = false →
    (∀ l, x l = if wKind w 0 then (readS i.g (wA w)).toNat + (readS i.g (wA w + 1)).toNat * 2 ^ 32 else
      (readV i.g (wA w) l).toNat + 2 ^ 32 * (readV i.g (wA w + 1) l).toNat) →
    (∀ l, y l = if wL w then (wImm w).toNat else if wKind w 1 then
      (readS i.g (wB w)).toNat + (readS i.g (wB w + 1)).toNat * 2 ^ 32 else
      (readV i.g (wB w) l).toNat + 2 ^ 32 * (readV i.g (wB w + 1) l).toNat) →
    (∀ l, v l = (x l + y l) % 2 ^ 64) →
    RunsOn s (.alu sp .addc64 d w) i (fun g =>
      (d = .vector → RegsAre i g (fun _ => none) (fun _ _ => none) (fun n l => if i.lanes.getLsbD l = false then none else
        if n = wD w then some (BitVec.ofNat 32 (v l)) else if n = wD w + 1 then some (BitVec.ofNat 32 (v l / 2 ^ 32))
        else none)) ∧
      (d = .scalar → RegsAre i g (fun n => if i.lanes = 0 then none else
        if n = wD w then some (BitVec.ofNat 32 (v (scalarLane i.lanes))) else
        if n = wD w + 1 then some (BitVec.ofNat 32 (v (scalarLane i.lanes) / 2 ^ 32)) else none)
        (fun _ _ => none) (fun _ _ => none)))) ∧
  (∀ (s : State) (sp : SplitRef) (wide : Bool) (d : Dst) (w : IWord) (i : Iss) (ls : List Nat), Issues s sp w .i i →
    aluClassIs (.movImm wide) (wOp w) = true → aluFmtOk (.movImm wide) w = true → wL w = true → d ≠ .predicate →
    dstOk i d = true → (if wide then wD w % 2 = 0 ∧ (d = .vector → wD w + 2 ≤ i.w.vregs) else w1Bits w 127 96 = 0) →
    ls = laneList i.lanes →
    depends s i (guardRead w ++ (dstRegs i d ls ++ (if wide then
      (if d = .scalar then [.s (wD w + 1)] else vRegs (wD w + 1) ls) else []))) = false →
    RunsOn s (.alu sp (.movImm wide) d w) i (fun g =>
      (wide = false → Receives i g d (wD w) (fun _ => BitVec.ofNat 32 (w1Bits w 95 64))) ∧
      (wide = true → d = .vector → RegsAre i g (fun _ => none) (fun _ _ => none) (fun n l =>
        if i.lanes.getLsbD l = false then none else if n = wD w then some (BitVec.ofNat 32 (w1Bits w 95 64)) else
        if n = wD w + 1 then some (BitVec.ofNat 32 (w1Bits w 127 96)) else none)) ∧
      (wide = true → d = .scalar → RegsAre i g (fun n => if i.lanes = 0 then none else
        if n = wD w then some (BitVec.ofNat 32 (w1Bits w 95 64)) else
        if n = wD w + 1 then some (BitVec.ofNat 32 (w1Bits w 127 96)) else none) (fun _ _ => none) (fun _ _ => none))))

/-- cvt and sv. cvt writes the converted element into its place of the destination in each executing lane and
keeps the other elements, under a scale that is given, or is found from the executing lanes and written to its
scalar register. sv writes the lane number to each active lane, or its value to a scalar or an aligned pair. No
other register, accumulator or group changes. (R215, R248, R249, R250, Table 12-6, Table 12-7) -/
def Obligations.ConvertAndSystemValues : Prop :=
  (∀ (s : State) (sp : SplitRef) (w : IWord) (i : Iss) (e : Nat → Nat) (sc : Nat), Issues s sp w .i i → wOp w = 0x080 →
    cvtOk i = true →
    depends s i (guardRead w ++ (vRegs (wA w) (laneList i.lanes) ++ vRegs (wD w) (laneList i.lanes) ++
      (if cvtMx w then [.s (wB w)] else []))) = false →
    (∀ l, e l = elemAt (cvtSfmt w) (cvtPs w) (readV i.g (wA w) l).toNat) →
    sc = (if cvtGiven w then bits (readS i.g (wB w)) 7 0
      else blockScale (wFmt w) ((laneList i.lanes).map (fun l => fpDecode (cvtSfmt w) (e l)))) →
    RunsOn s (.cvt sp w) i (RegsAre i ·
      (fun n => if n = wB w ∧ cvtMx w = true ∧ cvtGiven w = false ∧ i.lanes ≠ 0 then some (BitVec.ofNat 32 sc) else none)
      (fun _ _ => none)
      (fun n l => if n = wD w ∧ i.lanes.getLsbD l = true then
        some (BitVec.ofNat 32 (elemPut (wFmt w) (cvtPt w) (readV i.g n l).toNat
          (if cvtMx w then scaledElem (wFmt w) (wRm w) sc (fpDecode (cvtSfmt w) (e l))
            else convert (cvtSfmt w) (wFmt w) (wRm w) (e l)))) else none))) ∧
  (∀ (s : State) (sp : SplitRef) (w : IWord) (i : Iss), Issues s sp w .none i → wOp w = 0x3C1 →
    (wCtl w = 0 → wD w < i.w.vregs → depends s i (vRegs (wD w) (laneList i.x.mask)) = false →
      RunsOn s (.sv sp w) i (RegsAre i · (fun _ => none) (fun _ _ => none)
        (fun n l => if n = wD w ∧ i.x.mask.getLsbD l = true then some (BitVec.ofNat 32 l) else none))) ∧
    (∀ v, 1 ≤ wCtl w → wCtl w ≤ 9 → svVal s i (wCtl w) = (v, false) → wD w < 64 → depends s i [.s (wD w)] = false →
      RunsOn s (.sv sp w) i (RegsAre i · (fun n => if n = wD w then some (BitVec.ofNat 32 v) else none)
        (fun _ _ => none) (fun _ _ => none))) ∧
    (∀ v, 1 ≤ wCtl w → wCtl w ≤ 9 → svVal s i (wCtl w) = (v, true) → wD w < 64 → wD w % 2 = 0 →
      depends s i [.s (wD w), .s (wD w + 1)] = false →
      RunsOn s (.sv sp w) i (RegsAre i · (fun n => if n = wD w then some (BitVec.ofNat 32 v)
        else if n = wD w + 1 then some (BitVec.ofNat 32 (v / 2 ^ 32)) else none) (fun _ _ => none) (fun _ _ => none))))

/-- Loads are issued, split at a miss, and complete. A legal load whose registers nothing in flight writes and
that no acquire holds back, permitted, without memory error and with miss places free, is put under way with the
bytes its lanes read and moves on; no register changes yet. With at least 8 lanes that hit and one that misses,
a splittable one divides: the hits go on, the rest waits for its own completion. With no lane it only moves on.
LOAD_COMPLETE writes the registers, empties the core's L1 data after an acquire, ends the load, and its group's
waiting split is READY. No other group's registers change. (R106, R179, R188, R203, R286, R287, Table 10-7) -/
def Obligations.Loads : Prop :=
  (∀ (s u : State) (sp : SplitRef) (d : Dst) (w : IWord) (i j : Iss) (n : Nat) (ls : List Nat), Issues s sp w .l i →
    u = issueState s i (d != .scalar) → j = issueIss s i → wOp w = 0x180 → n = mBytes w → d ≠ .predicate →
    ls = (if d = .scalar then (laneList i.lanes).take 1 else laneList i.lanes) → addrOk i = true →
    runOk i (d == .scalar) (wD w) (mRegs n) = true →
    (mSplit w = true → wL w = true ∧ pcInside i.w (w1Bits w 119 96) = true) →
    (mSplit w = false → wL w = true → w1Bits w 119 96 = 0) →
    depends s i (guardRead w ++ addrRegs i ls ++ loadDst d w ls) = false → mustWait s i = false →
    (ls = [] → RunsOn s (.load sp d w) i (RegsAre i · (fun _ => none) (fun _ _ => none) (fun _ _ => none))) ∧
    (ls ≠ [] → refusedLane u j ls n [.rd] = none →
      (mLocal w = false → missRoom u sp.core (missLines u j ls n) = true ∧
        ls.findSome? (fun l => loadFault u sp.core (polAt u i.w.ctx (laneAddr j l).toNat) (laneAddr j l).toNat n) = none) →
      (loadSplits u j ls n = none →
        ∃ t, exec (.load sp d w) s = .next t ∧ LsuOnly s t i ∧ Moves s t i ∧ (mLocal w = true → t.mem = u.mem) ∧
          t = { s with groups := t.groups, cores := t.cores, mem := t.mem, fly := { s.fly with
            nextId := s.fly.nextId + 1
            loads := tput s.fly.loads s.fly.nextId { grp := i.key, sid := sp.sid, writes := loadWrites u j d ls n
                                                     acquire := mAcquire w, wg := i.id, move := false
                                                     lines := missLines u j ls n, lanes := i.x.mask } } }) ∧
      (∀ hs ms, loadSplits u j ls n = some (hs, ms) →
        ∃ t, exec (.load sp d w) s = .next t ∧ LsuOnly s t i ∧
          t = { s with groups := t.groups, cores := t.cores, mem := t.mem, fly := { s.fly with
            nextId := s.fly.nextId + 2
            loads := tput (tput s.fly.loads s.fly.nextId { grp := i.key, sid := sp.sid, writes := loadWrites u j d hs n
                                                           acquire := mAcquire w, wg := i.id, move := false
                                                           lines := [], lanes := i.x.mask })
              (s.fly.nextId + 1) { grp := i.key, sid := sp.sid, writes := loadWrites u j d ms n
                                   acquire := mAcquire w, wg := i.id, move := false
                                   lines := missLines u j ms n, lanes := i.x.mask } } } ∧
          (∀ g k, divide (coreNow s sp.core) (i.grp s) sp.sid (maskOf ms) (nextPc i) (nextPc i)
              (BitVec.ofNat 24 (w1Bits w 119 96)) 2 .stalled (.loadWait (s.fly.nextId + 1)) = some (g, k) →
            tfind t.groups i.key = some (i.settled s (arrive (coreNow s sp.core) 40 g sp.sid))) ∧
          (i.lone → i.x.top = 0 → sp.sid = 0 → BitVec.ofNat 24 (w1Bits w 119 96) ≠ nextPc i →
            ∃ g x y, tfind t.groups i.key = some g ∧ g.sameRegs i.g ∧ g.splits = [(0, x), (1, y)] ∧ x.st = .ready ∧
              x.pc = nextPc i ∧ x.mask = i.x.mask &&& ~~~(maskOf ms) ∧ y.st = .stalled ∧
              y.why = .loadWait (s.fly.nextId + 1) ∧ y.pc = nextPc i ∧ y.mask = maskOf ms)))) ∧
  (∀ (s : State) (id : Nat) (o : OutLoad) (g : Group), s.runs = true → tfind s.fly.loads id = some o → o.amov = none →
    tfind s.groups o.grp = some g →
    ∃ t h, exec (.loadComplete id) s = .next t ∧ tfind t.groups o.grp = some h ∧ h.sameRegs (writeRegs g o.writes) ∧
      t = { s with groups := t.groups, cores := t.cores, fly := { s.fly with loads := tdel s.fly.loads id } } ∧
      (o.acquire = true → t.cores = (l1Flash s (o.grp / 64)).cores ∧ (coreOf t (o.grp / 64)).l1 = []) ∧
      (o.acquire = false → t.cores = s.cores) ∧
      (∀ k x, g.stack = [] → g.splits = [(k, x)] → x.st = .stalled →
        x.why = .result ∨ x.why = .orderWait ∨ x.why = .loadWait id →
        h.stack = [] ∧ h.splits = [(k, x.toReady (coreNow s (o.grp / 64)))]) ∧
      ∀ k y, k ≠ o.grp → tfind s.groups k = some y → ∃ z, tfind t.groups k = some z ∧ z.sameRegs y ∧ (o.lines = [] → z = y))

/-- Stores and atomics change exactly the bytes they address. A legal, permitted store writes its lanes' bytes
in order to device memory or to the local store they address, and no other byte of a memory no cache stands
before; an acquire store then empties the core's L1 data. In a commit-form kernel it appends one entry for each
16-byte unit to the staged-write area of the local store and leaves memory alone. An atomic replaces each lane's
word by the new value, in increasing order of lanes, and puts the old ones under way to their registers. No
register and no other group changes. The layout of a staged entry is log 37's. (R106, R156, R188, R189, R214,
R283, R286, Table 10-7) -/
def Obligations.StoresAndAtomics : Prop :=
  (∀ (s u : State) (sp : SplitRef) (w : IWord) (i j : Iss) (n : Nat) (ls : List Nat) (es : List Staged),
    Issues s sp w .l i → u = issueState s i true → j = issueIss s i → wOp w = 0x181 → n = mBytes w → ls = laneList i.outLanes →
    addrOk i = true → (wL w = true → w1Bits w 119 96 = 0) → runOk i (wKind w 2) (wC w) (mRegs n) = true →
    depends s i (guardRead w ++ addrRegs i ls ++ dataRegs i ls (mRegs n)) = false → mustWait s i = false →
    refusedLane u j ls n [.wr] = none → es = stagedStore i ls n →
    (0 < i.w.stageKib → mLocal w = false → es.length ≤ stageRoom i.w - i.w.staged →
      ∃ t, exec (.store sp w) s = .next t ∧ Moves s t i ∧ t.mem = u.mem ∧
        t = { s with groups := t.groups, cores := t.cores, mem := t.mem, wgs := t.wgs } ∧
        tfind t.wgs i.id = some { i.w with staged := i.w.staged + es.length } ∧
        (∀ k, k ≠ i.id → tfind t.wgs k = tfind s.wgs k) ∧ (∀ k, k ≠ i.key → tfind t.groups k = tfind s.groups k) ∧
        (∀ c, c ≠ i.w.core → (coreOf t c).ls = (coreOf s c).ls) ∧ (Memory.wf (coreOf s i.w.core).ls = true →
          ∀ a b, a = i.w.stageAt + 32 * i.w.staged → mget (coreOf t i.w.core).ls b =
            if a ≤ b ∧ b < a + (es.flatMap Staged.bytes).length then (es.flatMap Staged.bytes).getD (b - a) 0
            else mget (coreOf s i.w.core).ls b)) ∧
    (i.w.stageKib = 0 → mLocal w = false → ls.findSome? (fun l => macDrops u (laneAddr j l).toNat n) = none →
      ∃ t, exec (.store sp w) s = .next t ∧ LsuOnly s t i ∧ Moves s t i ∧
        t = { s with groups := t.groups, cores := t.cores, mem := t.mem } ∧
        t.mem = (ls.foldl (fun x l =>
          dmWrite x (polAt s i.w.ctx (laneAddr i l).toNat) (laneAddr i l).toNat (dataBytes i l n)) u).mem ∧
        (mAcquire w = true → (coreOf t sp.core).l1 = []) ∧
        (∀ l a, ls = [l] → a = (laneAddr i l).toNat → PlainAccess u i.w.ctx a n →
          ∀ b, dmByte t b = if a ≤ b ∧ b < a + n then (dataBytes i l n).getD (b - a) 0 else dmByte u b)) ∧
    (mLocal w = true →
      ∃ t, exec (.store sp w) s = .next t ∧ Moves s t i ∧ t.mem = u.mem ∧
        t = { s with groups := t.groups, cores := t.cores, mem := t.mem } ∧
        (∀ k, k ≠ i.key → tfind t.groups k = tfind s.groups k) ∧
        (∀ k, (coreOf t k).ls = (coreOf (ls.foldl (fun x l => storeLane x j l n) u) k).ls) ∧
        (∀ l c a, ls = [l] → localAt s i.w (laneAddr i l).toNat n = some (c, a) → Memory.wf (coreOf s c).ls = true →
          (∀ k, k ≠ c → (coreOf t k).ls = (coreOf s k).ls) ∧
          ∀ b, mget (coreOf t c).ls b =
            if a ≤ b ∧ b < a + n then (dataBytes i l n).getD (b - a) 0 else mget (coreOf s c).ls b))) ∧
  ∀ (s u v : State) (sp : SplitRef) (op : AtomOp) (wide : Bool) (w : IWord) (i j : Iss) (n : Nat) (ls : List Nat)
    (ws : List (RegId × W32)), Issues s sp w .l i → u = issueState s i true → j = issueIss s i →
    wOp w / 64 = 7 → n = (if wide then 8 else 4) → ls = laneList i.outLanes → (mLocal w = true ∨ sPairOk (wA w) = true) →
    srcOk i 1 = true → (wL w = true → w1Bits w 119 96 = 0) →
    runOk i (wKind w 2) (wC w) (if op = .cas then 2 * mRegs n else mRegs n) = true →
    runOk i false (wD w) (mRegs n) = true → (i.w.commitForm = true → mLocal w = true) →
    depends s i (guardRead w ++ addrRegs i ls ++ dataRegs i ls (if op = .cas then 2 * mRegs n else mRegs n) ++
      (List.range (mRegs n)).flatMap (fun k => vRegs (wD w + k) ls)) = false → mustWait s i = false →
    (ls = [] → RunsOn s (.atomic sp op wide w) i (RegsAre i · (fun _ => none) (fun _ _ => none) (fun _ _ => none))) ∧
    (ls ≠ [] → refusedLane u j ls n [.rd, .wr] = none →
      (mLocal w = false → ls.findSome? (fun l => dmFault u (laneAddr j l).toNat n) = none) → (v, ws) = atomRun op n j ls u [] →
      ∃ t, exec (.atomic sp op wide w) s = .next t ∧ Moves s t i ∧ t.mem = v.mem ∧
        t = { s with groups := t.groups, cores := t.cores, mem := t.mem, fly := { s.fly with
          nextId := s.fly.nextId + 1
          loads := tput s.fly.loads s.fly.nextId { grp := i.key, sid := sp.sid, writes := ws, acquire := mAcquire w
                                                   wg := i.id, move := false, lines := [], lanes := i.x.mask } } } ∧
        (∀ k, k ≠ i.key → tfind t.groups k = tfind s.groups k) ∧ (∀ k, (coreOf t k).ls = (coreOf v k).ls) ∧
        (∀ l a, ls = [l] → mLocal w = false → a = (laneAddr i l).toNat → PlainAccess u i.w.ctx a n →
          ws = ((bytesWords (natBytes (dmNum u a n) n)).zipIdx).map (fun (v, k) => (RegId.v (wD w + k) l, v)) ∧
          (∀ k, (coreOf t k).ls = (coreOf s k).ls) ∧
          ∀ b, dmByte t b = if a ≤ b ∧ b < a + n then
            (natBytes (atomNew op (8 * n) (dmNum u a n) (leNat (dataBytes i l n))
              (leNat ((dataBytes i l (2 * n)).drop n))) n).getD (b - a) 0 else dmByte u b) ∧
        (∀ l c a, ls = [l] → mLocal w = true → localAt s i.w (laneAddr i l).toNat n = some (c, a) →
          Memory.wf (coreOf s c).ls = true →
          ws = ((bytesWords (natBytes (leNat (lsRead s c a n)) n)).zipIdx).map (fun (v, k) => (RegId.v (wD w + k) l, v)) ∧
          t.mem = u.mem ∧ (∀ k, k ≠ c → (coreOf t k).ls = (coreOf s k).ls) ∧
          ∀ b, mget (coreOf t c).ls b = if a ≤ b ∧ b < a + n then
            (natBytes (atomNew op (8 * n) (leNat (lsRead s c a n)) (leNat (dataBytes i l n))
              (leNat ((dataBytes i l (2 * n)).drop n))) n).getD (b - a) 0 else mget (coreOf s c).ls b))

/-- mma, its completion, msync and amov. A legal mma of a pinned split whose operands are permitted, in bounds
and sound joins its engine's queue with the operands it gathered, puts its kept copies under way, makes its
group partial where a lane is off, and changes no register yet. MMA_COMPLETE takes the oldest of an engine and
changes exactly the live rows of its accumulator; an amov that waited for it takes its values, an msync goes on.
msync moves on once the accumulators it names are idle, clearing partial if asked, and stalls before. amov is
put under way with the accumulator's elements, or the order to read them when its earlier matrix instructions
have completed. (R183, R206, R207, R216, R217, R218, R222, R226, R227, R228) -/
def Obligations.MatrixInstructions : Prop :=
  (∀ (s u : State) (sp : SplitRef) (w : IWord) (i j : Iss) (a b : List Nat) (ka kb : List Copy) (m : Mma), Issues s sp w .m i →
    u = issueState s i true → j = issueIss s i → wOp w = 0x240 → i.x.pin = true → mmaOk i = true →
    depends s i (mmaRegs i) = false → (tget s.fly.mmas (engineOf sp) []).length < 4 →
    gather u j (mAsrc w.w1) (wA w) (mFa w.w1) (panelK w.w1) (mAt w.w1) = .ok a →
    gather u j (mBsrc w.w1) (wB w) (mFb w.w1) (panelK w.w1) (mBt w.w1) = .ok b →
    keptCopy u j (mAsrc w.w1) (wA w) (mFa w.w1) (panelK w.w1) (mAt w.w1) = .ok ka →
    keptCopy u j (mBsrc w.w1) (wB w) (mFb w.w1) (panelK w.w1) (mBt w.w1) = .ok kb →
    operandFault u j (mAsrc w.w1) (wA w) (mFa w.w1) (panelK w.w1) (mAt w.w1) = none →
    operandFault u j (mBsrc w.w1) (wB w) (mFb w.w1) (panelK w.w1) (mBt w.w1) = none →
    m = { id := s.fly.nextId, grp := i.key, acc := wD w, live := liveRows i.x.mask, desc := w.w1, rm := wRm w, a := a, b := b
          sa := if mAmx w.w1 then gatherScales i.g (wC w) (panelK w.w1) else []
          sb := if mBmx w.w1 then gatherScales i.g (wC w + b2n (mAmx w.w1)) (panelK w.w1) else [], wg := i.id } →
    ∃ t g, exec (.mma sp w) s = .next t ∧ Moves s t i ∧ FetchOnly s t i ∧ tfind t.groups i.key = some g ∧
      g.part_ = (i.g.part_ || i.x.mask != BitVec.allOnes 32) ∧ (∀ k, k ≠ i.key → tfind t.groups k = tfind s.groups k) ∧
      t = { s with
        groups := t.groups, cores := t.cores, mem := u.mem
        fly := (flyCopies { s with fly := { s.fly with
          mmas := tput s.fly.mmas (engineOf sp) (tget s.fly.mmas (engineOf sp) [] ++ [m])
          nextId := s.fly.nextId + 1 } } (ka ++ kb)).fly }) ∧
  (∀ (s : State) (core cpart : Nat) (m : Mma) (r : List Mma) (g : Group), s.runs = true →
    tget s.fly.mmas (core * 4 + cpart) [] = m :: r → tfind s.groups m.grp = some g →
    ∃ t h, exec (.mmaComplete core cpart) s = .next t ∧ t = { s with groups := t.groups, fly := t.fly } ∧
      t.fly = { s.fly with mmas := tput s.fly.mmas (core * 4 + cpart) r, loads := t.fly.loads } ∧
      tfind t.groups m.grp = some h ∧ h.sreg = g.sreg ∧ h.preg = g.preg ∧ h.vreg = g.vreg ∧ h.seed = g.seed ∧
      h.accInt = (if mInt m.desc then g.accInt ||| (1#8 <<< m.acc) else g.accInt &&& ~~~(1#8 <<< m.acc)) ∧
      (∀ q n, q < 16 → n < 16 → readAcc h m.acc q n =
        if m.live.getLsbD q then mmaElem m (readAcc g m.acc q n) q n else readAcc g m.acc q n) ∧
      (∀ k q n, k ≠ m.acc → q < 16 → n < 16 → readAcc h k q n = readAcc g k q n) ∧
      (∀ k x, k ≠ m.grp → tfind s.groups k = some x → ∃ y, tfind t.groups k = some y ∧ y.sameRegs x) ∧
      (∀ k o, tfind s.fly.loads k = some o → o.amov = none → tfind t.fly.loads k = some o) ∧
      (m.grp / 16 = core * 4 + cpart →
        (∀ k o e, tfind s.fly.loads k = some o → o.amov = some e → o.grp = m.grp →
          (∀ n ∈ r, ¬(n.grp = m.grp ∧ n.acc = e.acc ∧ n.id ≤ e.upto)) → tfind t.fly.loads k =
            some { o with amov := none, writes := amovWrites h (h.accInt.getLsbD e.acc) e }) ∧
        (∀ k x mask upto clr, g.stack = [] → g.splits = [(k, x)] → x.st = .stalled → x.why = .msync mask upto clr →
          (∀ n ∈ r, ¬(n.grp = m.grp ∧ mask.getLsbD n.acc = true ∧ n.id ≤ upto)) →
          h.splits = [(k, { x.toReady (coreNow s (m.grp / 64)) with pc := x.pc + 1 })] ∧ h.part_ = (g.part_ && !clr)))) ∧
  (∀ (s : State) (sp : SplitRef) (w : IWord) (i : Iss), Issues s sp w .none i → wOp w = 0x241 → wCtl w ≤ 1 →
    i.x.pin = true →
    (mmaBusy s i.key (fun a => (BitVec.ofNat 8 (wD w)).getLsbD a) s.fly.nextId = false →
      RunsOn s (.msync sp w) i (fun g => g.sameRegs i.g ∧ g.part_ = (i.g.part_ && wCtl w == 0))) ∧
    (mmaBusy s i.key (fun a => (BitVec.ofNat 8 (wD w)).getLsbD a) s.fly.nextId = true →
      ∃ t, exec (.msync sp w) s = .next t ∧ IssueOnly s t i ∧ tfind t.groups i.key =
        some (i.stalled s (.msync (BitVec.ofNat 8 (wD w)) s.fly.nextId (wCtl w == 1))))) ∧
  (∀ (s : State) (sp : SplitRef) (w : IWord) (i : Iss) (r : AmovRef), Issues s sp w .none i → wOp w = 0x242 →
    wA w < i.w.nAcc → wD w + 8 ≤ i.w.vregs → wFmt w ≤ 10 → amovRmOk (accIsInt s i (wA w)) (wFmt w) (wRm w) = true →
    depends s i ((List.range 8).flatMap (fun k => vRegs (wD w + k) (laneList i.x.mask))) = false →
    r = { upto := s.fly.nextId, acc := wA w, fmt := wFmt w, rm := wRm w, lanes := i.x.mask, d := wD w } →
    ∃ t o, exec (.amov sp w) s = .next t ∧ Moves s t i ∧ FetchOnly s t i ∧
      (∀ k, k ≠ i.key → tfind t.groups k = tfind s.groups k) ∧ (i.hot s → t.mem = s.mem) ∧
      t = { s with
        groups := t.groups, cores := t.cores, mem := t.mem
        fly := { s.fly with nextId := s.fly.nextId + 1, loads := tput s.fly.loads s.fly.nextId o } } ∧
      o.grp = i.key ∧ o.sid = sp.sid ∧ o.wg = i.id ∧ o.move = true ∧ o.acquire = false ∧
      (mmaBusy s i.key (· == wA w) s.fly.nextId = false → o.amov = none ∧
        o.writes = amovWrites i.g (i.g.accInt.getLsbD (wA w)) r) ∧
      (mmaBusy s i.key (· == wA w) s.fly.nextId = true → o.amov = some r))

/-- A copy lands in a local store and counts. A copy lands in a destination with no memory error: the counter it
names grows by 1 and fires its watches, the copy leaves once its last destination is served, and the rows stand
in that local store, an acopy's as memory holds them, a kept copy's as the engine was given them; no other local
store changes. COPY_LANDED for a core the copy does not go to does nothing. (R193, R194, R195, R212, Table 9-7)
-/
def Obligations.CopiesLand : Prop :=
  (∀ (s : State) (id core : Nat) (c : Copy) (w t0 : Wg), s.runs = true → tfind s.fly.copies id = some c →
    tfind s.wgs c.wg = some w →
    c.ranks.findSome? (fun r => (rankWg s w r).bind
      (fun t => if t.core = (if c.kept then c.core else core) then some t else none)) = some t0 →
    (c.kept = false → (List.range c.rows).findSome? (fun q => dmFault s (c.rowAt q).toNat c.rowBytes) = none) →
    ∃ t, exec (if c.kept then .keptCopyLanded id else .copyLanded id core) s = .next t ∧
      t = { s with groups := t.groups, cores := t.cores, mem := t.mem, fly := { s.fly with
        copies := t.fly.copies, watches := t.fly.watches, wakes := t.fly.wakes } } ∧
      Evaluates s t (some t0.core) (t0.ctrBase + c.ctr) (ctrGet s (some t0.core) (t0.ctrBase + c.ctr) + 1) ∧
      (c.ranks.filter (· != t0.rank) = [] → t.fly.copies = tdel s.fly.copies id) ∧
      (c.ranks.filter (· != t0.rank) ≠ [] →
        t.fly.copies = tput s.fly.copies id { c with ranks := c.ranks.filter (· != t0.rank) }) ∧
      (∀ k, k ≠ t0.core → (coreOf t k).ls = (coreOf s k).ls) ∧ (c.kept = true → t.mem = s.mem) ∧
      (∀ k, (coreOf t k).ls =
        (coreOf (copyInto (if c.kept then s else copyTouch s t0.ctx c) c t0) k).ls) ∧
      (c.rows = 1 → Memory.wf (coreOf s t0.core).ls = true →
        (c.kept = false → polAt s t0.ctx c.src = 4) → (c.kept = true → (c.data.getD 0 []).length = c.rowBytes) →
        ∀ b, mget (coreOf t t0.core).ls b =
          if t0.lsBase * 1024 + c.dst ≤ b ∧ b < t0.lsBase * 1024 + c.dst + c.rowBytes then
            if c.kept then (c.data.getD 0 []).getD (b - (t0.lsBase * 1024 + c.dst)) 0
            else dmByte s (c.src + (b - (t0.lsBase * 1024 + c.dst))) else mget (coreOf s t0.core).ls b)) ∧
  ∀ (s : State) (id core : Nat), s.runs = true →
    (∀ c w, tfind s.fly.copies id = some c → tfind s.wgs c.wg = some w →
      c.ranks.findSome? (fun r => (rankWg s w r).bind (fun t => if t.core = core then some t else none)) = none) →
    exec (.copyLanded id core) s = .next s

/-- watch and sig on counters, sig on fences. A watch whose condition holds goes on at once, consuming if asked,
with the L1 flash a wake would bring; one whose condition does not hold stands GATED with its watch registered,
or stalls where its home has no place. A sig adds its value to the counter and every watch is evaluated, in
order, until none fires; where the count lives at another chip it only goes on here. A sig to a fence signals
exactly that fence. Both wait for the split's earlier accesses. No register changes, no other counter, no other
fence. (R119, R208, R209, R259, R260, R262, R263, Table 13-1) -/
def Obligations.WatchAndSignal : Prop :=
  (∀ (s u : State) (sp : SplitRef) (w : IWord) (i : Iss) (home : Option Nat) (k : Nat) (h : Bool), Issues s sp w .none i →
    u = issueState s i true → wOp w = 0x280 → wA w < 64 → wB w < 64 → wCtl w % 8 < 4 →
    (wCtlBit w 3 = true → wCtl w % 8 ≠ 3) → depends s i [.s (wA w), .s (wB w)] = false →
    resolveRef s i.w (refOf i) = .ok home k →
    h = (!(home == none && ringAway s k) && watchHolds (wCtl w % 8) (ctrGet s home k) (readS i.g (wB w))) →
    (h = true →
      ∃ t, exec (.watch sp w) s = .next t ∧ Moves s t i ∧ t.mem = u.mem ∧
        t = { s with groups := t.groups, cores := t.cores, mem := t.mem, hub := t.hub, fly := { s.fly with
          watches := t.fly.watches, wakes := t.fly.wakes } } ∧
        (wCtlBit w 3 = true → Evaluates s t home k (ctrGet s home k - readS i.g (wB w))) ∧
        (wCtlBit w 3 = false → t.fly = s.fly ∧ t.hub = s.hub ∧ ∀ c m, ctrGet t c m = ctrGet s c m) ∧
        (outsideOf s home k sp.core || s.fly.wakes.any (fun m => m.flash && m.sp.core == sp.core) →
          (coreOf t sp.core).l1 = [])) ∧
    (h = false → watchRoom s home sp.core = true →
      ∃ t, exec (.watch sp w) s = .next t ∧ FetchOnly s t i ∧
        (∀ k, k ≠ i.key → tfind t.groups k = tfind s.groups k) ∧
        tfind t.groups i.key = some (i.waits s .gated .none) ∧
        t = { s with groups := t.groups, cores := t.cores, mem := u.mem, fly := { s.fly with
          watches := s.fly.watches ++ [{ home := home, ctr := k, sp := sp, cmp := wCtl w % 8, target := readS i.g (wB w)
                                         consume := wCtlBit w 3, wg := i.id }] } }) ∧
    (h = false → watchRoom s home sp.core = false → ∃ t, exec (.watch sp w) s = .next t ∧ IssueOnly s t i ∧
      tfind t.groups i.key = some (i.stalled s .watchPlace))) ∧
  (∀ (s u : State) (sp : SplitRef) (w : IWord) (i : Iss) (home : Option Nat) (k : Nat), Issues s sp w .i i →
    u = issueState s i true → wOp w = 0x281 → wCtlBit w 4 = false → wA w < 64 → (wL w = false → wB w < 64) →
    (wL w = true → w1Bits w 127 96 = 0) → depends s i (.s (wA w) :: (if wL w then [] else [.s (wB w)])) = false →
    accessPending s i = false → resolveRef s i.w (refOf i) = .ok home k →
    (home = none → i.w.commitForm = true → i.w.committed = true) →
    (home = none → ringAway s k = true → RunsBare s (.sig sp w) i) ∧
    ((home = none → ringAway s k = false) →
      ∃ t, exec (.sig sp w) s = .next t ∧ Moves s t i ∧ t.mem = u.mem ∧
        t = { s with groups := t.groups, cores := t.cores, mem := t.mem, hub := t.hub, fly := { s.fly with
          watches := t.fly.watches, wakes := t.fly.wakes } } ∧
        Evaluates s t home k (ctrGet s home k + (if wL w then wImm w else readS i.g (wB w))))) ∧
  (∀ (s : State) (sp : SplitRef) (w : IWord) (i : Iss) (f : Nat), Issues s sp w .i i → wOp w = 0x281 →
    wCtlBit w 4 = true → wA w < 64 → wB w < 64 → wB w % 2 = 0 → (wL w = true → w1Bits w 127 96 = 0) →
    depends s i [.s (wA w), .s (wB w), .s (wB w + 1)] = false → accessPending s i = false →
    (i.w.commitForm = true → i.w.committed = true) →
    f = (readS i.g (wA w)).toNat % 16384 → fenceSig s i.w.ctx f = true →
    ∃ t, exec (.sig sp w) s = .next t ∧ Moves s t i ∧ FetchOnly s t i ∧ (i.hot s → t.mem = s.mem) ∧
      (∀ k, k ≠ i.key → tfind t.groups k = tfind s.groups k) ∧
      t = { s with groups := t.groups, cores := t.cores, mem := t.mem, fences := t.fences } ∧
      fenceOf t f = (fenceOf s f).signal (domCount s 35) (BitVec.ofNat 64 (readS64 i.g (wB w))) (wCtlBit w 0) ∧
      ∀ h, h ≠ f → fenceOf t h = fenceOf s h)

/-- bar counts arrivals and releases; a wake makes its split READY. An arrival at a workgroup or cluster barrier
before the last leaves the split in SYNC_WAIT and counts its threads; the last sets n to 0, turns the sense,
sets the counters its mask names to 0 where no watch stands on them, and sends a message to every split that
waits on the old sense. At a hub barrier the workgroup's last thread sends one arrival; the last of these does
the same with the hub's counters. A barrier counted at another chip changes nothing here. A wake makes its split
READY one instruction on, with the L1 data gone where the message says so, and changes no register. (R210, R263,
R266, R267, R287, Table 13-3) -/
def Obligations.BarriersAndWakes : Prop :=
  (∀ (s u : State) (sp : SplitRef) (w : IWord) (i : Iss) (kind z : Nat) (l : List (Nat × Wg)) (ctrs : List Nat) (b : Barrier),
    Issues s sp w .none i → u = issueState s i true → wOp w = 0x282 → serialInView i.g i.x = false →
    (wCtlBit w 2 = true → wB w < 64) → kind = wCtl w % 4 → kind < 2 →
    depends s i (if wCtlBit w 2 then [.s (wB w)] else []) = false →
    ctrs = (if wCtlBit w 3 then realignBits i 32 16 else realignBits i 0 32) → (∀ k ∈ ctrs, k < i.w.lullCtrs) →
    (z, l) = (if kind = 0 then (i.id, [(i.id, i.w)]) else (rank0 s i.w, clusterOf s i.w)) →
    b = ((tfind s.wgs z).map (·.slotBar kind)).getD {} →
    (b.n + popcount i.x.mask 32 < threadsLeft l →
      ∃ t, exec (.bar sp w) s = .next t ∧ FetchOnly s t i ∧
        t = { s with groups := t.groups, cores := t.cores, mem := u.mem, wgs := t.wgs } ∧
        (∀ k, k ≠ i.key → tfind t.groups k = tfind s.groups k) ∧
        tfind t.groups i.key = some (i.waits s .syncWait (.barrier kind b.sense)) ∧
        tfind t.wgs z = (tfind s.wgs z).map (fun w =>
          w.putBar kind { n := b.n + popcount i.x.mask 32, sense := b.sense, ctrs := ctrs }) ∧
        ∀ k, k ≠ z → tfind t.wgs k = tfind s.wgs k) ∧
    (threadsLeft l ≤ b.n + popcount i.x.mask 32 →
      ∃ t, exec (.bar sp w) s = .next t ∧ t.mem = u.mem ∧
        t = { s with groups := t.groups, cores := t.cores, mem := t.mem, wgs := t.wgs, fly := { s.fly with
          watches := t.fly.watches, wakes := t.fly.wakes } } ∧
        tfind t.wgs z = (tfind s.wgs z).map (fun w => w.putBar kind { n := 0, sense := !b.sense }) ∧
        (∀ k, k ≠ z → tfind t.wgs k = tfind s.wgs k) ∧
        (∀ e k, e ∈ l → k ∈ ctrs → s.fly.watches.filter (onCtr (some e.2.core) (e.2.ctrBase + k)) = [] →
          ctrGet t (some e.2.core) (e.2.ctrBase + k) = 0) ∧
        ((∃ x ∈ l, x.1 = i.g.wg) → i.key < 100000 → ∃ m ∈ t.fly.wakes, m.sp =
          { core := i.key / 64, cpart := i.key / 16 % 4, place := i.key % 16, sid := sp.sid }) ∧
        ∀ k g sid x, tfind s.groups k = some g → (∃ e ∈ l, e.1 = g.wg) → k < 100000 → (sid, x) ∈ g.splits →
          x.st = .syncWait → x.why = .barrier kind b.sense →
          ∃ m ∈ t.fly.wakes, m.sp = { core := k / 64, cpart := k / 16 % 4, place := k % 16, sid := sid })) ∧
  (∀ (s u : State) (sp : SplitRef) (w : IWord) (i : Iss) (h : Nat) (ctrs : List Nat), Issues s sp w .none i →
    u = issueState s i true → wOp w = 0x282 → serialInView i.g i.x = false → wCtl w % 4 = 2 → wA w < 64 →
    (wCtlBit w 2 = true → wB w < 64) → depends s i (.s (wA w) :: (if wCtlBit w 2 then [.s (wB w)] else [])) = false →
    crScope (refOf i) = 2 → resolveRef s i.w (refOf i) = .ok none h → ctrs = realignBits i (h + 1) 16 →
    (∀ k ∈ ctrs, (hubOf s k).owner = some i.w.ctx) →
    ∃ t v, exec (.bar sp w) s = .next t ∧ t.mem = u.mem ∧ tfind t.wgs i.id = some v ∧
      t = { s with groups := t.groups, cores := t.cores, mem := t.mem, wgs := t.wgs, hub := t.hub, fly := { s.fly with
        watches := t.fly.watches, wakes := t.fly.wakes } } ∧ (∀ k, k ≠ i.id → tfind t.wgs k = tfind s.wgs k) ∧
      (i.w.hubN + popcount i.x.mask 32 < i.w.groups * 32 - i.w.exited →
        v = { i.w with hubN := i.w.hubN + popcount i.x.mask 32, hubAt := h, hubCtrs := ctrs } ∧ t.hub = s.hub ∧
        tfind t.groups i.key = some (i.waits s .syncWait (.barrier (2 + h) (hubOf s h).sense))) ∧
      (i.w.groups * 32 - i.w.exited ≤ i.w.hubN + popcount i.x.mask 32 →
        v = { i.w with hubN := 0, hubAt := h, hubCtrs := ctrs } ∧
        (ringAway s h = true → t.hub = s.hub) ∧
        (ringAway s h = false → (hubOf s h).n + 1 ≠ (hubOf s h).parts →
          hubOf t h = { hubOf s h with n := (hubOf s h).n + 1 } ∧ ∀ k, k ≠ h → hubOf t k = hubOf s k) ∧
        (ringAway s h = false → (hubOf s h).n + 1 = (hubOf s h).parts →
          (hubOf t h).n = 0 ∧ (hubOf t h).sense = (!(hubOf s h).sense) ∧
          (∀ k ∈ ctrs, ringAway s k = false → s.fly.watches.filter (onCtr none k) = [] → (hubOf t k).count = 0) ∧
          ((∃ x ∈ s.wgs, x.1 = i.g.wg) → i.key < 100000 → ∃ m ∈ t.fly.wakes, m.sp =
            { core := i.key / 64, cpart := i.key / 16 % 4, place := i.key % 16, sid := sp.sid })))) ∧
  (∀ (s : State) (sp : SplitRef) (m : WakeMsg) (r : List WakeMsg) (g : Group) (x : Split), s.runs = true →
    takeWake sp s.fly.wakes = some (m, r) → tfind s.groups (spKey sp) = some g →
    tfind g.splits sp.sid = some x → x.st = .gated ∨ x.st = .syncWait →
    ∃ t h, exec (.wakeArrive sp) s = .next t ∧ tfind t.groups (spKey sp) = some h ∧ h.sameRegs g ∧
      t = { s with groups := t.groups, cores := t.cores, fly := { s.fly with wakes := r } } ∧
      (∀ k, k ≠ spKey sp → tfind t.groups k = tfind s.groups k) ∧
      (g.splits = [(sp.sid, x)] → g.stack = [] →
        h.splits = [(sp.sid, { x.toReady (coreNow s sp.core) with pc := x.pc + 1 })]) ∧
      (m.flash = true → (coreOf t sp.core).l1 = []) ∧ (m.flash = false → t.cores = s.cores))

/-- alloc waits for a block, free gives it back. alloc puts its request to the allocator and stalls.
ALLOC_SERVED serves the oldest request of the next partition: a split receives handle and base in four scalar
registers and goes on, a node's parameter block receives them and the node ends. A block is the lowest aligned
place free in the arena, of the smallest size class that holds the request, LIVE at the lowest free index with
the next generation; without one both are 0 and no object changes. free of 0 only goes on; of a live handle it
makes the owner leave the block, and no other object changes. (R116, R117, R211) -/
def Obligations.Allocator : Prop :=
  (∀ (s : State) (sp : SplitRef) (w : IWord) (i : Iss), Issues s sp w .none i → wOp w = 0x2C0 → wA w < 64 →
    wD w % 4 = 0 → wD w < 64 → i.w.commitForm = false →
    depends s i (.s (wA w) :: (List.range 4).map (fun k => .s (wD w + k))) = false → s.fly.allocs.length < 64 →
    ∃ t, exec (.alloc sp w) s = .next t ∧ FetchOnly s t i ∧ (i.hot s → t.mem = s.mem) ∧
      (∀ k, k ≠ i.key → tfind t.groups k = tfind s.groups k) ∧
      tfind t.groups i.key = some (i.stalled s (.allocResult (wD w))) ∧
      t = { s with groups := t.groups, cores := t.cores, mem := t.mem, fly := { s.fly with
        allocs := s.fly.allocs ++ [.split sp i.w.ctx (readS i.g (wA w)).toNat (wD w)] } }) ∧
  (∀ (s v : State) (sp : SplitRef) (ctx size d p h base : Nat) (gr : Group) (x : Split), s.runs = true →
    nextAlloc s = some (p, .split sp ctx size d) → tfind s.groups (spKey sp) = some gr →
    tfind gr.splits sp.sid = some x → allocBlock s ctx size = (h, base, v) →
    ∃ t g, exec .allocServed s = .next t ∧ tfind t.groups (spKey sp) = some g ∧
      t = { s with
        rr := { s.rr with alloc := p }, groups := t.groups, objs := v.objs, allocGen := v.allocGen
        fly := { s.fly with allocs := s.fly.allocs.erase (.split sp ctx size d) } } ∧
      (∀ k y, k ≠ spKey sp → tfind s.groups k = some y → ∃ z, tfind t.groups k = some z ∧ z.sameRegs y) ∧
      g.vreg = gr.vreg ∧ g.preg = gr.preg ∧ g.acc = gr.acc ∧ g.seed = gr.seed ∧
      (∀ n, readS g n = if n = d then BitVec.ofNat 32 h else if n = d + 1 then 0 else
        if n = d + 2 then BitVec.ofNat 32 base else if n = d + 3 then BitVec.ofNat 32 (base / 2 ^ 32) else readS gr n) ∧
      (gr.splits = [(sp.sid, x)] → gr.stack = [] → x.why ≠ .unit →
        g.splits = [(sp.sid, { x.toReady (coreNow s sp.core) with pc := x.pc + 1 })])) ∧
  (∀ (s : State) (ctx size : Nat),
    (∀ a n off k, arenaOf s ctx = some a → sizeClass size = some n →
      lowestBlock ((blocksOf s ctx).map (fun o => (o.base - a.base, o.len))) (a.limit - a.base) n = some off →
      freeAllocIdx s = some k →
      ∃ v o, allocBlock s ctx size = (o.gen * 262144 + k, o.base, v) ∧ tfind v.objs k = some o ∧ o.st = .live ∧
        o.owner = ctx ∧ o.base = a.base + off ∧ o.len = n ∧ o.gen = nextGen (tget s.allocGen k 0) ∧
        (∀ j, j ≠ k → tfind v.objs j = tfind s.objs j)) ∧
    ((¬∃ a n off k, arenaOf s ctx = some a ∧ sizeClass size = some n ∧
      lowestBlock ((blocksOf s ctx).map (fun o => (o.base - a.base, o.len))) (a.limit - a.base) n = some off ∧
      freeAllocIdx s = some k) → allocBlock s ctx size = (0, 0, s))) ∧
  (∀ (s v : State) (id n ctx cls off p h base : Nat) (x : Inst) (g : Graph), s.runs = true →
    nextAlloc s = some (p, .node id n ctx cls off) → tfind s.insts id = some x → graphOf s x = some g →
    thas x.nodes n = true → macDrops s (g.param off) 16 = none → allocBlock s ctx (2 ^ (cls + 8)) = (h, base, v) →
    ∃ t y, exec .allocServed s = .next t ∧ tfind t.insts id = some y ∧ (y.node n).ended = 1 ∧
      t.objs = v.objs ∧ t.fly.allocs = s.fly.allocs.erase (.node id n ctx cls off) ∧
      t.mem = (dmWrite v (polAt s g.ctx (g.param off)) (g.param off) (natBytes h 8 ++ natBytes base 8)).mem) ∧
  (∀ (s : State) (sp : SplitRef) (w : IWord) (i : Iss), Issues s sp w .none i → wOp w = 0x2C1 → wA w < 64 →
    i.w.commitForm = false → depends s i [.s (wA w)] = false →
    (readS i.g (wA w) = 0 → RunsBare s (.free sp w) i) ∧
    (readS i.g (wA w) ≠ 0 → liveAlloc s i.w.ctx (readS i.g (wA w)).toNat = true →
      ∃ t, exec (.free sp w) s = .next t ∧ Moves s t i ∧ (i.hot s → t.mem = s.mem) ∧
        t.objs = (allocFree s (readS i.g (wA w)).toNat).objs ∧
        (tget t.objs ((readS i.g (wA w)).toNat % 262144) {}).ownerHolds = false ∧
        ∀ k, k ≠ (readS i.g (wA w)).toNat % 262144 → tfind t.objs k = tfind s.objs k))

/-- acopy, commit and the end of the write-out. A legal, permitted acopy with a place free is put under way and
moves on; to no destination it only moves on. commit leaves its split in SYNC_WAIT, counts its threads, and
begins writing with the last. COMMIT_WRITE_END writes the staged entries to memory in order, byte by byte under
their masks, where no registered image and no bad MAC stands in the way; the waiting splits of the workgroup go
on READY. One of a workgroup that is not writing does nothing. (R156, R157, R193, R194, R212, R214) -/
def Obligations.CopyAndCommit : Prop :=
  (∀ (s : State) (sp : SplitRef) (w : IWord) (i : Iss), Issues s sp w .none i → wOp w = 0x300 → wA w % 8 = 0 →
    wA w < 64 → depends s i ((List.range 8).map (fun k => .s (wA w + k))) = false → acopyOk i (acopyOf i) = true →
    copySrcBad s i (acopyOf i) = none → copyDstOk s i (acopyOf i) = true →
    ((acopyOf i).ranks = [] → RunsBare s (.acopy sp w) i) ∧
    ((acopyOf i).ranks ≠ [] → (s.fly.copies.filter (fun e => !e.2.kept && e.2.core == sp.core)).length < 32 →
      ∃ t, exec (.acopy sp w) s = .next t ∧ Moves s t i ∧ FetchOnly s t i ∧ (i.hot s → t.mem = s.mem) ∧
        (∀ k, k ≠ i.key → tfind t.groups k = tfind s.groups k) ∧
        t = { s with groups := t.groups, cores := t.cores, mem := t.mem, fly := { s.fly with
          copies := tput s.fly.copies s.fly.nextId (acopyOf i), nextId := s.fly.nextId + 1 } })) ∧
  (∀ (s : State) (sp : SplitRef) (w : IWord) (i : Iss), Issues s sp w .none i → wOp w = 0x3C0 → 0 < i.w.stageKib →
    i.w.committed = false →
    ∃ t, exec (.commit sp w) s = .next t ∧ FetchOnly s t i ∧ (i.hot s → t.mem = s.mem) ∧
      t = { s with groups := t.groups, cores := t.cores, mem := t.mem, wgs := t.wgs } ∧
      (∀ k, k ≠ i.key → tfind t.groups k = tfind s.groups k) ∧
      tfind t.groups i.key = some (i.waits s .syncWait .commitWait) ∧ (∀ k, k ≠ i.id → tfind t.wgs k = tfind s.wgs k) ∧
      tfind t.wgs i.id = some { i.w with
        commits := i.w.commits + popcount i.x.mask 32
        writing := decide (i.w.groups * 32 - i.w.exited ≤ i.w.commits + popcount i.x.mask 32) }) ∧
  (∀ (s : State) (id : Nat) (w : Wg), s.runs = true → tfind s.wgs id = some w → w.writing = true →
    (∀ e ∈ stagedEnts s w, imageHit s e.addr 16 = false ∧ macDrops s e.addr 16 = none) →
    ∃ t, exec (.commitWriteEnd id) s = .next t ∧
      t = { s with groups := t.groups, cores := t.cores, mem := (stagedWrites s w).mem, wgs := t.wgs } ∧
      tfind t.wgs id = some { w with writing := false, committed := true, staged := 0 } ∧
      (∀ k, k ≠ id → tfind t.wgs k = tfind s.wgs k) ∧
      (∀ k g sid x, tfind s.groups k = some g → g.wg = id → g.stack = [] → g.splits = [(sid, x)] → x.st = .syncWait →
        x.why = .commitWait → tfind t.groups k = some { g with
          splits := [(sid, { x.toReady (coreNow s w.core) with pc := x.pc + 1 })] }) ∧
      (∀ k, (∀ e ∈ s.groups, e.1 = k → e.2.wg ≠ id) → tfind t.groups k = tfind s.groups k) ∧
      (∀ e, stagedEnts s w = [e] → e.data.length = 16 → PlainAccess s w.ctx e.addr 16 →
        ∀ b, dmByte t b = if e.addr ≤ b ∧ b < e.addr + 16 ∧ e.mask.getLsbD (b - e.addr) = true then
          e.data.getD (b - e.addr) 0 else dmByte s b)) ∧
  ∀ (s : State) (id : Nat), (∀ w, tfind s.wgs id = some w → w.writing = false) →
    exec (.commitWriteEnd id) s = .next s

/-- HUB_ALLOC, HUB_FREE, HUB_RESET and SNAPSHOT. HUB_ALLOC of free counters gives them the owner, count 0 and
the participants named; on a ring they are joined at the root, and elsewhere the command stays busy; without a
ring it fails with BAD_BLOCK, over counters in use with RESOURCE. HUB_FREE frees the owner's counters, HUB_RESET
sets those counted here and without watch to 0; with arrivals pending, or for HUB_FREE a watch, each fails with
result 5. SNAPSHOT writes the time and the counts this chip keeps to the page, and no other byte. Of a context
not ACTIVE each fails. No other counter changes. (R260, R271, R272, Table 13-4, Table 13-5) -/
def Obligations.HubCounters : Prop :=
  (∀ (s : State) (tag : BitVec 4) (ctx base n : Nat), FeReady s → s.luCmd.busy = false →
    ctx < 1024 → base + n ≤ 255 → n < 16 → (ctxOf s ctx).st = .active →
    (∀ parts ring, parts < 32768 →
      ((∃ k, k ≤ n ∧ (hubOf s (base + k)).owner ≠ none) → exec (.hubAlloc tag ctx base n parts ring) s =
        .next { s with luCmd := done tag.toNat .resource 0 }) ∧
      ((∀ k, k ≤ n → (hubOf s (base + k)).owner = none) → (ring = true → s.ring.st ≠ .none) →
        ∃ t, exec (.hubAlloc tag ctx base n parts ring) s = .next t ∧ t = { s with hub := t.hub, luCmd := t.luCmd } ∧
          (ring = false ∨ isRoot s = true → t.luCmd = done tag.toNat .ok 0) ∧
          (ring = true → isRoot s = false → t.luCmd.busy = true ∧ t.luCmd.tag = tag.toNat) ∧
          (∀ k, k ≤ n → tfind t.hub (base + k) =
            some { owner := some ctx, parts := parts, ring := ring, joined := ring && isRoot s }) ∧
          ∀ k, k < base ∨ base + n < k → tfind t.hub k = tfind s.hub k) ∧
      ((∀ k, k ≤ n → (hubOf s (base + k)).owner = none) → ring = true → s.ring.st = .none →
        exec (.hubAlloc tag ctx base n parts ring) s = .next { s with luCmd := done tag.toNat .badBlock 0 })) ∧
    ((∀ k, k ≤ n → (hubOf s (base + k)).owner = some ctx ∧ ((hubOf s (base + k)).ring = true → (hubOf s (base + k)).joined = true)) →
      ((∀ k, k ≤ n → hubBusy s (base + k) = false ∧ (hubOf s (base + k)).n = 0) →
        ∃ t, exec (.hubFree tag ctx base n) s = .next t ∧ t = { s with hub := t.hub, luCmd := done tag.toNat .ok 0 } ∧
          (∀ k, k ≤ n → tfind t.hub (base + k) = none) ∧
          ∀ k, k < base ∨ base + n < k → tfind t.hub k = tfind s.hub k) ∧
      ((∃ k, k ≤ n ∧ (hubBusy s (base + k) = true ∨ (hubOf s (base + k)).n ≠ 0)) →
        exec (.hubFree tag ctx base n) s = .next { s with luCmd := done tag.toNat .r5 0 }) ∧
      ((∀ k, k ≤ n → (hubOf s (base + k)).n = 0) →
        ∃ t, exec (.hubReset tag ctx base n) s = .next t ∧
          t = { s with hub := t.hub, luCmd := done tag.toNat .ok 0, groups := t.groups, fly := { s.fly with
            watches := t.fly.watches, wakes := t.fly.wakes } } ∧
          (∀ k, k ≤ n → ringAway s (base + k) = false → hubBusy s (base + k) = false →
            hubOf t (base + k) = { hubOf s (base + k) with count := 0 }) ∧
          ∀ k, k < base ∨ base + n < k → tfind t.hub k = tfind s.hub k) ∧
      ((∃ k, k ≤ n ∧ (hubOf s (base + k)).n ≠ 0) →
        exec (.hubReset tag ctx base n) s = .next { s with luCmd := done tag.toNat .r5 0 }) ∧
      (∀ page, page < 8192 → pbPageIn s page 0 (some ctx) = true → Memory.wf s.pb = true →
        ∃ t, exec (.snapshot tag ctx base n page) s = .next t ∧
          t = { s with pb := t.pb, pbPoison := t.pbPoison, free := t.free, luCmd := done tag.toNat .ok 0 } ∧
          (∀ j, j < 8 → mget t.pb (page * 4096 + j) = (natBytes (stamp s 35).toNat 8).getD j 0) ∧
          (∀ k j, k ≤ n → j < 4 → ringAway s (base + k) = false → mget t.pb (page * 4096 + 64 + 4 * k + j) =
            (natBytes (hubOf s (base + k)).count.toNat 4).getD j 0) ∧
          ∀ b, (b < page * 4096 ∨ page * 4096 + 68 + 4 * n ≤ b ∨ page * 4096 + 8 ≤ b ∧ b < page * 4096 + 64) →
            mget t.pb b = mget s.pb b))) ∧
  ∀ (s : State) (tag : BitVec 4) (ctx base n : Nat), FeReady s → s.luCmd.busy = false → ctx < 1024 → base < 256 → n < 16 →
    (ctxOf s ctx).st ≠ .active →
    ∀ c ∈ [Instr.hubAlloc tag ctx base n 0 false, .hubFree tag ctx base n, .snapshot tag ctx base n 0,
      .hubReset tag ctx base n], exec c s = .next { s with luCmd := done tag.toNat .bad3 0 }

/-- Maintenance by address and by set, its end, and the patrol scrub. CLEAN, INVAL and CLEAN_INVAL of an ACTIVE
context, with a legal block in its WRITE window, start the operation on the lines its range or its sets name and
stay busy; otherwise they fail with BAD_CTX, BAD_PAGE, BAD_BLOCK or BAD_RANGE. MAINTENANCE_DONE ends the
operation: discarded lines are gone, a single cleaned line stands in DRAM, named L1 sets and flashed cores are
empty, no other line or core changes, and a partition whose disable waited goes on. PATROL_SCRUB counts and
records a corrected word, and poisons and records an uncorrectable one. (R290, R291, R292, R405, Table 14-6,
Table 14-7, Table 14-8) -/
def Obligations.CacheMaintenance : Prop :=
  (∀ (s : State) (tag : BitVec 4) (ctx page mode op : Nat) (b : BitVec 256) (c : Instr), MgmtReady s →
    s.mem.stat.busy = false → ctx < 1024 → page < 8192 →
    (c, op) ∈ [(Instr.clean tag ctx mode page, 1), (.inval tag ctx mode page, 2), (.cleanInval tag ctx mode page, 3)] →
    mode < 4 →
    ((ctxOf s ctx).st ≠ .active → exec c s = .next { s with mem := { s.mem with stat := done tag.toNat .bad3 0 } }) ∧
    ((ctxOf s ctx).st = .active → writePage s page (some ctx) = false →
      exec c s = .next { s with mem := { s.mem with stat := done tag.toNat .badPage 0 } }) ∧
    ((ctxOf s ctx).st = .active → writePage s page (some ctx) = true → pbBad s (page * 4096) 32 = [] →
      b = BitVec.ofNat 256 (pbBlock s page 32) →
      (2 ≤ mode ∨ blockOk s (ctxOf s ctx).part (mode == 1) b = false →
        exec c s = .next { s with mem := { s.mem with stat := done tag.toNat .badBlock 0 } }) ∧
      (mode = 0 → blockOk s (ctxOf s ctx).part false b = true → rangeOk s ctx (mbBase b) (mbLen b) = false →
        exec c s = .next { s with mem := { s.mem with stat := done tag.toNat .r5 0 } }) ∧
      (mode = 0 → blockOk s (ctxOf s ctx).part false b = true → rangeOk s ctx (mbBase b) (mbLen b) = true →
        exec c s = .next { s with mem := { s.mem with
          stat := { result := s.mem.stat.result, tag := tag.toNat, busy := true }
          op := some (maintAddr s (ctxOf s ctx).part op (mbBase b) (mbLen b)) } }) ∧
      (mode = 1 → blockOk s (ctxOf s ctx).part true b = true →
        exec c s = .next { s with mem := { s.mem with
          stat := { result := s.mem.stat.result, tag := tag.toNat, busy := true }
          op := some (maintSet s op (mbCache b) (mbUnit b) (mbSet b) (mbCount b)) } }))) ∧
  (∀ (s : State), s.runs = true → s.mem.op = none → exec .maintenanceDone s = .next s) ∧
  (∀ (s : State) (m : MaintOp), s.runs = true → s.mem.op = some m →
    ∃ t v, exec .maintenanceDone s = .next t ∧ t = partsStop v ∧ v = { s with mem := v.mem, cores := v.cores } ∧
      (s.cfg.parts.all (fun p => (fnOf s p.idx).st != .on || (fnOf s p.idx).en) = true → t = v) ∧ v.mem.op = none ∧
      v.mem.stat = { s.mem.stat with result := .ok, busy := false } ∧
      (m.discard = true → ∀ e ∈ m.lines, ∀ l, tfind s.mem.l2 e.1 = some l → l.tag = e.2 → tfind v.mem.l2 e.1 = none) ∧
      (∀ k, (∀ e ∈ m.lines, ∀ l, e.1 = k → tfind s.mem.l2 k = some l → l.tag ≠ e.2) →
        tfind v.mem.l2 k = tfind s.mem.l2 k) ∧
      (m.clean = false → v.mem.dram = s.mem.dram) ∧ v.mem.ss = s.mem.ss ∧
      (∀ e l a, m.clean = true → m.lines = [e] → tfind s.mem.l2 e.1 = some l → l.tag = e.2 → l2Addr s e.1 l.tag = some a →
        l.dirty = true → s.mem.poison.any (fun w => inside w 8 a 128) = false → Memory.wf s.mem.dram = true →
        l.data.length = 128 →
        (∀ b, mget v.mem.dram b = if a ≤ b ∧ b < a + 128 then l.data.getD (b - a) 0 else mget s.mem.dram b) ∧
        (m.discard = false → tfind v.mem.l2 e.1 = some { l with dirty := false })) ∧
      (∀ c ∈ m.flash, (coreOf v c).l1 = []) ∧
      (∀ e ∈ m.l1, if e.2.1 then tfind (coreOf v e.1).l1i e.2.2 = none else tfind (coreOf v e.1).l1 e.2.2 = none) ∧
      ∀ c, (∀ e ∈ m.l1, e.1 ≠ c) → c ∉ m.flash → coreOf v c = coreOf s c) ∧
  (∀ (s : State) (line w a : Nat), s.runs = true → w < 16 → a = ssStart + line * 128 + 8 * w →
    (∃ t, exec (.patrolScrub line [w] []) s = .next t ∧ t.log.ceSs = s.log.ceSs + 1 ∧
      t = { s with free := t.free, log := t.log } ∧
      Appends s t (fun r => r.code = 0x0001 ∧ r.cls = 1 ∧ r.unit = 1 ∧ r.addr = BitVec.ofNat 40 a)) ∧
    (∃ t, exec (.patrolScrub line [] [w]) s = .next t ∧ t.mem = (poisonWord s a).mem ∧ a ∈ t.mem.poison ∧
      Appends s t (fun r => r.code = 0x0003 ∧ r.unit = 1 ∧ r.addr = BitVec.ofNat 40 a ∧ r.ctx = ownerOf s a) ∧
      t.mem = { s.mem with poison := t.mem.poison }))

/-- A DRAW node opens a pass; batches are binned, rendered, or wait for memory. The start of a running DRAW node
whose descriptor, records and objects pass every check opens a pass in BINNING with them. A batch whose turn it
is, of at most 256 triangles the draw list can give, bins them in order: with all binned the pass goes on, to
RENDER after the last triangle of the list; at one that finds no room it asks for growth with a record, the
cause and a count. A triangle listed nowhere only counts. The expiry of the timer that ran out first starts that
pass's flush, with a record and a count, or is kept until the pass holds the binner. The end of a flush empties
the list area and binning goes on. What clipping leaves of a triangle comes with the batch (log 29). (R298,
R299, R301, R304, R305, R307, R308, R309, Table 15-9) -/
def Obligations.RenderPasses : Prop :=
  (∀ (s : State) (id node : Nat) (x : Inst) (g : Graph) (d : BitVec 1024) (list : Nat) (draws : List (BitVec 512)), s.runs = true →
    tfind s.insts id = some x → graphOf s x = some g → nType (g.nodes.getD node 0) = 2 → (x.node node).st = .running →
    (x.node node).ended = 0 → passOf s id node = none → partRuns s x.part = true →
    d = BitVec.ofNat 1024 (dmNum s (g.param (8 * nPassOff (g.nodes.getD node 0))) 128) →
    dmFault s (g.param (8 * nPassOff (g.nodes.getD node 0))) 128 = none → passFieldsOk d = true →
    (∀ r ∈ pdRecs d, r ∈ x.handlePatched ∧ dmFault s (g.param (8 * r)) 16 = none) → list = (handleRec s g (pdList d)).1 →
    (∀ i, i < pdNdraw d → drawCheck s x (list + 64 * i) 64 .rd = none) →
    draws = (List.range (pdNdraw d)).map (fun i => BitVec.ofNat 512 (dmNum s (list + 64 * i) 64)) →
    passOk s g x.part d draws = true →
    ∃ t p, exec (.drawNodeStart id node) s = .next t ∧ p = newPass s id node x g d draws ∧
      t = { s with passes := tput s.passes s.orders p, orders := s.orders + 1 } ∧ p.st = .binning ∧ p.inst = id ∧
      p.node = node ∧ p.part = x.part ∧ p.ctx = x.ctx ∧ p.desc = d ∧ p.draws = draws ∧ p.lists = [] ∧ p.owners = [] ∧
      p.finished = [] ∧ p.tris = []) ∧
  (∀ (s : State) (part : Nat), s.runs = true →
    ((∀ e, binHolder s part = some e → ¬(e.2.st = .growWait ∧ e.2.expired = true)) → binSettle s part = s) ∧
    (binHolder (binSettle s part) part = none → ∀ tris h, exec (.binBatch part tris h) s = .next (binSettle s part)) ∧
    (growing (binSettle s part) part = none → exec (.growWaitExpire part) s = .next (binSettle s part))) ∧
  (∀ (s v : State) (part id : Nat) (p q : Pass) (tris : List Tri), s.runs = true → binSettle s part = s →
    binHolder s part = some (id, p) → tfind s.passes id = some p → p.st = .binning → p.todo = [] → partRuns s part = true →
    rrNext s.rr.bin ((List.range 8).filter (binPending s)) = some part → tris.length ≤ 256 →
    (∀ c, p.pos = some c → posStop s p c = none) → batchOk s p p.pos tris = true →
    v = binTris id tris (modPass { s with rr := { s.rr with bin := part } } id (fun p => { p with todo := [] })) →
    tfind v.passes id = some q →
    (q.todo = [] → q.pos ≠ none → exec (.binBatch part tris id) s = .next (binSettle v part)) ∧
    (q.todo = [] → q.pos = none → ∃ u, exec (.binBatch part tris id) s = .next (binSettle u part) ∧
      u = { v with passes := u.passes } ∧
      tfind u.passes id = some { q with st := .render, next := 0, back := [], finished := [] }) ∧
    (q.todo ≠ [] → ∃ u, exec (.binBatch part tris id) s = .next (binSettle u part) ∧ u.irq.cause.getLsbD 11 = true ∧
      tfind u.passes id = some { q with st := .growWait, expired := false, reqAt := v.orders, asked := now35 v } ∧
      (tget u.binReq q.part {}).waits = (tget v.binReq q.part {}).waits + 1 ∧
      Appends v u (fun r => r.code = 0x0031 ∧ r.cls = 0 ∧ r.ctx = some q.ctx ∧ r.info = BitVec.ofNat 32 q.node)) ∧
    (∀ x c, tris = [x] → p.pos = some c → binTiles p (p.draw c.1) x = [] →
      q = { p with tris := p.tris ++ [{ draw := c.1, inst := c.2.1, tri := c.2.2, keys := posKeys s p c, poly := x.poly }]
                   pos := nextPos p c })) ∧
  (∀ (s : State) (part id : Nat) (p : Pass), s.runs = true → binSettle s part = s → growing s part = some (id, p) →
    tfind s.passes id = some p → p.st = .growWait → p.part = part →
    (binHolder s part = some (id, p) →
      ∃ t, exec (.growWaitExpire part) s = .next t ∧ tfind t.passes id =
          some { p with st := .flush, next := 0, back := [], finished := [], expired := false } ∧
        (∀ k, k ≠ id → tfind t.passes k = tfind s.passes k) ∧
        (tget t.binReq part {}).flushes = (tget s.binReq part {}).flushes + 1 ∧
        Appends s t (fun r => r.code = 0x0031 ∧ r.cls = 0 ∧ r.ctx = some p.ctx ∧
          r.info = BitVec.ofNat 32 (p.node + 65536))) ∧
    (∀ k q, k ≠ id → binHolder s part = some (k, q) → ¬(q.st = .growWait ∧ q.expired = true) →
      exec (.growWaitExpire part) s = .next (modPass s id (fun p => { p with expired := true })))) ∧
  (∀ (s : State) (part id : Nat) (p : Pass), s.runs = true → binSettle s part = s → binHolder s part = some (id, p) →
    tfind s.passes id = some p → p.st = .flush → p.owners = [] →
    (tkeys p.lists (fun _ l => !l.isEmpty)).all (p.finished.contains ·) = true →
    ∃ v, exec (.flushEnd part) s = .next (binSettle (binGo v id) part) ∧ v = { s with passes := v.passes } ∧
      tfind v.passes id = some { p with
        st := .binning, chunks := p.area ++ p.taken.reverse.flatMap (objChunks s), fill := 0, left := 0, lists := []
        blocks := [], recs := [], tris := [], shaded := [], next := 0, back := [], finished := [], flushed := true } ∧
      ∀ k, k ≠ id → tfind v.passes k = tfind s.passes k)

/-- Tiles are assigned and resolved; objects are granted to and withdrawn from the reserve. TILE_ASSIGN gives a
core the next tile of the first pass that has one, its working buffer cleared or loaded as the attachment says;
with none it does nothing. TILE_RESOLVE of a shaded and merged tile writes its attachments, or in a flush of a
multisampled pass its samples to the spill object, frees the core, and ends the node with the last tile of
RENDER. What the working buffer leaves in the pool is free (log 8). GRANT puts a right object into the context's
reserve, and the oldest pass of it whose timer runs takes it and bins on; WITHDRAW takes out one no pass uses.
Each fails by the codes of Table 15-6 and changes no other pass, object or context. (R305, R306, R310, R311,
R316, Table 15-6, Table 15-7) -/
def Obligations.TilesAndReserve : Prop :=
  (∀ (s : State) (part core : Nat), s.runs = true → coreIn s part core = true → partRuns s part = true →
    (rendering s part).find? (fun e => !thas e.2.owners core && (nextTile e.2).isSome) = none →
    exec (.tileAssign part core) s = .next s) ∧
  (∀ (s : State) (part core id k : Nat) (p q : Pass) (x : Inst), s.runs = true → coreIn s part core = true →
    partRuns s part = true →
    (rendering s part).find? (fun e => !thas e.2.owners core && (nextTile e.2).isSome) = some (id, p) →
    tfind s.passes id = some p → nextTile p = some (k, q) → tfind s.insts p.inst = some x →
    (∀ r ∈ (pdAtts p.desc).flatMap (loadRanges p k), drawCheck s x r.1 r.2 .rd = none) → s.mem.macBad = [] →
    (tileBytes p.desc = 0 ∨ permits s x.ctx x.ranges (bufferOf s p core) (tileBytes p.desc) .wr = true) →
    ∃ t r, exec (.tileAssign part core) s = .next t ∧
      t = { s with passes := t.passes, mem := t.mem, free := t.free } ∧ tfind t.passes id = some r ∧
      r = { q with owners := tput q.owners core k, buf := r.buf } ∧
      (∀ j, j ≠ id → tfind t.passes j = tfind s.passes j) ∧ (∀ i ∈ pdAtts p.desc, thas r.buf (5 * k + i) = true) ∧
      (∀ i ∈ pdAtts p.desc, loadFrom p k i = .none → attLoad (pdAtt p.desc i) = 1 → tget r.buf (5 * k + i) [] =
        List.replicate (1024 * pdSamples p.desc)
          (BitVec.ofNat 64 (pdClear p.desc i % 2 ^ (8 * pxBytes (attFmt (pdAtt p.desc i)))))) ∧
      (∀ i, (pdAtts p.desc).head? = some i → loadFrom p k i ≠ .none →
        tget r.buf (5 * k + i) [] = (loadAtt s p k i).map (BitVec.ofNat 64))) ∧
  (∀ (s v : State) (part core id k : Nat) (p : Pass) (x : Inst) (sp : Bool) (ws : List (Nat × List Byte)), s.runs = true →
    (rendering s part).find? (fun e => tileReady e.2 core) = some (id, p) → tfind s.passes id = some p →
    k = tget p.owners core 0 → tfind s.insts p.inst = some x → s.mem.macBad = [] →
    sp = (p.st == .flush && decide (0 < pdSlog p.desc)) →
    ws = (if sp then (pdAtts p.desc).map (fun i => (spillOf p i k, (tget p.buf (5 * k + i) []).flatMap
        (fun v => natBytes v.toNat (pxBytes (attFmt (pdAtt p.desc i))))))
      else ((pdAtts p.desc).filter (fun i => p.st == .flush || attStore (pdAtt p.desc i) == 0)).flatMap (attWrites p · k)) →
    (∀ w ∈ ws, w.2 = [] ∨ permits s x.ctx x.ranges w.1 w.2.length .wr = true) →
    (tileBytes p.desc = 0 ∨ permits s x.ctx x.ranges (bufferOf s p core) (tileBytes p.desc) .wr = true) →
    v = ws.foldl (fun s w => dmWrite s (polAt s p.ctx w.1) w.1 w.2) s →
    (¬(p.st = .render ∧ p.finished.length + 1 = pdTiles p.desc) →
      ∃ t, exec (.tileResolve part core) s = .next t ∧ t = { s with passes := t.passes, mem := t.mem, free := t.free } ∧
        t.mem = (drawScribble v p (bufferOf s p core) (tileBytes p.desc)).mem ∧ tfind t.passes id = some { p with
          owners := tdel p.owners core, queue := tdel p.queue core, finished := k :: p.finished
          spilled := if sp then k :: p.spilled else p.spilled, buf := p.buf.filter (fun e => e.1 / 5 != k) } ∧
        ∀ j, j ≠ id → tfind t.passes j = tfind s.passes j) ∧
    (p.st = .render → p.finished.length + 1 = pdTiles p.desc → thas x.nodes p.node = true →
      ∃ t y, exec (.tileResolve part core) s = .next t ∧ tfind t.passes id = none ∧ tfind t.insts p.inst = some y ∧
        (y.node p.node).ended = 1 ∧ t.mem = (drawScribble v p (bufferOf s p core) (tileBytes p.desc)).mem ∧
        ∀ j, j ≠ id → tfind t.passes j = tfind s.passes j)) ∧
  (∀ (s : State) (tag : BitVec 4) (ctx : Nat) (h : W32), FeReady s → s.binCmd.busy = false → ctx < 1024 →
    (ctxOf s ctx).st = .active →
    (resolve s ctx h.toNat true true false = none →
      exec (.grant tag ctx h) s = .next { s with binCmd := done tag.toNat .badBlock 0 }) ∧
    ∀ (o : Hit) (pr : Partition), partRec s (ctxOf s ctx).part = some pr → resolve s ctx h.toNat true true false = some o →
      (inside o.base o.len (ssRange pr).1 (ssRange pr).2 = false ∨ o.len < 65536 ∨ o.idx ∈ (ctxOf s ctx).reserve →
        exec (.grant tag ctx h) s = .next { s with binCmd := done tag.toNat .badBlock 0 }) ∧
      (inside o.base o.len (ssRange pr).1 (ssRange pr).2 = true → 65536 ≤ o.len → o.idx ∉ (ctxOf s ctx).reserve →
        8 ≤ (ctxOf s ctx).reserve.length →
        exec (.grant tag ctx h) s = .next { s with binCmd := done tag.toNat .resource 0 }) ∧
      (inside o.base o.len (ssRange pr).1 (ssRange pr).2 = true → 65536 ≤ o.len → o.idx ∉ (ctxOf s ctx).reserve →
        (ctxOf s ctx).reserve.length < 8 →
        ∃ v, v = { s with ctxs := v.ctxs, objs := v.objs, passes := v.passes, binCmd := done tag.toNat .ok 0 } ∧
          ctxOf v ctx = { ctxOf s ctx with reserve := (ctxOf s ctx).reserve ++ [o.idx] } ∧
          (∀ c, c ≠ ctx → ctxOf v c = ctxOf s c) ∧ (∀ k, k ≠ o.idx → tfind v.objs k = tfind s.objs k) ∧
          tget v.objs o.idx {} = { tget s.objs o.idx {} with refs := (tget s.objs o.idx {}).refs + 1 } ∧
          (grantee s ctx = none → exec (.grant tag ctx h) s = .next v ∧ v.passes = s.passes) ∧
          ∀ id p, grantee s ctx = some (id, p) → tfind s.passes id = some p →
            tfind v.passes id = some { p with
              st := .binning, taken := o.idx :: p.taken, chunks := p.chunks ++ objChunks v o.idx } ∧
            (∀ k, k ≠ id → tfind v.passes k = tfind s.passes k) ∧
            exec (.grant tag ctx h) s =
              .next (if (binHolder v p.part).any (·.1 == id) then binSettle (binGo v id) p.part else v))) ∧
  (∀ (s : State) (tag : BitVec 4) (ctx i : Nat) (h : W32), FeReady s → s.binCmd.busy = false → ctx < 1024 →
    (ctxOf s ctx).st = .active → i = h.toNat % 262144 →
    (i ∉ (ctxOf s ctx).reserve ∨ (tget s.objs i {}).gen ≠ h.toNat / 262144 →
      exec (.withdraw tag ctx h) s = .next { s with binCmd := done tag.toNat .badBlock 0 }) ∧
    (i ∈ (ctxOf s ctx).reserve → (tget s.objs i {}).gen = h.toNat / 262144 → s.passes.any (·.2.taken.contains i) = false →
      ∃ t, exec (.withdraw tag ctx h) s = .next t ∧
        t = { s with ctxs := t.ctxs, objs := t.objs, binCmd := done tag.toNat .ok 0 } ∧
        ctxOf t ctx = { ctxOf s ctx with reserve := (ctxOf s ctx).reserve.filter (· != i) } ∧
        (∀ c, c ≠ ctx → ctxOf t c = ctxOf s c) ∧ (∀ k, k ≠ i → tfind t.objs k = tfind s.objs k) ∧
        tget t.objs i {} = Obj.settle i { tget s.objs i {} with refs := (tget s.objs i {}).refs - 1 }) ∧
    (i ∈ (ctxOf s ctx).reserve → (tget s.objs i {}).gen = h.toNat / 262144 → s.passes.any (·.2.taken.contains i) = true →
      exec (.withdraw tag ctx h) s = .next { s with binCmd := done tag.toNat .r5 0 }))

/-- vin, vout, fout, kill, aread, oenter, oexit and rsv. vin and rsv write what the set-up gives to the
executing lanes of their destination, rsv a scalar pair for its two addresses, and no other register. fout puts
the four values of its executing lanes into the colour they name in the group's entry in its tile's queue, kill
and oexit mark those lanes there, and vout puts its values into the output of its group, or only moves on past
nvar; nothing else in the pass or elsewhere changes. aread reads the stored sample once the entry is first in
the queue, and stalls until then; oenter stalls on an earlier fragment of a lane's pixel still open; in an
unordered pass both oenter and oexit only move on. (R303, R310, R311, R312, R314, R319, Table 15-12) -/
def Obligations.RasterInstructions : Prop :=
  (∀ (s : State) (sp : SplitRef) (w : IWord) (i : Iss) (pid : Nat) (p : Pass) (r : RasSetup), Issues s sp w .none i →
    rasOf s i [.fragment] = some (pid, p, r) →
    (wOp w = 0x383 → wD w < i.w.vregs → depends s i (guardRead w ++ vRegs (wD w) (laneList i.lanes)) = false →
      RunsOn s (.vin sp w) i (RegsAre i · (fun _ => none) (fun _ _ => none) (fun n l =>
        if n = wD w ∧ i.lanes.getLsbD l = true then some (match laneOf r l with
          | none => 0
          | some f => (if wCtlBit w 4 then f.prov else f.vars).getD (wCtl w % 16) 0) else none))) ∧
    (wOp w = 0x384 → wCtl w ≤ 3 → wA w + 4 ≤ i.w.vregs →
      depends s i (guardRead w ++ (List.range 4).flatMap (fun j => vRegs (wA w + j) (laneList i.lanes))) = false →
      ∃ f, RunsInPass s (.fout sp w) i pid f ∧ ∀ m, f m = { m with out := (f m).out } ∧
        (∀ l j, l < 32 → i.lanes.getLsbD l = true → j < 4 →
          tfind (f m).out (l * 16 + wCtl w * 4 + j) = some (readV i.g (wA w + j) l)) ∧
        ∀ n, (∀ l j, l < 32 → i.lanes.getLsbD l = true → j < 4 → n ≠ l * 16 + wCtl w * 4 + j) →
          tfind (f m).out n = tfind m.out n) ∧
    (wOp w = 0x385 → depends s i (guardRead w) = false →
      RunsInPass s (.kill sp w) i pid (fun m => { m with killed := m.killed ||| i.lanes })) ∧
    (wOp w = 0x386 → wCtl w < pdNcol p.desc → wCtl w ≤ 3 → wD w + 4 ≤ i.w.vregs →
      depends s i (guardRead w ++ (List.range 4).flatMap (fun j => vRegs (wD w + j) (laneList i.lanes))) = false →
      ((myQueue p i).1.takeWhile (·.wg != i.id) = [] →
        RunsOn s (.aread sp w) i (RegsAre i · (fun _ => none) (fun _ _ => none) (fun n l =>
          if i.lanes.getLsbD l = true ∧ wD w ≤ n ∧ n < wD w + 4 then some ((match laneOf r l with
            | none => [0, 0, 0, 0]
            | some f => pxDecode (attFmt (pdAtt p.desc (wCtl w))) (p.sample (tget p.owners sp.core 0) (wCtl w)
                (sampleIdx p.desc f.x f.y f.sample))).getD (n - wD w) 0) else none))) ∧
      ((myQueue p i).1.takeWhile (·.wg != i.id) ≠ [] → ∃ t, exec (.aread sp w) s = .next t ∧ IssueOnly s t i ∧
        tfind t.groups i.key = some (i.stalled s .unit))) ∧
    (wOp w = 0x387 → depends s i (guardRead w) = false →
      (pdOrdered p.desc = false ∨ (∀ m, (myQueue p i).2 = some m →
          earlierFragment s (myQueue p i).1 m i.w.helpers i.lanes = false) → RunsBare s (.oenter sp w) i) ∧
      (∀ m, pdOrdered p.desc = true → (myQueue p i).2 = some m →
        earlierFragment s (myQueue p i).1 m i.w.helpers i.lanes = true → ∃ t, exec (.oenter sp w) s = .next t ∧
          IssueOnly s t i ∧ tfind t.groups i.key = some (i.stalled s .unit))) ∧
    (wOp w = 0x388 → depends s i (guardRead w) = false →
      (pdOrdered p.desc = false → RunsBare s (.oexit sp w) i) ∧
      (pdOrdered p.desc = true → ∃ t, exec (.oexit sp w) s = .next t ∧ Moves s t i ∧ FetchOnly s t i ∧
        (i.hot s → t.mem = s.mem) ∧ t = { s with
          groups := t.groups, cores := t.cores, mem := t.mem
          passes := (modMerge s pid sp.core i.id (fun m => { m with exited := m.exited ||| i.lanes })).passes } ∧
        ∀ k g, k ≠ i.key → tfind s.groups k = some g → ∃ h, tfind t.groups k = some h ∧ h.sameRegs g ∧
          ∀ n x, g.splits = [(n, x)] → x.st = .stalled → x.why = .unit →
            h.splits = [(n, x.toReady (coreNow s (k / 64)))]))) ∧
  (∀ (s : State) (sp : SplitRef) (w : IWord) (i : Iss) (pid : Nat) (p : Pass) (r : RasSetup), Issues s sp w .none i →
    rasOf s i [.vertex] = some (pid, p, r) → wOp w = 0x382 → wCtl w ≤ 16 →
    wA w + (if wCtl w = 0 then 4 else 1) ≤ i.w.vregs →
    depends s i (guardRead w ++ (List.range (if wCtl w = 0 then 4 else 1)).flatMap
      (fun j => vRegs (wA w + j) (laneList i.lanes))) = false →
    (wCtl w ≠ 0 → drNvar (p.draw r.draw) < wCtl w → RunsBare s (.vout sp w) i) ∧
    ((wCtl w ≠ 0 → wCtl w ≤ drNvar (p.draw r.draw)) →
      ∃ t o, exec (.vout sp w) s = .next t ∧ Moves s t i ∧ FetchOnly s t i ∧ (i.hot s → t.mem = s.mem) ∧
        (∀ k, k ≠ i.key → tfind t.groups k = tfind s.groups k) ∧
        t = { s with groups := t.groups, cores := t.cores, mem := t.mem, fly := { s.fly with
          ras := tput s.fly.ras i.key { out := o } } } ∧
        (∀ l j, l < 32 → i.lanes.getLsbD l = true → j < (if wCtl w = 0 then 4 else 1) →
          tfind o (l * 32 + (if wCtl w = 0 then j else 3 + wCtl w)) = some (readV i.g (wA w + j) l)) ∧
        ∀ n, (∀ l j, l < 32 → i.lanes.getLsbD l = true → j < (if wCtl w = 0 then 4 else 1) →
            n ≠ l * 32 + (if wCtl w = 0 then j else 3 + wCtl w)) →
          tfind o n = tfind ((tfind s.fly.ras i.key).getD { out := [] }).out n)) ∧
  (∀ (s : State) (sp : SplitRef) (dst : Dst) (w : IWord) (i : Iss), Issues s sp w .none i → wOp w = 0x389 →
    dst ≠ .predicate → dstOk i dst = true →
    (wCtl w ≤ 6 → depends s i (guardRead w ++ dstRegs i dst (laneList i.lanes)) = false →
      RunsOn s (.rsv sp dst w) i (Receives i · dst (wD w) (fun l =>
        BitVec.ofNat 32 (rsvVal ((rasOf s i [.vertex, .fragment]).map (fun e => (e.2.1, e.2.2))) (wCtl w) l)))) ∧
    (dst = .scalar → 7 ≤ wCtl w → wCtl w ≤ 8 → wD w % 2 = 0 →
      depends s i (guardRead w ++ [.s (wD w), .s (wD w + 1)]) = false →
      RunsOn s (.rsv sp dst w) i (RegsAre i · (fun n => if i.lanes = 0 then none else
        if n = wD w then some (BitVec.ofNat 32 (rsvAddr s i (wCtl w)))
        else if n = wD w + 1 then some (BitVec.ofNat 32 (rsvAddr s i (wCtl w) / 2 ^ 32)) else none)
        (fun _ _ => none) (fun _ _ => none))))

/-- tex and tload. A texture read whose descriptor and texels the context may read, with no fault behind them,
writes the four registers of its executing lanes only. A raw read, and a nearest read of a texture of one level,
gives the decoded texel of the coordinate as its wrap or clamp places it; what other filters and level choices
give is free (log 29). With no lane executing it only moves on. (R106, R315, R319, Table 15-13) -/
def Obligations.Textures : Prop :=
  ∀ (s u : State) (sp : SplitRef) (w : IWord) (i : Iss) (a : Nat) (d : BitVec 256) (raw : Bool), Issues s sp w .none i →
    u = issueState s i true → wOp w = (if raw then 0x381 else 0x380) → wA w < 64 → wA w % 2 = 0 → wB w + 2 ≤ i.w.vregs →
    wC w < i.w.vregs → wD w + 4 ≤ i.w.vregs →
    depends s i (guardRead w ++ ([.s (wA w), .s (wA w + 1)] ++ vRegs (wB w) (laneList i.lanes) ++
      vRegs (wB w + 1) (laneList i.lanes) ++ vRegs (wC w) (laneList i.lanes) ++
      (List.range 4).flatMap (fun k => vRegs (wD w + k) (laneList i.lanes)))) = false →
    (i.lanes = 0 → RunsBare s (if raw then .tload sp w else .tex sp w) i) ∧
    (i.lanes ≠ 0 → a = readS64 i.g (wA w) → wgMay s i.w (a : Nat) 32 .rd = true →
      d = BitVec.ofNat 256 (dmNum u a 32) → tdOk d = true →
      ((laneList i.lanes).flatMap (texRanges u i raw d)).all (fun r => wgMay s i.w (r.1 : Nat) r.2 .rd) = true →
      ((a, 32) :: (laneList i.lanes).flatMap (texRanges u i raw d)).findSome? (fun r => dmFault u r.1 r.2) = none →
      (raw = true ∨ bits d 115 114 = 0 ∧ tdLevels d = 1 →
        RunsOn s (if raw then .tload sp w else .tex sp w) i (RegsAre i · (fun _ => none) (fun _ _ => none) (fun n l =>
          if i.lanes.getLsbD l = true ∧ wD w ≤ n ∧ n < wD w + 4 then some (
            (pxDecode (tdFmt d) (texel u d (texLevel raw d (readV i.g (wC w) l))
              (texCoord raw (readV i.g (wB w) l) (tdW d (texLevel raw d (readV i.g (wC w) l))))
              (texCoord raw (readV i.g (wB w + 1) l) (tdH d (texLevel raw d (readV i.g (wC w) l))))).2).getD (n - wD w) 0)
          else none))) ∧
      (raw = false → ¬(bits d 115 114 = 0 ∧ tdLevels d = 1) →
        ∃ t g, exec (.tex sp w) s = .next t ∧ tfind t.groups i.key = some g ∧ FetchOnly s t i ∧
          (∀ k, k ≠ i.key → tfind t.groups k = tfind s.groups k) ∧
          t = { s with groups := t.groups, cores := t.cores, mem := u.mem, free := t.free } ∧
          g.sreg = i.g.sreg ∧ g.preg = i.g.preg ∧ g.acc = i.g.acc ∧
          ∀ n l, l < 32 → (n < wD w ∨ wD w + 4 ≤ n ∨ i.lanes.getLsbD l = false) → readV g n l = readV i.g n l))

/-- trace issues rays, buckets release them, completion writes hit records. A legal trace of a group whose Eddy
unit is on, of which no register is awaited and with a place free, puts one trace in flight whose valid lanes
wait, each in the bucket of its octant and origin cell, leaves every register and moves on; its lane areas in
local store are the unit's. With no lane executing it only moves on; with the unit off or no place free it
stalls. A bucket of 32 rays, or whose oldest has waited 64 cycles, releases its oldest 32; another keeps them. A
complete trace, whose nodes and entries are those of the hierarchy in memory, writes exactly the hit records
(log 13) of the lanes active at issue, and is gone; a header with a wrong magic or format ends its command with
FORMAT_FAULT. (R320, R321, R322, R323, R324, R325, R330, R331, Table 16-4, Table 16-5, Table 16-6) -/
def Obligations.Traces : Prop :=
  (∀ (s u : State) (sp : SplitRef) (w : IWord) (i : Iss) (n : Nat), Issues s sp w .t i → u = issueState s i true →
    wOp w = 0x340 → n = (if wCtlBit w 0 then 12 else 8) → traceEncOk i n = true →
    depends s i (guardRead w ++ (List.range 4).map (fun k => .s (wB w + k)) ++
      (List.range n).flatMap (fun k => vRegs (wA w + k) (laneList i.lanes)) ++
      (List.range n).flatMap (fun k => vRegs (wD w + k) (laneList i.lanes))) = false →
    (i.lanes = 0 → RunsBare s (.trace sp w) i) ∧
    (i.lanes ≠ 0 → fnOn s (12 + sp.core / 6) = false → ∃ t, exec (.trace sp w) s = .next t ∧ IssueOnly s t i ∧
      tfind t.groups i.key = some (i.stalled s .eddyOff)) ∧
    (∀ (a : Nat) (h : BvhHdr) (v : State), i.lanes ≠ 0 → fnOn s (12 + sp.core / 6) = true → acquirePending s i = false →
      traceBlockOk i = true → ((traceOf i).calls = true → i.x.cb = none) →
      a = (readS i.g (wB w + 2)).toNat % 2 ^ 20 → a / 262144 = i.w.rank →
      (localAt s i.w a (32 * (traceOf i).areaLen)).isSome = true →
      (32 ≤ (s.fly.traces.filter (·.2.core == sp.core)).length → ∃ t, exec (.trace sp w) s = .next t ∧ IssueOnly s t i ∧
        tfind t.groups i.key = some (i.stalled s .tracePlace)) ∧
      ((s.fly.traces.filter (·.2.core == sp.core)).length < 32 → readHdr u i.w sp.core (traceOf i).bvh = .inr (h, v) →
        ∃ t g, exec (.trace sp w) s = .next t ∧ tfind t.groups i.key = some g ∧ g.sameRegs i.g ∧
          (i.lone → g.stack = [] ∧ g.splits = [(sp.sid, { i.at_ s (nextPc i) with
            cb := if (traceOf i).calls then some s.fly.nextId else i.x.cb })]) ∧
          t = { s with groups := t.groups, cores := t.cores, mem := v.mem, free := t.free, fly := { s.fly with
            traces := tput s.fly.traces s.fly.nextId (traceOf i), nextId := s.fly.nextId + 1
            buckets := t.fly.buckets } } ∧
          (∀ k, k ≠ i.key → tfind t.groups k = tfind s.groups k) ∧ (∀ c, c ≠ sp.core → coreOf t c = coreOf s c) ∧
          (∀ l, l < 32 → (traceOf i).valid.getLsbD l = true → (s.fly.nextId, l, coreNow s sp.core) ∈ tget t.fly.buckets
            (sp.core * 64 + rayBucket h ((tfind (traceOf i).rays l).getD [])) []) ∧
          ∀ k r, r.1 ≠ s.fly.nextId → (r ∈ tget t.fly.buckets k [] ↔ r ∈ tget s.fly.buckets k [])))) ∧
  (∀ (s : State) (core bucket id l : Nat) (at_ : BitVec 48) (r : List (Nat × Nat × BitVec 48)), s.runs = true →
    (tget s.fly.buckets (core * 64 + bucket) []).filter (fun r => thas s.fly.traces r.1) = (id, l, at_) :: r →
    (31 ≤ r.length ∨ 64 ≤ (coreNow s core - at_).toNat →
      exec (.bucketRelease core bucket) s = .next { s with
        fly := { s.fly with buckets := tput s.fly.buckets (core * 64 + bucket) (((id, l, at_) :: r).drop 32) } }) ∧
    (r.length < 31 → (coreNow s core - at_).toNat < 64 → exec (.bucketRelease core bucket) s = .next s)) ∧
  (∀ (s : State) (id : Nat) (t0 : Trace) (w : Wg) (nodes entries : List Nat) (hits : List RayHit), s.runs = true →
    tfind s.fly.traces id = some t0 → tfind s.wgs t0.wg = some w → t0.round = none → (w.st = .placed ∨ w.st = .stopping) →
    rayWaits s id (laneList t0.valid) = false →
    (readHdr s w t0.core t0.bvh = .inl .format →
      exec (.traceComplete id nodes entries hits) s = .next (wgFault s t0.wg .formatFault 0 t0.pc)) ∧
    ∀ (h : BvhHdr) (s1 s2 s3 v : State) (runs r2 : List (Nat × Kid)) (mats : List Nat)
      (recs : List (Option (List (RegId × W32)))) (g : Group), readHdr s w t0.core t0.bvh = .inr (h, s1) →
      walkNodes w t0.core t0.bvh (t0.bvh + h.len) nodes [h.root] [] s1 = .ok runs s2 →
      walkEntries w t0.core t0.bvh (t0.bvh + h.len) runs entries s2 = .ok r2 s3 →
      mats = matAddrs s3 t0 h runs nodes entries hits →
      mats.findSome? (fun a => fetchBad s3 w t0.core a 8 (t0.bvh + h.len)) = none →
      v = mats.foldl (fun s a => (eddyFetch s w t0.core a 8).2) s3 →
      recs = (laneList t0.lanes).map (laneRecord v t0 h runs nodes entries hits) → recs.all (·.isSome) = true →
      tfind s.groups t0.grp = some g →
      ∃ t g', exec (.traceComplete id nodes entries hits) s = .next t ∧ tfind t.groups t0.grp = some g' ∧
        g'.sameRegs (writeRegs g (recs.flatMap (fun r => r.getD []))) ∧
        t = { s with groups := t.groups, cores := t.cores, mem := v.mem, free := t.free, fly := { s.fly with
          traces := tdel s.fly.traces id } } ∧ (∀ c, c ≠ t0.core → coreOf t c = coreOf s c) ∧
        ∀ k g, k ≠ t0.grp → tfind s.groups k = some g → ∃ g', tfind t.groups k = some g' ∧ g'.sameRegs g)

/-- Callback rounds call the kernel, hitret answers. A round takes the candidates of the kind with more lanes,
any-hit on a tie, out of those found, counts a callback for each lane, writes the candidate's hit record and the
current tmax into those lanes' registers and no other, and makes the split READY at the callback with exactly
those lanes. hitret returns the split to its stall, changes no register and ends the round: a lane that accepts
a candidate between tmin and its tmax keeps the better hit and lowers its tmax, and stops where it says so or
flag 0 is set; one that ignores it, or whose t lies outside, keeps what it had. (R327, R328, R329, Table 15-12)
-/
def Obligations.Callbacks : Prop :=
  (∀ (s : State) (id : Nat) (t0 t1 : Trace) (g : Group) (x : Split) (w : Wg) (nodes entries : List Nat)
    (cands : List RayHit) (h : BvhHdr) (s1 s2 s3 : State) (runs r2 : List (Nat × Kid))
    (l mine : List (RayHit × RayBest × Bool)) (kind : Bool), s.runs = true →
    tfind s.fly.traces id = some t0 → tfind s.groups t0.grp = some g → tfind g.splits t0.sid = some x →
    tfind s.wgs t0.wg = some w → t0.round = none → x.cb = some id → x.st = .stalled →
    (x.why = .callback ∨ x.why = .result) → w.st = .placed → readHdr s w t0.core t0.bvh = .inr (h, s1) →
    walkNodes w t0.core t0.bvh (t0.bvh + h.len) nodes [h.root] [] s1 = .ok runs s2 →
    walkEntries w t0.core t0.bvh (t0.bvh + h.len) runs entries s2 = .ok r2 s3 →
    takeFound s3 id h.root runs entries cands t0 [] = some (t1, l) → l ≠ [] →
    kind = decide (l.length < 2 * (l.filter (·.2.2)).length) → mine = l.filter (·.2.2 == kind) →
    ∃ t rd t2 g' y, exec (.callbackRound id nodes entries cands) s = .next t ∧
      t = { s with groups := t.groups, cores := t.cores, mem := s3.mem, fly := { s.fly with
        traces := tput s.fly.traces id t2 } } ∧
      (∀ k, k ≠ t0.grp → tfind t.groups k = tfind s.groups k) ∧ (∀ c, c ≠ t0.core → coreOf t c = coreOf s c) ∧
      t2 = { t1 with round := some rd, seen := t1.seen ++ mine.map (fun c => (c.1.lane, c.1.entry)), ncb := t2.ncb } ∧
      (∀ c ∈ mine, tget t2.ncb c.1.lane 0 = min 255 (tget t1.ncb c.1.lane 0 + 1) ∧ tfind rd.cands c.1.lane = some c.2.1) ∧
      rd = { lanes := maskOf (mine.map (·.1.lane)), intersect := kind, cands := rd.cands, retPc := x.pc, retMask := x.mask
             retWhy := x.why } ∧
      tfind t.groups t0.grp = some g' ∧ tfind g'.splits t0.sid = some y ∧ y = { x with
        st := .ready, why := .none, readyAt := coreNow s t0.core, pc := if kind then t0.cbInt else t0.cbAny
        mask := rd.lanes } ∧
      g'.sreg = g.sreg ∧ g'.preg = g.preg ∧ g'.acc = g.acc ∧
      (∀ c ∈ mine, readV g' (t0.a + 7) c.1.lane = tget t1.tcur c.1.lane 0 ∧ ∀ k, k < 8 → t0.d + k ≠ t0.a + 7 →
        readV g' (t0.d + k) c.1.lane =
          (hitWords 0 (some c.2.1) (tget t2.ncb c.1.lane 0) c.1.nodes c.1.tests).getD k 0) ∧
      ∀ n j, j < 32 → (∀ c ∈ mine, c.1.lane = j → n ≠ t0.a + 7 ∧ (n < t0.d ∨ t0.d + 8 ≤ n)) → readV g' n j = readV g n j) ∧
  (∀ (s : State) (sp : SplitRef) (w : IWord) (i : Iss) (id : Nat) (t0 : Trace) (rd : Round), Issues s sp w .none i →
    wOp w = 0x341 → i.x.cb = some id → tfind s.fly.traces id = some t0 → t0.round = some rd → i.lanes = rd.lanes →
    i.x.mask = rd.lanes → (∀ k ∈ (if rd.intersect then [0, 1, 2] else [0]), srcOk i k = true) →
    depends s i (guardRead w ++
      (if rd.intersect then [0, 1, 2] else [0]).flatMap (fun k => srcRegs i k (laneList rd.lanes))) = false →
    ∃ t t1 g, exec (.hitret sp w) s = .next t ∧ FetchOnly s t i ∧ (i.hot s → t.mem = s.mem) ∧
      (∀ k, k ≠ i.key → tfind t.groups k = tfind s.groups k) ∧
      t = { s with groups := t.groups, cores := t.cores, mem := t.mem, free := t.free, fly := { s.fly with
        traces := tput s.fly.traces id t1 } } ∧
      tfind t.groups i.key = some g ∧ g.sameRegs i.g ∧ tfind g.splits sp.sid = some { i.at_ s rd.retPc with
        st := .stalled, why := rd.retWhy, mask := rd.retMask } ∧
      t1 = { t0 with round := none, best := t1.best, tcur := t1.tcur, stopped := t1.stopped } ∧
      (∀ l, l < 32 → (rd.lanes.getLsbD l = false ∨ (srcVal i 0 l).toNat % 4 = 0) →
        tfind t1.best l = tfind t0.best l ∧ tfind t1.tcur l = tfind t0.tcur l ∧
        t1.stopped.getLsbD l = t0.stopped.getLsbD l) ∧
      ∀ l b c, l < 32 → rd.lanes.getLsbD l = true → (tfind rd.cands l) = some b →
        c = (if rd.intersect then { b with t := srcVal i 1 l, attr := srcVal i 2 l } else b) →
        ((srcVal i 0 l).toNat % 4 = 1 ∨ (srcVal i 0 l).toNat % 4 = 2) →
        (fpLe (((tfind t0.rays l).getD []).getD 3 0) c.t = true → fpLe c.t (tget t0.tcur l 0) = true →
          tfind t1.best l = some (better (tfind t0.best l) c) ∧ tfind t1.tcur l = some c.t ∧
          t1.stopped.getLsbD l = (t0.stopped.getLsbD l || flag t0 0 || (srcVal i 0 l).toNat % 4 == 2)) ∧
        (fpLe (((tfind t0.rays l).getD []).getD 3 0) c.t = false ∨ fpLe c.t (tget t0.tcur l 0) = false →
          tfind t1.best l = tfind t0.best l ∧ tfind t1.tcur l = tfind t0.tcur l ∧
          t1.stopped.getLsbD l = t0.stopped.getLsbD l))

/-- DC_PIPE, CONFIG, FLIP, LUT, SIDEBAND and link training. A DC_PIPE write that names a context outside the
pipe's partition is ignored with a record; one that changes owner or own_en puts them in force at the next
vblank. CONFIG that fails a check gives BAD_BLOCK, a bad cache handle BAD_HANDLE, and nothing changes; with
another timing the pipe restarts, else the block waits for the vblank, and the cache object's references move.
FLIP with a bad handle, a failed check or four queued gives BAD_HANDLE, BAD_BLOCK or RESOURCE; another joins the
queue and takes its references. LUT waits for the vblank, or gives BAD_BLOCK for an entry above 12 bits.
SIDEBAND writes the reply into its 32 bytes (layout: log 22), or gives BAD_BLOCK. Training ends active or failed
by the payload rule. No other pipe changes but pipe 1 as it is ganged. (R337, R338, R339, R340, R343, R344,
R345, R351, Table 17-2, Table 17-3, Table 17-5, Table 17-7) -/
def Obligations.DisplayCommands : Prop :=
  (∀ (s : State) (n : Nat) (val v : W64) (mask : Byte), s.runs = true → v = BitVec.ofNat 64 (maskBytes 8
      (packNat [((pipeOf s n).owner, 14), (b2n (pipeOf s n).ownEn, 13)]) val.toNat mask.toNat) →
    (bit v 13 = true → pipeShows s n (bits v 23 14) = false →
      ∃ t, exec (.dcPipeWrite n val mask) s = .next t ∧ t = { s with log := t.log } ∧
        Appends s t (fun r => r.code = 0x0033 ∧ r.unit = 9 ∧ r.inst = n ∧ r.cls = 0 ∧ r.ctx = some (bits v 23 14))) ∧
    ((bit v 13 = true → pipeShows s n (bits v 23 14) = true) →
      (bit v 13 = (pipeOf s n).ownEn → bits v 23 14 = (pipeOf s n).owner → exec (.dcPipeWrite n val mask) s = .next s) ∧
      ((bit v 13 ≠ (pipeOf s n).ownEn ∨ bits v 23 14 ≠ (pipeOf s n).owner) →
        ∃ t, exec (.dcPipeWrite n val mask) s = .next t ∧
          PipeOnly s t n { pipeOf s n with owner := bits v 23 14, ownEn := bit v 13, ownPend := true }))) ∧
  (∀ (s : State) (n issuer page : Nat) (tag : BitVec 4) (c : BitVec 1024) (h : Nat), PipeReady s n issuer page →
    pbBad s (page * 4096) 128 = [] → c = BitVec.ofNat 1024 (leNat (pbFetch s (page * 4096) 128)) → h = bits c 511 480 →
    (confOk s n c = false → ∃ t, exec (.config n issuer tag page) s = .next t ∧
      PipeOnly s t n { pipeOf s n with stat := done tag.toNat .badBlock 0 }) ∧
    (confOk s n c = true → h ≠ 0 → (resolve s issuer h true true false).all (·.remote) = true →
      ∃ t, exec (.config n issuer tag page) s = .next t ∧
        PipeOnly s t n { pipeOf s n with stat := done tag.toNat .r5 0 }) ∧
    (∀ o, confOk s n c = true → h ≠ 0 → resolve s issuer h true true false = some o → o.remote = false →
      o.len < cHact c * cVact c * (if bit c 291 then 4 else 8) → ∃ t, exec (.config n issuer tag page) s = .next t ∧
        PipeOnly s t n { pipeOf s n with stat := done tag.toNat .badBlock 0 }) ∧
    (∀ cache, confOk s n c = true → (h = 0 ∧ cache = none ∨ h ≠ 0 ∧ ∃ o, resolve s issuer h true true false = some o ∧
        o.remote = false ∧ cHact c * cVact c * (if bit c 291 then 4 else 8) ≤ o.len ∧
        cache = some (o.idx, o.base, o.len)) →
      ∃ t, exec (.config n issuer tag page) s = .next t ∧ t = { s with pipes := t.pipes, objs := t.objs } ∧
        t.objs = (match cache with
          | some r => (objRef (dropRef s (pipeOf s n).cacheObj) r.1).objs
          | none => (dropRef s (pipeOf s n).cacheObj).objs) ∧
        pipeOf t n = (if (pipeOf s n).conf.any (fun o => confTiming o == confTiming c) = true then { pipeOf s n with
            confPend := some c, cacheObj := cache, stat := done tag.toNat .ok 0 }
          else { pipeOf s n with
            conf := some c, confPend := none, cacheObj := cache, flat := [], cache := false
            link := (if cOut c = false then 0 else if n < 2 then 1 else 2), stat := done tag.toNat .ok 0 }) ∧
        (n = 0 → cGang c = true → pipeOf t 1 = { pipeOf s 1 with link := 0 }) ∧
        ∀ m, m ≠ n → ¬(n = 0 ∧ cGang c = true ∧ m = 1) → pipeOf t m = pipeOf s m)) ∧
  (∀ (s : State) (n issuer page : Nat) (tag : BitVec 4) (d : List Byte) (h : BitVec 512) (len : Nat),
    PipeReady s n issuer page →
    len = 64 + 64 * popcount (fMask (BitVec.ofNat 512 (leNat (pbFetch s (page * 4096) 64)))) 16 →
    pbBad s (page * 4096) len = [] → d = pbFetch s (page * 4096) len → h = BitVec.ofNat 512 (leNat (d.take 64)) →
    (layersResolve s issuer (flipDescs d (fMask h)) = none ∨
        fWbEn h = true ∧ (resolve s issuer (bits h 371 340) false true false).all (·.remote) = true →
      ∃ t, exec (.flip n issuer tag page) s = .next t ∧
        PipeOnly s t n { pipeOf s n with stat := done tag.toNat .r5 0 }) ∧
    ∀ (ls after : Tab Layer) (c : Option (BitVec 1024)) (wb : Option (Nat × Nat × Nat)) (good : Bool),
      layersResolve s issuer (flipDescs d (fMask h)) = some ls → c = (pipeOf s n).confPend.or (pipeOf s n).conf →
      (fWbEn h = false ∧ wb = none ∨ fWbEn h = true ∧ ∃ o, resolve s issuer (bits h 371 340) false true false = some o ∧
        o.remote = false ∧ wb = some (o.idx, o.base, o.len)) →
      after = layersAfter (pipeFuture (pipeOf s n)) ls →
      good = (flipRights s issuer h ls && (bits h 79 72 == 0 || (c.any cGang && n == 0)) &&
        ls.all (fun e => !lEn e.2.desc || (layerOk c n (e.1 / 8) e.2.desc && layerFits e.2)) &&
        decide ((after.filter (fun e => e.1 < 8 && lEn e.2.desc && lScaled e.2.desc)).length ≤ 2) &&
        decide ((after.filter (fun e => 8 ≤ e.1 && lEn e.2.desc && lScaled e.2.desc)).length ≤ 2) &&
        (!fWbEn h || wbOk h c wb)) →
      (good = false → ∃ t, exec (.flip n issuer tag page) s = .next t ∧
        PipeOnly s t n { pipeOf s n with stat := done tag.toNat .badBlock 0 }) ∧
      (good = true → 4 ≤ (pipeOf s n).flips.length → ∃ t, exec (.flip n issuer tag page) s = .next t ∧
        PipeOnly s t n { pipeOf s n with stat := done tag.toNat .resource 0 }) ∧
      (∀ f, f = { hdr := h, layers := ls, wb := wb, fences := flipFences h ls } → good = true →
        (pipeOf s n).flips.length < 4 → ∃ t, exec (.flip n issuer tag page) s = .next t ∧
        t = { flipQueue s n f with pipes := t.pipes } ∧
        flipQueue s n f = { s with pipes := (flipQueue s n f).pipes, objs := t.objs, fences := t.fences } ∧
        pipeOf t n = { pipeOf s n with flips := (pipeOf s n).flips ++ [f], stat := done tag.toNat .ok 0 } ∧
        ∀ m, m ≠ n → pipeOf t m = pipeOf s m)) ∧
  (∀ (s : State) (n issuer page : Nat) (tag : BitVec 4) (w : List Nat), PipeReady s n issuer page →
    pbBad s (page * 4096) 4096 = [] → w = lutWords (pbFetch s (page * 4096) 4096) →
    (w.all (· < 4096) = false → ∃ t, exec (.lut n issuer tag page) s = .next t ∧
      PipeOnly s t n { pipeOf s n with stat := done tag.toNat .badBlock 0 }) ∧
    (w.all (· < 4096) = true → ∃ t, exec (.lut n issuer tag page) s = .next t ∧
      PipeOnly s t n { pipeOf s n with
        lutPend := some ((w.take 1024).map (BitVec.ofNat 12), (w.drop 1024).map (BitVec.ofNat 12))
        stat := done tag.toNat .ok 0 })) ∧
  (∀ (s : State) (n issuer page : Nat) (tag : BitVec 4) (d : List Byte) (r : SideReply), PipeReady s n issuer page →
    pbBad s (page * 4096) 32 = [] → d = pbFetch s (page * 4096) 32 →
    (((if n < 2 then (d.getD 0 0).toNat = 0 ∨ 4 < (d.getD 0 0).toNat else (d.getD 0 0).toNat ≠ 5) ∨
        (d.getD 1 0).toNat = 0 ∨ 16 < (d.getD 1 0).toNat) →
      ∃ t, exec (.sideband n issuer tag page r) s = .next t ∧
        PipeOnly s t n { pipeOf s n with stat := done tag.toNat .badBlock 0 }) ∧
    (Memory.wf s.pb = true →
      (if n < 2 then 1 ≤ (d.getD 0 0).toNat ∧ (d.getD 0 0).toNat ≤ 4 else (d.getD 0 0).toNat = 5) →
      1 ≤ (d.getD 1 0).toNat → (d.getD 1 0).toNat ≤ 16 → r.code < 256 →
      ∃ t, exec (.sideband n issuer tag page r) s = .next t ∧
        t = { s with pipes := t.pipes, pb := t.pb, pbPoison := t.pbPoison } ∧
        pipeOf t n = { pipeOf s n with stat := done tag.toNat .ok 0 } ∧ (∀ m, m ≠ n → pipeOf t m = pipeOf s m) ∧
        mget t.pb (page * 4096 + 32) = BitVec.ofNat 8 r.code ∧
        mget t.pb (page * 4096 + 33) = BitVec.ofNat 8 (min 16 r.data.length) ∧
        (∀ j, j < 16 → mget t.pb (page * 4096 + 48 + j) = (r.data.take 16).getD j 0) ∧
        ∀ b, (b < page * 4096 + 32 ∨ page * 4096 + 64 ≤ b) → mget t.pb b = mget s.pb b)) ∧
  (∀ (s : State) (n lanes rate : Nat), s.runs = true →
    (∀ c, n < 2 → (pipeOf s n).conf = some c → (pipeOf s n).link = 1 →
      ∃ t, exec (.linkTrained n lanes rate) s = .next t ∧ PipeOnly s t n { pipeOf s n with
        link := if lanes ∈ [1, 2, 4] ∧ rate ∈ dpRates ∧ payloadFits c lanes rate 8 = true then 2 else 3 }) ∧
    (2 ≤ n ∨ (pipeOf s n).conf = none ∨ (pipeOf s n).link ≠ 1 → exec (.linkTrained n lanes rate) s = .next s))

/-- Lead points, vblanks, underruns, write-back and hot-plug. At a lead point ready flips are taken from the
head in order, one on an abandoned fence is discarded with its fence's error bit, and the first that waits ends
this; then a layer no taken flip names takes the warp of its pose record, where the record passes. At vblank the
taken layers, LUTs and configuration come into force and the flips' fences reach their values, frames to write
back are composed, and a changed flatten set is written to the cache (log 13); after an owner change everything
is cleared and queued flips' fences carry the error bit. An underrun counts once a frame, with a record. A
write-back lands its lines, those it has when late, and signals its fence, with the error bit when late. A hot-
plug change writes a record on DP outputs only. (R337, R343, R346, R350, R351, R352, Table 17-2) -/
def Obligations.DisplayTiming : Prop :=
  (∀ (s : State) (n : Nat), s.runs = true →
    (fnOn s (8 + n) = false ∨ (pipeOf s n).conf = none →
      exec (.leadPoint n) s = .next s ∧ exec (.vblank n) s = .next s) ∧
    (fnOn s (8 + n) = true → (pipeOf s n).conf.isSome = true →
      (∀ f rest, (pipeOf s n).flips = f :: rest →
        (flipReady s f = some true → ∃ u, exec (.leadPoint n) s = exec (.leadPoint n) u ∧
          PipeOnly s u n { pipeOf s n with flips := rest, taken := (pipeOf s n).taken ++ [f] }) ∧
        (flipReady s f = none → ∃ u, exec (.leadPoint n) s = exec (.leadPoint n) u ∧
          u = { s with pipes := u.pipes, objs := u.objs, fences := u.fences } ∧
          pipeOf u n = { pipeOf s n with flips := rest } ∧ (∀ m, m ≠ n → pipeOf u m = pipeOf s m) ∧
          (fSigEn f.hdr = true → (fenceOf s (fSigFence f.hdr)).st = .live →
            (fenceOf s (fSigFence f.hdr)).remote = none → (fenceOf u (fSigFence f.hdr)).err = true ∧
            (fenceOf u (fSigFence f.hdr)).val = (if (fenceOf s (fSigFence f.hdr)).val < fSigVal f.hdr then fSigVal f.hdr
              else (fenceOf s (fSigFence f.hdr)).val)))) ∧
      (∀ l, (∀ f, (pipeOf s n).flips.head? = some f → flipReady s f = some false) →
        l = (pipeOf s n).layers.filter (fun e => lEn e.2.desc && lReproj e.2.desc &&
          !(pipeOf s n).taken.any (fun f => thas f.layers e.1)) →
        (l = [] → exec (.leadPoint n) s = .next s) ∧
        (∀ e, l = [e] → e.2.pose = none → exec (.leadPoint n) s = .next s) ∧
        (∀ e a base len r, l = [e] → e.2.pose = some (a, base, len) → dmFault s base 64 = none →
          r = BitVec.ofNat 512 (leNat (dmRead s base 64)) →
          ∃ t, exec (.leadPoint n) s = .next t ∧ t = { s with pipes := t.pipes, mem := t.mem } ∧
            (∀ m, m ≠ n → pipeOf t m = pipeOf s m) ∧
            ((bits r 63 0 = bits r 511 448 ∧ bits r 63 0 ≠ 0 ∧ bits r 63 0 ≠ 2 ^ 64 - 1 ∧
              bits r 447 416 = bits e.2.desc 191 160) →
              pipeOf t n = { pipeOf s n with
                layers := tupd (pipeOf s n).layers e.1 (fun x => { x with warp := some (BitVec.ofNat 288 (bits r 415 128)) }) }) ∧
            (¬(bits r 63 0 = bits r 511 448 ∧ bits r 63 0 ≠ 0 ∧ bits r 63 0 ≠ 2 ^ 64 - 1 ∧
              bits r 447 416 = bits e.2.desc 191 160) → pipeOf t n = pipeOf s n))))) ∧
  (∀ (s : State) (n : Nat) (p : Pipe), s.runs = true → fnOn s (8 + n) = true → p = pipeOf s n → p.conf.isSome = true →
    (p.ownPend = true → ∃ t, exec (.vblank n) s = .next t ∧
      t = { s with pipes := t.pipes, objs := t.objs, fences := t.fences } ∧ (∀ m, m ≠ n → pipeOf t m = pipeOf s m) ∧
      pipeOf t n = { p with
        layers := [], flips := [], taken := [], wb := [], cacheObj := none, lutPre := [], lutPost := [], lutPend := none
        flat := [], reproj := false, cache := false, ownPend := false, badFrame := false, frames := p.frames + 1
        conf := p.confPend.or p.conf, confPend := none } ∧
      ∀ f ∈ p.flips ++ p.taken, fSigEn f.hdr = true → (fenceOf s (fSigFence f.hdr)).st = .live →
        (fenceOf s (fSigFence f.hdr)).remote = none → (fenceOf t (fSigFence f.hdr)).err = true ∧
          fSigVal f.hdr ≤ (fenceOf t (fSigFence f.hdr)).val) ∧
    (∀ q ls fl, p.ownPend = false → ls = p.taken.foldl (fun l f => layersAfter l f.layers) p.layers →
      fl = (if p.cacheObj.isSome then flattenSet ls else []) →
      q = { p with
        layers := ls, taken := [], wb := p.wb ++ p.taken.filter (fun f => fWbEn f.hdr)
        lutPre := (p.lutPend.map (·.1)).getD p.lutPre, lutPost := (p.lutPend.map (·.2)).getD p.lutPost, lutPend := none
        conf := p.confPend.or p.conf, confPend := none, frames := p.frames + 1, badFrame := false
        reproj := ls.any (fun e => lEn e.2.desc && e.2.warp.isSome), cache := !fl.isEmpty && fl == p.flat, flat := fl } →
      ∃ u, u = { s with pipes := u.pipes, objs := u.objs, fences := u.fences } ∧ pipeOf u n = q ∧
        (∀ m, m ≠ n → pipeOf u m = pipeOf s m) ∧
        (∀ f ∈ p.taken, fSigEn f.hdr = true → (fenceOf s (fSigFence f.hdr)).st = .live →
          (fenceOf s (fSigFence f.hdr)).remote = none → fSigVal f.hdr ≤ (fenceOf u (fSigFence f.hdr)).val) ∧
        (fl = [] ∨ fl = p.flat → exec (.vblank n) s = .next (frameTake u n)) ∧
        (fl ≠ [] → fl ≠ p.flat → exec (.vblank n) s = .next (cacheWrite (frameTake u n) n)) ∧
        (q.wb.all (·.frame.isSome) = true → frameTake u n = u) ∧
        ∀ c, q.conf = some c → q.wb.all (·.frame.isSome) = false →
          (∀ f ∈ q.wb, f.frame = none → (writeBackFrame u n q c (bits f.hdr 375 372)).2 = false) →
          ∃ v, frameTake u n = v ∧ v = { u with pipes := v.pipes, free := v.free } ∧
            (∀ m, m ≠ n → pipeOf v m = pipeOf u m) ∧
            pipeOf v n = { q with wb := q.wb.map (fun f => if f.frame.isNone then
              { f with frame := some (writeBackFrame u n q c (bits f.hdr 375 372)).1 } else f) })) ∧
  (∀ (s : State) (n : Nat), s.runs = true →
    (fnOn s (8 + n) = true → (pipeOf s n).badFrame = false →
      ∃ t, exec (.underrun n) s = .next t ∧ t = { s with pipes := t.pipes, log := t.log } ∧
        pipeOf t n = { pipeOf s n with badFrame := true, underruns := (pipeOf s n).underruns + 1 } ∧
        (∀ m, m ≠ n → pipeOf t m = pipeOf s m) ∧
        Appends s t (fun r => r.code = 0x0033 ∧ r.unit = 9 ∧ r.inst = n ∧ r.cls = 0)) ∧
    (fnOn s (8 + n) = false ∨ (pipeOf s n).badFrame = true → exec (.underrun n) s = .next s)) ∧
  (∀ (s : State) (n lines : Nat) (late : Bool), s.runs = true → (pipeOf s n).wb = [] →
    exec (.writeBackDone n lines late) s = .next s) ∧
  (∀ (s v : State) (n lines i base len : Nat) (late : Bool) (f : Flip) (rest : List Flip) (fr : List (List Nat))
    (ws : List (Nat × List Byte)) (un : Byte), s.runs = true → (pipeOf s n).wb = f :: rest →
    f.wb = some (i, base, len) → fr = f.frame.getD [] → s.mem.macBad = [] →
    un = (pipeOf s n).underruns +
      (if late = true ∧ fnOn s (8 + n) = true ∧ (pipeOf s n).badFrame = false then 1 else 0) →
    ws = (if late then ((fr.zipIdx.map (fun e => wbPieces f.hdr base e.2 e.1)).take lines).flatten
      else (fr.zipIdx.map (fun e => wbPieces f.hdr base e.2 e.1)).flatten ++ wbPad f.hdr base fr) →
    (∀ w ∈ ws, imageHit s w.1 w.2.length = false) →
    v = ws.foldl (fun s w => dmWrite s (polAt s (pipeOf s n).owner w.1) w.1 w.2) s →
    ∃ t, exec (.writeBackDone n lines late) s = .next t ∧
      t = { s with pipes := t.pipes, objs := t.objs, fences := t.fences, mem := v.mem, log := t.log } ∧
      (∀ m, m ≠ n → pipeOf t m = pipeOf s m) ∧
      pipeOf t n = { pipeOf s n with
        wb := rest, badFrame := (pipeOf s n).badFrame || (late && fnOn s (8 + n)), underruns := un } ∧
      t.objs = (objUnref s i).objs ∧
      (late = false → t.log = s.log) ∧
      fenceOf t (fWbFence f.hdr) = Fence.settle
        { (fenceOf s (fWbFence f.hdr)).signal (domCount s 35) (fWbVal f.hdr) late with
          refs := ((fenceOf s (fWbFence f.hdr)).signal (domCount s 35) (fWbVal f.hdr) late).refs - 1 } ∧
      ∀ k, k ≠ fWbFence f.hdr → fenceOf t k = fenceOf s k) ∧
  (∀ (s : State) (n : Nat) (level : Bool), s.runs = true →
    (n < 2 → (pipeOf s n).hpd ≠ level → ∃ t, exec (.hpd n level) s = .next t ∧
      t = { s with pipes := t.pipes, log := t.log } ∧ pipeOf t n = { pipeOf s n with hpd := level } ∧
      (∀ m, m ≠ n → pipeOf t m = pipeOf s m) ∧
      Appends s t (fun r => r.code = 0x0033 ∧ r.unit = 9 ∧ r.inst = n ∧ r.cls = 0)) ∧
    ((2 ≤ n ∨ (pipeOf s n).hpd = level) → exec (.hpd n level) s = .next s))

/-- Capture ports and the audio port. START of a capture or the audio port fails with BAD_OWNER while it runs,
BAD_PAGE, BAD_HANDLE or BAD_BLOCK, and changes nothing else; another holds its objects and waits. STOP by the
owner releases them, at once or, of a running audio port, after its frame; by another context it fails with
BAD_OWNER. A frame start opens a frame, and ends one still open with no_fe; a line lands its pixels in its
buffer and sets short and long, a bad header or CRC sets crc, another channel or type changes nothing; a frame
end writes the status record and signals the fence to the frame number, with the error bit when a flag is set.
An audio frame captures the enabled input slots, signals the input fence with the last of a period, and drives
the output samples, zeros or nothing. The first frame of an output period decides by its fence, and a late one
counts an underrun; a slave frame of a wrong length only counts. (R354, R355, R357, R358, R359, R360, R361,
Table 18-2, Table 18-3, Table 18-5) -/
def Obligations.CaptureAndAudio : Prop :=
  (∀ (s : State) (n issuer page : Nat) (tag : BitVec 4), CapReady s n issuer → page < 8192 →
    ((capOf s n).run ≠ 0 → ∃ t, exec (.capStart n issuer tag page) s = .next t ∧
      CapOnly s t n { capOf s n with stat := done tag.toNat .bad3 0 }) ∧
    ((capOf s n).run = 0 → writePage s page (some issuer) = false → ∃ t, exec (.capStart n issuer tag page) s = .next t ∧
      CapOnly s t n { capOf s n with stat := done tag.toNat .badPage 0 }) ∧
    ∀ k, (capOf s n).run = 0 → writePage s page (some issuer) = true → pbBad s (page * 4096) 32 = [] →
      k = BitVec.ofNat 256 (leNat (pbFetch s (page * 4096) 32)) →
      ((∀ o, resolve s issuer (bits k 255 224) true true false = some o → o.remote = true ∨
          inSsRange s issuer o.base o.len = false) → ∃ t, exec (.capStart n issuer tag page) s = .next t ∧
        CapOnly s t n { capOf s n with stat := done tag.toNat .r5 0 }) ∧
      ∀ o, resolve s issuer (bits k 255 224) true true false = some o → o.remote = false →
        inSsRange s issuer o.base o.len = true →
        (capBlockOk s issuer k o.len = false → ∃ t, exec (.capStart n issuer tag page) s = .next t ∧
          CapOnly s t n { capOf s n with stat := done tag.toNat .badBlock 0 }) ∧
        (capBlockOk s issuer k o.len = true → ∃ t, exec (.capStart n issuer tag page) s = .next t ∧
          CapOnly (objRef s o.idx) t n { capOf s n with
            stat := done tag.toNat .ok 0, owner := issuer, run := 1, blk := k, buf := some (o.idx, o.base, o.len)
            frame := 0, cur := none, frames := 0 })) ∧
  (∀ (s : State) (n issuer : Nat) (tag : BitVec 4), CapReady s n issuer →
    ((capOf s n).run = 0 → ∃ t, exec (.capStop n issuer tag) s = .next t ∧
      CapOnly s t n { capOf s n with stat := done tag.toNat .ok 0 }) ∧
    ((capOf s n).run ≠ 0 → (capOf s n).owner = issuer → ∃ t, exec (.capStop n issuer tag) s = .next t ∧
      CapOnly (dropRef s (capOf s n).buf) t n { capOf s n with
        run := 0, buf := none, cur := none, stat := done tag.toNat .ok 0 }) ∧
    ((capOf s n).run ≠ 0 → (capOf s n).owner ≠ issuer → ∃ t, exec (.capStop n issuer tag) s = .next t ∧
      CapOnly s t n { capOf s n with stat := done tag.toNat .bad3 0 })) ∧
  (∀ (s : State) (n vc : Nat), s.runs = true →
    ((capOf s n).run = 0 ∨ vc ≠ kVc (capOf s n).blk →
      exec (.frameStart n vc) s = .next s ∧ exec (.frameEnd n vc) s = .next s) ∧
    ((capOf s n).cur = none → exec (.frameEnd n vc) s = .next s) ∧
    ((capOf s n).run ≠ 0 → vc = kVc (capOf s n).blk → (capOf s n).cur = none →
      ∃ t, exec (.frameStart n vc) s = .next t ∧ CapOnly s t n { capOf s n with
        run := 2, frame := (capOf s n).frame + 1
        cur := some { sof := domCount s (20 + n), lines := 0, crc := false, short := false, long := false } })) ∧
  (∀ (s v : State) (n vc i base len a : Nat) (f : CapFrame) (c : Cap) (k : BitVec 256) (noFe short bad : Bool)
    (d : List Byte), s.runs = true → (capOf s n).run ≠ 0 → (capOf s n).cur = some f →
    (capOf s n).buf = some (i, base, len) → k = (capOf s n).blk → vc = kVc k →
    short = (f.short || decide (f.lines < kHeight k)) → bad = (noFe || f.crc || short || f.long) →
    a = base + kNbuf k * kStride k + 32 * (((capOf s n).frame - 1) % kNbuf k) →
    d = natBytes (packNat [((stamp s (20 + n)).toNat, 192), ((20 + n) <<< 48 + f.sof.toNat, 128),
      ((capOf s n).frame % 2 ^ 32, 96), (f.lines % 65536, 80), (b2n noFe, 3), (b2n f.crc, 2), (b2n short, 1),
      (b2n f.long, 0)]) 32 →
    imageHit s a 32 = false → s.mem.macBad = [] → v = dmWrite s (polAt s (capOf s n).owner a) a d →
    c = { capOf s n with
      cur := none, frames := (capOf s n).frames + 1
      errors := if bad then (capOf s n).errors + 1 else (capOf s n).errors } →
    (∃ t, t = { s with caps := t.caps, fences := t.fences, mem := v.mem } ∧
      fenceOf t (kFence k) =
        (fenceOf s (kFence k)).signal (domCount s 35) (BitVec.ofNat 64 (capOf s n).frame) bad ∧
      (∀ g, g ≠ kFence k → fenceOf t g = fenceOf s g) ∧ (∀ m, m ≠ n → capOf t m = capOf s m) ∧
      (noFe = false → exec (.frameEnd n vc) s = .next t ∧ capOf t n = c) ∧
      (noFe = true → exec (.frameStart n vc) s = .next t ∧ capOf t n = { c with
        run := 2, frame := c.frame + 1
        cur := some { sof := domCount s (20 + n), lines := 0, crc := false, short := false, long := false } })) ∧
    (PlainAccess s (capOf s n).owner a 32 →
      ∀ b, dmByte v b = if a ≤ b ∧ b < a + 32 then d.getD (b - a) 0 else dmByte s b)) ∧
  (∀ (s : State) (n : Nat) (l : CsiLine), s.runs = true →
    ((capOf s n).run = 0 ∨ (capOf s n).cur = none ∨ (capOf s n).buf = none → exec (.linePacket n l) s = .next s) ∧
    ∀ i base len f k, (capOf s n).run ≠ 0 → (capOf s n).cur = some f → (capOf s n).buf = some (i, base, len) →
      k = (capOf s n).blk →
      (l.hdrBad = true → ∃ t, exec (.linePacket n l) s = .next t ∧
        CapOnly s t n { capOf s n with cur := some { f with crc := true } }) ∧
      (l.hdrBad = false → (l.vc ≠ kVc k ∨ l.dt ≠ kDt k) → exec (.linePacket n l) s = .next s) ∧
      (l.hdrBad = false → l.vc = kVc k → l.dt = kDt k → l.crcBad = true → ∃ t, exec (.linePacket n l) s = .next t ∧
        CapOnly s t n { capOf s n with cur := some { f with crc := true, lines := f.lines + 1 } }) ∧
      (l.hdrBad = false → l.vc = kVc k → l.dt = kDt k → l.crcBad = false → kHeight k ≤ f.lines →
        ∃ t, exec (.linePacket n l) s = .next t ∧
          CapOnly s t n { capOf s n with cur := some { f with long := true, lines := f.lines + 1 } }) ∧
      ∀ a d v, l.hdrBad = false → l.vc = kVc k → l.dt = kDt k → l.crcBad = false → f.lines < kHeight k →
        a = base + ((capOf s n).frame - 1) % kNbuf k * kStride k + f.lines * (kWidth k * dtBytes (kDt k)) →
        d = (l.pixels.take (kWidth k)).flatMap (dtPixel (kDt k)) → imageHit s a d.length = false → s.mem.macBad = [] →
        v = dmWrite s (polAt s (capOf s n).owner a) a d →
        (∃ t, exec (.linePacket n l) s = .next t ∧ CapOnly { s with mem := v.mem } t n { capOf s n with
          cur := some { f with
            lines := f.lines + 1, short := f.short || decide (l.pixels.length < kWidth k)
            long := f.long || decide (kWidth k < l.pixels.length) } }) ∧
        (PlainAccess s (capOf s n).owner a d.length →
          ∀ b, dmByte v b = if a ≤ b ∧ b < a + d.length then d.getD (b - a) 0 else dmByte s b)) ∧
  (∀ (s : State) (issuer page : Nat) (tag : BitVec 4), AudReady s issuer → page < 8192 →
    (s.aud.run ≠ 0 → exec (.audStart issuer tag page) s = .next { s with aud := { s.aud with stat := done tag.toNat .bad3 0 } }) ∧
    (s.aud.run = 0 → writePage s page (some issuer) = false → exec (.audStart issuer tag page) s =
      .next { s with aud := { s.aud with stat := done tag.toNat .badPage 0 } }) ∧
    ∀ k, s.aud.run = 0 → writePage s page (some issuer) = true → pbBad s (page * 4096) 32 = [] →
      k = BitVec.ofNat 256 (leNat (pbFetch s (page * 4096) 32)) →
      (audRing s issuer (bits k 255 224) false true = none ∨ audRing s issuer (bits k 223 192) true false = none →
        exec (.audStart issuer tag page) s = .next { s with aud := { s.aud with stat := done tag.toNat .r5 0 } }) ∧
      ∀ x y, audRing s issuer (bits k 255 224) false true = some x → audRing s issuer (bits k 223 192) true false = some y →
        (audBlockOk s issuer k (x.map (·.len)) (y.map (·.len)) = false → exec (.audStart issuer tag page) s =
          .next { s with aud := { s.aud with stat := done tag.toNat .badBlock 0 } }) ∧
        (audBlockOk s issuer k (x.map (·.len)) (y.map (·.len)) = true → exec (.audStart issuer tag page) s = .next { s with
          objs := ((x.toList ++ y.toList).foldl (fun s h => objRef s h.idx) s).objs
          aud := { s.aud with
            stat := done tag.toNat .ok 0, owner := issuer, run := 1, stopping := false, blk := k
            inBuf := x.map (fun h => (h.idx, h.base, h.len)), outBuf := y.map (fun h => (h.idx, h.base, h.len))
            frames := 0, outOn := false, examined := 0, dout := [] } })) ∧
  (∀ (s : State) (issuer : Nat) (tag : BitVec 4), AudReady s issuer →
    (s.aud.run = 0 → exec (.audStop issuer tag) s = .next { s with aud := { s.aud with stat := done tag.toNat .ok 0 } }) ∧
    (s.aud.run ≠ 0 → s.aud.owner ≠ issuer → exec (.audStop issuer tag) s =
      .next { s with aud := { s.aud with stat := done tag.toNat .bad3 0 } }) ∧
    (s.aud.owner = issuer → 2 ≤ s.aud.run → exec (.audStop issuer tag) s =
      .next { s with aud := { s.aud with stopping := true, stat := done tag.toNat .ok 0 } }) ∧
    (s.aud.owner = issuer → s.aud.run = 1 → exec (.audStop issuer tag) s = .next { s with
      objs := (dropRef (dropRef s s.aud.inBuf) s.aud.outBuf).objs
      aud := { s.aud with
        run := 0, stopping := false, inBuf := none, outBuf := none, dout := [], stat := done tag.toNat .ok 0 } })) ∧
  (∀ (s : State) (fr : TdmFrame), s.runs = true →
    (s.aud.run = 0 → exec (.audioFrame fr) s = .next s) ∧
    (s.aud.run ≠ 0 → fr.badLen = true → aMaster s.aud.blk = false → exec (.audioFrame fr) s =
      .next { s with aud := { s.aud with badFrames := s.aud.badFrames + 1 } }) ∧
    ∀ u v d slots a, s.aud.run ≠ 0 → (fr.badLen = false ∨ aMaster s.aud.blk = true) →
      exec .outputPeriodStart { s with aud := { s.aud with run := 2 } } = .next u → audDrive u = (d, v) →
      slots = setBits (aOutMask s.aud.blk) 32 →
      (∀ o, s.aud.outBuf = some o → u.aud.outOn = true → dmFault s (o.2.1 + audAt s.aud slots.length) (4 * slots.length) = none) →
      a = { u.aud with dout := d, frames := s.aud.frames + 1 } →
      v = { u with mem := v.mem } ∧ d.length = aSlots s.aud.blk ∧
      (∀ j, j < aSlots s.aud.blk → d.getD j none = (match s.aud.outBuf with
        | none => none
        | some o => if slots.contains j then
            some (if u.aud.outOn then
              BitVec.ofNat 32 (dmNum s (o.2.1 + audAt s.aud slots.length + 4 * slots.idxOf j) 4 / 256 * 256) else 0)
          else none)) ∧
      (∀ t, s.aud.inBuf = none → t = { v with aud := a } →
        exec (.audioFrame fr) s = .next (if s.aud.stopping then audHalt t else t)) ∧
      ∀ i base len at_ w z, s.aud.inBuf = some (i, base, len) →
        at_ = base + audAt s.aud (setBits (aInMask s.aud.blk) 32).length →
        w = (setBits (aInMask s.aud.blk) 32).flatMap (fun i => natBytes ((fr.din.getD i 0).toNat / 256 * 256) 4) →
        imageHit s at_ w.length = false → v.mem.macBad = [] → z = dmWrite v (polAt s s.aud.owner at_) at_ w →
        (∃ t, t = { v with aud := a, mem := z.mem, fences := t.fences } ∧
          exec (.audioFrame fr) s = .next (if s.aud.stopping then audHalt t else t) ∧
          (s.aud.frames % aPeriod s.aud.blk = aPeriod s.aud.blk - 1 →
            t.fences = (fenceSignal s (aInFence s.aud.blk) (BitVec.ofNat 64 (audPeriod s.aud)) false).fences) ∧
          (s.aud.frames % aPeriod s.aud.blk ≠ aPeriod s.aud.blk - 1 → t.fences = s.fences)) ∧
        (PlainAccess v s.aud.owner at_ w.length →
          ∀ b, dmByte z b = if at_ ≤ b ∧ b < at_ + w.length then w.getD (b - at_) 0 else dmByte v b)) ∧
  (∀ (s : State), s.runs = true →
    (s.aud.run = 0 ∨ s.aud.outBuf = none ∨ s.aud.frames % aPeriod s.aud.blk ≠ 0 ∨ audPeriod s.aud ≤ s.aud.examined →
      exec .outputPeriodStart s = .next s) ∧
    (s.aud.run ≠ 0 → s.aud.outBuf.isSome = true → s.aud.frames % aPeriod s.aud.blk = 0 →
      s.aud.examined < audPeriod s.aud →
      (BitVec.ofNat 64 (audPeriod s.aud) ≤ (fenceOf s (aOutFence s.aud.blk)).val →
        exec .outputPeriodStart s = .next { s with aud := { s.aud with examined := audPeriod s.aud, outOn := true } }) ∧
      (¬ BitVec.ofNat 64 (audPeriod s.aud) ≤ (fenceOf s (aOutFence s.aud.blk)).val →
        exec .outputPeriodStart s = .next { s with aud := { s.aud with
          examined := audPeriod s.aud, outOn := false, underruns := s.aud.underruns + 1 } })))

/-- COMPRESS nodes wait, run and end. A running COMPRESS node whose argument record is legal waits for an engine
with it; with a reserved bit or an offset above 40 bits its instance fails with FORMAT_FAULT, with a range
outside its objects with BOUND_FAULT. COMPRESS_START gives the engine the first waiting node it may take, or
does nothing. At its end an engine, whose outcome fits the rules of coding and decoding (log 13), writes its
destination bytes and the result record, and of a node without a state object nothing beyond the destination and
the record; it is free, counts the node, and one with a code of 2 or above as an error, and a node that is not
strict, or did not fail, has ended. A state object of another stream ends the node with BAD_STATE. An idle
engine does nothing. (R363, R364, R366, R367, R369, R370, R371, Table 19-2, Table 19-3, Table 19-4, Table 19-5)
-/
def Obligations.CompressionNodes : Prop :=
  (∀ (s : State) (id i : Nat) (x : Inst) (g : Graph) (n : BitVec 512) (a : BitVec 256), s.runs = true →
    tfind s.insts id = some x → graphOf s x = some g → n = g.nodes.getD i 0 → (x.node i).st = .running → nType n = 4 →
    (x.node i).ended = 0 → cmpTaken s id i = false → dmFault s (g.param (8 * nCmpArg n)) 32 = none → a = cmpArg s g n →
    (zeroField a 95 64 = false ∨ zeroField a 223 192 = false ∨ 2 ^ 40 ≤ caSrcOff a ∨ 2 ^ 40 ≤ caDstOff a →
      exec (.compressNodeReady id i) s = .next (failInst (nodeEnded s id i) id i .formatFault)) ∧
    (zeroField a 95 64 = true → zeroField a 223 192 = true → caSrcOff a < 2 ^ 40 → caDstOff a < 2 ^ 40 →
      (((heldObj s n 0).len < caSrcOff a + caSrcLen a ∨ (heldObj s n 1).len < caDstOff a + caDstCap a) →
        exec (.compressNodeReady id i) s = .next (failInst (nodeEnded s id i) id i .boundFault)) ∧
      (caSrcOff a + caSrcLen a ≤ (heldObj s n 0).len → caDstOff a + caDstCap a ≤ (heldObj s n 1).len →
        exec (.compressNodeReady id i) s =
          .next (modNode { s with cmpWait := s.cmpWait ++ [(id, i)] } id i (fun r => { r with arg := a }))))) ∧
  (∀ (s : State) (e : Nat), s.runs = true →
    (s.cmpWait.find? (cmpMay s e) = none → exec (.compressStart e) s = .next s) ∧
    ∀ w x g n, s.cmpWait.find? (cmpMay s e) = some w → tfind s.insts w.1 = some x → graphOf s x = some g →
      n = g.nodes.getD w.2 0 →
      ∃ t, exec (.compressStart e) s = .next t ∧ t = { s with cmps := t.cmps, cmpWait := s.cmpWait.filter (· != w) } ∧
        cmpOf t e = { cmpOf s e with
          ctx := x.ctx, run := some w
          dst := ((heldObj s n 1).base + caDstOff (x.node w.2).arg, caDstCap (x.node w.2).arg) } ∧
        ∀ k, k ≠ e → cmpOf t k = cmpOf s k) ∧
  (∀ (s : State) (eng : Nat) (r : CmpOutcome), s.runs = true → (cmpOf s eng).run = none →
    exec (.compressEnd eng r) s = .next s) ∧
  (∀ (s u s' : State) (eng id i at_ dst res : Nat) (x : Inst) (g : Graph) (n : BitVec 512) (a : BitVec 256) (r : CmpOutcome),
    s.runs = true → (cmpOf s eng).run = some (id, i) → tfind s.insts id = some x → graphOf s x = some g →
    n = g.nodes.getD i 0 → a = (x.node i).arg → cmpFault s g n a = none → cmpImage s n a = none →
    at_ = (heldObj s n 0).base + caSrcOff a → u = dmTouch s (polAt s x.ctx at_) at_ (caSrcLen a) →
    dst = (heldObj s n 1).base + caDstOff a → res = g.param (8 * nCmpRes n) →
    (∀ e v, streamOf u n = (none, s') → badStateEnd s' = (e, v) →
      exec (.compressEnd eng r) s = .next (cmpFinish (cmpWrite v g n a e) eng id i n .badState)) ∧
    (∀ st e v, streamOf u n = (some st, s') → outcomeOk r = true →
      (if nDir n then decompressEnd n st (dmRead s at_ (caSrcLen a)) (caDstCap a) r
        else compressEnd n st (dmRead s at_ (caSrcLen a)) (caDstCap a) r) = some e →
      v = cmpWrite s' g n a e →
      exec (.compressEnd eng r) s = .next (cmpFinish v eng id i n e.code) ∧
      (nStrict n = false ∨ e.code.num < 2 →
        (∀ k, cmpOf (cmpFinish v eng id i n e.code) k = if k = eng then { cmpOf s eng with
          run := none, nodes := (cmpOf s eng).nodes + 1
          errors := if 2 ≤ e.code.num then (cmpOf s eng).errors + 1 else (cmpOf s eng).errors } else cmpOf s k) ∧
        (cmpFinish v eng id i n e.code).mem = v.mem ∧
        (thas x.nodes i = true →
          ∃ y, tfind (cmpFinish v eng id i n e.code).insts id = some y ∧ (y.node i).ended = 1)) ∧
      ((nHist n && e.save) = false → e.code ≠ .badState → PlainAccess s' g.ctx dst (caDstCap a) → PlainAccess s' g.ctx res 32 →
        polAt s' g.ctx dst ≠ 3 → polAt s' g.ctx res ≠ 3 → (res + 32 ≤ dst ∨ dst + caDstCap a ≤ res) →
        e.bytes.length ≤ caDstCap a →
        (∀ j, j < e.bytes.length → dmByte v (dst + j) = e.bytes.getD j 0) ∧
        (∀ j, j < 32 → dmByte v (res + j) = (resultBytes e).getD j 0) ∧
        ∀ b, (b < dst ∨ dst + caDstCap a ≤ b) → (b < res ∨ res + 32 ≤ b) → dmByte v b = dmByte s' b)))

/-- Attestation, set records, weight loads, debug tokens and fuses. ATTEST writes the report body, its signature
and zeros to its two pages and counts; GET_ID writes serial number and public keys. SET_LOAD and WEIGHT_LOAD
fail by their checks in order, BAD_BLOCK, BAD_SIG, BAD_HANDLE, RESOURCE, POLICY, TAG; else the slot holds the
set, after a load that uses it, or the load starts and holds its objects. SET_DROP empties the slot. A chunk
whose tag passes is written and counted, the last ends the load; one whose tag fails, or of a context not
ACTIVE, ends it and every byte written is zeroed. DEBUG_CHALLENGE writes a nonce, DEBUG_UNLOCK and a token
through the TAP take a good token, consume the nonce, and fail by the checks of R389. A TAP instruction is
permitted by the level. SVN_ADVANCE raises a counter to its image's number or what an interrupted programming
leaves, KILL_DEBUG sets its fuse, each given the supply. No other field changes. (R380, R381, R382, R384, R385,
R386, R387, R388, R389, Table 20-6, Table 20-8, Table 20-9) -/
def Obligations.SecurityCommands : Prop :=
  (∀ (s : State) (tag : BitVec 4) (ctx i o : Nat) (body : List Byte), SecReady s tag 1 ctx i o → Memory.wf s.pb = true →
    pbBad s (i * 4096) 64 = [] → body = fit 4096 (reportBody s (pbFetch s (i * 4096) 64)) →
    ∃ t, exec (.attest tag ctx i o) s = .next t ∧
      t = { s with pb := t.pb, pbPoison := t.pbPoison, free := s.free + 1, sec := { s.sec with
        stat := done tag.toNat .ok s.sec.stat.extra, reports := s.sec.reports + 1 } } ∧
      (∀ j, j < 4096 → mget t.pb (o * 4096 + j) = body.getD j 0) ∧
      (∀ j, j < 4096 → mget t.pb (o * 4096 + 4096 + j) =
        (fit 3309 (Config.mldsaSign (idsSeed s) (Config.sha3 body) s.free)).getD j 0) ∧
      ∀ b, (b < o * 4096 ∨ o * 4096 + 8192 ≤ b) → mget t.pb b = mget s.pb b) ∧
  (∀ (s : State) (tag : BitVec 4) (ctx o : Nat), SecReady s tag 2 ctx 0 o → Memory.wf s.pb = true →
    ∃ t, exec (.getId tag ctx o) s = .next t ∧
      t = { s with pb := t.pb, pbPoison := t.pbPoison, sec := { s.sec with
        stat := done tag.toNat .ok s.sec.stat.extra } } ∧
      (∀ j, j < 8 → mget t.pb (o * 4096 + j) = (natBytes s.fuses.serial.toNat 8).getD j 0) ∧
      (∀ j, j < 1952 → mget t.pb (o * 4096 + 64 + j) = (idsKey s).getD j 0) ∧
      (∀ j, j < 1184 → mget t.pb (o * 4096 + 2016 + j) = (idkKey s).getD j 0) ∧
      ∀ b, (b < o * 4096 ∨ o * 4096 + 3200 ≤ b ∨ o * 4096 + 8 ≤ b ∧ b < o * 4096 + 64) → mget t.pb b = mget s.pb b) ∧
  (∀ (s : State) (tag : BitVec 4) (ctx i : Nat) (d : List Byte), SecReady s tag 3 ctx i 0 →
    pbBad s (i * 4096) 8192 = [] → d = pbFetch s (i * 4096) 8192 →
    (¬ SetRecord s d → SecEnds s (.setLoad tag ctx i) s.sec tag .badBlock) ∧
    (SetRecord s d → ¬ SignedBy (slice d 1296 1952) (slice d 0 3248) (slice d 3248 3309) s.fuses.ownerKh → SecEnds s (.setLoad tag ctx i) s.sec tag .badSig) ∧
    (SetRecord s d → SignedBy (slice d 1296 1952) (slice d 0 3248) (slice d 3248 3309) s.fuses.ownerKh →
      (blockNum d 6 2 % 2 = 1 → 2 ≤ s.sec.level → SecEnds s (.setLoad tag ctx i) s.sec tag .policy) ∧
      ((blockNum d 6 2 % 2 = 1 → s.sec.level < 2) → ∀ o,
        o = unwrap (wrapKey (idkSeed s) (slice d 128 1088) (slice d 0 128) "TOL SETK") (slice d 1216 80) →
        (o = none → SecEnds s (.setLoad tag ctx i) s.sec tag .tag) ∧
        ∀ seed h, o = some seed → h = Config.sha3 (Config.mlkemPublic seed) →
          (digestBytes h ≠ slice d 32 48 → SecEnds s (.setLoad tag ctx i) s.sec tag .tag) ∧
          (digestBytes h = slice d 32 48 → ∀ q,
            q = (slotOfSet s (BitVec.ofNat 32 (blockNum d 8 4))).or (tfirst s.sec.slots (fun _ => false) 0 16) →
            (q = none → SecEnds s (.setLoad tag ctx i) s.sec tag .resource) ∧
            ∀ k (y : SetSlot), q = some k → y = { setId := BitVec.ofNat 32 (blockNum d 8 4), policy := BitVec.ofNat 16 (blockNum d 6 2), ekHash := h, seed := seed } →
              (s.sec.load.any (·.slot == k) = false → exec (.setLoad tag ctx i) s = .next { s with sec := { s.sec with
                slots := tput s.sec.slots k y
                stat := done tag.toNat .ok s.sec.stat.extra } }) ∧
              (s.sec.load.any (·.slot == k) = true → exec (.setLoad tag ctx i) s = .next { s with sec := { s.sec with
                deferred := s.sec.deferred ++ [(k, some y)], stat := done tag.toNat .ok s.sec.stat.extra } }))))) ∧
  (∀ (s : State) (tag : BitVec 4) (ctx i : Nat) (q : Option Nat), SecReady s tag 4 ctx i 0 → pbBad s (i * 4096) 4 = [] →
    q = slotOfSet s (BitVec.ofNat 32 (leNat (pbFetch s (i * 4096) 4))) →
    (q = none → exec (.setDrop tag ctx i) s = .next { s with sec := { s.sec with
      stat := done tag.toNat .ok s.sec.stat.extra } }) ∧
    ∀ k, q = some k →
      (s.sec.load.any (·.slot == k) = false → exec (.setDrop tag ctx i) s = .next { s with sec := { s.sec with
        slots := tdel s.sec.slots k, stat := done tag.toNat .ok s.sec.stat.extra } }) ∧
      (s.sec.load.any (·.slot == k) = true → exec (.setDrop tag ctx i) s = .next { s with sec := { s.sec with
        deferred := s.sec.deferred ++ [(k, none)], stat := done tag.toNat .ok s.sec.stat.extra } })) ∧
  (∀ (s : State) (tag : BitVec 4) (ctx i : Nat) (b : BitVec 256) (p q : Option Hit) (x0 : Sec),
    SecReady s tag 5 ctx i 0 → pbBad s (i * 4096) 32 = [] → b = BitVec.ofNat 256 (leNat (pbFetch s (i * 4096) 32)) →
    p = resolve s ctx (bits b 31 0) true false false → q = resolve s ctx (bits b 63 32) false true false →
    x0 = { s.sec with stat := { s.sec.stat with extra := 0 } } →
    (bits b 215 176 % 64 ≠ 0 → SecEnds s (.weightLoad tag ctx i) x0 tag .badBlock) ∧
    (bits b 215 176 % 64 = 0 →
      (p.all (·.remote) = true ∨ q.all (·.remote) = true → SecEnds s (.weightLoad tag ctx i) x0 tag .r5) ∧
      ∀ u v at_, p = some u → q = some v → u.remote = false → v.remote = false → at_ = u.base + bits b 215 176 →
        (u.len < bits b 215 176 + 4096 → SecEnds s (.weightLoad tag ctx i) x0 tag .badBlock) ∧
        (bits b 215 176 + 4096 ≤ u.len → dmFault s at_ 4096 = none → ∀ h, h = dmRead s at_ 4096 →
          (whOk h = false ∨ u.len < bits b 215 176 + whLen h ∨ v.len < bits b 255 216 + whPlain h → SecEnds s (.weightLoad tag ctx i) x0 tag .badBlock) ∧
          (whOk h = true → bits b 215 176 + whLen h ≤ u.len → bits b 255 216 + whPlain h ≤ v.len →
            (slotOfSet s (whSet h) = none → SecEnds s (.weightLoad tag ctx i) x0 tag .resource) ∧
            ∀ k x pol key, slotOfSet s (whSet h) = some k → tfind s.sec.slots k = some x →
              pol = whPolicy h ||| x.policy.toNat →
              key = unwrap (wrapKey x.seed (slice h 64 1088) (slice h 0 1152) "TOL CNTK") (slice h 1152 48) →
              (pol.testBit 1 = true ∧ (partRec s (ctxOf s ctx).part).any (·.enc) = false ∨
                pol.testBit 0 = true ∧ 2 ≤ s.sec.level → SecEnds s (.weightLoad tag ctx i) x0 tag .policy) ∧
              ((pol.testBit 1 = true → (partRec s (ctxOf s ctx).part).any (·.enc) = true) →
                (pol.testBit 0 = true → s.sec.level < 2) →
                (key = none → SecEnds s (.weightLoad tag ctx i) x0 tag .tag) ∧
                ∀ y, key = some y → exec (.weightLoad tag ctx i) s = .next { s with
                  objs := (objRef (objRef s u.idx) v.idx).objs
                  sec := { s.sec with
                    stat := { tag := tag.toNat, busy := true }
                    load := some { ctx := ctx, src := u.idx, dst := v.idx, srcAt := at_, dstAt := v.base + bits b 255 216
                                   header := h, key := y, next := 0, slot := k } } }))))) ∧
  (∀ (s : State), s.runs = true → s.sec.load = none → exec .weightChunk s = .next s) ∧
  (∀ (s : State) (l : WLoad) (size n src dst : Nat), s.runs = true → s.sec.load = some l →
    size = 2 ^ whLog l.header → n = min size (whPlain l.header - l.next * size) →
    src = l.srcAt + 4096 + l.next * (size + 16) → dst = l.dstAt + l.next * size →
    ((ctxOf s l.ctx).st ≠ .active → exec .weightChunk s = .next (loadAbort s l .stopped)) ∧
    ((ctxOf s l.ctx).st = .active → imageHit s dst n = false → dmFault s src (n + 16) = none → macDrops s dst n = none →
      (chunkOpen l (dmRead s src (n + 16)) = none → exec .weightChunk s = .next (loadAbort s l .tag)) ∧
      ∀ p v, chunkOpen l (dmRead s src (n + 16)) = some p → v = { s with
          mem := (dmWrite s (polAt s l.ctx dst) dst (fit n p)).mem
          sec := { s.sec with load := some { l with next := l.next + 1 }, stat := { s.sec.stat with extra := l.next + 1 } } } →
        (l.next + 1 ≠ whChunks l.header → exec .weightChunk s = .next v) ∧
        (l.next + 1 = whChunks l.header →
          exec .weightChunk s = .next (loadFinish v { l with next := l.next + 1 } .ok)) ∧
        (PlainAccess s l.ctx dst n → ∀ b, dmByte v b =
          if dst ≤ b ∧ b < dst + n then (fit n p).getD (b - dst) 0 else dmByte s b)) ∧
    (∀ r, (loadAbort s l r).sec.load = none ∧
      (loadAbort s l r).mem = (dmZero s l.dstAt (min (whPlain l.header) (l.next * size))).mem ∧
      (loadAbort s l r).sec.stat = { s.sec.stat with result := r, busy := false })) ∧
  (∀ (s : State) (tag : BitVec 4) (ctx o : Nat), SecReady s tag 6 ctx 0 o → Memory.wf s.pb = true →
    ∃ t, exec (.debugChallenge tag ctx o) s = .next t ∧
      t = { s with pb := t.pb, pbPoison := t.pbPoison, free := s.free + 1, sec := { s.sec with
        nonce := some (Config.randomNonce s.free), stat := done tag.toNat .ok s.sec.stat.extra } } ∧
      (∀ j, j < 32 → mget t.pb (o * 4096 + j) = (natBytes (Config.randomNonce s.free).toNat 32).getD j 0) ∧
      ∀ b, (b < o * 4096 ∨ o * 4096 + 32 ≤ b) → mget t.pb b = mget s.pb b) ∧
  (∀ (s : State) (tag : BitVec 4) (ctx i : Nat) (d : List Byte), SecReady s tag 7 ctx i 0 →
    pbBad s (i * 4096) 8192 = [] → d = pbFetch s (i * 4096) 8192 →
    (TokenGood s d → exec (.debugUnlock tag ctx i) s = .next { s with sec := { tokenTaken s.sec d with
      stat := done tag.toNat .ok s.sec.stat.extra } }) ∧
    (¬ TokenFields d → SecEnds s (.debugUnlock tag ctx i) { s.sec with nonce := none } tag .badBlock) ∧
    (TokenFields d →
      (s.fuses.dbgKill = true ∨ s.cfg.debugPolicy = 0 ∨ s.cfg.debugPolicy = 1 ∧ blockNum d 5 1 = 0 ∨
        blockNum d 4 1 ≤ s.sec.level → SecEnds s (.debugUnlock tag ctx i) { s.sec with nonce := none } tag .policy) ∧
      (s.fuses.dbgKill = false → s.cfg.debugPolicy ≠ 0 → (s.cfg.debugPolicy = 1 → blockNum d 5 1 ≠ 0) →
        s.sec.level < blockNum d 4 1 → ∀ kh, kh = (if blockNum d 5 1 = 0 then s.fuses.vendorKh else s.fuses.ownerKh) →
        (¬ SignedBy (slice d 64 1952) (slice d 0 2016) (slice d 2016 3309) kh → SecEnds s (.debugUnlock tag ctx i) { s.sec with nonce := none } tag .badSig) ∧
        (SignedBy (slice d 64 1952) (slice d 0 2016) (slice d 2016 3309) kh →
          blockNum d 8 8 ≠ s.fuses.serial.toNat ∨ s.sec.nonce ≠ some (BitVec.ofNat 256 (blockNum d 16 32)) →
          SecEnds s (.debugUnlock tag ctx i) { s.sec with nonce := none } tag .badBlock)))) ∧
  (∀ (s : State) (d : List Byte), s.runs = true →
    (s.sec.downUntil ≠ none → exec (.debugTokenTap d) s = .next s) ∧
    (s.sec.downUntil = none → TokenGood s d → exec (.debugTokenTap d) s = .next { s with sec := tokenTaken s.sec d }) ∧
    (s.sec.downUntil = none → ¬ TokenGood s d →
      exec (.debugTokenTap d) s = .next { s with sec := { s.sec with nonce := none } })) ∧
  (∀ (s : State) (c : Nat) (sec : Bool), s.runs = true →
    (∀ i ∈ [TapInstr.bypass, .idcode, .samplePreload],
      exec (.tapInstruction i) s = .next { s with sec := { s.sec with tapOk := true } }) ∧
    exec (.tapInstruction (.boundaryScan c)) s = .next { s with sec := { s.sec with tapOk := decide (1 ≤ s.sec.level) } } ∧
    exec (.tapInstruction (.debugPort sec)) s =
      .next { s with sec := { s.sec with tapOk := decide ((if sec then 3 else 2) ≤ s.sec.level) } }) ∧
  (∀ (s : State) (tag : BitVec 4) (ctx i k : Nat) (supply : Bool) (blown : Option Nat),
    SecReady s tag 8 ctx i 0 → pbBad s (i * 4096) 1 = [] → k = leNat (pbFetch s (i * 4096) 1) →
    (k = 0 ∨ 3 < k ∨ tfind s.boot.images k = none → SecEnds s (.svnAdvance tag ctx i supply blown) s.sec tag .badBlock) ∧
    ∀ im, 1 ≤ k → k ≤ 3 → tfind s.boot.images k = some im →
      (im.svn ≤ svnOf s.fuses k → SecEnds s (.svnAdvance tag ctx i supply blown) s.sec tag .ok) ∧
      (svnOf s.fuses k < im.svn → supply = false → SecEnds s (.svnAdvance tag ctx i supply blown) s.sec tag .resource) ∧
      (svnOf s.fuses k < im.svn → supply = true → ∀ v,
        v = (match blown with
          | none => im.svn
          | some b => max (svnOf s.fuses k) (min b im.svn)) →
        exec (.svnAdvance tag ctx i supply blown) s =
          .next { s with fuses := svnSet s.fuses k v
                         sec := { s.sec with stat := done tag.toNat .ok s.sec.stat.extra } })) ∧
  (∀ (s : State) (tag : BitVec 4) (ctx i : Nat) (supply : Bool), SecReady s tag 9 ctx i 0 → pbBad s (i * 4096) 4 = [] →
    (leNat (pbFetch s (i * 4096) 4) ≠ 0x4B494C4C → exec (.killDebug tag ctx i supply) s =
      .next { s with sec := { s.sec with stat := done tag.toNat .badBlock s.sec.stat.extra } }) ∧
    (leNat (pbFetch s (i * 4096) 4) = 0x4B494C4C → exec (.killDebug tag ctx i supply) s =
      .next { s with
        fuses := { s.fuses with dbgKill := if supply then true else s.fuses.dbgKill }
        sec := { s.sec with stat := done tag.toNat (if supply then .ok else .resource) s.sec.stat.extra } }))

/-- Links, rings, grants, proxies and loss of a chip. A training with no or one failed lane ends UP with lane 8
or that lane as spare, any other FAILED with a record; RETRAIN and FLIT_REPLAY act on an UP link only and count.
RING_SET forms the ring of a legal block and marks a link whose peer does not answer as the ring says MISWIRED;
BAD_BLOCK and RESOURCE leave everything. An export adds the grant as a holder and fills the lowest free grant;
R5 and RESOURCE change nothing. An arrival makes a proxy of a free handle or fence of an ACTIVE context. REVOKE
takes the hold away, the grant at once or once its copies have ended; a proxy whose grant ends loses its holder.
A proxy fence takes its owner's value and error bit, or ABANDONED; a signal is forwarded with the right only.
Ring messages act at the root, or at the others, of counters that are ring counters, and a join ends HUB_ALLOC.
A remote access serves what its grant permits inside the object and off images. A chip without path for 10 ms
leaves the reach mask, with a record; grants to it end, proxies of it are gone, proxy fences ABANDONED. (R392,
R394, R397, R398, R399, R400, R401, R402, Table 21-1, Table 21-2, Table 21-3, Table 21-4) -/
def Obligations.ChipLinks : Prop :=
  (∀ (s : State) (n : Nat) (ok : BitVec 9), s.runs = true →
    ((linkOf s n).st ≠ .training → exec (.linkTraining n ok) s = .next s) ∧
    ((linkOf s n).st = .training → badLanes ok = [] → ∃ t, exec (.linkTraining n ok) s = .next t ∧ t.log = s.log ∧
      LinkOnly s t n { linkOf s n with st := .up, spare := 8, trainedOnce := true } true) ∧
    (∀ k, (linkOf s n).st = .training → badLanes ok = [k] → ∃ t, exec (.linkTraining n ok) s = .next t ∧ t.log = s.log ∧
      LinkOnly s t n { linkOf s n with st := .up, spare := k, trainedOnce := true } true) ∧
    ((linkOf s n).st = .training → 2 ≤ (badLanes ok).length → ∃ t, exec (.linkTraining n ok) s = .next t ∧
      LinkOnly s t n { linkOf s n with st := .failed, spare := 15, trainedOnce := true } false ∧
      Appends s t (fun r => r.code = 0x0034 ∧ r.unit = 13 ∧ r.inst = n ∧ r.cls = 0))) ∧
  (∀ (s : State) (n : Nat), s.runs = true →
    ((linkOf s n).st = .up → (∃ t, exec (.retrain n) s = .next t ∧ t.log = s.log ∧
        LinkOnly s t n { linkOf s n with st := .training, spare := 15, retrains := (linkOf s n).retrains + 1 } false) ∧
      ∃ t, exec (.flitReplay n) s = .next t ∧ t = { s with links := t.links } ∧
        linkOf t n = { linkOf s n with replays := (linkOf s n).replays + 1 } ∧ ∀ m, m ≠ n → linkOf t m = linkOf s m) ∧
    ((linkOf s n).st ≠ .up → exec (.retrain n) s = .next s ∧ exec (.flitReplay n) s = .next s)) ∧
  (∀ (s : State) (tag : BitVec 4) (page : Nat) (peers : List (Option PeerId)) (b : BitVec 128), OlReady s page →
    pbBad s (page * 4096) 16 = [] → b = BitVec.ofNat 128 (leNat (pbFetch s (page * 4096) 16)) →
    (¬ ringBlockOk b →
      exec (.ringSet tag page peers) s = .next { s with olCmd := done tag.toNat .badBlock s.olCmd.extra }) ∧
    (ringBlockOk b → (s.grants ≠ [] ∨ s.hub.any (fun e => e.2.owner.isSome && e.2.ring) = true) →
      exec (.ringSet tag page peers) s = .next { s with olCmd := done tag.toNat .resource s.olCmd.extra }) ∧
    (ringBlockOk b → s.grants = [] → s.hub.any (fun e => e.2.owner.isSome && e.2.ring) = false →
      ∃ t r, exec (.ringSet tag page peers) s = .next t ∧
        t = { s with links := t.links, ring := r, olCmd := done tag.toNat .ok s.olCmd.extra } ∧
        r = { id := BitVec.ofNat 32 (bits b 31 0), n := bits b 35 32, chip := bits b 42 40, root := bits b 50 48
              standby := BitVec.ofNat 8 (bits b 63 56), st := ringState t
              reach := if (List.range 4).any (fun p => (linkOf t p).st == .up)
                then BitVec.ofNat 8 (2 ^ bits b 35 32 - 1) else BitVec.ofNat 8 (2 ^ bits b 42 40) } ∧
        (∀ p x, (linkOf s p).st = .up → peers[p]? = some (some x) → linkOf t p = { linkOf s p with
          peerChip := x.chip % 8, peerPort := x.port % 4
          st := if x.ringId.toNat = bits b 31 0 ∧ (x.chip, x.port) = ringPeer (bits b 35 32) (bits b 42 40) p
            then .up else .miswired }) ∧
        ∀ p, ((linkOf s p).st ≠ .up ∨ ∀ x, peers[p]? ≠ some (some x)) → linkOf t p = linkOf s p)) ∧
  (∀ (s : State) (tag : BitVec 4) (page : Nat) (act free : Bool) (b : BitVec 256) (r : Option Hit) (good : Hit → Bool),
    ExportReady s page b → r = resolve s (gbOctx b) (gbHandle b) (gbR0 b) (gbR1 b) false →
    (∀ h, good h = ((tget s.objs h.idx {}).ownerHolds && (tget s.objs h.idx {}).owner == gbOctx b && !h.remote &&
      !allocIdx h.idx && act && free && tchipOk s b && !allocIdx (gbPhandle b % 262144) &&
      gbPhandle b % 262144 != 0 && gbPhandle b / 262144 != 0)) →
    ((∀ h, r = some h → good h = false) → exec (.olExportObj (.issue tag page act free)) s =
      .next { s with olCmd := done tag.toNat .r5 s.olCmd.extra }) ∧
    ∀ h, r = some h → good h = true →
      (freeGrant s = none ∨ ringUsable s = false ∨ 7 ≤ (tget s.objs h.idx {}).importers.length →
        exec (.olExportObj (.issue tag page act free)) s =
          .next { s with olCmd := done tag.toNat .resource s.olCmd.extra }) ∧
      ∀ id, freeGrant s = some id → ringUsable s = true → (tget s.objs h.idx {}).importers.length < 7 →
        ∃ t, exec (.olExportObj (.issue tag page act free)) s = .next t ∧
          t = { s with objs := t.objs, grants := t.grants, olCmd := done tag.toNat .ok id } ∧
          tget t.objs h.idx {} = { tget s.objs h.idx {} with importers := (tget s.objs h.idx {}).importers ++ [⟨grantHolder id, gbR0 b, gbR1 b⟩] } ∧
          (∀ k, k ≠ h.idx → tfind t.objs k = tfind s.objs k) ∧
          tfind t.grants id = some { isFence := false, index := h.idx, octx := gbOctx b, tctx := gbTctx b
                                     tchip := gbTchip b, r0 := gbR0 b, r1 := gbR1 b, proxy := gbPhandle b } ∧
          ∀ k, k ≠ id → tfind t.grants k = tfind s.grants k) ∧
  (∀ (s : State) (tag : BitVec 4) (page : Nat) (act free good : Bool) (b : BitVec 256) (x : Fence), ExportReady s page b →
    x = fenceOf s (gbFence b) → good = (x.st == .live && x.ownerHolds && x.owner == gbOctx b && x.remote.isNone && act &&
      free && tchipOk s b) →
    (good = false → exec (.olExportFence (.issue tag page act free)) s =
      .next { s with olCmd := done tag.toNat .r5 s.olCmd.extra }) ∧
    (good = true → (freeGrant s = none ∨ ringUsable s = false ∨ 15 ≤ x.importers.length) →
      exec (.olExportFence (.issue tag page act free)) s =
        .next { s with olCmd := done tag.toNat .resource s.olCmd.extra }) ∧
    ∀ id, good = true → freeGrant s = some id → ringUsable s = true → x.importers.length < 15 →
      ∃ t, exec (.olExportFence (.issue tag page act free)) s = .next t ∧
        t = { s with fences := t.fences, grants := t.grants, olCmd := done tag.toNat .ok id } ∧
        fenceOf t (gbFence b) = { x with
          importers := x.importers ++ [{ ctx := grantHolder id, r0 := gbR0 b, r1 := gbR1 b }] } ∧
        (∀ k, k ≠ gbFence b → fenceOf t k = fenceOf s k) ∧
        tfind t.grants id = some { isFence := true, index := gbFence b, octx := gbOctx b, tctx := gbTctx b
                                   tchip := gbTchip b, r0 := gbR0 b, r1 := gbR1 b, proxy := gbPfence b } ∧
        ∀ k, k ≠ id → tfind t.grants k = tfind s.grants k) ∧
  (∀ (s : State) (chip gid tctx len f i : Nat) (h : W32) (v : W64) (err ab r0 r1 may : Bool) (o : Obj) (x : Fence), s.runs = true →
    o = { st := .live, gen := h.toNat / 262144, owner := tctx, ownerHolds := true, len := len, rd := r0, wr := r1
          remote := some (gid * 8 + chip) } →
    x = { st := if ab then .abandoned else .live, own0 := r0, own1 := r1, val := v, err := err, abandoned := ab
          owner := tctx, ownerHolds := true, remote := some (gid * 8 + chip) } →
    i = h.toNat % 262144 → may = ((ctxOf s tctx).st == .active && s.ring.st != .none) →
    ((may && (tget s.objs i {}).st == .free && !allocIdx i && i != 0 && h.toNat / 262144 != 0) = true →
      exec (.olExportObj (.arrive chip gid tctx h len r0 r1)) s = .next { s with objs := tput s.objs i o }) ∧
    ((may && (tget s.objs i {}).st == .free && !allocIdx i && i != 0 && h.toNat / 262144 != 0) = false →
      exec (.olExportObj (.arrive chip gid tctx h len r0 r1)) s = .next s) ∧
    ((may && (fenceOf s f).st == .free) = true →
      exec (.olExportFence (.arrive chip gid tctx f v err ab r0 r1)) s = .next { s with fences := tput s.fences f x }) ∧
    ((may && (fenceOf s f).st == .free) = false →
      exec (.olExportFence (.arrive chip gid tctx f v err ab r0 r1)) s = .next s)) ∧
  (∀ (s : State) (tag : BitVec 4) (id : Nat) (fly : Bool), MgmtReady s → s.olCmd.busy = false → id < 4096 →
    ((∀ g, tfind s.grants id = some g → g.revoked = true) →
      exec (.revoke (.issue tag id fly)) s = .next { s with olCmd := done tag.toNat .r5 s.olCmd.extra }) ∧
    ∀ g v, tfind s.grants id = some g → g.revoked = false →
      v = (if fly && !g.isFence then
          { grantLeave (objRef s g.index) id g with grants := tput s.grants id { g with revoked := true } }
        else grantLeave { s with grants := tdel s.grants id } id g) →
      exec (.revoke (.issue tag id fly)) s = .next { v with olCmd := done tag.toNat .ok s.olCmd.extra } ∧
      (fly && !g.isFence = false → exec (.revoke (.ended id)) s = .next v) ∧
      (g.isFence = true → v = { s with grants := v.grants, fences := v.fences } ∧
        (fenceOf v g.index).importers.all (fun x => x.ctx != grantHolder id) = true ∧
        ∀ k, k ≠ g.index → fenceOf v k = fenceOf s k) ∧
      (g.isFence = false → v = { s with grants := v.grants, objs := v.objs, ctxs := v.ctxs } ∧
        (tget v.objs g.index {}).importers.all (fun x => x.ctx != grantHolder id) = true ∧
        ∀ k, k ≠ g.index → tfind v.objs k = tfind s.objs k)) ∧
  (∀ (s : State) (id i : Nat), s.runs = true →
    (tfind s.grants id = none → exec (.revoke (.ended id)) s = .next s) ∧
    (∀ g, tfind s.grants id = some g → g.revoked = true →
      exec (.revoke (.ended id)) s = .next (objUnref { s with grants := tdel s.grants id } g.index)) ∧
    ((fenceOf s i).remote = none → exec (.revoke (.proxyGone true i)) s = .next s) ∧
    ((tget s.objs i {}).remote = none → exec (.revoke (.proxyGone false i)) s = .next s) ∧
    (∀ x, x = fenceOf s i → x.remote.isSome = true → ∃ t, exec (.revoke (.proxyGone true i)) s = .next t ∧
      t = { s with fences := t.fences } ∧ (∀ k, k ≠ i → fenceOf t k = fenceOf s k) ∧
      fenceOf t i = Fence.settle { x with ownerHolds := false, importers := x.importers.filter (·.ctx != x.owner) }) ∧
    ∀ o, o = tget s.objs i {} → o.remote.isSome = true → i ∉ (ctxOf s o.owner).reserve →
      ∃ t, exec (.revoke (.proxyGone false i)) s = .next t ∧
      t = { s with objs := t.objs } ∧ (∀ k, k ≠ i → tfind t.objs k = tfind s.objs k) ∧
      tget t.objs i {} = Obj.settle i { o with ownerHolds := false, importers := o.importers.filter (·.ctx != o.owner) }) ∧
  (∀ (s : State) (f : Nat) (v : W64) (err ab : Bool), s.runs = true →
    ((fenceOf s f).remote = none ∨ (fenceOf s f).st ≠ .live → exec (.proxyFenceUpdate f v err ab) s = .next s) ∧
    ((fenceOf s f).remote.isSome = true → (fenceOf s f).st = .live → ∃ x, exec (.proxyFenceUpdate f v err ab) s =
        .next { s with fences := tput s.fences f x } ∧ x = (if ab then { fenceOf s f with
          st := .abandoned, val := BitVec.allOnes 64, err := true, abandoned := true }
        else { fenceOf s f with val := v, err := err }))) ∧
  (∀ (s : State) (chip f ctx : Nat) (v : W64) (err may : Bool), s.runs = true →
    may = s.grants.any (fun e => e.2.isFence && e.2.index == f && e.2.tchip == chip && e.2.tctx == ctx && e.2.r1) →
    (may = true → exec (.proxySignalForward chip f ctx v err) s = .next { s with
      fences := tput s.fences f ((fenceOf s f).signal (domCount s 35) v err) }) ∧
    (may = false → exec (.proxySignalForward chip f ctx v err) s = .next s)) ∧
  (∀ (s : State) (i : Nat) (v : W32) (m : BitVec 16) (ok : Bool) (h : Hub), s.runs = true → h = hubOf s i →
    exec (.ringCounterMessage (.join i)) s = .next s ∧
    ((h.owner = none ∨ h.ring = false ∨ isRoot s = false) →
      exec (.ringCounterMessage (.signal i v)) s = .next s ∧ exec (.ringCounterMessage (.arrive i m)) s = .next s) ∧
    ((h.owner = none ∨ h.ring = false ∨ isRoot s = true) →
      exec (.ringCounterMessage (.wake i v)) s = .next s ∧ exec (.ringCounterMessage (.release i m)) s = .next s) ∧
    ((s.luCmd.busy = false ∨ i ∉ joinIdx s ∨ isRoot s = true) →
      exec (.ringCounterMessage (.joinAck i ok)) s = .next s) ∧
    (s.luCmd.busy = true → i ∈ joinIdx s → isRoot s = false →
      (∃ u, u = { s with hub := tupd s.hub i (fun h => { h with joined := true }) } ∧
        exec (.ringCounterMessage (.joinAck i true)) s =
          .next (if (joinIdx s).all (fun k => !thas u.hub k || (hubOf u k).joined) then
            { u with luCmd := { s.luCmd with result := .ok, busy := false, extra := 0 } } else u)) ∧
      exec (.ringCounterMessage (.joinAck i false)) s = .next { s with
        hub := s.hub.filter (fun e => !(joinIdx s).contains e.1)
        luCmd := { s.luCmd with result := .badBlock, busy := false, extra := 0 } }) ∧
    (h.owner.isSome = true → h.ring = true → isRoot s = true →
      (∃ t, exec (.ringCounterMessage (.signal i v)) s = .next t ∧ Evaluates s t none i (h.count + v) ∧
        t = { s with groups := t.groups, hub := t.hub, fly := { s.fly with
          watches := t.fly.watches, wakes := t.fly.wakes } }) ∧
      ∃ t, exec (.ringCounterMessage (.arrive i m)) s = .next t ∧
        t = { s with groups := t.groups, hub := t.hub, fly := { s.fly with
          watches := t.fly.watches, wakes := t.fly.wakes } } ∧
        (h.n + 1 ≠ h.parts → t = { s with hub := tput s.hub i { h with n := h.n + 1 } }) ∧
        (h.n + 1 = h.parts → (i ∉ ringMask s i m true → hubOf t i = { h with n := 0, sense := !h.sense }) ∧
          HubReleases s t i (ringMask s i m true))) ∧
    (h.owner.isSome = true → h.ring = true → isRoot s = false →
      (∀ d k f, runWatches (s.fly.watches.filter (onCtr none i)) v = (d, k, f) →
        ∃ t, exec (.ringCounterMessage (.wake i v)) s = .next t ∧ t = { s with groups := t.groups, fly := { s.fly with
          watches := s.fly.watches.filter (fun w => !(onCtr none i w && f.contains w))
          wakes := s.fly.wakes ++ f.map (fun w => { sp := w.sp, flash := true }) } } ∧
          ∀ k g, tfind s.groups k = some g → ∃ g', tfind t.groups k = some g' ∧ g'.sameRegs g) ∧
      ∃ t, exec (.ringCounterMessage (.release i m)) s = .next t ∧
        t = { s with groups := t.groups, hub := t.hub, fly := { s.fly with
          watches := t.fly.watches, wakes := t.fly.wakes } } ∧
        hubOf t i = { h with sense := !h.sense } ∧ HubReleases s t i (ringMask s i m false))) ∧
  (∀ (s : State) (gid off len : Nat) (d : Option (List Byte)), s.runs = true →
    ((∀ g, tfind s.grants gid = some g → g.isFence = true ∨ (tget s.objs g.index {}).len < off + len) →
      exec (.remoteAccessRequest gid off len d) s = .next s) ∧
    ∀ g o a, tfind s.grants gid = some g → g.isFence = false → o = tget s.objs g.index {} → off + len ≤ o.len →
      a = o.base + off →
      (g.r0 = false → exec (.remoteAccessRequest gid off len none) s = .next s) ∧
      (g.r0 = true → dmFault s a len = none →
        exec (.remoteAccessRequest gid off len none) s = .next (dmTouch s o.policy a len)) ∧
      (∀ w, g.r1 = false ∨ w.length ≠ len ∨ imageHit s a len = true →
        exec (.remoteAccessRequest gid off len (some w)) s = .next s) ∧
      ∀ w, g.r1 = true → w.length = len → imageHit s a len = false → macDrops s a len = none →
        exec (.remoteAccessRequest gid off len (some w)) s = .next (dmWrite s o.policy a w) ∧
        ((a + len ≤ ssStart ∨ ssStart ≤ a) → 2 ≤ o.policy → o.policy ≠ 3 → s.mem.l2 = [] → s.mem.wcb = [] →
          s.mem.macBad = [] → Memory.wf s.mem.dram = true → Memory.wf s.mem.ss = true →
          ∀ b, dmByte (dmWrite s o.policy a w) b = if a ≤ b ∧ b < a + len then w.getD (b - a) 0 else dmByte s b)) ∧
  (∀ (s : State) (j : Nat), s.runs = true →
    (s.ring.st = .none ∨ s.ring.n ≤ j ∨ j = s.ring.chip ∨ s.ring.reach.getLsbD j = false ∨ linkedTo s j = true →
      exec (.unreachable j) s = .next s) ∧
    (s.ring.st ≠ .none → j < s.ring.n → j < 8 → j ≠ s.ring.chip → s.ring.reach.getLsbD j = true → linkedTo s j = false →
      s.ring.root ≠ j → s.insts = [] → ∃ t, exec (.unreachable j) s = .next t ∧
        t = { s with ring := t.ring, log := t.log, fences := t.fences, objs := t.objs, ctxs := t.ctxs, grants := t.grants } ∧
        t.ring = { s.ring with reach := s.ring.reach &&& ~~~(1#8 <<< j), st := ringState t } ∧
        Appends s t (fun r => r.code = 0x0034 ∧ r.unit = 13 ∧ r.cls = 0 ∧ r.info = BitVec.ofNat 32 (j + 256)) ∧
        (∀ e ∈ t.grants, e ∈ s.grants ∧ e.2.tchip ≠ j) ∧
        (∀ k g, tfind s.grants k = some g → g.tchip ≠ j → tfind t.grants k = some g) ∧
        (∀ f x, (∀ e ∈ s.grants, ¬(e.2.isFence = true ∧ e.2.index = f)) → tfind s.fences f = some x → x.st = .live →
          remoteChip x.remote = some j →
          fenceOf t f = { x with st := .abandoned, val := BitVec.allOnes 64, err := true, abandoned := true }) ∧
        ∀ i o, (∀ e ∈ s.grants, ¬(e.2.isFence = false ∧ e.2.index = i)) → tfind s.objs i = some o → o.importers = [] →
          remoteChip o.remote = some j → (tget t.objs i {}).st ≠ .live))

/-- Detected errors, the log ring, injection and firmware restarts. A corrected error of a place that exists
writes one record, or counts it as dropped, and advances the one counter of its unit; another does nothing. A
bad L1 line goes, with a record. An uncorrectable error met for a context writes a context-class record, raises
err_log and makes an ACTIVE context LOST; a bad window-table or fence entry or fabric routing error is fatal and
makes every ACTIVE context LOST. A bad port-buffer word is poisoned; met by a device-side read its page is
regenerated, its stage image is marked, or its context is LOST. A stored line replaced in DRAM is marked where
its MAC does not match, and else read as it deciphers. LOG_DRAIN writes the next record to exactly its ring
place while there is room, and the first waiting record takes the slot; ERR_RING_CFG keeps page and size while
en is 1; ERR_INJECT takes writes from debug level 1, and the armed write poisons its word. Front-end, management
and security faults write their records and stop what Table 1-3 names; at the end of a reload a lost command
completes with PREEMPTED, at that of a management restart a held host limit is in force. (R17, R18, R403, R404,
R406, R408, R411, R413, R414, Table 1-3, Table 22-1, Table 22-3) -/
def Obligations.ErrorsAndRestarts : Prop :=
  (∀ (s : State) (unit inst addr syn : Nat), s.runs = true →
    (errAt s unit inst addr = false → exec (.errorDetect (.corrected unit inst addr syn)) s = .next s) ∧
    (errAt s unit inst addr = true → ∃ t, exec (.errorDetect (.corrected unit inst addr syn)) s = .next t ∧
      t = { s with log := t.log } ∧
      Appends s t (fun r => r.cls = 1 ∧ r.code = (if unit = 3 then 5 else 1) ∧ r.unit = unit ∧ r.inst = inst ∧
        r.addr = BitVec.ofNat 40 (if unit = 3 then addr / 128 * 128 else ceAddr unit addr) ∧
        r.info = (if unit = 3 then 0 else BitVec.ofNat 32 (syn % 256)) ∧ r.seq = s.log.written + 1) ∧
      (s.log.used s.log.nextOrd = true → t.log.recs = s.log.recs ∧ t.log.dropped = s.log.dropped + 1) ∧
      t.log.ceCore = (if unit = 0 then s.log.ceCore + 1 else s.log.ceCore) ∧
      t.log.ceSs = (if unit = 1 then s.log.ceSs + 1 else s.log.ceSs) ∧
      t.log.ceDram = (if unit = 2 ∨ unit = 3 then s.log.ceDram + 1 else s.log.ceDram) ∧
      t.log.ceOther = (if 4 ≤ unit then s.log.ceOther + 1 else s.log.ceOther))) ∧
  (∀ (s : State) (core off wg : Nat), s.runs = true →
    exec (.errorDetect (.localStore core off wg)) s = exec (.errorDetect (.groupArray core wg)) s ∧
    ((∀ w, tfind s.wgs wg = some w → w.core ≠ core) → exec (.errorDetect (.groupArray core wg)) s = .next s) ∧
    ∀ w, tfind s.wgs wg = some w → w.core = core → ∃ t, exec (.errorDetect (.groupArray core wg)) s = .next t ∧
      LosesCtx s t w.ctx 2 (fun r => r.unit = 0 ∧ r.inst = core ∧ r.addr = 0)) ∧
  (∀ (s : State) (core addr : Nat) (instr : Bool), s.runs = true →
    ∃ t, exec (.errorDetect (.l1 core instr addr)) s = .next t ∧ t = { s with cores := t.cores, log := t.log } ∧
      (∀ k, k ≠ core → tfind t.cores k = tfind s.cores k) ∧
      coreOf t core = (if instr then { coreOf s core with l1i := tdel (coreOf s core).l1i (addr / 128 % 256) }
        else { coreOf s core with l1 := tdel (coreOf s core).l1 (addr / 128 % 512) }) ∧
      (instr = false → tfind (coreOf t core).l1 (addr / 128 % 512) = none) ∧
      (instr = true → tfind (coreOf t core).l1i (addr / 128 % 256) = none) ∧
      Appends s t (fun r => r.cls = 1 ∧ r.code = 1 ∧ r.unit = 0 ∧ r.inst = core ∧ r.addr = 0)) ∧
  (∀ (s : State) (addr ctx : Nat), s.runs = true →
    ((chanOf s addr).any (fun c => chanUp s c.1) = false →
      exec (.errorDetect (.devMemory addr ctx true)) s = .next s) ∧
    (∀ c, chanOf s addr = some c → chanUp s c.1 = true →
      ∃ t, exec (.errorDetect (.devMemory addr ctx true)) s = .next t ∧
        LosesCtx s t ctx 6 (fun r => r.unit = 3 ∧ r.inst = c.1 ∧ r.addr = BitVec.ofNat 40 (addr / 128 * 128))) ∧
    ∃ t, exec (.errorDetect (.devMemory addr ctx false)) s = .next t ∧
      ((ctxOf s ctx).st ≠ .active → addr / 8 * 8 ∈ t.mem.poison) ∧
      LosesCtx s t ctx 2 (fun r => r.unit = (if isSs addr then 1 else 2) ∧ r.addr = BitVec.ofNat 40 (addr / 8 * 8))) ∧
  (∀ (s u : State) (addr l : Nat) (cipher mac m own : List Byte), s.runs = true → l = addr / 64 * 64 → u = wcFlush s l →
    (encAt s l = none → exec (.errorDetect (.macTamper addr cipher mac)) s = .next s) ∧
    ∀ p k, encAt s l = some (p, k) → own = cipherOf k l (mreads u.mem.dram l 64) →
      m = (if macCached u l && !u.mem.macBad.contains l then macOf k l own else mac) →
      (macOf k l cipher ≠ m → exec (.errorDetect (.macTamper addr cipher mac)) s =
        .next { u with mem := { u.mem with macBad := l :: u.mem.macBad.filter (· != l) } }) ∧
      (macOf k l cipher = m → cipher = own → exec (.errorDetect (.macTamper addr cipher mac)) s =
        .next { u with mem := { u.mem with macBad := u.mem.macBad.filter (· != l) } }) ∧
      (macOf k l cipher = m → cipher ≠ own → ∃ t, exec (.errorDetect (.macTamper addr cipher mac)) s = .next t ∧
        t = { u with mem := { u.mem with macBad := u.mem.macBad.filter (· != l), dram := t.mem.dram } } ∧
        ∀ a, Memory.wf u.mem.dram = true → mget t.mem.dram a = if l ≤ a ∧ a < l + 64 then
            (fit 64 (Config.xtsDec k.x1 k.x2 (BitVec.ofNat 128 (l / 64)) cipher)).getD (a - l) 0
          else mget u.mem.dram a)) ∧
  (∀ (s u : State) (off page : Nat), s.runs = true → page = off / 8 / 512 → u = poisonPb s off →
    (off / 8 ∈ s.pbPoison → u = s) ∧ (off / 8 ∉ s.pbPoison → u = { s with pbPoison := off / 8 :: s.pbPoison }) ∧
    exec (.errorDetect (.portBuffer off false)) s = .next u ∧
    (bootPage s page = true → ∃ t, exec (.errorDetect (.portBuffer off true)) s = .next t ∧
      t = { u with boot := t.boot, log := t.log } ∧
      t.boot = { s.boot with cur := s.boot.cur.map (fun j => if j.word (off / 8) then { j with bad := true } else j) } ∧
      Appends s t (fun r => r.cls = 0 ∧ r.code = 8 ∧ r.unit = 5 ∧ r.addr = BitVec.ofNat 40 (8 * (off / 8)))) ∧
    (bootPage s page = false → page < 256 → ∃ t, exec (.errorDetect (.portBuffer off true)) s = .next t ∧
      t = { s with pbPoison := s.pbPoison.filter (fun w => w / 512 != page), log := t.log } ∧
      Appends s t (fun r => r.cls = 1 ∧ r.code = 9 ∧ r.unit = 5 ∧ r.addr = BitVec.ofNat 40 (page * 4096))) ∧
    (bootPage s page = false → 256 ≤ page → pbEntry s page = none →
      exec (.errorDetect (.portBuffer off true)) s = .next u) ∧
    ∀ e, bootPage s page = false → 256 ≤ page → pbEntry s page = some e →
      ∃ t, exec (.errorDetect (.portBuffer off true)) s = .next t ∧
        LosesCtx s t e.ctx 8 (fun r => r.unit = 5 ∧ r.addr = BitVec.ofNat 40 (8 * (off / 8)))) ∧
  (∀ (s : State) (ctx gid i k path : Nat), s.runs = true →
    (tfind s.graphs (graphKey ctx gid) = none → exec (.errorDetect (.graphDir ctx gid)) s = .next s) ∧
    (∀ g, tfind s.graphs (graphKey ctx gid) = some g → ∃ t, exec (.errorDetect (.graphDir ctx gid)) s = .next t ∧
      LosesCtx s t ctx 2 (fun r => r.unit = 6)) ∧
    (tfind s.seqs i = none → exec (.errorDetect (.seqEntry i)) s = .next s) ∧
    (∀ x, tfind s.seqs i = some x → ∃ t, exec (.errorDetect (.seqEntry i)) s = .next t ∧
      LosesCtx s t x.ctx 2 (fun r => r.unit = 6)) ∧
    (∃ t, exec (.errorDetect (.ctxEntry ctx)) s = .next t ∧ LosesCtx s t ctx 2 (fun r => r.unit = 7)) ∧
    (∃ t, exec (.errorDetect (.flitData ctx path)) s = .next t ∧
      LosesCtx s t ctx 4 (fun r => r.unit = 14 ∧ r.info = BitVec.ofNat 32 path)) ∧
    (thas s.boot.images k = false → exec (.errorDetect (.stageImage k)) s = .next s) ∧
    (thas s.boot.images k = true → ∃ t, exec (.errorDetect (.stageImage k)) s = .next t ∧ t = { s with log := t.log } ∧
      Appends s t (fun r => r.cls = 1 ∧ r.code = 0x000A ∧ r.unit = 1 ∧ r.info = BitVec.ofNat 32 k))) ∧
  (∀ (s : State) (i : Nat), s.runs = true →
    exec (.errorDetect .tradeMem) s = exec .feRestart s ∧ exec (.errorDetect .mgmtMem) s = exec .mgmtRestart s ∧
    exec (.errorDetect .secMem) s = exec .secFault s ∧
    (∃ t, exec (.errorDetect (.windowTable i)) s = .next t ∧ Fatal s t 2 4 0 ∧ tfind t.wt.table i = none) ∧
    (∃ t, exec (.errorDetect (.fenceEntry i)) s = .next t ∧ Fatal s t 2 6 (fenceAt i)) ∧
    ∃ t, exec (.errorDetect .fabricRoute) s = .next t ∧ Fatal s t 4 14 0) ∧
  (∀ (s : State) (r : ErrRec) (rest : List ErrRec) (p : Nat), s.runs = true →
    ((bit s.log.ringCfg 0 = false ∨ s.pwr.mgmtRestarting = true ∨ ringMapped s = false ∨ s.log.recs = []) →
      exec .logDrain s = .next s) ∧
    (bit s.log.ringCfg 0 = true → s.pwr.mgmtRestarting = false → ringMapped s = true → s.log.recs = r :: rest →
      2 ^ ringLog s.log < (r.seq - s.log.ringHead).toNat →
      exec .logDrain s = .next { s with log := { s.log with ringFull := true } }) ∧
    (bit s.log.ringCfg 0 = true → s.pwr.mgmtRestarting = false → ringMapped s = true → s.log.recs = r :: rest →
      (r.seq - s.log.ringHead).toNat ≤ 2 ^ ringLog s.log → Memory.wf s.pb = true →
      p = ringPage s.log * 4096 + 32 * ((r.seq - 1).toNat % 2 ^ ringLog s.log) →
      ∃ t u, exec .logDrain s = .next t ∧
        u = { s with pb := u.pb, pbPoison := u.pbPoison, log := { s.log with recs := rest, ringFull := false } } ∧
        t = { u with log := t.log, ctxs := t.ctxs } ∧ (s.log.overQ = [] → t = u) ∧
        (∀ w ws, s.log.overQ = w :: ws → u.log.slotFor w.cls = none → t = u) ∧
        (∀ w ws i v, s.log.overQ = w :: ws → u.log.slotFor w.cls = some (i, v) →
          t.log.recs = rest ++ [{ w with idx := i, resv := v, seq := s.log.written + 1 }]) ∧
        (∀ j, j < 32 → mget t.pb (p + j) = r.bytes.getD j 0) ∧
        ∀ b, b < p ∨ p + 32 ≤ b → mget t.pb b = mget s.pb b)) ∧
  (∀ (s : State) (v w : W32) (m : BitVec 4), s.runs = true →
    (w = merge32 s.log.ringCfg v m.toNat &&& 0xFFFF8001 →
      (bit s.log.ringCfg 0 = true → bits w 31 15 ≠ bits s.log.ringCfg 31 15 → exec (.errRingCfgWrite v m) s = .next s) ∧
      ((bit s.log.ringCfg 0 = false ∨ bits w 31 15 = bits s.log.ringCfg 31 15) → exec (.errRingCfgWrite v m) s =
        .next { s with log := { s.log with ringCfg := w } })) ∧
    (s.sec.level = 0 → exec (.errInjectWrite v m) s = .next s) ∧
    (1 ≤ s.sec.level → exec (.errInjectWrite v m) s =
      .next { s with log := { s.log with inject := merge32 s.log.inject v m.toNat &&& 0x003F3F03 } }) ∧
    merge32 w v 0 = v ∧ merge32 w v 15 = w) ∧
  (∀ (s u : State) (addr kind unit : Nat), s.runs = true → kind = bits s.log.inject 1 0 → unit = bits s.log.inject 21 16 →
    u = { s with log := { s.log with inject := s.log.inject &&& 0xFFFFFFFC } } →
    ((kind = 0 ∨ kind = 3 ∨ injectHits s unit (bits s.log.inject 13 8) addr = false) →
      exec (.injectedWrite addr) s = .next s) ∧
    (injectHits s unit (bits s.log.inject 13 8) addr = true → kind = 1 ∨ kind = 2 ∧ unit ≠ 1 ∧ unit ≠ 2 ∧ unit ≠ 5 →
      exec (.injectedWrite addr) s = .next u) ∧
    (injectHits s unit (bits s.log.inject 13 8) addr = true → kind = 2 →
      (unit = 5 → exec (.injectedWrite addr) s = .next (poisonPb u addr)) ∧
      (unit = 1 → exec (.injectedWrite addr) s = .next (poisonWord u (addr / 8 * 8))) ∧
      (unit = 2 → exec (.injectedWrite addr) s = .next (poisonWord (l2Fill u addr) (addr / 8 * 8))) ∧
      addr / 8 ∈ (poisonPb u addr).pbPoison ∧ addr / 8 * 8 ∈ (poisonWord u (addr / 8 * 8)).mem.poison)) ∧
  (∀ (s : State), s.runs = true →
    (s.fw.feReloading = true → exec .feRestart s = .next s) ∧
    (s.fw.feReloading = false → exec .feReloadDone s = .next s ∧ ∃ t, exec .feRestart s = .next t ∧
      t = { s with fw := t.fw, irq := (raise s .feRestart).irq, log := t.log } ∧
      t.fw = { s.fw with feReloading := true, feLost := t.fw.feLost, feLostInsts := t.fw.feLostInsts } ∧
      (∀ i, i ∈ t.fw.feLostInsts ↔ ∃ x, (i, x) ∈ s.insts ∧ x.issued = false) ∧
      (∀ i, i ∈ t.fw.feLost ↔ (∃ c, (i, c) ∈ s.cmds) ∧ (∀ e ∈ s.insts, e.2.cmd ≠ some i) ∧
        thas s.graphs (retiredKey i) = false) ∧
      Appends s t (fun r => r.code = 0x0020 ∧ r.unit = 6 ∧ r.info = 0)) ∧
    (s.fw.feReloading = true → s.fw.feHeld = [] → s.fw.feLostInsts = [] →
      s.cmds.all (fun e => !e.2.unresolved) = true →
      (s.fw.feLost = [] → exec .feReloadDone s = .next { s with fw := { s.fw with feReloading := false } }) ∧
      ∀ id c e, s.fw.feLost = [id] → tfind s.cmds id = some c → Memory.wf s.pb = true →
        (queueOf s c.queue).st = .live → placeEntry s (queueOf s c.queue) = some e →
        ∃ t, exec .feReloadDone s = .next t ∧ t.fw = { s.fw with feReloading := false, feLost := [] } ∧
          Completes s t id c e .preempted) ∧
    (s.pwr.mgmtRestarting = true → exec .mgmtRestart s = .next s) ∧
    (s.pwr.mgmtRestarting = false → exec .mgmtRestartDone s = .next s ∧ ∃ t, exec .mgmtRestart s = .next t ∧
      t = { s with irq := (raise s .mgmtRestart).irq, log := t.log, pwr := { s.pwr with
        mgmtRestarting := true, mgmtRestarts := satInc s.pwr.mgmtRestarts } } ∧
      Appends s t (fun r => r.code = 0x0020 ∧ r.unit = 7 ∧ r.info = 1)) ∧
    (s.pwr.mgmtRestarting = true → s.fw.mgmtHeld = [] → s.pwr.retain = false → s.fw.zeroedHeld = [] →
      (s.fw.limHeld = none →
        exec .mgmtRestartDone s = .next { s with pwr := { s.pwr with mgmtRestarting := false } }) ∧
      ∀ v, s.fw.limHeld = some v → exec .mgmtRestartDone s =
        .next { s with pwr := { s.pwr with mgmtRestarting := false, hostLim := v }, fw := { s.fw with limHeld := none } })) ∧
  (∀ (s : State), s.runs = true →
    (s.sec.load = none → ∃ t n, exec .secFault s = .next t ∧ t = { s with log := t.log, sec := t.sec, free := s.free + 1 } ∧
      s.clk.now < n ∧ t.sec = { s.sec with heldCmds := [], downUntil := some n, stat := t.sec.stat } ∧
      (s.sec.heldCmds = [] → t.sec.stat = s.sec.stat) ∧
      (∀ c l, s.sec.heldCmds = c :: l → t.sec.stat = done (scTag c.2) .secFault 0) ∧
      Appends s t (fun r => r.code = 0x0020 ∧ r.unit = 8 ∧ r.info = 2)) ∧
    ∀ l, s.sec.load = some l → s.sec.deferred = [] → s.sec.heldCmds = [] → ∃ t n, exec .secFault s = .next t ∧
      s.clk.now < n ∧ t.sec = { s.sec with
        load := none, downUntil := some n, stat := { s.sec.stat with result := .secFault, busy := false } } ∧
      t.mem = (dmZero s l.dstAt (min (whPlain l.header) (l.next * 2 ^ whLog l.header))).mem ∧
      Appends s t (fun r => r.code = 0x0020 ∧ r.unit = 8 ∧ r.info = 2))

/-- Functions, RETAIN, limits, throttling, the rail and the correlation record. PWR_FN_n.en takes a host write
from READY with every grant, and acts as Table 2-7 says in each state: OFF starts, or is latched until the
device is ACTIVE, ON stops, a stopping function remembers an enable; a pipe that stops loses layers,
configuration and link, a busy engine and a partition under maintenance wait, a partition's Eddy units follow
it. The end of a transition enters ON, OFF, RESTARTING with its count, or STOPPING, ON and OFF with a record and
fn_state; a traced Eddy unit waits, a stopped partition leaves no core storage. RETAIN is entered with every
function OFF, and its exit starts what was latched. Host limit and samples are taken but while the management
firmware restarts. The power loop raises one group over the limit, relaxes one below 95 %, and does nothing in
the band. A hot sensor raises its group by 2, the current limit every group to 8, a bus failure holds every
group at the rail's step, and a voltage wait ends at the demands; each such change advances gen and writes one
THROTTLE record. Trip warning, THERMTRIP and the correlation record act as the manual says. (R28, R30, R33, R36,
R37, R38, R422, R423, R426, R428, Table 2-7, Table 2-10) -/
def Obligations.PowerCommands : Prop :=
  (∀ (s : State) (n : Nat) (en mgmt : Bool), s.runs = true →
    (s.boot.stage ≠ .ready → exec (.pwrFnWrite n en false) s = .next s) ∧
    ((fnConcerns s n).all (·.fnGrant) = false → exec (.pwrFnWrite n en false) s = .next s) ∧
    (s.boot.stage = .ready → (fnConcerns s n).all (·.fnGrant) = true →
      exec (.pwrFnWrite n en false) s = exec (.pwrFnWrite n en true) s) ∧
    ((if n < 8 then (partRec s n).isNone else (fnConcerns s n).isEmpty) = true →
      exec (.pwrFnWrite n en mgmt) s = .next s)) ∧
  (∀ (s : State) (n : Nat) (en : Bool) (f : Fn), s.runs = true → f = fnOf s n →
    (if n < 8 then (partRec s n).isSome else !(fnConcerns s n).isEmpty) = true →
    ((f.st = .starting ∨ f.st = .restarting ∨ f.st = .on ∧ en = true) → ∃ t, exec (.pwrFnWrite n en true) s = .next t ∧
      t = { s with pwr := t.pwr } ∧ fnOf t n = { f with en := en } ∧ ∀ k, k ≠ n → fnOf t k = fnOf s k) ∧
    (f.st = .off → en = false → ∃ t, exec (.pwrFnWrite n false true) s = .next t ∧
      t = { s with pwr := t.pwr } ∧ fnOf t n = { f with en := false, latched := false } ∧
      ∀ k, k ≠ n → fnOf t k = fnOf s k) ∧
    (f.st = .off → s.pwr.dev ≠ .active → ∃ t, exec (.pwrFnWrite n true true) s = .next t ∧
      t = { s with pwr := t.pwr } ∧ fnOf t n = { f with en := true, latched := true } ∧
      (s.pwr.dev = .retain → t.pwr.waking = true) ∧ ∀ k, k ≠ n → fnOf t k = fnOf s k) ∧
    (f.st = .stopping → ∃ t, exec (.pwrFnWrite n en true) s = .next t ∧
      t = { s with pwr := t.pwr } ∧ fnOf t n = { f with en := en, pending := en } ∧ ∀ k, k ≠ n → fnOf t k = fnOf s k) ∧
    (f.st = .off → s.pwr.dev = .active → ∃ t, exec (.pwrFnWrite n true true) s = .next t ∧
      t = { s with pwr := t.pwr } ∧ fnOf t n = { f with en := true, st := .starting, pending := false } ∧
      (8 ≤ n → ∀ k, k ≠ n → fnOf t k = fnOf s k) ∧ (∀ k, k < 12 → k ≠ n → fnOf t k = fnOf s k) ∧
      ∀ p, n < 8 → partRec s n = some p → ∀ g ∈ groupsOf p, (fnOf t (12 + g)).en = true) ∧
    (f.st = .on → 12 ≤ n → (20 ≤ n → (tget s.cmps (n - 20) {}).run = none) →
      ∃ t, exec (.pwrFnWrite n false true) s = .next t ∧
      t = { s with pwr := t.pwr } ∧ fnOf t n = { f with en := false, st := .stopping } ∧ ∀ k, k ≠ n → fnOf t k = fnOf s k) ∧
    (f.st = .on → 20 ≤ n → (tget s.cmps (n - 20) {}).run.isSome = true → ∃ t, exec (.pwrFnWrite n false true) s = .next t ∧
      t = { s with pwr := t.pwr } ∧ fnOf t n = { f with en := false } ∧ ∀ k, k ≠ n → fnOf t k = fnOf s k) ∧
    (f.st = .on → 8 ≤ n → n < 12 → ∃ t, exec (.pwrFnWrite n false true) s = .next t ∧
      t = { s with pwr := t.pwr, pipes := t.pipes, fences := t.fences, objs := t.objs } ∧
      fnOf t n = { f with en := false, st := .stopping } ∧ (∀ k, k ≠ n → fnOf t k = fnOf s k) ∧
      (pipeOf t (n - 8)).layers = [] ∧ (pipeOf t (n - 8)).conf = none ∧ (pipeOf t (n - 8)).link = 0 ∧
      ∀ k, k ≠ n - 8 → pipeOf t k = pipeOf s k) ∧
    (f.st = .on → n < 8 → s.mem.op.isSome = true → ∃ t, exec (.pwrFnWrite n false true) s = .next t ∧
      t = { s with pwr := t.pwr } ∧ fnOf t n = { f with en := false } ∧ ∀ k, k ≠ n → fnOf t k = fnOf s k) ∧
    ∀ p, f.st = .on → n < 8 → partRec s n = some p → s.mem.op = none → ∃ t, exec (.pwrFnWrite n false true) s = .next t ∧
      fnOf t n = { f with en := false, st := .stopping } ∧ (∀ k, k < 12 → k ≠ n → fnOf t k = fnOf s k) ∧
      (∀ g ∈ groupsOf p, s.cfg.parts.any (fun q => q.idx != n && (fnOf s q.idx).en && (groupsOf q).contains g) = false →
        (fnOf t (12 + g)).en = false) ∧
      (s.insts.all (fun e => e.2.part != n) = true → t = { s with pwr := t.pwr })) ∧
  (∀ (s : State) (n : Nat) (f : Fn), s.runs = true → f = fnOf s n →
    ((f.st = .off ∨ f.st = .on ∨ f.st = .stopping ∧ 12 ≤ n ∧ n < 20 ∧ tracing s (n - 12) = true) →
      exec (.fnTransitionDone n) s = .next s) ∧
    ((f.st = .starting ∨ f.st = .restarting) → f.en = true → ∃ t, exec (.fnTransitionDone n) s = .next t ∧
      t = { s with
        pwr := t.pwr, irq := (raise s .fnState).irq, log := t.log, groups := t.groups, pipes := t.pipes, fences := t.fences
        objs := t.objs } ∧
      fnOf t n = { f with st := .on } ∧ (∀ k, k ≠ n → fnOf t k = fnOf s k) ∧
      (n < 8 ∨ 12 ≤ n → t.pipes = s.pipes ∧ t.fences = s.fences ∧ t.objs = s.objs) ∧
      (n < 12 ∨ 20 ≤ n → t.groups = s.groups) ∧
      (8 ≤ n → n < 12 → (pipeOf t (n - 8)).layers = [] ∧ (pipeOf t (n - 8)).conf = none ∧ (pipeOf t (n - 8)).frames = 0) ∧
      (∀ k g, tfind s.groups k = some g → ∃ g', tfind t.groups k = some g' ∧ g'.sameRegs g) ∧
      Appends s t (fun r => r.cls = 0 ∧ r.code = 0x0021 ∧ r.unit = 16 ∧ r.info = BitVec.ofNat 32 (packNat [(n, 0), (3, 8)]))) ∧
    ((f.st = .starting ∨ f.st = .restarting) → f.en = false → (8 ≤ n ∨ partRec s n = none) → ∃ t, exec (.fnTransitionDone n) s = .next t ∧
      t = { s with pwr := t.pwr } ∧ fnOf t n = { f with st := .stopping } ∧ ∀ k, k ≠ n → fnOf t k = fnOf s k) ∧
    (∀ p, (f.st = .starting ∨ f.st = .restarting) → f.en = false → n < 8 → partRec s n = some p →
      (s.mem.op.isSome = true → exec (.fnTransitionDone n) s = .next s) ∧
      (s.mem.op = none → ∃ t, exec (.fnTransitionDone n) s = .next t ∧ fnOf t n = { f with st := .stopping })) ∧
    (f.st = .stopping → f.pending = false → (12 ≤ n → n < 20 → tracing s (n - 12) = false) →
      ∃ t, exec (.fnTransitionDone n) s = .next t ∧
        t = { s with pwr := t.pwr, irq := (raise s .fnState).irq, log := t.log, cores := t.cores, mem := t.mem } ∧
        fnOf t n = { f with st := .off } ∧ (∀ k, k ≠ n → fnOf t k = fnOf s k) ∧
        (8 ≤ n → t.cores = s.cores ∧ t.mem = s.mem) ∧
        (∀ p, n < 8 → partRec s n = some p → (∀ e ∈ t.cores, p.coreMask.getLsbD e.1 = false) ∧
          ∀ k, p.chMask.getLsbD (k / 8192) = true → tfind t.mem.l2 k = none) ∧
        Appends s t (fun r => r.cls = 0 ∧ r.code = 0x0021 ∧ r.unit = 16 ∧ r.info = BitVec.ofNat 32 (packNat [(n, 0), (0, 8)]))) ∧
    (f.st = .stopping → f.pending = true → (12 ≤ n → n < 20 → tracing s (n - 12) = false) →
      ∃ t, exec (.fnTransitionDone n) s = .next t ∧ t = { s with pwr := t.pwr, cores := t.cores, mem := t.mem } ∧
        fnOf t n = { f with st := .restarting, pending := false, restarts := satInc f.restarts } ∧
        (8 ≤ n → t.cores = s.cores ∧ t.mem = s.mem ∧ ∀ k, k ≠ n → fnOf t k = fnOf s k))) ∧
  (∀ (s : State), s.runs = true →
    (s.pwr.dev ≠ .active → exec .retainRequest s = .next s) ∧
    (s.pwr.dev = .active → s.pwr.mgmtRestarting = true → exec .retainRequest s =
      .next { s with pwr := { s.pwr with retain := true } }) ∧
    (s.pwr.dev = .active → s.pwr.mgmtRestarting = false → s.pwr.fns.all (fun e => e.2.st == .off) = true →
      exec .retainRequest s = .next { s with pwr := { s.pwr with dev := .retain, retain := true, sramMv := 600 } }) ∧
    (s.pwr.dev = .active → s.pwr.mgmtRestarting = false → s.pwr.fns.all (fun e => e.2.st == .off) = false →
      exec .retainRequest s = .next { s with pwr := { s.pwr with retain := false } }) ∧
    (s.pwr.dev ≠ .retain → exec .wake s = .next { s with pwr := { s.pwr with retain := false } }) ∧
    (s.pwr.dev = .retain → exec .wake s = .next { s with pwr := { s.pwr with waking := true } }) ∧
    ((s.pwr.dev ≠ .retain ∨ s.pwr.waking = false) → exec .retainExitDone s = .next s) ∧
    (s.pwr.dev = .retain → s.pwr.waking = true → s.pwr.fns.all (fun e => !e.2.latched) = true →
      exec .retainExitDone s =
        .next { s with pwr := { s.pwr with dev := .active, waking := false, retain := false, sramMv := 750 } }) ∧
    (s.pwr.dev = .retain → s.pwr.waking = true → s.pwr.fns.all (fun e => e.2.st == .off) = true →
      ∃ t, exec .retainExitDone s = .next t ∧ t = { s with pwr := t.pwr } ∧ t.pwr.dev = .active ∧ t.pwr.waking = false ∧
        t.pwr.sramMv = 750 ∧ ∀ n, n < 22 → (fnOf s n).latched = true → (fnOf s n).en = true →
          (if n < 8 then (partRec s n).isSome else !(fnConcerns s n).isEmpty) = true →
          (fnOf t n).st = .starting ∧ (fnOf t n).latched = false)) ∧
  (∀ (s : State) (v : Byte) (l : List Nat), s.runs = true →
    ((s.boot.stage ≠ .ready ∨ s.cfg.hostWritesLimit = false) → exec (.pwrLimitWrite v) s = .next s) ∧
    (s.boot.stage = .ready → s.cfg.hostWritesLimit = true → s.pwr.mgmtRestarting = false →
      exec (.pwrLimitWrite v) s = .next { s with pwr := { s.pwr with hostLim := v } }) ∧
    (s.boot.stage = .ready → s.cfg.hostWritesLimit = true → s.pwr.mgmtRestarting = true →
      exec (.pwrLimitWrite v) s = .next { s with fw := { s.fw with limHeld := some v } }) ∧
    (s.pwr.mgmtRestarting = true → exec (.powerSample l) s = .next s) ∧
    (s.pwr.mgmtRestarting = false → exec (.powerSample l) s =
      .next { s with pwr := { s.pwr with samples := (l.foldl (· + ·) 0 :: s.pwr.samples).take 10 } })) ∧
  (∀ (s : State) (n sum lim : Nat) (g : Nat), s.runs = true → n = s.pwr.samples.length → sum = s.pwr.samples.foldl (· + ·) 0 →
    lim = min s.cfg.limitW (max 35 s.pwr.hostLim.toNat) → (powerLimit s).1 = lim ∧
    ((s.pwr.dev ≠ .active ∨ s.pwr.mgmtRestarting = true ∨ n = 0 ∨
      sum ≤ lim * 1000 * n ∧ 95 * lim * 1000 * n ≤ sum * 100) → exec .powerLoopTick s = .next s) ∧
    (s.pwr.dev = .active → s.pwr.mgmtRestarting = false → 0 < n → lim * 1000 * n < sum →
      ((raiseOrder s).find? (fun g => decide (tget s.pwr.steps g 0 < 12)) = none → exec .powerLoopTick s = .next s) ∧
      ((raiseOrder s).find? (fun g => decide (tget s.pwr.steps g 0 < 12)) = some g →
        ∃ t, exec .powerLoopTick s = .next t ∧ tget s.pwr.steps g 0 < tget t.pwr.steps g 0 ∧
          StepsTaken s t (powerLimit s).2 false { s.pwr with
            dLoop := tput s.pwr.dLoop g (tget s.pwr.steps g 0 + 1) })) ∧
    (s.pwr.dev = .active → s.pwr.mgmtRestarting = false → 0 < n → sum ≤ lim * 1000 * n → sum * 100 < 95 * lim * 1000 * n →
      ((raiseOrder s).reverse.find? (fun g => decide (0 < tget s.pwr.dLoop g 0)) = none →
        exec .powerLoopTick s = .next s) ∧
      ((raiseOrder s).reverse.find? (fun g => decide (0 < tget s.pwr.dLoop g 0)) = some g →
        ∃ t, exec .powerLoopTick s = .next t ∧
          StepsTaken s t (powerLimit s).2 false { s.pwr with
            dLoop := tput s.pwr.dLoop g (tget s.pwr.dLoop g 0 - 1) }))) ∧
  (∀ (s : State) (sensor c : Nat) (hot : List Nat), s.runs = true →
    (c ≤ s.cfg.throttleC → exec (.thermalThrottle sensor c) s = .next s) ∧
    (s.cfg.throttleC < c → hot = (if s.pwr.hot.contains sensor then s.pwr.hot else sensor :: s.pwr.hot) →
      ∃ t, exec (.thermalThrottle sensor c) s = .next t ∧
        (sensor < 24 → min 12 (tget s.pwr.steps (sensor / 3) 0 + 2) ≤ tget t.pwr.steps (sensor / 3) 0) ∧
        StepsTaken s t 1 false { s.pwr with
          hot := hot, dTherm := tput s.pwr.dTherm (sensor / 3) (min 12 (tget s.pwr.steps (sensor / 3) 0 + 2)) }) ∧
    ((s.cfg.throttleC < c ∨ sensor ∉ s.pwr.hot) → exec (.thermalRelease sensor c) s = .next s) ∧
    (c ≤ s.cfg.throttleC → sensor ∈ s.pwr.hot → hot = s.pwr.hot.filter (· != sensor) →
      (hot.any (fun x => x / 3 == sensor / 3) = true →
        exec (.thermalRelease sensor c) s = .next { s with pwr := { s.pwr with hot := hot } }) ∧
      (hot.any (fun x => x / 3 == sensor / 3) = false → ∃ t, exec (.thermalRelease sensor c) s = .next t ∧
        StepsTaken s t 1 false { s.pwr with hot := hot, dTherm := tdel s.pwr.dTherm (sensor / 3) })) ∧
    (c + 5 < tripC s → exec (.tripWarn sensor c) s = .next s) ∧
    (tripC s ≤ c + 5 → exec (.tripWarn sensor c) s = .next { s with
      pwr := { s.pwr with tripWarn := true, tripAt := domCount s 36 }, irq := (raise s .therm).irq }) ∧
    (tripC s ≤ c → ∃ t, exec (.thermtrip sensor c) s = .next t ∧ t.runs = false ∧
      t = { s with pins := { s.pins with thermtrip := true, clocksStopped := true } }) ∧
    (c < tripC s → exec (.thermtrip sensor c) s = .next s)) ∧
  (∀ (s : State), s.runs = true →
    (∃ t, exec .currentLimit s = .next t ∧ (∀ g, g < 8 → 8 ≤ tget t.pwr.steps g 0) ∧
      StepsTaken { s with pins := { s.pins with coreOcN := false } } t 2 false { s.pwr with
        currentOn := true, dCur := (List.range 8).map (fun g => (g, 8)) }) ∧
    (∃ t, exec .currentLimitRelease s = .next t ∧
      StepsTaken { s with pins := { s.pins with coreOcN := true } } t 2 false { s.pwr with currentOn := false, dCur := [] }) ∧
    (s.pwr.vNext = none → exec .voltageWaitEnd s = .next s) ∧
    (∀ v, s.pwr.vNext = some v → ∃ t, exec .voltageWaitEnd s = .next t ∧
      StepsTaken s t s.pwr.vCause false { s.pwr with vStep := v, vNext := none, dHold := [] } ∧
      ∀ g, g < 8 → v ≤ demand { s.pwr with dHold := [] } g →
        tget t.pwr.steps g 0 = demand { s.pwr with dHold := [] } g) ∧
    (∃ t, exec .regulatorBusFailure s = .next t ∧ (∀ g, g < 8 → s.pwr.vStep ≤ tget t.pwr.steps g 0) ∧
      StepsTaken s t 4 true { s.pwr with vNext := none, dHold := (List.range 8).map (fun g => (g, s.pwr.vStep)) }) ∧
    ((s.boot.stage ≠ .ready ∨ s.pwr.mgmtRestarting = true) → exec .clockCorrelation s = .next s) ∧
    (s.boot.stage = .ready → s.pwr.mgmtRestarting = false → ∃ t, exec .clockCorrelation s = .next t ∧
      t = { s with clk := { s.clk with corr := t.clk.corr, corrTs := domCount s 36 } } ∧
      ∀ d, d < 44 → tfind t.clk.corr d = some (domCount s d, BitVec.ofNat 32 (domHz s d))))
end

