-- ==== Sys2Proof/Laws/DevMem.lean ====
section
/-! SUPPORT. DevMem.lean: what reading and writing device memory can change: device memory and its caches. -/

namespace Sys2Proof.Machine

theorem macTouch_frame (s : State) (a : Nat) (b : Bool) : macTouch s a b = { s with mem := (macTouch s a b).mem } := by
  unfold macTouch; split <;> rfl

theorem dramMask_frame (s : State) (a : Nat) (d : List (Option Byte)) :
    dramMask s a d = { s with mem := (dramMask s a d).mem } := by
  unfold dramMask; rw [macTouch_frame]

theorem dramPut_frame (s : State) (a : Nat) (d : List Byte) : dramPut s a d = { s with mem := (dramPut s a d).mem } := by
  unfold dramPut; rw [macTouch_frame]

theorem wcFlush_frame (s : State) (a : Nat) : wcFlush s a = { s with mem := (wcFlush s a).mem } := by
  unfold wcFlush
  split
  · rw [dramMask_frame]
  · rfl

theorem l2Evict_frame (s : State) (k : Nat) : l2Evict s k = { s with mem := (l2Evict s k).mem } := by
  unfold l2Evict
  split
  · rfl
  · split
    · rfl
    · dsimp only
      split
      · rw [dramPut_frame]
      · rfl

theorem l2Fill_frame (s : State) (a : Nat) : l2Fill s a = { s with mem := (l2Fill s a).mem } := by
  unfold l2Fill
  split
  · rfl
  · split
    · rfl
    · dsimp only
      split
      · rw [wcFlush_frame]
      · rw [macTouch_frame, l2Evict_frame, wcFlush_frame]

/-- Steps that change device memory alone do so together. -/
theorem foldl_mem {α : Type} (f : State → α → State) (h : ∀ s x, f s x = { s with mem := (f s x).mem }) (l : List α)
    (s : State) : l.foldl f s = { s with mem := (l.foldl f s).mem } := by
  induction l generalizing s with
  | nil => rfl
  | cons x r ih => rw [List.foldl_cons, ih, h s x]

/-- A read's traffic changes device memory and its caches only. -/
theorem dmTouch_frame (s : State) (pol a n : Nat) : dmTouch s pol a n = { s with mem := (dmTouch s pol a n).mem } := by
  unfold dmTouch
  split
  · rfl
  · split
    · refine foldl_mem _ (fun s l => ?_) _ _
      split
      · rfl
      · exact macTouch_frame _ _ _
    · exact foldl_mem _ l2Fill_frame _ _

theorem dmWriteLine_frame (s : State) (pol a : Nat) (d : List (Option Byte)) :
    dmWriteLine s pol a d = { s with mem := (dmWriteLine s pol a d).mem } := by
  have wc (s : State) : wcPut s a d = { s with mem := (wcPut s a d).mem } := by
    unfold wcPut
    split
    · rfl
    · dsimp only
      split
      · rw [wcFlush_frame]
      · split
        · rw [wcFlush_frame]
        · rfl
  have go (s t : State) (h : t = { s with mem := t.mem }) (u : State) (hu : u = { t with mem := u.mem }) :
      u = { s with mem := u.mem } := by rw [hu, h]
  unfold dmWriteLine
  dsimp only
  refine go _ (if pol < 2 then l2Fill s a else s) (by split; exact l2Fill_frame _ _; rfl) _ ?_
  generalize (if pol < 2 then l2Fill s a else s) = u
  split
  · split
    · rfl
    · split
      · rw [dramMask_frame]
      · rw [dramPut_frame]
  · split
    · exact wc _
    · rw [dramMask_frame, wcFlush_frame]

theorem dmWriteLines_frame (f : Nat) (s : State) (pol a : Nat) (d : List (Option Byte)) :
    dmWriteLines f s pol a d = { s with mem := (dmWriteLines f s pol a d).mem } := by
  induction f generalizing s a d with
  | zero => rfl
  | succ f ih =>
    cases d with
    | nil => rfl
    | cons x d =>
      rw [dmWriteLines]
      · rw [ih, dmWriteLine_frame]
      · simp

/-- A write changes device memory and its caches only. -/
theorem dmWrite_frame (s : State) (pol a : Nat) (d : List Byte) :
    dmWrite s pol a d = { s with mem := (dmWrite s pol a d).mem } := by
  unfold dmWrite dmWriteOpt
  dsimp only
  split
  · rfl
  · rw [dmWriteLines_frame]; rfl

end Sys2Proof.Machine
end

