-- ==== Sys2Proof/Laws/Mem.lean ====
section
/-! SUPPORT. Mem.lean: a byte memory keeps its canonical form under every operation on it, a byte just
written reads back, and every other byte is left alone. -/

namespace Sys2Proof.Machine

/-! ## The canonical form -/

theorem mwfFrom_mono {lo lo' : Nat} {m : Memory} (h : mwfFrom lo' m = true) (hle : lo ≤ lo') :
    mwfFrom lo m = true := by
  cases m with
  | nil => rfl
  | cons c r =>
    obtain ⟨k, v⟩ := c
    simp only [mwfFrom, Bool.and_eq_true, decide_eq_true_eq] at h ⊢
    exact ⟨⟨by omega, h.1.2⟩, h.2⟩

theorem mset_wfFrom {lo : Nat} {m : Memory} (a : Nat) (x : Byte) (h : mwfFrom lo m = true) (ha : lo ≤ a) :
    mwfFrom lo (mset m a x) = true := by
  induction m generalizing lo with
  | nil =>
    unfold mset
    split <;> simp_all [mwfFrom]
  | cons c r ih =>
    obtain ⟨k, v⟩ := c
    simp only [mwfFrom, Bool.and_eq_true, decide_eq_true_eq, bne_iff_ne, ne_eq] at h
    obtain ⟨⟨h1, h2⟩, h3⟩ := h
    unfold mset
    split
    · split
      · simp_all [mwfFrom]
      · simp only [mwfFrom, Bool.and_eq_true, decide_eq_true_eq, bne_iff_ne, ne_eq]
        exact ⟨⟨ha, by assumption⟩, ⟨⟨by omega, h2⟩, h3⟩⟩
    · split
      · split
        · exact mwfFrom_mono h3 (by omega)
        · simp only [mwfFrom, Bool.and_eq_true, decide_eq_true_eq, bne_iff_ne, ne_eq]
          exact ⟨⟨ha, by assumption⟩, by simp_all⟩
      · simp only [mwfFrom, Bool.and_eq_true, decide_eq_true_eq, bne_iff_ne, ne_eq]
        exact ⟨⟨h1, h2⟩, ih h3 (by omega)⟩

/-- Writing a byte keeps the canonical form. -/
theorem mset_wf {m : Memory} (h : Memory.wf m = true) (a : Nat) (x : Byte) : Memory.wf (mset m a x) = true :=
  mset_wfFrom a x h (Nat.zero_le a)

theorem mwrites_wf {m : Memory} (h : Memory.wf m = true) (a : Nat) (d : List Byte) :
    Memory.wf (mwrites m a d) = true := by
  induction d generalizing m a with
  | nil => exact h
  | cons b r ih => exact ih (mset_wf h a b) (a + 1)

theorem mwritesMasked_wf {m : Memory} (h : Memory.wf m = true) (a : Nat) (d : List Byte) (k : List Bool) :
    Memory.wf (mwritesMasked m a d k) = true := by
  induction d generalizing m a k with
  | nil => exact h
  | cons b r ih =>
    cases k with
    | nil => exact ih (mset_wf h a b) (a + 1) []
    | cons c ks =>
      unfold mwritesMasked
      split
      · exact ih h (a + 1) ks
      · exact ih (mset_wf h a b) (a + 1) ks

theorem mwriteOpt_wf {m : Memory} (h : Memory.wf m = true) (a : Nat) (d : List (Option Byte)) :
    Memory.wf (mwriteOpt m a d) = true := by
  induction d generalizing m a with
  | nil => exact h
  | cons b r ih =>
    cases b with
    | none => exact ih h (a + 1)
    | some b => exact ih (mset_wf h a b) (a + 1)

theorem filter_wfFrom {lo : Nat} {m : Memory} (p : Host.Cell → Bool) (h : mwfFrom lo m = true) :
    mwfFrom lo (m.filter p) = true := by
  induction m generalizing lo with
  | nil => rfl
  | cons c r ih =>
    obtain ⟨k, v⟩ := c
    simp only [mwfFrom, Bool.and_eq_true, decide_eq_true_eq] at h
    rw [List.filter_cons]
    split
    · simp only [mwfFrom, Bool.and_eq_true, decide_eq_true_eq]
      exact ⟨h.1, ih h.2⟩
    · exact ih (mwfFrom_mono h.2 (by omega))

/-- Dropping cells keeps the canonical form. -/
theorem filter_wf {m : Memory} (h : Memory.wf m = true) (p : Host.Cell → Bool) : Memory.wf (m.filter p) = true :=
  filter_wfFrom p h

theorem mzero_wf {m : Memory} (h : Memory.wf m = true) (a n : Nat) : Memory.wf (mzero m a n) = true :=
  filter_wf h _

/-! ## Reading after writing -/

theorem mget_below {lo a : Nat} {m : Memory} (h : mwfFrom lo m = true) (ha : a < lo) : mget m a = 0 := by
  induction m generalizing lo with
  | nil => rfl
  | cons c r ih =>
    obtain ⟨k, v⟩ := c
    simp only [mwfFrom, Bool.and_eq_true, decide_eq_true_eq] at h
    unfold mget
    rw [if_neg (by omega)]
    exact ih h.2 (by omega)

theorem mget_mset_from {lo : Nat} {m : Memory} (h : mwfFrom lo m = true) (a b : Nat) (x : Byte) :
    mget (mset m a x) b = if b = a then x else mget m b := by
  induction m generalizing lo with
  | nil =>
    by_cases hx : x = 0
    · rw [mset, if_pos hx]
      by_cases hb : b = a
      · rw [if_pos hb, hx, mget]
      · rw [if_neg hb]
    · rw [mset, if_neg hx]
      by_cases hb : b = a
      · rw [if_pos hb, mget, if_pos hb.symm]
      · rw [if_neg hb]
        show (if a = b then x else mget [] b) = mget [] b
        rw [if_neg (fun e : a = b => hb e.symm)]
  | cons c r ih =>
    obtain ⟨k, v⟩ := c
    simp only [mwfFrom, Bool.and_eq_true, decide_eq_true_eq] at h
    obtain ⟨⟨_, _⟩, h3⟩ := h
    have low : ∀ j, j ≤ k → mget r j = 0 := fun j hj => mget_below h3 (by omega)
    rw [mset]
    by_cases hak : a < k
    · rw [if_pos hak]
      by_cases hx : x = 0
      · rw [if_pos hx]
        by_cases hb : b = a
        · rw [if_pos hb, mget, if_neg (by omega), low b (by omega), hx]
        · rw [if_neg hb]
      · rw [if_neg hx]
        by_cases hb : b = a
        · rw [if_pos hb, mget, if_pos hb.symm]
        · rw [if_neg hb, mget, if_neg (fun e => hb e.symm)]
    · rw [if_neg hak]
      by_cases hka : k = a
      · rw [if_pos hka]
        by_cases hx : x = 0
        · rw [if_pos hx]
          by_cases hb : b = a
          · rw [if_pos hb, low b (by omega), hx]
          · rw [if_neg hb, mget, if_neg (by omega)]
        · rw [if_neg hx]
          by_cases hb : b = a
          · rw [if_pos hb, mget, if_pos hb.symm]
          · rw [if_neg hb, mget, if_neg (fun e => hb e.symm), mget, if_neg (by omega)]
      · rw [if_neg hka, mget]
        by_cases hb : k = b
        · rw [if_pos hb, if_neg (by omega), mget, if_pos hb]
        · rw [if_neg hb, ih h3, mget, if_neg hb]

/-- The byte written reads back and every other byte is as before. -/
theorem mget_mset {m : Memory} (h : Memory.wf m = true) (a b : Nat) (x : Byte) :
    mget (mset m a x) b = if b = a then x else mget m b :=
  mget_mset_from h a b x

/-- Bytes outside a written run read as before. -/
theorem mget_mwrites_out {m : Memory} (h : Memory.wf m = true) (a b : Nat) (d : List Byte)
    (hb : b < a ∨ a + d.length ≤ b) : mget (mwrites m a d) b = mget m b := by
  induction d generalizing m a with
  | nil => rfl
  | cons x r ih =>
    simp only [List.length_cons] at hb
    unfold mwrites
    rw [ih (mset_wf h a x) (a + 1) (by omega), mget_mset h, if_neg (by omega)]

/-- A byte of a written run reads what was written there. -/
theorem mget_mwrites_in {m : Memory} (h : Memory.wf m = true) (a i : Nat) (d : List Byte) (hi : i < d.length) :
    mget (mwrites m a d) (a + i) = d[i] := by
  induction d generalizing m a i with
  | nil => simp at hi
  | cons x r ih =>
    unfold mwrites
    cases i with
    | zero =>
      rw [mget_mwrites_out (mset_wf h a x) _ _ _ (by omega), mget_mset h]
      simp
    | succ j =>
      have hj : j < r.length := by simpa using hi
      have := ih (mset_wf h a x) (a + 1) j hj
      rw [show a + (j + 1) = a + 1 + j by omega, this]
      simp

end Sys2Proof.Machine
end

