-- ==== Sys2Proof/Laws/State.lean ====
section
/-! SUPPORT. State.lean: each shared update changes one field of the state and no other. -/

namespace Sys2Proof.Machine

@[simp] theorem modCh_pending (s : State) (n : Nat) (f : Chan → Chan) : (modCh s n f).pending = s.pending := rfl
@[simp] theorem modCh_free (s : State) (n : Nat) (f : Chan → Chan) : (modCh s n f).free = s.free := rfl
@[simp] theorem modCh_pins (s : State) (n : Nat) (f : Chan → Chan) : (modCh s n f).pins = s.pins := rfl
@[simp] theorem modCh_fuses (s : State) (n : Nat) (f : Chan → Chan) : (modCh s n f).fuses = s.fuses := rfl
@[simp] theorem modCh_clk (s : State) (n : Nat) (f : Chan → Chan) : (modCh s n f).clk = s.clk := rfl
@[simp] theorem modCh_boot (s : State) (n : Nat) (f : Chan → Chan) : (modCh s n f).boot = s.boot := rfl
@[simp] theorem modCh_cfg (s : State) (n : Nat) (f : Chan → Chan) : (modCh s n f).cfg = s.cfg := rfl
@[simp] theorem modCh_pb (s : State) (n : Nat) (f : Chan → Chan) : (modCh s n f).pb = s.pb := rfl
@[simp] theorem modCh_pbPoison (s : State) (n : Nat) (f : Chan → Chan) : (modCh s n f).pbPoison = s.pbPoison := rfl
@[simp] theorem modCh_wt (s : State) (n : Nat) (f : Chan → Chan) : (modCh s n f).wt = s.wt := rfl
@[simp] theorem modCh_snaps (s : State) (n : Nat) (f : Chan → Chan) : (modCh s n f).snaps = s.snaps := rfl
@[simp] theorem modCh_shadow (s : State) (n : Nat) (f : Chan → Chan) : (modCh s n f).shadow = s.shadow := rfl
@[simp] theorem modCh_held (s : State) (n : Nat) (f : Chan → Chan) : (modCh s n f).held = s.held := rfl
@[simp] theorem modCh_irq (s : State) (n : Nat) (f : Chan → Chan) : (modCh s n f).irq = s.irq := rfl
@[simp] theorem modCh_pwr (s : State) (n : Nat) (f : Chan → Chan) : (modCh s n f).pwr = s.pwr := rfl
@[simp] theorem modCh_ctxs (s : State) (n : Nat) (f : Chan → Chan) : (modCh s n f).ctxs = s.ctxs := rfl
@[simp] theorem modCh_ctxCmd (s : State) (n : Nat) (f : Chan → Chan) : (modCh s n f).ctxCmd = s.ctxCmd := rfl
@[simp] theorem modCh_objs (s : State) (n : Nat) (f : Chan → Chan) : (modCh s n f).objs = s.objs := rfl
@[simp] theorem modCh_allocGen (s : State) (n : Nat) (f : Chan → Chan) : (modCh s n f).allocGen = s.allocGen := rfl
@[simp] theorem modCh_fences (s : State) (n : Nat) (f : Chan → Chan) : (modCh s n f).fences = s.fences := rfl
@[simp] theorem modCh_queues (s : State) (n : Nat) (f : Chan → Chan) : (modCh s n f).queues = s.queues := rfl
@[simp] theorem modCh_feCmd (s : State) (n : Nat) (f : Chan → Chan) : (modCh s n f).feCmd = s.feCmd := rfl
@[simp] theorem modCh_slots (s : State) (n : Nat) (f : Chan → Chan) : (modCh s n f).slots = s.slots := rfl
@[simp] theorem modCh_orders (s : State) (n : Nat) (f : Chan → Chan) : (modCh s n f).orders = s.orders := rfl
@[simp] theorem modCh_rr (s : State) (n : Nat) (f : Chan → Chan) : (modCh s n f).rr = s.rr := rfl
@[simp] theorem modCh_cmds (s : State) (n : Nat) (f : Chan → Chan) : (modCh s n f).cmds = s.cmds := rfl
@[simp] theorem modCh_graphs (s : State) (n : Nat) (f : Chan → Chan) : (modCh s n f).graphs = s.graphs := rfl
@[simp] theorem modCh_insts (s : State) (n : Nat) (f : Chan → Chan) : (modCh s n f).insts = s.insts := rfl
@[simp] theorem modCh_wgs (s : State) (n : Nat) (f : Chan → Chan) : (modCh s n f).wgs = s.wgs := rfl
@[simp] theorem modCh_mons (s : State) (n : Nat) (f : Chan → Chan) : (modCh s n f).mons = s.mons := rfl
@[simp] theorem modCh_gmCmd (s : State) (n : Nat) (f : Chan → Chan) : (modCh s n f).gmCmd = s.gmCmd := rfl
@[simp] theorem modCh_seqs (s : State) (n : Nat) (f : Chan → Chan) : (modCh s n f).seqs = s.seqs := rfl
@[simp] theorem modCh_sqCmd (s : State) (n : Nat) (f : Chan → Chan) : (modCh s n f).sqCmd = s.sqCmd := rfl
@[simp] theorem modCh_groups (s : State) (n : Nat) (f : Chan → Chan) : (modCh s n f).groups = s.groups := rfl
@[simp] theorem modCh_cores (s : State) (n : Nat) (f : Chan → Chan) : (modCh s n f).cores = s.cores := rfl
@[simp] theorem modCh_fly (s : State) (n : Nat) (f : Chan → Chan) : (modCh s n f).fly = s.fly := rfl
@[simp] theorem modCh_hub (s : State) (n : Nat) (f : Chan → Chan) : (modCh s n f).hub = s.hub := rfl
@[simp] theorem modCh_luCmd (s : State) (n : Nat) (f : Chan → Chan) : (modCh s n f).luCmd = s.luCmd := rfl
@[simp] theorem modCh_mem (s : State) (n : Nat) (f : Chan → Chan) : (modCh s n f).mem = s.mem := rfl
@[simp] theorem modCh_passes (s : State) (n : Nat) (f : Chan → Chan) : (modCh s n f).passes = s.passes := rfl
@[simp] theorem modCh_binCmd (s : State) (n : Nat) (f : Chan → Chan) : (modCh s n f).binCmd = s.binCmd := rfl
@[simp] theorem modCh_binReq (s : State) (n : Nat) (f : Chan → Chan) : (modCh s n f).binReq = s.binReq := rfl
@[simp] theorem modCh_pipes (s : State) (n : Nat) (f : Chan → Chan) : (modCh s n f).pipes = s.pipes := rfl
@[simp] theorem modCh_caps (s : State) (n : Nat) (f : Chan → Chan) : (modCh s n f).caps = s.caps := rfl
@[simp] theorem modCh_aud (s : State) (n : Nat) (f : Chan → Chan) : (modCh s n f).aud = s.aud := rfl
@[simp] theorem modCh_cmps (s : State) (n : Nat) (f : Chan → Chan) : (modCh s n f).cmps = s.cmps := rfl
@[simp] theorem modCh_cmpWait (s : State) (n : Nat) (f : Chan → Chan) : (modCh s n f).cmpWait = s.cmpWait := rfl
@[simp] theorem modCh_sec (s : State) (n : Nat) (f : Chan → Chan) : (modCh s n f).sec = s.sec := rfl
@[simp] theorem modCh_links (s : State) (n : Nat) (f : Chan → Chan) : (modCh s n f).links = s.links := rfl
@[simp] theorem modCh_ring (s : State) (n : Nat) (f : Chan → Chan) : (modCh s n f).ring = s.ring := rfl
@[simp] theorem modCh_olCmd (s : State) (n : Nat) (f : Chan → Chan) : (modCh s n f).olCmd = s.olCmd := rfl
@[simp] theorem modCh_grants (s : State) (n : Nat) (f : Chan → Chan) : (modCh s n f).grants = s.grants := rfl
@[simp] theorem modCh_fw (s : State) (n : Nat) (f : Chan → Chan) : (modCh s n f).fw = s.fw := rfl
@[simp] theorem modCh_log (s : State) (n : Nat) (f : Chan → Chan) : (modCh s n f).log = s.log := rfl

@[simp] theorem modCtx_pending (s : State) (n : Nat) (f : Ctx → Ctx) : (modCtx s n f).pending = s.pending := rfl
@[simp] theorem modCtx_free (s : State) (n : Nat) (f : Ctx → Ctx) : (modCtx s n f).free = s.free := rfl
@[simp] theorem modCtx_pins (s : State) (n : Nat) (f : Ctx → Ctx) : (modCtx s n f).pins = s.pins := rfl
@[simp] theorem modCtx_fuses (s : State) (n : Nat) (f : Ctx → Ctx) : (modCtx s n f).fuses = s.fuses := rfl
@[simp] theorem modCtx_clk (s : State) (n : Nat) (f : Ctx → Ctx) : (modCtx s n f).clk = s.clk := rfl
@[simp] theorem modCtx_boot (s : State) (n : Nat) (f : Ctx → Ctx) : (modCtx s n f).boot = s.boot := rfl
@[simp] theorem modCtx_cfg (s : State) (n : Nat) (f : Ctx → Ctx) : (modCtx s n f).cfg = s.cfg := rfl
@[simp] theorem modCtx_hp (s : State) (n : Nat) (f : Ctx → Ctx) : (modCtx s n f).hp = s.hp := rfl
@[simp] theorem modCtx_pb (s : State) (n : Nat) (f : Ctx → Ctx) : (modCtx s n f).pb = s.pb := rfl
@[simp] theorem modCtx_pbPoison (s : State) (n : Nat) (f : Ctx → Ctx) : (modCtx s n f).pbPoison = s.pbPoison := rfl
@[simp] theorem modCtx_wt (s : State) (n : Nat) (f : Ctx → Ctx) : (modCtx s n f).wt = s.wt := rfl
@[simp] theorem modCtx_snaps (s : State) (n : Nat) (f : Ctx → Ctx) : (modCtx s n f).snaps = s.snaps := rfl
@[simp] theorem modCtx_shadow (s : State) (n : Nat) (f : Ctx → Ctx) : (modCtx s n f).shadow = s.shadow := rfl
@[simp] theorem modCtx_held (s : State) (n : Nat) (f : Ctx → Ctx) : (modCtx s n f).held = s.held := rfl
@[simp] theorem modCtx_irq (s : State) (n : Nat) (f : Ctx → Ctx) : (modCtx s n f).irq = s.irq := rfl
@[simp] theorem modCtx_pwr (s : State) (n : Nat) (f : Ctx → Ctx) : (modCtx s n f).pwr = s.pwr := rfl
@[simp] theorem modCtx_ctxCmd (s : State) (n : Nat) (f : Ctx → Ctx) : (modCtx s n f).ctxCmd = s.ctxCmd := rfl
@[simp] theorem modCtx_objs (s : State) (n : Nat) (f : Ctx → Ctx) : (modCtx s n f).objs = s.objs := rfl
@[simp] theorem modCtx_allocGen (s : State) (n : Nat) (f : Ctx → Ctx) : (modCtx s n f).allocGen = s.allocGen := rfl
@[simp] theorem modCtx_fences (s : State) (n : Nat) (f : Ctx → Ctx) : (modCtx s n f).fences = s.fences := rfl
@[simp] theorem modCtx_queues (s : State) (n : Nat) (f : Ctx → Ctx) : (modCtx s n f).queues = s.queues := rfl
@[simp] theorem modCtx_feCmd (s : State) (n : Nat) (f : Ctx → Ctx) : (modCtx s n f).feCmd = s.feCmd := rfl
@[simp] theorem modCtx_slots (s : State) (n : Nat) (f : Ctx → Ctx) : (modCtx s n f).slots = s.slots := rfl
@[simp] theorem modCtx_orders (s : State) (n : Nat) (f : Ctx → Ctx) : (modCtx s n f).orders = s.orders := rfl
@[simp] theorem modCtx_rr (s : State) (n : Nat) (f : Ctx → Ctx) : (modCtx s n f).rr = s.rr := rfl
@[simp] theorem modCtx_cmds (s : State) (n : Nat) (f : Ctx → Ctx) : (modCtx s n f).cmds = s.cmds := rfl
@[simp] theorem modCtx_graphs (s : State) (n : Nat) (f : Ctx → Ctx) : (modCtx s n f).graphs = s.graphs := rfl
@[simp] theorem modCtx_insts (s : State) (n : Nat) (f : Ctx → Ctx) : (modCtx s n f).insts = s.insts := rfl
@[simp] theorem modCtx_wgs (s : State) (n : Nat) (f : Ctx → Ctx) : (modCtx s n f).wgs = s.wgs := rfl
@[simp] theorem modCtx_mons (s : State) (n : Nat) (f : Ctx → Ctx) : (modCtx s n f).mons = s.mons := rfl
@[simp] theorem modCtx_gmCmd (s : State) (n : Nat) (f : Ctx → Ctx) : (modCtx s n f).gmCmd = s.gmCmd := rfl
@[simp] theorem modCtx_seqs (s : State) (n : Nat) (f : Ctx → Ctx) : (modCtx s n f).seqs = s.seqs := rfl
@[simp] theorem modCtx_sqCmd (s : State) (n : Nat) (f : Ctx → Ctx) : (modCtx s n f).sqCmd = s.sqCmd := rfl
@[simp] theorem modCtx_groups (s : State) (n : Nat) (f : Ctx → Ctx) : (modCtx s n f).groups = s.groups := rfl
@[simp] theorem modCtx_cores (s : State) (n : Nat) (f : Ctx → Ctx) : (modCtx s n f).cores = s.cores := rfl
@[simp] theorem modCtx_fly (s : State) (n : Nat) (f : Ctx → Ctx) : (modCtx s n f).fly = s.fly := rfl
@[simp] theorem modCtx_hub (s : State) (n : Nat) (f : Ctx → Ctx) : (modCtx s n f).hub = s.hub := rfl
@[simp] theorem modCtx_luCmd (s : State) (n : Nat) (f : Ctx → Ctx) : (modCtx s n f).luCmd = s.luCmd := rfl
@[simp] theorem modCtx_mem (s : State) (n : Nat) (f : Ctx → Ctx) : (modCtx s n f).mem = s.mem := rfl
@[simp] theorem modCtx_passes (s : State) (n : Nat) (f : Ctx → Ctx) : (modCtx s n f).passes = s.passes := rfl
@[simp] theorem modCtx_binCmd (s : State) (n : Nat) (f : Ctx → Ctx) : (modCtx s n f).binCmd = s.binCmd := rfl
@[simp] theorem modCtx_binReq (s : State) (n : Nat) (f : Ctx → Ctx) : (modCtx s n f).binReq = s.binReq := rfl
@[simp] theorem modCtx_pipes (s : State) (n : Nat) (f : Ctx → Ctx) : (modCtx s n f).pipes = s.pipes := rfl
@[simp] theorem modCtx_caps (s : State) (n : Nat) (f : Ctx → Ctx) : (modCtx s n f).caps = s.caps := rfl
@[simp] theorem modCtx_aud (s : State) (n : Nat) (f : Ctx → Ctx) : (modCtx s n f).aud = s.aud := rfl
@[simp] theorem modCtx_cmps (s : State) (n : Nat) (f : Ctx → Ctx) : (modCtx s n f).cmps = s.cmps := rfl
@[simp] theorem modCtx_cmpWait (s : State) (n : Nat) (f : Ctx → Ctx) : (modCtx s n f).cmpWait = s.cmpWait := rfl
@[simp] theorem modCtx_sec (s : State) (n : Nat) (f : Ctx → Ctx) : (modCtx s n f).sec = s.sec := rfl
@[simp] theorem modCtx_links (s : State) (n : Nat) (f : Ctx → Ctx) : (modCtx s n f).links = s.links := rfl
@[simp] theorem modCtx_ring (s : State) (n : Nat) (f : Ctx → Ctx) : (modCtx s n f).ring = s.ring := rfl
@[simp] theorem modCtx_olCmd (s : State) (n : Nat) (f : Ctx → Ctx) : (modCtx s n f).olCmd = s.olCmd := rfl
@[simp] theorem modCtx_grants (s : State) (n : Nat) (f : Ctx → Ctx) : (modCtx s n f).grants = s.grants := rfl
@[simp] theorem modCtx_fw (s : State) (n : Nat) (f : Ctx → Ctx) : (modCtx s n f).fw = s.fw := rfl
@[simp] theorem modCtx_log (s : State) (n : Nat) (f : Ctx → Ctx) : (modCtx s n f).log = s.log := rfl

@[simp] theorem modFence_pending (s : State) (n : Nat) (f : Fence → Fence) : (modFence s n f).pending = s.pending := rfl
@[simp] theorem modFence_free (s : State) (n : Nat) (f : Fence → Fence) : (modFence s n f).free = s.free := rfl
@[simp] theorem modFence_pins (s : State) (n : Nat) (f : Fence → Fence) : (modFence s n f).pins = s.pins := rfl
@[simp] theorem modFence_fuses (s : State) (n : Nat) (f : Fence → Fence) : (modFence s n f).fuses = s.fuses := rfl
@[simp] theorem modFence_clk (s : State) (n : Nat) (f : Fence → Fence) : (modFence s n f).clk = s.clk := rfl
@[simp] theorem modFence_boot (s : State) (n : Nat) (f : Fence → Fence) : (modFence s n f).boot = s.boot := rfl
@[simp] theorem modFence_cfg (s : State) (n : Nat) (f : Fence → Fence) : (modFence s n f).cfg = s.cfg := rfl
@[simp] theorem modFence_hp (s : State) (n : Nat) (f : Fence → Fence) : (modFence s n f).hp = s.hp := rfl
@[simp] theorem modFence_pb (s : State) (n : Nat) (f : Fence → Fence) : (modFence s n f).pb = s.pb := rfl
@[simp] theorem modFence_pbPoison (s : State) (n : Nat) (f : Fence → Fence) : (modFence s n f).pbPoison = s.pbPoison := rfl
@[simp] theorem modFence_wt (s : State) (n : Nat) (f : Fence → Fence) : (modFence s n f).wt = s.wt := rfl
@[simp] theorem modFence_snaps (s : State) (n : Nat) (f : Fence → Fence) : (modFence s n f).snaps = s.snaps := rfl
@[simp] theorem modFence_shadow (s : State) (n : Nat) (f : Fence → Fence) : (modFence s n f).shadow = s.shadow := rfl
@[simp] theorem modFence_held (s : State) (n : Nat) (f : Fence → Fence) : (modFence s n f).held = s.held := rfl
@[simp] theorem modFence_irq (s : State) (n : Nat) (f : Fence → Fence) : (modFence s n f).irq = s.irq := rfl
@[simp] theorem modFence_pwr (s : State) (n : Nat) (f : Fence → Fence) : (modFence s n f).pwr = s.pwr := rfl
@[simp] theorem modFence_ctxs (s : State) (n : Nat) (f : Fence → Fence) : (modFence s n f).ctxs = s.ctxs := rfl
@[simp] theorem modFence_ctxCmd (s : State) (n : Nat) (f : Fence → Fence) : (modFence s n f).ctxCmd = s.ctxCmd := rfl
@[simp] theorem modFence_objs (s : State) (n : Nat) (f : Fence → Fence) : (modFence s n f).objs = s.objs := rfl
@[simp] theorem modFence_allocGen (s : State) (n : Nat) (f : Fence → Fence) : (modFence s n f).allocGen = s.allocGen := rfl
@[simp] theorem modFence_queues (s : State) (n : Nat) (f : Fence → Fence) : (modFence s n f).queues = s.queues := rfl
@[simp] theorem modFence_feCmd (s : State) (n : Nat) (f : Fence → Fence) : (modFence s n f).feCmd = s.feCmd := rfl
@[simp] theorem modFence_slots (s : State) (n : Nat) (f : Fence → Fence) : (modFence s n f).slots = s.slots := rfl
@[simp] theorem modFence_orders (s : State) (n : Nat) (f : Fence → Fence) : (modFence s n f).orders = s.orders := rfl
@[simp] theorem modFence_rr (s : State) (n : Nat) (f : Fence → Fence) : (modFence s n f).rr = s.rr := rfl
@[simp] theorem modFence_cmds (s : State) (n : Nat) (f : Fence → Fence) : (modFence s n f).cmds = s.cmds := rfl
@[simp] theorem modFence_graphs (s : State) (n : Nat) (f : Fence → Fence) : (modFence s n f).graphs = s.graphs := rfl
@[simp] theorem modFence_insts (s : State) (n : Nat) (f : Fence → Fence) : (modFence s n f).insts = s.insts := rfl
@[simp] theorem modFence_wgs (s : State) (n : Nat) (f : Fence → Fence) : (modFence s n f).wgs = s.wgs := rfl
@[simp] theorem modFence_mons (s : State) (n : Nat) (f : Fence → Fence) : (modFence s n f).mons = s.mons := rfl
@[simp] theorem modFence_gmCmd (s : State) (n : Nat) (f : Fence → Fence) : (modFence s n f).gmCmd = s.gmCmd := rfl
@[simp] theorem modFence_seqs (s : State) (n : Nat) (f : Fence → Fence) : (modFence s n f).seqs = s.seqs := rfl
@[simp] theorem modFence_sqCmd (s : State) (n : Nat) (f : Fence → Fence) : (modFence s n f).sqCmd = s.sqCmd := rfl
@[simp] theorem modFence_groups (s : State) (n : Nat) (f : Fence → Fence) : (modFence s n f).groups = s.groups := rfl
@[simp] theorem modFence_cores (s : State) (n : Nat) (f : Fence → Fence) : (modFence s n f).cores = s.cores := rfl
@[simp] theorem modFence_fly (s : State) (n : Nat) (f : Fence → Fence) : (modFence s n f).fly = s.fly := rfl
@[simp] theorem modFence_hub (s : State) (n : Nat) (f : Fence → Fence) : (modFence s n f).hub = s.hub := rfl
@[simp] theorem modFence_luCmd (s : State) (n : Nat) (f : Fence → Fence) : (modFence s n f).luCmd = s.luCmd := rfl
@[simp] theorem modFence_mem (s : State) (n : Nat) (f : Fence → Fence) : (modFence s n f).mem = s.mem := rfl
@[simp] theorem modFence_passes (s : State) (n : Nat) (f : Fence → Fence) : (modFence s n f).passes = s.passes := rfl
@[simp] theorem modFence_binCmd (s : State) (n : Nat) (f : Fence → Fence) : (modFence s n f).binCmd = s.binCmd := rfl
@[simp] theorem modFence_binReq (s : State) (n : Nat) (f : Fence → Fence) : (modFence s n f).binReq = s.binReq := rfl
@[simp] theorem modFence_pipes (s : State) (n : Nat) (f : Fence → Fence) : (modFence s n f).pipes = s.pipes := rfl
@[simp] theorem modFence_caps (s : State) (n : Nat) (f : Fence → Fence) : (modFence s n f).caps = s.caps := rfl
@[simp] theorem modFence_aud (s : State) (n : Nat) (f : Fence → Fence) : (modFence s n f).aud = s.aud := rfl
@[simp] theorem modFence_cmps (s : State) (n : Nat) (f : Fence → Fence) : (modFence s n f).cmps = s.cmps := rfl
@[simp] theorem modFence_cmpWait (s : State) (n : Nat) (f : Fence → Fence) : (modFence s n f).cmpWait = s.cmpWait := rfl
@[simp] theorem modFence_sec (s : State) (n : Nat) (f : Fence → Fence) : (modFence s n f).sec = s.sec := rfl
@[simp] theorem modFence_links (s : State) (n : Nat) (f : Fence → Fence) : (modFence s n f).links = s.links := rfl
@[simp] theorem modFence_ring (s : State) (n : Nat) (f : Fence → Fence) : (modFence s n f).ring = s.ring := rfl
@[simp] theorem modFence_olCmd (s : State) (n : Nat) (f : Fence → Fence) : (modFence s n f).olCmd = s.olCmd := rfl
@[simp] theorem modFence_grants (s : State) (n : Nat) (f : Fence → Fence) : (modFence s n f).grants = s.grants := rfl
@[simp] theorem modFence_fw (s : State) (n : Nat) (f : Fence → Fence) : (modFence s n f).fw = s.fw := rfl
@[simp] theorem modFence_log (s : State) (n : Nat) (f : Fence → Fence) : (modFence s n f).log = s.log := rfl

@[simp] theorem modObj_pending (s : State) (n : Nat) (f : Obj → Obj) : (modObj s n f).pending = s.pending := rfl
@[simp] theorem modObj_free (s : State) (n : Nat) (f : Obj → Obj) : (modObj s n f).free = s.free := rfl
@[simp] theorem modObj_pins (s : State) (n : Nat) (f : Obj → Obj) : (modObj s n f).pins = s.pins := rfl
@[simp] theorem modObj_fuses (s : State) (n : Nat) (f : Obj → Obj) : (modObj s n f).fuses = s.fuses := rfl
@[simp] theorem modObj_clk (s : State) (n : Nat) (f : Obj → Obj) : (modObj s n f).clk = s.clk := rfl
@[simp] theorem modObj_boot (s : State) (n : Nat) (f : Obj → Obj) : (modObj s n f).boot = s.boot := rfl
@[simp] theorem modObj_cfg (s : State) (n : Nat) (f : Obj → Obj) : (modObj s n f).cfg = s.cfg := rfl
@[simp] theorem modObj_hp (s : State) (n : Nat) (f : Obj → Obj) : (modObj s n f).hp = s.hp := rfl
@[simp] theorem modObj_pb (s : State) (n : Nat) (f : Obj → Obj) : (modObj s n f).pb = s.pb := rfl
@[simp] theorem modObj_pbPoison (s : State) (n : Nat) (f : Obj → Obj) : (modObj s n f).pbPoison = s.pbPoison := rfl
@[simp] theorem modObj_wt (s : State) (n : Nat) (f : Obj → Obj) : (modObj s n f).wt = s.wt := rfl
@[simp] theorem modObj_snaps (s : State) (n : Nat) (f : Obj → Obj) : (modObj s n f).snaps = s.snaps := rfl
@[simp] theorem modObj_shadow (s : State) (n : Nat) (f : Obj → Obj) : (modObj s n f).shadow = s.shadow := rfl
@[simp] theorem modObj_held (s : State) (n : Nat) (f : Obj → Obj) : (modObj s n f).held = s.held := rfl
@[simp] theorem modObj_irq (s : State) (n : Nat) (f : Obj → Obj) : (modObj s n f).irq = s.irq := rfl
@[simp] theorem modObj_pwr (s : State) (n : Nat) (f : Obj → Obj) : (modObj s n f).pwr = s.pwr := rfl
@[simp] theorem modObj_ctxs (s : State) (n : Nat) (f : Obj → Obj) : (modObj s n f).ctxs = s.ctxs := rfl
@[simp] theorem modObj_ctxCmd (s : State) (n : Nat) (f : Obj → Obj) : (modObj s n f).ctxCmd = s.ctxCmd := rfl
@[simp] theorem modObj_allocGen (s : State) (n : Nat) (f : Obj → Obj) : (modObj s n f).allocGen = s.allocGen := rfl
@[simp] theorem modObj_fences (s : State) (n : Nat) (f : Obj → Obj) : (modObj s n f).fences = s.fences := rfl
@[simp] theorem modObj_queues (s : State) (n : Nat) (f : Obj → Obj) : (modObj s n f).queues = s.queues := rfl
@[simp] theorem modObj_feCmd (s : State) (n : Nat) (f : Obj → Obj) : (modObj s n f).feCmd = s.feCmd := rfl
@[simp] theorem modObj_slots (s : State) (n : Nat) (f : Obj → Obj) : (modObj s n f).slots = s.slots := rfl
@[simp] theorem modObj_orders (s : State) (n : Nat) (f : Obj → Obj) : (modObj s n f).orders = s.orders := rfl
@[simp] theorem modObj_rr (s : State) (n : Nat) (f : Obj → Obj) : (modObj s n f).rr = s.rr := rfl
@[simp] theorem modObj_cmds (s : State) (n : Nat) (f : Obj → Obj) : (modObj s n f).cmds = s.cmds := rfl
@[simp] theorem modObj_graphs (s : State) (n : Nat) (f : Obj → Obj) : (modObj s n f).graphs = s.graphs := rfl
@[simp] theorem modObj_insts (s : State) (n : Nat) (f : Obj → Obj) : (modObj s n f).insts = s.insts := rfl
@[simp] theorem modObj_wgs (s : State) (n : Nat) (f : Obj → Obj) : (modObj s n f).wgs = s.wgs := rfl
@[simp] theorem modObj_mons (s : State) (n : Nat) (f : Obj → Obj) : (modObj s n f).mons = s.mons := rfl
@[simp] theorem modObj_gmCmd (s : State) (n : Nat) (f : Obj → Obj) : (modObj s n f).gmCmd = s.gmCmd := rfl
@[simp] theorem modObj_seqs (s : State) (n : Nat) (f : Obj → Obj) : (modObj s n f).seqs = s.seqs := rfl
@[simp] theorem modObj_sqCmd (s : State) (n : Nat) (f : Obj → Obj) : (modObj s n f).sqCmd = s.sqCmd := rfl
@[simp] theorem modObj_groups (s : State) (n : Nat) (f : Obj → Obj) : (modObj s n f).groups = s.groups := rfl
@[simp] theorem modObj_cores (s : State) (n : Nat) (f : Obj → Obj) : (modObj s n f).cores = s.cores := rfl
@[simp] theorem modObj_fly (s : State) (n : Nat) (f : Obj → Obj) : (modObj s n f).fly = s.fly := rfl
@[simp] theorem modObj_hub (s : State) (n : Nat) (f : Obj → Obj) : (modObj s n f).hub = s.hub := rfl
@[simp] theorem modObj_luCmd (s : State) (n : Nat) (f : Obj → Obj) : (modObj s n f).luCmd = s.luCmd := rfl
@[simp] theorem modObj_mem (s : State) (n : Nat) (f : Obj → Obj) : (modObj s n f).mem = s.mem := rfl
@[simp] theorem modObj_passes (s : State) (n : Nat) (f : Obj → Obj) : (modObj s n f).passes = s.passes := rfl
@[simp] theorem modObj_binCmd (s : State) (n : Nat) (f : Obj → Obj) : (modObj s n f).binCmd = s.binCmd := rfl
@[simp] theorem modObj_binReq (s : State) (n : Nat) (f : Obj → Obj) : (modObj s n f).binReq = s.binReq := rfl
@[simp] theorem modObj_pipes (s : State) (n : Nat) (f : Obj → Obj) : (modObj s n f).pipes = s.pipes := rfl
@[simp] theorem modObj_caps (s : State) (n : Nat) (f : Obj → Obj) : (modObj s n f).caps = s.caps := rfl
@[simp] theorem modObj_aud (s : State) (n : Nat) (f : Obj → Obj) : (modObj s n f).aud = s.aud := rfl
@[simp] theorem modObj_cmps (s : State) (n : Nat) (f : Obj → Obj) : (modObj s n f).cmps = s.cmps := rfl
@[simp] theorem modObj_cmpWait (s : State) (n : Nat) (f : Obj → Obj) : (modObj s n f).cmpWait = s.cmpWait := rfl
@[simp] theorem modObj_sec (s : State) (n : Nat) (f : Obj → Obj) : (modObj s n f).sec = s.sec := rfl
@[simp] theorem modObj_links (s : State) (n : Nat) (f : Obj → Obj) : (modObj s n f).links = s.links := rfl
@[simp] theorem modObj_ring (s : State) (n : Nat) (f : Obj → Obj) : (modObj s n f).ring = s.ring := rfl
@[simp] theorem modObj_olCmd (s : State) (n : Nat) (f : Obj → Obj) : (modObj s n f).olCmd = s.olCmd := rfl
@[simp] theorem modObj_grants (s : State) (n : Nat) (f : Obj → Obj) : (modObj s n f).grants = s.grants := rfl
@[simp] theorem modObj_fw (s : State) (n : Nat) (f : Obj → Obj) : (modObj s n f).fw = s.fw := rfl
@[simp] theorem modObj_log (s : State) (n : Nat) (f : Obj → Obj) : (modObj s n f).log = s.log := rfl

@[simp] theorem modQueue_pending (s : State) (n : Nat) (f : Queue → Queue) : (modQueue s n f).pending = s.pending := rfl
@[simp] theorem modQueue_free (s : State) (n : Nat) (f : Queue → Queue) : (modQueue s n f).free = s.free := rfl
@[simp] theorem modQueue_pins (s : State) (n : Nat) (f : Queue → Queue) : (modQueue s n f).pins = s.pins := rfl
@[simp] theorem modQueue_fuses (s : State) (n : Nat) (f : Queue → Queue) : (modQueue s n f).fuses = s.fuses := rfl
@[simp] theorem modQueue_clk (s : State) (n : Nat) (f : Queue → Queue) : (modQueue s n f).clk = s.clk := rfl
@[simp] theorem modQueue_boot (s : State) (n : Nat) (f : Queue → Queue) : (modQueue s n f).boot = s.boot := rfl
@[simp] theorem modQueue_cfg (s : State) (n : Nat) (f : Queue → Queue) : (modQueue s n f).cfg = s.cfg := rfl
@[simp] theorem modQueue_hp (s : State) (n : Nat) (f : Queue → Queue) : (modQueue s n f).hp = s.hp := rfl
@[simp] theorem modQueue_pb (s : State) (n : Nat) (f : Queue → Queue) : (modQueue s n f).pb = s.pb := rfl
@[simp] theorem modQueue_pbPoison (s : State) (n : Nat) (f : Queue → Queue) : (modQueue s n f).pbPoison = s.pbPoison := rfl
@[simp] theorem modQueue_wt (s : State) (n : Nat) (f : Queue → Queue) : (modQueue s n f).wt = s.wt := rfl
@[simp] theorem modQueue_snaps (s : State) (n : Nat) (f : Queue → Queue) : (modQueue s n f).snaps = s.snaps := rfl
@[simp] theorem modQueue_shadow (s : State) (n : Nat) (f : Queue → Queue) : (modQueue s n f).shadow = s.shadow := rfl
@[simp] theorem modQueue_held (s : State) (n : Nat) (f : Queue → Queue) : (modQueue s n f).held = s.held := rfl
@[simp] theorem modQueue_irq (s : State) (n : Nat) (f : Queue → Queue) : (modQueue s n f).irq = s.irq := rfl
@[simp] theorem modQueue_pwr (s : State) (n : Nat) (f : Queue → Queue) : (modQueue s n f).pwr = s.pwr := rfl
@[simp] theorem modQueue_ctxs (s : State) (n : Nat) (f : Queue → Queue) : (modQueue s n f).ctxs = s.ctxs := rfl
@[simp] theorem modQueue_ctxCmd (s : State) (n : Nat) (f : Queue → Queue) : (modQueue s n f).ctxCmd = s.ctxCmd := rfl
@[simp] theorem modQueue_objs (s : State) (n : Nat) (f : Queue → Queue) : (modQueue s n f).objs = s.objs := rfl
@[simp] theorem modQueue_allocGen (s : State) (n : Nat) (f : Queue → Queue) : (modQueue s n f).allocGen = s.allocGen := rfl
@[simp] theorem modQueue_fences (s : State) (n : Nat) (f : Queue → Queue) : (modQueue s n f).fences = s.fences := rfl
@[simp] theorem modQueue_feCmd (s : State) (n : Nat) (f : Queue → Queue) : (modQueue s n f).feCmd = s.feCmd := rfl
@[simp] theorem modQueue_slots (s : State) (n : Nat) (f : Queue → Queue) : (modQueue s n f).slots = s.slots := rfl
@[simp] theorem modQueue_orders (s : State) (n : Nat) (f : Queue → Queue) : (modQueue s n f).orders = s.orders := rfl
@[simp] theorem modQueue_rr (s : State) (n : Nat) (f : Queue → Queue) : (modQueue s n f).rr = s.rr := rfl
@[simp] theorem modQueue_cmds (s : State) (n : Nat) (f : Queue → Queue) : (modQueue s n f).cmds = s.cmds := rfl
@[simp] theorem modQueue_graphs (s : State) (n : Nat) (f : Queue → Queue) : (modQueue s n f).graphs = s.graphs := rfl
@[simp] theorem modQueue_insts (s : State) (n : Nat) (f : Queue → Queue) : (modQueue s n f).insts = s.insts := rfl
@[simp] theorem modQueue_wgs (s : State) (n : Nat) (f : Queue → Queue) : (modQueue s n f).wgs = s.wgs := rfl
@[simp] theorem modQueue_mons (s : State) (n : Nat) (f : Queue → Queue) : (modQueue s n f).mons = s.mons := rfl
@[simp] theorem modQueue_gmCmd (s : State) (n : Nat) (f : Queue → Queue) : (modQueue s n f).gmCmd = s.gmCmd := rfl
@[simp] theorem modQueue_seqs (s : State) (n : Nat) (f : Queue → Queue) : (modQueue s n f).seqs = s.seqs := rfl
@[simp] theorem modQueue_sqCmd (s : State) (n : Nat) (f : Queue → Queue) : (modQueue s n f).sqCmd = s.sqCmd := rfl
@[simp] theorem modQueue_groups (s : State) (n : Nat) (f : Queue → Queue) : (modQueue s n f).groups = s.groups := rfl
@[simp] theorem modQueue_cores (s : State) (n : Nat) (f : Queue → Queue) : (modQueue s n f).cores = s.cores := rfl
@[simp] theorem modQueue_fly (s : State) (n : Nat) (f : Queue → Queue) : (modQueue s n f).fly = s.fly := rfl
@[simp] theorem modQueue_hub (s : State) (n : Nat) (f : Queue → Queue) : (modQueue s n f).hub = s.hub := rfl
@[simp] theorem modQueue_luCmd (s : State) (n : Nat) (f : Queue → Queue) : (modQueue s n f).luCmd = s.luCmd := rfl
@[simp] theorem modQueue_mem (s : State) (n : Nat) (f : Queue → Queue) : (modQueue s n f).mem = s.mem := rfl
@[simp] theorem modQueue_passes (s : State) (n : Nat) (f : Queue → Queue) : (modQueue s n f).passes = s.passes := rfl
@[simp] theorem modQueue_binCmd (s : State) (n : Nat) (f : Queue → Queue) : (modQueue s n f).binCmd = s.binCmd := rfl
@[simp] theorem modQueue_binReq (s : State) (n : Nat) (f : Queue → Queue) : (modQueue s n f).binReq = s.binReq := rfl
@[simp] theorem modQueue_pipes (s : State) (n : Nat) (f : Queue → Queue) : (modQueue s n f).pipes = s.pipes := rfl
@[simp] theorem modQueue_caps (s : State) (n : Nat) (f : Queue → Queue) : (modQueue s n f).caps = s.caps := rfl
@[simp] theorem modQueue_aud (s : State) (n : Nat) (f : Queue → Queue) : (modQueue s n f).aud = s.aud := rfl
@[simp] theorem modQueue_cmps (s : State) (n : Nat) (f : Queue → Queue) : (modQueue s n f).cmps = s.cmps := rfl
@[simp] theorem modQueue_cmpWait (s : State) (n : Nat) (f : Queue → Queue) : (modQueue s n f).cmpWait = s.cmpWait := rfl
@[simp] theorem modQueue_sec (s : State) (n : Nat) (f : Queue → Queue) : (modQueue s n f).sec = s.sec := rfl
@[simp] theorem modQueue_links (s : State) (n : Nat) (f : Queue → Queue) : (modQueue s n f).links = s.links := rfl
@[simp] theorem modQueue_ring (s : State) (n : Nat) (f : Queue → Queue) : (modQueue s n f).ring = s.ring := rfl
@[simp] theorem modQueue_olCmd (s : State) (n : Nat) (f : Queue → Queue) : (modQueue s n f).olCmd = s.olCmd := rfl
@[simp] theorem modQueue_grants (s : State) (n : Nat) (f : Queue → Queue) : (modQueue s n f).grants = s.grants := rfl
@[simp] theorem modQueue_fw (s : State) (n : Nat) (f : Queue → Queue) : (modQueue s n f).fw = s.fw := rfl
@[simp] theorem modQueue_log (s : State) (n : Nat) (f : Queue → Queue) : (modQueue s n f).log = s.log := rfl

@[simp] theorem modSlot_pending (s : State) (n : Nat) (f : Slot → Slot) : (modSlot s n f).pending = s.pending := rfl
@[simp] theorem modSlot_free (s : State) (n : Nat) (f : Slot → Slot) : (modSlot s n f).free = s.free := rfl
@[simp] theorem modSlot_pins (s : State) (n : Nat) (f : Slot → Slot) : (modSlot s n f).pins = s.pins := rfl
@[simp] theorem modSlot_fuses (s : State) (n : Nat) (f : Slot → Slot) : (modSlot s n f).fuses = s.fuses := rfl
@[simp] theorem modSlot_clk (s : State) (n : Nat) (f : Slot → Slot) : (modSlot s n f).clk = s.clk := rfl
@[simp] theorem modSlot_boot (s : State) (n : Nat) (f : Slot → Slot) : (modSlot s n f).boot = s.boot := rfl
@[simp] theorem modSlot_cfg (s : State) (n : Nat) (f : Slot → Slot) : (modSlot s n f).cfg = s.cfg := rfl
@[simp] theorem modSlot_hp (s : State) (n : Nat) (f : Slot → Slot) : (modSlot s n f).hp = s.hp := rfl
@[simp] theorem modSlot_pb (s : State) (n : Nat) (f : Slot → Slot) : (modSlot s n f).pb = s.pb := rfl
@[simp] theorem modSlot_pbPoison (s : State) (n : Nat) (f : Slot → Slot) : (modSlot s n f).pbPoison = s.pbPoison := rfl
@[simp] theorem modSlot_wt (s : State) (n : Nat) (f : Slot → Slot) : (modSlot s n f).wt = s.wt := rfl
@[simp] theorem modSlot_snaps (s : State) (n : Nat) (f : Slot → Slot) : (modSlot s n f).snaps = s.snaps := rfl
@[simp] theorem modSlot_shadow (s : State) (n : Nat) (f : Slot → Slot) : (modSlot s n f).shadow = s.shadow := rfl
@[simp] theorem modSlot_held (s : State) (n : Nat) (f : Slot → Slot) : (modSlot s n f).held = s.held := rfl
@[simp] theorem modSlot_irq (s : State) (n : Nat) (f : Slot → Slot) : (modSlot s n f).irq = s.irq := rfl
@[simp] theorem modSlot_pwr (s : State) (n : Nat) (f : Slot → Slot) : (modSlot s n f).pwr = s.pwr := rfl
@[simp] theorem modSlot_ctxs (s : State) (n : Nat) (f : Slot → Slot) : (modSlot s n f).ctxs = s.ctxs := rfl
@[simp] theorem modSlot_ctxCmd (s : State) (n : Nat) (f : Slot → Slot) : (modSlot s n f).ctxCmd = s.ctxCmd := rfl
@[simp] theorem modSlot_objs (s : State) (n : Nat) (f : Slot → Slot) : (modSlot s n f).objs = s.objs := rfl
@[simp] theorem modSlot_allocGen (s : State) (n : Nat) (f : Slot → Slot) : (modSlot s n f).allocGen = s.allocGen := rfl
@[simp] theorem modSlot_fences (s : State) (n : Nat) (f : Slot → Slot) : (modSlot s n f).fences = s.fences := rfl
@[simp] theorem modSlot_queues (s : State) (n : Nat) (f : Slot → Slot) : (modSlot s n f).queues = s.queues := rfl
@[simp] theorem modSlot_feCmd (s : State) (n : Nat) (f : Slot → Slot) : (modSlot s n f).feCmd = s.feCmd := rfl
@[simp] theorem modSlot_orders (s : State) (n : Nat) (f : Slot → Slot) : (modSlot s n f).orders = s.orders := rfl
@[simp] theorem modSlot_rr (s : State) (n : Nat) (f : Slot → Slot) : (modSlot s n f).rr = s.rr := rfl
@[simp] theorem modSlot_cmds (s : State) (n : Nat) (f : Slot → Slot) : (modSlot s n f).cmds = s.cmds := rfl
@[simp] theorem modSlot_graphs (s : State) (n : Nat) (f : Slot → Slot) : (modSlot s n f).graphs = s.graphs := rfl
@[simp] theorem modSlot_insts (s : State) (n : Nat) (f : Slot → Slot) : (modSlot s n f).insts = s.insts := rfl
@[simp] theorem modSlot_wgs (s : State) (n : Nat) (f : Slot → Slot) : (modSlot s n f).wgs = s.wgs := rfl
@[simp] theorem modSlot_mons (s : State) (n : Nat) (f : Slot → Slot) : (modSlot s n f).mons = s.mons := rfl
@[simp] theorem modSlot_gmCmd (s : State) (n : Nat) (f : Slot → Slot) : (modSlot s n f).gmCmd = s.gmCmd := rfl
@[simp] theorem modSlot_seqs (s : State) (n : Nat) (f : Slot → Slot) : (modSlot s n f).seqs = s.seqs := rfl
@[simp] theorem modSlot_sqCmd (s : State) (n : Nat) (f : Slot → Slot) : (modSlot s n f).sqCmd = s.sqCmd := rfl
@[simp] theorem modSlot_groups (s : State) (n : Nat) (f : Slot → Slot) : (modSlot s n f).groups = s.groups := rfl
@[simp] theorem modSlot_cores (s : State) (n : Nat) (f : Slot → Slot) : (modSlot s n f).cores = s.cores := rfl
@[simp] theorem modSlot_fly (s : State) (n : Nat) (f : Slot → Slot) : (modSlot s n f).fly = s.fly := rfl
@[simp] theorem modSlot_hub (s : State) (n : Nat) (f : Slot → Slot) : (modSlot s n f).hub = s.hub := rfl
@[simp] theorem modSlot_luCmd (s : State) (n : Nat) (f : Slot → Slot) : (modSlot s n f).luCmd = s.luCmd := rfl
@[simp] theorem modSlot_mem (s : State) (n : Nat) (f : Slot → Slot) : (modSlot s n f).mem = s.mem := rfl
@[simp] theorem modSlot_passes (s : State) (n : Nat) (f : Slot → Slot) : (modSlot s n f).passes = s.passes := rfl
@[simp] theorem modSlot_binCmd (s : State) (n : Nat) (f : Slot → Slot) : (modSlot s n f).binCmd = s.binCmd := rfl
@[simp] theorem modSlot_binReq (s : State) (n : Nat) (f : Slot → Slot) : (modSlot s n f).binReq = s.binReq := rfl
@[simp] theorem modSlot_pipes (s : State) (n : Nat) (f : Slot → Slot) : (modSlot s n f).pipes = s.pipes := rfl
@[simp] theorem modSlot_caps (s : State) (n : Nat) (f : Slot → Slot) : (modSlot s n f).caps = s.caps := rfl
@[simp] theorem modSlot_aud (s : State) (n : Nat) (f : Slot → Slot) : (modSlot s n f).aud = s.aud := rfl
@[simp] theorem modSlot_cmps (s : State) (n : Nat) (f : Slot → Slot) : (modSlot s n f).cmps = s.cmps := rfl
@[simp] theorem modSlot_cmpWait (s : State) (n : Nat) (f : Slot → Slot) : (modSlot s n f).cmpWait = s.cmpWait := rfl
@[simp] theorem modSlot_sec (s : State) (n : Nat) (f : Slot → Slot) : (modSlot s n f).sec = s.sec := rfl
@[simp] theorem modSlot_links (s : State) (n : Nat) (f : Slot → Slot) : (modSlot s n f).links = s.links := rfl
@[simp] theorem modSlot_ring (s : State) (n : Nat) (f : Slot → Slot) : (modSlot s n f).ring = s.ring := rfl
@[simp] theorem modSlot_olCmd (s : State) (n : Nat) (f : Slot → Slot) : (modSlot s n f).olCmd = s.olCmd := rfl
@[simp] theorem modSlot_grants (s : State) (n : Nat) (f : Slot → Slot) : (modSlot s n f).grants = s.grants := rfl
@[simp] theorem modSlot_fw (s : State) (n : Nat) (f : Slot → Slot) : (modSlot s n f).fw = s.fw := rfl
@[simp] theorem modSlot_log (s : State) (n : Nat) (f : Slot → Slot) : (modSlot s n f).log = s.log := rfl

@[simp] theorem modCmd_pending (s : State) (n : Nat) (f : Cmd → Cmd) : (modCmd s n f).pending = s.pending := rfl
@[simp] theorem modCmd_free (s : State) (n : Nat) (f : Cmd → Cmd) : (modCmd s n f).free = s.free := rfl
@[simp] theorem modCmd_pins (s : State) (n : Nat) (f : Cmd → Cmd) : (modCmd s n f).pins = s.pins := rfl
@[simp] theorem modCmd_fuses (s : State) (n : Nat) (f : Cmd → Cmd) : (modCmd s n f).fuses = s.fuses := rfl
@[simp] theorem modCmd_clk (s : State) (n : Nat) (f : Cmd → Cmd) : (modCmd s n f).clk = s.clk := rfl
@[simp] theorem modCmd_boot (s : State) (n : Nat) (f : Cmd → Cmd) : (modCmd s n f).boot = s.boot := rfl
@[simp] theorem modCmd_cfg (s : State) (n : Nat) (f : Cmd → Cmd) : (modCmd s n f).cfg = s.cfg := rfl
@[simp] theorem modCmd_hp (s : State) (n : Nat) (f : Cmd → Cmd) : (modCmd s n f).hp = s.hp := rfl
@[simp] theorem modCmd_pb (s : State) (n : Nat) (f : Cmd → Cmd) : (modCmd s n f).pb = s.pb := rfl
@[simp] theorem modCmd_pbPoison (s : State) (n : Nat) (f : Cmd → Cmd) : (modCmd s n f).pbPoison = s.pbPoison := rfl
@[simp] theorem modCmd_wt (s : State) (n : Nat) (f : Cmd → Cmd) : (modCmd s n f).wt = s.wt := rfl
@[simp] theorem modCmd_snaps (s : State) (n : Nat) (f : Cmd → Cmd) : (modCmd s n f).snaps = s.snaps := rfl
@[simp] theorem modCmd_shadow (s : State) (n : Nat) (f : Cmd → Cmd) : (modCmd s n f).shadow = s.shadow := rfl
@[simp] theorem modCmd_held (s : State) (n : Nat) (f : Cmd → Cmd) : (modCmd s n f).held = s.held := rfl
@[simp] theorem modCmd_irq (s : State) (n : Nat) (f : Cmd → Cmd) : (modCmd s n f).irq = s.irq := rfl
@[simp] theorem modCmd_pwr (s : State) (n : Nat) (f : Cmd → Cmd) : (modCmd s n f).pwr = s.pwr := rfl
@[simp] theorem modCmd_ctxs (s : State) (n : Nat) (f : Cmd → Cmd) : (modCmd s n f).ctxs = s.ctxs := rfl
@[simp] theorem modCmd_ctxCmd (s : State) (n : Nat) (f : Cmd → Cmd) : (modCmd s n f).ctxCmd = s.ctxCmd := rfl
@[simp] theorem modCmd_objs (s : State) (n : Nat) (f : Cmd → Cmd) : (modCmd s n f).objs = s.objs := rfl
@[simp] theorem modCmd_allocGen (s : State) (n : Nat) (f : Cmd → Cmd) : (modCmd s n f).allocGen = s.allocGen := rfl
@[simp] theorem modCmd_fences (s : State) (n : Nat) (f : Cmd → Cmd) : (modCmd s n f).fences = s.fences := rfl
@[simp] theorem modCmd_queues (s : State) (n : Nat) (f : Cmd → Cmd) : (modCmd s n f).queues = s.queues := rfl
@[simp] theorem modCmd_feCmd (s : State) (n : Nat) (f : Cmd → Cmd) : (modCmd s n f).feCmd = s.feCmd := rfl
@[simp] theorem modCmd_slots (s : State) (n : Nat) (f : Cmd → Cmd) : (modCmd s n f).slots = s.slots := rfl
@[simp] theorem modCmd_orders (s : State) (n : Nat) (f : Cmd → Cmd) : (modCmd s n f).orders = s.orders := rfl
@[simp] theorem modCmd_rr (s : State) (n : Nat) (f : Cmd → Cmd) : (modCmd s n f).rr = s.rr := rfl
@[simp] theorem modCmd_graphs (s : State) (n : Nat) (f : Cmd → Cmd) : (modCmd s n f).graphs = s.graphs := rfl
@[simp] theorem modCmd_insts (s : State) (n : Nat) (f : Cmd → Cmd) : (modCmd s n f).insts = s.insts := rfl
@[simp] theorem modCmd_wgs (s : State) (n : Nat) (f : Cmd → Cmd) : (modCmd s n f).wgs = s.wgs := rfl
@[simp] theorem modCmd_mons (s : State) (n : Nat) (f : Cmd → Cmd) : (modCmd s n f).mons = s.mons := rfl
@[simp] theorem modCmd_gmCmd (s : State) (n : Nat) (f : Cmd → Cmd) : (modCmd s n f).gmCmd = s.gmCmd := rfl
@[simp] theorem modCmd_seqs (s : State) (n : Nat) (f : Cmd → Cmd) : (modCmd s n f).seqs = s.seqs := rfl
@[simp] theorem modCmd_sqCmd (s : State) (n : Nat) (f : Cmd → Cmd) : (modCmd s n f).sqCmd = s.sqCmd := rfl
@[simp] theorem modCmd_groups (s : State) (n : Nat) (f : Cmd → Cmd) : (modCmd s n f).groups = s.groups := rfl
@[simp] theorem modCmd_cores (s : State) (n : Nat) (f : Cmd → Cmd) : (modCmd s n f).cores = s.cores := rfl
@[simp] theorem modCmd_fly (s : State) (n : Nat) (f : Cmd → Cmd) : (modCmd s n f).fly = s.fly := rfl
@[simp] theorem modCmd_hub (s : State) (n : Nat) (f : Cmd → Cmd) : (modCmd s n f).hub = s.hub := rfl
@[simp] theorem modCmd_luCmd (s : State) (n : Nat) (f : Cmd → Cmd) : (modCmd s n f).luCmd = s.luCmd := rfl
@[simp] theorem modCmd_mem (s : State) (n : Nat) (f : Cmd → Cmd) : (modCmd s n f).mem = s.mem := rfl
@[simp] theorem modCmd_passes (s : State) (n : Nat) (f : Cmd → Cmd) : (modCmd s n f).passes = s.passes := rfl
@[simp] theorem modCmd_binCmd (s : State) (n : Nat) (f : Cmd → Cmd) : (modCmd s n f).binCmd = s.binCmd := rfl
@[simp] theorem modCmd_binReq (s : State) (n : Nat) (f : Cmd → Cmd) : (modCmd s n f).binReq = s.binReq := rfl
@[simp] theorem modCmd_pipes (s : State) (n : Nat) (f : Cmd → Cmd) : (modCmd s n f).pipes = s.pipes := rfl
@[simp] theorem modCmd_caps (s : State) (n : Nat) (f : Cmd → Cmd) : (modCmd s n f).caps = s.caps := rfl
@[simp] theorem modCmd_aud (s : State) (n : Nat) (f : Cmd → Cmd) : (modCmd s n f).aud = s.aud := rfl
@[simp] theorem modCmd_cmps (s : State) (n : Nat) (f : Cmd → Cmd) : (modCmd s n f).cmps = s.cmps := rfl
@[simp] theorem modCmd_cmpWait (s : State) (n : Nat) (f : Cmd → Cmd) : (modCmd s n f).cmpWait = s.cmpWait := rfl
@[simp] theorem modCmd_sec (s : State) (n : Nat) (f : Cmd → Cmd) : (modCmd s n f).sec = s.sec := rfl
@[simp] theorem modCmd_links (s : State) (n : Nat) (f : Cmd → Cmd) : (modCmd s n f).links = s.links := rfl
@[simp] theorem modCmd_ring (s : State) (n : Nat) (f : Cmd → Cmd) : (modCmd s n f).ring = s.ring := rfl
@[simp] theorem modCmd_olCmd (s : State) (n : Nat) (f : Cmd → Cmd) : (modCmd s n f).olCmd = s.olCmd := rfl
@[simp] theorem modCmd_grants (s : State) (n : Nat) (f : Cmd → Cmd) : (modCmd s n f).grants = s.grants := rfl
@[simp] theorem modCmd_fw (s : State) (n : Nat) (f : Cmd → Cmd) : (modCmd s n f).fw = s.fw := rfl
@[simp] theorem modCmd_log (s : State) (n : Nat) (f : Cmd → Cmd) : (modCmd s n f).log = s.log := rfl

@[simp] theorem modInst_pending (s : State) (n : Nat) (f : Inst → Inst) : (modInst s n f).pending = s.pending := rfl
@[simp] theorem modInst_free (s : State) (n : Nat) (f : Inst → Inst) : (modInst s n f).free = s.free := rfl
@[simp] theorem modInst_pins (s : State) (n : Nat) (f : Inst → Inst) : (modInst s n f).pins = s.pins := rfl
@[simp] theorem modInst_fuses (s : State) (n : Nat) (f : Inst → Inst) : (modInst s n f).fuses = s.fuses := rfl
@[simp] theorem modInst_clk (s : State) (n : Nat) (f : Inst → Inst) : (modInst s n f).clk = s.clk := rfl
@[simp] theorem modInst_boot (s : State) (n : Nat) (f : Inst → Inst) : (modInst s n f).boot = s.boot := rfl
@[simp] theorem modInst_cfg (s : State) (n : Nat) (f : Inst → Inst) : (modInst s n f).cfg = s.cfg := rfl
@[simp] theorem modInst_hp (s : State) (n : Nat) (f : Inst → Inst) : (modInst s n f).hp = s.hp := rfl
@[simp] theorem modInst_pb (s : State) (n : Nat) (f : Inst → Inst) : (modInst s n f).pb = s.pb := rfl
@[simp] theorem modInst_pbPoison (s : State) (n : Nat) (f : Inst → Inst) : (modInst s n f).pbPoison = s.pbPoison := rfl
@[simp] theorem modInst_wt (s : State) (n : Nat) (f : Inst → Inst) : (modInst s n f).wt = s.wt := rfl
@[simp] theorem modInst_snaps (s : State) (n : Nat) (f : Inst → Inst) : (modInst s n f).snaps = s.snaps := rfl
@[simp] theorem modInst_shadow (s : State) (n : Nat) (f : Inst → Inst) : (modInst s n f).shadow = s.shadow := rfl
@[simp] theorem modInst_held (s : State) (n : Nat) (f : Inst → Inst) : (modInst s n f).held = s.held := rfl
@[simp] theorem modInst_irq (s : State) (n : Nat) (f : Inst → Inst) : (modInst s n f).irq = s.irq := rfl
@[simp] theorem modInst_pwr (s : State) (n : Nat) (f : Inst → Inst) : (modInst s n f).pwr = s.pwr := rfl
@[simp] theorem modInst_ctxs (s : State) (n : Nat) (f : Inst → Inst) : (modInst s n f).ctxs = s.ctxs := rfl
@[simp] theorem modInst_ctxCmd (s : State) (n : Nat) (f : Inst → Inst) : (modInst s n f).ctxCmd = s.ctxCmd := rfl
@[simp] theorem modInst_objs (s : State) (n : Nat) (f : Inst → Inst) : (modInst s n f).objs = s.objs := rfl
@[simp] theorem modInst_allocGen (s : State) (n : Nat) (f : Inst → Inst) : (modInst s n f).allocGen = s.allocGen := rfl
@[simp] theorem modInst_fences (s : State) (n : Nat) (f : Inst → Inst) : (modInst s n f).fences = s.fences := rfl
@[simp] theorem modInst_queues (s : State) (n : Nat) (f : Inst → Inst) : (modInst s n f).queues = s.queues := rfl
@[simp] theorem modInst_feCmd (s : State) (n : Nat) (f : Inst → Inst) : (modInst s n f).feCmd = s.feCmd := rfl
@[simp] theorem modInst_slots (s : State) (n : Nat) (f : Inst → Inst) : (modInst s n f).slots = s.slots := rfl
@[simp] theorem modInst_orders (s : State) (n : Nat) (f : Inst → Inst) : (modInst s n f).orders = s.orders := rfl
@[simp] theorem modInst_rr (s : State) (n : Nat) (f : Inst → Inst) : (modInst s n f).rr = s.rr := rfl
@[simp] theorem modInst_cmds (s : State) (n : Nat) (f : Inst → Inst) : (modInst s n f).cmds = s.cmds := rfl
@[simp] theorem modInst_graphs (s : State) (n : Nat) (f : Inst → Inst) : (modInst s n f).graphs = s.graphs := rfl
@[simp] theorem modInst_wgs (s : State) (n : Nat) (f : Inst → Inst) : (modInst s n f).wgs = s.wgs := rfl
@[simp] theorem modInst_mons (s : State) (n : Nat) (f : Inst → Inst) : (modInst s n f).mons = s.mons := rfl
@[simp] theorem modInst_gmCmd (s : State) (n : Nat) (f : Inst → Inst) : (modInst s n f).gmCmd = s.gmCmd := rfl
@[simp] theorem modInst_seqs (s : State) (n : Nat) (f : Inst → Inst) : (modInst s n f).seqs = s.seqs := rfl
@[simp] theorem modInst_sqCmd (s : State) (n : Nat) (f : Inst → Inst) : (modInst s n f).sqCmd = s.sqCmd := rfl
@[simp] theorem modInst_groups (s : State) (n : Nat) (f : Inst → Inst) : (modInst s n f).groups = s.groups := rfl
@[simp] theorem modInst_cores (s : State) (n : Nat) (f : Inst → Inst) : (modInst s n f).cores = s.cores := rfl
@[simp] theorem modInst_fly (s : State) (n : Nat) (f : Inst → Inst) : (modInst s n f).fly = s.fly := rfl
@[simp] theorem modInst_hub (s : State) (n : Nat) (f : Inst → Inst) : (modInst s n f).hub = s.hub := rfl
@[simp] theorem modInst_luCmd (s : State) (n : Nat) (f : Inst → Inst) : (modInst s n f).luCmd = s.luCmd := rfl
@[simp] theorem modInst_mem (s : State) (n : Nat) (f : Inst → Inst) : (modInst s n f).mem = s.mem := rfl
@[simp] theorem modInst_passes (s : State) (n : Nat) (f : Inst → Inst) : (modInst s n f).passes = s.passes := rfl
@[simp] theorem modInst_binCmd (s : State) (n : Nat) (f : Inst → Inst) : (modInst s n f).binCmd = s.binCmd := rfl
@[simp] theorem modInst_binReq (s : State) (n : Nat) (f : Inst → Inst) : (modInst s n f).binReq = s.binReq := rfl
@[simp] theorem modInst_pipes (s : State) (n : Nat) (f : Inst → Inst) : (modInst s n f).pipes = s.pipes := rfl
@[simp] theorem modInst_caps (s : State) (n : Nat) (f : Inst → Inst) : (modInst s n f).caps = s.caps := rfl
@[simp] theorem modInst_aud (s : State) (n : Nat) (f : Inst → Inst) : (modInst s n f).aud = s.aud := rfl
@[simp] theorem modInst_cmps (s : State) (n : Nat) (f : Inst → Inst) : (modInst s n f).cmps = s.cmps := rfl
@[simp] theorem modInst_cmpWait (s : State) (n : Nat) (f : Inst → Inst) : (modInst s n f).cmpWait = s.cmpWait := rfl
@[simp] theorem modInst_sec (s : State) (n : Nat) (f : Inst → Inst) : (modInst s n f).sec = s.sec := rfl
@[simp] theorem modInst_links (s : State) (n : Nat) (f : Inst → Inst) : (modInst s n f).links = s.links := rfl
@[simp] theorem modInst_ring (s : State) (n : Nat) (f : Inst → Inst) : (modInst s n f).ring = s.ring := rfl
@[simp] theorem modInst_olCmd (s : State) (n : Nat) (f : Inst → Inst) : (modInst s n f).olCmd = s.olCmd := rfl
@[simp] theorem modInst_grants (s : State) (n : Nat) (f : Inst → Inst) : (modInst s n f).grants = s.grants := rfl
@[simp] theorem modInst_fw (s : State) (n : Nat) (f : Inst → Inst) : (modInst s n f).fw = s.fw := rfl
@[simp] theorem modInst_log (s : State) (n : Nat) (f : Inst → Inst) : (modInst s n f).log = s.log := rfl

@[simp] theorem modWg_pending (s : State) (n : Nat) (f : Wg → Wg) : (modWg s n f).pending = s.pending := rfl
@[simp] theorem modWg_free (s : State) (n : Nat) (f : Wg → Wg) : (modWg s n f).free = s.free := rfl
@[simp] theorem modWg_pins (s : State) (n : Nat) (f : Wg → Wg) : (modWg s n f).pins = s.pins := rfl
@[simp] theorem modWg_fuses (s : State) (n : Nat) (f : Wg → Wg) : (modWg s n f).fuses = s.fuses := rfl
@[simp] theorem modWg_clk (s : State) (n : Nat) (f : Wg → Wg) : (modWg s n f).clk = s.clk := rfl
@[simp] theorem modWg_boot (s : State) (n : Nat) (f : Wg → Wg) : (modWg s n f).boot = s.boot := rfl
@[simp] theorem modWg_cfg (s : State) (n : Nat) (f : Wg → Wg) : (modWg s n f).cfg = s.cfg := rfl
@[simp] theorem modWg_hp (s : State) (n : Nat) (f : Wg → Wg) : (modWg s n f).hp = s.hp := rfl
@[simp] theorem modWg_pb (s : State) (n : Nat) (f : Wg → Wg) : (modWg s n f).pb = s.pb := rfl
@[simp] theorem modWg_pbPoison (s : State) (n : Nat) (f : Wg → Wg) : (modWg s n f).pbPoison = s.pbPoison := rfl
@[simp] theorem modWg_wt (s : State) (n : Nat) (f : Wg → Wg) : (modWg s n f).wt = s.wt := rfl
@[simp] theorem modWg_snaps (s : State) (n : Nat) (f : Wg → Wg) : (modWg s n f).snaps = s.snaps := rfl
@[simp] theorem modWg_shadow (s : State) (n : Nat) (f : Wg → Wg) : (modWg s n f).shadow = s.shadow := rfl
@[simp] theorem modWg_held (s : State) (n : Nat) (f : Wg → Wg) : (modWg s n f).held = s.held := rfl
@[simp] theorem modWg_irq (s : State) (n : Nat) (f : Wg → Wg) : (modWg s n f).irq = s.irq := rfl
@[simp] theorem modWg_pwr (s : State) (n : Nat) (f : Wg → Wg) : (modWg s n f).pwr = s.pwr := rfl
@[simp] theorem modWg_ctxs (s : State) (n : Nat) (f : Wg → Wg) : (modWg s n f).ctxs = s.ctxs := rfl
@[simp] theorem modWg_ctxCmd (s : State) (n : Nat) (f : Wg → Wg) : (modWg s n f).ctxCmd = s.ctxCmd := rfl
@[simp] theorem modWg_objs (s : State) (n : Nat) (f : Wg → Wg) : (modWg s n f).objs = s.objs := rfl
@[simp] theorem modWg_allocGen (s : State) (n : Nat) (f : Wg → Wg) : (modWg s n f).allocGen = s.allocGen := rfl
@[simp] theorem modWg_fences (s : State) (n : Nat) (f : Wg → Wg) : (modWg s n f).fences = s.fences := rfl
@[simp] theorem modWg_queues (s : State) (n : Nat) (f : Wg → Wg) : (modWg s n f).queues = s.queues := rfl
@[simp] theorem modWg_feCmd (s : State) (n : Nat) (f : Wg → Wg) : (modWg s n f).feCmd = s.feCmd := rfl
@[simp] theorem modWg_slots (s : State) (n : Nat) (f : Wg → Wg) : (modWg s n f).slots = s.slots := rfl
@[simp] theorem modWg_orders (s : State) (n : Nat) (f : Wg → Wg) : (modWg s n f).orders = s.orders := rfl
@[simp] theorem modWg_rr (s : State) (n : Nat) (f : Wg → Wg) : (modWg s n f).rr = s.rr := rfl
@[simp] theorem modWg_cmds (s : State) (n : Nat) (f : Wg → Wg) : (modWg s n f).cmds = s.cmds := rfl
@[simp] theorem modWg_graphs (s : State) (n : Nat) (f : Wg → Wg) : (modWg s n f).graphs = s.graphs := rfl
@[simp] theorem modWg_insts (s : State) (n : Nat) (f : Wg → Wg) : (modWg s n f).insts = s.insts := rfl
@[simp] theorem modWg_mons (s : State) (n : Nat) (f : Wg → Wg) : (modWg s n f).mons = s.mons := rfl
@[simp] theorem modWg_gmCmd (s : State) (n : Nat) (f : Wg → Wg) : (modWg s n f).gmCmd = s.gmCmd := rfl
@[simp] theorem modWg_seqs (s : State) (n : Nat) (f : Wg → Wg) : (modWg s n f).seqs = s.seqs := rfl
@[simp] theorem modWg_sqCmd (s : State) (n : Nat) (f : Wg → Wg) : (modWg s n f).sqCmd = s.sqCmd := rfl
@[simp] theorem modWg_groups (s : State) (n : Nat) (f : Wg → Wg) : (modWg s n f).groups = s.groups := rfl
@[simp] theorem modWg_cores (s : State) (n : Nat) (f : Wg → Wg) : (modWg s n f).cores = s.cores := rfl
@[simp] theorem modWg_fly (s : State) (n : Nat) (f : Wg → Wg) : (modWg s n f).fly = s.fly := rfl
@[simp] theorem modWg_hub (s : State) (n : Nat) (f : Wg → Wg) : (modWg s n f).hub = s.hub := rfl
@[simp] theorem modWg_luCmd (s : State) (n : Nat) (f : Wg → Wg) : (modWg s n f).luCmd = s.luCmd := rfl
@[simp] theorem modWg_mem (s : State) (n : Nat) (f : Wg → Wg) : (modWg s n f).mem = s.mem := rfl
@[simp] theorem modWg_passes (s : State) (n : Nat) (f : Wg → Wg) : (modWg s n f).passes = s.passes := rfl
@[simp] theorem modWg_binCmd (s : State) (n : Nat) (f : Wg → Wg) : (modWg s n f).binCmd = s.binCmd := rfl
@[simp] theorem modWg_binReq (s : State) (n : Nat) (f : Wg → Wg) : (modWg s n f).binReq = s.binReq := rfl
@[simp] theorem modWg_pipes (s : State) (n : Nat) (f : Wg → Wg) : (modWg s n f).pipes = s.pipes := rfl
@[simp] theorem modWg_caps (s : State) (n : Nat) (f : Wg → Wg) : (modWg s n f).caps = s.caps := rfl
@[simp] theorem modWg_aud (s : State) (n : Nat) (f : Wg → Wg) : (modWg s n f).aud = s.aud := rfl
@[simp] theorem modWg_cmps (s : State) (n : Nat) (f : Wg → Wg) : (modWg s n f).cmps = s.cmps := rfl
@[simp] theorem modWg_cmpWait (s : State) (n : Nat) (f : Wg → Wg) : (modWg s n f).cmpWait = s.cmpWait := rfl
@[simp] theorem modWg_sec (s : State) (n : Nat) (f : Wg → Wg) : (modWg s n f).sec = s.sec := rfl
@[simp] theorem modWg_links (s : State) (n : Nat) (f : Wg → Wg) : (modWg s n f).links = s.links := rfl
@[simp] theorem modWg_ring (s : State) (n : Nat) (f : Wg → Wg) : (modWg s n f).ring = s.ring := rfl
@[simp] theorem modWg_olCmd (s : State) (n : Nat) (f : Wg → Wg) : (modWg s n f).olCmd = s.olCmd := rfl
@[simp] theorem modWg_grants (s : State) (n : Nat) (f : Wg → Wg) : (modWg s n f).grants = s.grants := rfl
@[simp] theorem modWg_fw (s : State) (n : Nat) (f : Wg → Wg) : (modWg s n f).fw = s.fw := rfl
@[simp] theorem modWg_log (s : State) (n : Nat) (f : Wg → Wg) : (modWg s n f).log = s.log := rfl

@[simp] theorem modMon_pending (s : State) (n : Nat) (f : Mon → Mon) : (modMon s n f).pending = s.pending := rfl
@[simp] theorem modMon_free (s : State) (n : Nat) (f : Mon → Mon) : (modMon s n f).free = s.free := rfl
@[simp] theorem modMon_pins (s : State) (n : Nat) (f : Mon → Mon) : (modMon s n f).pins = s.pins := rfl
@[simp] theorem modMon_fuses (s : State) (n : Nat) (f : Mon → Mon) : (modMon s n f).fuses = s.fuses := rfl
@[simp] theorem modMon_clk (s : State) (n : Nat) (f : Mon → Mon) : (modMon s n f).clk = s.clk := rfl
@[simp] theorem modMon_boot (s : State) (n : Nat) (f : Mon → Mon) : (modMon s n f).boot = s.boot := rfl
@[simp] theorem modMon_cfg (s : State) (n : Nat) (f : Mon → Mon) : (modMon s n f).cfg = s.cfg := rfl
@[simp] theorem modMon_hp (s : State) (n : Nat) (f : Mon → Mon) : (modMon s n f).hp = s.hp := rfl
@[simp] theorem modMon_pb (s : State) (n : Nat) (f : Mon → Mon) : (modMon s n f).pb = s.pb := rfl
@[simp] theorem modMon_pbPoison (s : State) (n : Nat) (f : Mon → Mon) : (modMon s n f).pbPoison = s.pbPoison := rfl
@[simp] theorem modMon_wt (s : State) (n : Nat) (f : Mon → Mon) : (modMon s n f).wt = s.wt := rfl
@[simp] theorem modMon_snaps (s : State) (n : Nat) (f : Mon → Mon) : (modMon s n f).snaps = s.snaps := rfl
@[simp] theorem modMon_shadow (s : State) (n : Nat) (f : Mon → Mon) : (modMon s n f).shadow = s.shadow := rfl
@[simp] theorem modMon_held (s : State) (n : Nat) (f : Mon → Mon) : (modMon s n f).held = s.held := rfl
@[simp] theorem modMon_irq (s : State) (n : Nat) (f : Mon → Mon) : (modMon s n f).irq = s.irq := rfl
@[simp] theorem modMon_pwr (s : State) (n : Nat) (f : Mon → Mon) : (modMon s n f).pwr = s.pwr := rfl
@[simp] theorem modMon_ctxs (s : State) (n : Nat) (f : Mon → Mon) : (modMon s n f).ctxs = s.ctxs := rfl
@[simp] theorem modMon_ctxCmd (s : State) (n : Nat) (f : Mon → Mon) : (modMon s n f).ctxCmd = s.ctxCmd := rfl
@[simp] theorem modMon_objs (s : State) (n : Nat) (f : Mon → Mon) : (modMon s n f).objs = s.objs := rfl
@[simp] theorem modMon_allocGen (s : State) (n : Nat) (f : Mon → Mon) : (modMon s n f).allocGen = s.allocGen := rfl
@[simp] theorem modMon_fences (s : State) (n : Nat) (f : Mon → Mon) : (modMon s n f).fences = s.fences := rfl
@[simp] theorem modMon_queues (s : State) (n : Nat) (f : Mon → Mon) : (modMon s n f).queues = s.queues := rfl
@[simp] theorem modMon_feCmd (s : State) (n : Nat) (f : Mon → Mon) : (modMon s n f).feCmd = s.feCmd := rfl
@[simp] theorem modMon_slots (s : State) (n : Nat) (f : Mon → Mon) : (modMon s n f).slots = s.slots := rfl
@[simp] theorem modMon_orders (s : State) (n : Nat) (f : Mon → Mon) : (modMon s n f).orders = s.orders := rfl
@[simp] theorem modMon_rr (s : State) (n : Nat) (f : Mon → Mon) : (modMon s n f).rr = s.rr := rfl
@[simp] theorem modMon_cmds (s : State) (n : Nat) (f : Mon → Mon) : (modMon s n f).cmds = s.cmds := rfl
@[simp] theorem modMon_graphs (s : State) (n : Nat) (f : Mon → Mon) : (modMon s n f).graphs = s.graphs := rfl
@[simp] theorem modMon_insts (s : State) (n : Nat) (f : Mon → Mon) : (modMon s n f).insts = s.insts := rfl
@[simp] theorem modMon_wgs (s : State) (n : Nat) (f : Mon → Mon) : (modMon s n f).wgs = s.wgs := rfl
@[simp] theorem modMon_gmCmd (s : State) (n : Nat) (f : Mon → Mon) : (modMon s n f).gmCmd = s.gmCmd := rfl
@[simp] theorem modMon_seqs (s : State) (n : Nat) (f : Mon → Mon) : (modMon s n f).seqs = s.seqs := rfl
@[simp] theorem modMon_sqCmd (s : State) (n : Nat) (f : Mon → Mon) : (modMon s n f).sqCmd = s.sqCmd := rfl
@[simp] theorem modMon_groups (s : State) (n : Nat) (f : Mon → Mon) : (modMon s n f).groups = s.groups := rfl
@[simp] theorem modMon_cores (s : State) (n : Nat) (f : Mon → Mon) : (modMon s n f).cores = s.cores := rfl
@[simp] theorem modMon_fly (s : State) (n : Nat) (f : Mon → Mon) : (modMon s n f).fly = s.fly := rfl
@[simp] theorem modMon_hub (s : State) (n : Nat) (f : Mon → Mon) : (modMon s n f).hub = s.hub := rfl
@[simp] theorem modMon_luCmd (s : State) (n : Nat) (f : Mon → Mon) : (modMon s n f).luCmd = s.luCmd := rfl
@[simp] theorem modMon_mem (s : State) (n : Nat) (f : Mon → Mon) : (modMon s n f).mem = s.mem := rfl
@[simp] theorem modMon_passes (s : State) (n : Nat) (f : Mon → Mon) : (modMon s n f).passes = s.passes := rfl
@[simp] theorem modMon_binCmd (s : State) (n : Nat) (f : Mon → Mon) : (modMon s n f).binCmd = s.binCmd := rfl
@[simp] theorem modMon_binReq (s : State) (n : Nat) (f : Mon → Mon) : (modMon s n f).binReq = s.binReq := rfl
@[simp] theorem modMon_pipes (s : State) (n : Nat) (f : Mon → Mon) : (modMon s n f).pipes = s.pipes := rfl
@[simp] theorem modMon_caps (s : State) (n : Nat) (f : Mon → Mon) : (modMon s n f).caps = s.caps := rfl
@[simp] theorem modMon_aud (s : State) (n : Nat) (f : Mon → Mon) : (modMon s n f).aud = s.aud := rfl
@[simp] theorem modMon_cmps (s : State) (n : Nat) (f : Mon → Mon) : (modMon s n f).cmps = s.cmps := rfl
@[simp] theorem modMon_cmpWait (s : State) (n : Nat) (f : Mon → Mon) : (modMon s n f).cmpWait = s.cmpWait := rfl
@[simp] theorem modMon_sec (s : State) (n : Nat) (f : Mon → Mon) : (modMon s n f).sec = s.sec := rfl
@[simp] theorem modMon_links (s : State) (n : Nat) (f : Mon → Mon) : (modMon s n f).links = s.links := rfl
@[simp] theorem modMon_ring (s : State) (n : Nat) (f : Mon → Mon) : (modMon s n f).ring = s.ring := rfl
@[simp] theorem modMon_olCmd (s : State) (n : Nat) (f : Mon → Mon) : (modMon s n f).olCmd = s.olCmd := rfl
@[simp] theorem modMon_grants (s : State) (n : Nat) (f : Mon → Mon) : (modMon s n f).grants = s.grants := rfl
@[simp] theorem modMon_fw (s : State) (n : Nat) (f : Mon → Mon) : (modMon s n f).fw = s.fw := rfl
@[simp] theorem modMon_log (s : State) (n : Nat) (f : Mon → Mon) : (modMon s n f).log = s.log := rfl

@[simp] theorem modGroup_pending (s : State) (n : Nat) (f : Group → Group) : (modGroup s n f).pending = s.pending := rfl
@[simp] theorem modGroup_free (s : State) (n : Nat) (f : Group → Group) : (modGroup s n f).free = s.free := rfl
@[simp] theorem modGroup_pins (s : State) (n : Nat) (f : Group → Group) : (modGroup s n f).pins = s.pins := rfl
@[simp] theorem modGroup_fuses (s : State) (n : Nat) (f : Group → Group) : (modGroup s n f).fuses = s.fuses := rfl
@[simp] theorem modGroup_clk (s : State) (n : Nat) (f : Group → Group) : (modGroup s n f).clk = s.clk := rfl
@[simp] theorem modGroup_boot (s : State) (n : Nat) (f : Group → Group) : (modGroup s n f).boot = s.boot := rfl
@[simp] theorem modGroup_cfg (s : State) (n : Nat) (f : Group → Group) : (modGroup s n f).cfg = s.cfg := rfl
@[simp] theorem modGroup_hp (s : State) (n : Nat) (f : Group → Group) : (modGroup s n f).hp = s.hp := rfl
@[simp] theorem modGroup_pb (s : State) (n : Nat) (f : Group → Group) : (modGroup s n f).pb = s.pb := rfl
@[simp] theorem modGroup_pbPoison (s : State) (n : Nat) (f : Group → Group) : (modGroup s n f).pbPoison = s.pbPoison := rfl
@[simp] theorem modGroup_wt (s : State) (n : Nat) (f : Group → Group) : (modGroup s n f).wt = s.wt := rfl
@[simp] theorem modGroup_snaps (s : State) (n : Nat) (f : Group → Group) : (modGroup s n f).snaps = s.snaps := rfl
@[simp] theorem modGroup_shadow (s : State) (n : Nat) (f : Group → Group) : (modGroup s n f).shadow = s.shadow := rfl
@[simp] theorem modGroup_held (s : State) (n : Nat) (f : Group → Group) : (modGroup s n f).held = s.held := rfl
@[simp] theorem modGroup_irq (s : State) (n : Nat) (f : Group → Group) : (modGroup s n f).irq = s.irq := rfl
@[simp] theorem modGroup_pwr (s : State) (n : Nat) (f : Group → Group) : (modGroup s n f).pwr = s.pwr := rfl
@[simp] theorem modGroup_ctxs (s : State) (n : Nat) (f : Group → Group) : (modGroup s n f).ctxs = s.ctxs := rfl
@[simp] theorem modGroup_ctxCmd (s : State) (n : Nat) (f : Group → Group) : (modGroup s n f).ctxCmd = s.ctxCmd := rfl
@[simp] theorem modGroup_objs (s : State) (n : Nat) (f : Group → Group) : (modGroup s n f).objs = s.objs := rfl
@[simp] theorem modGroup_allocGen (s : State) (n : Nat) (f : Group → Group) : (modGroup s n f).allocGen = s.allocGen := rfl
@[simp] theorem modGroup_fences (s : State) (n : Nat) (f : Group → Group) : (modGroup s n f).fences = s.fences := rfl
@[simp] theorem modGroup_queues (s : State) (n : Nat) (f : Group → Group) : (modGroup s n f).queues = s.queues := rfl
@[simp] theorem modGroup_feCmd (s : State) (n : Nat) (f : Group → Group) : (modGroup s n f).feCmd = s.feCmd := rfl
@[simp] theorem modGroup_slots (s : State) (n : Nat) (f : Group → Group) : (modGroup s n f).slots = s.slots := rfl
@[simp] theorem modGroup_orders (s : State) (n : Nat) (f : Group → Group) : (modGroup s n f).orders = s.orders := rfl
@[simp] theorem modGroup_rr (s : State) (n : Nat) (f : Group → Group) : (modGroup s n f).rr = s.rr := rfl
@[simp] theorem modGroup_cmds (s : State) (n : Nat) (f : Group → Group) : (modGroup s n f).cmds = s.cmds := rfl
@[simp] theorem modGroup_graphs (s : State) (n : Nat) (f : Group → Group) : (modGroup s n f).graphs = s.graphs := rfl
@[simp] theorem modGroup_insts (s : State) (n : Nat) (f : Group → Group) : (modGroup s n f).insts = s.insts := rfl
@[simp] theorem modGroup_wgs (s : State) (n : Nat) (f : Group → Group) : (modGroup s n f).wgs = s.wgs := rfl
@[simp] theorem modGroup_mons (s : State) (n : Nat) (f : Group → Group) : (modGroup s n f).mons = s.mons := rfl
@[simp] theorem modGroup_gmCmd (s : State) (n : Nat) (f : Group → Group) : (modGroup s n f).gmCmd = s.gmCmd := rfl
@[simp] theorem modGroup_seqs (s : State) (n : Nat) (f : Group → Group) : (modGroup s n f).seqs = s.seqs := rfl
@[simp] theorem modGroup_sqCmd (s : State) (n : Nat) (f : Group → Group) : (modGroup s n f).sqCmd = s.sqCmd := rfl
@[simp] theorem modGroup_cores (s : State) (n : Nat) (f : Group → Group) : (modGroup s n f).cores = s.cores := rfl
@[simp] theorem modGroup_fly (s : State) (n : Nat) (f : Group → Group) : (modGroup s n f).fly = s.fly := rfl
@[simp] theorem modGroup_hub (s : State) (n : Nat) (f : Group → Group) : (modGroup s n f).hub = s.hub := rfl
@[simp] theorem modGroup_luCmd (s : State) (n : Nat) (f : Group → Group) : (modGroup s n f).luCmd = s.luCmd := rfl
@[simp] theorem modGroup_mem (s : State) (n : Nat) (f : Group → Group) : (modGroup s n f).mem = s.mem := rfl
@[simp] theorem modGroup_passes (s : State) (n : Nat) (f : Group → Group) : (modGroup s n f).passes = s.passes := rfl
@[simp] theorem modGroup_binCmd (s : State) (n : Nat) (f : Group → Group) : (modGroup s n f).binCmd = s.binCmd := rfl
@[simp] theorem modGroup_binReq (s : State) (n : Nat) (f : Group → Group) : (modGroup s n f).binReq = s.binReq := rfl
@[simp] theorem modGroup_pipes (s : State) (n : Nat) (f : Group → Group) : (modGroup s n f).pipes = s.pipes := rfl
@[simp] theorem modGroup_caps (s : State) (n : Nat) (f : Group → Group) : (modGroup s n f).caps = s.caps := rfl
@[simp] theorem modGroup_aud (s : State) (n : Nat) (f : Group → Group) : (modGroup s n f).aud = s.aud := rfl
@[simp] theorem modGroup_cmps (s : State) (n : Nat) (f : Group → Group) : (modGroup s n f).cmps = s.cmps := rfl
@[simp] theorem modGroup_cmpWait (s : State) (n : Nat) (f : Group → Group) : (modGroup s n f).cmpWait = s.cmpWait := rfl
@[simp] theorem modGroup_sec (s : State) (n : Nat) (f : Group → Group) : (modGroup s n f).sec = s.sec := rfl
@[simp] theorem modGroup_links (s : State) (n : Nat) (f : Group → Group) : (modGroup s n f).links = s.links := rfl
@[simp] theorem modGroup_ring (s : State) (n : Nat) (f : Group → Group) : (modGroup s n f).ring = s.ring := rfl
@[simp] theorem modGroup_olCmd (s : State) (n : Nat) (f : Group → Group) : (modGroup s n f).olCmd = s.olCmd := rfl
@[simp] theorem modGroup_grants (s : State) (n : Nat) (f : Group → Group) : (modGroup s n f).grants = s.grants := rfl
@[simp] theorem modGroup_fw (s : State) (n : Nat) (f : Group → Group) : (modGroup s n f).fw = s.fw := rfl
@[simp] theorem modGroup_log (s : State) (n : Nat) (f : Group → Group) : (modGroup s n f).log = s.log := rfl

@[simp] theorem modCore_pending (s : State) (n : Nat) (f : Core → Core) : (modCore s n f).pending = s.pending := rfl
@[simp] theorem modCore_free (s : State) (n : Nat) (f : Core → Core) : (modCore s n f).free = s.free := rfl
@[simp] theorem modCore_pins (s : State) (n : Nat) (f : Core → Core) : (modCore s n f).pins = s.pins := rfl
@[simp] theorem modCore_fuses (s : State) (n : Nat) (f : Core → Core) : (modCore s n f).fuses = s.fuses := rfl
@[simp] theorem modCore_clk (s : State) (n : Nat) (f : Core → Core) : (modCore s n f).clk = s.clk := rfl
@[simp] theorem modCore_boot (s : State) (n : Nat) (f : Core → Core) : (modCore s n f).boot = s.boot := rfl
@[simp] theorem modCore_cfg (s : State) (n : Nat) (f : Core → Core) : (modCore s n f).cfg = s.cfg := rfl
@[simp] theorem modCore_hp (s : State) (n : Nat) (f : Core → Core) : (modCore s n f).hp = s.hp := rfl
@[simp] theorem modCore_pb (s : State) (n : Nat) (f : Core → Core) : (modCore s n f).pb = s.pb := rfl
@[simp] theorem modCore_pbPoison (s : State) (n : Nat) (f : Core → Core) : (modCore s n f).pbPoison = s.pbPoison := rfl
@[simp] theorem modCore_wt (s : State) (n : Nat) (f : Core → Core) : (modCore s n f).wt = s.wt := rfl
@[simp] theorem modCore_snaps (s : State) (n : Nat) (f : Core → Core) : (modCore s n f).snaps = s.snaps := rfl
@[simp] theorem modCore_shadow (s : State) (n : Nat) (f : Core → Core) : (modCore s n f).shadow = s.shadow := rfl
@[simp] theorem modCore_held (s : State) (n : Nat) (f : Core → Core) : (modCore s n f).held = s.held := rfl
@[simp] theorem modCore_irq (s : State) (n : Nat) (f : Core → Core) : (modCore s n f).irq = s.irq := rfl
@[simp] theorem modCore_pwr (s : State) (n : Nat) (f : Core → Core) : (modCore s n f).pwr = s.pwr := rfl
@[simp] theorem modCore_ctxs (s : State) (n : Nat) (f : Core → Core) : (modCore s n f).ctxs = s.ctxs := rfl
@[simp] theorem modCore_ctxCmd (s : State) (n : Nat) (f : Core → Core) : (modCore s n f).ctxCmd = s.ctxCmd := rfl
@[simp] theorem modCore_objs (s : State) (n : Nat) (f : Core → Core) : (modCore s n f).objs = s.objs := rfl
@[simp] theorem modCore_allocGen (s : State) (n : Nat) (f : Core → Core) : (modCore s n f).allocGen = s.allocGen := rfl
@[simp] theorem modCore_fences (s : State) (n : Nat) (f : Core → Core) : (modCore s n f).fences = s.fences := rfl
@[simp] theorem modCore_queues (s : State) (n : Nat) (f : Core → Core) : (modCore s n f).queues = s.queues := rfl
@[simp] theorem modCore_feCmd (s : State) (n : Nat) (f : Core → Core) : (modCore s n f).feCmd = s.feCmd := rfl
@[simp] theorem modCore_slots (s : State) (n : Nat) (f : Core → Core) : (modCore s n f).slots = s.slots := rfl
@[simp] theorem modCore_orders (s : State) (n : Nat) (f : Core → Core) : (modCore s n f).orders = s.orders := rfl
@[simp] theorem modCore_rr (s : State) (n : Nat) (f : Core → Core) : (modCore s n f).rr = s.rr := rfl
@[simp] theorem modCore_cmds (s : State) (n : Nat) (f : Core → Core) : (modCore s n f).cmds = s.cmds := rfl
@[simp] theorem modCore_graphs (s : State) (n : Nat) (f : Core → Core) : (modCore s n f).graphs = s.graphs := rfl
@[simp] theorem modCore_insts (s : State) (n : Nat) (f : Core → Core) : (modCore s n f).insts = s.insts := rfl
@[simp] theorem modCore_wgs (s : State) (n : Nat) (f : Core → Core) : (modCore s n f).wgs = s.wgs := rfl
@[simp] theorem modCore_mons (s : State) (n : Nat) (f : Core → Core) : (modCore s n f).mons = s.mons := rfl
@[simp] theorem modCore_gmCmd (s : State) (n : Nat) (f : Core → Core) : (modCore s n f).gmCmd = s.gmCmd := rfl
@[simp] theorem modCore_seqs (s : State) (n : Nat) (f : Core → Core) : (modCore s n f).seqs = s.seqs := rfl
@[simp] theorem modCore_sqCmd (s : State) (n : Nat) (f : Core → Core) : (modCore s n f).sqCmd = s.sqCmd := rfl
@[simp] theorem modCore_groups (s : State) (n : Nat) (f : Core → Core) : (modCore s n f).groups = s.groups := rfl
@[simp] theorem modCore_fly (s : State) (n : Nat) (f : Core → Core) : (modCore s n f).fly = s.fly := rfl
@[simp] theorem modCore_hub (s : State) (n : Nat) (f : Core → Core) : (modCore s n f).hub = s.hub := rfl
@[simp] theorem modCore_luCmd (s : State) (n : Nat) (f : Core → Core) : (modCore s n f).luCmd = s.luCmd := rfl
@[simp] theorem modCore_mem (s : State) (n : Nat) (f : Core → Core) : (modCore s n f).mem = s.mem := rfl
@[simp] theorem modCore_passes (s : State) (n : Nat) (f : Core → Core) : (modCore s n f).passes = s.passes := rfl
@[simp] theorem modCore_binCmd (s : State) (n : Nat) (f : Core → Core) : (modCore s n f).binCmd = s.binCmd := rfl
@[simp] theorem modCore_binReq (s : State) (n : Nat) (f : Core → Core) : (modCore s n f).binReq = s.binReq := rfl
@[simp] theorem modCore_pipes (s : State) (n : Nat) (f : Core → Core) : (modCore s n f).pipes = s.pipes := rfl
@[simp] theorem modCore_caps (s : State) (n : Nat) (f : Core → Core) : (modCore s n f).caps = s.caps := rfl
@[simp] theorem modCore_aud (s : State) (n : Nat) (f : Core → Core) : (modCore s n f).aud = s.aud := rfl
@[simp] theorem modCore_cmps (s : State) (n : Nat) (f : Core → Core) : (modCore s n f).cmps = s.cmps := rfl
@[simp] theorem modCore_cmpWait (s : State) (n : Nat) (f : Core → Core) : (modCore s n f).cmpWait = s.cmpWait := rfl
@[simp] theorem modCore_sec (s : State) (n : Nat) (f : Core → Core) : (modCore s n f).sec = s.sec := rfl
@[simp] theorem modCore_links (s : State) (n : Nat) (f : Core → Core) : (modCore s n f).links = s.links := rfl
@[simp] theorem modCore_ring (s : State) (n : Nat) (f : Core → Core) : (modCore s n f).ring = s.ring := rfl
@[simp] theorem modCore_olCmd (s : State) (n : Nat) (f : Core → Core) : (modCore s n f).olCmd = s.olCmd := rfl
@[simp] theorem modCore_grants (s : State) (n : Nat) (f : Core → Core) : (modCore s n f).grants = s.grants := rfl
@[simp] theorem modCore_fw (s : State) (n : Nat) (f : Core → Core) : (modCore s n f).fw = s.fw := rfl
@[simp] theorem modCore_log (s : State) (n : Nat) (f : Core → Core) : (modCore s n f).log = s.log := rfl

@[simp] theorem modHub_pending (s : State) (n : Nat) (f : Hub → Hub) : (modHub s n f).pending = s.pending := rfl
@[simp] theorem modHub_free (s : State) (n : Nat) (f : Hub → Hub) : (modHub s n f).free = s.free := rfl
@[simp] theorem modHub_pins (s : State) (n : Nat) (f : Hub → Hub) : (modHub s n f).pins = s.pins := rfl
@[simp] theorem modHub_fuses (s : State) (n : Nat) (f : Hub → Hub) : (modHub s n f).fuses = s.fuses := rfl
@[simp] theorem modHub_clk (s : State) (n : Nat) (f : Hub → Hub) : (modHub s n f).clk = s.clk := rfl
@[simp] theorem modHub_boot (s : State) (n : Nat) (f : Hub → Hub) : (modHub s n f).boot = s.boot := rfl
@[simp] theorem modHub_cfg (s : State) (n : Nat) (f : Hub → Hub) : (modHub s n f).cfg = s.cfg := rfl
@[simp] theorem modHub_hp (s : State) (n : Nat) (f : Hub → Hub) : (modHub s n f).hp = s.hp := rfl
@[simp] theorem modHub_pb (s : State) (n : Nat) (f : Hub → Hub) : (modHub s n f).pb = s.pb := rfl
@[simp] theorem modHub_pbPoison (s : State) (n : Nat) (f : Hub → Hub) : (modHub s n f).pbPoison = s.pbPoison := rfl
@[simp] theorem modHub_wt (s : State) (n : Nat) (f : Hub → Hub) : (modHub s n f).wt = s.wt := rfl
@[simp] theorem modHub_snaps (s : State) (n : Nat) (f : Hub → Hub) : (modHub s n f).snaps = s.snaps := rfl
@[simp] theorem modHub_shadow (s : State) (n : Nat) (f : Hub → Hub) : (modHub s n f).shadow = s.shadow := rfl
@[simp] theorem modHub_held (s : State) (n : Nat) (f : Hub → Hub) : (modHub s n f).held = s.held := rfl
@[simp] theorem modHub_irq (s : State) (n : Nat) (f : Hub → Hub) : (modHub s n f).irq = s.irq := rfl
@[simp] theorem modHub_pwr (s : State) (n : Nat) (f : Hub → Hub) : (modHub s n f).pwr = s.pwr := rfl
@[simp] theorem modHub_ctxs (s : State) (n : Nat) (f : Hub → Hub) : (modHub s n f).ctxs = s.ctxs := rfl
@[simp] theorem modHub_ctxCmd (s : State) (n : Nat) (f : Hub → Hub) : (modHub s n f).ctxCmd = s.ctxCmd := rfl
@[simp] theorem modHub_objs (s : State) (n : Nat) (f : Hub → Hub) : (modHub s n f).objs = s.objs := rfl
@[simp] theorem modHub_allocGen (s : State) (n : Nat) (f : Hub → Hub) : (modHub s n f).allocGen = s.allocGen := rfl
@[simp] theorem modHub_fences (s : State) (n : Nat) (f : Hub → Hub) : (modHub s n f).fences = s.fences := rfl
@[simp] theorem modHub_queues (s : State) (n : Nat) (f : Hub → Hub) : (modHub s n f).queues = s.queues := rfl
@[simp] theorem modHub_feCmd (s : State) (n : Nat) (f : Hub → Hub) : (modHub s n f).feCmd = s.feCmd := rfl
@[simp] theorem modHub_slots (s : State) (n : Nat) (f : Hub → Hub) : (modHub s n f).slots = s.slots := rfl
@[simp] theorem modHub_orders (s : State) (n : Nat) (f : Hub → Hub) : (modHub s n f).orders = s.orders := rfl
@[simp] theorem modHub_rr (s : State) (n : Nat) (f : Hub → Hub) : (modHub s n f).rr = s.rr := rfl
@[simp] theorem modHub_cmds (s : State) (n : Nat) (f : Hub → Hub) : (modHub s n f).cmds = s.cmds := rfl
@[simp] theorem modHub_graphs (s : State) (n : Nat) (f : Hub → Hub) : (modHub s n f).graphs = s.graphs := rfl
@[simp] theorem modHub_insts (s : State) (n : Nat) (f : Hub → Hub) : (modHub s n f).insts = s.insts := rfl
@[simp] theorem modHub_wgs (s : State) (n : Nat) (f : Hub → Hub) : (modHub s n f).wgs = s.wgs := rfl
@[simp] theorem modHub_mons (s : State) (n : Nat) (f : Hub → Hub) : (modHub s n f).mons = s.mons := rfl
@[simp] theorem modHub_gmCmd (s : State) (n : Nat) (f : Hub → Hub) : (modHub s n f).gmCmd = s.gmCmd := rfl
@[simp] theorem modHub_seqs (s : State) (n : Nat) (f : Hub → Hub) : (modHub s n f).seqs = s.seqs := rfl
@[simp] theorem modHub_sqCmd (s : State) (n : Nat) (f : Hub → Hub) : (modHub s n f).sqCmd = s.sqCmd := rfl
@[simp] theorem modHub_groups (s : State) (n : Nat) (f : Hub → Hub) : (modHub s n f).groups = s.groups := rfl
@[simp] theorem modHub_cores (s : State) (n : Nat) (f : Hub → Hub) : (modHub s n f).cores = s.cores := rfl
@[simp] theorem modHub_fly (s : State) (n : Nat) (f : Hub → Hub) : (modHub s n f).fly = s.fly := rfl
@[simp] theorem modHub_luCmd (s : State) (n : Nat) (f : Hub → Hub) : (modHub s n f).luCmd = s.luCmd := rfl
@[simp] theorem modHub_mem (s : State) (n : Nat) (f : Hub → Hub) : (modHub s n f).mem = s.mem := rfl
@[simp] theorem modHub_passes (s : State) (n : Nat) (f : Hub → Hub) : (modHub s n f).passes = s.passes := rfl
@[simp] theorem modHub_binCmd (s : State) (n : Nat) (f : Hub → Hub) : (modHub s n f).binCmd = s.binCmd := rfl
@[simp] theorem modHub_binReq (s : State) (n : Nat) (f : Hub → Hub) : (modHub s n f).binReq = s.binReq := rfl
@[simp] theorem modHub_pipes (s : State) (n : Nat) (f : Hub → Hub) : (modHub s n f).pipes = s.pipes := rfl
@[simp] theorem modHub_caps (s : State) (n : Nat) (f : Hub → Hub) : (modHub s n f).caps = s.caps := rfl
@[simp] theorem modHub_aud (s : State) (n : Nat) (f : Hub → Hub) : (modHub s n f).aud = s.aud := rfl
@[simp] theorem modHub_cmps (s : State) (n : Nat) (f : Hub → Hub) : (modHub s n f).cmps = s.cmps := rfl
@[simp] theorem modHub_cmpWait (s : State) (n : Nat) (f : Hub → Hub) : (modHub s n f).cmpWait = s.cmpWait := rfl
@[simp] theorem modHub_sec (s : State) (n : Nat) (f : Hub → Hub) : (modHub s n f).sec = s.sec := rfl
@[simp] theorem modHub_links (s : State) (n : Nat) (f : Hub → Hub) : (modHub s n f).links = s.links := rfl
@[simp] theorem modHub_ring (s : State) (n : Nat) (f : Hub → Hub) : (modHub s n f).ring = s.ring := rfl
@[simp] theorem modHub_olCmd (s : State) (n : Nat) (f : Hub → Hub) : (modHub s n f).olCmd = s.olCmd := rfl
@[simp] theorem modHub_grants (s : State) (n : Nat) (f : Hub → Hub) : (modHub s n f).grants = s.grants := rfl
@[simp] theorem modHub_fw (s : State) (n : Nat) (f : Hub → Hub) : (modHub s n f).fw = s.fw := rfl
@[simp] theorem modHub_log (s : State) (n : Nat) (f : Hub → Hub) : (modHub s n f).log = s.log := rfl

@[simp] theorem modPass_pending (s : State) (n : Nat) (f : Pass → Pass) : (modPass s n f).pending = s.pending := rfl
@[simp] theorem modPass_free (s : State) (n : Nat) (f : Pass → Pass) : (modPass s n f).free = s.free := rfl
@[simp] theorem modPass_pins (s : State) (n : Nat) (f : Pass → Pass) : (modPass s n f).pins = s.pins := rfl
@[simp] theorem modPass_fuses (s : State) (n : Nat) (f : Pass → Pass) : (modPass s n f).fuses = s.fuses := rfl
@[simp] theorem modPass_clk (s : State) (n : Nat) (f : Pass → Pass) : (modPass s n f).clk = s.clk := rfl
@[simp] theorem modPass_boot (s : State) (n : Nat) (f : Pass → Pass) : (modPass s n f).boot = s.boot := rfl
@[simp] theorem modPass_cfg (s : State) (n : Nat) (f : Pass → Pass) : (modPass s n f).cfg = s.cfg := rfl
@[simp] theorem modPass_hp (s : State) (n : Nat) (f : Pass → Pass) : (modPass s n f).hp = s.hp := rfl
@[simp] theorem modPass_pb (s : State) (n : Nat) (f : Pass → Pass) : (modPass s n f).pb = s.pb := rfl
@[simp] theorem modPass_pbPoison (s : State) (n : Nat) (f : Pass → Pass) : (modPass s n f).pbPoison = s.pbPoison := rfl
@[simp] theorem modPass_wt (s : State) (n : Nat) (f : Pass → Pass) : (modPass s n f).wt = s.wt := rfl
@[simp] theorem modPass_snaps (s : State) (n : Nat) (f : Pass → Pass) : (modPass s n f).snaps = s.snaps := rfl
@[simp] theorem modPass_shadow (s : State) (n : Nat) (f : Pass → Pass) : (modPass s n f).shadow = s.shadow := rfl
@[simp] theorem modPass_held (s : State) (n : Nat) (f : Pass → Pass) : (modPass s n f).held = s.held := rfl
@[simp] theorem modPass_irq (s : State) (n : Nat) (f : Pass → Pass) : (modPass s n f).irq = s.irq := rfl
@[simp] theorem modPass_pwr (s : State) (n : Nat) (f : Pass → Pass) : (modPass s n f).pwr = s.pwr := rfl
@[simp] theorem modPass_ctxs (s : State) (n : Nat) (f : Pass → Pass) : (modPass s n f).ctxs = s.ctxs := rfl
@[simp] theorem modPass_ctxCmd (s : State) (n : Nat) (f : Pass → Pass) : (modPass s n f).ctxCmd = s.ctxCmd := rfl
@[simp] theorem modPass_objs (s : State) (n : Nat) (f : Pass → Pass) : (modPass s n f).objs = s.objs := rfl
@[simp] theorem modPass_allocGen (s : State) (n : Nat) (f : Pass → Pass) : (modPass s n f).allocGen = s.allocGen := rfl
@[simp] theorem modPass_fences (s : State) (n : Nat) (f : Pass → Pass) : (modPass s n f).fences = s.fences := rfl
@[simp] theorem modPass_queues (s : State) (n : Nat) (f : Pass → Pass) : (modPass s n f).queues = s.queues := rfl
@[simp] theorem modPass_feCmd (s : State) (n : Nat) (f : Pass → Pass) : (modPass s n f).feCmd = s.feCmd := rfl
@[simp] theorem modPass_slots (s : State) (n : Nat) (f : Pass → Pass) : (modPass s n f).slots = s.slots := rfl
@[simp] theorem modPass_orders (s : State) (n : Nat) (f : Pass → Pass) : (modPass s n f).orders = s.orders := rfl
@[simp] theorem modPass_rr (s : State) (n : Nat) (f : Pass → Pass) : (modPass s n f).rr = s.rr := rfl
@[simp] theorem modPass_cmds (s : State) (n : Nat) (f : Pass → Pass) : (modPass s n f).cmds = s.cmds := rfl
@[simp] theorem modPass_graphs (s : State) (n : Nat) (f : Pass → Pass) : (modPass s n f).graphs = s.graphs := rfl
@[simp] theorem modPass_insts (s : State) (n : Nat) (f : Pass → Pass) : (modPass s n f).insts = s.insts := rfl
@[simp] theorem modPass_wgs (s : State) (n : Nat) (f : Pass → Pass) : (modPass s n f).wgs = s.wgs := rfl
@[simp] theorem modPass_mons (s : State) (n : Nat) (f : Pass → Pass) : (modPass s n f).mons = s.mons := rfl
@[simp] theorem modPass_gmCmd (s : State) (n : Nat) (f : Pass → Pass) : (modPass s n f).gmCmd = s.gmCmd := rfl
@[simp] theorem modPass_seqs (s : State) (n : Nat) (f : Pass → Pass) : (modPass s n f).seqs = s.seqs := rfl
@[simp] theorem modPass_sqCmd (s : State) (n : Nat) (f : Pass → Pass) : (modPass s n f).sqCmd = s.sqCmd := rfl
@[simp] theorem modPass_groups (s : State) (n : Nat) (f : Pass → Pass) : (modPass s n f).groups = s.groups := rfl
@[simp] theorem modPass_cores (s : State) (n : Nat) (f : Pass → Pass) : (modPass s n f).cores = s.cores := rfl
@[simp] theorem modPass_fly (s : State) (n : Nat) (f : Pass → Pass) : (modPass s n f).fly = s.fly := rfl
@[simp] theorem modPass_hub (s : State) (n : Nat) (f : Pass → Pass) : (modPass s n f).hub = s.hub := rfl
@[simp] theorem modPass_luCmd (s : State) (n : Nat) (f : Pass → Pass) : (modPass s n f).luCmd = s.luCmd := rfl
@[simp] theorem modPass_mem (s : State) (n : Nat) (f : Pass → Pass) : (modPass s n f).mem = s.mem := rfl
@[simp] theorem modPass_binCmd (s : State) (n : Nat) (f : Pass → Pass) : (modPass s n f).binCmd = s.binCmd := rfl
@[simp] theorem modPass_binReq (s : State) (n : Nat) (f : Pass → Pass) : (modPass s n f).binReq = s.binReq := rfl
@[simp] theorem modPass_pipes (s : State) (n : Nat) (f : Pass → Pass) : (modPass s n f).pipes = s.pipes := rfl
@[simp] theorem modPass_caps (s : State) (n : Nat) (f : Pass → Pass) : (modPass s n f).caps = s.caps := rfl
@[simp] theorem modPass_aud (s : State) (n : Nat) (f : Pass → Pass) : (modPass s n f).aud = s.aud := rfl
@[simp] theorem modPass_cmps (s : State) (n : Nat) (f : Pass → Pass) : (modPass s n f).cmps = s.cmps := rfl
@[simp] theorem modPass_cmpWait (s : State) (n : Nat) (f : Pass → Pass) : (modPass s n f).cmpWait = s.cmpWait := rfl
@[simp] theorem modPass_sec (s : State) (n : Nat) (f : Pass → Pass) : (modPass s n f).sec = s.sec := rfl
@[simp] theorem modPass_links (s : State) (n : Nat) (f : Pass → Pass) : (modPass s n f).links = s.links := rfl
@[simp] theorem modPass_ring (s : State) (n : Nat) (f : Pass → Pass) : (modPass s n f).ring = s.ring := rfl
@[simp] theorem modPass_olCmd (s : State) (n : Nat) (f : Pass → Pass) : (modPass s n f).olCmd = s.olCmd := rfl
@[simp] theorem modPass_grants (s : State) (n : Nat) (f : Pass → Pass) : (modPass s n f).grants = s.grants := rfl
@[simp] theorem modPass_fw (s : State) (n : Nat) (f : Pass → Pass) : (modPass s n f).fw = s.fw := rfl
@[simp] theorem modPass_log (s : State) (n : Nat) (f : Pass → Pass) : (modPass s n f).log = s.log := rfl

@[simp] theorem modPipe_pending (s : State) (n : Nat) (f : Pipe → Pipe) : (modPipe s n f).pending = s.pending := rfl
@[simp] theorem modPipe_free (s : State) (n : Nat) (f : Pipe → Pipe) : (modPipe s n f).free = s.free := rfl
@[simp] theorem modPipe_pins (s : State) (n : Nat) (f : Pipe → Pipe) : (modPipe s n f).pins = s.pins := rfl
@[simp] theorem modPipe_fuses (s : State) (n : Nat) (f : Pipe → Pipe) : (modPipe s n f).fuses = s.fuses := rfl
@[simp] theorem modPipe_clk (s : State) (n : Nat) (f : Pipe → Pipe) : (modPipe s n f).clk = s.clk := rfl
@[simp] theorem modPipe_boot (s : State) (n : Nat) (f : Pipe → Pipe) : (modPipe s n f).boot = s.boot := rfl
@[simp] theorem modPipe_cfg (s : State) (n : Nat) (f : Pipe → Pipe) : (modPipe s n f).cfg = s.cfg := rfl
@[simp] theorem modPipe_hp (s : State) (n : Nat) (f : Pipe → Pipe) : (modPipe s n f).hp = s.hp := rfl
@[simp] theorem modPipe_pb (s : State) (n : Nat) (f : Pipe → Pipe) : (modPipe s n f).pb = s.pb := rfl
@[simp] theorem modPipe_pbPoison (s : State) (n : Nat) (f : Pipe → Pipe) : (modPipe s n f).pbPoison = s.pbPoison := rfl
@[simp] theorem modPipe_wt (s : State) (n : Nat) (f : Pipe → Pipe) : (modPipe s n f).wt = s.wt := rfl
@[simp] theorem modPipe_snaps (s : State) (n : Nat) (f : Pipe → Pipe) : (modPipe s n f).snaps = s.snaps := rfl
@[simp] theorem modPipe_shadow (s : State) (n : Nat) (f : Pipe → Pipe) : (modPipe s n f).shadow = s.shadow := rfl
@[simp] theorem modPipe_held (s : State) (n : Nat) (f : Pipe → Pipe) : (modPipe s n f).held = s.held := rfl
@[simp] theorem modPipe_irq (s : State) (n : Nat) (f : Pipe → Pipe) : (modPipe s n f).irq = s.irq := rfl
@[simp] theorem modPipe_pwr (s : State) (n : Nat) (f : Pipe → Pipe) : (modPipe s n f).pwr = s.pwr := rfl
@[simp] theorem modPipe_ctxs (s : State) (n : Nat) (f : Pipe → Pipe) : (modPipe s n f).ctxs = s.ctxs := rfl
@[simp] theorem modPipe_ctxCmd (s : State) (n : Nat) (f : Pipe → Pipe) : (modPipe s n f).ctxCmd = s.ctxCmd := rfl
@[simp] theorem modPipe_objs (s : State) (n : Nat) (f : Pipe → Pipe) : (modPipe s n f).objs = s.objs := rfl
@[simp] theorem modPipe_allocGen (s : State) (n : Nat) (f : Pipe → Pipe) : (modPipe s n f).allocGen = s.allocGen := rfl
@[simp] theorem modPipe_fences (s : State) (n : Nat) (f : Pipe → Pipe) : (modPipe s n f).fences = s.fences := rfl
@[simp] theorem modPipe_queues (s : State) (n : Nat) (f : Pipe → Pipe) : (modPipe s n f).queues = s.queues := rfl
@[simp] theorem modPipe_feCmd (s : State) (n : Nat) (f : Pipe → Pipe) : (modPipe s n f).feCmd = s.feCmd := rfl
@[simp] theorem modPipe_slots (s : State) (n : Nat) (f : Pipe → Pipe) : (modPipe s n f).slots = s.slots := rfl
@[simp] theorem modPipe_orders (s : State) (n : Nat) (f : Pipe → Pipe) : (modPipe s n f).orders = s.orders := rfl
@[simp] theorem modPipe_rr (s : State) (n : Nat) (f : Pipe → Pipe) : (modPipe s n f).rr = s.rr := rfl
@[simp] theorem modPipe_cmds (s : State) (n : Nat) (f : Pipe → Pipe) : (modPipe s n f).cmds = s.cmds := rfl
@[simp] theorem modPipe_graphs (s : State) (n : Nat) (f : Pipe → Pipe) : (modPipe s n f).graphs = s.graphs := rfl
@[simp] theorem modPipe_insts (s : State) (n : Nat) (f : Pipe → Pipe) : (modPipe s n f).insts = s.insts := rfl
@[simp] theorem modPipe_wgs (s : State) (n : Nat) (f : Pipe → Pipe) : (modPipe s n f).wgs = s.wgs := rfl
@[simp] theorem modPipe_mons (s : State) (n : Nat) (f : Pipe → Pipe) : (modPipe s n f).mons = s.mons := rfl
@[simp] theorem modPipe_gmCmd (s : State) (n : Nat) (f : Pipe → Pipe) : (modPipe s n f).gmCmd = s.gmCmd := rfl
@[simp] theorem modPipe_seqs (s : State) (n : Nat) (f : Pipe → Pipe) : (modPipe s n f).seqs = s.seqs := rfl
@[simp] theorem modPipe_sqCmd (s : State) (n : Nat) (f : Pipe → Pipe) : (modPipe s n f).sqCmd = s.sqCmd := rfl
@[simp] theorem modPipe_groups (s : State) (n : Nat) (f : Pipe → Pipe) : (modPipe s n f).groups = s.groups := rfl
@[simp] theorem modPipe_cores (s : State) (n : Nat) (f : Pipe → Pipe) : (modPipe s n f).cores = s.cores := rfl
@[simp] theorem modPipe_fly (s : State) (n : Nat) (f : Pipe → Pipe) : (modPipe s n f).fly = s.fly := rfl
@[simp] theorem modPipe_hub (s : State) (n : Nat) (f : Pipe → Pipe) : (modPipe s n f).hub = s.hub := rfl
@[simp] theorem modPipe_luCmd (s : State) (n : Nat) (f : Pipe → Pipe) : (modPipe s n f).luCmd = s.luCmd := rfl
@[simp] theorem modPipe_mem (s : State) (n : Nat) (f : Pipe → Pipe) : (modPipe s n f).mem = s.mem := rfl
@[simp] theorem modPipe_passes (s : State) (n : Nat) (f : Pipe → Pipe) : (modPipe s n f).passes = s.passes := rfl
@[simp] theorem modPipe_binCmd (s : State) (n : Nat) (f : Pipe → Pipe) : (modPipe s n f).binCmd = s.binCmd := rfl
@[simp] theorem modPipe_binReq (s : State) (n : Nat) (f : Pipe → Pipe) : (modPipe s n f).binReq = s.binReq := rfl
@[simp] theorem modPipe_caps (s : State) (n : Nat) (f : Pipe → Pipe) : (modPipe s n f).caps = s.caps := rfl
@[simp] theorem modPipe_aud (s : State) (n : Nat) (f : Pipe → Pipe) : (modPipe s n f).aud = s.aud := rfl
@[simp] theorem modPipe_cmps (s : State) (n : Nat) (f : Pipe → Pipe) : (modPipe s n f).cmps = s.cmps := rfl
@[simp] theorem modPipe_cmpWait (s : State) (n : Nat) (f : Pipe → Pipe) : (modPipe s n f).cmpWait = s.cmpWait := rfl
@[simp] theorem modPipe_sec (s : State) (n : Nat) (f : Pipe → Pipe) : (modPipe s n f).sec = s.sec := rfl
@[simp] theorem modPipe_links (s : State) (n : Nat) (f : Pipe → Pipe) : (modPipe s n f).links = s.links := rfl
@[simp] theorem modPipe_ring (s : State) (n : Nat) (f : Pipe → Pipe) : (modPipe s n f).ring = s.ring := rfl
@[simp] theorem modPipe_olCmd (s : State) (n : Nat) (f : Pipe → Pipe) : (modPipe s n f).olCmd = s.olCmd := rfl
@[simp] theorem modPipe_grants (s : State) (n : Nat) (f : Pipe → Pipe) : (modPipe s n f).grants = s.grants := rfl
@[simp] theorem modPipe_fw (s : State) (n : Nat) (f : Pipe → Pipe) : (modPipe s n f).fw = s.fw := rfl
@[simp] theorem modPipe_log (s : State) (n : Nat) (f : Pipe → Pipe) : (modPipe s n f).log = s.log := rfl

@[simp] theorem modCap_pending (s : State) (n : Nat) (f : Cap → Cap) : (modCap s n f).pending = s.pending := rfl
@[simp] theorem modCap_free (s : State) (n : Nat) (f : Cap → Cap) : (modCap s n f).free = s.free := rfl
@[simp] theorem modCap_pins (s : State) (n : Nat) (f : Cap → Cap) : (modCap s n f).pins = s.pins := rfl
@[simp] theorem modCap_fuses (s : State) (n : Nat) (f : Cap → Cap) : (modCap s n f).fuses = s.fuses := rfl
@[simp] theorem modCap_clk (s : State) (n : Nat) (f : Cap → Cap) : (modCap s n f).clk = s.clk := rfl
@[simp] theorem modCap_boot (s : State) (n : Nat) (f : Cap → Cap) : (modCap s n f).boot = s.boot := rfl
@[simp] theorem modCap_cfg (s : State) (n : Nat) (f : Cap → Cap) : (modCap s n f).cfg = s.cfg := rfl
@[simp] theorem modCap_hp (s : State) (n : Nat) (f : Cap → Cap) : (modCap s n f).hp = s.hp := rfl
@[simp] theorem modCap_pb (s : State) (n : Nat) (f : Cap → Cap) : (modCap s n f).pb = s.pb := rfl
@[simp] theorem modCap_pbPoison (s : State) (n : Nat) (f : Cap → Cap) : (modCap s n f).pbPoison = s.pbPoison := rfl
@[simp] theorem modCap_wt (s : State) (n : Nat) (f : Cap → Cap) : (modCap s n f).wt = s.wt := rfl
@[simp] theorem modCap_snaps (s : State) (n : Nat) (f : Cap → Cap) : (modCap s n f).snaps = s.snaps := rfl
@[simp] theorem modCap_shadow (s : State) (n : Nat) (f : Cap → Cap) : (modCap s n f).shadow = s.shadow := rfl
@[simp] theorem modCap_held (s : State) (n : Nat) (f : Cap → Cap) : (modCap s n f).held = s.held := rfl
@[simp] theorem modCap_irq (s : State) (n : Nat) (f : Cap → Cap) : (modCap s n f).irq = s.irq := rfl
@[simp] theorem modCap_pwr (s : State) (n : Nat) (f : Cap → Cap) : (modCap s n f).pwr = s.pwr := rfl
@[simp] theorem modCap_ctxs (s : State) (n : Nat) (f : Cap → Cap) : (modCap s n f).ctxs = s.ctxs := rfl
@[simp] theorem modCap_ctxCmd (s : State) (n : Nat) (f : Cap → Cap) : (modCap s n f).ctxCmd = s.ctxCmd := rfl
@[simp] theorem modCap_objs (s : State) (n : Nat) (f : Cap → Cap) : (modCap s n f).objs = s.objs := rfl
@[simp] theorem modCap_allocGen (s : State) (n : Nat) (f : Cap → Cap) : (modCap s n f).allocGen = s.allocGen := rfl
@[simp] theorem modCap_fences (s : State) (n : Nat) (f : Cap → Cap) : (modCap s n f).fences = s.fences := rfl
@[simp] theorem modCap_queues (s : State) (n : Nat) (f : Cap → Cap) : (modCap s n f).queues = s.queues := rfl
@[simp] theorem modCap_feCmd (s : State) (n : Nat) (f : Cap → Cap) : (modCap s n f).feCmd = s.feCmd := rfl
@[simp] theorem modCap_slots (s : State) (n : Nat) (f : Cap → Cap) : (modCap s n f).slots = s.slots := rfl
@[simp] theorem modCap_orders (s : State) (n : Nat) (f : Cap → Cap) : (modCap s n f).orders = s.orders := rfl
@[simp] theorem modCap_rr (s : State) (n : Nat) (f : Cap → Cap) : (modCap s n f).rr = s.rr := rfl
@[simp] theorem modCap_cmds (s : State) (n : Nat) (f : Cap → Cap) : (modCap s n f).cmds = s.cmds := rfl
@[simp] theorem modCap_graphs (s : State) (n : Nat) (f : Cap → Cap) : (modCap s n f).graphs = s.graphs := rfl
@[simp] theorem modCap_insts (s : State) (n : Nat) (f : Cap → Cap) : (modCap s n f).insts = s.insts := rfl
@[simp] theorem modCap_wgs (s : State) (n : Nat) (f : Cap → Cap) : (modCap s n f).wgs = s.wgs := rfl
@[simp] theorem modCap_mons (s : State) (n : Nat) (f : Cap → Cap) : (modCap s n f).mons = s.mons := rfl
@[simp] theorem modCap_gmCmd (s : State) (n : Nat) (f : Cap → Cap) : (modCap s n f).gmCmd = s.gmCmd := rfl
@[simp] theorem modCap_seqs (s : State) (n : Nat) (f : Cap → Cap) : (modCap s n f).seqs = s.seqs := rfl
@[simp] theorem modCap_sqCmd (s : State) (n : Nat) (f : Cap → Cap) : (modCap s n f).sqCmd = s.sqCmd := rfl
@[simp] theorem modCap_groups (s : State) (n : Nat) (f : Cap → Cap) : (modCap s n f).groups = s.groups := rfl
@[simp] theorem modCap_cores (s : State) (n : Nat) (f : Cap → Cap) : (modCap s n f).cores = s.cores := rfl
@[simp] theorem modCap_fly (s : State) (n : Nat) (f : Cap → Cap) : (modCap s n f).fly = s.fly := rfl
@[simp] theorem modCap_hub (s : State) (n : Nat) (f : Cap → Cap) : (modCap s n f).hub = s.hub := rfl
@[simp] theorem modCap_luCmd (s : State) (n : Nat) (f : Cap → Cap) : (modCap s n f).luCmd = s.luCmd := rfl
@[simp] theorem modCap_mem (s : State) (n : Nat) (f : Cap → Cap) : (modCap s n f).mem = s.mem := rfl
@[simp] theorem modCap_passes (s : State) (n : Nat) (f : Cap → Cap) : (modCap s n f).passes = s.passes := rfl
@[simp] theorem modCap_binCmd (s : State) (n : Nat) (f : Cap → Cap) : (modCap s n f).binCmd = s.binCmd := rfl
@[simp] theorem modCap_binReq (s : State) (n : Nat) (f : Cap → Cap) : (modCap s n f).binReq = s.binReq := rfl
@[simp] theorem modCap_pipes (s : State) (n : Nat) (f : Cap → Cap) : (modCap s n f).pipes = s.pipes := rfl
@[simp] theorem modCap_aud (s : State) (n : Nat) (f : Cap → Cap) : (modCap s n f).aud = s.aud := rfl
@[simp] theorem modCap_cmps (s : State) (n : Nat) (f : Cap → Cap) : (modCap s n f).cmps = s.cmps := rfl
@[simp] theorem modCap_cmpWait (s : State) (n : Nat) (f : Cap → Cap) : (modCap s n f).cmpWait = s.cmpWait := rfl
@[simp] theorem modCap_sec (s : State) (n : Nat) (f : Cap → Cap) : (modCap s n f).sec = s.sec := rfl
@[simp] theorem modCap_links (s : State) (n : Nat) (f : Cap → Cap) : (modCap s n f).links = s.links := rfl
@[simp] theorem modCap_ring (s : State) (n : Nat) (f : Cap → Cap) : (modCap s n f).ring = s.ring := rfl
@[simp] theorem modCap_olCmd (s : State) (n : Nat) (f : Cap → Cap) : (modCap s n f).olCmd = s.olCmd := rfl
@[simp] theorem modCap_grants (s : State) (n : Nat) (f : Cap → Cap) : (modCap s n f).grants = s.grants := rfl
@[simp] theorem modCap_fw (s : State) (n : Nat) (f : Cap → Cap) : (modCap s n f).fw = s.fw := rfl
@[simp] theorem modCap_log (s : State) (n : Nat) (f : Cap → Cap) : (modCap s n f).log = s.log := rfl

@[simp] theorem modCmp_pending (s : State) (n : Nat) (f : Cmp → Cmp) : (modCmp s n f).pending = s.pending := rfl
@[simp] theorem modCmp_free (s : State) (n : Nat) (f : Cmp → Cmp) : (modCmp s n f).free = s.free := rfl
@[simp] theorem modCmp_pins (s : State) (n : Nat) (f : Cmp → Cmp) : (modCmp s n f).pins = s.pins := rfl
@[simp] theorem modCmp_fuses (s : State) (n : Nat) (f : Cmp → Cmp) : (modCmp s n f).fuses = s.fuses := rfl
@[simp] theorem modCmp_clk (s : State) (n : Nat) (f : Cmp → Cmp) : (modCmp s n f).clk = s.clk := rfl
@[simp] theorem modCmp_boot (s : State) (n : Nat) (f : Cmp → Cmp) : (modCmp s n f).boot = s.boot := rfl
@[simp] theorem modCmp_cfg (s : State) (n : Nat) (f : Cmp → Cmp) : (modCmp s n f).cfg = s.cfg := rfl
@[simp] theorem modCmp_hp (s : State) (n : Nat) (f : Cmp → Cmp) : (modCmp s n f).hp = s.hp := rfl
@[simp] theorem modCmp_pb (s : State) (n : Nat) (f : Cmp → Cmp) : (modCmp s n f).pb = s.pb := rfl
@[simp] theorem modCmp_pbPoison (s : State) (n : Nat) (f : Cmp → Cmp) : (modCmp s n f).pbPoison = s.pbPoison := rfl
@[simp] theorem modCmp_wt (s : State) (n : Nat) (f : Cmp → Cmp) : (modCmp s n f).wt = s.wt := rfl
@[simp] theorem modCmp_snaps (s : State) (n : Nat) (f : Cmp → Cmp) : (modCmp s n f).snaps = s.snaps := rfl
@[simp] theorem modCmp_shadow (s : State) (n : Nat) (f : Cmp → Cmp) : (modCmp s n f).shadow = s.shadow := rfl
@[simp] theorem modCmp_held (s : State) (n : Nat) (f : Cmp → Cmp) : (modCmp s n f).held = s.held := rfl
@[simp] theorem modCmp_irq (s : State) (n : Nat) (f : Cmp → Cmp) : (modCmp s n f).irq = s.irq := rfl
@[simp] theorem modCmp_pwr (s : State) (n : Nat) (f : Cmp → Cmp) : (modCmp s n f).pwr = s.pwr := rfl
@[simp] theorem modCmp_ctxs (s : State) (n : Nat) (f : Cmp → Cmp) : (modCmp s n f).ctxs = s.ctxs := rfl
@[simp] theorem modCmp_ctxCmd (s : State) (n : Nat) (f : Cmp → Cmp) : (modCmp s n f).ctxCmd = s.ctxCmd := rfl
@[simp] theorem modCmp_objs (s : State) (n : Nat) (f : Cmp → Cmp) : (modCmp s n f).objs = s.objs := rfl
@[simp] theorem modCmp_allocGen (s : State) (n : Nat) (f : Cmp → Cmp) : (modCmp s n f).allocGen = s.allocGen := rfl
@[simp] theorem modCmp_fences (s : State) (n : Nat) (f : Cmp → Cmp) : (modCmp s n f).fences = s.fences := rfl
@[simp] theorem modCmp_queues (s : State) (n : Nat) (f : Cmp → Cmp) : (modCmp s n f).queues = s.queues := rfl
@[simp] theorem modCmp_feCmd (s : State) (n : Nat) (f : Cmp → Cmp) : (modCmp s n f).feCmd = s.feCmd := rfl
@[simp] theorem modCmp_slots (s : State) (n : Nat) (f : Cmp → Cmp) : (modCmp s n f).slots = s.slots := rfl
@[simp] theorem modCmp_orders (s : State) (n : Nat) (f : Cmp → Cmp) : (modCmp s n f).orders = s.orders := rfl
@[simp] theorem modCmp_rr (s : State) (n : Nat) (f : Cmp → Cmp) : (modCmp s n f).rr = s.rr := rfl
@[simp] theorem modCmp_cmds (s : State) (n : Nat) (f : Cmp → Cmp) : (modCmp s n f).cmds = s.cmds := rfl
@[simp] theorem modCmp_graphs (s : State) (n : Nat) (f : Cmp → Cmp) : (modCmp s n f).graphs = s.graphs := rfl
@[simp] theorem modCmp_insts (s : State) (n : Nat) (f : Cmp → Cmp) : (modCmp s n f).insts = s.insts := rfl
@[simp] theorem modCmp_wgs (s : State) (n : Nat) (f : Cmp → Cmp) : (modCmp s n f).wgs = s.wgs := rfl
@[simp] theorem modCmp_mons (s : State) (n : Nat) (f : Cmp → Cmp) : (modCmp s n f).mons = s.mons := rfl
@[simp] theorem modCmp_gmCmd (s : State) (n : Nat) (f : Cmp → Cmp) : (modCmp s n f).gmCmd = s.gmCmd := rfl
@[simp] theorem modCmp_seqs (s : State) (n : Nat) (f : Cmp → Cmp) : (modCmp s n f).seqs = s.seqs := rfl
@[simp] theorem modCmp_sqCmd (s : State) (n : Nat) (f : Cmp → Cmp) : (modCmp s n f).sqCmd = s.sqCmd := rfl
@[simp] theorem modCmp_groups (s : State) (n : Nat) (f : Cmp → Cmp) : (modCmp s n f).groups = s.groups := rfl
@[simp] theorem modCmp_cores (s : State) (n : Nat) (f : Cmp → Cmp) : (modCmp s n f).cores = s.cores := rfl
@[simp] theorem modCmp_fly (s : State) (n : Nat) (f : Cmp → Cmp) : (modCmp s n f).fly = s.fly := rfl
@[simp] theorem modCmp_hub (s : State) (n : Nat) (f : Cmp → Cmp) : (modCmp s n f).hub = s.hub := rfl
@[simp] theorem modCmp_luCmd (s : State) (n : Nat) (f : Cmp → Cmp) : (modCmp s n f).luCmd = s.luCmd := rfl
@[simp] theorem modCmp_mem (s : State) (n : Nat) (f : Cmp → Cmp) : (modCmp s n f).mem = s.mem := rfl
@[simp] theorem modCmp_passes (s : State) (n : Nat) (f : Cmp → Cmp) : (modCmp s n f).passes = s.passes := rfl
@[simp] theorem modCmp_binCmd (s : State) (n : Nat) (f : Cmp → Cmp) : (modCmp s n f).binCmd = s.binCmd := rfl
@[simp] theorem modCmp_binReq (s : State) (n : Nat) (f : Cmp → Cmp) : (modCmp s n f).binReq = s.binReq := rfl
@[simp] theorem modCmp_pipes (s : State) (n : Nat) (f : Cmp → Cmp) : (modCmp s n f).pipes = s.pipes := rfl
@[simp] theorem modCmp_caps (s : State) (n : Nat) (f : Cmp → Cmp) : (modCmp s n f).caps = s.caps := rfl
@[simp] theorem modCmp_aud (s : State) (n : Nat) (f : Cmp → Cmp) : (modCmp s n f).aud = s.aud := rfl
@[simp] theorem modCmp_cmpWait (s : State) (n : Nat) (f : Cmp → Cmp) : (modCmp s n f).cmpWait = s.cmpWait := rfl
@[simp] theorem modCmp_sec (s : State) (n : Nat) (f : Cmp → Cmp) : (modCmp s n f).sec = s.sec := rfl
@[simp] theorem modCmp_links (s : State) (n : Nat) (f : Cmp → Cmp) : (modCmp s n f).links = s.links := rfl
@[simp] theorem modCmp_ring (s : State) (n : Nat) (f : Cmp → Cmp) : (modCmp s n f).ring = s.ring := rfl
@[simp] theorem modCmp_olCmd (s : State) (n : Nat) (f : Cmp → Cmp) : (modCmp s n f).olCmd = s.olCmd := rfl
@[simp] theorem modCmp_grants (s : State) (n : Nat) (f : Cmp → Cmp) : (modCmp s n f).grants = s.grants := rfl
@[simp] theorem modCmp_fw (s : State) (n : Nat) (f : Cmp → Cmp) : (modCmp s n f).fw = s.fw := rfl
@[simp] theorem modCmp_log (s : State) (n : Nat) (f : Cmp → Cmp) : (modCmp s n f).log = s.log := rfl

@[simp] theorem modLink_pending (s : State) (n : Nat) (f : Link → Link) : (modLink s n f).pending = s.pending := rfl
@[simp] theorem modLink_free (s : State) (n : Nat) (f : Link → Link) : (modLink s n f).free = s.free := rfl
@[simp] theorem modLink_pins (s : State) (n : Nat) (f : Link → Link) : (modLink s n f).pins = s.pins := rfl
@[simp] theorem modLink_fuses (s : State) (n : Nat) (f : Link → Link) : (modLink s n f).fuses = s.fuses := rfl
@[simp] theorem modLink_clk (s : State) (n : Nat) (f : Link → Link) : (modLink s n f).clk = s.clk := rfl
@[simp] theorem modLink_boot (s : State) (n : Nat) (f : Link → Link) : (modLink s n f).boot = s.boot := rfl
@[simp] theorem modLink_cfg (s : State) (n : Nat) (f : Link → Link) : (modLink s n f).cfg = s.cfg := rfl
@[simp] theorem modLink_hp (s : State) (n : Nat) (f : Link → Link) : (modLink s n f).hp = s.hp := rfl
@[simp] theorem modLink_pb (s : State) (n : Nat) (f : Link → Link) : (modLink s n f).pb = s.pb := rfl
@[simp] theorem modLink_pbPoison (s : State) (n : Nat) (f : Link → Link) : (modLink s n f).pbPoison = s.pbPoison := rfl
@[simp] theorem modLink_wt (s : State) (n : Nat) (f : Link → Link) : (modLink s n f).wt = s.wt := rfl
@[simp] theorem modLink_snaps (s : State) (n : Nat) (f : Link → Link) : (modLink s n f).snaps = s.snaps := rfl
@[simp] theorem modLink_shadow (s : State) (n : Nat) (f : Link → Link) : (modLink s n f).shadow = s.shadow := rfl
@[simp] theorem modLink_held (s : State) (n : Nat) (f : Link → Link) : (modLink s n f).held = s.held := rfl
@[simp] theorem modLink_irq (s : State) (n : Nat) (f : Link → Link) : (modLink s n f).irq = s.irq := rfl
@[simp] theorem modLink_pwr (s : State) (n : Nat) (f : Link → Link) : (modLink s n f).pwr = s.pwr := rfl
@[simp] theorem modLink_ctxs (s : State) (n : Nat) (f : Link → Link) : (modLink s n f).ctxs = s.ctxs := rfl
@[simp] theorem modLink_ctxCmd (s : State) (n : Nat) (f : Link → Link) : (modLink s n f).ctxCmd = s.ctxCmd := rfl
@[simp] theorem modLink_objs (s : State) (n : Nat) (f : Link → Link) : (modLink s n f).objs = s.objs := rfl
@[simp] theorem modLink_allocGen (s : State) (n : Nat) (f : Link → Link) : (modLink s n f).allocGen = s.allocGen := rfl
@[simp] theorem modLink_fences (s : State) (n : Nat) (f : Link → Link) : (modLink s n f).fences = s.fences := rfl
@[simp] theorem modLink_queues (s : State) (n : Nat) (f : Link → Link) : (modLink s n f).queues = s.queues := rfl
@[simp] theorem modLink_feCmd (s : State) (n : Nat) (f : Link → Link) : (modLink s n f).feCmd = s.feCmd := rfl
@[simp] theorem modLink_slots (s : State) (n : Nat) (f : Link → Link) : (modLink s n f).slots = s.slots := rfl
@[simp] theorem modLink_orders (s : State) (n : Nat) (f : Link → Link) : (modLink s n f).orders = s.orders := rfl
@[simp] theorem modLink_rr (s : State) (n : Nat) (f : Link → Link) : (modLink s n f).rr = s.rr := rfl
@[simp] theorem modLink_cmds (s : State) (n : Nat) (f : Link → Link) : (modLink s n f).cmds = s.cmds := rfl
@[simp] theorem modLink_graphs (s : State) (n : Nat) (f : Link → Link) : (modLink s n f).graphs = s.graphs := rfl
@[simp] theorem modLink_insts (s : State) (n : Nat) (f : Link → Link) : (modLink s n f).insts = s.insts := rfl
@[simp] theorem modLink_wgs (s : State) (n : Nat) (f : Link → Link) : (modLink s n f).wgs = s.wgs := rfl
@[simp] theorem modLink_mons (s : State) (n : Nat) (f : Link → Link) : (modLink s n f).mons = s.mons := rfl
@[simp] theorem modLink_gmCmd (s : State) (n : Nat) (f : Link → Link) : (modLink s n f).gmCmd = s.gmCmd := rfl
@[simp] theorem modLink_seqs (s : State) (n : Nat) (f : Link → Link) : (modLink s n f).seqs = s.seqs := rfl
@[simp] theorem modLink_sqCmd (s : State) (n : Nat) (f : Link → Link) : (modLink s n f).sqCmd = s.sqCmd := rfl
@[simp] theorem modLink_groups (s : State) (n : Nat) (f : Link → Link) : (modLink s n f).groups = s.groups := rfl
@[simp] theorem modLink_cores (s : State) (n : Nat) (f : Link → Link) : (modLink s n f).cores = s.cores := rfl
@[simp] theorem modLink_fly (s : State) (n : Nat) (f : Link → Link) : (modLink s n f).fly = s.fly := rfl
@[simp] theorem modLink_hub (s : State) (n : Nat) (f : Link → Link) : (modLink s n f).hub = s.hub := rfl
@[simp] theorem modLink_luCmd (s : State) (n : Nat) (f : Link → Link) : (modLink s n f).luCmd = s.luCmd := rfl
@[simp] theorem modLink_mem (s : State) (n : Nat) (f : Link → Link) : (modLink s n f).mem = s.mem := rfl
@[simp] theorem modLink_passes (s : State) (n : Nat) (f : Link → Link) : (modLink s n f).passes = s.passes := rfl
@[simp] theorem modLink_binCmd (s : State) (n : Nat) (f : Link → Link) : (modLink s n f).binCmd = s.binCmd := rfl
@[simp] theorem modLink_binReq (s : State) (n : Nat) (f : Link → Link) : (modLink s n f).binReq = s.binReq := rfl
@[simp] theorem modLink_pipes (s : State) (n : Nat) (f : Link → Link) : (modLink s n f).pipes = s.pipes := rfl
@[simp] theorem modLink_caps (s : State) (n : Nat) (f : Link → Link) : (modLink s n f).caps = s.caps := rfl
@[simp] theorem modLink_aud (s : State) (n : Nat) (f : Link → Link) : (modLink s n f).aud = s.aud := rfl
@[simp] theorem modLink_cmps (s : State) (n : Nat) (f : Link → Link) : (modLink s n f).cmps = s.cmps := rfl
@[simp] theorem modLink_cmpWait (s : State) (n : Nat) (f : Link → Link) : (modLink s n f).cmpWait = s.cmpWait := rfl
@[simp] theorem modLink_sec (s : State) (n : Nat) (f : Link → Link) : (modLink s n f).sec = s.sec := rfl
@[simp] theorem modLink_ring (s : State) (n : Nat) (f : Link → Link) : (modLink s n f).ring = s.ring := rfl
@[simp] theorem modLink_olCmd (s : State) (n : Nat) (f : Link → Link) : (modLink s n f).olCmd = s.olCmd := rfl
@[simp] theorem modLink_grants (s : State) (n : Nat) (f : Link → Link) : (modLink s n f).grants = s.grants := rfl
@[simp] theorem modLink_fw (s : State) (n : Nat) (f : Link → Link) : (modLink s n f).fw = s.fw := rfl
@[simp] theorem modLink_log (s : State) (n : Nat) (f : Link → Link) : (modLink s n f).log = s.log := rfl

@[simp] theorem modFn_pending (s : State) (n : Nat) (f : Fn → Fn) : (modFn s n f).pending = s.pending := rfl
@[simp] theorem modFn_free (s : State) (n : Nat) (f : Fn → Fn) : (modFn s n f).free = s.free := rfl
@[simp] theorem modFn_pins (s : State) (n : Nat) (f : Fn → Fn) : (modFn s n f).pins = s.pins := rfl
@[simp] theorem modFn_fuses (s : State) (n : Nat) (f : Fn → Fn) : (modFn s n f).fuses = s.fuses := rfl
@[simp] theorem modFn_clk (s : State) (n : Nat) (f : Fn → Fn) : (modFn s n f).clk = s.clk := rfl
@[simp] theorem modFn_boot (s : State) (n : Nat) (f : Fn → Fn) : (modFn s n f).boot = s.boot := rfl
@[simp] theorem modFn_cfg (s : State) (n : Nat) (f : Fn → Fn) : (modFn s n f).cfg = s.cfg := rfl
@[simp] theorem modFn_hp (s : State) (n : Nat) (f : Fn → Fn) : (modFn s n f).hp = s.hp := rfl
@[simp] theorem modFn_pb (s : State) (n : Nat) (f : Fn → Fn) : (modFn s n f).pb = s.pb := rfl
@[simp] theorem modFn_pbPoison (s : State) (n : Nat) (f : Fn → Fn) : (modFn s n f).pbPoison = s.pbPoison := rfl
@[simp] theorem modFn_wt (s : State) (n : Nat) (f : Fn → Fn) : (modFn s n f).wt = s.wt := rfl
@[simp] theorem modFn_snaps (s : State) (n : Nat) (f : Fn → Fn) : (modFn s n f).snaps = s.snaps := rfl
@[simp] theorem modFn_shadow (s : State) (n : Nat) (f : Fn → Fn) : (modFn s n f).shadow = s.shadow := rfl
@[simp] theorem modFn_held (s : State) (n : Nat) (f : Fn → Fn) : (modFn s n f).held = s.held := rfl
@[simp] theorem modFn_irq (s : State) (n : Nat) (f : Fn → Fn) : (modFn s n f).irq = s.irq := rfl
@[simp] theorem modFn_ctxs (s : State) (n : Nat) (f : Fn → Fn) : (modFn s n f).ctxs = s.ctxs := rfl
@[simp] theorem modFn_ctxCmd (s : State) (n : Nat) (f : Fn → Fn) : (modFn s n f).ctxCmd = s.ctxCmd := rfl
@[simp] theorem modFn_objs (s : State) (n : Nat) (f : Fn → Fn) : (modFn s n f).objs = s.objs := rfl
@[simp] theorem modFn_allocGen (s : State) (n : Nat) (f : Fn → Fn) : (modFn s n f).allocGen = s.allocGen := rfl
@[simp] theorem modFn_fences (s : State) (n : Nat) (f : Fn → Fn) : (modFn s n f).fences = s.fences := rfl
@[simp] theorem modFn_queues (s : State) (n : Nat) (f : Fn → Fn) : (modFn s n f).queues = s.queues := rfl
@[simp] theorem modFn_feCmd (s : State) (n : Nat) (f : Fn → Fn) : (modFn s n f).feCmd = s.feCmd := rfl
@[simp] theorem modFn_slots (s : State) (n : Nat) (f : Fn → Fn) : (modFn s n f).slots = s.slots := rfl
@[simp] theorem modFn_orders (s : State) (n : Nat) (f : Fn → Fn) : (modFn s n f).orders = s.orders := rfl
@[simp] theorem modFn_rr (s : State) (n : Nat) (f : Fn → Fn) : (modFn s n f).rr = s.rr := rfl
@[simp] theorem modFn_cmds (s : State) (n : Nat) (f : Fn → Fn) : (modFn s n f).cmds = s.cmds := rfl
@[simp] theorem modFn_graphs (s : State) (n : Nat) (f : Fn → Fn) : (modFn s n f).graphs = s.graphs := rfl
@[simp] theorem modFn_insts (s : State) (n : Nat) (f : Fn → Fn) : (modFn s n f).insts = s.insts := rfl
@[simp] theorem modFn_wgs (s : State) (n : Nat) (f : Fn → Fn) : (modFn s n f).wgs = s.wgs := rfl
@[simp] theorem modFn_mons (s : State) (n : Nat) (f : Fn → Fn) : (modFn s n f).mons = s.mons := rfl
@[simp] theorem modFn_gmCmd (s : State) (n : Nat) (f : Fn → Fn) : (modFn s n f).gmCmd = s.gmCmd := rfl
@[simp] theorem modFn_seqs (s : State) (n : Nat) (f : Fn → Fn) : (modFn s n f).seqs = s.seqs := rfl
@[simp] theorem modFn_sqCmd (s : State) (n : Nat) (f : Fn → Fn) : (modFn s n f).sqCmd = s.sqCmd := rfl
@[simp] theorem modFn_groups (s : State) (n : Nat) (f : Fn → Fn) : (modFn s n f).groups = s.groups := rfl
@[simp] theorem modFn_cores (s : State) (n : Nat) (f : Fn → Fn) : (modFn s n f).cores = s.cores := rfl
@[simp] theorem modFn_fly (s : State) (n : Nat) (f : Fn → Fn) : (modFn s n f).fly = s.fly := rfl
@[simp] theorem modFn_hub (s : State) (n : Nat) (f : Fn → Fn) : (modFn s n f).hub = s.hub := rfl
@[simp] theorem modFn_luCmd (s : State) (n : Nat) (f : Fn → Fn) : (modFn s n f).luCmd = s.luCmd := rfl
@[simp] theorem modFn_mem (s : State) (n : Nat) (f : Fn → Fn) : (modFn s n f).mem = s.mem := rfl
@[simp] theorem modFn_passes (s : State) (n : Nat) (f : Fn → Fn) : (modFn s n f).passes = s.passes := rfl
@[simp] theorem modFn_binCmd (s : State) (n : Nat) (f : Fn → Fn) : (modFn s n f).binCmd = s.binCmd := rfl
@[simp] theorem modFn_binReq (s : State) (n : Nat) (f : Fn → Fn) : (modFn s n f).binReq = s.binReq := rfl
@[simp] theorem modFn_pipes (s : State) (n : Nat) (f : Fn → Fn) : (modFn s n f).pipes = s.pipes := rfl
@[simp] theorem modFn_caps (s : State) (n : Nat) (f : Fn → Fn) : (modFn s n f).caps = s.caps := rfl
@[simp] theorem modFn_aud (s : State) (n : Nat) (f : Fn → Fn) : (modFn s n f).aud = s.aud := rfl
@[simp] theorem modFn_cmps (s : State) (n : Nat) (f : Fn → Fn) : (modFn s n f).cmps = s.cmps := rfl
@[simp] theorem modFn_cmpWait (s : State) (n : Nat) (f : Fn → Fn) : (modFn s n f).cmpWait = s.cmpWait := rfl
@[simp] theorem modFn_sec (s : State) (n : Nat) (f : Fn → Fn) : (modFn s n f).sec = s.sec := rfl
@[simp] theorem modFn_links (s : State) (n : Nat) (f : Fn → Fn) : (modFn s n f).links = s.links := rfl
@[simp] theorem modFn_ring (s : State) (n : Nat) (f : Fn → Fn) : (modFn s n f).ring = s.ring := rfl
@[simp] theorem modFn_olCmd (s : State) (n : Nat) (f : Fn → Fn) : (modFn s n f).olCmd = s.olCmd := rfl
@[simp] theorem modFn_grants (s : State) (n : Nat) (f : Fn → Fn) : (modFn s n f).grants = s.grants := rfl
@[simp] theorem modFn_fw (s : State) (n : Nat) (f : Fn → Fn) : (modFn s n f).fw = s.fw := rfl
@[simp] theorem modFn_log (s : State) (n : Nat) (f : Fn → Fn) : (modFn s n f).log = s.log := rfl

@[simp] theorem raise_pending (s : State) (c : Cause) : (raise s c).pending = s.pending := rfl
@[simp] theorem raise_free (s : State) (c : Cause) : (raise s c).free = s.free := rfl
@[simp] theorem raise_pins (s : State) (c : Cause) : (raise s c).pins = s.pins := rfl
@[simp] theorem raise_fuses (s : State) (c : Cause) : (raise s c).fuses = s.fuses := rfl
@[simp] theorem raise_clk (s : State) (c : Cause) : (raise s c).clk = s.clk := rfl
@[simp] theorem raise_boot (s : State) (c : Cause) : (raise s c).boot = s.boot := rfl
@[simp] theorem raise_cfg (s : State) (c : Cause) : (raise s c).cfg = s.cfg := rfl
@[simp] theorem raise_hp (s : State) (c : Cause) : (raise s c).hp = s.hp := rfl
@[simp] theorem raise_pb (s : State) (c : Cause) : (raise s c).pb = s.pb := rfl
@[simp] theorem raise_pbPoison (s : State) (c : Cause) : (raise s c).pbPoison = s.pbPoison := rfl
@[simp] theorem raise_wt (s : State) (c : Cause) : (raise s c).wt = s.wt := rfl
@[simp] theorem raise_snaps (s : State) (c : Cause) : (raise s c).snaps = s.snaps := rfl
@[simp] theorem raise_shadow (s : State) (c : Cause) : (raise s c).shadow = s.shadow := rfl
@[simp] theorem raise_held (s : State) (c : Cause) : (raise s c).held = s.held := rfl
@[simp] theorem raise_pwr (s : State) (c : Cause) : (raise s c).pwr = s.pwr := rfl
@[simp] theorem raise_ctxs (s : State) (c : Cause) : (raise s c).ctxs = s.ctxs := rfl
@[simp] theorem raise_ctxCmd (s : State) (c : Cause) : (raise s c).ctxCmd = s.ctxCmd := rfl
@[simp] theorem raise_objs (s : State) (c : Cause) : (raise s c).objs = s.objs := rfl
@[simp] theorem raise_allocGen (s : State) (c : Cause) : (raise s c).allocGen = s.allocGen := rfl
@[simp] theorem raise_fences (s : State) (c : Cause) : (raise s c).fences = s.fences := rfl
@[simp] theorem raise_queues (s : State) (c : Cause) : (raise s c).queues = s.queues := rfl
@[simp] theorem raise_feCmd (s : State) (c : Cause) : (raise s c).feCmd = s.feCmd := rfl
@[simp] theorem raise_slots (s : State) (c : Cause) : (raise s c).slots = s.slots := rfl
@[simp] theorem raise_orders (s : State) (c : Cause) : (raise s c).orders = s.orders := rfl
@[simp] theorem raise_rr (s : State) (c : Cause) : (raise s c).rr = s.rr := rfl
@[simp] theorem raise_cmds (s : State) (c : Cause) : (raise s c).cmds = s.cmds := rfl
@[simp] theorem raise_graphs (s : State) (c : Cause) : (raise s c).graphs = s.graphs := rfl
@[simp] theorem raise_insts (s : State) (c : Cause) : (raise s c).insts = s.insts := rfl
@[simp] theorem raise_wgs (s : State) (c : Cause) : (raise s c).wgs = s.wgs := rfl
@[simp] theorem raise_mons (s : State) (c : Cause) : (raise s c).mons = s.mons := rfl
@[simp] theorem raise_gmCmd (s : State) (c : Cause) : (raise s c).gmCmd = s.gmCmd := rfl
@[simp] theorem raise_seqs (s : State) (c : Cause) : (raise s c).seqs = s.seqs := rfl
@[simp] theorem raise_sqCmd (s : State) (c : Cause) : (raise s c).sqCmd = s.sqCmd := rfl
@[simp] theorem raise_groups (s : State) (c : Cause) : (raise s c).groups = s.groups := rfl
@[simp] theorem raise_cores (s : State) (c : Cause) : (raise s c).cores = s.cores := rfl
@[simp] theorem raise_fly (s : State) (c : Cause) : (raise s c).fly = s.fly := rfl
@[simp] theorem raise_hub (s : State) (c : Cause) : (raise s c).hub = s.hub := rfl
@[simp] theorem raise_luCmd (s : State) (c : Cause) : (raise s c).luCmd = s.luCmd := rfl
@[simp] theorem raise_mem (s : State) (c : Cause) : (raise s c).mem = s.mem := rfl
@[simp] theorem raise_passes (s : State) (c : Cause) : (raise s c).passes = s.passes := rfl
@[simp] theorem raise_binCmd (s : State) (c : Cause) : (raise s c).binCmd = s.binCmd := rfl
@[simp] theorem raise_binReq (s : State) (c : Cause) : (raise s c).binReq = s.binReq := rfl
@[simp] theorem raise_pipes (s : State) (c : Cause) : (raise s c).pipes = s.pipes := rfl
@[simp] theorem raise_caps (s : State) (c : Cause) : (raise s c).caps = s.caps := rfl
@[simp] theorem raise_aud (s : State) (c : Cause) : (raise s c).aud = s.aud := rfl
@[simp] theorem raise_cmps (s : State) (c : Cause) : (raise s c).cmps = s.cmps := rfl
@[simp] theorem raise_cmpWait (s : State) (c : Cause) : (raise s c).cmpWait = s.cmpWait := rfl
@[simp] theorem raise_sec (s : State) (c : Cause) : (raise s c).sec = s.sec := rfl
@[simp] theorem raise_links (s : State) (c : Cause) : (raise s c).links = s.links := rfl
@[simp] theorem raise_ring (s : State) (c : Cause) : (raise s c).ring = s.ring := rfl
@[simp] theorem raise_olCmd (s : State) (c : Cause) : (raise s c).olCmd = s.olCmd := rfl
@[simp] theorem raise_grants (s : State) (c : Cause) : (raise s c).grants = s.grants := rfl
@[simp] theorem raise_fw (s : State) (c : Cause) : (raise s c).fw = s.fw := rfl
@[simp] theorem raise_log (s : State) (c : Cause) : (raise s c).log = s.log := rfl

end Sys2Proof.Machine
end

