-- ==== Sys2Proof/Laws/Tab.lean ====
section
/-! SUPPORT. Tab.lean: a table entry just written reads back, and every other entry is as before. -/

namespace Sys2Proof.Machine

variable {α : Type}

@[simp] theorem tfind_tput_same (t : Tab α) (i : Nat) (x : α) : tfind (tput t i x) i = some x := by
  induction t with
  | nil => simp [tput, tfind]
  | cons e r ih =>
    obtain ⟨k, v⟩ := e
    rw [tput]
    split
    · simp [tfind]
    · split
      · simp [tfind]
      · rw [tfind, if_neg (by assumption), ih]

theorem tfind_tput_other (t : Tab α) (i j : Nat) (x : α) (h : j ≠ i) : tfind (tput t i x) j = tfind t j := by
  induction t with
  | nil => simp [tput, tfind, h.symm]
  | cons e r ih =>
    obtain ⟨k, v⟩ := e
    rw [tput]
    split
    · simp [tfind, h.symm]
    · split
      · rename_i hk
        subst hk
        simp [tfind, h.symm]
      · rw [tfind, tfind, ih]

theorem tfind_tput (t : Tab α) (i j : Nat) (x : α) :
    tfind (tput t i x) j = if j = i then some x else tfind t j := by
  split
  · rename_i h; rw [h, tfind_tput_same]
  · exact tfind_tput_other t i j x (by assumption)

@[simp] theorem tget_tput_same (t : Tab α) (i : Nat) (x d : α) : tget (tput t i x) i d = x := by
  simp [tget]

theorem tget_tput_other (t : Tab α) (i j : Nat) (x d : α) (h : j ≠ i) : tget (tput t i x) j d = tget t j d := by
  simp [tget, tfind_tput_other t i j x h]

@[simp] theorem tget_tmod_same (t : Tab α) (i : Nat) (d : α) (f : α → α) :
    tget (tmod t i d f) i d = f (tget t i d) := by
  simp [tmod]

theorem tget_tmod_other (t : Tab α) (i j : Nat) (d d' : α) (f : α → α) (h : j ≠ i) :
    tget (tmod t i d f) j d' = tget t j d' := by
  simp [tmod, tget_tput_other _ _ _ _ _ h]

theorem tfind_tupd (t : Tab α) (i j : Nat) (f : α → α) :
    tfind (tupd t i f) j = if j = i then (tfind t j).map f else tfind t j := by
  induction t with
  | nil => simp [tupd, tfind]
  | cons e r ih =>
    obtain ⟨k, v⟩ := e
    have step : tupd ((k, v) :: r) i f = (if k = i then (k, f v) else (k, v)) :: tupd r i f := rfl
    rw [step]
    by_cases hk : k = i
    · rw [if_pos hk, tfind, tfind, ih]
      by_cases hj : k = j
      · rw [if_pos hj, if_pos hj, if_pos (hj.symm.trans hk)]; rfl
      · rw [if_neg hj, if_neg hj]
    · rw [if_neg hk, tfind, tfind, ih]
      by_cases hj : k = j
      · rw [if_pos hj, if_neg (fun e => hk (hj.trans e))]
        rw [if_pos hj]
      · rw [if_neg hj, if_neg hj]

@[simp] theorem tfind_tupd_same (t : Tab α) (i : Nat) (f : α → α) :
    tfind (tupd t i f) i = (tfind t i).map f := by
  rw [tfind_tupd, if_pos rfl]

theorem tfind_tupd_other (t : Tab α) (i j : Nat) (f : α → α) (h : j ≠ i) :
    tfind (tupd t i f) j = tfind t j := by
  rw [tfind_tupd, if_neg h]

theorem tfind_tdel (t : Tab α) (i j : Nat) : tfind (tdel t i) j = if j = i then none else tfind t j := by
  induction t with
  | nil => simp [tdel, tfind]
  | cons e r ih =>
    obtain ⟨k, v⟩ := e
    by_cases hk : k = i
    · have : tdel ((k, v) :: r) i = tdel r i := by simp [tdel, hk]
      rw [this, ih, tfind]
      by_cases hj : j = i
      · rw [if_pos hj, if_pos hj]
      · rw [if_neg hj, if_neg hj, if_neg (fun e => hj (e.symm.trans hk))]
    · have : tdel ((k, v) :: r) i = (k, v) :: tdel r i := by simp [tdel, hk]
      rw [this, tfind, ih, tfind]
      by_cases hj : k = j
      · rw [if_pos hj, if_neg (fun e => hk (hj.trans e)), if_pos hj]
      · rw [if_neg hj, if_neg hj]

@[simp] theorem tfind_tdel_same (t : Tab α) (i : Nat) : tfind (tdel t i) i = none := by
  rw [tfind_tdel, if_pos rfl]

end Sys2Proof.Machine
end

