-- ==== Sys2Proof/Laws/Ops.lean ====
section
/-! SUPPORT. Ops.lean: what the shared operations can do, said once: a live device, entries of the tables,
interrupt causes, the error log, the port buffer, fences, held resolutions. -/

namespace Sys2Proof.Machine

/-! ## A live device -/

@[simp] theorem onLive_runs {s : State} (h : s.runs = true) (t : State) : onLive s t = .next t := by
  simp [onLive, h]

@[simp] theorem onLive_stopped {s : State} (h : s.runs = false) (t : State) : onLive s t = .next s := by
  simp [onLive, h]

/-! ## Entries -/

@[simp] theorem chOf_modCh_same (s : State) (n : Nat) (f : Chan → Chan) : chOf (modCh s n f) n = f (chOf s n) := by
  simp [chOf, modCh]

theorem chOf_modCh_other (s : State) (n m : Nat) (f : Chan → Chan) (h : m ≠ n) : chOf (modCh s n f) m = chOf s m := by
  simp [chOf, modCh, tget_tmod_other _ _ _ _ _ _ h]

@[simp] theorem ctxOf_modCtx_same (s : State) (n : Nat) (f : Ctx → Ctx) : ctxOf (modCtx s n f) n = f (ctxOf s n) := by
  simp [ctxOf, modCtx]

theorem ctxOf_modCtx_other (s : State) (n m : Nat) (f : Ctx → Ctx) (h : m ≠ n) :
    ctxOf (modCtx s n f) m = ctxOf s m := by
  simp [ctxOf, modCtx, tget_tmod_other _ _ _ _ _ _ h]

@[simp] theorem fenceOf_modFence_same (s : State) (n : Nat) (f : Fence → Fence) :
    fenceOf (modFence s n f) n = f (fenceOf s n) := by
  simp [fenceOf, modFence]

theorem fenceOf_modFence_other (s : State) (n m : Nat) (f : Fence → Fence) (h : m ≠ n) :
    fenceOf (modFence s n f) m = fenceOf s m := by
  simp [fenceOf, modFence, tget_tmod_other _ _ _ _ _ _ h]

@[simp] theorem queueOf_modQueue_same (s : State) (n : Nat) (f : Queue → Queue) :
    queueOf (modQueue s n f) n = f (queueOf s n) := by
  simp [queueOf, modQueue]

theorem queueOf_modQueue_other (s : State) (n m : Nat) (f : Queue → Queue) (h : m ≠ n) :
    queueOf (modQueue s n f) m = queueOf s m := by
  simp [queueOf, modQueue, tget_tmod_other _ _ _ _ _ _ h]

@[simp] theorem slotOf_modSlot_same (s : State) (n : Nat) (f : Slot → Slot) :
    slotOf (modSlot s n f) n = f (slotOf s n) := by
  simp [slotOf, modSlot]

theorem slotOf_modSlot_other (s : State) (n m : Nat) (f : Slot → Slot) (h : m ≠ n) :
    slotOf (modSlot s n f) m = slotOf s m := by
  simp [slotOf, modSlot, tget_tmod_other _ _ _ _ _ _ h]

@[simp] theorem coreOf_modCore_same (s : State) (n : Nat) (f : Core → Core) :
    coreOf (modCore s n f) n = f (coreOf s n) := by
  simp [coreOf, modCore]

theorem coreOf_modCore_other (s : State) (n m : Nat) (f : Core → Core) (h : m ≠ n) :
    coreOf (modCore s n f) m = coreOf s m := by
  simp [coreOf, modCore, tget_tmod_other _ _ _ _ _ _ h]

@[simp] theorem hubOf_modHub_same (s : State) (n : Nat) (f : Hub → Hub) : hubOf (modHub s n f) n = f (hubOf s n) := by
  simp [hubOf, modHub]

theorem hubOf_modHub_other (s : State) (n m : Nat) (f : Hub → Hub) (h : m ≠ n) : hubOf (modHub s n f) m = hubOf s m := by
  simp [hubOf, modHub, tget_tmod_other _ _ _ _ _ _ h]

@[simp] theorem pipeOf_modPipe_same (s : State) (n : Nat) (f : Pipe → Pipe) :
    pipeOf (modPipe s n f) n = f (pipeOf s n) := by
  simp [pipeOf, modPipe]

theorem pipeOf_modPipe_other (s : State) (n m : Nat) (f : Pipe → Pipe) (h : m ≠ n) :
    pipeOf (modPipe s n f) m = pipeOf s m := by
  simp [pipeOf, modPipe, tget_tmod_other _ _ _ _ _ _ h]

@[simp] theorem fnOf_modFn_same (s : State) (n : Nat) (f : Fn → Fn) : fnOf (modFn s n f) n = f (fnOf s n) := by
  simp [fnOf, modFn]

theorem fnOf_modFn_other (s : State) (n m : Nat) (f : Fn → Fn) (h : m ≠ n) : fnOf (modFn s n f) m = fnOf s m := by
  simp [fnOf, modFn, tget_tmod_other _ _ _ _ _ _ h]

/-! ## Interrupt causes (Table 5-13) -/

theorem raise_keeps (s : State) (c : Cause) (b : Nat) (h : s.irq.cause.getLsbD b = true) :
    (raise s c).irq.cause.getLsbD b = true := by
  simp [raise, Irq.raise, h]

theorem raise_sets (s : State) (c : Cause) : (raise s c).irq.cause.getLsbD c.bit = true := by
  cases c <;> simp [raise, Irq.raise, Cause.bit]

theorem raise_masks (s : State) (c : Cause) :
    (raise s c).irq = { s.irq with
      cause := (raise s c).irq.cause, fresh := (raise s c).irq.fresh, freshAt := (raise s c).irq.freshAt } := rfl

/-- A clearing write keeps a cause raised in its own cycle (R9). -/
theorem clear_keeps_fresh (q : Irq) (now : BitVec 48) (v : BitVec 13) (b : Nat) (hc : q.cause.getLsbD b = true)
    (hf : (q.freshNow now).getLsbD b = true) : (q.clear now v).cause.getLsbD b = true := by
  simp [Irq.clear, hc, hf]

/-! ## The error log (R409 to R412) -/

theorem queueWaiting_frame (s : State) (r : ErrRec) :
    queueWaiting s r = { s with log := (queueWaiting s r).log, ctxs := (queueWaiting s r).ctxs } := by
  unfold queueWaiting
  split
  · split <;> rfl
  · split
    · rfl
    · dsimp only
      split
      · rfl
      · split <;> rfl

/-- A record changes the log, the causes, and where it waits in a context entry. -/
theorem errWrite_frame (s : State) (r : ErrRec) :
    errWrite s r = { s with log := (errWrite s r).log, irq := (errWrite s r).irq, ctxs := (errWrite s r).ctxs } := by
  have place : ∀ u : State, u = { s with log := u.log, irq := u.irq, ctxs := u.ctxs } → ∀ v,
      (v = queueWaiting u r ∨ ∃ l, v = { u with log := l }) →
      v = { s with log := v.log, irq := v.irq, ctxs := v.ctxs } := by
    rintro u hu v (rfl | ⟨l, rfl⟩)
    · rw [queueWaiting_frame, hu]
    · rw [hu]
  unfold errWrite
  dsimp only
  generalize hu : (if 2 ≤ r.cls then raise (if r.cls = 1 then { s with log := s.log.countCe r.unit } else s) .errLog
    else if r.cls = 1 then { s with log := s.log.countCe r.unit } else s) = u
  have hf : u = { s with log := u.log, irq := u.irq, ctxs := u.ctxs } := by
    subst hu
    split <;> split <;> rfl
  refine place u hf _ ?_
  split
  · exact .inl rfl
  · split
    · exact .inr ⟨_, rfl⟩
    · split
      · exact .inl rfl
      · exact .inr ⟨_, rfl⟩

theorem event_frame (s : State) (code status unit inst addr info : Nat) (ctx : Option Nat) :
    event s code status unit inst addr info ctx =
      { s with log := (event s code status unit inst addr info ctx).log
               irq := (event s code status unit inst addr info ctx).irq
               ctxs := (event s code status unit inst addr info ctx).ctxs } := errWrite_frame s _

/-- With the next ordinary slot free the record is accepted there with the next seq. -/
theorem event_log (s : State) (code status unit inst addr info : Nat) (ctx : Option Nat)
    (h : s.log.used s.log.nextOrd = false) :
    event s code status unit inst addr info ctx =
      { s with log := s.log.take (mkErr s 0 code status unit inst addr info ctx) s.log.nextOrd false } := by
  simp [event, errWrite, mkErr, Log.slotFor, h]

theorem take_recs (l : Log) (r : ErrRec) (i : Nat) (resv : Bool) :
    (l.take r i resv).recs = l.recs ++ [{ r with idx := i, resv := resv, seq := l.written + 1 }] := rfl

/-! ## The port buffer -/

theorem pbStore_frame (s : State) (off : Nat) (d : List Byte) :
    pbStore s off d = { s with pb := mwrites s.pb off d, pbPoison := (pbStore s off d).pbPoison } := rfl

theorem pbStore_in {s : State} (h : Memory.wf s.pb = true) (off i : Nat) (d : List Byte) (hi : i < d.length) :
    mget (pbStore s off d).pb (off + i) = d[i] := mget_mwrites_in h off i d hi

theorem pbStore_out {s : State} (h : Memory.wf s.pb = true) (off b : Nat) (d : List Byte)
    (hb : b < off ∨ off + d.length ≤ b) : mget (pbStore s off d).pb b = mget s.pb b :=
  mget_mwrites_out h off b d hb

theorem pbStore_wf {s : State} (h : Memory.wf s.pb = true) (off : Nat) (d : List Byte) :
    Memory.wf (pbStore s off d).pb = true := mwrites_wf h off d

/-- Without poison a device-side read delivers the stored bytes. -/
theorem pbFetch_clean {s : State} (h : s.pbPoison = []) (off n : Nat) : pbFetch s off n = pbRaw s off n := by
  simp [pbFetch, pbRaw, mreads, h]

/-! ## Fences (R119) -/

theorem signal_raises {x : Fence} {now : BitVec 48} {v : W64} (e : Bool) (hl : x.st = .live)
    (hr : x.remote = none) (hv : x.val < v) :
    x.signal now v e =
      { x with val := v, err := x.errNow now e, sigAt := some now, sigErr := x.errNow now e } := by
  simp [Fence.signal, hl, hr, hv]

theorem signal_keeps {x : Fence} {now : BitVec 48} {v : W64} (e : Bool) (hl : x.st = .live) (hr : x.remote = none)
    (hv : ¬x.val < v) :
    x.signal now v e =
      { x with err := x.err || x.errNow now e, sigAt := some now, sigErr := x.errNow now e } := by
  cases h : x.errNow now e <;> simp [Fence.signal, hl, hr, hv, h]

/-- A signal never lowers a value, and changes neither state nor holders. -/
theorem signal_never_lowers (x : Fence) (now : BitVec 48) (v : W64) (e : Bool) : x.val ≤ (x.signal now v e).val := by
  unfold Fence.signal
  cases x.st
  · exact BitVec.le_refl _
  · dsimp only
    split
    · exact BitVec.le_refl _
    · split
      · rename_i h; exact BitVec.le_of_lt h
      · split <;> exact BitVec.le_refl _
  · exact BitVec.le_refl _

theorem signal_frame (x : Fence) (now : BitVec 48) (v : W64) (e : Bool) :
    x.signal now v e = { x with
      val := (x.signal now v e).val, err := (x.signal now v e).err
      sigAt := (x.signal now v e).sigAt, sigErr := (x.signal now v e).sigErr } := by
  obtain ⟨st⟩ := x
  cases st
  · rfl
  · unfold Fence.signal
    dsimp only
    split
    · rfl
    · split
      · rfl
      · split <;> rfl
  · rfl

theorem fenceSignal_same (s : State) (f : Nat) (v : W64) (e : Bool) :
    fenceOf (fenceSignal s f v e) f = (fenceOf s f).signal (domCount s 35) v e := by
  simp [fenceSignal]

theorem fenceSignal_other (s : State) (f m : Nat) (v : W64) (e : Bool) (h : m ≠ f) :
    fenceOf (fenceSignal s f v e) m = fenceOf s m := fenceOf_modFence_other s f m _ h

/-! ## Resolutions held at a fetch (R113) -/

/-- With every fetched command resolved there is nothing to catch up. -/
theorem resolveHeld_id (s : State) (h : s.cmds.all (fun e => !e.2.unresolved) = true) : resolveHeld s = s := by
  have : tkeys s.cmds (fun _ c => c.unresolved) = [] := by
    simp only [tkeys, List.map_eq_nil_iff, List.filter_eq_nil_iff]
    intro e he
    have := List.all_eq_true.mp h e he
    simpa using this
  simp [resolveHeld, this]

end Sys2Proof.Machine
end

