-- ==== Sys2Proof/Laws/Issue.lean ====
section
/-! SUPPORT. Issue.lean: an instruction that issues runs its action on the state its issue leaves. -/

namespace Sys2Proof.Machine

/-- What `locate` found is in the state. -/
theorem locate_inv {s : State} {sp : SplitRef} {w : IWord} {i : Iss} (h : locate s sp w = some i) :
    i.sp = sp ∧ i.iw = w ∧ i.key = spKey sp ∧ tfind s.groups i.key = some i.g ∧ tfind i.g.splits sp.sid = some i.x ∧
      tfind s.wgs i.id = some i.w ∧ i.id = i.g.wg ∧ i.was = false := by
  unfold locate at h
  split at h
  · cases h
  · split at h
    · cases h; simp [*]
    · cases h

/-- A group in which nothing merges is not changed by its next issue cycle. -/
theorem mergeCycle_find {s : State} {key : Nat} {g : Group} (h : tfind s.groups key = some g) (hm : mergePair g = none) :
    tfind (mergeCycle s key).groups key = some g := by
  simp [mergeCycle, modGroup, h, mergeAll, hm, retrySpin]

/-- `wordOk` judges the words, the workgroup and the pc. -/
theorem wordOk_at (i : Iss) (x : Split) (g : Group) (b : Bool) (f : Form1) (h : x.pc = i.x.pc) :
    wordOk { i with x := x, g := g, was := b } f = wordOk i f := by
  simp [wordOk, h]

/-- A line the core holds is not read again. -/
theorem l1iFill_hit {s : State} {core ctx a : Nat} (h : (l1iHit (coreOf s core) a).isSome = true) :
    l1iFill s core ctx a = s := by
  simp [l1iFill, h]

/-- An instruction that issues runs its action. -/
theorem onIssue_eq {s : State} {sp : SplitRef} {w : IWord} {f : Form1} {i : Iss} {ops act} {packs : Bool}
    (h : Issues s sp w f i) (ho : ops (wOp w) = true) :
    onIssue s sp w ops f act packs = act (issueState s i packs) (issueIss s i) := by
  obtain ⟨h1, h2, h3, h4, h5, h6, h7, h8⟩ := locate_inv h.found
  subst h1 h2
  have hl : locate (mergeCycle s i.key) i.sp i.iw = some i := by
    unfold locate
    rw [← h3, mergeCycle_find h4 h.apart]
    have : (mergeCycle s i.key).wgs = s.wgs := rfl
    simp only [h5, this, ← h7, h6]
    cases i; simp_all
  have hr : (i.x.st != .ready || i.w.st != .placed) = false := by simp [h.ready, h.placed]
  have hp : (preferred (mergeCycle s i.key) i.sp.core i.sp.cpart != some (spNum i.sp) &&
      !joinsPack (mergeCycle s i.key) i) = false := by rcases h.pref with hp | hp <;> simp [hp]
  have hf : fetched (mergeCycle s i.key) i.sp.core i.w i.x.pc.toNat i.iw = true := h.fetched
  have hs : (fetchLines i.w i.x.pc.toNat i.iw).findSome? (fetchFault (mergeCycle s i.key) i.sp.core) = none := h.sound
  have ho1 : ¬i.w.codeObj < 8 * (i.x.pc.toNat + 1) := by
    have := h.inObj; unfold iLen at this; split at this <;> omega
  have ho2 : (wL i.iw && decide (i.w.codeObj < 8 * (i.x.pc.toNat + 2)) &&
      codeWord (mergeCycle s i.key) i.sp.core (i.w.codeAt i.x.pc.toNat) == i.iw.w0) = false := by
    have := h.inObj
    unfold iLen at this
    split at this
    · have : ¬i.w.codeObj < 8 * (i.x.pc.toNat + 2) := by omega
      simp [this]
    · simp [*]
  have hx (x : Split) (g : Group) (b : Bool) (hx : x.pc = i.x.pc) : wordOk { i with x := x, g := g, was := b } f = true :=
    (wordOk_at i x g b f hx).trans h.word
  unfold onIssue
  simp only [h.found, hr, hl, hp, ho1, ho2, hf, hs, h.listed, ho, if_false, Bool.not_true, Bool.false_eq_true]
  have h9 : ∀ u : State, u.fly = s.fly → ∀ x : Split, x.cb = i.x.cb → (inRound u x && roundForbidden i.iw) = false := by
    intro u hu x hx; have := h.rounds; simpa only [inRound, hu, hx] using this
  have h10 : (i.x.cb.isSome && cbForbidden (wOp i.iw)) = false := h.traced
  simp only [issueState, issueIss, hx, Bool.not_true, Bool.false_eq_true, if_false]
  rw [if_neg, if_neg]
  · rfl
  · exact fun e => Bool.false_ne_true (h10 ▸ e)
  · exact fun e => Bool.false_ne_true ((h9 _ rfl _ rfl) ▸ e)

/-! ## What an issue changes -/

theorem l1iFill_frame (s : State) (core ctx a : Nat) :
    l1iFill s core ctx a = { s with mem := (l1iFill s core ctx a).mem, cores := (l1iFill s core ctx a).cores } := by
  unfold l1iFill
  split
  · rfl
  · dsimp only
    rw [dmTouch_frame]; rfl

theorem l1iFill_core (s : State) (core ctx a : Nat) :
    (∀ c, c ≠ core → coreOf (l1iFill s core ctx a) c = coreOf s c) ∧
    coreOf (l1iFill s core ctx a) core = { coreOf s core with l1i := (coreOf (l1iFill s core ctx a) core).l1i } := by
  unfold l1iFill
  split
  · exact ⟨fun _ _ => rfl, rfl⟩
  · dsimp only
    have hc (s t : State) (h : t = { s with mem := t.mem }) (c : Nat) : coreOf t c = coreOf s c := by rw [h]; rfl
    have := hc s _ (dmTouch_frame s (polAt s ctx (a / 128 * 128)) (a / 128 * 128) 128)
    refine ⟨fun c h => ?_, ?_⟩
    · rw [coreOf_modCore_other _ _ _ _ h, this]
    · rw [coreOf_modCore_same, this]

theorem l1iFills_frame (l : List Nat) (s : State) (core ctx : Nat) :
    l.foldl (fun s a => l1iFill s core ctx a) s =
      { s with mem := (l.foldl (fun s a => l1iFill s core ctx a) s).mem
               cores := (l.foldl (fun s a => l1iFill s core ctx a) s).cores } ∧
    (∀ c, c ≠ core → coreOf (l.foldl (fun s a => l1iFill s core ctx a) s) c = coreOf s c) ∧
    coreOf (l.foldl (fun s a => l1iFill s core ctx a) s) core =
      { coreOf s core with l1i := (coreOf (l.foldl (fun s a => l1iFill s core ctx a) s) core).l1i } := by
  induction l generalizing s with
  | nil => exact ⟨rfl, fun _ _ => rfl, rfl⟩
  | cons x r ih =>
    obtain ⟨h1, h2, h3⟩ := ih (l1iFill s core ctx x)
    obtain ⟨k1, k2⟩ := l1iFill_core s core ctx x
    refine ⟨?_, fun c hc => ?_, ?_⟩
    · rw [List.foldl_cons, h1, l1iFill_frame]
    · rw [List.foldl_cons, h2 c hc, k1 c hc]
    · rw [List.foldl_cons, h3, k2]

theorem l1iFills_hot (l : List Nat) (s : State) (core ctx : Nat)
    (h : ∀ a ∈ l, (l1iHit (coreOf s core) a).isSome = true) : l.foldl (fun s a => l1iFill s core ctx a) s = s := by
  induction l with
  | nil => rfl
  | cons x r ih =>
    rw [List.foldl_cons, l1iFill_hit (h x (by simp))]
    exact ih (fun a ha => h a (by simp [ha]))

theorem frame_cores {s u v : State} (h : v = { u with mem := v.mem, cores := v.cores })
    (k : u = { s with groups := u.groups, cores := u.cores }) :
    v = { s with groups := v.groups, cores := v.cores, mem := v.mem } ∧ v.groups = u.groups := by
  constructor
  · rw [h, k]
  · rw [h]

/-- The state an issue leaves differs from the one before as `IssueOnly` says, and holds the issuing group. -/
theorem issueState_only {s : State} {sp : SplitRef} {w : IWord} {f : Form1} {i : Iss} (h : Issues s sp w f i)
    (packs : Bool) :
    IssueOnly s (issueState s i packs) i ∧ tfind (issueState s i packs).groups i.key = some (issueIss s i).g := by
  obtain ⟨h1, h2, h3, h4, h5, h6, h7, h8⟩ := locate_inv h.found
  have hm := mergeCycle_find h4 h.apart
  unfold issueState
  generalize hB : modSplit (noteIssue (mergeCycle s i.key) i packs) i.key i.sp.sid (fun _ => (issueIss s i).x) = u
  have hf : u = { s with groups := u.groups, cores := u.cores } := by subst hB; rfl
  have hg : u.groups =
      tupd (mergeCycle s i.key).groups i.key (fun g => g.modSplit i.sp.sid (fun _ => (issueIss s i).x)) := by
    subst hB; rfl
  have hmem : u.mem = s.mem := by rw [hf]
  have hcore : (∀ c, c ≠ i.sp.core → coreOf u c = coreOf s c) ∧ coreOf u i.sp.core = { coreOf s i.sp.core with
      issued := (coreOf u i.sp.core).issued, promoted := (coreOf u i.sp.core).promoted } := by
    have hc (c : Nat) : coreOf u c = coreOf (noteIssue (mergeCycle s i.key) i packs) c := by subst hB; rfl
    simp only [hc, noteIssue]
    refine ⟨fun c hne => ?_, ?_⟩
    · rw [coreOf_modCore_other _ _ _ _ hne]; rfl
    · rw [coreOf_modCore_same]; rfl
  clear hB
  obtain ⟨f1, f2, f3⟩ := l1iFills_frame (fetchLines i.w i.x.pc.toNat i.iw) u i.sp.core i.w.ctx
  have hot : i.hot s → (fetchLines i.w i.x.pc.toNat i.iw).foldl (fun s a => l1iFill s i.sp.core i.w.ctx a) u = u := by
    refine fun hot => l1iFills_hot _ _ _ _ fun a ha => ?_
    have := hot a ha
    rw [hcore.2]
    simpa [l1iHit] using this
  generalize (fetchLines i.w i.x.pc.toNat i.iw).foldl (fun s a => l1iFill s i.sp.core i.w.ctx a) u = v at *
  obtain ⟨k1, k2⟩ := frame_cores f1 hf
  refine ⟨⟨k1, ?_, ?_, ?_, ?_⟩, ?_⟩
  · intro ht; rw [hot ht, hmem]
  · intro k hk
    rw [k2, hg, tfind_tupd_other _ _ _ _ hk]
    simp [mergeCycle, modGroup, tfind_tupd_other _ _ _ _ hk]
  · intro c hne; rw [f2 c hne, hcore.1 c hne]
  · rw [f3, hcore.2]
  · rw [k2, hg, tfind_tupd_same, hm]; rfl

end Sys2Proof.Machine
end

