-- ==== Sys2Proof/Laws/Words.lean ====
section
/-! SUPPORT. Words.lean: the fields of a command register's value, as the command that writes it lays
them out. -/

namespace Sys2Proof.Machine

theorem ctxWord_fields (page count ctx op tag : Nat) (hpage : page < 2 ^ 13) (hcount : count < 2 ^ 8) (hctx : ctx < 2 ^ 10) (hop : op < 2 ^ 4) (htag : tag < 2 ^ 4) :
    bits (ctxWord page count ctx op tag) 44 32 = page ∧
    bits (ctxWord page count ctx op tag) 31 24 = count ∧
    bits (ctxWord page count ctx op tag) 23 14 = ctx ∧
    bits (ctxWord page count ctx op tag) 7 4 = op ∧
    bits (ctxWord page count ctx op tag) 3 0 = tag := by
  simp only [bits, ctxWord, packNat, BitVec.toNat_ofNat, Nat.shiftLeft_eq, Nat.shiftRight_eq_div_pow]
  omega

theorem qWord_fields (page ctx queue op tag : Nat) (hpage : page < 2 ^ 13) (hctx : ctx < 2 ^ 10) (hqueue : queue < 2 ^ 10) (hop : op < 2 ^ 2) (htag : tag < 2 ^ 2) :
    bits (qWord page ctx queue op tag) 44 32 = page ∧
    bits (qWord page ctx queue op tag) 23 14 = ctx ∧
    bits (qWord page ctx queue op tag) 13 4 = queue ∧
    bits (qWord page ctx queue op tag) 3 2 = op ∧
    bits (qWord page ctx queue op tag) 1 0 = tag := by
  simp only [bits, qWord, packNat, BitVec.toNat_ofNat, Nat.shiftLeft_eq, Nat.shiftRight_eq_div_pow]
  omega

theorem sqWord_fields (page prio entry op tag : Nat) (hpage : page < 2 ^ 13) (hprio : prio < 2 ^ 4) (hentry : entry < 2 ^ 12) (hop : op < 2 ^ 4) (htag : tag < 2 ^ 4) :
    bits (sqWord page prio entry op tag) 44 32 = page ∧
    bits (sqWord page prio entry op tag) 31 28 = prio ∧
    bits (sqWord page prio entry op tag) 25 14 = entry ∧
    bits (sqWord page prio entry op tag) 7 4 = op ∧
    bits (sqWord page prio entry op tag) 3 0 = tag := by
  simp only [bits, sqWord, packNat, BitVec.toNat_ofNat, Nat.shiftLeft_eq, Nat.shiftRight_eq_div_pow]
  omega

theorem cmdWord_fields (page op tag : Nat) (hpage : page < 2 ^ 13) (hop : op < 2 ^ 4) (htag : tag < 2 ^ 4) :
    bits (cmdWord page op tag) 44 32 = page ∧
    bits (cmdWord page op tag) 7 4 = op ∧
    bits (cmdWord page op tag) 3 0 = tag := by
  simp only [bits, cmdWord, packNat, BitVec.toNat_ofNat, Nat.shiftLeft_eq, Nat.shiftRight_eq_div_pow]
  omega

theorem memWord_fields (tag : BitVec 4) (op ctx mode page : Nat) (hpage : page < 2 ^ 13) (hctx : ctx < 2 ^ 10) (hmode : mode < 2 ^ 6) (hop : op < 2 ^ 4) :
    bits (memWord tag op ctx mode page) 3 0 = tag.toNat ∧
    bits (memWord tag op ctx mode page) 44 32 = page ∧
    bits (memWord tag op ctx mode page) 23 14 = ctx ∧
    bits (memWord tag op ctx mode page) 13 8 = mode ∧
    bits (memWord tag op ctx mode page) 7 4 = op := by
  have := tag.isLt
  simp only [bits, memWord, packNat, BitVec.toNat_ofNat, Nat.shiftLeft_eq, Nat.shiftRight_eq_div_pow]
  omega

theorem binWord_fields (tag : BitVec 4) (op ctx : Nat) (h : W32) (hctx : ctx < 2 ^ 10) (hop : op < 2 ^ 4) :
    bits (binWord tag op ctx h) 3 0 = tag.toNat ∧
    bits (binWord tag op ctx h) 23 14 = ctx ∧
    bits (binWord tag op ctx h) 7 4 = op ∧
    bits (binWord tag op ctx h) 63 32 = h.toNat := by
  have := tag.isLt
  have := h.isLt
  simp only [bits, binWord, packNat, BitVec.toNat_ofNat, Nat.shiftLeft_eq, Nat.shiftRight_eq_div_pow]
  omega

theorem secWord_fields (tag : BitVec 4) (op ctx inPage outPage : Nat) (houtPage : outPage < 2 ^ 13) (hinPage : inPage < 2 ^ 13) (hctx : ctx < 2 ^ 10) (hop : op < 2 ^ 4) :
    bits (secWord tag op ctx inPage outPage) 3 0 = tag.toNat ∧
    bits (secWord tag op ctx inPage outPage) 63 51 = outPage ∧
    bits (secWord tag op ctx inPage outPage) 44 32 = inPage ∧
    bits (secWord tag op ctx inPage outPage) 23 14 = ctx ∧
    bits (secWord tag op ctx inPage outPage) 7 4 = op := by
  have := tag.isLt
  simp only [bits, secWord, packNat, BitVec.toNat_ofNat, Nat.shiftLeft_eq, Nat.shiftRight_eq_div_pow]
  omega

theorem luWord_fields (tag : BitVec 4) (op ctx base n parts : Nat) (ring : Bool) (page : Nat) (hpage : page < 2 ^ 13) (hparts : parts < 2 ^ 15) (hn : n < 2 ^ 4) (hbase : base < 2 ^ 8) (hctx : ctx < 2 ^ 10) (hop : op < 2 ^ 4) :
    bits (luWord tag op ctx base n parts ring page) 3 0 = tag.toNat ∧
    bits (luWord tag op ctx base n parts ring page) 63 51 = page ∧
    bits (luWord tag op ctx base n parts ring page) 50 36 = parts ∧
    bits (luWord tag op ctx base n parts ring page) 34 31 = n ∧
    bits (luWord tag op ctx base n parts ring page) 30 23 = base ∧
    bits (luWord tag op ctx base n parts ring page) 22 13 = ctx ∧
    bits (luWord tag op ctx base n parts ring page) 7 4 = op := by
  have := tag.isLt
  have : b2n ring < 2 := by cases ring <;> decide
  simp only [bits, luWord, packNat, BitVec.toNat_ofNat, Nat.shiftLeft_eq, Nat.shiftRight_eq_div_pow]
  omega

end Sys2Proof.Machine
end

