-- ==== Sys2Proof/WellFormed.lean ====
section
/-! DEFINITION. WellFormed.lean: which operands the outside can deliver. A command outside these
ranges names a channel, context, core or table entry the device does not have. -/

namespace Sys2Proof

/-- A split of the device: 48 cores, 4 core partitions, 16 group places, 4 splits (R172, R183). -/
def SplitRef.wf (s : SplitRef) : Bool := s.core < 48 && s.cpart < 4 && s.place < 16 && s.sid < 4


/-- A raster lane number is one of the 32 of its group (R303, R310). -/
def RasSetup.wf (r : RasSetup) : Bool := r.lanes.all (fun l => l.lane < 32)

/-- Operands of the two sides of an export. -/
def ObjExport.wf : ObjExport → Bool
  | .issue _ pbPage _ _ => decide (pbPage < 8192)
  | .arrive chip grantId tctx _ len _ _ =>
    decide (chip < 8) && decide (grantId < 4096) && decide (tctx < 1024) && decide (len < 2 ^ 40)

def FenceExport.wf : FenceExport → Bool
  | .issue _ pbPage _ _ => decide (pbPage < 8192)
  | .arrive chip grantId tctx fence _ _ _ _ _ =>
    decide (chip < 8) && decide (grantId < 4096) && decide (tctx < 1024) && decide (fence < 16384)

/-- Operands of the ways a grant ends. -/
def Revoke.wf : Revoke → Bool
  | .issue _ grantId _ => decide (grantId < 4096)
  | .proxyGone isFence index => if isFence then decide (index < 16384) else decide (index < 262144)
  | .ended grantId => decide (grantId < 4096)

/-- A ring counter is one of the 256 of a hub (R401). -/
def RingMsg.wf : RingMsg → Bool
  | .join i => decide (i < 256)
  | .joinAck i _ => decide (i < 256)
  | .signal i _ => decide (i < 256)
  | .arrive i _ => decide (i < 256)
  | .wake i _ => decide (i < 256)
  | .release i _ => decide (i < 256)

/-- An error is of storage the device has (Tables 22-1, 22-2, 22-4); a line of DRAM keeps 64 bytes and a MAC of 8
(R294). -/
def ErrSrc.wf : ErrSrc → Bool
  | .corrected unit inst addr _ => decide (unit ≤ 16) && decide (inst < 64) && decide (addr < 1099511627776)
  | .groupArray core _ => decide (core < 48)
  | .localStore core off _ => decide (core < 48) && decide (off < 262144)
  | .l1 core _ addr => decide (core < 48) && decide (addr < 1099511627776)
  | .devMemory addr ctx _ => decide (addr < 1099511627776) && decide (ctx < 1024)
  | .macTamper addr cipher mac => decide (addr < 1099511627776) && cipher.length == 64 && mac.length == 8
  | .portBuffer off _ => decide (off < 33554432)
  | .graphDir ctx gid => decide (ctx < 1024) && decide (gid < 256)
  | .seqEntry i => decide (i < 4096)
  | .ctxEntry ctx => decide (ctx < 1024)
  | .stageImage k => decide (1 ≤ k) && decide (k ≤ 3)
  | .windowTable i => decide (i < 4096)
  | .fenceEntry f => decide (f < 16384)
  | .flitData ctx _ => decide (ctx < 1024)
  | .tradeMem => true
  | .mgmtMem => true
  | .secMem => true
  | .fabricRoute => true

/-- The meaning a mode-register byte carries is one its register has (Table 4-5). -/
def MrFields.fits : MrFields → Nat → Bool
  | .latency _ _ _ _, mr => mr == 1 || mr == 2
  | .mr3 _ _ _ _, mr => mr == 3
  | .mr13 _ _, mr => mr == 13
  | .mr16 _ _ _ _, mr => mr == 16
  | .mr18 _ _ _, mr => mr == 18
  | .mr22 _ _, mr => mr == 22
  | .mr28 _ _ _, mr => mr == 28
  | .stored, mr => !([1, 2, 3, 13, 16, 18, 22, 28].contains mr)

/-- Every operand lies in the range the device has. -/
def Instr.wf : Instr → Bool
  | .porstNRelease _ => true
  | .porstNAssert _ => true
  | .hrstNPulse _ => true
  | .internalReset _ => true
  | .hprstNAssert half => decide (half < 2)
  | .configRead a b => decide (a.length ≤ 131072) && decide (b.length ≤ 131072)
  | .bootDoorbell => true
  | .stageCopied => true
  | .stageVerified => true
  | .dramTrainingDone _ => true
  | .dramZeroingDone => true
  | .act ch bank row => decide (ch < 8) && decide (bank < 16) && decide (row < 131072)
  | .rd ch bank col bl32 => decide (ch < 8) && decide (bank < 16) && decide (col < 64) && (!bl32 || col % 2 == 0)
  | .wr ch bank col bl32 _ data => decide (ch < 8) && decide (bank < 16) && decide (col < 64) && (!bl32 || col % 2 == 0) && data.length == (if bl32 then 64 else 32)
  | .mwr ch bank col bl32 _ data masked => decide (ch < 8) && decide (bank < 16) && decide (col < 64) && (!bl32 || col % 2 == 0) && data.length == (if bl32 then 64 else 32) && masked.length == data.length
  | .pre ch bank => decide (ch < 8) && bank.all (· < 16)
  | .ref ch _ => decide (ch < 8)
  | .mrw ch mr _ f => decide (ch < 8) && decide (mr < 64) && f.fits mr
  | .mrr ch mr => decide (ch < 8) && decide (mr < 64)
  | .sre ch => decide (ch < 8)
  | .srx ch => decide (ch < 8)
  | .pde ch => decide (ch < 8)
  | .pdx ch => decide (ch < 8)
  | .deepSleepEntry ch => decide (ch < 8)
  | .deepSleepExit ch => decide (ch < 8)
  | .cas ch _ => decide (ch < 8)
  | .mpc ch _ => decide (ch < 8)
  | .wff ch data => decide (ch < 8) && data.length == 32
  | .rff ch => decide (ch < 8)
  | .rdc ch => decide (ch < 8)
  | .nop ch _ => decide (ch < 8)
  | .rateErr ch => decide (ch < 8)
  | .noClock ch => decide (ch < 8)
  | .tableWrite off data masked => decide (off + data.length ≤ 65536) && masked.length == data.length
  | .invalidationWrite _ _ => true
  | .wtCommitEnd => true
  | .snapshotSwap _ => true
  | .shadowCapture view _ => view.all (· < 1024)
  | .registerWrite view _ _ _ => view.all (· < 1024)
  | .heldWriteApply view _ => view.all (· < 1024)
  | .doorbell page wctx queue _ _ => decide (page < 8388608) && decide (wctx < 1024) && decide (queue < 1024)
  | .fenceWrite page wctx fence _ _ => decide (page < 8388608) && decide (wctx < 1024) && decide (fence < 16384)
  | .queueBind queue => decide (queue < 1024)
  | .slotSample slot => decide (slot < 32)
  | .slotFetch slot => decide (slot < 32)
  | .drainPassEnd slot => decide (slot < 32)
  | .commandStart _ => true
  | .waitTimeout _ => true
  | .ctxCreate _ ctx pbPage => decide (ctx < 1024) && decide (pbPage < 8192)
  | .ctxTeardown _ ctx => decide (ctx < 1024)
  | .teardownStepEnd ctx => decide (ctx < 1024)
  | .ctxZeroingDone ctx => decide (ctx < 1024)
  | .ctxBatch _ ctx pbPage count => decide (ctx < 1024) && decide (pbPage < 8192) && decide (count < 256)
  | .objZeroingDone index => decide (index < 262144)
  | .qCreate _ ctx queue pbPage => decide (ctx < 1024) && decide (queue < 1024) && decide (pbPage < 8192)
  | .qDestroy _ ctx queue => decide (ctx < 1024) && decide (queue < 1024)
  | .launchGraph _ => true
  | .registerGraph _ => true
  | .destroyGraph _ => true
  | .armGraph _ => true
  | .disarmGraph _ => true
  | .nopCommand _ => true
  | .triggeredLaunch ctx gid => decide (ctx < 1024) && decide (gid < 256)
  | .instanceStart _ => true
  | .waitNodeTimeout _ node => decide (node < 4096)
  | .nodeStart _ node => decide (node < 4096)
  | .nodeComplete _ node => decide (node < 4096)
  | .preemption _ node wgIdx core => decide (node < 4096) && decide (wgIdx < 4294967296) && decide (core < 48)
  | .stateSaveDone wg => decide (wg < 4294967296)
  | .restore wg core => decide (wg < 4294967296) && decide (core < 48)
  | .workgroupPlace _ node wgIdx core ras => decide (node < 4096) && decide (wgIdx < 4294967296) && decide (core < 48) && ras.all RasSetup.wf
  | .monAdd _ pbPage => decide (pbPage < 8192)
  | .monRemove _ mon => decide (mon < 64)
  | .galeCheck mon => decide (mon < 64)
  | .join _ pbPage => decide (pbPage < 8192)
  | .leave _ entry => decide (entry < 4096)
  | .pause _ entry => decide (entry < 4096)
  | .resume _ entry => decide (entry < 4096)
  | .setPrio _ entry _ => decide (entry < 4096)
  | .build _ node => decide (node < 4096)
  | .retire _ node => decide (node < 4096)
  | .bra sp _ => sp.wf
  | .exit sp _ => sp.wf
  | .split sp _ => sp.wf
  | .rejoin sp _ => sp.wf
  | .yield sp _ => sp.wf
  | .pin sp _ => sp.wf
  | .unpin sp _ => sp.wf
  | .splitPromote core cpart place => decide (core < 48) && decide (cpart < 4) && decide (place < 16)
  | .alu sp _ _ _ => sp.wf
  | .cvt sp _ => sp.wf
  | .load sp _ _ => sp.wf
  | .loadComplete _ => true
  | .store sp _ => sp.wf
  | .atomic sp _ _ _ => sp.wf
  | .mma sp _ => sp.wf
  | .mmaComplete core cpart => decide (core < 48) && decide (cpart < 4)
  | .msync sp _ => sp.wf
  | .amov sp _ => sp.wf
  | .keptCopyLanded _ => true
  | .watch sp _ => sp.wf
  | .sig sp _ => sp.wf
  | .bar sp _ => sp.wf
  | .wakeArrive sp => sp.wf
  | .alloc sp _ => sp.wf
  | .allocServed => true
  | .free sp _ => sp.wf
  | .acopy sp _ => sp.wf
  | .copyLanded _ core => decide (core < 48)
  | .commit sp _ => sp.wf
  | .commitWriteEnd wg => decide (wg < 4294967296)
  | .sv sp _ => sp.wf
  | .hubAlloc _ ctx base n parts _ => decide (ctx < 1024) && decide (base < 256) && decide (n < 16) && decide (parts < 32768)
  | .hubFree _ ctx base n => decide (ctx < 1024) && decide (base < 256) && decide (n < 16)
  | .snapshot _ ctx base n pbPage => decide (ctx < 1024) && decide (base < 256) && decide (n < 16) && decide (pbPage < 8192)
  | .hubReset _ ctx base n => decide (ctx < 1024) && decide (base < 256) && decide (n < 16)
  | .clean _ ctx mode pbPage => decide (ctx < 1024) && decide (mode < 4) && decide (pbPage < 8192)
  | .inval _ ctx mode pbPage => decide (ctx < 1024) && decide (mode < 4) && decide (pbPage < 8192)
  | .cleanInval _ ctx mode pbPage => decide (ctx < 1024) && decide (mode < 4) && decide (pbPage < 8192)
  | .maintenanceDone => true
  | .patrolScrub line _ _ => decide (line < 1099511627776)
  | .drawNodeStart _ node => decide (node < 4096)
  | .binBatch part tris _ => decide (part < 8) && decide (tris.length ≤ 256) && tris.all (fun t => decide (t.poly.length ≤ 10))
  | .growWaitExpire part => decide (part < 8)
  | .flushEnd part => decide (part < 8)
  | .tileAssign part core => decide (part < 8) && decide (core < 48)
  | .tileResolve part core => decide (part < 8) && decide (core < 48)
  | .grant _ ctx _ => decide (ctx < 1024)
  | .withdraw _ ctx _ => decide (ctx < 1024)
  | .tex sp _ => sp.wf
  | .tload sp _ => sp.wf
  | .vout sp _ => sp.wf
  | .vin sp _ => sp.wf
  | .fout sp _ => sp.wf
  | .kill sp _ => sp.wf
  | .aread sp _ => sp.wf
  | .oenter sp _ => sp.wf
  | .oexit sp _ => sp.wf
  | .rsv sp _ _ => sp.wf
  | .trace sp _ => sp.wf
  | .bucketRelease core bucket => decide (core < 48) && decide (bucket < 64)
  | .callbackRound _ _ _ cands => cands.all (fun h => h.lane < 32)
  | .hitret sp _ => sp.wf
  | .traceComplete _ _ _ hits => hits.all (fun h => h.lane < 32)
  | .dcPipeWrite pipe _ _ => decide (pipe < 4)
  | .config pipe issuer _ pbPage => decide (pipe < 4) && decide (issuer < 1024) && decide (pbPage < 8192)
  | .flip pipe issuer _ pbPage => decide (pipe < 4) && decide (issuer < 1024) && decide (pbPage < 8192)
  | .lut pipe issuer _ pbPage => decide (pipe < 4) && decide (issuer < 1024) && decide (pbPage < 8192)
  | .sideband pipe issuer _ pbPage _ => decide (pipe < 4) && decide (issuer < 1024) && decide (pbPage < 8192)
  | .linkTrained pipe lanes _ => decide (pipe < 4) && decide (lanes < 5)
  | .leadPoint pipe => decide (pipe < 4)
  | .vblank pipe => decide (pipe < 4)
  | .underrun pipe => decide (pipe < 4)
  | .writeBackDone pipe _ _ => decide (pipe < 4)
  | .hpd pipe _ => decide (pipe < 4)
  | .capStart port issuer _ pbPage => decide (port < 4) && decide (issuer < 1024) && decide (pbPage < 8192)
  | .capStop port issuer _ => decide (port < 4) && decide (issuer < 1024)
  | .frameStart port vc => decide (port < 4) && decide (vc < 16)
  | .linePacket port _ => decide (port < 4)
  | .frameEnd port vc => decide (port < 4) && decide (vc < 16)
  | .audStart issuer _ pbPage => decide (issuer < 1024) && decide (pbPage < 8192)
  | .audStop issuer _ => decide (issuer < 1024)
  | .audioFrame _ => true
  | .outputPeriodStart => true
  | .compressNodeReady _ node => decide (node < 4096)
  | .compressStart engine => decide (engine < 2)
  | .compressEnd engine _ => decide (engine < 2)
  | .attest _ ctx inPage outPage => decide (ctx < 1024) && decide (inPage < 8192) && decide (outPage < 8192)
  | .getId _ ctx outPage => decide (ctx < 1024) && decide (outPage < 8192)
  | .setLoad _ ctx inPage => decide (ctx < 1024) && decide (inPage < 8192)
  | .setDrop _ ctx inPage => decide (ctx < 1024) && decide (inPage < 8192)
  | .weightLoad _ ctx inPage => decide (ctx < 1024) && decide (inPage < 8192)
  | .weightChunk => true
  | .debugChallenge _ ctx outPage => decide (ctx < 1024) && decide (outPage < 8192)
  | .debugUnlock _ ctx inPage => decide (ctx < 1024) && decide (inPage < 8192)
  | .debugTokenTap token => token.length == 8192
  | .tapInstruction _ => true
  | .svnAdvance _ ctx inPage _ _ => decide (ctx < 1024) && decide (inPage < 8192)
  | .killDebug _ ctx inPage _ => decide (ctx < 1024) && decide (inPage < 8192)
  | .linkTraining link _ => decide (link < 4)
  | .retrain link => decide (link < 4)
  | .flitReplay link => decide (link < 4)
  | .ringSet _ pbPage peers => decide (pbPage < 8192) && peers.length == 4
  | .olExportObj e => e.wf
  | .olExportFence e => e.wf
  | .revoke r => r.wf
  | .proxyFenceUpdate fence _ _ _ => decide (fence < 16384)
  | .ringCounterMessage m => m.wf
  | .unreachable chip => decide (chip < 8)
  | .errorDetect e => e.wf
  | .logDrain => true
  | .errRingCfgWrite _ _ => true
  | .errInjectWrite _ _ => true
  | .injectedWrite addr => decide (addr < 1099511627776)
  | .pwrFnWrite fn _ _ => decide (fn < 22)
  | .fnTransitionDone fn => decide (fn < 22)
  | .retainRequest => true
  | .wake => true
  | .retainExitDone => true
  | .pwrLimitWrite _ => true
  | .powerLoopTick => true
  | .powerSample _ => true
  | .thermalThrottle sensor _ => decide (sensor < 24)
  | .tripWarn sensor _ => decide (sensor < 24)
  | .thermtrip sensor _ => decide (sensor < 24)
  | .currentLimit => true
  | .currentLimitRelease => true
  | .voltageWaitEnd => true
  | .regulatorBusFailure => true
  | .clockCorrelation => true
  | .feRestart => true
  | .feReloadDone => true
  | .mgmtRestart => true
  | .secFault => true
  | .thermalRelease sensor _ => decide (sensor < 24)
  | .mgmtRestartDone => true
  | .portBufferZeroed => true
  | .proxySignalForward chip fence holderCtx _ _ => decide (chip < 8) && decide (fence < 16384) && decide (holderCtx < 1024)
  | .remoteAccessRequest grantId _ len _ => decide (grantId < 4096) && decide (len < 1099511627776)

end Sys2Proof
end

