-- ==== Sys2Proof/Tests/Slice0.lean ====
section
/-! SUPPORT. Slice0.lean: ill-formed terms WellFormed refuses, small tests, and for each obligation with hypotheses a
state and operands that meet them together (theorem witness_ and its name, one more per clause). -/

set_option Elab.async false

open Sys2Proof Sys2Proof.Machine

namespace Sys2Proof.Tests

/-! ## Helpers -/

/-- Core 0, core partition 0, place 0, split 0. -/
def sp0 : SplitRef := ⟨0, 0, 0, 0⟩

/-- No instruction word in particular. -/
def w0 : IWord := ⟨0, 0⟩

/-- A blank flash image: erased flash reads as ones. -/
def img0 : List Byte := List.replicate 32 255

/-- An empty line packet. -/
def line0 : CsiLine := { vc := 0, dt := 0, hdrBad := false, crcBad := false, pixels := [] }

/-- An engine outcome of nothing. -/
def out0 : CmpOutcome := { out := [], used := 0, bitbuf := 0, nbits := 0, lens := [] }

/-- A raster lane. -/
def lane0 : RasLane :=
  { lane := 0, x := 0, y := 0, sample := 0, depth := [0], tri := 0, inst := 0, vidx := 0, vars := [], prov := [] }

/-- A lane's result of no hit. -/
def hit0 : RayHit := { lane := 0, hit := false, ovf := false, entry := 0, nodes := 0, tests := 0 }

/-! ## The bits of the table give no row any field -/

theorem test_no_table_word : decodeTableWord 0 0 = none ∧ decodeTableWord 64 1 = none := by decide

/-! ## States -/

/-- A partition of core group 0, eight channels and 8 MiB of stacked store. -/
def part0 : Partition :=
  { idx := 0, auto := false, cls := 0, enc := false, fnGrant := true, coreMask := 0x3F, chMask := 0xFF, ssBase := 0
    ssSize := 16, pipeMask := 15, capMask := 15, aud := true, cmpMask := 3, olShare := 0xFFFF }

/-- A configuration with that one partition. -/
def cfg0 : Cfg :=
  { valid := true, rate0 := 3200, rate1 := 3200, chMask := 0xFF, dmMask := 0xFF
    density := List.replicate 8 1073741824, parts := [part0], slots := [2], debugPolicy := 2, limitW := 100, throttleC := 90
    currentA := 100, hostWritesLimit := true }

/-- A device in READY. -/
def live : State :=
  { State.reset with
    cfg := cfg0, pins := { int3Hold := false, xspiDriven := false }
    boot := { stage := .ready, pbZeroed := true, trained := true, fwDone := 7 }, pwr := { dev := .active } }

/-- The same device before READY, at a stage of boot. -/
def booting (st : Stage) : State := { live with boot := { stage := st, pbZeroed := true }, pwr := {} }

/-- A window table of one entry: aperture page 256 on port-buffer page 256, of a class, for context 1. -/
def window (cls : Nat) : Wt :=
  { table := [(0, { valid := true, ap := 256, pb := 256, npages := 16, cls := cls, ctx := 1 })] }


set_option maxRecDepth 20000

/-! ## Ill-formed commands: one per check of WellFormed -/

theorem test_ill_formed_0 : ([.hprstNAssert 2,
    .act 8 0 0,
    .act 0 16 0,
    .act 0 0 131072,
    .rd 8 0 0 false,
    .rd 0 16 0 false,
    .rd 0 0 64 false,
    .rd 0 0 1 true,
    .wr 8 0 0 false .clean (List.replicate 32 0),
    .wr 0 16 0 false .clean (List.replicate 32 0),
    .wr 0 0 64 false .clean (List.replicate 32 0),
    .wr 0 0 1 true .clean (List.replicate 64 0),
    .wr 0 0 0 false .clean [0],
    .mwr 8 0 0 false .clean (List.replicate 32 0) (List.replicate 32 false),
    .mwr 0 16 0 false .clean (List.replicate 32 0) (List.replicate 32 false),
    .mwr 0 0 64 false .clean (List.replicate 32 0) (List.replicate 32 false),
    .mwr 0 0 1 true .clean (List.replicate 64 0) (List.replicate 64 false),
    .mwr 0 0 0 false .clean [0] [false],
    .mwr 0 0 0 false .clean (List.replicate 32 0) [false],
    .pre 8 none,
    .pre 0 (some 16),
    .ref 8 .allBank,
    .mrw 8 4 0 .stored,
    .mrw 0 64 0 .stored,
    .mrw 0 4 0 (.mr3 0 false false false),
    .mrr 8 0,
    .mrr 0 64,
    .sre 8,
    .srx 8,
    .pde 8,
    .pdx 8,
    .deepSleepEntry 8,
    .deepSleepExit 8,
    .cas 8 .wsWr,
    .mpc 8 .zqStart,
    .wff 8 (List.replicate 32 0),
    .wff 0 [0],
    .rff 8,
    .rdc 8,
    .nop 8 false] : List Instr).all (fun i => !i.wf) = true := by decide

theorem test_ill_formed_1 : ([.rateErr 8,
    .noClock 8,
    .tableWrite 65536 [0] [false],
    .tableWrite 0 [] [false],
    .shadowCapture (some 1024) 0,
    .registerWrite (some 1024) 0 0 0,
    .heldWriteApply (some 1024) 0,
    .doorbell 8388608 0 0 0 0,
    .doorbell 0 1024 0 0 0,
    .doorbell 0 0 1024 0 0,
    .fenceWrite 8388608 0 0 0 0,
    .fenceWrite 0 1024 0 0 0,
    .fenceWrite 0 0 16384 0 0,
    .queueBind 1024,
    .slotSample 32,
    .slotFetch 32,
    .drainPassEnd 32,
    .ctxCreate 0 1024 0,
    .ctxCreate 0 0 8192,
    .ctxTeardown 0 1024,
    .teardownStepEnd 1024,
    .ctxZeroingDone 1024,
    .ctxBatch 0 1024 0 0,
    .ctxBatch 0 0 8192 0,
    .ctxBatch 0 0 0 256,
    .objZeroingDone 262144,
    .qCreate 0 1024 0 0,
    .qCreate 0 0 1024 0,
    .qCreate 0 0 0 8192,
    .qDestroy 0 1024 0,
    .qDestroy 0 0 1024,
    .triggeredLaunch 1024 0,
    .triggeredLaunch 0 256,
    .waitNodeTimeout 0 4096,
    .nodeStart 0 4096,
    .nodeComplete 0 4096,
    .preemption 0 4096 0 0,
    .preemption 0 0 4294967296 0,
    .preemption 0 0 0 48,
    .stateSaveDone 4294967296] : List Instr).all (fun i => !i.wf) = true := by decide

theorem test_ill_formed_2 : ([.restore 4294967296 0,
    .restore 0 48,
    .workgroupPlace 0 4096 0 0 none,
    .workgroupPlace 0 0 4294967296 0 none,
    .workgroupPlace 0 0 0 48 none,
    .workgroupPlace 0 0 0 0 (some ⟨.vertex, 0, [{ lane0 with lane := 32 }]⟩),
    .monAdd 0 8192,
    .monRemove 0 64,
    .galeCheck 64,
    .join 0 8192,
    .leave 0 4096,
    .pause 0 4096,
    .resume 0 4096,
    .setPrio 0 4096 0,
    .build 0 4096,
    .retire 0 4096,
    .bra ({ sp0 with core := 48 }) w0,
    .exit ({ sp0 with core := 48 }) w0,
    .split ({ sp0 with core := 48 }) w0,
    .rejoin ({ sp0 with core := 48 }) w0,
    .yield ({ sp0 with core := 48 }) w0,
    .pin ({ sp0 with core := 48 }) w0,
    .unpin ({ sp0 with core := 48 }) w0,
    .splitPromote 48 0 0,
    .splitPromote 0 4 0,
    .splitPromote 0 0 16,
    .alu ({ sp0 with core := 48 }) .fadd .vector w0,
    .cvt ({ sp0 with core := 48 }) w0,
    .load ({ sp0 with core := 48 }) .vector w0,
    .store ({ sp0 with core := 48 }) w0,
    .atomic ({ sp0 with core := 48 }) .add false w0,
    .mma ({ sp0 with core := 48 }) w0,
    .mmaComplete 48 0,
    .mmaComplete 0 4,
    .msync ({ sp0 with core := 48 }) w0,
    .amov ({ sp0 with core := 48 }) w0,
    .watch ({ sp0 with core := 48 }) w0,
    .sig ({ sp0 with core := 48 }) w0,
    .bar ({ sp0 with core := 48 }) w0,
    .wakeArrive ({ sp0 with core := 48 })] : List Instr).all (fun i => !i.wf) = true := by decide

theorem test_ill_formed_3 : ([.alloc ({ sp0 with core := 48 }) w0,
    .free ({ sp0 with core := 48 }) w0,
    .acopy ({ sp0 with core := 48 }) w0,
    .copyLanded 0 48,
    .commit ({ sp0 with core := 48 }) w0,
    .commitWriteEnd 4294967296,
    .sv ({ sp0 with core := 48 }) w0,
    .hubAlloc 0 1024 0 0 0 false,
    .hubAlloc 0 0 256 0 0 false,
    .hubAlloc 0 0 0 16 0 false,
    .hubAlloc 0 0 0 0 32768 false,
    .hubFree 0 1024 0 0,
    .hubFree 0 0 256 0,
    .hubFree 0 0 0 16,
    .snapshot 0 1024 0 0 0,
    .snapshot 0 0 256 0 0,
    .snapshot 0 0 0 16 0,
    .snapshot 0 0 0 0 8192,
    .hubReset 0 1024 0 0,
    .hubReset 0 0 256 0,
    .hubReset 0 0 0 16,
    .clean 0 1024 0 0,
    .clean 0 0 4 0,
    .clean 0 0 0 8192,
    .inval 0 1024 0 0,
    .inval 0 0 4 0,
    .inval 0 0 0 8192,
    .cleanInval 0 1024 0 0,
    .cleanInval 0 0 4 0,
    .cleanInval 0 0 0 8192,
    .patrolScrub 1099511627776 [] [],
    .drawNodeStart 0 4096,
    .binBatch 8 [] 0,
    .binBatch 0 (List.replicate 257 ⟨[]⟩) 0,
    .binBatch 0 [⟨List.replicate 11 (0, 0)⟩] 0,
    .growWaitExpire 8,
    .flushEnd 8,
    .tileAssign 8 0,
    .tileAssign 0 48,
    .tileResolve 8 0] : List Instr).all (fun i => !i.wf) = true := by decide

theorem test_ill_formed_4 : ([.tileResolve 0 48,
    .grant 0 1024 0,
    .withdraw 0 1024 0,
    .tex ({ sp0 with core := 48 }) w0,
    .tload ({ sp0 with core := 48 }) w0,
    .vout ({ sp0 with core := 48 }) w0,
    .vin ({ sp0 with core := 48 }) w0,
    .fout ({ sp0 with core := 48 }) w0,
    .kill ({ sp0 with core := 48 }) w0,
    .aread ({ sp0 with core := 48 }) w0,
    .oenter ({ sp0 with core := 48 }) w0,
    .oexit ({ sp0 with core := 48 }) w0,
    .rsv ({ sp0 with core := 48 }) .vector w0,
    .trace ({ sp0 with core := 48 }) w0,
    .bucketRelease 48 0,
    .bucketRelease 0 64,
    .callbackRound 0 [] [] [{ hit0 with lane := 32 }],
    .hitret ({ sp0 with core := 48 }) w0,
    .traceComplete 0 [] [] [{ hit0 with lane := 32 }],
    .dcPipeWrite 4 0 0,
    .config 4 0 0 0,
    .config 0 1024 0 0,
    .config 0 0 0 8192,
    .flip 4 0 0 0,
    .flip 0 1024 0 0,
    .flip 0 0 0 8192,
    .lut 4 0 0 0,
    .lut 0 1024 0 0,
    .lut 0 0 0 8192,
    .sideband 4 0 0 0 ⟨0, []⟩,
    .sideband 0 1024 0 0 ⟨0, []⟩,
    .sideband 0 0 0 8192 ⟨0, []⟩,
    .linkTrained 4 0 0,
    .linkTrained 0 5 0,
    .leadPoint 4,
    .vblank 4,
    .underrun 4,
    .writeBackDone 4 0 false,
    .hpd 4 false,
    .capStart 4 0 0 0] : List Instr).all (fun i => !i.wf) = true := by decide

theorem test_ill_formed_5 : ([.capStart 0 1024 0 0,
    .capStart 0 0 0 8192,
    .capStop 4 0 0,
    .capStop 0 1024 0,
    .frameStart 4 0,
    .frameStart 0 16,
    .linePacket 4 line0,
    .frameEnd 4 0,
    .frameEnd 0 16,
    .audStart 1024 0 0,
    .audStart 0 0 8192,
    .audStop 1024 0,
    .compressNodeReady 0 4096,
    .compressStart 2,
    .compressEnd 2 out0,
    .attest 0 1024 0 0,
    .attest 0 0 8192 0,
    .attest 0 0 0 8192,
    .getId 0 1024 0,
    .getId 0 0 8192,
    .setLoad 0 1024 0,
    .setLoad 0 0 8192,
    .setDrop 0 1024 0,
    .setDrop 0 0 8192,
    .weightLoad 0 1024 0,
    .weightLoad 0 0 8192,
    .debugChallenge 0 1024 0,
    .debugChallenge 0 0 8192,
    .debugUnlock 0 1024 0,
    .debugUnlock 0 0 8192,
    .debugTokenTap [0],
    .svnAdvance 0 1024 0 false none,
    .svnAdvance 0 0 8192 false none,
    .killDebug 0 1024 0 false,
    .killDebug 0 0 8192 false,
    .linkTraining 4 0,
    .retrain 4,
    .flitReplay 4,
    .ringSet 0 8192 [none, none, none, none],
    .ringSet 0 0 []] : List Instr).all (fun i => !i.wf) = true := by decide

theorem test_ill_formed_6 : ([.proxyFenceUpdate 16384 0 false false,
    .unreachable 8,
    .injectedWrite 1099511627776,
    .pwrFnWrite 22 false false,
    .fnTransitionDone 22,
    .thermalThrottle 24 0,
    .tripWarn 24 0,
    .thermtrip 24 0,
    .thermalRelease 24 0,
    .proxySignalForward 8 0 0 0 false,
    .proxySignalForward 0 16384 0 0 false,
    .proxySignalForward 0 0 1024 0 false,
    .remoteAccessRequest 4096 0 0 none,
    .remoteAccessRequest 0 0 1099511627776 none,
    .olExportObj (.issue 0 8192 true true),
    .olExportObj (.arrive 8 0 0 0 0 true true),
    .olExportObj (.arrive 0 4096 0 0 0 true true),
    .olExportObj (.arrive 0 0 1024 0 0 true true),
    .olExportObj (.arrive 0 0 0 0 1099511627776 true true),
    .olExportFence (.issue 0 8192 true true),
    .olExportFence (.arrive 8 0 0 0 0 false false true true),
    .olExportFence (.arrive 0 4096 0 0 0 false false true true),
    .olExportFence (.arrive 0 0 1024 0 0 false false true true),
    .olExportFence (.arrive 0 0 0 16384 0 false false true true),
    .revoke (.issue 0 4096 false),
    .revoke (.proxyGone true 16384),
    .revoke (.proxyGone false 262144),
    .revoke (.ended 4096),
    .ringCounterMessage (.join 256),
    .ringCounterMessage (.joinAck 256 true),
    .ringCounterMessage (.signal 256 0),
    .ringCounterMessage (.arrive 256 0),
    .ringCounterMessage (.wake 256 0),
    .ringCounterMessage (.release 256 0),
    .errorDetect (.corrected 17 0 0 0),
    .errorDetect (.corrected 0 64 0 0),
    .errorDetect (.corrected 0 0 1099511627776 0),
    .errorDetect (.groupArray 48 0),
    .errorDetect (.localStore 48 0 0),
    .errorDetect (.localStore 0 262144 0)] : List Instr).all (fun i => !i.wf) = true := by decide

theorem test_ill_formed_7 : ([.errorDetect (.l1 48 false 0),
    .errorDetect (.l1 0 false 1099511627776),
    .errorDetect (.devMemory 1099511627776 0 false),
    .errorDetect (.devMemory 0 1024 false),
    .errorDetect (.macTamper 1099511627776 (List.replicate 64 0) (List.replicate 8 0)),
    .errorDetect (.macTamper 0 [] (List.replicate 8 0)),
    .errorDetect (.macTamper 0 (List.replicate 64 0) []),
    .errorDetect (.portBuffer 33554432 true),
    .errorDetect (.graphDir 1024 0),
    .errorDetect (.graphDir 0 256),
    .errorDetect (.seqEntry 4096),
    .errorDetect (.ctxEntry 1024),
    .errorDetect (.stageImage 0),
    .errorDetect (.stageImage 4),
    .errorDetect (.windowTable 4096),
    .errorDetect (.fenceEntry 16384),
    .errorDetect (.flitData 1024 0)] : List Instr).all (fun i => !i.wf) = true := by decide

theorem test_ill_formed_split : SplitRef.wf { sp0 with cpart := 4 } = false ∧ SplitRef.wf { sp0 with place := 16 } = false ∧
    SplitRef.wf { sp0 with sid := 4 } = false := by decide

theorem test_ill_formed_image : (Instr.configRead (List.replicate 131073 0) []).wf = false ∧
    (Instr.configRead [] (List.replicate 131073 0)).wf = false := by
  constructor <;> (unfold Instr.wf; simp only [List.length_replicate]; decide)

theorem test_ill_formed_fields : MrFields.fits (.latency 0 0 0 false) 3 = false ∧ MrFields.fits (.mr13 false false) 12 = false ∧
    MrFields.fits (.mr16 false false false false) 18 = false ∧ MrFields.fits (.mr18 false false false) 16 = false ∧
    MrFields.fits (.mr22 false false) 28 = false ∧ MrFields.fits (.mr28 false false false) 22 = false ∧
    MrFields.fits .stored 1 = false := by decide

theorem test_well_formed_0 : ([.hprstNAssert 0,
    .act 0 0 0,
    .rd 0 0 0 false,
    .wr 0 0 0 false .clean (List.replicate 32 0),
    .mwr 0 0 0 false .clean (List.replicate 32 0) (List.replicate 32 false),
    .pre 0 none,
    .ref 0 .allBank,
    .mrw 0 4 0 .stored,
    .mrr 0 0,
    .sre 0,
    .srx 0,
    .pde 0,
    .pdx 0,
    .deepSleepEntry 0,
    .deepSleepExit 0,
    .cas 0 .wsWr,
    .mpc 0 .zqStart,
    .wff 0 (List.replicate 32 0),
    .rff 0,
    .rdc 0,
    .nop 0 false,
    .rateErr 0,
    .noClock 0,
    .tableWrite 0 [] [],
    .shadowCapture none 0,
    .registerWrite none 0 0 0,
    .heldWriteApply none 0,
    .doorbell 0 0 0 0 0,
    .fenceWrite 0 0 0 0 0,
    .queueBind 0,
    .slotSample 0,
    .slotFetch 0,
    .drainPassEnd 0,
    .ctxCreate 0 0 0,
    .ctxTeardown 0 0,
    .teardownStepEnd 0,
    .ctxZeroingDone 0,
    .ctxBatch 0 0 0 0,
    .objZeroingDone 0,
    .qCreate 0 0 0 0] : List Instr).all (·.wf) = true := by decide

theorem test_well_formed_1 : ([.qDestroy 0 0 0,
    .triggeredLaunch 0 0,
    .waitNodeTimeout 0 0,
    .nodeStart 0 0,
    .nodeComplete 0 0,
    .preemption 0 0 0 0,
    .stateSaveDone 0,
    .restore 0 0,
    .workgroupPlace 0 0 0 0 none,
    .monAdd 0 0,
    .monRemove 0 0,
    .galeCheck 0,
    .join 0 0,
    .leave 0 0,
    .pause 0 0,
    .resume 0 0,
    .setPrio 0 0 0,
    .build 0 0,
    .retire 0 0,
    .bra sp0 w0,
    .exit sp0 w0,
    .split sp0 w0,
    .rejoin sp0 w0,
    .yield sp0 w0,
    .pin sp0 w0,
    .unpin sp0 w0,
    .splitPromote 0 0 0,
    .alu sp0 .fadd .vector w0,
    .cvt sp0 w0,
    .load sp0 .vector w0,
    .store sp0 w0,
    .atomic sp0 .add false w0,
    .mma sp0 w0,
    .mmaComplete 0 0,
    .msync sp0 w0,
    .amov sp0 w0,
    .watch sp0 w0,
    .sig sp0 w0,
    .bar sp0 w0,
    .wakeArrive sp0] : List Instr).all (·.wf) = true := by decide

theorem test_well_formed_2 : ([.alloc sp0 w0,
    .free sp0 w0,
    .acopy sp0 w0,
    .copyLanded 0 0,
    .commit sp0 w0,
    .commitWriteEnd 0,
    .sv sp0 w0,
    .hubAlloc 0 0 0 0 0 false,
    .hubFree 0 0 0 0,
    .snapshot 0 0 0 0 0,
    .hubReset 0 0 0 0,
    .clean 0 0 0 0,
    .inval 0 0 0 0,
    .cleanInval 0 0 0 0,
    .patrolScrub 0 [] [],
    .drawNodeStart 0 0,
    .binBatch 0 [] 0,
    .growWaitExpire 0,
    .flushEnd 0,
    .tileAssign 0 0,
    .tileResolve 0 0,
    .grant 0 0 0,
    .withdraw 0 0 0,
    .tex sp0 w0,
    .tload sp0 w0,
    .vout sp0 w0,
    .vin sp0 w0,
    .fout sp0 w0,
    .kill sp0 w0,
    .aread sp0 w0,
    .oenter sp0 w0,
    .oexit sp0 w0,
    .rsv sp0 .vector w0,
    .trace sp0 w0,
    .bucketRelease 0 0,
    .callbackRound 0 [] [] [],
    .hitret sp0 w0,
    .traceComplete 0 [] [] [],
    .dcPipeWrite 0 0 0,
    .config 0 0 0 0] : List Instr).all (·.wf) = true := by decide

theorem test_well_formed_3 : ([.flip 0 0 0 0,
    .lut 0 0 0 0,
    .sideband 0 0 0 0 ⟨0, []⟩,
    .linkTrained 0 0 0,
    .leadPoint 0,
    .vblank 0,
    .underrun 0,
    .writeBackDone 0 0 false,
    .hpd 0 false,
    .capStart 0 0 0 0,
    .capStop 0 0 0,
    .frameStart 0 0,
    .linePacket 0 line0,
    .frameEnd 0 0,
    .audStart 0 0 0,
    .audStop 0 0,
    .compressNodeReady 0 0,
    .compressStart 0,
    .compressEnd 0 out0,
    .attest 0 0 0 0,
    .getId 0 0 0,
    .setLoad 0 0 0,
    .setDrop 0 0 0,
    .weightLoad 0 0 0,
    .debugChallenge 0 0 0,
    .debugUnlock 0 0 0,
    .svnAdvance 0 0 0 false none,
    .killDebug 0 0 0 false,
    .linkTraining 0 0,
    .retrain 0,
    .flitReplay 0,
    .ringSet 0 0 [none, none, none, none],
    .proxyFenceUpdate 0 0 false false,
    .unreachable 0,
    .injectedWrite 0,
    .pwrFnWrite 0 false false,
    .fnTransitionDone 0,
    .thermalThrottle 0 0,
    .tripWarn 0 0,
    .thermtrip 0 0] : List Instr).all (·.wf) = true := by decide

theorem test_well_formed_4 : ([.thermalRelease 0 0,
    .proxySignalForward 0 0 0 0 false,
    .remoteAccessRequest 0 0 0 none] : List Instr).all (·.wf) = true := by decide

/-! ## Witnesses: reset and boot -/

theorem witness_OutOfReach : { live with pins := { held := true } }.runs = false ∧
    { live with pins := { porstN := false } }.runs = false ∧ { live with pins := { clocksStopped := true } }.runs = false := by
  decide

theorem witness_MemoryCanonical : Canonical { live with pb := [(4096, 1)] } ∧
    ∃ t, step { live with pb := [(4096, 1)] } = .next t := ⟨⟨by decide, by decide, by decide⟩, ⟨_, rfl⟩⟩

theorem witness_ResetPulses : live.runs = true ∧ 38 ≤ 38 ∧ 383 < 384 ∧ 37 < 38 ∧ 384 ≤ 384 := by decide +kernel

theorem witness_StepRunsFront : State.reset.sec.downUntil = none ∧ State.reset.runs = true := by decide +kernel

theorem witness_PowerOnResets : { live with pins := { porstN := false } }.pins.porstN = false ∧
    live.pins.porstN = true := by decide +kernel

theorem witness_HostResets : live.runs = true ∧ live.boot.stage ≠ .cfg ∧
    ((booting .cfg).cfg.valid = true ∧ (booting .cfg).boot.reread = false) ∧ State.reset.boot.stage = .cfg ∧
    State.reset.cfg.valid = false ∧ 384 ≤ 384 ∧ 37 < 38 ∧ (1 : Nat) < 2 ∧ (7 : Nat) / 4 = 1 := by decide +kernel

/-- Record header: type, length, critical. -/
def recHead (typ len : Nat) : List Byte := natBytes (typ + len * 2 ^ 16 + 2 ^ 32) 8

/-- Records of an image: the six needed ones of 16 bytes and the SIGNATURE record, all of zeros. -/
def recs1 : List Byte :=
  [0x10, 0x20, 0x30, 0x60, 0x70, 0x80].flatMap (fun t => recHead t 16 ++ List.replicate 8 0) ++
    recHead 0x7FFF 5272 ++ List.replicate 5264 0

/-- A flash image of those records, of 100 MHz. -/
def img1 : List Byte :=
  natBytes (0x31434654 + 2 ^ 32 + 7 * 2 ^ 48 + 5432 * 2 ^ 64 + 5 * 2 ^ 96 + 8 * 2 ^ 136 + 100 * 2 ^ 144) 64 ++ recs1

/-- The records of that image. -/
def recList : List CfgRecord :=
  [0x10, 0x20, 0x30, 0x60, 0x70, 0x80].map (fun t => ⟨t, 16, true, List.replicate 8 0⟩) ++
    [⟨0x7FFF, 5272, true, List.replicate 5264 0⟩]

set_option maxRecDepth 100000 in
/-- Whether bodies whose layout the manual leaves open are legal, and a signature holds, are constants of Config
(logs 7 and 19): where they are, this image is valid. -/
theorem witness_ConfigurationImage_valid
    (h1 : Config.recBody 0x10 (List.replicate 8 0) = .clock 6400 0 600 600)
    (h2 : Config.recBody 0x20 (List.replicate 8 0) = .hostPort 3200 6400 0xFF 0)
    (h3 : Config.recBody 0x30 (List.replicate 8 0) = .dram 0 [] 1)
    (h6 : Config.recBody 0x60 (List.replicate 8 0) = .dispatch false [])
    (h7 : Config.recBody 0x70 (List.replicate 8 0) = .security 0 false 0)
    (h8 : Config.recBody 0x80 (List.replicate 8 0) = .power 100 90 50 false)
    (k : Config.sha3 (List.replicate 1952 0) = 0)
    (g : Config.sigValid (List.replicate 1952 0) (imgDigest img1) (List.replicate 3309 0) = true) :
    imageErr {} img1 = 0 := by
  have hr : imgRecords img1 = some recList := by decide +kernel
  have hs : sigOk {} img1 recList = true := by
    have e : recList.getLast? = some ⟨0x7FFF, 5272, true, List.replicate 5264 0⟩ := by decide +kernel
    have a : (List.replicate 5264 (0 : Byte)).take 1952 = List.replicate 1952 0 := by decide +kernel
    have b : ((List.replicate 5264 (0 : Byte)).drop 1952).take 3309 = List.replicate 3309 0 := by decide +kernel
    unfold sigOk
    rw [e]
    simp only [Option.any_some, a, b, k, g]
    decide
  have hh : imgHeader img1 = BitVec.ofNat 512
      (0x31434654 + 2 ^ 32 + 7 * 2 ^ 48 + 5432 * 2 ^ 64 + 5 * 2 ^ 96 + 8 * 2 ^ 136 + 100 * 2 ^ 144) := by decide +kernel
  have hc : cfgOf recList = { valid := true, dramRate := 6400, dispMhz := 600, camMhz := 600, rate0 := 3200, rate1 := 6400
                              chMask := 0xFF, limitW := 100, throttleC := 90, currentA := 50, packages := 1 } := by
    simp only [cfgOf, recList, List.map_cons, List.map_nil, List.cons_append, List.nil_append, List.foldl_cons,
      List.foldl_nil, cfgAdd, h1, h2, h3, h6, h7, h8, bodyAdd]
    decide +kernel
  have ho : recList.all (recordOk {}) = true := by
    simp only [recList, List.map_cons, List.map_nil, List.cons_append, List.nil_append, List.all_cons, List.all_nil,
      recordOk, h1, h2, h3, h6, h7, h8]
    decide +kernel
  unfold imageErr
  rw [hr]
  simp only [hs, recordsOk, hc, ho, hh]
  decide +kernel

theorem witness_ConfigurationImage : State.reset.runs = true ∧ State.reset.boot.stage = .cfg ∧
    State.reset.cfg.valid = false ∧ State.reset.fuses.ok = true ∧ imageErr {} img0 ≠ 0 ∧ imgBlank img0 = true ∧
    imgBlank [] = true ∧ imgBlank (List.replicate 4 0) = false ∧
    ({ ok := false : Fuses }).ok = false ∧ live.boot.stage ≠ .cfg := by decide +kernel

theorem witness_BootStages_memory : (booting .cfg).runs = true ∧ (booting .cfg).boot.stage = .cfg ∧
    (booting .cfg).cfg.valid = true ∧ (booting .cfg).boot.reread = false ∧ hrstLow (booting .cfg) = false ∧
    hrstLow { booting .cfg with pins := { hrstUntil := 1 } } = true ∧ (booting .dram).cfg.fallback = false ∧
    (booting .dram).boot.trained = false ∧ (booting .dram).boot.stage ≠ .ready ∧ (booting .dram).boot.fwDone ≠ 7 ∧
    { (booting .dram).boot with trained := true }.trained = true := by decide +kernel

/-- Boot with a doorbell of a stage, a length and an offset. -/
def rung (st : Stage) (k len off : Nat) : State :=
  { booting st with boot := { stage := st, pbZeroed := true, dbPend := true
                              dbRec := BitVec.ofNat 256 (3 + k * 2 ^ 32 + len * 2 ^ 64 + off * 2 ^ 96) } }

theorem witness_BootStages_doorbell : (rung .awaitM 1 8196 4096).runs = true ∧
    (rung .awaitM 1 8196 4096).boot.pbZeroed = true ∧ (rung .awaitM 1 8196 4096).boot.stage ≠ .halted ∧
    0 = bits (rung .awaitM 1 0 0).boot.dbRec 95 64 ∧ 1 = bits (rung .awaitM 1 0 1).boot.dbRec 127 96 ∧ 1 % 4096 ≠ 0 ∧
    (rung .awaitM 1 8196 4096).boot.dbPend = true ∧ (rung .awaitM 1 8196 4096).boot.cur = none ∧
    1 = bits (rung .awaitM 1 8196 4096).boot.dbRec 39 32 ∧ 8196 = bits (rung .awaitM 1 8196 4096).boot.dbRec 95 64 ∧
    4096 = bits (rung .awaitM 1 8196 4096).boot.dbRec 127 96 ∧ awaited (rung .awaitM 1 8196 4096).boot 1 = true ∧
    0 < 8196 ∧ 8196 ≤ stageMax 1 ∧ 4096 + 8196 ≤ 16777216 ∧ 4096 % 4096 = 0 ∧
    2 = bits (rung .awaitM 2 8196 4096).boot.dbRec 39 32 ∧ awaited (rung .awaitM 2 8196 4096).boot 2 = false := by decide +kernel

/-- A copied stage whose image is empty. -/
def job : BootJob := { seq := 3, stage := 2, off := 0, len := 8196, image := [], copied := true, bad := false }

theorem witness_BootStages_stage : { booting .verifyF with boot := { cur := some { job with copied := false } } }.runs = true ∧
    pbBad (booting .verifyF) (stagingPage * 4096 + job.off) job.len = [] ∧ job.copied = true ∧
    stageErr (booting .verifyF) job ≠ 0 := by decide +kernel

/-- A stage image with the right header, all else zeros. -/
def goodImage (k : Nat) : List Byte :=
  natBytes (0x45475453 + 2 ^ 32 + k * 2 ^ 48 + 8196 * 2 ^ 64 + 4 * 2 ^ 96) 64 ++ List.replicate 8132 0

/-- Where the vendor key's digest is fused and its signature verifies, a stage can pass; both functions are
constants of Config (log 7). -/
theorem witness_BootStages_good (h : Config.sha3 (List.replicate 1952 0) = 0)
    (g : Config.sigValid (List.replicate 1952 0) (stageDigest (goodImage 2)) (List.replicate 3309 0) = true) :
    stageErr (booting .verifyF) { job with image := goodImage 2 } = 0 := by
  have a : slice (goodImage 2) 64 1952 = List.replicate 1952 0 := by decide +kernel
  have b : slice (goodImage 2) 2016 3309 = List.replicate 3309 0 := by decide +kernel
  unfold stageErr
  dsimp only
  rw [if_neg (by decide +kernel), a, b, h, g, if_neg (by decide +kernel), if_neg (by decide +kernel), if_neg (by decide +kernel)]

/-! ## Witnesses: host port and windows -/

/-- Channel 0 trained and ACTIVE with row 0 of bank 0 open, under a window table. -/
def port (c : Chan) (w : Wt) : State := { live with hp := [(0, c)], wt := w }

/-- A trained channel with one open row. -/
def chan0 : Chan := { st := .active, trained0 := true, mr0 := { rl := 20 }, rows := [(0, 32)] }

theorem witness_ChannelRows : (port chan0 {}).runs = true ∧ chActs (port chan0 {}) 0 = true ∧
    tfind (chOf (port chan0 {}) 0).rows 1 = none ∧ tfind (chOf (port chan0 {}) 0).rows 0 = some 32 ∧
    chHears (port chan0 {}) 0 = true ∧ chActs (port {} {}) 0 = false := by decide +kernel

/-- Row 32 of bank 0 covers aperture pages 256 on. -/
theorem witness_HostBursts : (port chan0 (window 1)).runs = true ∧ chActs (port chan0 (window 1)) 0 = true ∧
    tfind (chOf (port chan0 (window 1)) 0).rows 0 = some 32 ∧ rlErr (port chan0 (window 1)) chan0 = false ∧
    (port chan0 (window 1)).boot.pbZeroed = true ∧
    hpWin (port chan0 (window 1)) (apOffset 0 32 0 63 / 4096) =
      .entry { valid := true, ap := 256, pb := 256, npages := 16, cls := 1, ctx := 1 } ∧
    (port chan0 (window 1)).pbPoison = [] ∧ chan0.mr.wecc = false ∧ chan0.mr.dmDis = false ∧
    hpWin (port chan0 {}) (apOffset 0 32 0 63 / 4096) = .unmapped ∧ tfind chan0.rows 15 = none := by decide +kernel

theorem witness_HostBursts_clean (e : WtEntry) : pbBad (port chan0 (window 1)) (e.pbByte 0) 64 = [] := rfl

/-- The same entry as a READ window, over a poisoned word, and with write link ECC on. -/
theorem witness_HostBursts_bad :
    hpWin (port chan0 (window 0)) 256 = .entry { valid := true, ap := 256, pb := 256, npages := 16, cls := 0, ctx := 1 } ∧
    pbBad { port chan0 (window 0) with pbPoison := [131072] } 1048576 32 ≠ [] ∧
    chActs (port { chan0 with mr0 := { rl := 20, wecc := true } } (window 0)) 0 = true ∧
    ({ chan0 with mr0 := { rl := 20, wecc := true } } : Chan).mr.wecc = true ∧
    live.log.used live.log.nextOrd = false := by decide +kernel

theorem witness_ChannelModes : (port {} {}).runs = true ∧ chHears (port {} {}) 0 = true ∧ mrReadOnly 16 = none ∧
    mrTrains (.mr16 true false true false) = true ∧ ({} : Chan).st = .untrained ∧ mrReadOnly 5 = some 0xA7 ∧
    chHears (port { st := .training, cbt := true, fifo := [List.replicate 32 1] } {}) 0 = true ∧
    ({} : Chan).cbt = false ∧ ({} : Chan).fifo = [] := by decide +kernel

theorem witness_ChannelStates : (port chan0 {}).runs = true ∧ chEnabled (port chan0 {}) 7 = true ∧
    chan0.st.live = true ∧ chan0.trained0 = true ∧ ({ st := .deepSleep, back := .active } : Chan).st = .deepSleep ∧
    chEnabled (port { st := .srPowerDown } {}) 0 = true ∧ chEnabled (port { st := .powerDown } {}) 0 = true ∧
    chEnabled (port { st := .selfRefresh } {}) 0 = true := by decide +kernel

/-- A staged entry: two pages of class WRITE for context 1. -/
def entry1 : WtEntry := { valid := true, ap := 300, pb := 300, npages := 2, cls := 1, ctx := 1 }

/-- A table with an entry staged and context 1 ACTIVE. -/
def staging : State := { live with ctxs := [(1, { st := .active })], wt := { staged := [(7, entry1.word)], cnt := 1 } }

theorem witness_WindowTableCommit : staging.runs = true ∧ staging.boot.stage = .ready ∧
    (natBytes 5 16).length = 16 ∧ staging.wt.busy = false ∧ (1 : W32) = staging.wt.gen + 1 ∧
    (1 : BitVec 16) = staging.wt.cnt ∧ tableOk staging (tableApply staging.wt.table staging.wt.staged) = true ∧
    tableApply staging.wt.table staging.wt.staged = [(7, entry1)] ∧ (2 : W32) ≠ staging.wt.gen + 1 ∧
    (0 : BitVec 16) ≠ staging.wt.cnt ∧ ({ busy := true } : Wt).busy = true ∧
    tableOk staging (tableApply staging.wt.table [(7, { entry1 with npages := 0 }.word)]) = false := by decide +kernel

theorem witness_WindowTableCommit_end :
    { live with wt := { busy := true, commit := some ⟨[(0, entry1)], 1, [300], none⟩ } }.runs = true ∧
    ({ busy := true, commit := some ⟨[(0, entry1)], 1, [300], none⟩ } : Wt).waiting = [] := by decide +kernel

theorem witness_SnapshotsAndRegisters_held : Memory.wf live.pb = true ∧
    tfind { live with held := [(slotKey none 0x10, (5, 0))] }.held 1 = some (5, 0) := by decide +kernel

theorem witness_SnapshotsAndRegisters : live.runs = true ∧ snapLive live .management = true ∧
    regAt live none 0x10 = some (35, 0) ∧ clocked live 35 = true ∧ live.boot.stage = .ready ∧
    tfind live.held (slotKey none 0x10) = none ∧
    tfind { live with held := [(1, (5, 0))] }.held 1 = some (5, 0) := by decide +kernel

theorem witness_UnassignedSlots : regAt live none 0x60 = none ∧ regAt live (some 1) 0x100 = none ∧
    regAt live none 0xFFF8 = none := by decide +kernel

/-- Queue 5 of context 1 LIVE under a DOORBELL window. -/
def ringing : State :=
  { live with
    wt := window 2, queues := [(5, { st := .live, ctx := 1 }), (6, { st := .live, ctx := 2 }),
      (7, { st := .destroying, ctx := 1 }), (8, { st := .live, ctx := 1, stopped := true })] }

theorem witness_DoorbellsAndFenceWrites : ringing.runs = true ∧ dbWindow ringing 256 1 5 = true ∧
    (queueOf ringing 5).st = .live ∧ (queueOf ringing 5).ctx = 1 ∧ (queueOf ringing 5).stopped = false ∧
    ringing.pwr.dev = .active ∧ dbWindow ringing 256 1 127 = true ∧ (queueOf ringing 127).st = .free ∧
    dbWindow ringing 256 1 6 = true ∧ (queueOf ringing 6).ctx ≠ 1 ∧ dbWindow ringing 256 1 7 = true ∧
    (queueOf ringing 7).st = .destroying ∧ (queueOf ringing 7).stopped = false ∧ dbWindow ringing 256 1 8 = true ∧
    (queueOf ringing 8).stopped = true ∧ ringing.log.used ringing.log.nextOrd = false := by decide +kernel

/-- Fence 255 of context 1 and fence 0 of context 2 under a FENCE window of context 1. -/
def signalling : State :=
  { live with wt := window 5, fences := [(255, { st := .live, owner := 1, ownerHolds := true, val := 3 }),
      (0, { st := .live, owner := 2, ownerHolds := true })] }

theorem witness_DoorbellsAndFenceWrites_fence : signalling.runs = true ∧ fenceWindow signalling 256 1 255 = true ∧
    fenceSig signalling 1 255 = true ∧ (fenceOf signalling 255).st = .live ∧ (fenceOf signalling 255).remote = none ∧
    fenceWindow signalling 256 1 0 = true ∧ fenceSig signalling 1 0 = false := by decide +kernel

theorem witness_HostFenceWrites : bit (BitVec.ofNat 128 (4 + 2 ^ 64)) 64 = true ∧
    (fenceOf signalling 255).val < BitVec.ofNat 64 (BitVec.ofNat 128 (4 + 2 ^ 64)).toNat ∧
    ∃ t, exec (.fenceWrite 256 1 255 (BitVec.ofNat 128 (4 + 2 ^ 64)) 0) signalling = .next t :=
  ⟨by decide +kernel, by decide +kernel, _, rfl⟩

/-! ## Witnesses: queues, commands, contexts, graphs -/

/-- Context 1 ACTIVE in partition 0 with 1 MiB of DRAM. -/
def ctx1 : Ctx :=
  { st := .active, gen := 1
    segs := [{ valid := true, base := 0, limit := 1048576, policy := 2, arena := false, ex := true, wr := true, rd := true }] }

/-- Windows of context 1: WRITE pages from 256, COMPLETION pages from 512, on the port-buffer pages of the same numbers. -/
def twoWindows : Wt :=
  { table := [(0, { valid := true, ap := 256, pb := 256, npages := 16, cls := 1, ctx := 1 }),
      (1, { valid := true, ap := 512, pb := 512, npages := 4, cls := 3, ctx := 1 })] }

/-- Queue 5 of context 1, rings in those windows. -/
def queue5 : Queue := { st := .live, ctx := 1, sqOff := 16384, sqLog := 4, cqOff := 65536, cqLog := 4 }

/-- A device at work: context 1, queue 5, partition 0 ON. -/
def world : State :=
  { live with ctxs := [(1, ctx1)], wt := twoWindows, queues := [(5, queue5)]
              pwr := { dev := .active, fns := [(0, { en := true, st := .on })] } }

/-- It with queue 5 waiting for a slot. -/
def knocking : State := { world with queues := [(5, { queue5 with latch := true, dTail := 1 })] }

theorem witness_SlotBinding_bind : knocking.runs = true ∧ dispatching knocking = true ∧ queuePart knocking 5 = 0 ∧
    firstWaiting knocking 0 = some 5 ∧ freeSlot knocking 0 = some 0 ∧
    firstWaiting knocking (queuePart knocking 6) ≠ some 6 ∧ queuePart knocking 6 = 0 ∧
    freeSlot { knocking with slots := [(0, { queue := some 8, st := .active }), (1, { queue := some 9, st := .active })] } 0 = none ∧
    idleLongest { knocking with slots := [(0, { queue := some 8, st := .active }), (1, { queue := some 9, st := .active })] } 0 = none ∧
    freeSlot { knocking with slots := [(0, { queue := some 8 }), (1, { queue := some 9, idleOrd := 1 })] } 0 = none ∧
    idleLongest { knocking with slots := [(0, { queue := some 8 }), (1, { queue := some 9, idleOrd := 1 })] } 0 = some 0 := by
  decide +kernel

/-- It with queue 5 in slot 0. -/
def slotted (st : SlotState) (q : Queue) : State :=
  { world with queues := [(5, q)], slots := [(0, { queue := some 5, st := st })] }

theorem witness_SlotBinding_sample : (slotted .idle { queue5 with latch := true, dTail := 16 }).runs = true ∧
    (slotOf (slotted .idle queue5) 0).queue = some 5 ∧
    slotRuns (slotted .idle { queue5 with latch := true, dTail := 16 }) 5 = true ∧
    tailOk { queue5 with latch := true, dTail := 16 } = true ∧
    cqHeadOk { queue5 with latch := true, dTail := 16 } = true ∧ tailOk { queue5 with latch := true, dTail := 17 } = false ∧
    cqHeadOk { queue5 with latch := true, dHead := 1 } = false ∧
    slotRuns (slotted .draining { queue5 with latch := true, dTail := 16 }) 5 = true ∧
    (slotOf (slotted .draining queue5) 0).st = .draining ∧ (slotOf (slotted .draining queue5) 0).next = none ∧
    queue5.latch = false := by decide +kernel

theorem witness_SlotBinding_fetch : (slotOf (slotted .active { queue5 with tail := 1 }) 0).st = .active ∧
    slotRuns (slotted .active { queue5 with tail := 1 }) 5 = true ∧
    mayServe (slotted .active { queue5 with tail := 1 }) 0 = true ∧ nothingToFetch { queue5 with tail := 1 } = false ∧
    (unstarted (slotted .active { queue5 with tail := 1 }) 5).length < 4 ∧ world.pbPoison = [] ∧
    nothingToFetch queue5 = true ∧ mayServe (slotted .active queue5) 0 = true ∧ slotRuns (slotted .active queue5) 5 = true ∧
    apRangeIn (slotted .active { queue5 with tail := 1 }) (16384 * 64) 64 1 1 = true ∧ (ctxOf world 1).st = .active ∧
    (apTake (slotted .active { queue5 with tail := 1 }) (16384 * 64) 64).1 = List.replicate 64 0 ∧
    descOk (slotted .active { queue5 with tail := 1 }) 1 0 = true ∧ dOp 0 = 0 ∧ dWaitEn 0 = false ∧ dSigEn 0 = false := by
  decide +kernel

/-- A descriptor of an operation on a gid. -/
def desc (op gid : Nat) : BitVec 512 := BitVec.ofNat 512 (op + gid * 2 ^ 256)

/-- The world with one command. -/
def commanded (c : Cmd) : State := { world with cmds := [(3, c)] }

/-- A command of queue 5, resolved to registration 1 where it names a graph. -/
def cmdOf (d : BitVec 512) (started : Bool) : Cmd :=
  { queue := 5, ctx := 1, desc := d, ord := 3, s := 0, started := started, graph := some 1 }

/-- A NOP that waits for fence 2 to reach 9, at most 7. -/
def waiting : BitVec 512 := BitVec.ofNat 512 (7 * 2 ^ 48 + 2 ^ 99 + 2 * 2 ^ 114 + 9 * 2 ^ 128)

theorem witness_CommandStartAndEnd : (commanded (cmdOf (desc 0 0) false)).runs = true ∧
    resolveHeld (commanded (cmdOf (desc 0 0) false)) = commanded (cmdOf (desc 0 0) false) ∧
    ready (commanded (cmdOf (desc 0 0) false)) 3 (cmdOf (desc 0 0) false) = true ∧ dWaitEn (desc 0 0) = false ∧
    Memory.wf (commanded (cmdOf (desc 0 0) true)).pb = true ∧ dOp (desc 0 0) = 0 ∧
    dispatching (commanded (cmdOf (desc 0 0) true)) = true ∧ queue5.st = .live ∧
    placeEntry (commanded (cmdOf (desc 0 0) true)) queue5 =
      some { valid := true, ap := 512, pb := 512, npages := 4, cls := 3, ctx := 1 } ∧
    inTurn (commanded (cmdOf (desc 0 0) true)) 3 (cmdOf (desc 0 0) true) = false := by decide +kernel

/-- Nothing waits for a registration there. -/
theorem witness_CommandStartAndEnd_held (d : BitVec 512) : StillHeld (commanded (cmdOf d false)) 3 := by
  intro j x h u
  simp only [commanded, tfind] at h
  split at h
  · cases h; cases u
  · cases h

theorem witness_CommandStartAndEnd_wait : inTurn (commanded (cmdOf waiting false)) 3 (cmdOf waiting false) = true ∧
    dWaitEn waiting = true ∧ dWaitTo waiting ≠ 0 ∧ dWaitFence waiting = 2 ∧
    fenceMet (commanded (cmdOf waiting false)) (dWaitFence waiting) (dWaitVal waiting) = false ∧
    waitMet (commanded (cmdOf waiting false)) (cmdOf waiting false) = false ∧
    waitMet { commanded (cmdOf waiting false) with fences := [(2, { st := .live, val := 9 })] } (cmdOf waiting false) = true ∧
    waitMet { commanded (cmdOf waiting false) with fences := [(2, ({ st := .live, val := 9 } : Fence).abandon)] }
      (cmdOf waiting false) = true ∧ ({ st := .live, val := 9 } : Fence).abandon.abandoned = true := by decide +kernel

/-- A creation block: partition 0, priority 3, one segment of 8 KiB, readable and writable. -/
def ctxBlock : List Byte :=
  natBytes (3 * 2 ^ 4 + 2 ^ 16) 64 ++ natBytes (2 ^ 8 + 2 ^ 9 + 2 ^ 10 + 2097152 * 2 ^ 40 + 2105344 * 2 ^ 80) 16

/-- The world with a block in port-buffer page 256. -/
def blocked (b : List Byte) : State := { world with pb := mwrites [] 1048576 b }

theorem witness_MgmtReady (b : List Byte) : MgmtReady (blocked b) := ⟨rfl, rfl, fun h => DevState.noConfusion h, rfl⟩

theorem witness_FeReady (b : List Byte) : FeReady (blocked b) := ⟨rfl, rfl, rfl⟩

theorem witness_ContextLife_create : (blocked ctxBlock).ctxCmd.busy = false ∧ 1023 < 1024 ∧ 256 < 8192 ∧
    writePage (blocked ctxBlock) 256 none = true ∧ blockLen (blocked ctxBlock) 256 = 80 ∧
    pbBad (blocked ctxBlock) (256 * 4096) 80 = [] ∧
    bits (BitVec.ofNat 512 (leNat ((pbFetch (blocked ctxBlock) (256 * 4096) 80).take 64))) 23 16 = 1 ∧
    bits (BitVec.ofNat 512 (leNat ((pbFetch (blocked ctxBlock) (256 * 4096) 80).take 64))) 10 8 = 0 ∧
    (partRec (blocked ctxBlock) 0).isSome = true ∧ (ctxOf (blocked ctxBlock) 1023).st = .free ∧
    segsOk (blocked ctxBlock) part0 (blockSegs (pbFetch (blocked ctxBlock) (256 * 4096) 80) 1) = true ∧
    writePage (blocked ctxBlock) 255 none = false ∧ (ctxOf (blocked ctxBlock) 1).st ≠ .free := by decide +kernel

/-- Context 1 being torn down. -/
def tearing (step : Nat) : State :=
  { world with ctxs := [(1, { ctx1 with st := .teardown, step := step })]
               fences := [(2, { st := .live, owner := 1, ownerHolds := true })] }

theorem witness_ContextLife_teardown : world.ctxCmd.busy = false ∧ (ctxOf world 1).st = .active ∧
    (ctxOf { world with ctxs := [(1, { ctx1 with st := .lost })] } 1).st = .lost ∧
    (ctxOf world 2).st ≠ .active ∧ (ctxOf world 2).st ≠ .lost ∧
    tfind world.queues 5 = some queue5 ∧ (ctxOf (tearing 1) 1).st = .teardown ∧ (tearing 1).pwr.mgmtRestarting = false ∧
    (ctxOf (tearing 1) 1).step = 1 ∧ (ctxOf (tearing 2) 1).step = 2 ∧ (ctxOf (tearing 3) 1).step = 3 ∧
    (tearing 3).wt.commit = none ∧ (ctxOf (tearing 4) 1).step = 4 ∧ (tearing 4).wt.waiting = [] ∧
    (({ commit := some ⟨[], 1, [], some 1⟩ } : Wt).commit.any (·.teardown == some 1)) = true ∧
    (ctxOf (tearing 5) 1).step = 5 ∧
    (ctxOf { world with ctxs := [(1, { ctx1 with st := .zeroing })] } 1).st = .zeroing ∧
    (ctxOf world 1).st ≠ .zeroing := by decide +kernel

/-- A batch of one CREATE_FENCE entry for fence 9, value 4. -/
def batch1 : List Byte := natBytes (5 + 4 * 2 ^ 64 + 9 * 2 ^ 146) 32

theorem witness_ObjectsAndFences : (blocked batch1).runs = true ∧ writePage (blocked batch1) 256 (some 1) = true ∧
    pbBad (blocked batch1) (256 * 4096) 32 = [] ∧ (ctxOf (blocked batch1) 1).st = .active ∧
    (batchRun 1 [BitVec.ofNat 256 (leNat batch1)] (blocked batch1) 0).1 = 1 ∧
    (batchRun 1 [BitVec.ofNat 256 (leNat batch1)] (blocked batch1) 0).2.1 = true ∧ 1 ≤ 1 ∧ 128 ≤ 128 ∧
    (ctxOf (blocked batch1) 2).st ≠ .active ∧ writePage (blocked batch1) 255 (some 1) = false ∧
    beOp (BitVec.ofNat 256 (leNat batch1)) = 5 ∧
    (fenceOf (blocked batch1) (beFence (BitVec.ofNat 256 (leNat batch1)))).st = .free ∧
    beOp (BitVec.ofNat 256 (6 + 2 * 2 ^ 146)) = 6 ∧ beFence (BitVec.ofNat 256 (6 + 2 * 2 ^ 146)) = 2 ∧
    (fenceOf (tearing 1) 2).st = .live ∧ (fenceOf (tearing 1) 2).owner = 1 ∧ (fenceOf (tearing 1) 2).remote = none ∧ (fenceOf (tearing 1) 2).ownerHolds = true ∧
    (fenceOf { world with fences := [(2, { st := .live, owner := 1, ownerHolds := true, refs := 1 })] } 2).refs ≠ 0 ∧
    tfind { world with objs := [(5, { st := .zeroing })] }.objs 5 = some { st := .zeroing } := by decide +kernel

/-- A queue block: both rings of 16 entries. -/
def queueBlock : List Byte := natBytes (4 * 2 ^ 61 + 16384 * 2 ^ 65 + 4 * 2 ^ 94 + 65536 * 2 ^ 98) 16

theorem witness_QueueCommands : (blocked queueBlock).feCmd.busy = false ∧ (queueOf (blocked queueBlock) 1023).st = .free ∧
    (pbFetch (blocked queueBlock) (256 * 4096) 16) = queueBlock ∧
    bits (BitVec.ofNat 128 (leNat queueBlock)) 64 61 = 4 ∧ bits (BitVec.ofNat 128 (leNat queueBlock)) 97 94 = 4 ∧
    bit (BitVec.ofNat 128 (leNat queueBlock)) 1 = false ∧
    apRangeIn (blocked queueBlock) (16384 * 64) (64 * 2 ^ 4) 1 1 = true ∧
    apRangeIn (blocked queueBlock) (65536 * 32) (32 * 2 ^ 4) 3 1 = true ∧
    (ctxOf (blocked queueBlock) 1).st = .active ∧ writePage (blocked queueBlock) 256 (some 1) = true ∧
    pbBad (blocked queueBlock) (256 * 4096) 16 = [] ∧ freeSlot (blocked queueBlock) 0 = some 0 ∧
    (ctxOf (blocked queueBlock) 2).st ≠ .active ∧
    slotsLack (blocked queueBlock) 0 false = false ∧ slotsLack (blocked queueBlock) 0 true = false ∧ (queueOf world 5).st = .live ∧ (queueOf world 5).ctx = 1 ∧
    world.slots.all (fun e => !(e.2.queue == some 5 && e.2.next == some 5)) = true ∧ (queueOf world 6).st ≠ .live := by decide +kernel

/-- A SIGNAL node of fence 2 with one successor, node 1. -/
def signalNode : BitVec 512 := BitVec.ofNat 512 (6 + 2 ^ 20 + 2 * 2 ^ 192 + 7 * 2 ^ 208)

/-- A KERNEL node of one workgroup of 32 threads, with `npred` predecessors. -/
def kernelNode (npred : Nat) : BitVec 512 :=
  BitVec.ofNat 512 (1 + npred * 2 ^ 8 + 2 ^ 232 + 2 ^ 248 + 2 ^ 264 + 32 * 2 ^ 280)

/-- A WAIT node of fence 2 for value 7, with limit 3. -/
def waitNode : BitVec 512 := BitVec.ofNat 512 (5 + 2 * 2 ^ 192 + 7 * 2 ^ 208 + 3 * 2 ^ 272)

/-- Graph 4 of context 1. -/
def graph4 (ns : List (BitVec 512)) (a : Option Arm) : Graph :=
  { ctx := 1, gid := 4, imgObj := 3, imgBase := 0, paramOff := 0, paramLen := 64, nodes := ns, edges := [1], patches := []
    hdrs := [(1, BitVec.ofNat 512 (8 * 2 ^ 96))], objs := [], fences := [], ranges := [], arm := a, reg := 1
    roots := [0] }

/-- An arming of that graph by fence 2 from value 5. -/
def arming : Arm := { queue := 5, desc := desc 4 4, trig := 2, first := 5, step := 1, target := 5 }

/-- The world with a command, graph 4 and fence 2. -/
def graphed (c : Cmd) (a : Option Arm) (v : W64) : State :=
  { commanded c with graphs := [(graphKey 1 4, graph4 [signalNode, kernelNode 1] a)]
                     fences := [(2, { st := .live, owner := 1, ownerHolds := true, val := v })] }

/-- A graph image of one empty-bodied node of type 0 in object 7. -/
def image : List Byte :=
  natBytes (0x48505247 + 2 ^ 32 + 2 ^ 48 + 64 * 2 ^ 96 + 128 * 2 ^ 128 + 128 * 2 ^ 160 + 128 * 2 ^ 192 + 64 * 2 ^ 224) 64

/-- A REGISTER_GRAPH of gid 4, its image in object 7. -/
def registerCmd : Cmd :=
  { cmdOf (BitVec.ofNat 512 (2 + 4 * 2 ^ 256 + (262144 + 7) * 2 ^ 264)) true with objs := [7], graph := none }

/-- The world with that image registered as an object and a REGISTER_GRAPH of it. -/
def registering : State :=
  { commanded registerCmd with
    objs := [(7, { st := .live, gen := 1, owner := 1, ownerHolds := true, base := 16384, len := 4096, rd := true })]
    mem := { dram := mwrites [] 16384 image } }

/-- The outcome of a registration check: 0 for a graph, else the failed check. -/
def checkCode (r : Except Nat Graph) : Nat := match r with | .ok _ => 0 | .error n => n

theorem witness_GraphCommands_registration_register : registering.runs = true ∧ dispatching registering = true ∧
    registerCmd.started = true ∧ dOp registerCmd.desc = 2 ∧ imageFault registering registerCmd = none ∧
    checkCode (graphCheck registering 3 registerCmd) = 0 ∧
    imageFault world (cmdOf (desc 2 4) true) = none ∧
    checkCode (graphCheck world 3 (cmdOf (desc 2 4) true)) = 1 := by decide +kernel

theorem witness_GraphCommands_registration_destroy : dOp (desc 3 4) = 3 ∧
    dispatching (graphed (cmdOf (desc 3 4) true) none 0) = true ∧
    cmdGraph (graphed (cmdOf (desc 3 4) true) none 0) (cmdOf (desc 3 4) true) =
      some (graph4 [signalNode, kernelNode 1] none) ∧
    tfind (graphed (cmdOf (desc 3 4) true) none 0).graphs (retiredKey 3) = none ∧
    gidBusy (graphed (cmdOf (desc 3 4) true) none 0) 1 4 = false ∧
    gidBusy { graphed (cmdOf (desc 3 4) true) none 0 with
      cmds := [(2, cmdOf (desc 1 4) true), (3, cmdOf (desc 3 4) true)] } 1 4 = true ∧
    thas { commanded (cmdOf (desc 3 4) true) with graphs := [(retiredKey 3, graph4 [signalNode] none)] }.graphs (retiredKey 3) = true ∧
    keyBusy { commanded (cmdOf (desc 3 4) true) with graphs := [(retiredKey 3, graph4 [signalNode] none)] } (retiredKey 3) = false ∧
    thas (commanded (cmdOf (desc 3 4) true)).graphs (retiredKey 3) = false ∧
    cmdGraph (commanded (cmdOf (desc 3 4) true)) (cmdOf (desc 3 4) true) = none := by decide +kernel

theorem witness_GraphCommands_arming_arm : dOp (desc 4 4) = 4 ∧ armedCount (graphed (cmdOf (desc 4 4) true) none 0) < 1024 ∧
    dOp (desc 5 4) = 5 ∧ cmdGraph (graphed (cmdOf (desc 4 4) true) none 0) (cmdOf (desc 4 4) true) =
      some (graph4 [signalNode, kernelNode 1] none) ∧
    cmdGraph (graphed (cmdOf (desc 4 4) true) (some arming) 0) (cmdOf (desc 4 4) true) =
      some (graph4 [signalNode, kernelNode 1] (some arming)) ∧
    cmdGraph (graphed (cmdOf (desc 5 4) true) (some arming) 0) (cmdOf (desc 5 4) true) =
      some (graph4 [signalNode, kernelNode 1] (some arming)) ∧
    cmdGraph (commanded (cmdOf (desc 5 4) true)) (cmdOf (desc 5 4) true) = none := by decide +kernel

/-- Graph 4 armed, its trigger fence at a value. -/
def triggered (v : W64) : State := graphed (cmdOf (desc 0 0) true) (some arming) v

theorem witness_GraphCommands_arming_trigger : (triggered 5).runs = true ∧ dispatching (triggered 5) = true ∧
    tfind (triggered 5).graphs (graphKey 1 4) = some (graph4 [signalNode, kernelNode 1] (some arming)) ∧
    (fenceOf (triggered 5) 2).abandoned = false ∧ arming.target ≤ (fenceOf (triggered 5) 2).val.toNat ∧
    (ctxOf (triggered 5) 1).st = .active ∧ gidBusy (triggered 5) 1 4 = false ∧ walkerRoom (triggered 5) 0 none = true ∧
    fnOn (triggered 5) 0 = true ∧ placeFree queue5 = true ∧ (triggered 5).mem.macBad = [] ∧
    (fenceOf (triggered 4) 2).val.toNat < arming.target := by decide +kernel

theorem witness_GraphCommands_arming_abandoned :
    (fenceOf { triggered 5 with fences := [(2, ({ st := .live, val := 5 } : Fence).abandon)] } 2).abandoned = true ∧
    queue5.st = .live ∧ (placeEntry (triggered 5) queue5).isSome = true := by decide +kernel

/-- A launch of graph 4 from queue 5. -/
def inst4 (ns : Tab NodeRt) (rel : Bool) : Inst :=
  { ctx := 1, gid := 4, key := graphKey 1 4, home := graphKey 1 4, part := 0, queue := 5, desc := desc 1 4, cmd := some 3
    trig := none, s := 0, rank := 3, placed := true, released := rel, nodes := ns, ranges := [], fencePatched := []
    handlePatched := [], fail := none, mon := none, isFb := false, norm := 0, normAt := 0, built := [] }

/-- The world with that launch as instance 8, of a graph with the given nodes. -/
def running (g : List (BitVec 512)) (ns : Tab NodeRt) (rel : Bool) : State :=
  { commanded (cmdOf (desc 1 4) true) with
    graphs := [(graphKey 1 4, graph4 g none)], insts := [(8, inst4 ns rel)], orders := 10
    fences := [(2, { st := .live, owner := 1, ownerHolds := true })] }

/-- A started launch of graph 4 that has no instance yet. -/
def launching : State := graphed (cmdOf (desc 1 4) true) none 0

theorem witness_InstanceLife : dispatching launching = true ∧ coming launching 3 (cmdOf (desc 1 4) true) = true ∧
    startedGraph launching (cmdOf (desc 1 4) true) = some (graphKey 1 4, graph4 [signalNode, kernelNode 1] none) ∧
    instBusy launching (graphKey 1 4) = false ∧ fnOn launching 0 = true ∧
    walkerTurn launching 0 3 (cmdOf (desc 1 4) true) = true ∧ launching.mem.macBad = [] ∧
    graphOf (running [signalNode, kernelNode 1] [] false) (inst4 [] false) = some (graph4 [signalNode, kernelNode 1] none) ∧
    partRuns (running [signalNode, kernelNode 1] [] false) 0 = true ∧
    [signalNode, kernelNode 1].all (fun n => nType n != 5) = true := by decide +kernel

theorem witness_InstanceLife_wait :
    nodeFence (running [waitNode] [] false) (graph4 [waitNode] none) (inst4 [] false) waitNode = some (2, 7) ∧
    dispatching (running [waitNode] [] false) = true ∧ nType waitNode = 5 ∧ nLimit waitNode ≠ 0 ∧
    nodeParamFault (running [waitNode] [] false) (graph4 [waitNode] none) waitNode = none ∧
    (fenceOf (running [waitNode] [] false) 2).abandoned = false ∧ ((inst4 [] false).node 0).st ≠ .done ∧
    fenceMet (running [waitNode] [] false) 2 7 = false ∧ (inst4 [] false).placed = true ∧
    (placeEntry (running [waitNode] [] false) queue5).isSome = true := by decide +kernel

/-- Nodes 0 ready and 1 waiting for it. -/
def atStart : Tab NodeRt := [(0, { ctr := 0, st := .ready }), (1, { ctr := 1, st := .waiting })]

/-- A COPY node of 16 bytes, from object 7 at 0 to object 8 at 32. -/
def copyNode : BitVec 512 :=
  BitVec.ofNat 512 (3 + (262144 + 7) * 2 ^ 64 + (262144 + 8) * 2 ^ 96 + 32 * 2 ^ 232 + 16 * 2 ^ 272)

/-- Graph 4 of that node, ready or running, and a second node; the two objects held. -/
def copying (st : NodeState) : State :=
  { running [copyNode, kernelNode 1] [(0, { ctr := 0, st := st, ended := 1 }), (1, { ctr := 1, st := .waiting })] true with
    objs := [(7, { st := .live, gen := 1, owner := 1, ownerHolds := true, base := 16384, len := 4096, rd := true }),
      (8, { st := .live, gen := 1, owner := 1, ownerHolds := true, base := 20480, len := 4096, wr := true })] }

theorem witness_NodeLife : (running [kernelNode 0, kernelNode 1] atStart true).runs = true ∧
    firstReady (inst4 atStart true) = some 0 ∧ nType (kernelNode 0) = 1 ∧ nType signalNode = 6 ∧ nInd signalNode = false ∧
    nFence signalNode = 2 ∧ nValue signalNode = 7 ∧ (inst4 atStart true).fail = none ∧
    nodeParamFault (running [signalNode, kernelNode 1] atStart true) (graph4 [signalNode, kernelNode 1] none) signalNode = none ∧
    nodeFence (running [signalNode, kernelNode 1] atStart true) (graph4 [signalNode, kernelNode 1] none)
      (inst4 atStart true) signalNode = some (2, 7) ∧
    partRuns (running [signalNode, kernelNode 1] atStart true) 0 = true ∧ nType (8 : BitVec 512) = 8 ∧ world.fly.allocs.length < 64 := by
  decide +kernel

theorem witness_NodeLife_complete :
    ((inst4 [(0, { ctr := 0, st := .running, ended := 1 }), (1, { ctr := 1, st := .waiting })] true).node 0).st = .running ∧
    nodeNeed signalNode ≤ 1 ∧ nType signalNode ≠ 3 ∧ thas atStart 1 = true ∧ 1 ≠ 0 ∧
    ((inst4 atStart true).node 1).st ≠ .done ∧
    0 ∉ succOf [1] signalNode ∧ (succOf [1] signalNode).count 1 = 1 ∧
    succOf [1] (kernelNode 0) = [] ∧
    (inst4 [(0, { ctr := 0, st := .running, ended := 1 })] true).nodes.all (fun r => r.1 == 0 || r.2.st == .done) = true := by
  decide +kernel

theorem witness_NodeLife_copy : nType copyNode = 3 ∧ nEntry copyNode + nCopyLen copyNode ≤ (heldObj (copying .ready) copyNode 0).len ∧
    nCopyDst copyNode + nCopyLen copyNode ≤ (heldObj (copying .ready) copyNode 1).len ∧
    imageHit (copying .ready) ((heldObj (copying .ready) copyNode 1).base + nCopyDst copyNode) (nCopyLen copyNode) = false ∧
    imageHit (copying .running) 20512 16 = false ∧ (heldObj (copying .running) copyNode 1).base + nCopyDst copyNode = 20512 ∧
    nCopyLen copyNode = 16 ∧ (heldObj (copying .running) copyNode 0).remote = none ∧
    (heldObj (copying .running) copyNode 1).remote = none ∧ succOf [1] copyNode = [] ∧
    (copying .running).mem.poison = [] ∧ (copying .running).mem.macBad = [] ∧ dispatching (copying .running) = true := by
  decide +kernel

/-! ## Witnesses: scheduling -/

/-- Two nodes: 0 a KERNEL node running with nothing placed. -/
def toPlace : Tab NodeRt := [(0, { ctr := 0, st := .running })]

/-- A code header of one word, no Lull counter, no accumulator. -/
def header : BitVec 512 := BitVec.ofNat 512 (0x4C4E524B + 2 ^ 32 + 8 * 2 ^ 96)

/-- The world running a graph of one KERNEL node. -/
def placing (n : BitVec 512) (ns : Tab NodeRt) : State :=
  { running [n] ns true with graphs := [(graphKey 1 4, { graph4 [n] none with hdrs := [(0, header)] })] }

/-- That graph. -/
def graphP (n : BitVec 512) : Graph := { graph4 [n] none with hdrs := [(0, header)] }

theorem witness_WorkgroupPlacement : (placing (kernelNode 0) toPlace).runs = true ∧
    tfind (placing (kernelNode 0) toPlace).insts 8 = some (inst4 toPlace true) ∧
    graphOf (placing (kernelNode 0) toPlace) (inst4 toPlace true) = some (graphP (kernelNode 0)) ∧
    tfind toPlace 0 = some { ctr := 0, st := .running } ∧ partRuns (placing (kernelNode 0) toPlace) 0 = true ∧
    (kernelForm (graphP (kernelNode 0)) 0).csize = 1 ∧ wgFind (placing (kernelNode 0) toPlace) 8 0 0 = none ∧
    isNext (placing (kernelNode 0) toPlace) 8 (inst4 toPlace true) (graphP (kernelNode 0)) 0 0 5 = true ∧
    coreIn (placing (kernelNode 0) toPlace) 0 5 = true ∧
    roomOn (placing (kernelNode 0) toPlace) 5 (kernelForm (graphP (kernelNode 0)) 0).need = some (0, 0) ∧
    (kernelForm (graphP (kernelNode 0)) 0).need.groups = 1 := by decide +kernel

/-- A DRAW node. -/
def drawNode : BitVec 512 := 2

/-- A draw record of one triangle, its vertex shader at word 5 and fragment shader at word 9, in the first 2×2 pixels. -/
def draw0 : BitVec 512 :=
  BitVec.ofNat 512 (2 ^ 224 + 3 * 2 ^ 256 + 9 * 2 ^ 288 + 5 * 2 ^ 320 + 2 * 2 ^ 480 + 2 * 2 ^ 496)

/-- A pass of node 0 of 2×2 pixels with that draw, in a state, with core 5 owning its tile and the triangle binned. -/
def pass0 (st : PassState) : Pass :=
  { part := 0, st := st, inst := 8, node := 0, ctx := 1, desc := BitVec.ofNat 1024 (2 + 2 * 2 ^ 16 + 2 ^ 60)
    draws := [draw0], geomAt := 0, poolAt := 0, area := [], wait := 100, spillAt := 0, atts := [], pos := some (0, 0, 0)
    chunks := [4], owners := [(5, 0)], lists := [(0, [0])]
    tris := [{ draw := 0, inst := 0, tri := 0, keys := [0, 1, 2], poly := [(-512, -512), (2048, -512), (-512, 2048)] }] }

/-- The world with that pass. -/
def drawing (st : PassState) : State := { placing drawNode toPlace with passes := [(6, pass0 st)] }

/-- A vertex set-up of one lane. -/
def setupV : RasSetup := { stage := .vertex, draw := 0, lanes := [lane0] }

/-- A fragment set-up of the triangle's one quad. -/
def setupF : RasSetup :=
  { stage := .fragment, draw := 0
    lanes := [lane0, { lane0 with lane := 1, x := 1 }, { lane0 with lane := 2, y := 1 }, { lane0 with lane := 3, x := 1, y := 1 }] }

theorem witness_WorkgroupPlacement_raster : passOf (drawing .binning) 8 0 = some (6, pass0 .binning) ∧
    partRuns (drawing .binning) 0 = true ∧ (roomOn (drawing .binning) 5 rasNeed).isSome = true ∧
    noneAhead (drawing .binning) 8 (inst4 toPlace true) 0 5 = true ∧
    noneAhead (drawing .render) 8 (inst4 toPlace true) 0 5 = true ∧
    setupF.lanes.all (fun l => l.lane < 32) = true ∧ (setupF.lanes.map (·.lane)).Nodup ∧
    vertexOk (drawing .binning) 6 (pass0 .binning) setupV = true ∧ fragmentOk (pass0 .render) 5 setupF = true ∧
    (drawing .render).groups.all (fun e => e.2.wg != (drawing .render).orders) = true := by
  decide +kernel

/-- Every core partition of an empty core has its sixteen places. -/
theorem witness_WorkgroupPlacement_places : PlacesFor (placing (kernelNode 0) toPlace) 5 1 := by
  unfold PlacesFor; decide +kernel

/-- A KERNEL node of a cluster of two workgroups. -/
def pairNode : BitVec 512 := kernelNode 0 + BitVec.ofNat 512 (2 ^ 322 + 2 ^ 232)

theorem witness_WorkgroupPlacement_cluster : (kernelForm (graphP pairNode) 0).csize = 2 ∧
    isNext (placing pairNode toPlace) 8 (inst4 toPlace true) (graphP pairNode) 0 0 4 = true ∧
    coresFor (placing pairNode toPlace) 0 4 2 (kernelForm (graphP pairNode) 0).need = some [4, 5] ∧
    wgFind (placing pairNode toPlace) 8 0 1 = none := by decide +kernel

/-- A placed workgroup of 256 KiB of local store of a lower-ranked instance. -/
def wg4 : Wg :=
  { inst := 9, node := 0, idx := 0, ctx := 1, part := 0, core := 0, cluster := 0, csize := 1, rank := 0, groups := 1
    entry := 64, codeLen := 4096, start := 8, vregs := 64, nAcc := 2, lullCtrs := 2, ctrBase := 0, lsKib := 256, lsBase := 0
    stageKib := 0, commitForm := false, nosplit := false, ord := 0, kills := 0, st := .placed, exited := 0, bar := {}
    cbar := {}, commits := 0, writing := false, committed := false, staged := 0, paramBase := 0, argOff := 0, ras := none
    hubN := 0, hubAt := 0, savedCtrs := [], savedLs := [], savedWatches := [], codeBase := 0, codeObj := 0x10000 }

/-- A KERNEL node that needs 1 KiB of local store. -/
def hungry : BitVec 512 := kernelNode 0 ||| BitVec.ofNat 512 (2 ^ 292)

/-- One that needs all 256 KiB. -/
def wide : BitVec 512 := kernelNode 0 ||| BitVec.ofNat 512 (256 * 2 ^ 292)

/-- A partition of core 0 alone holding that workgroup, and instance 8 of rank 3 waiting. -/
def crowded (w : Wg) : State :=
  { placing hungry toPlace with
    cfg := { cfg0 with parts := [{ part0 with coreMask := 1 }] }, wgs := [(4, w)]
    insts := [(8, inst4 toPlace true), (9, { inst4 toPlace true with rank := 0 })] }

/-- That world at a front-end count. -/
def atCount (s : State) (n : Nat) : State := { s with clk := { s.clk with counts := [(35, BitVec.ofNat 48 n)] } }

/-- The victims found for instance 8's waiting workgroup of a node. -/
def foundFor (s : State) (n : BitVec 512) : List Victim :=
  ((preemptCore s 0 3 (kernelForm (graphP n) 0).need).map (·.2)).getD []

/-- What a pre-emption needs, in terms that can be computed. -/
theorem preempts_of (s : State) (n : BitVec 512) (h : s.runs = true ∧ tfind s.insts 8 = some (inst4 toPlace true) ∧
    graphOf s (inst4 toPlace true) = some (graphP n) ∧
    (readyWgs s 8 (inst4 toPlace true) (graphP n)).contains (0, 0) = true ∧ partRuns s 0 = true ∧
    noPlace s 0 (kernelForm (graphP n) 0).need (kernelForm (graphP n) 0).csize = true ∧ (freeing s 0).length < 4 ∧
    256 ≤ (now35 s - waitsSince s 8 0 0 (inst4 toPlace true)).toNat ∧
    (preemptCore s 0 3 (kernelForm (graphP n) 0).need).map (·.1) = some 0) : Preempts s 8 0 0 0 (foundFor s n) := by
  obtain ⟨h0, h1, h2, h3, h4, h5, h6, h7, h8⟩ := h
  refine ⟨h0, inst4 toPlace true, graphP n, (kernelForm (graphP n) 0).need, (kernelForm (graphP n) 0).csize, h1, h2, ?_, h4, h5, h6,
    .inr h7, ?_⟩
  · unfold waitingNeed; rw [if_pos h3]
  · show preemptCore s 0 3 _ = some (0, foundFor s n)
    unfold foundFor
    cases e : preemptCore s 0 3 (kernelForm (graphP n) 0).need with
    | none => rw [e] at h8; exact absurd h8 (by simp)
    | some v => rw [e] at h8; obtain ⟨c, l⟩ := v; cases h8; rfl

theorem witness_Preempts (b : Bool) :
    Preempts (atCount (crowded { wg4 with commitForm := b }) 256) 8 0 0 0
      (foundFor (atCount (crowded { wg4 with commitForm := b }) 256) hungry) := by
  cases b <;> exact preempts_of _ hungry (by decide +kernel)

theorem witness_PreemptionSaveRestore_victim (b : Bool) :
    (foundFor (atCount (crowded { wg4 with commitForm := b }) 256) hungry).map (fun v => (v.kind, v.wgs, v.tile)) =
      [(if b then 1 else 2, [(4, { wg4 with commitForm := b })], none)] ∧ wg4.writing = false := by
  cases b <;> decide +kernel

/-- A fragment group of a pass on the one core. -/
def droppable : State :=
  atCount { crowded { wg4 with ras := some setupF, lsKib := 256 } with
    passes := [(6, { pass0 .render with inst := 9, owners := [(0, 7)] })] } 256

theorem witness_PreemptionSaveRestore_tile : (foundFor droppable hungry).map (fun v => (v.kind, v.wgs, v.tile)) =
      [(0, [(4, { wg4 with ras := some setupF, lsKib := 256 })], some 6)] ∧
    tfind ({ pass0 .render with inst := 9, owners := [(0, 7)] } : Pass).owners 0 = some 7 := by decide +kernel

theorem witness_Preempts_tile : Preempts droppable 8 0 0 0 (foundFor droppable hungry) :=
  preempts_of _ hungry (by decide +kernel)

theorem witness_PreemptionSaveRestore_wait : (inst4 toPlace true).rank ≠ 16 ∧
    (now35 (atCount (crowded wg4) 255) - waitsSince (atCount (crowded wg4) 255) 8 0 0 (inst4 toPlace true)).toNat < 256 := by
  decide +kernel

/-- Two workgroups of half the core each, one commit-form and one direct: both are stopped. -/
def halves : State :=
  let s := crowded wg4
  atCount { s with wgs := [(4, { wg4 with lsKib := 128, commitForm := true }), (5, { wg4 with idx := 1, cluster := 1, lsKib := 128, lsBase := 128 })]
                   graphs := [(graphKey 1 4, graphP wide)] } 256

theorem witness_Preempts_both : Preempts halves 8 0 0 0 (foundFor halves wide) :=
  preempts_of _ wide (by decide +kernel)

theorem witness_PreemptionSaveRestore_both :
    (foundFor halves wide).map (fun v => (v.kind, v.wgs.map (fun e => (e.1, e.2.core)))) = [(1, [(4, 0)]), (2, [(5, 0)])] ∧
    (foundFor halves wide).any (fun u => u.kind == 2 && !u.wgs.isEmpty) = true := by decide +kernel

theorem witness_PreemptionSaveRestore_save : (crowded { wg4 with st := .stopping }).runs = true ∧
    (clusterOf (crowded { wg4 with st := .stopping }) { wg4 with st := .stopping }).filter (·.2.st != .ended) =
      [(4, { wg4 with st := .stopping })] ∧ wgBusy (crowded { wg4 with st := .stopping }) 4 = false ∧
    (crowded { wg4 with st := .stopping }).fly.traces.all (·.2.wg != 4) = true := by decide +kernel

/-- A saved workgroup of instance 8, and its world. -/
def saved : Wg := { wg4 with inst := 8, st := .saved, savedCtrs := [5, 6], savedLs := List.replicate 4 1 }

theorem witness_PreemptionSaveRestore_restore : saved.st = .saved ∧ partRuns (crowded saved) 0 = true ∧
    isNext (crowded saved) 8 (inst4 toPlace true) (graphP hungry) 0 0 0 = true ∧ saved.csize = 1 ∧
    saved.exited < saved.groups * 32 ∧
    saved.savedWatches = [] ∧ (clusterOf (crowded saved) saved).filter (·.2.st == .saved) = [(4, saved)] ∧
    coreIn (crowded saved) 0 0 = true ∧ roomOn (crowded saved) 0 saved.need = some (0, 0) ∧
    1 < saved.savedCtrs.length := by decide +kernel

/-- A commit-form KERNEL node. -/
def commitNode : BitVec 512 := kernelNode 0 ||| BitVec.ofNat 512 (2 ^ 324)

/-- Context 1 in a real-time partition with graphs 4 and 5. -/
def monitored (b : List Byte) : State :=
  { blocked b with
    cfg := { cfg0 with parts := [{ part0 with cls := 1 }] }
    graphs := [(graphKey 1 4, graph4 [commitNode] none), (graphKey 1 5, { graph4 [commitNode] none with gid := 5 })] }

/-- A monitor block: context 1, primary 4, fallback 5, deadline 1000, guard 100, windows 500 and 50. -/
def monBlock (fb : Nat) : List Byte :=
  natBytes (1 + 4 * 2 ^ 12 + fb * 2 ^ 20 + 1000 * 2 ^ 128 + 100 * 2 ^ 160 + 500 * 2 ^ 192 + 50 * 2 ^ 224) 32

theorem witness_GaleMonitor_add : (monitored (monBlock 5)).runs = true ∧ (monitored (monBlock 5)).gmCmd.busy = false ∧
    writePage (monitored (monBlock 5)) 256 none = true ∧ pbBad (monitored (monBlock 5)) (256 * 4096) 32 = [] ∧
    bits (BitVec.ofNat 256 (pbBlock (monitored (monBlock 5)) 256 32)) 9 0 = 1 ∧
    bits (BitVec.ofNat 256 (pbBlock (monitored (monBlock 5)) 256 32)) 19 12 = 4 ∧
    bits (BitVec.ofNat 256 (pbBlock (monitored (monBlock 5)) 256 32)) 191 160 <
      bits (BitVec.ofNat 256 (pbBlock (monitored (monBlock 5)) 256 32)) 159 128 ∧
    zeroField (BitVec.ofNat 256 (pbBlock (monitored (monBlock 5)) 256 32)) 127 28 = true ∧
    zeroField (BitVec.ofNat 256 (pbBlock (monitored (monBlock 5)) 256 32)) 11 10 = true ∧
    tfirst (monitored (monBlock 5)).mons (fun _ => false) 0 64 = some 0 ∧ monGraphsOk (monitored (monBlock 5)) 1 4 5 = true ∧
    monGraphsOk (monitored (monBlock 4)) 1 4 4 = false := by decide +kernel

/-- A monitor, with its instance started at count 0 and the front end at a later count. -/
def mon0 : Mon :=
  { ctx := 1, gid := 4, fb := 5, deadline := 1000, guard := 100, win := List.replicate 8 500
    winFb := List.replicate 8 (50 : Nat) }

/-- The monitored world at a front-end count, with windows of the fallback. -/
def checked (now : Nat) (o : Mon) : State :=
  { monitored [] with
    clk := { counts := [(35, BitVec.ofNat 48 now)] }, mons := [(0, o)]
    insts := [(8, { inst4 [] true with mon := some 0, norm := 0, normAt := BitVec.ofNat 48 now })] }

theorem witness_GaleMonitor_remove : thas (checked 0 mon0).mons 0 = true ∧
    (checked 0 mon0).insts.any (·.2.mon == some 0) = true ∧ (monitored []).insts.any (·.2.mon == some 63) = false := by
  decide +kernel

theorem witness_GaleMonitor_check : monInst (checked 400 mon0) 0 =
      some (8, { inst4 [] true with mon := some 0, norm := 0, normAt := 400 }) ∧
    dispatching (checked 400 mon0) = true ∧ partStep (checked 400 mon0) 0 = 0 ∧ now35 (checked 400 mon0) = 400 ∧
    winMax mon0.win = 500 ∧ winMax mon0.winFb = 50 ∧
    400 * 16 + 500 * 16 = (mon0.deadline - mon0.guard) * 16 ∧ now35 (checked 401 mon0) = 401 ∧
    500 * 16 ≤ winMax { mon0 with winFb := List.replicate 8 500 }.winFb * 16 + 600 * 16 ∧
    winMax { mon0 with win := List.replicate 8 900, winFb := List.replicate 8 50 }.winFb * 16 + 600 * 16 < 900 * 16 ∧
    (tfind (checked 401 mon0).graphs (graphKey 1 5)).isSome = true := by decide +kernel

/-- A sequence block: context 1, KV object 7, sequence 77, maximum length 20, length 3. -/
def seqBlock : List Byte :=
  natBytes (2 ^ 54 + 3 * 2 ^ 88 + 20 * 2 ^ 108 + 77 * 2 ^ 128 + (262144 + 7) * 2 ^ 160) 32

/-- Object 7 of context 1. -/
def obj7 : Obj :=
  { st := .live, gen := 1, owner := 1, ownerHolds := true, base := 65536, len := 4096, rd := true, wr := true, policy := 2 }

theorem witness_SequenceCommands_join : pbBlock (blocked seqBlock) 256 32 = leNat seqBlock ∧
    (resolve { blocked seqBlock with objs := [(7, obj7)] } 1 (262144 + 7) true true false).map (·.base) = some 65536 ∧
    (resolve { blocked seqBlock with objs := [(7, obj7)] } 1 (262144 + 7) true true false).map (·.remote) = some false ∧
    bits (BitVec.ofNat 256 (leNat seqBlock)) 63 54 = 1 ∧ bits (BitVec.ofNat 256 (leNat seqBlock)) 191 160 = 262144 + 7 ∧
    bits (BitVec.ofNat 256 (leNat seqBlock)) 107 88 < bits (BitVec.ofNat 256 (leNat seqBlock)) 127 108 ∧
    zeroField (BitVec.ofNat 256 (leNat seqBlock)) 255 192 = true ∧ zeroField (BitVec.ofNat 256 (leNat seqBlock)) 75 64 = true ∧
    zeroField (BitVec.ofNat 256 (leNat seqBlock)) 53 0 = true ∧ seqRoom (blocked seqBlock) 0 = true ∧
    tfirst (blocked seqBlock).seqs (fun e => e.st == .free) 0 4096 = some 0 := by decide +kernel

/-- Entry 12 of model 2 in a state. -/
def seq12 (st : SeqState) : SeqEnt := { st := st, ctx := 1, model := 2, len := 3, maxLen := 20, kv := 262151, kvBase := 65536 }

theorem witness_SequenceCommands : ({ world with seqs := [(12, seq12 .inStep)] } : State).sqCmd.busy = false ∧
    tfind ({ world with seqs := [(12, seq12 .inStep)] } : State).seqs 12 = some (seq12 .inStep) ∧
    (seq12 .ready).st ≠ .free ∧ (seq12 .ready).st ≠ .leaving ∧ (seq12 .paused).st ≠ .inStep ∧
    tfind world.seqs 4095 = none := by decide +kernel

/-- A STEP node on object 7, model 2, up to 4 items. -/
def stepNode (retire : Nat) : BitVec 512 :=
  BitVec.ofNat 512 (7 + (262144 + 7) * 2 ^ 64 + 2 * 2 ^ 344 + 3 * 2 ^ 332 + retire * 2 ^ 327)

/-- A batch with entry 12. -/
def stepping (n : BitVec 512) (st : SeqState) : State :=
  { running [n] toPlace true with
    objs := [(7, obj7)], seqs := [(12, seq12 st)]
    insts := [(8, { inst4 toPlace true with built := [(262144 + 7, 12)] })] }

theorem witness_BatchedSteps : (stepping (stepNode 0) .ready).runs = true ∧ nType (stepNode 0) = 7 ∧
    nRetire (stepNode 0) = false ∧ ((inst4 toPlace true).node 0).st = .running ∧ ((inst4 toPlace true).node 0).ended = 0 ∧
    thas toPlace 0 = true ∧ dispatching (stepping (stepNode 0) .ready) = true ∧
    tabWf (stepping (stepNode 0) .ready).seqs = true ∧
    (taken (qualify (stepping (stepNode 0) .ready) 1 (stepNode 0)) (stepNode 0)).map (·.1) = [12] ∧
    (stepping (stepNode 0) .ready).mem.macBad = [] ∧
    imageHit (stepping (stepNode 0) .ready) (heldObj (stepping (stepNode 0) .ready) (stepNode 0) 0).base 96 = false := by
  decide +kernel

theorem witness_BatchedSteps_retire : nRetire (stepNode 1) = true ∧
    (([(262144 + 7, 12)] : List (Nat × Nat)).filter (fun b => b.1 == nHandle (stepNode 1) 0 &&
      (tfind (stepping (stepNode 1) .inStep).seqs b.2).any (fun e => e.model == nModel (stepNode 1)))).map (·.2) = [12] ∧
    [12].Nodup ∧ (stepping (stepNode 1) .inStep).mem.poison = [] ∧
    imageHit (stepping (stepNode 1) .inStep) (heldObj (stepping (stepNode 1) .inStep) (stepNode 1) 0).base 104 = false := by
  decide +kernel

/-! ## Witnesses: instructions -/

/-- The fields of an instruction's word 0, and word 1. -/
structure Fld where
  op : Nat
  L : Nat := 0
  gp : Nat := 0
  gen : Nat := 0
  gneg : Nat := 0
  ctl : Nat := 0
  kind : Nat := 0
  rm : Nat := 0
  fmt : Nat := 0
  c : Nat := 0
  b : Nat := 0
  a : Nat := 0
  d : Nat := 0
  w1 : Nat := 0

/-- The words they make (Table 10-3). -/
def Fld.iw (f : Fld) : IWord :=
  ⟨BitVec.ofNat 64 (f.op + f.L * 2 ^ 10 + f.gp * 2 ^ 11 + f.gen * 2 ^ 15 + f.gneg * 2 ^ 16 + f.ctl * 2 ^ 17 +
    f.kind * 2 ^ 22 + f.rm * 2 ^ 25 + f.fmt * 2 ^ 28 + f.c * 2 ^ 32 + f.b * 2 ^ 40 + f.a * 2 ^ 48 + f.d * 2 ^ 56),
    BitVec.ofNat 64 f.w1⟩

/-- Two fields to two words, as the spec places them. -/
theorem test_word_fields : wOp (Fld.iw { op := 0x240 }) = 0x240 ∧ wClass (Fld.iw { op := 0x240 }) = 9 ∧
    wD (Fld.iw { op := 0, d := 0xAB }) = 0xAB ∧ wA (Fld.iw { op := 0, a := 0xCD }) = 0xCD ∧
    wB (Fld.iw { op := 0, b := 0x12 }) = 0x12 ∧ wC (Fld.iw { op := 0, c := 0x34 }) = 0x34 ∧
    wCtl (Fld.iw { op := 0, ctl := 0x1F }) = 0x1F ∧ wGp (Fld.iw { op := 0, gp := 9 }) = 9 ∧
    wFmt (Fld.iw { op := 0, fmt := 0xA }) = 0xA ∧ wRm (Fld.iw { op := 0, rm := 5 }) = 5 ∧
    wKind (Fld.iw { op := 0, kind := 2 }) 1 = true ∧ wGneg (Fld.iw { op := 0, gneg := 1 }) = true ∧
    wImm (Fld.iw { op := 0, L := 1, w1 := 0x89ABCDEF01234567 }) = 0x01234567 := by decide +kernel

/-- A READY split of all lanes at word 8. -/
def x0 : Split := { st := .ready, pc := 8, mask := 0xFFFFFFFF }

/-- A group of workgroup 4 with that split. -/
def g0 : Group := { wg := 4, gidx := 0, splits := [(0, x0)] }

/-- A workgroup of instance 8 on core 0. -/
def wgA : Wg := { wg4 with inst := 8, lsKib := 16 }

/-- Memory with an instruction's words at word 8 of the code. -/
def codeMem (iw : IWord) : List Host.Cell := mwrites [] 64 (natBytes iw.w0.toNat 8 ++ natBytes iw.w1.toNat 8)

/-- The world with that group and a workgroup, that memory, and its line in the core's L1. -/
def atWork (iw : IWord) (w : Wg) (g : Group) : State :=
  { running [kernelNode 0] [(0, { ctr := 0, st := .running, placed := 1 })] true with
    wgs := [(4, w)], groups := [(0, g)], mem := { dram := codeMem iw }
    cores := [(0, { l1i := [(0, { tag := 0, data := mreads (codeMem iw) 0 128 })] })] }

/-- The issue of a word by split 0. -/
def issOf (w : Wg) (g : Group) (x : Split) (iw : IWord) : Iss :=
  { sp := sp0, key := 0, g := g, x := x, id := 4, w := w, iw := iw }

/-- The conditions of `Issues` beside the place. -/
def issuesB (s : State) (w : IWord) (f : Form1) (i : Iss) : Bool :=
  s.runs && (i.x.st == .ready && (i.w.st == .placed && ((mergePair i.g).isNone &&
  (preferred (mergeCycle s i.key) i.sp.core i.sp.cpart == some (spNum i.sp) &&
  (decide (8 * (i.x.pc.toNat + iLen w) ≤ i.w.codeObj) && (fetched s i.sp.core i.w i.x.pc.toNat w &&
  (((fetchLines i.w i.x.pc.toNat w).findSome? (fetchFault s i.sp.core)).isNone && (opListed (wOp w) && (wordOk i f &&
  i.x.cb == none)))))))))

theorem issues_of {s : State} {sp : SplitRef} {w : IWord} {f : Form1} {i : Iss} (h : locate s sp w = some i)
    (hp : i.sp = sp) (hb : issuesB s w f i = true) : Issues s sp w f i := by
  subst hp
  simp only [issuesB, Bool.and_eq_true, beq_iff_eq, Option.isNone_iff_eq_none, decide_eq_true_eq] at hb
  obtain ⟨h1, h2, h3, h4, h5, h6, h7, h8, h9, h10, h11⟩ := hb
  exact ⟨h1, h, h2, h3, h4, .inl h5, h6, h7, h8, h9, h10, by simp [inRound, h11], by simp [h11]⟩

/-- A group whose predicate 1 holds in some lanes. -/
def gp1 (m : W32) : Group := { g0 with preg := [(1, m)] }

/-- A branch under predicate 1 to word 20, reconverging at 30. -/
def braW : IWord := Fld.iw { op := 0x200, L := 1, gp := 1, gen := 1, w1 := 20 + 30 * 2 ^ 24 }

/-- A counted loop's branch back to word 8. -/
def loopW : IWord := Fld.iw { op := 0x200, L := 1, ctl := 1, b := 40, w1 := 8 + 30 * 2 ^ 24 }

theorem witness_Branches (m : W32) (h : m ∈ [0, 7, 0xFFFFFFFF]) : Issues (atWork braW wgA (gp1 m)) sp0 braW .b (issOf wgA (gp1 m) x0 braW) ∧
    (issOf wgA (gp1 m) x0 braW).lone ∧ x0.top = 0 := by
  simp only [List.mem_cons, List.not_mem_nil, or_false] at h
  rcases h with rfl | rfl | rfl <;> exact ⟨issues_of rfl rfl (by decide +kernel), ⟨rfl, rfl⟩, rfl⟩

theorem witness_Branches_word : wOp braW = 0x200 ∧ wL braW = true ∧ pcInside wgA (braTarget braW).toNat = true ∧
    wCtlBit braW 0 = false ∧ braRpc braW ≠ braTarget braW ∧ braRpc braW ≠ nextPc (issOf wgA g0 x0 braW) ∧
    braTarget braW ≠ nextPc (issOf wgA g0 x0 braW) ∧ wCtlBit loopW 0 = true ∧ (braTarget loopW).toNat ≤ 8 ∧
    pcInside wgA (braRj loopW).toNat = true ∧ rpcOk wgA (braRpc braW) = true ∧
    depends (atWork braW wgA (gp1 0)) (issOf wgA (gp1 0) x0 braW) (guardRead braW) = false := by decide +kernel

theorem witness_Branches_lanes : (issOf wgA (gp1 0) x0 braW).lanes = 0 ∧
    (issOf wgA (gp1 0xFFFFFFFF) x0 braW).lanes = x0.mask ∧ (issOf wgA g0 x0 loopW).lanes = x0.mask ∧
    (issOf wgA (gp1 7) x0 braW).lanes ≠ x0.mask ∧ (issOf wgA (gp1 7) x0 braW).lanes ≠ 0 ∧
    (issOf wgA (gp1 7) x0 braW).g.nosplit = false ∧ ({ gp1 7 with nosplit := true } : Group).nosplit = true := by
  decide +kernel

theorem witness_Branches_loop : Issues (atWork loopW wgA g0) sp0 loopW .b (issOf wgA g0 x0 loopW) := issues_of rfl rfl (by decide +kernel)

theorem witness_SplitControl (op : Nat) (h : op ∈ [0x203, 0x204, 0x205, 0x206]) :
    Issues (atWork (Fld.iw { op := op }) wgA g0) sp0 (Fld.iw { op := op }) .none (issOf wgA g0 x0 (Fld.iw { op := op })) ∧
      wOp (Fld.iw { op := op }) = op := by
  simp only [List.mem_cons, List.not_mem_nil, or_false] at h
  rcases h with rfl | rfl | rfl | rfl <;> exact ⟨issues_of rfl rfl (by decide +kernel), by decide +kernel⟩

/-- A split by predicate 1, reconverging at word 30. -/
def splitW : IWord := Fld.iw { op := 0x202, L := 1, a := 1, w1 := 30 * 2 ^ 24 }

theorem witness_SplitControl_split (m : W32) (h : m ∈ [0, 7, 0xFFFFFFFF]) : Issues (atWork splitW wgA (gp1 m)) sp0 splitW .b (issOf wgA (gp1 m) x0 splitW) := by
  simp only [List.mem_cons, List.not_mem_nil, or_false] at h
  rcases h with rfl | rfl | rfl <;> exact issues_of rfl rfl (by decide +kernel)

theorem witness_SplitControl_lanes : wOp splitW = 0x202 ∧ wL splitW = true ∧ wA splitW < 16 ∧
    pcInside wgA (braRpc splitW).toNat = true ∧ braRpc splitW ≠ nextPc (issOf wgA (gp1 7) x0 splitW) ∧
    depends (atWork splitW wgA (gp1 7)) (issOf wgA (gp1 7) x0 splitW) [.p (wA splitW)] = false ∧
    x0.mask &&& readP (gp1 0) (wA splitW) = 0 ∧ x0.mask &&& readP (gp1 7) (wA splitW) ≠ 0 ∧
    x0.mask &&& readP (gp1 7) (wA splitW) ≠ x0.mask ∧ x0.pin = false := by decide +kernel

theorem witness_SplitControl_promote : longestReady g0 = some (0, x0) ∧
    nprog { atWork (Fld.iw { op := 0x204 }) wgA g0 with clk := { counts := [(0, 1024)], cclk := [(0, 1024)] } } 0 g0 = 1024 ∧
    nprog (atWork (Fld.iw { op := 0x204 }) wgA g0) 0 g0 ≠ 1024 := by decide +kernel

/-- An exit under predicate 1. -/
def exitW : IWord := Fld.iw { op := 0x201, gp := 1, gen := 1 }

theorem witness_ThreadEnd (m : W32) (n : Nat) (h : m ∈ [0, 7, 0xFFFFFFFF]) (hn : n ∈ [1, 2]) : Issues (atWork exitW { wgA with groups := n } (gp1 m)) sp0 exitW .none
    (issOf { wgA with groups := n } (gp1 m) x0 exitW) := by
  simp only [List.mem_cons, List.not_mem_nil, or_false] at h hn
  rcases h with rfl | rfl | rfl <;> rcases hn with rfl | rfl <;> exact issues_of rfl rfl (by decide +kernel)

theorem witness_ThreadEnd_lanes : wOp exitW = 0x201 ∧
    depends (atWork exitW wgA (gp1 7)) (issOf wgA (gp1 7) x0 exitW) (guardRead exitW) = false ∧
    (issOf wgA (gp1 7) x0 exitW).lanes ≠ 0 ∧ (issOf wgA (gp1 7) x0 exitW).lanes ≠ x0.mask ∧
    wgA.exited + popcount (issOf wgA (gp1 7) x0 exitW).lanes 32 < 1 * 32 ∧
    (issOf wgA (gp1 0xFFFFFFFF) x0 exitW).lanes = x0.mask ∧
    wgA.exited + popcount (issOf wgA (gp1 0xFFFFFFFF) x0 exitW).lanes 32 < 2 * 32 ∧
    1 * 32 ≤ wgA.exited + popcount (issOf wgA (gp1 0xFFFFFFFF) x0 exitW).lanes 32 ∧
    clusterOf (atWork exitW wgA (gp1 0xFFFFFFFF)) wgA = [(4, wgA)] ∧ wgA.ras = none ∧
    (tfind (atWork exitW wgA (gp1 0xFFFFFFFF)).insts wgA.inst).isSome = true ∧
    (tfind [(0, ({ ctr := 0, st := .running, placed := 1 } : NodeRt))] wgA.node).isSome = true := by decide +kernel

/-- A float addition v3 := v1 + immediate, under predicate 1, and the same into s3 from s1. -/
def addV : IWord := Fld.iw { op := 0x40, L := 1, gp := 1, gen := 1, a := 1, d := 3, w1 := 0x3F800000 }
def addS : IWord := Fld.iw { op := 0x40, L := 1, gp := 1, gen := 1, a := 1, d := 3, kind := 1, w1 := 0x3F800000 }

theorem witness_Arithmetic : Issues (atWork addV wgA (gp1 7)) sp0 addV .i (issOf wgA (gp1 7) x0 addV) ∧
    Issues (atWork addS wgA (gp1 7)) sp0 addS .i (issOf wgA (gp1 7) x0 addS) := ⟨issues_of rfl rfl (by decide +kernel), issues_of rfl rfl (by decide +kernel)⟩

theorem witness_Arithmetic_lanes : aluClassIs .fadd (wOp addV) = true ∧ AluOp.fadd.elementwise = true ∧
    aluFmtOk .fadd addV = true ∧ (aluFields .fadd addV).all (srcOk (issOf wgA (gp1 7) x0 addV)) = true ∧
    (aluFields .fadd addS).all (srcOk (issOf wgA (gp1 7) x0 addS)) = true ∧
    w1Bits addV 127 96 = 0 ∧ (issOf wgA (gp1 7) x0 addV).lanes ≠ 0 ∧ wD addV < wgA.vregs ∧ wD addS < 64 ∧
    depends (atWork addV wgA (gp1 7)) (issOf wgA (gp1 7) x0 addV) (guardRead addV ++ ((aluFields .fadd addV).flatMap
      (srcRegs (issOf wgA (gp1 7) x0 addV) · (laneList (issOf wgA (gp1 7) x0 addV).lanes)) ++
        vRegs (wD addV) (laneList (issOf wgA (gp1 7) x0 addV).lanes))) = false ∧
    depends (atWork addS wgA (gp1 7)) (issOf wgA (gp1 7) x0 addS) (guardRead addS ++ ((aluFields .fadd addS).flatMap
      (srcRegs (issOf wgA (gp1 7) x0 addS) · (laneList (issOf wgA (gp1 7) x0 addS).lanes)) ++ [.s (wD addS)])) = false := by
  decide +kernel

/-- A compare p2 := v1 < v2, and a 64-bit immediate to s4 and s5. -/
def cmpW : IWord := Fld.iw { op := 0x100, a := 1, b := 2, d := 2 }
def immW : IWord := Fld.iw { op := 0x140, L := 1, d := 4, w1 := 0x89ABCDEF01234567 }

theorem witness_Arithmetic_other : Issues (atWork cmpW wgA g0) sp0 cmpW .i (issOf wgA g0 x0 cmpW) ∧
    Issues (atWork immW wgA g0) sp0 immW .i (issOf wgA g0 x0 immW) ∧
    (aluClassIs (.cmp .lt false) (wOp cmpW) = true ∧ aluFmtOk (.cmp .lt false) cmpW = true ∧ wD cmpW < 16 ∧ wL cmpW = false ∧ srcOk (issOf wgA g0 x0 cmpW) 0 = true ∧
      srcOk (issOf wgA g0 x0 cmpW) 1 = true ∧ (issOf wgA g0 x0 cmpW).lanes ≠ 0 ∧
      depends (atWork cmpW wgA g0) (issOf wgA g0 x0 cmpW) (guardRead cmpW ++ (srcRegs (issOf wgA g0 x0 cmpW) 0 (laneList 0xFFFFFFFF) ++
        srcRegs (issOf wgA g0 x0 cmpW) 1 (laneList 0xFFFFFFFF) ++ [.p (wD cmpW)])) = false ∧
      aluClassIs (.movImm true) (wOp immW) = true ∧ aluFmtOk (.movImm true) immW = true ∧ wL immW = true ∧ wD immW < 64 ∧ wD immW % 2 = 0 ∧
      depends (atWork immW wgA g0) (issOf wgA g0 x0 immW) [.s (wD immW), .s (wD immW + 1)] = false ∧
      w1Bits (Fld.iw { op := 0x140, L := 1, d := 4, w1 := 7 }) 127 96 = 0) :=
  ⟨issues_of rfl rfl (by decide +kernel), issues_of rfl rfl (by decide +kernel), by decide +kernel⟩

/-- Words of classes 4, 5 and 0: a select under p3, p2 := p1 and p3, p2 := not p1, a shuffle of v4 by v1, a vote on p1,
a 64-bit sum of v4 and v6 in v8, and a 32-bit immediate to s6. -/
def selW : IWord := Fld.iw { op := 0x100, a := 1, b := 2, c := 3, d := 4 }
def andW : IWord := Fld.iw { op := 0x100, a := 1, b := 3, d := 2 }
def notW : IWord := Fld.iw { op := 0x100, a := 1, d := 2 }
def shufW : IWord := Fld.iw { op := 0x140, a := 4, b := 1, d := 5 }
def voteW : IWord := Fld.iw { op := 0x140, a := 1, d := 5 }
def sumW : IWord := Fld.iw { op := 0x000, a := 4, b := 6, d := 8 }
def movW : IWord := Fld.iw { op := 0x140, L := 1, d := 6, w1 := 0x01234567 }

theorem witness_Arithmetic_classes (w : IWord) (h : w ∈ [selW, andW, notW, shufW, voteW, sumW, movW]) :
    Issues (atWork w wgA (gp1 7)) sp0 w .i (issOf wgA (gp1 7) x0 w) ∧
    depends (atWork w wgA (gp1 7)) (issOf wgA (gp1 7) x0 w) (vRegs 1 (List.range 32) ++ vRegs 2 (List.range 32) ++
      vRegs 4 (List.range 32) ++ vRegs 5 (List.range 32) ++ vRegs 6 (List.range 32) ++ vRegs 7 (List.range 32) ++
      vRegs 8 (List.range 32) ++ vRegs 9 (List.range 32) ++ [.p 1, .p 2, .p 3, .s 5, .s 6]) = false := by
  simp only [List.mem_cons, List.not_mem_nil, or_false] at h
  rcases h with rfl | rfl | rfl | rfl | rfl | rfl | rfl <;>
    exact ⟨issues_of rfl rfl (by decide +kernel), by decide +kernel⟩

theorem witness_Arithmetic_fields :
    (aluClassIs .select (wOp selW) && aluFmtOk .select selW && immOk selW && dstOk (issOf wgA (gp1 7) x0 selW) .vector &&
      srcOk (issOf wgA (gp1 7) x0 selW) 0 && srcOk (issOf wgA (gp1 7) x0 selW) 1 && decide (wC selW < 16)) = true ∧
    (aluClassIs .pand (wOp andW) && aluFmtOk .pand andW && dstOk (issOf wgA (gp1 7) x0 andW) .predicate &&
      decide (wA andW < 16 ∧ wB andW < 16)) = true ∧
    (aluClassIs .pnot (wOp notW) && aluFmtOk .pnot notW && decide (wA notW < 16)) = true ∧
    (aluClassIs .shuffle (wOp shufW) && aluFmtOk .shuffle shufW && !wKind shufW 0 && decide (wA shufW < wgA.vregs) &&
      srcOk (issOf wgA (gp1 7) x0 shufW) 1) = true ∧
    (aluClassIs .ballot (wOp voteW) && aluFmtOk .ballot voteW && decide (wA voteW < 16)) = true ∧
    (aluClassIs .addc64 (wOp sumW) && aluFmtOk .addc64 sumW && decide (wA sumW % 2 = 0 ∧ wB sumW % 2 = 0 ∧ wD sumW % 2 = 0 ∧
      wA sumW + 2 ≤ wgA.vregs ∧ wB sumW + 2 ≤ wgA.vregs ∧ wD sumW + 2 ≤ wgA.vregs) && !wKind sumW 0 && !wKind sumW 1) = true ∧
    (aluClassIs (.movImm false) (wOp movW) && aluFmtOk (.movImm false) movW && wL movW && w1Bits movW 127 96 == 0 &&
      dstOk (issOf wgA (gp1 7) x0 movW) .scalar) = true := by decide +kernel

/-- A conversion of v1 from fp32 to format 1 in v2, and one by a block scale to format 3. -/
def cvtW : IWord := Fld.iw { op := 0x080, L := 1, a := 1, d := 2, fmt := 1 }
def cvtB : IWord := Fld.iw { op := 0x080, L := 1, a := 1, b := 4, d := 2, fmt := 3, kind := 2, w1 := 2 ^ 11 }

theorem witness_ConvertAndSystemValues : Issues (atWork cvtW wgA g0) sp0 cvtW .i (issOf wgA g0 x0 cvtW) ∧
    Issues (atWork cvtB wgA g0) sp0 cvtB .i (issOf wgA g0 x0 cvtB) ∧
    (wOp cvtW = 0x080 ∧ cvtOk (issOf wgA g0 x0 cvtW) = true ∧ cvtMx cvtW = false ∧
      cvtOk (issOf wgA g0 x0 cvtB) = true ∧ cvtMx cvtB = true ∧ (issOf wgA g0 x0 cvtW).lanes ≠ 0 ∧
      depends (atWork cvtB wgA g0) (issOf wgA g0 x0 cvtB) (vRegs 1 (laneList 0xFFFFFFFF) ++ vRegs 2 (laneList 0xFFFFFFFF) ++ [.s 4])
        = false) := ⟨issues_of rfl rfl (by decide +kernel), issues_of rfl rfl (by decide +kernel), by decide +kernel⟩

/-- A read of system value n into register 4. -/
def svW (n : Nat) : IWord := Fld.iw { op := 0x3C1, ctl := n, d := 4 }

theorem witness_ConvertAndSystemValues_sv (n : Nat) (h : n ≤ 9) :
    Issues (atWork (svW n) wgA g0) sp0 (svW n) .none (issOf wgA g0 x0 (svW n)) ∧ wCtl (svW n) = n ∧ wOp (svW n) = 0x3C1 := by
  interval_cases n <;> exact ⟨issues_of rfl rfl (by decide +kernel), by decide +kernel⟩

theorem witness_ConvertAndSystemValues_val : svVal (atWork (svW 1) wgA g0) (issOf wgA g0 x0 (svW 1)) 1 = (0, false) ∧
    (svVal (atWork (svW 8) wgA g0) (issOf wgA g0 x0 (svW 8)) 8).2 = true ∧ wD (svW 8) % 2 = 0 ∧
    depends (atWork (svW 8) wgA g0) (issOf wgA g0 x0 (svW 8)) [.s 4, .s 5] = false := by decide +kernel

/-- A group with an address in s2 and s3: 64 KiB. -/
def gAddr : Group := { g0 with sreg := [(2, 65536)] }

/-- A load of 4 bytes a lane, and one that splits at a miss to word 40. -/
def ldW : IWord := Fld.iw { op := 0x180, a := 2, b := 1, fmt := 2, d := 5 }
def ldM : IWord := Fld.iw { op := 0x180, L := 1, ctl := 1, a := 2, b := 1, fmt := 2, d := 5, w1 := 40 * 2 ^ 32 }

/-- Lanes 16 to 31 address another line than lanes 0 to 15, which the core's L1 holds. -/
def gSpread : Group := { gAddr with vreg := (List.range 16).map (fun l => (32 + 16 + l, (4096 : W32))) }

/-- A core with the first of those lines in its L1. -/
def warm : State := { atWork ldM wgA gSpread with cores := [(0, { l1 := [(0, { tag := 1, data := List.replicate 128 7 })] })] }

/-- The state and the issue that the action of a word starts from. -/
def uOf (iw : IWord) (w : Wg) (g : Group) (x : Split) (packs : Bool) : State := issueState (atWork iw w g) (issOf w g x iw) packs
def jOf (iw : IWord) (w : Wg) (g : Group) (x : Split) : Iss := issueIss (atWork iw w g) (issOf w g x iw)

theorem witness_Loads : Issues (atWork ldW wgA gAddr) sp0 ldW .l (issOf wgA gAddr x0 ldW) ∧
    (wOp ldW = 0x180 ∧ addrOk (issOf wgA gAddr x0 ldW) = true ∧ mBytes ldW = 4 ∧ mSplit ldW = false ∧ wL ldW = false ∧
      mLocal ldW = false ∧ laneList (issOf wgA gAddr x0 ldW).lanes = laneList 0xFFFFFFFF ∧
      runOk (issOf wgA gAddr x0 ldW) false (wD ldW) (mRegs 4) = true ∧
      runOk (issOf wgA gAddr x0 ldW) true (wD ldW) (mRegs 4) = true ∧
      depends (atWork ldW wgA gAddr) (issOf wgA gAddr x0 ldW) (guardRead ldW ++
        addrRegs (issOf wgA gAddr x0 ldW) (laneList 0xFFFFFFFF) ++ loadDst .vector ldW (laneList 0xFFFFFFFF)) = false ∧
      mustWait (atWork ldW wgA gAddr) (issOf wgA gAddr x0 ldW) = false ∧
      refusedLane (uOf ldW wgA gAddr x0 true) (jOf ldW wgA gAddr x0) (laneList 0xFFFFFFFF) 4 [.rd] = none) :=
  ⟨issues_of rfl rfl (by decide +kernel), by decide +kernel⟩

theorem witness_Loads_memory :
    missRoom (uOf ldW wgA gAddr x0 true) 0 (missLines (uOf ldW wgA gAddr x0 true) (jOf ldW wgA gAddr x0) (laneList 0xFFFFFFFF) 4)
      = true ∧
    (laneList 0xFFFFFFFF).findSome? (fun l => loadFault (uOf ldW wgA gAddr x0 true) 0
      (polAt (uOf ldW wgA gAddr x0 true) 1 (laneAddr (jOf ldW wgA gAddr x0) l).toNat)
      (laneAddr (jOf ldW wgA gAddr x0) l).toNat 4) = none ∧
    loadSplits (uOf ldW wgA gAddr x0 true) (jOf ldW wgA gAddr x0) (laneList 0xFFFFFFFF) 4 = none := by decide +kernel

/-- The state and the issue that the splitting load starts from. -/
def uM : State := issueState warm (issOf wgA gSpread x0 ldM) true
def jM : Iss := issueIss warm (issOf wgA gSpread x0 ldM)

theorem witness_Loads_split : Issues warm sp0 ldM .l (issOf wgA gSpread x0 ldM) ∧
    (issOf wgA gSpread x0 ldM).lone ∧
    (mSplit ldM = true ∧ wL ldM = true ∧ pcInside wgA (w1Bits ldM 119 96) = true ∧
      addrOk (issOf wgA gSpread x0 ldM) = true ∧ mustWait warm (issOf wgA gSpread x0 ldM) = false ∧
      refusedLane uM jM (laneList 0xFFFFFFFF) 4 [.rd] = none ∧
      loadSplits uM jM (laneList 0xFFFFFFFF) 4 = some (List.range 16, List.range' 16 16) ∧
      missRoom uM 0 (missLines uM jM (laneList 0xFFFFFFFF) 4) = true ∧
      (laneList 0xFFFFFFFF).findSome? (fun l => loadFault uM 0 (polAt uM 1 (laneAddr jM l).toNat) (laneAddr jM l).toNat 4) = none ∧
      BitVec.ofNat 24 (w1Bits ldM 119 96) ≠ nextPc (issOf wgA gSpread x0 ldM)) :=
  ⟨issues_of rfl rfl (by decide +kernel), ⟨rfl, rfl⟩, by decide +kernel⟩

/-- A load in flight that carries lane 0 of v5. -/
def flying : OutLoad := { grp := 0, sid := 0, writes := [(.v 5 0, 9)], acquire := true, wg := 4, move := false }

theorem witness_Loads_complete : ({ atWork ldW wgA g0 with fly := { loads := [(1, flying)] } } : State).runs = true ∧
    tfind ({ atWork ldW wgA g0 with fly := { loads := [(1, flying)] } } : State).fly.loads 1 = some flying ∧
    flying.amov = none ∧ tfind (atWork ldW wgA g0).groups flying.grp = some g0 := by decide +kernel

/-- One lane. -/
def x1 : Split := { x0 with mask := 4 }
def gOne : Group := { gAddr with splits := [(0, x1)] }

/-- A store of 4 bytes of v6, and one to the local store. -/
def stW : IWord := Fld.iw { op := 0x181, a := 2, b := 1, c := 6, fmt := 2 }
def stL : IWord := Fld.iw { op := 0x181, ctl := 2, b := 1, c := 6, fmt := 2 }

theorem witness_StoresAndAtomics : Issues (atWork stW wgA gOne) sp0 stW .l (issOf wgA gOne x1 stW) ∧
    (wOp stW = 0x181 ∧ mBytes stW = 4 ∧ addrOk (issOf wgA gOne x1 stW) = true ∧ wL stW = false ∧ mLocal stW = false ∧
      runOk (issOf wgA gOne x1 stW) (wKind stW 2) (wC stW) (mRegs 4) = true ∧
      laneList (issOf wgA gOne x1 stW).outLanes = [2] ∧
      depends (atWork stW wgA gOne) (issOf wgA gOne x1 stW) (guardRead stW ++ addrRegs (issOf wgA gOne x1 stW) [2] ++
        dataRegs (issOf wgA gOne x1 stW) [2] (mRegs 4)) = false ∧
      mustWait (atWork stW wgA gOne) (issOf wgA gOne x1 stW) = false ∧
      refusedLane (uOf stW wgA gOne x1 true) (jOf stW wgA gOne x1) [2] 4 [.wr] = none ∧ wgA.stageKib = 0 ∧
      (laneAddr (jOf stW wgA gOne x1) 2).toNat = 65536 ∧ macDrops (uOf stW wgA gOne x1 true) 65536 4 = none) ∧
    PlainAccess (uOf stW wgA gOne x1 true) 1 65536 4 :=
  ⟨issues_of rfl rfl (by decide +kernel), by decide +kernel,
    by decide +kernel, by decide +kernel, by decide +kernel, by decide +kernel, by decide +kernel,
    fun _ h => absurd h (by decide +kernel), by decide +kernel, by decide +kernel⟩

theorem witness_StoresAndAtomics_local : Issues (atWork stL wgA gOne) sp0 stL .l (issOf wgA gOne x1 stL) ∧
    (mLocal stL = true ∧ localAt (atWork stL wgA gOne) wgA (laneAddr (issOf wgA gOne x1 stL) 2).toNat 4 = some (0, 0) ∧
      addrOk (issOf wgA gOne x1 stL) = true ∧ mustWait (atWork stL wgA gOne) (issOf wgA gOne x1 stL) = false ∧
      refusedLane (uOf stL wgA gOne x1 true) (jOf stL wgA gOne x1) [2] 4 [.wr] = none ∧
      Memory.wf (coreOf (atWork stL wgA gOne) 0).ls = true) := ⟨issues_of rfl rfl (by decide +kernel), by decide +kernel⟩

/-- A workgroup of a commit-form kernel with 4 KiB of stage, its area all but full. -/
def wgC : Wg := { wgA with commitForm := true, stageKib := 4, staged := 127 }

theorem witness_StoresAndAtomics_staged : Issues (atWork stW wgC gOne) sp0 stW .l (issOf wgC gOne x1 stW) ∧
    (0 < wgC.stageKib ∧ refusedLane (uOf stW wgC gOne x1 true) (jOf stW wgC gOne x1) [2] 4 [.wr] = none ∧
      (stagedStore (issOf wgC gOne x1 stW) [2] 4).length = stageRoom wgC - wgC.staged) :=
  ⟨issues_of rfl rfl (by decide +kernel), by decide +kernel⟩

/-- An atomic addition of v6 with the old value to v7, in memory and in the local store. -/
def atW : IWord := Fld.iw { op := 0x1C0, a := 2, b := 1, c := 6, fmt := 2, d := 7 }
def atL : IWord := Fld.iw { op := 0x1C0, ctl := 2, b := 1, c := 6, fmt := 2, d := 7 }

theorem witness_StoresAndAtomics_atomic : Issues (atWork atW wgA gOne) sp0 atW .l (issOf wgA gOne x1 atW) ∧
    Issues (atWork atL wgA gOne) sp0 atL .l (issOf wgA gOne x1 atL) ∧
    (wOp atW / 64 = 7 ∧ sPairOk (wA atW) = true ∧ srcOk (issOf wgA gOne x1 atW) 1 = true ∧ wL atW = false ∧
      runOk (issOf wgA gOne x1 atW) (wKind atW 2) (wC atW) (1 * mRegs 4) = true ∧
      runOk (issOf wgA gOne x1 atW) false (wD atW) (mRegs 4) = true ∧ laneList (issOf wgA gOne x1 atW).outLanes = [2] ∧
      depends (atWork atW wgA gOne) (issOf wgA gOne x1 atW) (guardRead atW ++ addrRegs (issOf wgA gOne x1 atW) [2] ++
        dataRegs (issOf wgA gOne x1 atW) [2] (mRegs 4) ++
        (List.range (mRegs 4)).flatMap (fun k => vRegs (wD atW + k) [2])) = false ∧
      mustWait (atWork atW wgA gOne) (issOf wgA gOne x1 atW) = false ∧
      refusedLane (uOf atW wgA gOne x1 true) (jOf atW wgA gOne x1) [2] 4 [.rd, .wr] = none ∧ wgA.commitForm = false ∧
      dmFault (uOf atW wgA gOne x1 true) 65536 4 = none ∧ mLocal atW = false ∧ mLocal atL = true ∧
      refusedLane (uOf atL wgA gOne x1 true) (jOf atL wgA gOne x1) [2] 4 [.rd, .wr] = none ∧
      localAt (atWork atL wgA gOne) wgA (laneAddr (issOf wgA gOne x1 atL) 2).toNat 4 = some (0, 0)) :=
  ⟨issues_of rfl rfl (by decide +kernel), issues_of rfl rfl (by decide +kernel), by decide +kernel⟩

/-- A pinned split. -/
def xp : Split := { x0 with pin := true }
def gPin : Group := { g0 with splits := [(0, xp)], sreg := [(8, BitVec.ofNat 32 ssStart), (9, BitVec.ofNat 32 (ssStart / 2 ^ 32))] }

/-- An mma of register panels into accumulator 1; its A operand from memory, kept as a copy, in the second. -/
def mmaW : IWord := Fld.iw { op := 0x240, L := 1, d := 1, a := 0, b := 16, w1 := 0x11 }
def mmaK : IWord := Fld.iw { op := 0x240, L := 1, ctl := 1, d := 1, a := 8, b := 16, w1 := 0x11 + 2 * 2 ^ 16 }

/-- The number of copies kept, or none where it is refused. -/
def keptOf (r : Except Nat (List Copy)) : Option Nat := match r with | .ok l => some l.length | .error _ => none

/-- The number of elements gathered, or none where it is refused. -/
def gathered (r : Except Nat (List Nat)) : Option Nat := match r with | .ok l => some l.length | .error _ => none

theorem witness_MatrixInstructions : Issues (atWork mmaW wgA gPin) sp0 mmaW .m (issOf wgA gPin xp mmaW) ∧
    (wOp mmaW = 0x240 ∧ xp.pin = true ∧ mmaOk (issOf wgA gPin xp mmaW) = true ∧
      depends (atWork mmaW wgA gPin) (issOf wgA gPin xp mmaW) (mmaRegs (issOf wgA gPin xp mmaW)) = false ∧
      (tget (atWork mmaW wgA gPin).fly.mmas (engineOf sp0) []).length < 4 ∧
      gathered (gather (uOf mmaW wgA gPin xp true) (jOf mmaW wgA gPin xp) 0 0 1 16 false) = some 256 ∧
      gathered (gather (uOf mmaW wgA gPin xp true) (jOf mmaW wgA gPin xp) 0 16 1 16 false) = some 256 ∧
      keptOf (keptCopy (uOf mmaW wgA gPin xp true) (jOf mmaW wgA gPin xp) 0 0 1 16 false) = some 0 ∧
      operandFault (uOf mmaW wgA gPin xp true) (jOf mmaW wgA gPin xp) 0 0 1 16 false = none) :=
  ⟨issues_of rfl rfl (by decide +kernel), by decide +kernel⟩

/-- The state with a segment of stacked store besides. -/
def stored : State :=
  { atWork mmaK wgA gPin with
    ctxs := [(1, { ctx1 with segs := ctx1.segs ++
      (ctx1.segs.map fun g => { g with base := ssStart, limit := ssStart + 1048576 }) })] }

theorem witness_MatrixInstructions_kept : Issues stored sp0 mmaK .m (issOf wgA gPin xp mmaK) ∧
    (mmaOk (issOf wgA gPin xp mmaK) = true ∧ mAsrc mmaK.w1 = 2 ∧
      gathered (gather (issueState stored (issOf wgA gPin xp mmaK) true) (issueIss stored (issOf wgA gPin xp mmaK)) 2 8 1 16 false) =
        some 256 ∧
      keptOf (keptCopy (issueState stored (issOf wgA gPin xp mmaK) true) (issueIss stored (issOf wgA gPin xp mmaK)) 2 8 1 16 false) =
        some 1 ∧
      operandFault (issueState stored (issOf wgA gPin xp mmaK) true) (issueIss stored (issOf wgA gPin xp mmaK)) 2 8 1 16 false =
        none) :=
  ⟨issues_of rfl rfl (by decide +kernel), by decide +kernel⟩

/-- An operation on accumulator 1. -/
def mma1 : Mma :=
  { id := 3, grp := 0, acc := 1, live := 0xFFFF, desc := 0, rm := 0, a := [], b := [], sa := [], sb := [], wg := 4 }

/-- The state with it queued. -/
def busy (iw : IWord) : State := { atWork iw wgA gPin with fly := { mmas := [(0, [mma1])], nextId := 9 } }

theorem witness_MatrixInstructions_complete : (busy mmaW).runs = true ∧
    tget (busy mmaW).fly.mmas (0 * 4 + 0) [] = mma1 :: [] ∧ tfind (busy mmaW).groups mma1.grp = some gPin := by decide +kernel

/-- A wait for the accumulators of mask 2, and a move of accumulator 1 to v8. -/
def msyncW : IWord := Fld.iw { op := 0x241, d := 2 }
def amovW : IWord := Fld.iw { op := 0x242, a := 1, d := 8 }

theorem witness_MatrixInstructions_wait : Issues (busy msyncW) sp0 msyncW .none (issOf wgA gPin xp msyncW) ∧
    Issues (busy amovW) sp0 amovW .none (issOf wgA gPin xp amovW) ∧
    Issues (atWork msyncW wgA gPin) sp0 msyncW .none (issOf wgA gPin xp msyncW) ∧
    Issues (atWork amovW wgA gPin) sp0 amovW .none (issOf wgA gPin xp amovW) ∧
    (wOp msyncW = 0x241 ∧ wCtl msyncW ≤ 1 ∧ xp.pin = true ∧
      mmaBusy (busy msyncW) 0 (fun a => (BitVec.ofNat 8 (wD msyncW)).getLsbD a) 9 = true ∧
      mmaBusy (atWork msyncW wgA gPin) 0 (fun a => (BitVec.ofNat 8 (wD msyncW)).getLsbD a) 0 = false ∧
      wOp amovW = 0x242 ∧ wA amovW < wgA.nAcc ∧ wD amovW + 8 ≤ wgA.vregs ∧ wFmt amovW ≤ 10 ∧
      amovRmOk (accIsInt (busy amovW) (issOf wgA gPin xp amovW) 1) (wFmt amovW) (wRm amovW) = true ∧
      depends (busy amovW) (issOf wgA gPin xp amovW) ((List.range 8).flatMap (fun k => vRegs (wD amovW + k) (laneList xp.mask))) =
        false ∧
      mmaBusy (busy amovW) 0 (· == 1) 9 = true ∧ mmaBusy (atWork amovW wgA gPin) 0 (· == 1) 0 = false) :=
  ⟨issues_of rfl rfl (by decide +kernel), issues_of rfl rfl (by decide +kernel), issues_of rfl rfl (by decide +kernel),
    issues_of rfl rfl (by decide +kernel), by decide +kernel⟩

/-- An `amov` that waits for that operation, and a split that waits by `msync`. -/
theorem witness_MatrixInstructions_waiting : mma1.grp / 16 = 0 * 4 + 0 ∧
    ({ grp := 0, sid := 0, writes := [], acquire := false, wg := 4, move := true
       amov := some { upto := 9, acc := 1, fmt := 0, rm := 0, lanes := 1, d := 8 } } : OutLoad).grp = mma1.grp ∧
    ({ xp with st := .stalled, why := .msync 2 9 true } : Split).st = .stalled := by decide

/-- A copy of 16 bytes to the workgroup itself. -/
def copy1 (k : Bool) : Copy :=
  { wg := 4, core := 0, kept := k, src := 65536, srcStride := 0, dst := 32, dstStride := 0, rowBytes := 16, rows := 1
    ranks := [0], ctr := 1, data := [List.replicate 16 5] }

/-- The state with it in flight, for segments of policy 4. -/
def inFlight (k : Bool) : State :=
  { atWork ldW wgA g0 with
    ctxs := [(1, { ctx1 with segs := ctx1.segs.map fun g => { g with policy := 4 } })], fly := { copies := [(1, copy1 k)] } }

theorem witness_CopiesLand (k : Bool) : (inFlight k).runs = true ∧ tfind (inFlight k).fly.copies 1 = some (copy1 k) ∧
    tfind (inFlight k).wgs (copy1 k).wg = some wgA ∧
    ((copy1 k).ranks.findSome? (fun r => (rankWg (inFlight k) wgA r).bind
      (fun t => if t.core = 0 then some t else none))) = some wgA ∧
    (List.range 1).findSome? (fun q => dmFault (inFlight k) ((copy1 k).rowAt q).toNat 16) = none ∧
    (inFlight k).fly.watches.filter (onCtr (some wgA.core) (wgA.ctrBase + 1)) = [] ∧
    Memory.wf (coreOf (inFlight k) 0).ls = true ∧ polAt (inFlight k) 1 65536 = 4 ∧
    ((copy1 k).data.getD 0 []).length = (copy1 k).rowBytes ∧ (copy1 k).ranks.filter (· != wgA.rank) = [] ∧ [0, 1].filter (· != wgA.rank) ≠ [] := by cases k <;> decide +kernel

/-- The home and index of a reference that resolves. -/
def refPlace (r : Ref) : Option (Option Nat × Nat) := match r with | .ok h k => some (h, k) | _ => none

/-- A watch of the counter s2 names for the value of s4, consuming; a signal of it by s4; a signal of fence 2. -/
def watchW : IWord := Fld.iw { op := 0x280, ctl := 8, a := 2, b := 4 }
def sigW : IWord := Fld.iw { op := 0x281, a := 2, b := 4 }
def sigF : IWord := Fld.iw { op := 0x281, ctl := 16, a := 2, b := 4 }
def gRef (v : W32) : Group := { g0 with sreg := [(2, 1), (4, v)] }

theorem witness_WatchAndSignal (v : W32) (h : v ∈ [0, 5]) : Issues (atWork watchW wgA (gRef v)) sp0 watchW .none (issOf wgA (gRef v) x0 watchW) ∧
    Issues (atWork sigW wgA (gRef v)) sp0 sigW .i (issOf wgA (gRef v) x0 sigW) ∧
    Issues (atWork sigF wgA (gRef v)) sp0 sigF .i (issOf wgA (gRef v) x0 sigF) := by
  simp only [List.mem_cons, List.not_mem_nil, or_false] at h
  rcases h with rfl | rfl <;>
    exact ⟨issues_of rfl rfl (by decide +kernel), issues_of rfl rfl (by decide +kernel), issues_of rfl rfl (by decide +kernel)⟩

theorem witness_WatchAndSignal_word : wOp watchW = 0x280 ∧ wA watchW < 64 ∧ wB watchW < 64 ∧
    wCtl watchW % 8 < 4 ∧ wCtlBit watchW 3 = true ∧
    depends (atWork watchW wgA (gRef 0)) (issOf wgA (gRef 0) x0 watchW) [.s 2, .s 4] = false ∧
    refPlace (resolveRef (atWork watchW wgA (gRef 0)) wgA (refOf (issOf wgA (gRef 0) x0 watchW))) = some (some 0, 1) ∧
    watchHolds 0 (ctrGet (atWork watchW wgA (gRef 0)) (some 0) 1) (readS (gRef 0) 4) = true ∧
    watchHolds 0 (ctrGet (atWork watchW wgA (gRef 5)) (some 0) 1) (readS (gRef 5) 4) = false ∧
    watchRoom (atWork watchW wgA (gRef 5)) (some 0) 0 = true ∧ wOp sigW = 0x281 ∧ wCtlBit sigW 4 = false ∧
    accessPending (atWork sigW wgA (gRef 5)) (issOf wgA (gRef 5) x0 sigW) = false ∧ (atWork watchW wgA (gRef 5)).fly.watches.filter (onCtr (some 0) 1) = [] ∧
    wCtlBit sigF 4 = true ∧ wB sigF % 2 = 0 ∧
    fenceSig { atWork sigF wgA g0 with fences := [(1, { st := .live, owner := 1, ownerHolds := true })] } 1 1 = true := by
  decide +kernel

/-- A barrier arrival. -/
def barW : IWord := Fld.iw { op := 0x282 }

theorem witness_BarriersAndWakes : Issues (atWork barW wgA g0) sp0 barW .none (issOf wgA g0 x0 barW) ∧
    Issues (atWork barW { wgA with groups := 2 } g0) sp0 barW .none (issOf { wgA with groups := 2 } g0 x0 barW) ∧
    (wOp barW = 0x282 ∧ wCtl barW = 0 ∧ serialInView g0 x0 = false ∧
      wgA.bar.n + popcount x0.mask 32 < 2 * 32 - wgA.exited ∧ 1 * 32 - wgA.exited ≤ wgA.bar.n + popcount x0.mask 32) :=
  ⟨issues_of rfl rfl (by decide +kernel), issues_of rfl rfl (by decide +kernel), by decide +kernel⟩

/-- An arrival at hub counter 3, which s2 names, that realigns the counter after it by s4. -/
def barH : IWord := Fld.iw { op := 0x282, ctl := 6, a := 2, b := 4 }
def gHub : Group := { g0 with sreg := [(2, BitVec.ofNat 32 (2 * 16384 + 3)), (4, 1)] }

/-- The world with the two counters, one workgroup of its two arrived. -/
def hubWorld (n : Nat) : State :=
  { atWork barH { wgA with groups := n } gHub with
    hub := [(3, { owner := some 1, parts := 2, n := 1 }), (4, { owner := some 1, count := 9 })] }

theorem witness_BarriersAndWakes_hub (n : Nat) (h : n ∈ [1, 2]) :
    Issues (hubWorld n) sp0 barH .none (issOf { wgA with groups := n } gHub x0 barH) ∧
    (wCtl barH % 4 = 2 ∧ wA barH < 64 ∧ wCtlBit barH 2 = true ∧ wB barH < 64 ∧
      depends (hubWorld n) (issOf { wgA with groups := n } gHub x0 barH) [.s 2, .s 4] = false ∧
      crScope (refOf (issOf { wgA with groups := n } gHub x0 barH)) = 2 ∧
      refPlace (resolveRef (hubWorld n) { wgA with groups := n } (refOf (issOf { wgA with groups := n } gHub x0 barH))) =
        some (none, 3) ∧
      realignBits (issOf { wgA with groups := n } gHub x0 barH) 4 16 = [4] ∧ (hubOf (hubWorld n) 4).owner = some 1 ∧
      ringAway (hubWorld n) 3 = false ∧ (hubOf (hubWorld n) 3).n + 1 = (hubOf (hubWorld n) 3).parts ∧
      (wgA.hubN + popcount x0.mask 32 < n * 32 - wgA.exited ↔ n = 2)) := by
  simp only [List.mem_cons, List.not_mem_nil, or_false] at h
  rcases h with rfl | rfl <;> exact ⟨issues_of rfl rfl (by decide +kernel), by decide +kernel⟩

/-- A gated split and its wake. -/
def gGated : Group := { g0 with splits := [(0, { x0 with st := .gated, why := .none })] }

theorem witness_BarriersAndWakes_wake (f : Bool) :
    takeWake sp0 [{ sp := sp0, flash := f }] = some ({ sp := sp0, flash := f }, []) ∧
    tfind (atWork ldW wgA gGated).groups (spKey sp0) = some gGated ∧
    gGated.splits = [(sp0.sid, { x0 with st := .gated, why := .none })] ∧ gGated.stack = [] := by
  cases f <;> decide +kernel

/-- A context with an arena of 1 MiB. -/
def arena : State :=
  { atWork ldW wgA gRef0 with
    ctxs := [(1, { ctx1 with segs := ctx1.segs.map fun g => { g with arena := true } })]
    fly := { allocs := [.split sp0 1 1000 8] } }
where
  /-- Its group, stalled on the request. -/
  gRef0 : Group := { g0 with splits := [(0, { x0 with st := .stalled, why := .allocResult 8 })] }

/-- A request of the size in s2 to s8, and the release of the handle in s2. -/
def allocW : IWord := Fld.iw { op := 0x2C0, a := 2, d := 8 }
def freeW : IWord := Fld.iw { op := 0x2C1, a := 2 }

theorem witness_Allocator : Issues (atWork allocW wgA gAddr) sp0 allocW .none (issOf wgA gAddr x0 allocW) ∧
    Issues (atWork freeW wgA gAddr) sp0 freeW .none (issOf wgA gAddr x0 freeW) ∧
    Issues (atWork freeW wgA g0) sp0 freeW .none (issOf wgA g0 x0 freeW) ∧
    (wOp allocW = 0x2C0 ∧ wD allocW % 4 = 0 ∧ wD allocW < 64 ∧
      depends (atWork allocW wgA gAddr) (issOf wgA gAddr x0 allocW) (.s 2 :: (List.range 4).map (fun k => .s (8 + k))) = false ∧
      (atWork allocW wgA gAddr).fly.allocs.length < 64 ∧ wgA.commitForm = false ∧
      wOp freeW = 0x2C1 ∧ depends (atWork freeW wgA gAddr) (issOf wgA gAddr x0 freeW) [.s 2] = false ∧ readS g0 2 = 0 ∧
      readS gAddr 2 ≠ 0 ∧ liveAlloc { atWork allocW wgA gAddr with objs := [(196608, obj7)] } 1 (262144 + 196608) = true) :=
  ⟨issues_of rfl rfl (by decide +kernel), issues_of rfl rfl (by decide +kernel), issues_of rfl rfl (by decide +kernel), by decide +kernel⟩

theorem witness_Allocator_served : arena.runs = true ∧ nextAlloc arena = some (0, .split sp0 1 1000 8) ∧
    tfind arena.groups (spKey sp0) = some arena.gRef0 ∧
    arena.gRef0.splits = [(sp0.sid, { x0 with st := .stalled, why := .allocResult 8 })] ∧
    (arenaOf arena 1).map (fun a => (a.base, a.limit)) = some (0, 1048576) ∧ sizeClass 1000 = some 1024 ∧
    lowestBlock ((blocksOf arena 1).map (fun o => (o.base - 0, o.len))) 1048576 1024 = some 0 ∧
    freeAllocIdx arena = some 196608 := by decide +kernel

/-- An ALLOC node of class 2 whose result goes to parameter offset 0, and its request. -/
def allocNode : BitVec 512 := BitVec.ofNat 512 (8 + 2 * 2 ^ 192)
def nodeArena : State :=
  { arena with
    graphs := [(graphKey 1 4, graph4 [allocNode] none)], fly := { allocs := [.node 8 0 1 2 0] } }

theorem witness_Allocator_node : nType allocNode = 8 ∧ nClass allocNode = 2 ∧
    nextAlloc nodeArena = some (0, .node 8 0 1 2 0) ∧ (graphOf nodeArena (inst4 [] true)).isSome = true ∧
    macDrops nodeArena ((graph4 [allocNode] none).param 0) 16 = none ∧ sizeClass (2 ^ (2 + 8)) = some 1024 := by decide +kernel

/-- A copy of 16 bytes described from s8 on, to local store byte 32 and counter 1. -/
def gCopy : Group := { g0 with sreg := [(8, 65536), (12, 32), (14, 65552), (15, 257)] }
def acopyW : IWord := Fld.iw { op := 0x300, a := 8 }

theorem witness_CopyAndCommit : Issues (atWork acopyW wgA gCopy) sp0 acopyW .none (issOf wgA gCopy x0 acopyW) ∧
    (wOp acopyW = 0x300 ∧ wA acopyW % 8 = 0 ∧ wA acopyW < 64 ∧ depends (atWork acopyW wgA gCopy) (issOf wgA gCopy x0 acopyW) ((List.range 8).map (fun k => .s (8 + k))) = false ∧
      (acopyOf (issOf wgA gCopy x0 acopyW)).ranks ≠ [] ∧
      acopyOk (issOf wgA gCopy x0 acopyW) (acopyOf (issOf wgA gCopy x0 acopyW)) = true ∧
      copySrcBad (atWork acopyW wgA gCopy) (issOf wgA gCopy x0 acopyW) (acopyOf (issOf wgA gCopy x0 acopyW)) = none ∧
      copyDstOk (atWork acopyW wgA gCopy) (issOf wgA gCopy x0 acopyW) (acopyOf (issOf wgA gCopy x0 acopyW)) = true) :=
  ⟨issues_of rfl rfl (by decide +kernel), by decide +kernel⟩

/-- The commit word. -/
def commitW : IWord := Fld.iw { op := 0x3C0 }

/-- The commit-form workgroup writing one staged entry of sixteen bytes. -/
def wgW : Wg := { wgC with writing := true, staged := 1 }

/-- The world with it, the entry in its local store. -/
def writing : State :=
  { atWork commitW wgW g0 with
    cores := [(0, { ls := mwrites [] wgW.stageAt ({ addr := 65536, mask := 0xFFFF, data := List.replicate 16 3 } : Staged).bytes })] }

theorem witness_CopyAndCommit_commit : Issues (atWork commitW wgC g0) sp0 commitW .none (issOf wgC g0 x0 commitW) ∧
    (wOp commitW = 0x3C0 ∧ 0 < wgC.stageKib ∧ wgC.committed = false ∧ tfind writing.wgs 4 = some wgW ∧
      stagedEnts writing wgW = [{ addr := 65536, mask := 0xFFFF, data := List.replicate 16 3 }] ∧
      imageHit writing 65536 16 = false ∧ macDrops writing 65536 16 = none) ∧ PlainAccess writing 1 65536 16 :=
  ⟨issues_of rfl rfl (by decide +kernel), by decide +kernel,
    by decide +kernel, by decide +kernel, by decide +kernel, by decide +kernel, by decide +kernel,
    fun _ h => absurd h (by decide +kernel), by decide +kernel, by decide +kernel⟩

/-! ## Witnesses: counters, caches, drawing, traversal -/

/-- Hub counter 3 owned by context 1. -/
def hub3 : State := { world with hub := [(3, { owner := some 1, count := 7 })] }

theorem witness_HubCounters : world.luCmd.busy = false ∧ (ctxOf world 1).st = .active ∧ (hubOf world 3).owner = none ∧
    (hubOf hub3 3).owner = some 1 ∧ (hubOf hub3 3).ring = false ∧ hubBusy hub3 3 = false ∧ (hubOf hub3 3).n = 0 ∧
    hub3.fly.watches = [] ∧
    pbPageIn { hub3 with wt := window 0 } 256 0 (some 1) = true ∧ Memory.wf hub3.pb = true := by decide +kernel

/-- A maintenance block by address: line 0; and by set: set 0 of L2 slice 0. -/
def addrBlock : List Byte := natBytes (128 * 2 ^ 216) 32
def setBlock : List Byte := natBytes (2 ^ 114 + 2) 32

theorem witness_CacheMaintenance_start : MgmtReady (blocked addrBlock) ∧ MgmtReady (blocked setBlock) ∧
    ((blocked addrBlock).mem.stat.busy = false ∧ writePage (blocked addrBlock) 256 (some 1) = true ∧
      pbBlock (blocked addrBlock) 256 32 = leNat addrBlock ∧ pbBlock (blocked setBlock) 256 32 = leNat setBlock ∧
      blockOk (blocked addrBlock) 0 false (BitVec.ofNat 256 (leNat addrBlock)) = true ∧
      rangeOk (blocked addrBlock) 1 (mbBase (BitVec.ofNat 256 (leNat addrBlock))) (mbLen (BitVec.ofNat 256 (leNat addrBlock))) = true ∧
      blockOk (blocked setBlock) 0 true (BitVec.ofNat 256 (leNat setBlock)) = true) :=
  ⟨witness_MgmtReady _, witness_MgmtReady _, by decide +kernel⟩

theorem witness_CacheMaintenance_refused : (ctxOf (blocked addrBlock) 2).st ≠ .active ∧
    writePage (blocked addrBlock) 255 (some 1) = false ∧
    blockOk (blocked addrBlock) 0 false (BitVec.ofNat 256 (leNat setBlock)) = false ∧
    rangeOk (blocked addrBlock) 1 1048576 128 = false := by decide +kernel

/-- A discarding operation on one L2 line and core 0's L1. -/
def discarding : State :=
  { world with mem := { l2 := [(0, { tag := 0, dirty := true, data := [] })]
                        op := some { clean := false, discard := true, lines := [(0, 0)], l1 := [], flash := [0] } } }

theorem witness_CacheMaintenance_done : discarding.runs = true ∧
    discarding.mem.op = some { clean := false, discard := true, lines := [(0, 0)], l1 := [], flash := [0] } ∧
    discarding.cfg.parts.all (fun p => (fnOf discarding p.idx).st != .on || (fnOf discarding p.idx).en) = true := by
  decide +kernel

/-- A pass descriptor: 32 lines of `w` pixels, one colour attachment of format 0 that is cleared, one draw; records
of list, geometry, pool and attachment at words 16, 18, 20, 22. -/
def passDesc (w : Nat) : BitVec 1024 :=
  BitVec.ofNat 1024 (w + 32 * 2 ^ 16 + 2 ^ 35 + 2 ^ 60 + 16 * 2 ^ 76 + 18 * 2 ^ 89 + 20 * 2 ^ 102 + 22 * 2 ^ 128 + 2 ^ 149)

/-- One that cleans that line. -/
def cleaning : State :=
  { discarding with mem := { l2 := [(0, { tag := 0, dirty := true, data := List.replicate 128 9 })]
                             op := some { clean := true, discard := false, lines := [(0, 0)], l1 := [], flash := [] } } }

theorem witness_CacheMaintenance_clean : (l2Addr cleaning 0 0).isSome = true ∧ cleaning.mem.poison = [] ∧
    Memory.wf cleaning.mem.dram = true ∧ (tfind cleaning.mem.l2 0).any (fun l => l.dirty && l.data.length == 128) = true ∧
    world.mem.op = none := by decide +kernel

/-- A handle record: object of generation 1, and its base. -/
def record (obj base : Nat) : List Byte := natBytes (262144 + obj + base * 2 ^ 64) 16

/-- The descriptor, its records and its draw record in memory. -/
def sceneMem : DevMem :=
  { dram := mwrites (mwrites [] 0 (natBytes (passDesc 32).toNat 128 ++ record 11 196608 ++ record 12 200704 ++
      record 13 ssStart ++ record 14 131072)) 196608 (natBytes draw0.toNat 64) }

/-- An object of context 1. -/
def objAt (base len : Nat) : Obj := { st := .live, gen := 1, owner := 1, ownerHolds := true, base := base, len := len, rd := true, wr := true }

/-- The launch, with its HANDLE patches. -/
def drawInst : Inst := { inst4 toPlace true with handlePatched := [16, 18, 20, 22] }

/-- The world about to draw. -/
def scene : State :=
  { placing drawNode toPlace with
    mem := sceneMem, insts := [(8, drawInst)]
    objs := [(11, objAt 196608 4096), (12, objAt 200704 4096), (13, objAt ssStart 1048576), (14, objAt 131072 8192)]
    ctxs := [(1, { ctx1 with segs := ctx1.segs ++
      (ctx1.segs.map fun g => { g with base := ssStart, limit := ssStart + 1048576 }) })] }

theorem witness_RenderPasses_start : scene.runs = true ∧ nType drawNode = 2 ∧ passOf scene 8 0 = none ∧
    (drawInst.node 0).st = .running ∧ (drawInst.node 0).ended = 0 ∧ partRuns scene 0 = true ∧
    BitVec.ofNat 1024 (dmNum scene ((graphP drawNode).param (8 * nPassOff drawNode)) 128) = passDesc 32 ∧
    dmFault scene ((graphP drawNode).param (8 * nPassOff drawNode)) 128 = none ∧ passFieldsOk (passDesc 32) = true ∧
    (pdRecs (passDesc 32)).all (fun r => drawInst.handlePatched.contains r &&
      (dmFault scene ((graphP drawNode).param (8 * r)) 16).isNone) = true ∧
    (handleRec scene (graphP drawNode) (pdList (passDesc 32))).1 = 196608 ∧ pdNdraw (passDesc 32) = 1 ∧
    drawCheck scene drawInst 196608 64 .rd = none ∧ BitVec.ofNat 512 (dmNum scene 196608 64) = draw0 ∧
    passOk scene (graphP drawNode) 0 (passDesc 32) [draw0] = true := by decide +kernel

/-- A pass of instance 8 in a state, with chunks free, its three vertices shaded; `n` vertices in its draw. -/
def passIn (st : PassState) (n : Nat) (chunks : List Nat) : Pass :=
  { pass0 st with
    desc := passDesc 32, draws := [draw0 + BitVec.ofNat 512 ((n - 3) * 2 ^ 256)], chunks := chunks, owners := []
    poolAt := ssStart, atts := [131072], tris := [], lists := [], reqAt := 9
    verts := [(0, [0, 0, 0, 0x3F800000]), (1, [0, 0, 0, 0x3F800000]), (2, [0, 0, 0, 0x3F800000])] }

/-- The world with a pass. -/
def withPass (p : Pass) : State := { scene with passes := [(6, p)] }

/-- A triangle over the first pixels. -/
def tri0 : Tri := { poly := [(-512, -512), (2048, -512), (-512, 2048)] }

/-- The state after that triangle's batch of a pass. -/
def batched (p : Pass) : State :=
  binTris 6 [tri0] (modPass { withPass p with rr := { (withPass p).rr with bin := 0 } } 6 (fun p => { p with todo := [] }))

/-- Whether a batch leaves triangles over, and whether the list goes on. -/
def leaves (p : Pass) : Option (Bool × Bool) := (tfind (batched p).passes 6).map (fun q => (!q.todo.isEmpty, q.pos.isSome))

theorem witness_RenderPasses_batch : binSettle (withPass (passIn .binning 3 [ssStart])) 0 = withPass (passIn .binning 3 [ssStart]) ∧
    binHolder (withPass (passIn .binning 3 [ssStart])) 0 = some (6, passIn .binning 3 [ssStart]) ∧
    (passIn .binning 3 [ssStart]).todo = [] ∧
    rrNext (withPass (passIn .binning 3 [ssStart])).rr.bin ((List.range 8).filter (binPending (withPass (passIn .binning 3 [ssStart])))) =
      some 0 ∧
    posStop (withPass (passIn .binning 3 [ssStart])) (passIn .binning 3 [ssStart]) (0, 0, 0) = none ∧
    batchOk (withPass (passIn .binning 3 [ssStart])) (passIn .binning 3 [ssStart]) (some (0, 0, 0)) [tri0] = true := by
  decide +kernel

theorem witness_RenderPasses_left : leaves (passIn .binning 3 [ssStart]) = some (false, false) ∧
    leaves (passIn .binning 6 [ssStart]) = some (false, true) ∧ leaves (passIn .binning 3 []) = some (true, true) ∧
    binTiles (passIn .binning 3 []) draw0 { tri0 with poly := [] } = [] := by decide +kernel

/-- The world with a pass, 101 TCLK after its request. -/
def waitedFor (p : Pass) : State := atCount (withPass p) 101

theorem witness_RenderPasses_flush : growing (waitedFor (passIn .growWait 3 [])) 0 = some (6, passIn .growWait 3 []) ∧
    binSettle (waitedFor (passIn .growWait 3 [])) 0 = waitedFor (passIn .growWait 3 []) ∧
    binHolder (waitedFor (passIn .growWait 3 [])) 0 = some (6, passIn .growWait 3 []) ∧
    growing (binSettle (atCount (withPass (passIn .growWait 3 [])) 100) 0) 0 = none ∧
    binHolder (binSettle scene 0) 0 = none ∧
    binHolder (withPass (passIn .flush 3 [])) 0 = some (6, passIn .flush 3 []) ∧ (passIn .flush 3 []).owners = [] ∧
    binSettle (withPass (passIn .flush 3 [])) 0 = withPass (passIn .flush 3 []) ∧
    (tkeys (passIn .flush 3 []).lists (fun _ l => !l.isEmpty)).all ((passIn .flush 3 []).finished.contains ·) = true := by
  decide +kernel

/-- Two passes: one bins while the other's timer runs out. -/
def yielded : State :=
  let s := waitedFor (passIn .growWait 3 [])
  { s with insts := [(8, drawInst), (9, { drawInst with rank := 7 })]
           passes := [(6, passIn .growWait 3 []), (7, { passIn .binning 3 [] with inst := 9 })] }

theorem witness_RenderPasses_yielded : binSettle yielded 0 = yielded ∧
    growing yielded 0 = some (6, passIn .growWait 3 []) ∧ (binHolder yielded 0).map (·.1) = some 7 := by decide +kernel

/-- What a pass's next tile is. -/
def nextOf (p : Pass) : Option Nat := (nextTile p).map (·.1)

theorem witness_TilesAndReserve_assign : coreIn (withPass (passIn .render 3 [])) 0 5 = true ∧
    (rendering (withPass (passIn .render 3 [])) 0).find? (fun e => !thas e.2.owners 5 && (nextTile e.2).isSome) =
      some (6, passIn .render 3 []) ∧ nextOf (passIn .render 3 []) = some 0 ∧
    (pdAtts (passDesc 32)).flatMap (loadRanges (passIn .render 3 []) 0) = [] ∧ scene.mem.macBad = [] ∧
    permits (withPass (passIn .render 3 [])) 1 drawInst.ranges (bufferOf (withPass (passIn .render 3 [])) (passIn .render 3 []) 5)
      (tileBytes (passDesc 32)) .wr = true ∧
    (rendering scene 0).find? (fun e => !thas e.2.owners 5 && (nextTile e.2).isSome) = none ∧
    attLoad (pdAtt (passDesc 32) 0) = 1 ∧ loadFrom (passIn .render 3 []) 0 0 = .none ∧
    loadFrom { passIn .render 3 [] with flushed := true } 0 0 ≠ .none ∧
    ((loadRanges { passIn .render 3 [] with flushed := true } 0 0).all fun r =>
      (drawCheck (withPass (passIn .render 3 [])) drawInst r.1 r.2 .rd).isNone) = true := by decide +kernel

/-- It with tile 0 on core 5, its buffer empty. -/
def owning (d : BitVec 1024) (st : PassState) : Pass := { passIn st 3 [] with owners := [(5, 0)], desc := d }

/-- A pass of two samples a pixel. -/
def passDesc2 : BitVec 1024 := passDesc 32 ||| BitVec.ofNat 1024 (2 ^ 32)

theorem witness_TilesAndReserve_resolve :
    (rendering (withPass (owning (passDesc 32) .render)) 0).find? (fun e => tileReady e.2 5) = some (6, owning (passDesc 32) .render) ∧
    (owning (passDesc 32) .render).finished.length + 1 = pdTiles (passDesc 32) ∧
    (owning (passDesc 64) .render).finished.length + 1 ≠ pdTiles (passDesc 64) ∧
    thas toPlace (owning (passDesc 32) .render).node = true ∧
    (((pdAtts (passDesc 32)).flatMap (attWrites (owning (passDesc 32) .render) · 0)).all fun w =>
      w.2.isEmpty || permits (withPass (owning (passDesc 32) .render)) 1 drawInst.ranges w.1 w.2.length .wr) = true ∧
    permits (withPass (owning (passDesc 32) .render)) 1 drawInst.ranges
      (bufferOf (withPass (owning (passDesc 32) .render)) (owning (passDesc 32) .render) 5) (tileBytes (passDesc 32)) .wr = true := by
  decide +kernel

theorem witness_TilesAndReserve_spill :
    (rendering (withPass (owning passDesc2 .flush)) 0).find? (fun e => tileReady e.2 5) = some (6, owning passDesc2 .flush) ∧
    0 < pdSlog passDesc2 ∧ tget (owning passDesc2 .flush).buf 0 [] = [] ∧
    permits (withPass (owning passDesc2 .flush)) 1 drawInst.ranges
      (bufferOf (withPass (owning passDesc2 .flush)) (owning passDesc2 .flush) 5) (tileBytes passDesc2) .wr = true := by decide +kernel

/-- A 64 KiB object of stacked store. -/
def objS : Obj := { obj7 with base := ssStart, len := 65536 }

/-- The world with it, in the reserve or not. -/
def reserving (l : List Nat) : State := { world with objs := [(7, objS)], ctxs := [(1, { ctx1 with reserve := l })] }

/-- And a pass of the context that waits. -/
def waitingPass : State := { reserving [] with passes := [(6, passIn .growWait 3 [])], insts := [(8, drawInst)] }

theorem witness_TilesAndReserve_grant : FeReady (reserving []) ∧ ((reserving []).binCmd.busy = false ∧
    (resolve (reserving []) 1 262151 true true false).map (·.idx) = some 7 ∧
    resolve (reserving []) 1 262150 true true false = none ∧
    inside objS.base objS.len (ssRange part0).1 (ssRange part0).2 = true ∧ 65536 ≤ objS.len ∧
    inside obj7.base obj7.len (ssRange part0).1 (ssRange part0).2 = false ∧
    (partRec (reserving []) 0) = some part0 ∧ 7 ∈ (ctxOf (reserving [7]) 1).reserve ∧
    (ctxOf (reserving [0, 1, 2, 3, 4, 5, 6]) 1).reserve.length < 8 ∧
    8 ≤ (ctxOf (reserving [0, 1, 2, 3, 4, 5, 6, 8]) 1).reserve.length ∧ 7 ∉ (ctxOf (reserving [0, 1, 2, 3, 4, 5, 6, 8]) 1).reserve ∧
    grantee (reserving []) 1 = none ∧ grantee waitingPass 1 = some (6, passIn .growWait 3 []) ∧
    (tget (reserving [7]).objs 7 {}).gen = 262151 / 262144 ∧ (reserving [7]).passes.any (·.2.taken.contains 7) = false ∧
    ({ reserving [7] with passes := [(6, { passIn .binning 3 [] with taken := [7] })] } : State).passes.any (·.2.taken.contains 7) = true) :=
  ⟨⟨by decide +kernel, rfl, rfl⟩, by decide +kernel⟩

/-- A fragment group, or a vertex group, of the pass on core 0. -/
def setupOf (st : RasStage) : RasSetup := if st = .vertex then setupV else setupF
def wgF (st : RasStage) : Wg := { wgA with ras := some (setupOf st) }

/-- The fragment group in its core's queue, behind an earlier group that is still there or alone. -/
def queueF (b : Bool) : List Merge :=
  (if b then [{ wg := 3, setup := { setupF with lanes := [{ lane0 with tri := 0 }] }, cover := [(0, 1)] }] else []) ++
    [{ wg := 4, setup := { setupF with lanes := setupF.lanes.map (fun l => { l with tri := 1 }) }, cover := [(0, 1)] }]

/-- The pass with core 0 owning tile 0, ordered or not, two varyings. -/
def passF (ord b : Bool) : Pass :=
  { passIn .render 3 [] with
    desc := if ord then passDesc 32 ||| BitVec.ofNat 1024 (2 ^ 39) else passDesc 32, owners := [(0, 0)]
    draws := [draw0 ||| BitVec.ofNat 512 (2 * 2 ^ 347)], queue := [(0, queueF b)] }

/-- A group of a stage at work. -/
def shading (w : IWord) (st : RasStage) (ord b : Bool) : State := { atWork w (wgF st) g0 with passes := [(6, passF ord b)] }

/-- Raster instruction f with control c. -/
def rasW (f c : Nat) : IWord := Fld.iw { op := 0x380 + f, ctl := c, a := 1, d := 8 }

theorem witness_RasterInstructions (f : Nat) (h : f ∈ [3, 4, 5, 6, 7, 8]) :
    Issues (shading (rasW f 0) .fragment true false) sp0 (rasW f 0) .none (issOf (wgF .fragment) g0 x0 (rasW f 0)) ∧
    wOp (rasW f 0) = 0x380 + f ∧
    rasOf (shading (rasW f 0) .fragment true false) (issOf (wgF .fragment) g0 x0 (rasW f 0)) [.fragment] =
      some (6, passF true false, setupF) ∧
    depends (shading (rasW f 0) .fragment true false) (issOf (wgF .fragment) g0 x0 (rasW f 0))
      ((List.range 12).flatMap (fun j => vRegs j (List.range 32))) = false := by
  simp only [List.mem_cons, List.not_mem_nil, or_false] at h
  rcases h with rfl | rfl | rfl | rfl | rfl | rfl <;>
    exact ⟨issues_of rfl rfl (by decide +kernel), by decide +kernel, by decide +kernel, by decide +kernel⟩

theorem witness_RasterInstructions_late (f : Nat) (h : f ∈ [6, 7]) (ord : Bool) :
    Issues (shading (rasW f 0) .fragment ord true) sp0 (rasW f 0) .none (issOf (wgF .fragment) g0 x0 (rasW f 0)) := by
  simp only [List.mem_cons, List.not_mem_nil, or_false] at h
  rcases h with rfl | rfl <;> cases ord <;> exact issues_of rfl rfl (by decide +kernel)

theorem witness_RasterInstructions_state : wD (rasW 3 0) + 4 ≤ wgA.vregs ∧ wA (rasW 4 0) + 4 ≤ wgA.vregs ∧
    wCtl (rasW 6 0) < pdNcol (passF true false).desc ∧ pdOrdered (passF true false).desc = true ∧
    pdOrdered (passF false false).desc = false ∧
    (myQueue (passF true false) (issOf (wgF .fragment) g0 x0 (rasW 6 0))).1.takeWhile (·.wg != 4) = [] ∧
    (myQueue (passF true true) (issOf (wgF .fragment) g0 x0 (rasW 6 0))).1.takeWhile (·.wg != 4) ≠ [] ∧
    ((myQueue (passF true false) (issOf (wgF .fragment) g0 x0 (rasW 7 0))).2.any fun m =>
      !earlierFragment (shading (rasW 7 0) .fragment true false) (queueF false) m 0 0xFFFFFFFF) = true ∧
    ((myQueue (passF true true) (issOf (wgF .fragment) g0 x0 (rasW 7 0))).2.any fun m =>
      earlierFragment { shading (rasW 7 0) .fragment true true with groups := [(0, g0), (1, { g0 with wg := 3 })] }
        (queueF true) m 0 0xFFFFFFFF) = true := by
  decide +kernel

theorem witness_RasterInstructions_vout (k : Nat) (h : k ∈ [0, 2, 3]) :
    Issues (shading (rasW 2 k) .vertex false false) sp0 (rasW 2 k) .none (issOf (wgF .vertex) g0 x0 (rasW 2 k)) ∧
    (rasOf (shading (rasW 2 k) .vertex false false) (issOf (wgF .vertex) g0 x0 (rasW 2 k)) [.vertex] =
        some (6, passF false false, setupV) ∧
      wOp (rasW 2 k) = 0x382 ∧ wCtl (rasW 2 k) = k ∧ drNvar ((passF false false).draw setupV.draw) = 2) := by
  simp only [List.mem_cons, List.not_mem_nil, or_false] at h
  rcases h with rfl | rfl | rfl <;> exact ⟨issues_of rfl rfl (by decide +kernel), by decide +kernel⟩

theorem witness_RasterInstructions_rsv (k : Nat) (h : k ∈ [0, 6, 7, 8]) :
    Issues (shading (rasW 9 k) .fragment false false) sp0 (rasW 9 k) .none (issOf (wgF .fragment) g0 x0 (rasW 9 k)) ∧
    (wOp (rasW 9 k) = 0x389 ∧ wCtl (rasW 9 k) = k ∧ wD (rasW 9 k) % 2 = 0 ∧
      dstOk (issOf (wgF .fragment) g0 x0 (rasW 9 k)) .scalar = true ∧ dstOk (issOf (wgF .fragment) g0 x0 (rasW 9 k)) .vector = true ∧
      depends (shading (rasW 9 k) .fragment false false) (issOf (wgF .fragment) g0 x0 (rasW 9 k)) [.s 8, .s 9] = false ∧
      (issOf (wgF .fragment) g0 x0 (rasW 9 k)).lanes ≠ 0) := by
  simp only [List.mem_cons, List.not_mem_nil, or_false] at h
  rcases h with rfl | rfl | rfl | rfl <;> exact ⟨issues_of rfl rfl (by decide +kernel), by decide +kernel⟩

/-- A texture of 32 by 32 pixels of format 0 at 131072. -/
def texDesc : BitVec 256 := BitVec.ofNat 256 (131072 + 31 * 2 ^ 79 + 31 * 2 ^ 92)

/-- A bilinear one. -/
def texDesc2 : BitVec 256 := texDesc ||| BitVec.ofNat 256 (2 ^ 114)

/-- The state with a descriptor at 65536. -/
def texturing (w : IWord) (d : BitVec 256) : State :=
  { atWork w wgA gOne with mem := { dram := mwrites (codeMem w) 65536 (natBytes d.toNat 32) } }

/-- tex and tload. -/
def texW (raw : Bool) : IWord := Fld.iw { op := if raw then 0x381 else 0x380, a := 2, b := 4, c := 6, d := 8 }

/-- The state its action starts from. -/
def texU (raw : Bool) (d : BitVec 256) : State := issueState (texturing (texW raw) d) (issOf wgA gOne x1 (texW raw)) true

/-- What the statement asks of a descriptor. -/
def texReads (raw : Bool) (d : BitVec 256) : Bool :=
  decide (BitVec.ofNat 256 (dmNum (texU raw d) 65536 32) = d) && tdOk d && wgMay (texturing (texW raw) d) wgA (65536 : Nat) 32 .rd &&
  ((laneList (issOf wgA gOne x1 (texW raw)).lanes).flatMap (texRanges (texU raw d) (issOf wgA gOne x1 (texW raw)) raw d)).all
    (fun r => wgMay (texturing (texW raw) d) wgA (r.1 : Nat) r.2 .rd) &&
  (((65536, 32) :: (laneList (issOf wgA gOne x1 (texW raw)).lanes).flatMap
    (texRanges (texU raw d) (issOf wgA gOne x1 (texW raw)) raw d)).findSome? (fun r => dmFault (texU raw d) r.1 r.2)).isNone

theorem witness_Textures (raw : Bool) :
    Issues (texturing (texW raw) texDesc) sp0 (texW raw) .none (issOf wgA gOne x1 (texW raw)) ∧
    (wOp (texW raw) = (if raw then 0x381 else 0x380) ∧ readS64 gOne (wA (texW raw)) = 65536 ∧ wA (texW raw) % 2 = 0 ∧
      wD (texW raw) + 4 ≤ wgA.vregs ∧ texReads raw texDesc = true ∧ bits texDesc 115 114 = 0 ∧
      depends (texturing (texW raw) texDesc) (issOf wgA gOne x1 (texW raw)) ([.s 2, .s 3] ++
        (List.range 12).flatMap (fun j => vRegs j (List.range 32))) = false ∧
      tdLevels texDesc = 1 ∧ (issOf wgA gOne x1 (texW raw)).lanes ≠ 0) := by
  cases raw <;> exact ⟨issues_of rfl rfl (by decide +kernel), by decide +kernel⟩

theorem witness_Textures_filtered :
    Issues (texturing (texW false) texDesc2) sp0 (texW false) .none (issOf wgA gOne x1 (texW false)) ∧
    (texReads false texDesc2 = true ∧ bits texDesc2 115 114 ≠ 0) := ⟨issues_of rfl rfl (by decide +kernel), by decide +kernel⟩

/-- A hierarchy of a root with one triangle: header, node at unit 4, leaf entry at unit 9. -/
def bvh : List Byte :=
  natBytes (0x38485642 + 2 ^ 32 + 192 * 2 ^ 64 + 4 * 2 ^ 96) 64 ++ natBytes (9 * 2 ^ 160 + 129 * 2 ^ 192) 80 ++
  ([0, 0, 0x40A00000, 0x3F800000, 0, 0x40A00000, 0, 0x3F800000, 0x40A00000, 77, 5] : List Nat).flatMap (natBytes · 4) ++
  List.replicate 4 0

/-- A ray of lane 2 along z from the origin, up to 10, and the scalar block of a stack of one level. -/
def gRay : Group :=
  { g0 with sreg := [(8, 65536), (10, 0x01000000)], splits := [(0, x1)]
            vreg := [(10 * 32 + 2, 0x3F800000), (11 * 32 + 2, 0x41200000)] }

/-- The registers a ray of v4 takes: direction z at v10, limit at v11. -/
def traceW : IWord := Fld.iw { op := 0x340, L := 1, kind := 2, a := 4, b := 8, d := 20, w1 := 2 ^ 48 - 1 }

/-- The state with the hierarchy at 65536 and the traversal unit on or off. -/
def tracingAt (w : IWord) (g : Group) (fl : Fly) (on : Bool := true) : State :=
  { atWork w wgA g with
    mem := { dram := mwrites (codeMem w) 65536 bvh }, fly := fl
    pwr := { dev := .active, fns := [(0, { en := true, st := .on })] ++ (if on then [(12, { en := true, st := .on })] else []) } }

/-- Whether a header is read. -/
def hdrRead (r : FetchBad ⊕ (BvhHdr × State)) : Bool := match r with | .inr (h, _) => h.root == 4 | .inl _ => false

theorem witness_Traces (on : Bool) : Issues (tracingAt traceW gRay {} on) sp0 traceW .t (issOf wgA gRay x1 traceW) ∧
    (wOp traceW = 0x340 ∧ traceEncOk (issOf wgA gRay x1 traceW) 8 = true ∧
      depends (tracingAt traceW gRay {} on) (issOf wgA gRay x1 traceW) ((List.range 4).map (fun k => .s (8 + k)) ++
        (List.range 28).flatMap (fun k => vRegs k [2])) = false ∧ (issOf wgA gRay x1 traceW).lanes = 4 ∧
      fnOn (tracingAt traceW gRay {} on) 12 = on ∧ traceBlockOk (issOf wgA gRay x1 traceW) = true ∧
      acquirePending (tracingAt traceW gRay {} on) (issOf wgA gRay x1 traceW) = false ∧
      (traceOf (issOf wgA gRay x1 traceW)).calls = false ∧ (readS gRay 10).toNat % 2 ^ 20 / 262144 = wgA.rank ∧
      (traceOf (issOf wgA gRay x1 traceW)).valid = 4 ∧
      (localAt (tracingAt traceW gRay {} on) wgA 0 (32 * (traceOf (issOf wgA gRay x1 traceW)).areaLen)).isSome = true ∧
      hdrRead (readHdr (issueState (tracingAt traceW gRay {} on) (issOf wgA gRay x1 traceW) true) wgA 0
        (traceOf (issOf wgA gRay x1 traceW)).bvh) = true) := by
  cases on <;> exact ⟨issues_of rfl rfl (by decide +kernel), by decide +kernel⟩

/-- That trace in flight, with an any-hit entry or none. -/
def trace1 (cb : BitVec 24) : Trace := { traceOf (issOf wgA gRay x1 traceW) with cbAny := cb }

theorem witness_Traces_full :
    32 ≤ ({ traces := (List.range 32).map (fun i => (i, trace1 0xFFFFFF)) } : Fly).traces.length ∧ (trace1 0).core = 0 := by
  decide +kernel

theorem witness_Traces_bucket : ([(1, 2, (0 : BitVec 48))].filter fun r => thas [(1, trace1 0xFFFFFF)] r.1) = [(1, 2, 0)] ∧
    64 ≤ (coreNow { tracingAt traceW gRay {} with clk := { cclk := [(0, 64)] } } 0 - 0).toNat ∧
    (coreNow { tracingAt traceW gRay {} with clk := { cclk := [(0, 63)] } } 0 - 0).toNat < 64 := by decide +kernel

/-- No triangle taken. -/
def miss5 : RayHit := { lane := 2, hit := false, ovf := false, entry := 0, nodes := 1, tests := 1 }

/-- A trace whose ray passes the triangle by. -/
def trace2 : Trace :=
  { trace1 0xFFFFFF with rays := [(2, [0x3F800000, 0x3F800000, 0, 0, 0, 0, 0x3F800000, 0x41200000])] }

/-- Whether the walk of node 4 and entry 9 leads to a final record for every lane. -/
def completes (s : State) (t : Trace) (hits : List RayHit) : Bool :=
  match readHdr s wgA t.core t.bvh with
  | .inl _ => false
  | .inr (h, s1) =>
    match walkNodes wgA t.core t.bvh (t.bvh + h.len) [4] [h.root] [] s1 with
    | .ok runs s2 =>
      match walkEntries wgA t.core t.bvh (t.bvh + h.len) runs [9] s2 with
      | .ok _ s3 => (matAddrs s3 t h runs [4] [9] hits).isEmpty &&
          ((laneList t.lanes).map (laneRecord s3 t h runs [4] [9] hits)).all (·.isSome)
      | _ => false
    | _ => false

theorem witness_Traces_complete : trace2.round = none ∧
    rayWaits (tracingAt traceW gRay { traces := [(1, trace2)] }) 1 (laneList trace2.valid) = false ∧
    completes (tracingAt traceW gRay { traces := [(1, trace2)] }) trace2 [miss5] = true := by decide +kernel

/-- Whether a header is refused for its format. -/
def hdrFormat (r : FetchBad ⊕ (BvhHdr × State)) : Bool := match r with | .inl .format => true | _ => false

theorem witness_Traces_format : hdrFormat (readHdr (atWork traceW wgA gRay) wgA 0 65536) = true := by decide +kernel

/-- A split stalled on its callback trace, and its world. -/
def xCb : Split := { x1 with st := .stalled, why := .callback, cb := some 1 }
def calling : State := tracingAt traceW { gRay with splits := [(0, xCb)] } { traces := [(1, trace1 20)] }

/-- What a read of the header and the two walks there answer. -/
def calledHdr : BvhHdr × State :=
  match readHdr calling wgA 0 65536 with | .inr x => x | .inl _ => (bvhHdr [], calling)
def walked (r : Walk) : List (Nat × Kid) × State := match r with | .ok l s => (l, s) | _ => ([], calling)
def calledNodes : List (Nat × Kid) × State :=
  walked (walkNodes wgA 0 65536 (65536 + calledHdr.1.len) [4] [calledHdr.1.root] [] calledHdr.2)
def calledLeaf : List (Nat × Kid) × State :=
  walked (walkEntries wgA 0 65536 (65536 + calledHdr.1.len) calledNodes.1 [9] calledNodes.2)

/-- Whether a walk came to its end. -/
def walkEnds (r : Walk) : Bool := match r with | .ok _ _ => true | _ => false

theorem walked_of {r : Walk} (h : walkEnds r = true) : r = .ok (walked r).1 (walked r).2 := by
  cases r <;> first | rfl | cases h

/-- The least and the greatest number within the bound of a distance n / d. -/
def distLo (n d : Int) : Nat :=
  let a := n.natAbs * 2 ^ 300
  let b := d.natAbs
  let lo := fpEncode 0 2 (.fin false (a / b) (-300))
  let exact := a % b = 0 && fxInt lo * 2 ^ 151 == ((a / b : Nat) : Int)
  unord32 (ord32 lo - (if exact then 2 else 1))
def distHi (n d : Int) : Nat :=
  min 0x7F7FFFFF (fpEncode 0 2 (.fin false (n.natAbs * 2 ^ 300 / d.natAbs) (-300)) + 2)

theorem distWithin_between (r : List W32) (v : List Nat) (n d : Int) :
    ∃ key, distWithin r v n d = BitVec.ofNat 32 (between32 key 0 (distLo n d) (distHi n d)) := by
  unfold distWithin distLo distHi
  exact ⟨_, rfl⟩

/-- A property of each number within the bound is one of the distance. -/
theorem dist_all (r : List W32) (v : List Nat) (n d : Int) (lo hi k : Nat) (p : W32 → Bool)
    (hl : distLo n d = lo) (hh : distHi n d = hi)
    (hn : max 1 (ord32 hi - ord32 lo + 1).toNat = k)
    (hp : (List.range k).all (fun j => p (BitVec.ofNat 32 (unord32 (ord32 lo + (j : Nat))))) = true) :
    p (distWithin r v n d) = true := by
  obtain ⟨key, e⟩ := distWithin_between r v n d
  have h1 := List.all_eq_true.mp hp (Config.pick key 0 % k) (List.mem_range.mpr (Nat.mod_lt _ (by omega)))
  rw [e, hl, hh]
  unfold between32
  rw [hn]
  exact h1

/-- A triangle met between the limits is a candidate. -/
theorem candOf_triangle (t : Trace) (ent : LeafEnt) (lane : Nat) (r : List W32) (hr : r = (tfind t.rays lane).getD [])
    (hb : ((triangleT r ent.shape).2 = 0 || !ent.shape.all fpFinite ||
      decide ((triangleT r ent.shape).1 * (triangleT r ent.shape).2 < 0) ||
      !((triangleSides r ent.shape).all (fun k => decide (0 ≤ k)) ||
        (triangleSides r ent.shape).all (fun k => decide (k ≤ 0)))) = false)
    (hf : flag t 1 = false ∧ flag t 2 = false)
    (lo hi k : Nat) (hl : distLo (triangleT r ent.shape).1 (triangleT r ent.shape).2 = lo)
    (hh : distHi (triangleT r ent.shape).1 (triangleT r ent.shape).2 = hi)
    (hn : max 1 (ord32 hi - ord32 lo + 1).toNat = k)
    (hp : (List.range k).all (fun j => fpLe (r.getD 3 0) (BitVec.ofNat 32 (unord32 (ord32 lo + (j : Nat)))) &&
      fpLe (BitVec.ofNat 32 (unord32 (ord32 lo + (j : Nat)))) (tget t.tcur lane 0)) = true) :
    ∃ b, candOf t ent false lane = some b := by
  subst hr
  have hw := dist_all ((tfind t.rays lane).getD []) ent.shape _ _ lo hi k
    (fun w => fpLe (((tfind t.rays lane).getD []).getD 3 0) w && fpLe w (tget t.tcur lane 0)) hl hh hn hp
  unfold candOf
  simp only [Bool.false_eq_true, if_false, hb, hf.1, hf.2, Bool.false_and, Bool.or_false]
  exact ⟨_, if_pos hw⟩

theorem witness_Callbacks_round : (trace1 20).round = none ∧ xCb.cb = some 1 ∧
    readHdr calling wgA 0 (trace1 20).bvh = .inr calledHdr ∧
    walkNodes wgA 0 65536 (65536 + calledHdr.1.len) [4] [calledHdr.1.root] [] calledHdr.2 = .ok calledNodes.1 calledNodes.2 ∧
    walkEntries wgA 0 65536 (65536 + calledHdr.1.len) calledNodes.1 [9] calledNodes.2 = .ok calledLeaf.1 calledLeaf.2 ∧
    ∃ b, takeFound calledLeaf.2 1 calledHdr.1.root calledNodes.1 [9]
      [{ lane := 2, hit := true, ovf := false, entry := 9, nodes := 1, tests := 1 }] (trace1 20) [] =
      some (trace1 20, [({ lane := 2, hit := true, ovf := false, entry := 9, nodes := 1, tests := 1 }, b, false)]) := by
  have hc : ∃ b, candOf (trace1 20) (entryAt calledLeaf.2 (trace1 20) 9) false 2 = some b := by
    exact candOf_triangle _ _ 2 _ rfl (by decide +kernel) (by decide +kernel) 0x409FFFFE 0x40A00002 5
      (by decide +kernel) (by decide +kernel) (by decide +kernel) (by decide +kernel)
  obtain ⟨b, hb⟩ := hc
  refine ⟨by decide +kernel, rfl, ?_, walked_of (by decide +kernel), walked_of (by decide +kernel), b, ?_⟩
  · have h : hdrRead (readHdr calling wgA 0 (trace1 20).bvh) = true := by decide +kernel
    show readHdr calling wgA 0 65536 = _
    unfold calledHdr
    cases e : readHdr calling wgA 0 65536 with
    | inl x => rw [show (trace1 20).bvh = 65536 by decide +kernel, e] at h; cases h
    | inr x => rfl
  · have h1 : (rayEntries (trace1 20) 2 calledHdr.1.root (tget (trace1 20).tcur 2 0) calledNodes.1).find? (fun e => e.1 == 9) =
        some (9, false) := by decide +kernel
    have h2 : callbackFor (trace1 20) (entryAt calledLeaf.2 (trace1 20) 9) false = some false := by decide +kernel
    have h3 : (!([9] : List Nat).contains 9 || !(trace1 20).valid.getLsbD 2 || (trace1 20).stopped.getLsbD 2 ||
        rayWaits calledLeaf.2 1 [2] || (trace1 20).seen.contains (2, 9)) = false := by decide +kernel
    simp only [takeFound, h1, hb, h2, h3, List.any_nil, Bool.or_false, Bool.false_eq_true, if_false, List.nil_append]

/-- A round of lane 2, its split READY at the callback's word 8, and `hitret` of v9. -/
def round1 : Round :=
  { lanes := 4, intersect := false, retPc := 12, retMask := 4, retWhy := .callback
    cands := [(2, { t := 0x40A00000, u := 0, v := 0, prim := 77, geom := 5, front := true, box := false, mat := 0, attr := 0 })] }
def gRound (v : W32) : Group :=
  { gRay with splits := [(0, { x1 with cb := some 1 })], vreg := [(9 * 32 + 2, v), (10 * 32 + 2, 0x3F800000), (11 * 32 + 2, 0x41200000)] }
def hitretW : IWord := Fld.iw { op := 0x341, a := 9 }
def answering (v : W32) : State := tracingAt hitretW (gRound v) { traces := [(1, { trace1 20 with round := some round1 })] }

theorem issues_round (v : W32) (h : v ∈ [0, 1, 2]) :
    Issues (answering v) sp0 hitretW .none (issOf wgA (gRound v) { x1 with cb := some 1 } hitretW) := by
  simp only [List.mem_cons, List.not_mem_nil, or_false] at h
  rcases h with rfl | rfl | rfl <;> exact ⟨by decide +kernel, rfl, rfl, rfl, by decide +kernel, .inl (by decide +kernel),
    by decide +kernel, by decide +kernel, by decide +kernel, by decide +kernel, by decide +kernel, by decide +kernel,
    by decide +kernel⟩

theorem witness_Callbacks_hitret : wOp hitretW = 0x341 ∧
    tfind (answering 0).fly.traces 1 = some { trace1 20 with round := some round1 } ∧
    (issOf wgA (gRound 0) { x1 with cb := some 1 } hitretW).lanes = round1.lanes ∧ x1.mask = round1.lanes ∧
    srcOk (issOf wgA (gRound 0) { x1 with cb := some 1 } hitretW) 0 = true ∧
    depends (answering 0) (issOf wgA (gRound 0) { x1 with cb := some 1 } hitretW)
      (srcRegs (issOf wgA (gRound 0) { x1 with cb := some 1 } hitretW) 0 (laneList round1.lanes)) = false ∧
    (srcVal (issOf wgA (gRound 0) { x1 with cb := some 1 } hitretW) 0 2).toNat % 4 = 0 ∧
    (srcVal (issOf wgA (gRound 2) { x1 with cb := some 1 } hitretW) 0 2).toNat % 4 = 2 ∧
    fpLe (((tfind (trace1 20).rays 2).getD []).getD 3 0) 0x40A00000 = true ∧ fpLe 0x40A00000 (tget (trace1 20).tcur 2 0) = true := by
  decide +kernel

/-! ## Witnesses: display, capture, audio, compression -/

/-- An access of memory is plain where these hold. -/
theorem plain_of {s : State} {ctx a n : Nat} (h : decide ((a + n ≤ ssStart ∨ ssStart ≤ a) ∧ 2 ≤ polAt s ctx a ∧ s.mem.l2 = [] ∧
    s.mem.wcb = [] ∧ s.mem.macBad = [] ∧ (ssStart ≤ a ∨ polAt s ctx a ≠ 3) ∧ Memory.wf s.mem.dram = true ∧
    Memory.wf s.mem.ss = true) = true) : PlainAccess s ctx a n := by
  obtain ⟨h1, h2, h3, h4, h5, h6, h7, h8⟩ := of_decide_eq_true h
  exact ⟨h1, h2, h3, h4, h5, fun x y => absurd y (h6.resolve_left (Nat.not_le.mpr x)), h7, h8⟩

/-- A pipe of context 1. -/
def pipe1 : Pipe := { owner := 1, ownEn := true, hpd := true }

/-- The world with a pipe 0, its function on, and a block in page 256. -/
def showing (p : Pipe) (b : List Byte) : State :=
  { blocked b with
    pipes := [(0, p)], objs := [(7, obj7)]
    pwr := { dev := .active, fns := [(0, { en := true, st := .on }), (8, { en := true, st := .on })] } }

theorem pipeReady_showing (b : List Byte) : PipeReady (showing pipe1 b) 0 1 256 :=
  ⟨⟨rfl, rfl, fun h => DevState.noConfusion h, rfl⟩, rfl, rfl, rfl, rfl, (show pipeShows (showing pipe1 []) 0 1 = true by decide +kernel), by decide, rfl⟩

theorem witness_DisplayCommands_pipe : bit (BitVec.ofNat 64 (2 ^ 13 + 2 * 2 ^ 14)) 13 = true ∧
    pipeShows (showing pipe1 []) 0 2 = false ∧ pipeShows (showing pipe1 []) 0 1 = true ∧
    (pipeOf (showing pipe1 []) 0).ownEn = bit (BitVec.ofNat 64 (2 ^ 13 + 2 ^ 14)) 13 ∧
    bits (BitVec.ofNat 64 (2 ^ 13 + 2 ^ 14)) 23 14 = (pipeOf (showing pipe1 []) 0).owner ∧
    (pipeOf world 0).ownEn ≠ bit (BitVec.ofNat 64 (2 ^ 13 + 2 ^ 14)) 13 ∧ pipeShows world 0 1 = true ∧
    (showing pipe1 []).log.used (showing pipe1 []).log.nextOrd = false := by decide +kernel

/-- A mode of 64 by 64 pixels whose timing has `f` lines of front porch, output on; a block that holds it. -/
def mode (f : Nat) : BitVec 1024 :=
  BitVec.ofNat 1024 (1000 * 2 ^ 416 + 64 * 2 ^ 403 + 2 * 2 ^ 390 + 2 * 2 ^ 377 + 2 * 2 ^ 364 + 64 * 2 ^ 351 + f * 2 ^ 338 +
    2 * 2 ^ 325 + 2 * 2 ^ 312 + 4 * 2 ^ 299 + 2 ^ 292)
def modeBlock (f : Nat) : List Byte := natBytes (mode f).toNat 128

/-- That mode with a handle, and object 7 at a length. -/
def modeH (h : Nat) : BitVec 1024 := BitVec.ofNat 1024 ((mode 2).toNat + h * 2 ^ 480)
def cached (h len : Nat) : State :=
  { showing pipe1 (natBytes (modeH h).toNat 128) with objs := [(7, { obj7 with len := len })] }

theorem witness_DisplayCommands_config : pbBad (showing pipe1 (modeBlock 2)) (256 * 4096) 128 = [] ∧
    BitVec.ofNat 1024 (leNat (pbFetch (showing pipe1 (modeBlock 2)) (256 * 4096) 128)) = mode 2 ∧ bits (mode 2) 511 480 = 0 ∧
    confOk (showing pipe1 (modeBlock 2)) 0 (mode 2) = true ∧ confOk (showing pipe1 (modeBlock 1)) 0 (mode 1) = false ∧
    confTiming (mode 3) ≠ confTiming (mode 2) ∧
    pbBad (cached 5 4096) (256 * 4096) 128 = [] ∧ bits (modeH 5) 511 480 = 5 ∧ confOk (cached 5 4096) 0 (modeH 5) = true ∧
    BitVec.ofNat 1024 (leNat (pbFetch (cached 5 4096) (256 * 4096) 128)) = modeH 5 ∧
    (resolve (cached 5 4096) 1 5 true true false).all (·.remote) = true ∧
    confOk (cached 262151 16384) 0 (modeH 262151) = true ∧ bits (modeH 262151) 511 480 = 262151 ∧
    (resolve (cached 262151 16384) 1 262151 true true false).map (fun o => (o.idx, o.len, o.remote)) = some (7, 16384, false) ∧
    cHact (modeH 262151) * cVact (modeH 262151) * (if bit (modeH 262151) 291 then 4 else 8) = 32768 ∧
    (resolve (cached 262151 32768) 1 262151 true true false).map (fun o => (o.idx, o.len, o.remote)) = some (7, 32768, false) ∧
    ({ pipe1 with conf := some (mode 2) } : Pipe).conf.any (fun o => confTiming o == confTiming (mode 2)) = true := by
  decide +kernel

/-- Pipes 0 and 1 of context 1, and a ganged mode. -/
def modeG : BitVec 1024 := BitVec.ofNat 1024 ((mode 2).toNat + 2 ^ 293)
def ganged : State := { showing pipe1 (natBytes modeG.toNat 128) with pipes := [(0, pipe1), (1, pipe1)] }

theorem witness_DisplayCommands_gang : cGang modeG = true ∧ confOk ganged 0 modeG = true ∧
    BitVec.ofNat 1024 (leNat (pbFetch ganged (256 * 4096) 128)) = modeG ∧ bits modeG 511 480 = 0 := by decide +kernel

/-- A linear layer of 16 pixels of object 7, waiting for fence 2 to reach `v`. -/
def layerDesc (v : Nat) : BitVec 512 :=
  BitVec.ofNat 512 (262151 * 2 ^ 480 + v * 2 ^ 384 + 2 * 2 ^ 370 + 2 ^ 369 + 2 ^ 368 + 2 * 2 ^ 340 + 2 ^ 320 + 15 * 2 ^ 269 +
    15 * 2 ^ 217 + 15 * 2 ^ 107)

/-- A flip that shows it in layer 0 and signals fence 3 to 9. -/
def flipHdr : BitVec 512 := BitVec.ofNat 512 (2 ^ 64 + 2 ^ 85 + 3 * 2 ^ 86 + 9 * 2 ^ 100)
def flipBlock : List Byte := natBytes flipHdr.toNat 64 ++ natBytes (layerDesc 5).toNat 64

/-- Fences 2 and 3 of context 1. -/
def fences23 (v : W64) (dead : Bool) : Tab Fence :=
  [(2, { st := .live, owner := 1, ownerHolds := true, val := v, abandoned := dead })
   , (3, { st := .live, owner := 1, ownerHolds := true })]

/-- The layer resolved. -/
def layer0 : Layer := { desc := layerDesc 5, buf := some (7, 65536, 4096), pose := none, warp := none }

/-- The world about to take that flip. -/
def flipping : State := { showing pipe1 flipBlock with fences := fences23 0 false }

/-- The same for context 1 with a layer it has no object for, or with write-back to one. -/
def flipWb (h : Nat) : BitVec 512 := BitVec.ofNat 512 (flipHdr.toNat + 2 ^ 84 + h * 2 ^ 340)

theorem witness_DisplayCommands_flip : pbBad flipping (256 * 4096) 128 = [] ∧ fWbEn flipHdr = false ∧
    64 + 64 * popcount (fMask (BitVec.ofNat 512 (leNat (pbFetch flipping (256 * 4096) 64)))) 16 = 128 ∧
    BitVec.ofNat 512 (leNat ((pbFetch flipping (256 * 4096) 128).take 64)) = flipHdr ∧
    layersResolve flipping 1 (flipDescs (pbFetch flipping (256 * 4096) 128) (fMask flipHdr)) = some [(0, layer0)] ∧
    layersResolve { flipping with objs := [] } 1 (flipDescs (pbFetch flipping (256 * 4096) 128) (fMask flipHdr)) = none ∧
    bits flipHdr 79 72 = 0 ∧ flipRights flipping 1 flipHdr [(0, layer0)] = true ∧
    flipRights { flipping with fences := [] } 1 flipHdr [(0, layer0)] = false ∧
    layerOk none 0 0 (layerDesc 5) = true ∧ layerFits layer0 = true ∧ lScaled (layerDesc 5) = false ∧
    layersAfter (pipeFuture (pipeOf flipping 0)) [(0, layer0)] = [(0, layer0)] ∧
    (pipeOf flipping 0).flips.length < 4 ∧
    4 ≤ ({ pipe1 with flips := List.replicate 4 { hdr := flipHdr, layers := [], wb := none, fences := [] } } : Pipe).flips.length ∧
    fWbEn (flipWb 5) = true ∧ (resolve flipping 1 (bits (flipWb 5) 371 340) false true false).all (·.remote) = true ∧
    fWbEn (flipWb 262151) = true ∧ (resolve flipping 1 (bits (flipWb 262151) 371 340) false true false).map
      (fun o => (o.idx, o.base, o.len, o.remote)) = some (7, 65536, 4096, false) := by decide +kernel

theorem witness_DisplayCommands_lut : pbBad (showing pipe1 []) (256 * 4096) 4096 = [] ∧
    pbBad (showing pipe1 [0, 16]) (256 * 4096) 4096 = [] ∧
    (lutWords (pbFetch (showing pipe1 [0, 16]) (256 * 4096) 4096)).all (· < 4096) = false ∧
    (lutWords (pbFetch (showing pipe1 []) (256 * 4096) 4096)).all (· < 4096) = true := by
  refine ⟨rfl, by decide +kernel, by decide +kernel, ?_⟩
  have h : pbFetch (showing pipe1 []) (256 * 4096) 4096 = List.replicate 4096 0 := by
    simp only [pbFetch, List.eq_replicate_iff, List.length_map, List.length_range, List.mem_map, true_and]
    rintro b ⟨i, -, rfl⟩
    rfl
  have g : ∀ n i : Nat, (List.replicate n (0 : Byte)).getD i 0 = 0 := by
    intro n i
    rw [List.getD_eq_getElem?_getD, List.getElem?_replicate]
    split <;> rfl
  rw [h, List.all_eq_true]
  intro x hx
  simp only [lutWords, List.mem_map, g] at hx
  obtain ⟨i, -, rfl⟩ := hx
  rfl

/-- A sideband request of a kind for a number of bytes. -/
def sideBlock (k n : Nat) : List Byte := natBytes (k + n * 256) 32
def sideOf (k n : Nat) : Nat × Nat :=
  let d := pbFetch (showing pipe1 (sideBlock k n)) (256 * 4096) 32
  ((d.getD 0 0).toNat, (d.getD 1 0).toNat)

theorem witness_DisplayCommands_sideband : pbBad (showing pipe1 (sideBlock 1 1)) (256 * 4096) 32 = [] ∧
    sideOf 1 1 = (1, 1) ∧ sideOf 4 16 = (4, 16) ∧ sideOf 5 1 = (5, 1) ∧ sideOf 0 1 = (0, 1) ∧ sideOf 1 0 = (1, 0) ∧
    sideOf 1 17 = (1, 17) ∧ Memory.wf (showing pipe1 (sideBlock 1 1)).pb = true ∧
    pipeShows { showing pipe1 [] with pipes := [(2, pipe1)] } 2 1 = true := by decide +kernel

theorem witness_DisplayCommands_link : ({ pipe1 with conf := some (mode 2), link := 1 } : Pipe).link = 1 ∧
    (pipeOf (showing { pipe1 with conf := some (mode 2), link := 1 } []) 0).conf = some (mode 2) ∧
    payloadFits (mode 2) 4 1620 8 = true ∧ 1620 ∈ dpRates ∧ pipe1.conf = none ∧ pipe1.link ≠ 1 := by decide +kernel

/-- A queued flip. -/
def flip1 : Flip := { hdr := flipHdr, layers := [(0, layer0)], wb := none, fences := [2, 3] }

/-- The pipe with that flip in its queue, and fence 2 at a value. -/
def leading (v : W64) (dead : Bool) : State :=
  { showing { pipe1 with conf := some (mode 2), flips := [flip1] } [] with fences := fences23 v dead }

theorem witness_DisplayTiming_lead : fnOn (leading 5 false) 8 = true ∧ (pipeOf (leading 5 false) 0).conf.isSome = true ∧
    fnOn world 8 = false ∧ (pipeOf (showing pipe1 []) 0).conf = none ∧
    (pipeOf (leading 5 false) 0).flips = [flip1] ∧
    flipReady (leading 5 false) flip1 = some true ∧ flipReady (leading 4 false) flip1 = some false ∧
    flipReady (leading 4 true) flip1 = none ∧ fSigEn flip1.hdr = true ∧
    (fenceOf (leading 4 true) (fSigFence flip1.hdr)).st = .live ∧
    (fenceOf (leading 4 true) (fSigFence flip1.hdr)).remote = none := by decide +kernel

/-- A layer re-projected from a pose record of object 8, of generation `g` at both ends, or torn. -/
def layerR (pose : Bool) : Layer :=
  { desc := BitVec.ofNat 512 (2 ^ 368 + 2 ^ 367), buf := some (7, 65536, 4096)
    pose := if pose then some (8, 131072, 4096) else none, warp := none }
def posed (pose : Bool) (g h : Nat) : State :=
  { showing { pipe1 with conf := some (mode 2), layers := [(0, layerR pose)] } [] with
    mem := { dram := mwrites [] 131072 (natBytes (g + 7 * 2 ^ 128 + h * 2 ^ 448) 64) } }

theorem witness_DisplayTiming_reprojection : (pipeOf (posed true 5 5) 0).flips = [] ∧
    (pipeOf (posed true 5 5) 0).layers.filter (fun e => lEn e.2.desc && lReproj e.2.desc &&
      !(pipeOf (posed true 5 5) 0).taken.any (fun f => thas f.layers e.1)) = [(0, layerR true)] ∧
    (layerR true).pose = some (8, 131072, 4096) ∧ (layerR false).pose = none ∧ dmFault (posed true 5 5) 131072 64 = none ∧
    (∀ r : BitVec 512, r = BitVec.ofNat 512 (leNat (dmRead (posed true 5 5) 131072 64)) → bits r 63 0 = bits r 511 448 ∧
      bits r 63 0 ≠ 0 ∧ bits r 63 0 ≠ 2 ^ 64 - 1 ∧ bits r 447 416 = bits (layerR true).desc 191 160) ∧
    (∀ r : BitVec 512, r = BitVec.ofNat 512 (leNat (dmRead (posed true 5 6) 131072 64)) → bits r 63 0 ≠ bits r 511 448) ∧
    dmFault (posed true 5 6) 131072 64 = none ∧ (pipeOf (leading 5 false) 0).layers.filter (fun e => lEn e.2.desc) = [] := by
  refine ⟨by decide +kernel, by decide +kernel, by decide +kernel, by decide +kernel, by decide +kernel, ?_, ?_,
    by decide +kernel, by decide +kernel⟩
  · rintro r rfl; decide +kernel
  · rintro r rfl; decide +kernel

/-- A mode of two pixels of one line, and a flip written back linearly to object 7 with fence 3. -/
def modeTiny : BitVec 1024 := BitVec.ofNat 1024 (2 * 2 ^ 403 + 2 ^ 351)
def wbFlip : Flip :=
  { hdr := BitVec.ofNat 512 (2 ^ 84 + 2 * 2 ^ 376 + 2 ^ 378 + 3 * 2 ^ 434 + 9 * 2 ^ 448), layers := []
    wb := some (7, 65536, 4096), fences := [3] }

/-- Static layers 0 and 1 of a cached pipe. -/
def layerS : Layer :=
  { desc := BitVec.ofNat 512 (2 ^ 368 + 2 ^ 365 + 4 * 2 ^ 352), buf := some (7, 65536, 4096), pose := none, warp := none }

theorem witness_DisplayTiming_vblank : (pipeOf (leading 5 false) 0).ownPend = false ∧
    fnOn (showing { pipe1 with conf := some (mode 2), ownPend := true, flips := [flip1] } []) 8 = true ∧
    flattenSet [(0, layerS), (1, layerS)] = [(0, 4), (1, 4)] ∧ flattenSet [(0, layerS)] = [] ∧
    ({ pipe1 with cacheObj := some (7, 65536, 4096), flat := [(0, 4), (1, 4)] } : Pipe).cacheObj.isSome = true ∧
    ({ pipe1 with wb := [wbFlip] } : Pipe).wb.all (·.frame.isSome) = false ∧
    ({ pipe1 with wb := [{ wbFlip with frame := some [[1, 2]] }] } : Pipe).wb.all (·.frame.isSome) = true ∧
    (writeBackFrame (showing { pipe1 with conf := some modeTiny, wb := [wbFlip] } []) 0
      { pipe1 with conf := some modeTiny, wb := [wbFlip] } modeTiny (bits wbFlip.hdr 375 372)).2 = false := by decide +kernel

theorem witness_DisplayTiming_underrun : fnOn (showing pipe1 []) 8 = true ∧ (pipeOf (showing pipe1 []) 0).badFrame = false ∧
    (pipeOf (showing { pipe1 with badFrame := true } []) 0).badFrame = true ∧ (pipeOf (showing pipe1 []) 0).wb = [] ∧
    (showing pipe1 []).log.used (showing pipe1 []).log.nextOrd = false ∧ (pipeOf (showing pipe1 []) 0).hpd ≠ false := by
  decide +kernel

/-- The pipe writing that flip, its frame composed. -/
def writingBack : State :=
  { showing { pipe1 with wb := [{ wbFlip with frame := some [[1, 2], [3, 4]] }] } [] with fences := fences23 0 false }

theorem witness_DisplayTiming_writeBack : (pipeOf writingBack 0).wb = [{ wbFlip with frame := some [[1, 2], [3, 4]] }] ∧
    writingBack.mem.macBad = [] ∧
    (([[1, 2], [3, 4]] : List (List Nat)).zipIdx.map (fun e => wbPieces wbFlip.hdr 65536 e.2 e.1)).flatten ++
      wbPad wbFlip.hdr 65536 [[1, 2], [3, 4]] = [(65536, [1, 0, 0, 0, 2, 0, 0, 0]), (65600, [3, 0, 0, 0, 4, 0, 0, 0])] ∧
    imageHit writingBack 65536 8 = false ∧ imageHit writingBack 65600 8 = false ∧
    (fenceOf writingBack (fWbFence wbFlip.hdr)).st = .live := by decide +kernel

/-- A capture block: object 7, fence 3, two buffers, RAW8 of virtual channel 0, stride 64, 4 pixels by 2 lines, 80 Mbit/s. -/
def capBlk : BitVec 256 :=
  BitVec.ofNat 256 (262151 * 2 ^ 224 + 3 * 2 ^ 210 + 2 ^ 206 + 0x2A * 2 ^ 200 + 64 * 2 ^ 160 + 3 * 2 ^ 147 + 2 ^ 134 + 80 * 2 ^ 118)

/-- The world with a stacked-store object 7 and fences, and a block in page 256. -/
def ports (b : List Byte) : State := { blocked b with objs := [(7, objS)], fences := fences23 0 false }

theorem capReady_ports (b : List Byte) : CapReady (ports b) 0 1 :=
  ⟨⟨rfl, rfl, fun h => DevState.noConfusion h, rfl⟩, rfl, (show capShows (ports []) 0 1 = true by decide +kernel)⟩

theorem witness_CaptureAndAudio_start :
      BitVec.ofNat 256 (leNat (pbFetch (ports (natBytes capBlk.toNat 32)) (256 * 4096) 32)) = capBlk ∧
      (resolve (ports []) 1 (bits capBlk 255 224) true true false).map (fun o => (o.base, o.len, o.remote)) =
        some (ssStart, 65536, false) ∧ inSsRange (ports []) 1 ssStart 65536 = true ∧ capBlockOk (ports []) 1 capBlk 65536 = true ∧
      capBlockOk (ports []) 1 capBlk 64 = false ∧ pbBad (ports (natBytes capBlk.toNat 32)) (256 * 4096) 32 = [] ∧
      writePage (ports []) 256 (some 1) = true ∧ writePage (ports []) 0 (some 1) = false ∧
      (capOf (ports []) 0).run = 0 ∧ inSsRange { ports [] with objs := [(7, obj7)] } 1 65536 4096 = false := by decide +kernel

/-- A frame under way, and a port that captures it. -/
def frame1 : CapFrame := { sof := 0, lines := 0, crc := false, short := false, long := false }
def cap1 (c : Option CapFrame) : Cap :=
  { owner := 1, run := 2, blk := capBlk, buf := some (7, 65536, 65536), frame := 1, cur := c }
def capturing (c : Option CapFrame) : State := { ports [] with caps := [(0, cap1 c)] }

theorem witness_CaptureAndAudio_frame : (capOf (capturing none) 0).run ≠ 0 ∧ kVc (capOf (capturing none) 0).blk = 0 ∧
    (capOf (capturing none) 0).cur = none ∧ (capOf (capturing (some frame1)) 0).cur = some frame1 ∧
    line0.hdrBad = false ∧ line0.dt ≠ kDt capBlk ∧ ({ line0 with dt := 0x2A } : CsiLine).dt = kDt capBlk ∧
    frame1.lines < kHeight capBlk ∧ (fenceOf (capturing (some frame1)) (kFence capBlk)).st = .live ∧
    (fenceOf (capturing (some frame1)) (kFence capBlk)).val < BitVec.ofNat 64 1 ∧ (cap1 none).owner = 1 ∧ (cap1 none).owner ≠ 2 := by
  decide +kernel

theorem witness_CaptureAndAudio_bytes : PlainAccess (capturing (some frame1)) 1 65536 0 ∧
    PlainAccess (capturing (some frame1)) 1 (65536 + 2 * 64) 32 ∧ PlainAccess (capturing (some frame1)) 1 ssStart 4 ∧
    (65536 + (1 - 1) % kNbuf capBlk * kStride capBlk + 0 * (kWidth capBlk * dtBytes (kDt capBlk)) = 65536 ∧
      65536 + kNbuf capBlk * kStride capBlk + 32 * ((1 - 1) % kNbuf capBlk) = 65536 + 2 * 64 ∧
      imageHit (capturing (some frame1)) (65536 + 2 * 64) 32 = false ∧ (capturing (some frame1)).mem.macBad = []) :=
  ⟨plain_of (by decide +kernel), plain_of (by decide +kernel), plain_of (by decide +kernel), by decide +kernel⟩

/-- Lines with a bad header or payload, of another type, and one beyond the last. -/
theorem witness_CaptureAndAudio_lines : (capOf (capturing (some frame1)) 0).buf = some (7, 65536, 65536) ∧
    ({ line0 with hdrBad := true } : CsiLine).hdrBad = true ∧ ({ line0 with vc := 1 } : CsiLine).vc ≠ kVc capBlk ∧
    ({ line0 with crcBad := true } : CsiLine).crcBad = true ∧ kHeight capBlk ≤ ({ frame1 with lines := 2 } : CapFrame).lines ∧
    (capOf (ports []) 0).run = 0 ∧ (capOf (capturing none) 0).owner = 1 := by decide +kernel

/-- An audio block: rings in object 7, two slots in and one out of eight, two periods of two frames, fences 3 and 2. -/
def audBlk (h : Nat) : BitVec 256 :=
  BitVec.ofNat 256 (h * 2 ^ 224 + 262151 * 2 ^ 192 + 3 * 2 ^ 160 + 2 ^ 128 + 3 * 2 ^ 114 + 2 * 2 ^ 100 + 2 ^ 88 + 2 * 2 ^ 83)

/-- The ports with the pins routed to audio. -/
def audible (a : Aud) (b : List Byte) : State := { ports b with cfg := { cfg0 with mg0 := 1 }, aud := a }

theorem audReady_audible (a : Aud) (h : a.stat.busy = false) (b : List Byte) : AudReady (audible a b) 1 :=
  ⟨⟨rfl, rfl, fun h => DevState.noConfusion h, rfl⟩, h, (show audShows (audible {} []) 1 = true by decide +kernel)⟩

theorem witness_CaptureAndAudio_audio :
      BitVec.ofNat 256 (leNat (pbFetch (audible {} (natBytes (audBlk 262151).toNat 32)) (256 * 4096) 32)) = audBlk 262151 ∧
      (audRing (audible {} []) 1 (bits (audBlk 262151) 255 224) false true).map (·.map (·.len)) = some (some 65536) ∧
      (audRing (audible {} []) 1 (bits (audBlk 262151) 223 192) true false).map (·.map (·.len)) = some (some 65536) ∧
      (audRing (audible {} []) 1 0 true false).map (·.map (·.len)) = some none ∧
      (audRing (audible {} []) 1 5 true false).isNone = true ∧ audBlockOk (audible {} []) 1 (audBlk 262151) (some 8) (some 65536) = false ∧
      audBlockOk (audible {} []) 1 (audBlk 262151) (some 65536) (some 65536) = true ∧
      writePage (audible {} []) 256 (some 1) = true ∧ writePage (audible {} []) 0 (some 1) = false ∧
      pbBad (audible {} []) (256 * 4096) 32 = [] ∧ (audible {} []).aud.run = 0 := by decide +kernel

/-- A running port, with an input ring or an output ring. -/
def aud1 (i o : Bool) (n : Nat) : Aud :=
  { owner := 1, run := 2, blk := audBlk 262151, frames := n
    inBuf := if i then some (7, 65536, 65536) else none, outBuf := if o then some (7, 65536, 65536) else none }

theorem witness_CaptureAndAudio_frames : (aud1 true false 0).run ≠ 0 ∧ aMaster (audBlk 0) = false ∧
    PlainAccess (audible (aud1 true false 0) []) 1 65536 8 ∧
    (65536 + audAt (aud1 true false 0) (setBits (aInMask (audBlk 262151)) 32).length = 65536 ∧
      (setBits (aInMask (audBlk 262151)) 32).length = 2 ∧ aPeriod (audBlk 262151) = 2 ∧
      (aud1 true false 1).frames % aPeriod (audBlk 262151) = aPeriod (audBlk 262151) - 1 ∧
      (aud1 false true 1).frames % aPeriod (audBlk 262151) ≠ 0 ∧ setBits (aOutMask (audBlk 262151)) 32 = [0] ∧
      dmFault (audible (aud1 false true 0) []) 65536 4 = none ∧ imageHit (audible (aud1 true false 0) []) 65536 8 = false ∧
      (aud1 true false 0).run = 2 ∧ ({ aud1 true false 0 with run := 1 } : Aud).owner = 1) :=
  ⟨by decide, by decide +kernel, plain_of (by decide +kernel), by decide +kernel⟩

/-- What the frame sees after the period's examination. -/
theorem witness_CaptureAndAudio_drive : exec .outputPeriodStart { audible (aud1 true false 1) [] with aud := { aud1 true false 1 with run := 2 } } =
    .next { audible (aud1 true false 1) [] with aud := { aud1 true false 1 with run := 2 } } ∧
    audDrive (audible (aud1 true false 1) []) = (List.replicate 8 none, audible (aud1 true false 1) []) := by
  refine ⟨rfl, rfl⟩

theorem witness_CaptureAndAudio_period : (aud1 false true 0).outBuf.isSome = true ∧ (aud1 false true 0).frames % aPeriod (audBlk 262151) = 0 ∧
    (aud1 false true 0).examined < audPeriod (aud1 false true 0) ∧
    BitVec.ofNat 64 (audPeriod (aud1 false true 0)) ≤
      (fenceOf { audible (aud1 false true 0) [] with fences := fences23 9 false } (aOutFence (audBlk 262151))).val ∧
    ¬ BitVec.ofNat 64 (audPeriod (aud1 false true 0)) ≤
      (fenceOf (audible (aud1 false true 0) []) (aOutFence (audBlk 262151))).val := by decide +kernel

/-- A raw decompressing node of objects 7 and 8: arguments at word 0, result at word 4, first of its stream. -/
def cmpNode : BitVec 512 :=
  BitVec.ofNat 512 (4 + 262151 * 2 ^ 64 + 262152 * 2 ^ 96 + 4 * 2 ^ 394 + 2 ^ 391 + 2 ^ 384)

/-- Six source bytes, at most 16 out. -/
def cmpArgs : BitVec 256 := BitVec.ofNat 256 (6 * 2 ^ 96 + 16 * 2 ^ 224)

/-- A stored block of the one byte 0x41, and what an engine makes of it. -/
def storedA : List Byte := [0x01, 0x01, 0x00, 0xFE, 0xFF, 0x41]
def outA : CmpOutcome := { out0 with out := [0x41], used := 6, lens := List.replicate 320 0 }

/-- The decoder at the start of a stream, with the bits of some bytes. -/
def decoding (d : List Byte) : InfSt :=
  ({ wpos := 0, fill := 0, check := 0, totIn := 0, totOut := 0, win := [] } : Stream).decoder (streamBits d)

theorem test_inflate_stored : (infAll 16 (decoding storedA)).1.data = [0x41] := by decide +kernel

/-- RFC 1952 and 1950 check values of the digits 1 to 9. -/
theorem test_crc32_adler : crc32 0 [0x31, 0x32, 0x33, 0x34, 0x35, 0x36, 0x37, 0x38, 0x39] = 0xCBF43926 ∧
    adler32 1 [0x31, 0x32, 0x33, 0x34, 0x35, 0x36, 0x37, 0x38, 0x39] = 0x091E01DE := by decide +kernel

/-- The node running, the engines of partition 0 on. -/
def deflating (w : List (Nat × Nat)) (c : Tab Cmp) : State :=
  { running [cmpNode] [(0, { ctr := 0, st := .running })] true with
    objs := [(7, obj7), (8, { obj7 with base := 131072 })], cmpWait := w, cmps := c
    mem := { dram := mwrites (mwrites [] 0 (natBytes cmpArgs.toNat 32)) 65536 storedA }
    pwr := { dev := .active, fns := [(0, { en := true, st := .on }), (20, { en := true, st := .on })] } }

theorem witness_CompressionNodes : nType cmpNode = 4 ∧ cmpTaken (deflating [] []) 8 0 = false ∧
    dmFault (deflating [] []) ((graph4 [cmpNode] none).param (8 * nCmpArg cmpNode)) 32 = none ∧
    cmpArg (deflating [] []) (graph4 [cmpNode] none) cmpNode = cmpArgs ∧ zeroField cmpArgs 95 64 = true ∧
    zeroField cmpArgs 223 192 = true ∧ caSrcOff cmpArgs + caSrcLen cmpArgs ≤ (heldObj (deflating [] []) cmpNode 0).len ∧
    caDstOff cmpArgs + caDstCap cmpArgs ≤ (heldObj (deflating [] []) cmpNode 1).len ∧
    (deflating [(8, 0)] []).cmpWait.find? (cmpMay (deflating [(8, 0)] []) 0) = some (8, 0) := by decide +kernel

/-- Whether an outcome ends the node. -/
def endsWith (s : State) (n : BitVec 512) (src : List Byte) (cap : Nat) (r : CmpOutcome) : Bool :=
  match streamOf s n with
  | (some st, _) => (decompressEnd n st src cap r).isSome
  | (none, _) => false

theorem witness_CompressionNodes_end : (cmpOf (deflating [] [(0, { run := some (8, 0) })]) 0).run = some (8, 0) ∧
    cmpFault (deflating [] []) (graph4 [cmpNode] none) cmpNode cmpArgs = none ∧ cmpImage (deflating [] []) cmpNode cmpArgs = none ∧
    nHist cmpNode = false ∧ nStrict cmpNode = false ∧ nDir cmpNode = true ∧ outcomeOk outA = true ∧
    dmRead (deflating [] []) ((heldObj (deflating [] []) cmpNode 0).base + caSrcOff cmpArgs) (caSrcLen cmpArgs) = storedA ∧
    endsWith (deflating [] []) cmpNode storedA (caDstCap cmpArgs) outA = true ∧
    (graph4 [cmpNode] none).param (8 * nCmpRes cmpNode) = 32 ∧ (heldObj (deflating [] []) cmpNode 1).base = 131072 := by
  decide +kernel

/-- The node compressing a last block, and one that goes on from object 9, which holds no stream. -/
def cmpNodeC : BitVec 512 := BitVec.ofNat 512 (cmpNode.toNat - 2 ^ 391 + 3 * 2 ^ 385)
def cmpNodeH : BitVec 512 := BitVec.ofNat 512 (cmpNode.toNat - 2 ^ 384 + 2 ^ 383 + 262153 * 2 ^ 128)
def compressesTo (s : State) (n : BitVec 512) (src : List Byte) (cap : Nat) (r : CmpOutcome) : Bool :=
  match streamOf s n with
  | (some st, _) => (compressEnd n st src cap r).any (fun e => e.code == .end_ && e.bytes == r.out)
  | (none, _) => false

theorem witness_CompressionNodes_compress : nDir cmpNodeC = false ∧ nFlush cmpNodeC = 3 ∧
    compressesTo (deflating [] []) cmpNodeC [0x41] 16 { outA with out := storedA } = true ∧
    nHist cmpNodeH = true ∧ nFirst cmpNodeH = false ∧ (streamOf (deflating [] []) cmpNodeH).1.isNone = true ∧
    zeroField (BitVec.ofNat 256 (2 ^ 64)) 95 64 = false ∧
    (heldObj (deflating [] []) cmpNode 0).len < caSrcOff (BitVec.ofNat 256 (4097 * 2 ^ 96)) + caSrcLen (BitVec.ofNat 256 (4097 * 2 ^ 96)) ∧
    (deflating [] []).cmpWait.find? (cmpMay (deflating [] []) 0) = none ∧ (cmpOf (deflating [] []) 0).run = none ∧
    polAt (deflating [] []) 1 131072 ≠ 3 ∧ polAt (deflating [] []) 1 32 ≠ 3 := by decide +kernel

theorem witness_CompressionNodes_plain : PlainAccess (deflating [] []) 1 131072 16 ∧ PlainAccess (deflating [] []) 1 32 32 :=
  ⟨plain_of (by decide +kernel), plain_of (by decide +kernel)⟩

/-! ## Witnesses: security, chip links, errors, power -/

/-- Two pages of a WRITE window and two of a READ window of context 1, with a block in page 256. -/
def secure (b : List Byte) : State :=
  { blocked b with wt := { table := [(0, { valid := true, ap := 256, pb := 256, npages := 16, cls := 1, ctx := 1 }),
      (1, { valid := true, ap := 512, pb := 512, npages := 16, cls := 0, ctx := 1 })] } }

theorem secReady (b : List Byte) (tag : BitVec 4) (op i o : Nat) (hi : i < 8192) (ho : o < 8192)
    (h : scPagesOk (secure []) (secWord tag op 1 i o) = true) : SecReady (secure b) tag op 1 i o :=
  ⟨⟨rfl, rfl, fun h => DevState.noConfusion h, rfl⟩, rfl, rfl, rfl, by decide, hi, ho, h⟩

theorem witness_SecurityCommands : scPagesOk (secure []) (secWord 3 1 1 256 512) = true ∧
    scPagesOk (secure []) (secWord 3 2 1 0 512) = true ∧ scPagesOk (secure []) (secWord 3 3 1 256 0) = true ∧
    scPagesOk (secure []) (secWord 3 4 1 256 0) = true ∧ scPagesOk (secure []) (secWord 3 5 1 256 0) = true ∧
    scPagesOk (secure []) (secWord 3 6 1 0 512) = true ∧ scPagesOk (secure []) (secWord 3 7 1 256 0) = true ∧
    scPagesOk (secure []) (secWord 3 8 1 256 0) = true ∧ scPagesOk (secure []) (secWord 3 9 1 256 0) = true ∧
    Memory.wf (secure []).pb = true ∧ pbBad (secure []) (256 * 4096) 8192 = [] := by decide +kernel

/-- A set record of set 5 for serial 0, its signature and key all zero. -/
def setBytes : List Byte := natBytes (0x4B544553 + 2 ^ 32 + 5 * 2 ^ 64) 12
def setData : List Byte := pbFetch (secure setBytes) (256 * 4096) 8192

theorem witness_SecurityCommands_record : SetRecord (secure setBytes) setData :=
  ⟨by decide +kernel, by decide +kernel, by decide +kernel, by decide +kernel, by decide +kernel, by decide +kernel⟩

theorem witness_SecurityCommands_unsigned (k m g : List Byte) : ¬ SignedBy k m g (Config.sha3 k + 1) := by
  rintro ⟨h, -⟩
  exact absurd (congrArg (fun x => x - Config.sha3 k) h) (by simp)

/-- What a signature and an unwrapping that hold give (log 7). -/
theorem witness_SecurityCommands_signed (k m g : List Byte) (h : Config.sigValid k (Config.sha3 m) g = true) :
    SignedBy k m g (Config.sha3 k) := ⟨rfl, h⟩

theorem witness_SecurityCommands_slot : slotOfSet (secure setBytes) (BitVec.ofNat 32 (blockNum setData 8 4)) = none ∧
    tfirst (secure setBytes).sec.slots (fun _ => false) 0 16 = some 0 ∧ (secure setBytes).sec.load = none ∧
    slotOfSet { secure [5] with sec := { (secure [5]).sec with slots := [(2, { setId := 5, policy := 0, ekHash := 0, seed := [] })] } }
      (BitVec.ofNat 32 (leNat (pbFetch (secure [5]) (256 * 4096) 4))) = some 2 := by decide +kernel

/-- A weight-load block of objects 7 and 8, and a package header of 16 bytes of set 5. -/
def loadBlock : List Byte := natBytes (262151 + 262152 * 2 ^ 32) 32
def package : List Byte := natBytes (0x50475457 + 2 ^ 32 + 5 * 2 ^ 64 + 16 * 2 ^ 96 + 16 * 2 ^ 128) 24

/-- The objects, the package and the set. -/
def loading : State :=
  { secure loadBlock with
    objs := [(7, { obj7 with len := 8192 }), (8, { obj7 with base := 131072 })]
    mem := { dram := mwrites [] 65536 package }
    sec := { (secure []).sec with slots := [(2, { setId := 5, policy := 0, ekHash := 0, seed := [] })] } }

theorem witness_SecurityCommands_load :
    (resolve loading 1 262151 true false false).map (fun o => (o.base, o.len, o.remote)) = some (65536, 8192, false) ∧
    (resolve loading 1 262152 false true false).map (fun o => (o.base, o.len, o.remote)) = some (131072, 4096, false) ∧
    BitVec.ofNat 256 (leNat (pbFetch loading (256 * 4096) 32)) = BitVec.ofNat 256 (262151 + 262152 * 2 ^ 32) ∧
    dmFault loading 65536 4096 = none ∧ whOk (dmRead loading 65536 4096) = true ∧ whLen (dmRead loading 65536 4096) ≤ 8192 ∧
    whPlain (dmRead loading 65536 4096) = 16 ∧ slotOfSet loading (whSet (dmRead loading 65536 4096)) = some 2 ∧
    (whPolicy (dmRead loading 65536 4096) ||| 0).testBit 1 = false ∧ (whPolicy (dmRead loading 65536 4096) ||| 0).testBit 0 = false := by
  decide +kernel

theorem witness_SecurityCommands_loadFails : bits (BitVec.ofNat 256 (2 ^ 176)) 215 176 % 64 ≠ 0 ∧
    bits (BitVec.ofNat 256 (262151 + 262152 * 2 ^ 32)) 215 176 % 64 = 0 ∧
    (resolve loading 1 5 true false false).all (·.remote) = true ∧
    (obj7.len : Nat) < bits (BitVec.ofNat 256 (64 * 2 ^ 176)) 215 176 + 4096 ∧
    whOk (dmRead loading 131072 4096) = false ∧ slotOfSet (secure []) (whSet (dmRead loading 65536 4096)) = none ∧
    (2 ||| whPolicy (dmRead loading 65536 4096)).testBit 1 = true ∧ (1 ||| whPolicy (dmRead loading 65536 4096)).testBit 0 = true ∧
    (partRec loading (ctxOf loading 1).part).any (·.enc) = false ∧ 2 ≤ ({ loading.sec with level := 2 } : Sec).level ∧
    (ctxOf loading 2).st ≠ .active := by decide +kernel

/-- A load at its first chunk, of 16 plaintext bytes. -/
def load1 : WLoad :=
  { ctx := 1, src := 7, dst := 8, srcAt := 65536, dstAt := 131072, header := package, key := [], next := 0, slot := 2 }

theorem witness_SecurityCommands_chunk :
    ({ loading with sec := { loading.sec with load := some load1 } } : State).sec.deferred = [] ∧
    min (2 ^ whLog load1.header) (whPlain load1.header - load1.next * 2 ^ whLog load1.header) = 16 ∧
    imageHit loading 131072 16 = false ∧ dmFault loading (65536 + 4096) 32 = none ∧ (macDrops loading 131072 16).isNone = true ∧
    whChunks load1.header = 1 ∧ PlainAccess loading 1 131072 16 :=
  ⟨rfl, by decide +kernel, by decide +kernel, by decide +kernel, by decide +kernel, by decide +kernel,
    plain_of (by decide +kernel)⟩

/-- A debug token of level 2 by the vendor for serial 0. -/
def tokenHead : List Byte := natBytes (0x4E4B5444 + 2 * 2 ^ 32) 8
def tokenOf : List Byte := pbFetch (secure tokenHead) (256 * 4096) 8192

/-- The device it is for: the vendor's key fused, a nonce of zero out. -/
def locked : State :=
  { secure tokenHead with
    fuses := { (secure []).fuses with vendorKh := Config.sha3 (slice tokenOf 64 1952) }
    sec := { (secure []).sec with nonce := some 0 } }

theorem witness_SecurityCommands_fields : TokenFields tokenOf :=
  ⟨by decide +kernel, by decide +kernel, by decide +kernel, by decide +kernel⟩

theorem witness_SecurityCommands_token (h : Config.sigValid (slice tokenOf 64 1952) (Config.sha3 (slice tokenOf 0 2016))
    (slice tokenOf 2016 3309) = true) : TokenGood locked tokenOf where
  fields := witness_SecurityCommands_fields
  noKill := rfl
  policy := by decide
  owner := by decide
  higher := by decide +kernel
  signed := by
    have : blockNum tokenOf 5 1 = 0 := by decide +kernel
    rw [if_pos this]; exact ⟨rfl, h⟩
  serial := by decide +kernel
  nonce := by
    have : blockNum tokenOf 16 32 = 0 := by decide +kernel
    rw [this]; rfl

theorem witness_SecurityCommands_noToken : ¬ TokenGood locked [] := fun h => absurd h.fields.magic (by decide)

/-- Tokens that come to a security processor that starts again. -/
theorem witness_SecurityCommands_tap : ({ locked with sec := { locked.sec with downUntil := some 9 } } : State).sec.downUntil ≠ none ∧
    locked.sec.downUntil = none ∧ locked.runs = true := by decide +kernel

/-- A stage image with an SVN. -/
def stage1 : StageImage := { image := [], svn := 4, digest := 0 }

theorem witness_SecurityCommands_fuses : leNat (pbFetch (secure [1]) (256 * 4096) 1) = 1 ∧
    svnOf (secure [1]).fuses 1 < 4 ∧ 4 ≤ svnOf { (secure [1]).fuses with svnM := 4 } 1 ∧
    tfind (secure [1]).boot.images 1 = none ∧
    tfind ({ secure [1] with boot := { (secure [1]).boot with images := [(1, stage1)] } } : State).boot.images 1 = some stage1 ∧
    leNat (pbFetch (secure (natBytes 0x4B494C4C 4)) (256 * 4096) 4) = 0x4B494C4C ∧
    leNat (pbFetch (secure []) (256 * 4096) 4) ≠ 0x4B494C4C := by decide +kernel

/-- The world with a link in a state and a ring of two chips, this one chip 0. -/
def ringed (st : LinkState) : State :=
  { world with links := [(0, { st := st })], ring := { id := 9, reach := 3, n := 2, st := .up } }

theorem witness_ChipLinks_training : (linkOf (ringed .training) 0).st = .training ∧ badLanes 0x1FF = [] ∧ badLanes 0x1FB = [2] ∧
    2 ≤ (badLanes 0x1F0).length ∧ (linkOf (ringed .up) 0).st = .up ∧ (linkOf (ringed .up) 0).st ≠ .training ∧
    (ringed .up).log.used (ringed .up).log.nextOrd = false := by decide +kernel

/-- A block of a ring of two chips, and a state that holds it. -/
def ringBlock : List Byte := natBytes (9 + 2 * 2 ^ 32) 16

theorem olReady (s : State) (h1 : s.runs = true) (h2 : s.boot.stage = .ready) (h3 : s.pwr.dev ≠ .retain)
    (h4 : s.pwr.mgmtRestarting = false) (h5 : s.olCmd.busy = false) (h6 : writePage s 256 none = true) : OlReady s 256 :=
  ⟨⟨h1, h2, h3, h4⟩, h5, by decide, h6⟩

theorem witness_ChipLinks_ring : OlReady (blocked ringBlock) 256 ∧ ringBlockOk (BitVec.ofNat 128 (leNat ringBlock)) ∧
    ¬ ringBlockOk (BitVec.ofNat 128 (leNat (natBytes 9 16))) ∧
    (pbBad (blocked ringBlock) (256 * 4096) 16 = [] ∧ pbFetch (blocked ringBlock) (256 * 4096) 16 = ringBlock ∧
      pbFetch (blocked (natBytes 9 16)) (256 * 4096) 16 = natBytes 9 16 ∧
      (blocked ringBlock).grants = [] ∧ (blocked ringBlock).hub.any (fun e => e.2.owner.isSome && e.2.ring) = false ∧
      ([(3, { owner := some 1, ring := true })] : Tab Hub).any (fun e => e.2.owner.isSome && e.2.ring) = true ∧
      (linkOf { blocked ringBlock with links := [(0, { st := .up })] } 0).st = .up ∧ (linkOf (blocked ringBlock) 1).st ≠ .up ∧
      ([some ⟨9, 1, 0⟩, none] : List (Option PeerId))[0]? = some (some ⟨9, 1, 0⟩)) :=
  ⟨olReady _ rfl rfl (fun h => DevState.noConfusion h) rfl rfl (by decide +kernel),
    ⟨by decide +kernel, by decide +kernel, by decide +kernel, by decide +kernel, by decide +kernel, by decide +kernel,
      by decide +kernel, by decide +kernel⟩,
    fun h => absurd h.2.2.2.2.1 (by decide +kernel), by decide +kernel⟩

/-- A grant block: object 7 of context 1, or its fence 2, to context 4 of chip 1 as object 9 or fence 6. -/
def grantBlock : BitVec 256 :=
  BitVec.ofNat 256 (1 + 2 ^ 149 + 2 ^ 151 + 4 * 2 ^ 154 + 6 * 2 ^ 164 + 2 * 2 ^ 178 + (262144 + 9) * 2 ^ 192 + 262151 * 2 ^ 224)

/-- The ringed world with the block. -/
def exporting : State :=
  { ringed .up with pb := mwrites [] 1048576 (natBytes grantBlock.toNat 32), objs := [(7, obj7)], fences := fences23 0 false }

theorem witness_ChipLinks_export : ExportReady exporting 256 grantBlock ∧
    ((resolve exporting 1 (gbHandle grantBlock) (gbR0 grantBlock) (gbR1 grantBlock) false).map (fun h => (h.idx, h.remote)) =
        some (7, false) ∧ gbOctx grantBlock = 1 ∧ allocIdx 7 = false ∧ allocIdx (gbPhandle grantBlock % 262144) = false ∧
      gbPhandle grantBlock % 262144 ≠ 0 ∧ gbPhandle grantBlock / 262144 ≠ 0 ∧ gbFence grantBlock = 2 ∧
      (tget exporting.objs 7 {}).ownerHolds = true ∧ (tget exporting.objs 7 {}).owner = 1 ∧ tchipOk exporting grantBlock = true ∧
      freeGrant exporting = some 0 ∧ ringUsable exporting = true ∧ (tget exporting.objs 7 {}).importers.length < 7 ∧
      ringUsable { exporting with ring := { exporting.ring with standby := 1 } } = false ∧
      (fenceOf exporting 2).st = .live ∧ (fenceOf exporting 2).ownerHolds = true ∧ (fenceOf exporting 2).owner = 1 ∧
      (fenceOf exporting 2).remote = none ∧ (fenceOf exporting 2).importers.length < 15 ∧
      15 ≤ (List.replicate 15 (⟨2, true, true⟩ : Holder)).length ∧ tchipOk { exporting with ring := {} } grantBlock = false) :=
  ⟨⟨olReady _ rfl rfl (fun h => DevState.noConfusion h) rfl rfl (by decide +kernel), by decide +kernel, by decide +kernel⟩,
    by decide +kernel⟩

/-- A grant of object 7, or of fence 2, to context 4 of chip 1, and a fence that is a proxy. -/
def grantTo (f : Bool) : Grant :=
  { isFence := f, index := if f then 2 else 7, octx := 1, tctx := 4, tchip := 1, r0 := true, r1 := true, proxy := 9 }
def granted (f : Bool) : State := { exporting with grants := [(3, grantTo f)] }

/-- A proxy of object 3 of chip 1 at index 5, and one of a fence there at 2. -/
def proxied : State :=
  { exporting with objs := [(5, { obj7 with remote := some 25 })], fences := [(2, { st := .live, owner := 1, remote := some 25 })], links := [] }

theorem witness_ChipLinks_grants (f : Bool) : MgmtReady (granted f) ∧ (granted f).olCmd.busy = false ∧
    tfind (granted f).grants 3 = some (grantTo f) ∧ tfind (granted f).grants 4 = none ∧ (grantTo f).revoked = false ∧
    ({ grantTo f with revoked := true } : Grant).revoked = true ∧ (grantTo f).isFence = f :=
  ⟨⟨rfl, rfl, fun h => DevState.noConfusion h, rfl⟩, rfl, rfl, rfl, rfl, rfl, rfl⟩

theorem witness_ChipLinks_arrive : (ctxOf exporting 1).st = .active ∧ exporting.ring.st ≠ .none ∧
    (tget exporting.objs 9 {}).st = .free ∧ allocIdx 9 = false ∧ (262144 + 9) / 262144 ≠ 0 ∧ (fenceOf exporting 6).st = .free ∧
    world.ring.st = .none ∧ (fenceOf exporting 2).st ≠ .free ∧
    (granted true).grants.any (fun e => e.2.isFence && e.2.index == 2 && e.2.tchip == 1 && e.2.tctx == 4 && e.2.r1) = true ∧
    exporting.grants.any (fun e => e.2.isFence && e.2.index == 2 && e.2.tchip == 1 && e.2.tctx == 4 && e.2.r1) = false := by
  decide +kernel

theorem witness_ChipLinks_proxies : (fenceOf proxied 2).remote.isSome = true ∧ (fenceOf proxied 2).st = .live ∧
    (tget proxied.objs 5 {}).remote.isSome = true ∧ 5 ∉ (ctxOf proxied (tget proxied.objs 5 {}).owner).reserve ∧
    (fenceOf exporting 2).remote = none ∧ (tget exporting.objs 7 {}).remote = none ∧ proxied.runs = true := by decide +kernel

theorem witness_ChipLinks_access : (0 : Nat) + 16 ≤ (tget (granted false).objs 7 {}).len ∧
    (tget (granted false).objs 7 {}).len < 4090 + 16 ∧ dmFault (granted false) 65536 16 = none ∧
    imageHit (granted false) (65536 + 0) 16 = false ∧ (macDrops (granted false) (65536 + 0) 16).isNone = true ∧
    65536 + 0 + 16 ≤ ssStart ∧ 2 ≤ (tget (granted false).objs 7 {}).policy ∧ (tget (granted false).objs 7 {}).policy ≠ 3 ∧
    (granted false).mem.l2 = [] ∧ (granted false).mem.wcb = [] ∧ (granted false).mem.macBad = [] ∧
    Memory.wf (granted false).mem.dram = true ∧ Memory.wf (granted false).mem.ss = true ∧
    ({ grantTo false with r1 := false, r0 := false } : Grant).r1 = false := by decide +kernel

/-- Hub counter 3 in a ring whose root is this chip or the other. -/
def counting (root : Nat) (h : Hub) : State :=
  { exporting with
    hub := [(3, h)], ring := { exporting.ring with root := root }
    luCmd := { tag := 1, busy := true, extra := 3 * 16 } }

theorem witness_ChipLinks_ringCounter : isRoot (counting 0 {}) = true ∧ isRoot (counting 1 {}) = false ∧
    hubOf (counting 0 { owner := some 1, ring := true, parts := 2 }) 3 = { owner := some 1, ring := true, parts := 2 } ∧
    (0 : Nat) + 1 ≠ 2 ∧ (1 : Nat) + 1 = 2 ∧ 3 ∈ joinIdx (counting 1 {}) ∧ (counting 1 {}).luCmd.busy = true ∧
    exporting.luCmd.busy = false ∧ 4 ∉ joinIdx (counting 1 {}) ∧ exporting.fly.watches = [] ∧
    runWatches [] (0 : W32) = (0, [], []) ∧ (hubOf exporting 3).owner = none ∧
    3 ∉ ringMask (counting 0 { owner := some 1, ring := true, parts := 1 }) 3 1 true := by decide +kernel

theorem witness_ChipLinks_unreachable : linkedTo exporting 1 = true ∧ linkedTo proxied 1 = false ∧ proxied.ring.st ≠ .none ∧
    (1 : Nat) < proxied.ring.n ∧ 1 ≠ proxied.ring.chip ∧ proxied.ring.reach.getLsbD 1 = true ∧ proxied.ring.root ≠ 1 ∧
    proxied.insts = [] ∧ proxied.grants = [] ∧ remoteChip (fenceOf proxied 2).remote = some 1 ∧
    tfind proxied.objs 5 = some { obj7 with remote := some 25 } ∧ remoteChip (some 25) = some 1 ∧
    ({ grantTo true with tchip := 2 } : Grant).tchip ≠ 1 ∧ proxied.log.used proxied.log.nextOrd = false ∧
    world.ring.st = .none := by decide +kernel

/-- A record, and the world with it held in the next ordinary slot, or a log whose ring of page 512 takes it. -/
def rec1 : ErrRec :=
  { code := 1, cls := 1, unit := 0, inst := 0, addr := 0, info := 0, ctx := none, seq := 1, ts := 0 }

/-- The world with core 0's workgroup 4, a graph, a sequence entry and a stage image. -/
def erring : State :=
  { world with
    wgs := [(4, wgA)], graphs := [(graphKey 1 4, graph4 [signalNode] none)], seqs := [(12, { ctx := 1 })]
    boot := { world.boot with images := [(1, stage1)] } }

theorem witness_ErrorsAndRestarts : errAt world 0 0 0 = true ∧ errAt world 1 0 0 = false ∧ errAt world 1 0 ssStart = true ∧
    errAt world 5 1 0 = true ∧ errAt world 5 2 0 = false ∧ world.log.used world.log.nextOrd = false ∧
    ({ world.log with recs := [rec1] } : Log).used 0 = true ∧ wgA.core = 0 ∧ tfind erring.wgs 4 = some wgA ∧
    tfind erring.wgs 5 = none ∧ wgA.core ≠ 1 ∧ (chanOf world 65536).any (fun c => chanUp world c.1) = true ∧
    (chanOf world 65536).isSome = true ∧ (chanOf world ssStart).any (fun c => chanUp world c.1) = false ∧
    (ctxOf world 2).st ≠ .active ∧ (ctxOf world 1).st = .active ∧ tfind world.ctxs 1 = some ctx1 ∧
    (tfind erring.graphs (graphKey 1 4)).isSome = true ∧ tfind world.graphs (graphKey 1 4) = none ∧
    (tfind erring.seqs 12).isSome = true ∧ tfind world.seqs 12 = none ∧ thas erring.boot.images 1 = true ∧
    thas world.boot.images 1 = false := by decide +kernel

/-- Partition 0 encrypted, with keys. -/
def ciphered : State :=
  { world with
    cfg := { cfg0 with parts := [{ part0 with enc := true }] }, mem := { keys := [(0, { x1 := 1, x2 := 2, mac := 3 })] } }

theorem witness_ErrorsAndRestarts_tamper : (encAt world 0).isNone = true ∧ (encAt ciphered 0).isSome = true ∧
    (encAt ciphered 0).map (·.2) = some { x1 := 1, x2 := 2, mac := 3 } ∧ Memory.wf ciphered.mem.dram = true ∧
    ciphered.runs = true := by decide +kernel

theorem witness_ErrorsAndRestarts_portBuffer : bootPage (booting .awaitM) 4 = true ∧ bootPage (booting .awaitM) 4096 = true ∧
    bootPage (booting .awaitM) 8191 = true ∧ bootPage world 4 = false ∧ bootPage world 255 = false ∧ bootPage world 256 = false ∧
    (pbEntry world 300).isNone = true ∧ (pbEntry world 256).map (·.ctx) = some 1 ∧ 5 / 8 ∉ world.pbPoison := by decide +kernel

/-- An injection of a kind into a unit. -/
def injecting (kind unit : Nat) (s : State) : State :=
  { s with log := { s.log with inject := BitVec.ofNat 32 (kind + unit * 65536) } }

theorem witness_ErrorsAndRestarts_inject :
    bits (injecting 2 5 world).log.inject 1 0 = 2 ∧ bits (injecting 2 5 world).log.inject 21 16 = 5 ∧
    bits (injecting 2 5 world).log.inject 13 8 = 0 ∧ injectHits world 5 0 1048576 = true ∧ injectHits world 1 0 ssStart = true ∧
    injectHits world 2 0 0 = true ∧ injectHits world 0 0 0 = true ∧ injectHits world 5 0 33554432 = false ∧
    bits (injecting 1 0 world).log.inject 1 0 = 1 ∧ bits (injecting 3 0 world).log.inject 1 0 = 3 ∧
    bit world.log.ringCfg 0 = false ∧ bits (0 : W32) 1 0 = 0 ∧ world.sec.level = 0 ∧
    1 ≤ ({ world.sec with level := 1 } : Sec).level := by decide +kernel

/-- The device reloading its front end, with one command lost. -/
def reloadingFe : State :=
  { commanded (cmdOf (desc 0 0) true) with fw := { feReloading := true, feLost := [3] } }

theorem witness_ErrorsAndRestarts_restarts : world.fw.feReloading = false ∧ world.pwr.mgmtRestarting = false ∧
    world.fw.feHeld = [] ∧ world.fw.feLost = [] ∧ world.fw.feLostInsts = [] ∧ world.cmds = [] ∧ world.fw.mgmtHeld = [] ∧
    world.fw.zeroedHeld = [] ∧ world.fw.limHeld = none ∧ ({ world.fw with limHeld := some 80 } : Fw).limHeld = some 80 ∧
    world.pwr.retain = false ∧ world.sec.load = none ∧ world.sec.deferred = [] ∧ world.sec.heldCmds = [] ∧
    reloadingFe.fw.feReloading = true ∧ reloadingFe.cmds.all (fun e => !e.2.unresolved) = true ∧
    reloadingFe.fw.feLost = [3] ∧ (tfind reloadingFe.cmds 3).map (·.queue) = some 5 ∧ (queueOf reloadingFe 5).st = .live ∧
    (placeEntry reloadingFe (queueOf reloadingFe 5)).isSome = true ∧ Memory.wf reloadingFe.pb = true ∧
    loading.sec.heldCmds = [] ∧ ({ world with pwr := { world.pwr with mgmtRestarting := true } } : State).runs = true := by
  decide +kernel

/-- The world whose log holds it, its ring on page 512 of 128 places, with a record waiting. -/
def draining (seq : W32) (q : List ErrRec) : State :=
  { secure [] with log := { (secure []).log with
      ringCfg := BitVec.ofNat 32 (1 + 7 * 2 ^ 15 + 512 * 2 ^ 19), recs := [{ rec1 with seq := seq }], overQ := q } }

theorem witness_ErrorsAndRestarts_drain : bit (draining 1 []).log.ringCfg 0 = true ∧ (draining 1 []).pwr.mgmtRestarting = false ∧
    ringMapped (draining 1 []) = true ∧ (draining 1 []).log.recs = rec1 :: [] ∧
    (1 - (draining 1 []).log.ringHead).toNat ≤ 2 ^ ringLog (draining 1 []).log ∧ Memory.wf (draining 1 []).pb = true ∧
    (128 - (draining 128 []).log.ringHead).toNat ≤ 2 ^ ringLog (draining 128 []).log ∧
    2 ^ ringLog (draining 129 []).log < (129 - (draining 129 []).log.ringHead).toNat ∧ (draining 1 []).log.overQ = [] ∧
    ({ (draining 1 []).log with recs := [] } : Log).slotFor 2 = some (0, false) ∧
    ({ (draining 1 []).log with recs := [{ rec1 with idx := 7 }], nextOrd := 7 } : Log).slotFor 1 = none ∧
    bits (0 : W32) 31 15 ≠ bits (draining 1 []).log.ringCfg 31 15 := by decide +kernel

/-- Injection of an uncorrectable error into a unit and half that a page of the port buffer has. -/
theorem witness_ErrorsAndRestarts_half : pbHalf (secure []) 256 = 0 ∧ (1048576 : Nat) / 8 ∉ (secure []).pbPoison ∧
    bits (BitVec.ofNat 32 (2 + 5 * 65536)) 13 8 = 0 := by decide +kernel

/-- The world with a function in a state. -/
def fnIn (n : Nat) (e : Fn) : State := { world with pwr := { dev := .active, fns := [(n, e)] } }

theorem witness_PowerCommands_grants : fnConcerns (fnIn 8 {}) 8 ≠ [] ∧ (fnConcerns (fnIn 8 {}) 8).all (·.fnGrant) = true ∧
    (fnConcerns { fnIn 8 {} with cfg := { cfg0 with parts := [{ part0 with fnGrant := false }] } } 8).all (·.fnGrant) = false ∧
    (booting .awaitM).boot.stage ≠ .ready ∧ (fnConcerns (fnIn 13 {}) 13).isEmpty = true ∧ (partRec world 1).isNone = true ∧
    (partRec world 0).isSome = true ∧ (fnConcerns (fnIn 12 {}) 12).isEmpty = false ∧ (fnConcerns (fnIn 20 {}) 20).isEmpty = false ∧
    (fnConcerns (fnIn 11 {}) 11).isEmpty = false := by decide +kernel

/-- The states a write of FN_EN meets, of a partition, a pipe, a core group and an engine. -/
theorem witness_PowerCommands_fn : (fnOf (fnIn 8 {}) 8).st = .off ∧ (fnIn 8 {}).pwr.dev = .active ∧
    ({ fnIn 8 {} with pwr := { dev := .retain } } : State).pwr.dev ≠ .active ∧
    (fnOf (fnIn 8 { en := true, st := .starting }) 8).st = .starting ∧ (fnOf (fnIn 8 { st := .restarting }) 8).st = .restarting ∧
    (fnOf (fnIn 8 { st := .stopping }) 8).st = .stopping ∧ (fnOf (fnIn 11 { en := true, st := .on }) 11).st = .on ∧
    (fnOf (fnIn 12 { en := true, st := .on }) 12).st = .on ∧ (tget (fnIn 20 { en := true, st := .on }).cmps 0 {}).run = none ∧
    (tget ([(0, { run := some (8, 0) })] : Tab Cmp) 0 {}).run.isSome = true ∧
    (fnOf (fnIn 0 { en := true, st := .on }) 0).st = .on ∧ partRec (fnIn 0 { en := true, st := .on }) 0 = some part0 ∧
    (fnIn 0 { en := true, st := .on }).mem.op = none ∧ groupsOf part0 = [0] ∧
    (fnIn 0 { en := true, st := .on }).insts.all (fun e => e.2.part != 0) = true ∧
    (fnIn 0 {}).cfg.parts.any (fun q => q.idx != 0 && (fnOf (fnIn 0 {}) q.idx).en && (groupsOf q).contains 0) = false := by
  decide +kernel

/-- The states a transition's end meets. -/
theorem witness_PowerCommands_transitions : (fnOf (fnIn 12 { st := .stopping }) 12).pending = false ∧
    Machine.tracing (fnIn 12 { st := .stopping }) 0 = false ∧
    Machine.tracing { fnIn 12 { st := .stopping } with fly := { traces := [(1, trace1 20)] } } 0 = true ∧
    (fnOf (fnIn 12 { st := .stopping, pending := true }) 12).pending = true ∧
    (fnOf (fnIn 0 { en := true, st := .starting }) 0).en = true ∧ (fnOf (fnIn 0 { st := .starting }) 0).en = false ∧
    (fnIn 0 { st := .starting }).mem.op = none ∧ (fnOf world 8).st = .off ∧ (fnOf world 0).st = .on ∧
    (partRec (fnIn 0 { st := .starting }) 0).isSome = true ∧ world.log.used world.log.nextOrd = false := by decide +kernel

theorem witness_PowerCommands_retain : (fnIn 8 {}).pwr.fns.all (fun e => e.2.st == .off) = true ∧
    world.pwr.fns.all (fun e => e.2.st == .off) = false ∧ world.pwr.dev = .active ∧ world.pwr.mgmtRestarting = false ∧
    ({ world with pwr := { dev := .retain, waking := true } } : State).runs = true ∧
    ([] : Tab Fn).all (fun e => !e.2.latched) = true ∧
    (fnOf { world with pwr := { dev := .retain, waking := true, fns := [(8, { en := true, latched := true })] } } 8).latched = true ∧
    ([(8, { en := true, latched := true })] : Tab Fn).all (fun e => e.2.st == .off) = true ∧
    (fnConcerns world 8).isEmpty = false ∧ world.cfg.hostWritesLimit = true ∧ world.boot.stage = .ready ∧
    ({ cfg0 with hostWritesLimit := false } : Cfg).hostWritesLimit = false := by decide +kernel

/-- The world drawing a power, in mW. -/
def drawingW (mw : Nat) : State := { world with pwr := { world.pwr with samples := [mw] } }

theorem witness_PowerCommands_loop : (powerLimit (drawingW 0)).1 = 100 ∧
    min (drawingW 0).cfg.limitW (max 35 (drawingW 0).pwr.hostLim.toNat) = 100 ∧
    (raiseOrder (drawingW 200000)).find? (fun g => decide (tget (drawingW 200000).pwr.steps g 0 < 12)) = some 0 ∧
    (raiseOrder { drawingW 200000 with pwr := { (drawingW 200000).pwr with steps := [(0, 12)] } }).find? (fun g => decide
      (tget [(0, 12)] g 0 < 12)) = none ∧
    (raiseOrder (drawingW 0)).reverse.find? (fun g => decide (0 < tget (drawingW 0).pwr.dLoop g 0)) = none ∧
    (raiseOrder { drawingW 0 with pwr := { (drawingW 0).pwr with dLoop := [(0, 3)] } }).reverse.find? (fun g => decide
      (0 < tget [(0, 3)] g 0)) = some 0 ∧
    (100 : Nat) * 1000 * 1 < 100001 ∧ (94999 : Nat) * 100 < 95 * 100 * 1000 * 1 ∧ (95000 : Nat) ≤ 100 * 1000 * 1 ∧
    95 * 100 * 1000 * 1 ≤ 95000 * 100 := by decide +kernel

theorem witness_PowerCommands_thermal : world.cfg.throttleC = 90 ∧ 2 ∈ ({ world.pwr with hot := [2] } : Pwr).hot ∧
    2 ∉ world.pwr.hot ∧ ([3] : List Nat).any (fun x => x / 3 == 5 / 3) = true ∧ ([] : List Nat).any (fun x => x / 3 == 5 / 3) = false ∧
    tripC world = 130 ∧ 125 + 5 = tripC world ∧ world.pwr.vNext = none ∧ ({ world.pwr with vNext := some 3 } : Pwr).vNext = some 3 ∧
    3 ≤ demand { world.pwr with dHold := [], dCur := [(0, 8)] } 0 := by decide +kernel

end Sys2Proof.Tests
end

/-! # Every step keeps the byte memories canonical -/

section
namespace Sys2Proof.Machine

set_option Elab.async false

variable {s t : State}

theorem Canonical.keep (h : Canonical s) (hp : t.pb = s.pb := by rfl) (hd : t.mem.dram = s.mem.dram := by rfl)
    (hs : t.mem.ss = s.mem.ss := by rfl) : Canonical t := by
  unfold Canonical at *; rwa [hp, hd, hs]

theorem Canonical.ite {c : Prop} [Decidable c] (hs : Canonical s) (ht : Canonical t) :
    Canonical (if c then s else t) := by
  split
  · exact hs
  · exact ht

theorem Canonical.iteSnd {α : Type} {c : Prop} [Decidable c] {p q : α × State} (hp : Canonical p.2)
    (hq : Canonical q.2) : Canonical (if c then p else q).2 := by
  split
  · exact hp
  · exact hq

theorem Canonical.iteFst {α : Type} {c : Prop} [Decidable c] {p q : State × α} (hp : Canonical p.1)
    (hq : Canonical q.1) : Canonical (if c then p else q).1 := by
  split
  · exact hp
  · exact hq

theorem Canonical.iteTrd {α β : Type} {c : Prop} [Decidable c] {p q : α × β × State} (hp : Canonical p.2.2)
    (hq : Canonical q.2.2) : Canonical (if c then p else q).2.2 := by
  split
  · exact hp
  · exact hq

theorem Canonical.foldl {α : Type} {f : State → α → State} {l : List α} (h : Canonical s)
    (hf : ∀ {u x}, Canonical u → Canonical (f u x)) : Canonical (l.foldl f s) := by
  induction l generalizing s with
  | nil => exact h
  | cons x l ih => exact ih (hf h)

theorem Canonical.foldlSnd {α β : Type} {f : β × State → α → β × State} {l : List α} {p : β × State}
    (h : Canonical p.2) (hf : ∀ {q x}, Canonical q.2 → Canonical (f q x).2) : Canonical (l.foldl f p).2 := by
  induction l generalizing p with
  | nil => exact h
  | cons x l ih => exact ih (hf h)

theorem Canonical.foldlFst {α β : Type} {f : State × β → α → State × β} {l : List α} {p : State × β}
    (h : Canonical p.1) (hf : ∀ {q x}, Canonical q.1 → Canonical (f q x).1) : Canonical (l.foldl f p).1 := by
  induction l generalizing p with
  | nil => exact h
  | cons x l ih => exact ih (hf h)

theorem Canonical.snd {α : Type} {p : α × State} {a : α} (e : p = (a, t)) (h : Canonical p.2) : Canonical t := by
  rwa [e] at h

theorem Canonical.fst {α : Type} {p : State × α} {a : α} (e : p = (t, a)) (h : Canonical p.1) : Canonical t := by
  rwa [e] at h

theorem Canonical.trd {α β : Type} {p : α × β × State} {a : α} {b : β} (e : p = (a, b, t)) (h : Canonical p.2.2) :
    Canonical t := by
  rwa [e] at h

theorem Canonical.reset : Canonical State.reset := ⟨rfl, rfl, rfl⟩

/-! ## The byte memories stay canonical: Clock -/

theorem Canonical.idleTick (h : Canonical s) : Canonical (idleTick s) := by
  unfold Machine.idleTick
  exact .ite (.keep h) (.ite (.keep h) h)

/-! ## The byte memories stay canonical: Ops -/

theorem Canonical.raise {c} (h : Canonical s) : Canonical (raise s c) := .keep h

theorem Canonical.queueWaiting {r} (h : Canonical s) : Canonical (queueWaiting s r) := by
  unfold Machine.queueWaiting
  refine .ite (.ite (.keep h) (.keep h)) (.ite (.keep h) ?_)
  extract_lets +onlyGivenNames _
  split
  · exact .keep h
  · exact .ite (.keep h) (.keep h)

theorem Canonical.errWrite {r} (h : Canonical s) : Canonical (errWrite s r) := by
  unfold Machine.errWrite
  extract_lets +onlyGivenNames s1 s2
  have h1 : Canonical s1 := .ite (.keep h) h
  have h2 : Canonical s2 := .ite (.raise h1) h1
  refine .ite (.queueWaiting h2) ?_
  split
  · exact .keep h2
  · exact .ite (.queueWaiting h2) (.keep h2)

theorem Canonical.event {code status unit inst addr info ctx} (h : Canonical s) :
    Canonical (event s code status unit inst addr info ctx) := by
  unfold Machine.event
  exact .errWrite h

theorem Canonical.submitFault {ctx queue check detail st} (h : Canonical s) :
    Canonical (submitFault s ctx queue check detail st) := by
  unfold Machine.submitFault
  exact .event h

theorem Canonical.dbDrop {ctx page reason chan} (h : Canonical s) : Canonical (dbDrop s ctx page reason chan) := by
  unfold Machine.dbDrop
  exact .raise (.event h)

theorem Canonical.modCtx {c f} (h : Canonical s) : Canonical (modCtx s c f) := .keep h

theorem Canonical.putCtx {c f} (h : Canonical s) : Canonical (putCtx s c f) := .keep h

theorem Canonical.pbStore {off d} (h : Canonical s) : Canonical (pbStore s off d) := by
  obtain ⟨hp, hd, hs⟩ := h
  exact ⟨mwrites_wf hp _ _, hd, hs⟩

theorem Canonical.pbZeroPages {ps} (h : Canonical s) : Canonical (pbZeroPages s ps) := by
  obtain ⟨hp, hd, hs⟩ := h
  exact ⟨filter_wf hp _, hd, hs⟩

theorem Canonical.fenceSignal {f v err} (h : Canonical s) : Canonical (fenceSignal s f v err) := .keep h

theorem Canonical.fenceRef {f} (h : Canonical s) : Canonical (fenceRef s f) := .keep h

theorem Canonical.fenceUnref {f} (h : Canonical s) : Canonical (fenceUnref s f) := .keep h

theorem Canonical.takeFree (h : Canonical s) : Canonical (takeFree s).2 := by
  unfold Machine.takeFree
  exact .keep h

theorem Canonical.freeBytes {n} (h : Canonical s) : Canonical (freeBytes s n).2 := by
  unfold Machine.freeBytes
  exact .keep h

/-! ## The byte memories stay canonical: DevMem -/

theorem Canonical.macTouch {a wr} (h : Canonical s) : Canonical (macTouch s a wr) := by
  unfold Machine.macTouch
  split
  · exact h
  · exact .keep h

theorem Canonical.dramPut {a d} (h : Canonical s) : Canonical (dramPut s a d) := by
  obtain ⟨hp, hd, hs⟩ := h
  exact .macTouch ⟨hp, mwrites_wf hd _ _, hs⟩

theorem Canonical.dramMask {a d} (h : Canonical s) : Canonical (dramMask s a d) := by
  obtain ⟨hp, hd, hs⟩ := h
  exact .macTouch ⟨hp, mwriteOpt_wf hd _ _, hs⟩

theorem Canonical.wcFlush {a} (h : Canonical s) : Canonical (wcFlush s a) := by
  unfold Machine.wcFlush
  split
  · exact .dramMask (.keep h)
  · exact h

theorem Canonical.wcPut {a d} (h : Canonical s) : Canonical (wcPut s a d) := by
  unfold Machine.wcPut
  split
  · exact h
  · exact .ite (.wcFlush (.keep h)) (.ite (.wcFlush (.keep h)) (.keep h))

theorem Canonical.l2Evict {key} (h : Canonical s) : Canonical (l2Evict s key) := by
  unfold Machine.l2Evict
  split
  · exact h
  · split
    · exact .keep h
    · exact .ite (.dramPut (.keep h)) (.keep h)

theorem Canonical.l2Fill {a} (h : Canonical s) : Canonical (l2Fill s a) := by
  unfold Machine.l2Fill
  split
  · exact h
  · refine .ite h (.ite (.wcFlush h) ?_)
    extract_lets +onlyGivenNames s3
    have h3 : Canonical s3 := .macTouch (.l2Evict (.wcFlush h))
    exact .keep h3

theorem Canonical.dmTouch {pol a n} (h : Canonical s) : Canonical (dmTouch s pol a n) := by
  unfold Machine.dmTouch
  exact .ite h (.ite (.foldl h (fun h => .ite h (.macTouch h))) (.foldl h (fun h => .l2Fill h)))

theorem Canonical.dmWriteLine {pol a d} (h : Canonical s) : Canonical (dmWriteLine s pol a d) := by
  unfold Machine.dmWriteLine
  extract_lets +onlyGivenNames s1
  have h1 : Canonical s1 := .ite (.l2Fill h) h
  split
  · exact .ite (.keep h1) (.ite (.dramMask (.keep h1)) (.dramPut (.keep h1)))
  · exact .ite (.wcPut h1) (.dramMask (.wcFlush h1))

theorem Canonical.dmWriteLines {n pol a d} (h : Canonical s) : Canonical (dmWriteLines n s pol a d) := by
  induction n generalizing s a d with
  | zero => exact h
  | succ n ih =>
    unfold Machine.dmWriteLines
    split
    · exact h
    · exact ih (.dmWriteLine h)

theorem Canonical.dmHeal {a d} (h : Canonical s) : Canonical (dmHeal s a d) := .keep h

theorem Canonical.dmWriteOpt {pol a d} (h : Canonical s) : Canonical (dmWriteOpt s pol a d) := by
  unfold Machine.dmWriteOpt
  obtain ⟨hp, hd, hs⟩ := Canonical.dmHeal h
  exact .ite ⟨hp, hd, mwriteOpt_wf hs _ _⟩ (.dmWriteLines ⟨hp, hd, hs⟩)

theorem Canonical.dmWrite {pol a d} (h : Canonical s) : Canonical (dmWrite s pol a d) := by
  unfold Machine.dmWrite
  exact .dmWriteOpt h

theorem Canonical.dmZero {a n} (h : Canonical s) : Canonical (dmZero s a n) := by
  unfold Machine.dmZero
  extract_lets +onlyGivenNames s1 s2
  have h2 : Canonical s2 := .foldl (.foldl h fun h => .l2Evict h) fun h => .wcFlush h
  obtain ⟨hp, hd, hs⟩ := h2
  exact ⟨hp, mzero_wf hd _ _, mzero_wf hs _ _⟩

theorem Canonical.modCore {c f} (h : Canonical s) : Canonical (modCore s c f) := .keep h

theorem Canonical.l1Fill {core pol a n} (h : Canonical s) : Canonical (l1Fill s core pol a n) := by
  unfold Machine.l1Fill
  exact .ite (.dmTouch h) (.modCore (.dmTouch h))

theorem Canonical.l1Store {core a d} (h : Canonical s) : Canonical (l1Store s core a d) := .keep h

theorem Canonical.l1Flash {core} (h : Canonical s) : Canonical (l1Flash s core) := .keep h

theorem Canonical.objRef {i} (h : Canonical s) : Canonical (objRef s i) := .keep h

theorem Canonical.objUnref {i} (h : Canonical s) : Canonical (objUnref s i) := .keep h

theorem Canonical.reserveDrop {ctx i} (h : Canonical s) : Canonical (reserveDrop s ctx i) := by
  unfold Machine.reserveDrop
  exact .ite (.keep h) h

theorem Canonical.objLeave {i ctx} (h : Canonical s) : Canonical (objLeave s i ctx) := by
  unfold Machine.objLeave
  exact .reserveDrop (.keep h)

/-! ## The byte memories stay canonical: Ports -/

theorem Canonical.dropRef {r} (h : Canonical s) : Canonical (dropRef s r) := by
  unfold Machine.dropRef
  split
  · exact .keep h
  · exact h

theorem Canonical.layerRelease {l} (h : Canonical s) : Canonical (layerRelease s l) := by
  unfold Machine.layerRelease
  exact .dropRef (.dropRef h)

theorem Canonical.flipSignal {f err} (h : Canonical s) : Canonical (flipSignal s f err) := by
  unfold Machine.flipSignal
  exact .ite (.keep h) h

theorem Canonical.flipDiscard {f} (h : Canonical s) : Canonical (flipDiscard s f) := by
  unfold Machine.flipDiscard
  exact .foldl (.dropRef (.foldl (.flipSignal h) (fun h => .layerRelease h))) (fun h => .keep h)

theorem Canonical.modPipe {n f} (h : Canonical s) : Canonical (modPipe s n f) := .keep h

theorem Canonical.pipeFlush {n} (h : Canonical s) : Canonical (pipeFlush s n) := by
  unfold Machine.pipeFlush
  exact .foldl (.keep h) (fun h => .flipDiscard h)

theorem Canonical.pipeClear {n} (h : Canonical s) : Canonical (pipeClear s n) := by
  unfold Machine.pipeClear
  exact .modPipe (.foldl (.dropRef (.foldl (.foldl h (fun h => .flipDiscard h)) (fun h => .layerRelease h)))
      (fun h => .fenceUnref (.dropRef h)))

theorem Canonical.modCap {n f} (h : Canonical s) : Canonical (modCap s n f) := .keep h

theorem Canonical.capHalt {n} (h : Canonical s) : Canonical (capHalt s n) := by
  unfold Machine.capHalt
  exact .ite h (.modCap (.dropRef h))

theorem Canonical.audHalt (h : Canonical s) : Canonical (audHalt s) := by
  unfold Machine.audHalt
  extract_lets +onlyGivenNames _ s1
  have h1 : Canonical s1 := .dropRef (.dropRef h)
  exact .keep h1

theorem Canonical.audStopSoon (h : Canonical s) : Canonical (audStopSoon s) := by
  unfold Machine.audStopSoon
  exact .ite h (.ite (.audHalt h) (.keep h))

theorem Canonical.setSecCmd {st} (h : Canonical s) : Canonical (setSecCmd s st) := .keep h

theorem Canonical.slotPut {k x} (h : Canonical s) : Canonical (slotPut s k x) := by
  unfold Machine.slotPut
  exact .ite (.keep h) (.keep h)

theorem Canonical.loadFinish {l res} (h : Canonical s) : Canonical (loadFinish s l res) := by
  unfold Machine.loadFinish
  exact .setSecCmd (.objUnref (.objUnref (.foldl (.keep h) (fun h => .slotPut h))))

theorem Canonical.loadAbort {l res} (h : Canonical s) : Canonical (loadAbort s l res) := by
  unfold Machine.loadAbort
  exact .loadFinish (.dmZero h)

theorem Canonical.loadLeave {ctx} (h : Canonical s) : Canonical (loadLeave s ctx) := by
  unfold Machine.loadLeave
  split
  · exact .ite (.loadAbort h) h
  · exact h

theorem Canonical.portsStop {ctx} (h : Canonical s) : Canonical (portsStop s ctx) := by
  unfold Machine.portsStop
  extract_lets +onlyGivenNames s1
  have h1 : Canonical s1 := .foldl h (fun h => .capHalt h)
  exact .ite (.audStopSoon h1) h1

theorem Canonical.portsLost {ctx} (h : Canonical s) : Canonical (portsLost s ctx) := by
  unfold Machine.portsLost
  extract_lets +onlyGivenNames s1
  have h1 : Canonical s1 := .loadLeave (.foldl h (fun h => .pipeFlush h))
  exact .ite h1 (.portsStop h1)

theorem Canonical.portsTeardown {ctx} (h : Canonical s) : Canonical (portsTeardown s ctx) := by
  unfold Machine.portsTeardown
  exact .portsStop (.loadLeave (.foldl h (fun h => .keep h)))

/-! ## The byte memories stay canonical: Work -/

theorem Canonical.modQueue {q f} (h : Canonical s) : Canonical (modQueue s q f) := .keep h

theorem Canonical.recInRing {r q e} (h : Canonical s) : Canonical (recInRing s r q e) := by
  unfold Machine.recInRing
  extract_lets +onlyGivenNames _ s2 s3
  have h2 : Canonical s2 := .modQueue (.pbStore h)
  have h3 : Canonical s3 := by
    unfold s3
    split
    · exact .fenceSignal h2
    · exact h2
  exact .ite (.raise h3) h3

theorem Canonical.recOrphaned {r q} (h : Canonical s) : Canonical (recOrphaned s r q) := by
  unfold Machine.recOrphaned
  extract_lets +onlyGivenNames _ _ _ _ _ _ s2 _ s4
  have h2 : Canonical s2 := by
    unfold s2
    split
    · exact .errWrite (.keep h)
    · exact .dmWrite (.keep h)
  have h4 : Canonical s4 := by
    unfold s4
    split
    · exact .fenceSignal (.modQueue h2)
    · exact .modQueue h2
  exact .raise h4

theorem Canonical.writeRec {r} (h : Canonical s) : Canonical (writeRec s r) := by
  unfold Machine.writeRec
  refine .ite h ?_
  split
  · exact .recInRing h
  · exact .recOrphaned h

theorem Canonical.queueSettle {q} (h : Canonical s) : Canonical (queueSettle s q) := by
  unfold Machine.queueSettle
  exact .ite (.keep h) h

theorem Canonical.releaseCmd {c} (h : Canonical s) : Canonical (releaseCmd s c) := by
  unfold Machine.releaseCmd
  exact .foldl (.foldl h (fun h => .keep h)) (fun h => .keep h)

theorem Canonical.cmdEnd {id st errIdx} (h : Canonical s) : Canonical (cmdEnd s id st errIdx) := by
  unfold Machine.cmdEnd
  split
  · exact h
  · exact .queueSettle (.releaseCmd (.writeRec (.keep h)))

theorem Canonical.modMon {m f} (h : Canonical s) : Canonical (modMon s m f) := .keep h

theorem Canonical.monMiss {m ctx sc} (h : Canonical s) : Canonical (monMiss s m ctx sc) := by
  unfold Machine.monMiss
  split
  · exact h
  · split
    · exact h
    · exact .ite (.event (.keep h)) h

theorem Canonical.cmdDone {id st errIdx} (h : Canonical s) : Canonical (cmdDone s id st errIdx) := by
  unfold Machine.cmdDone
  split
  · exact h
  · exact .cmdEnd (.monMiss h)

theorem Canonical.cmdDrop {id} (h : Canonical s) : Canonical (cmdDrop s id) := by
  unfold Machine.cmdDrop
  split
  · exact h
  · exact .queueSettle (.releaseCmd (.modQueue (.keep h)))

theorem Canonical.stagedWrite {core ctx e} (h : Canonical s) : Canonical (stagedWrite s core ctx e) := by
  unfold Machine.stagedWrite
  exact .ite h (.l1Store (.dmWriteOpt h))

theorem Canonical.stagedWrites {w} (h : Canonical s) : Canonical (stagedWrites s w) := by
  unfold Machine.stagedWrites
  exact .foldl h (fun h => .stagedWrite h)

theorem Canonical.commitsLand {p} (h : Canonical s) : Canonical (commitsLand s p) := by
  unfold Machine.commitsLand
  exact .foldl h (fun h => .stagedWrites h)

theorem Canonical.killWgs {p} (h : Canonical s) : Canonical (killWgs s p) := by
  unfold Machine.killWgs
  extract_lets +onlyGivenNames s1
  have h1 : Canonical s1 := .commitsLand h
  exact .keep h1

theorem Canonical.passDrop {id} (h : Canonical s) : Canonical (passDrop s id) := by
  unfold Machine.passDrop
  split
  · exact h
  · exact .foldl (.keep h) (fun h => .reserveDrop h)

theorem Canonical.cmpStop {c} (h : Canonical s) : Canonical (cmpStop s c) := by
  unfold Machine.cmpStop
  split
  next t e => exact .ite (.snd e (.freeBytes h)) (.dmWrite (.snd e (.freeBytes h)))

theorem Canonical.killInst {id} (h : Canonical s) : Canonical (killInst s id) := by
  unfold Machine.killInst
  extract_lets +onlyGivenNames _ _ s3
  have h3 : Canonical s3 := .foldl (.foldl (.killWgs h) (fun h => .passDrop h)) (fun h => .cmpStop h)
  exact .keep h3

theorem Canonical.seqFree {e} (h : Canonical s) : Canonical (seqFree s e) := by
  unfold Machine.seqFree
  split
  · exact h
  · exact .keep h

theorem Canonical.seqReturn {e} (h : Canonical s) : Canonical (seqReturn s e) := by
  unfold Machine.seqReturn
  split
  · exact h
  · exact .ite (.seqFree h) (.ite (.keep h) h)

theorem Canonical.monEnd {x st} (h : Canonical s) : Canonical (monEnd s x st) := by
  unfold Machine.monEnd
  split
  · exact h
  · exact .monMiss (.ite (.raise (.event (.keep h))) (.ite (.keep h) h))

theorem Canonical.dropInst {id} (h : Canonical s) : Canonical (dropInst s id) := by
  unfold Machine.dropInst
  split
  · exact h
  · extract_lets +onlyGivenNames _ s2
    have h2 : Canonical s2 := .foldl (.killInst h) (fun h => .seqReturn h)
    exact .keep h2

theorem Canonical.monSettle {m} (h : Canonical s) : Canonical (monSettle s m) := by
  unfold Machine.monSettle
  split
  · exact h
  · exact .ite (.keep h) h

theorem Canonical.finishInst {id st errIdx} (h : Canonical s) : Canonical (finishInst s id st errIdx) := by
  unfold Machine.finishInst
  split
  · exact h
  · extract_lets +onlyGivenNames _ s1
    have h1 : Canonical s1 := .monSettle (.monEnd (.dropInst h))
    split
    · exact .cmdEnd h1
    · exact .queueSettle (.writeRec h1)

theorem Canonical.finishAll {ids st errIdx} (h : Canonical s) : Canonical (finishAll s ids st errIdx) := by
  unfold Machine.finishAll
  exact .foldl h (fun h => .finishInst h)

theorem Canonical.ctxLose {ctx cause errIdx inst} (h : Canonical s) :
    Canonical (ctxLose s ctx cause errIdx inst) := by
  unfold Machine.ctxLose
  refine .ite ?_ h
  extract_lets +onlyGivenNames _ s2 s3
  have h2 : Canonical s2 := .portsLost (.keep h)
  have h3 : Canonical s3 := by
    unfold s3
    split
    · exact .finishInst h2
    · exact h2
  exact .foldl (.finishAll h3) (fun h => .cmdDone h)

theorem Canonical.ctxError {ctx r cause inst} (h : Canonical s) : Canonical (ctxError s ctx r cause inst) := by
  unfold Machine.ctxError
  exact .ctxLose (.errWrite h)

theorem Canonical.wgFault {id st addr pc} (h : Canonical s) : Canonical (wgFault s id st addr pc) := by
  unfold Machine.wgFault
  split
  · exact h
  · exact .ctxError h

theorem Canonical.fixedFault {ctx unit num st addr inst} (h : Canonical s) :
    Canonical (fixedFault s ctx unit num st addr inst) := by
  unfold Machine.fixedFault
  exact .ctxError h

theorem Canonical.faultInfo {code} (h : Canonical s) : Canonical (faultInfo s code).2 := by
  unfold Machine.faultInfo
  refine .iteSnd ?_ h
  split
  next t e => exact .snd e (.takeFree h)

theorem Canonical.hwFault {ctx m inst} (h : Canonical s) : Canonical (hwFault s ctx m inst) := by
  unfold Machine.hwFault
  split
  next t e => exact .ctxError (.snd e (.faultInfo h))

theorem Canonical.portWrite {ctx unit num a d} (h : Canonical s) : Canonical (portWrite s ctx unit num a d) := by
  unfold Machine.portWrite
  refine .ite (.fixedFault h) ?_
  split
  · exact .hwFault h
  · exact .dmWrite h

theorem Canonical.portRead {ctx a n} (h : Canonical s) : Canonical (portRead s ctx a n).2 := by
  unfold Machine.portRead
  split
  · exact .hwFault h
  · exact .dmTouch h

theorem Canonical.fatalError {code unit inst addr info} (h : Canonical s) :
    Canonical (fatalError s code unit inst addr info) := by
  unfold Machine.fatalError
  extract_lets +onlyGivenNames s1
  have h1 : Canonical s1 := .errWrite h
  exact .foldl (.keep h1) (fun h => .ctxLose h)

theorem Canonical.cmdRefuse {id check detail st} (h : Canonical s) : Canonical (cmdRefuse s id check detail st) := by
  unfold Machine.cmdRefuse
  split
  · exact h
  · exact .cmdDone (.submitFault h)

theorem Canonical.applySteps {cause force p} (h : Canonical s) : Canonical (applySteps s cause force p) := by
  unfold Machine.applySteps
  exact .ite (.event (.keep h)) (.keep h)

theorem Canonical.mgmtWake (h : Canonical s) : Canonical (mgmtWake s) := by
  unfold Machine.mgmtWake
  exact .ite (.keep h) h

theorem Canonical.mgmtCmd {off view raw st set run} (h : Canonical s)
    (hset : ∀ {u v}, Canonical u → Canonical (set u v)) (hrun : ∀ {u}, Canonical u → Canonical (run u)) :
    Canonical (mgmtCmd s off view raw st set run) := by
  unfold Machine.mgmtCmd
  refine .ite h ?_
  extract_lets +onlyGivenNames s1
  have h1 : Canonical s1 := .mgmtWake h
  exact .ite (hset (.keep h1)) (hrun h1)

theorem Canonical.feCmd {off raw tag st set run} (h : Canonical s) (hset : ∀ {u v}, Canonical u → Canonical (set u v))
    (hrun : ∀ {u}, Canonical u → Canonical (run u)) :
    Canonical (feCmd s off raw tag st set run) := by
  unfold Machine.feCmd
  exact .ite h (.ite (hset (.keep h)) (hrun h))

theorem Canonical.pbTake {off n} (h : Canonical s) : Canonical (pbTake s off n).2 := by
  unfold Machine.pbTake
  extract_lets +onlyGivenNames _
  split
  · exact h
  · split
    · exact h
    · exact .ctxError h

end Sys2Proof.Machine
end

section
namespace Sys2Proof.Machine

set_option Elab.async false

variable {s t : State}

/-! ## The byte memories stay canonical: Contexts -/

theorem Canonical.ctxCreateOp {ctx page} (h : Canonical s) : Canonical (ctxCreateOp s ctx page).2 := by
  unfold Machine.ctxCreateOp
  refine .iteSnd h ?_
  split
  next t e =>
    extract_lets +onlyGivenNames _ _ _
    split
    · exact .snd e (.pbTake h)
    · exact .iteSnd (.putCtx (.dmZero (.snd e (.pbTake h)))) (.snd e (.pbTake h))

/-- A batch entry answers a canonical state, if it answers one. -/
def CanonicalIf (o : Option State) : Prop := ∀ t, o = some t → Canonical t

theorem CanonicalIf.none : CanonicalIf none := by simp [CanonicalIf]

theorem CanonicalIf.some (h : Canonical s) : CanonicalIf (some s) := by
  rintro _ ⟨⟩
  exact h

theorem CanonicalIf.ite {c : Prop} [Decidable c] (h : Canonical s) : CanonicalIf (if c then .some s else .none) := by
  split
  · exact .some h
  · exact .none

theorem CanonicalIf.defineObj {ctx e} (h : Canonical s) : CanonicalIf (defineObj s ctx e) := by
  unfold Machine.defineObj
  extract_lets +onlyGivenNames _ _
  split
  · exact .none
  · exact .ite (.keep h)

theorem CanonicalIf.exportObj {ctx e} (h : Canonical s) : CanonicalIf (exportObj s ctx e) := by
  unfold Machine.exportObj
  split
  · exact .none
  · exact .ite (.keep h)

theorem CanonicalIf.releaseObj {ctx e} (h : Canonical s) : CanonicalIf (releaseObj s ctx e) := by
  unfold Machine.releaseObj
  split
  · exact .none
  · exact .ite (.reserveDrop (.keep h))

theorem CanonicalIf.freeObj {ctx e} (h : Canonical s) : CanonicalIf (freeObj s ctx e) := by
  unfold Machine.freeObj
  split
  · exact .none
  · exact .ite (.reserveDrop (.keep h))

theorem CanonicalIf.createFence {ctx e} (h : Canonical s) : CanonicalIf (createFence s ctx e) := by
  unfold Machine.createFence
  exact .ite (.keep h)

theorem CanonicalIf.destroyFence {ctx e} (h : Canonical s) : CanonicalIf (destroyFence s ctx e) := by
  unfold Machine.destroyFence
  exact .ite (.keep h)

theorem CanonicalIf.exportFence {ctx e} (h : Canonical s) : CanonicalIf (exportFence s ctx e) := by
  unfold Machine.exportFence
  exact .ite (.keep h)

theorem CanonicalIf.releaseFence {ctx e} (h : Canonical s) : CanonicalIf (releaseFence s ctx e) := by
  unfold Machine.releaseFence
  extract_lets +onlyGivenNames _ _
  split
  · exact .some (.keep h)
  · exact .ite (.keep h)

theorem CanonicalIf.batchEntry {ctx e} (h : Canonical s) : CanonicalIf (batchEntry s ctx e) := by
  unfold Machine.batchEntry
  split
  · exact .defineObj h
  · exact .freeObj h
  · exact .exportObj h
  · exact .releaseObj h
  · exact .createFence h
  · exact .destroyFence h
  · exact .exportFence h
  · exact .releaseFence h
  · exact .none

theorem Canonical.batchRun {ctx l n} (h : Canonical s) : Canonical (batchRun ctx l s n).2.2 := by
  induction l generalizing s n with
  | nil => exact h
  | cons e r ih =>
    unfold Machine.batchRun
    split
    next t he => exact ih (CanonicalIf.batchEntry h _ he)
    next => exact h

theorem Canonical.ctxBatchOp {ctx page count} (h : Canonical s) : Canonical (ctxBatchOp s ctx page count).2.2 := by
  unfold Machine.ctxBatchOp
  refine .iteTrd h (.iteTrd h ?_)
  split
  next t e =>
    extract_lets +onlyGivenNames _
    split
    next t1 e1 =>
      have ht1 : Canonical t1 := .trd e1 (.batchRun (.snd e (.pbTake h)))
      exact ht1
    next t1 e1 =>
      have ht1 : Canonical t1 := .trd e1 (.batchRun (.snd e (.pbTake h)))
      exact ht1

theorem Canonical.slotRelease {q} (h : Canonical s) : Canonical (slotRelease s q) := .keep h

theorem Canonical.tdStep1 {ctx} (h : Canonical s) : Canonical (tdStep1 s ctx) := by
  unfold Machine.tdStep1
  exact .foldl (.portsTeardown h) (fun h => .ite (.keep h) (.slotRelease (.keep h)))

theorem Canonical.tdStep2 {ctx} (h : Canonical s) : Canonical (tdStep2 s ctx) := by
  unfold Machine.tdStep2
  exact .foldl (.foldl h (fun h => .dropInst h)) (fun h => .cmdDrop h)

theorem Canonical.tdStep4 {ctx} (h : Canonical s) : Canonical (tdStep4 s ctx) := by
  unfold Machine.tdStep4
  exact .ite (.keep h) (.keep h)

theorem Canonical.armRelease {a} (h : Canonical s) : Canonical (armRelease s a) := by
  unfold Machine.armRelease
  split
  · exact h
  · exact .ite (.fenceUnref (.keep h)) (.keep h)

theorem Canonical.graphRelease {g} (h : Canonical s) : Canonical (graphRelease s g) := by
  unfold Machine.graphRelease
  exact .armRelease (.foldl (.foldl h (fun h => .keep h)) (fun h => .keep h))

theorem Canonical.monsForget {g} (h : Canonical s) : Canonical (monsForget s g) := .keep h

theorem Canonical.graphRemove {key} (h : Canonical s) : Canonical (graphRemove s key) := by
  unfold Machine.graphRemove
  split
  · exact h
  · extract_lets +onlyGivenNames s1
    have h1 : Canonical s1 := .graphRelease (.keep h)
    exact .ite (.monsForget h1) h1

theorem Canonical.graphRetire {key id} (h : Canonical s) : Canonical (graphRetire s key id) := by
  unfold Machine.graphRetire
  split
  · exact h
  · exact .keep h

theorem Canonical.tdStep5 {ctx} (h : Canonical s) : Canonical (tdStep5 s ctx) := by
  unfold Machine.tdStep5
  extract_lets +onlyGivenNames _ _ _ _ s5
  have h5 : Canonical s5 := .modCtx (.foldl (.foldl (.foldl (.foldl h (fun h => .keep h)) (fun h => .graphRemove h))
      (fun h => .seqFree h)) (fun h => .keep h))
  exact .foldl (.foldl (.keep h5) (fun h => .objLeave h)) (fun h => .keep h)

theorem Canonical.ctxTeardownOp {ctx tag} (h : Canonical s) : Canonical (ctxTeardownOp s ctx tag) := by
  unfold Machine.ctxTeardownOp
  exact .ite (.tdStep1 (.keep h)) (.keep h)

theorem Canonical.teardownStepOp {ctx} (h : Canonical s) : Canonical (teardownStepOp s ctx) := by
  unfold Machine.teardownStepOp
  refine .ite h ?_
  extract_lets +onlyGivenNames _
  split
  · exact .tdStep2 (.keep h)
  · exact .keep h
  · exact .tdStep4 (.keep h)
  · exact .ite h (.tdStep5 (.keep h))
  · exact .keep h

theorem wf_foldl_mset {m l : Memory} (h : Memory.wf m = true) :
    Memory.wf (l.foldl (fun m c => mset m c.1 c.2) m) = true := by
  induction l generalizing m with
  | nil => exact h
  | cons c l ih => exact ih (mset_wf h _ _)

theorem Canonical.zeroExcept {a n} (h : Canonical s) : Canonical (zeroExcept s a n) := by
  unfold Machine.zeroExcept
  extract_lets +onlyGivenNames _ _ s1 t
  have ht : Canonical t := .dmZero (.foldl h fun h => .wcFlush h)
  obtain ⟨hp, hd, hs⟩ := ht
  exact ⟨hp, wf_foldl_mset (wf_foldl_mset hd), wf_foldl_mset hs⟩

theorem Canonical.forgetUser {ctx} (h : Canonical s) : Canonical (forgetUser s ctx) := .keep h

theorem Canonical.ctxZeroedOp {ctx} (h : Canonical s) : Canonical (ctxZeroedOp s ctx) := by
  unfold Machine.ctxZeroedOp
  exact .ite h (.ite (.ite h (.keep h)) (.putCtx (.forgetUser (.foldl h (fun h => .zeroExcept h)))))

theorem Canonical.objZeroedOp {i} (h : Canonical s) : Canonical (objZeroedOp s i) := by
  unfold Machine.objZeroedOp
  split
  · exact h
  · refine .ite ?_ h
    extract_lets +onlyGivenNames s1
    have h1 : Canonical s1 := .dmZero h
    exact .keep h1

theorem Canonical.setCtxCmd {st} (h : Canonical s) : Canonical (setCtxCmd s st) := .keep h

theorem Canonical.ctxRun {raw} (h : Canonical s) : Canonical (ctxRun s raw) := by
  unfold Machine.ctxRun
  extract_lets +onlyGivenNames _ _ _
  split
  · split
    next t e => exact .setCtxCmd (.snd e (.ctxCreateOp h))
  · exact .ctxTeardownOp h
  · split
    next t e => exact .setCtxCmd (.trd e (.ctxBatchOp h))
  · exact .keep h

theorem Canonical.ctxCmdWrite {raw} (h : Canonical s) : Canonical (ctxCmdWrite s raw) := by
  unfold Machine.ctxCmdWrite
  exact .mgmtCmd h (fun h => .keep h) (fun h => .ctxRun h)

/-! ## The byte memories stay canonical: FrontEnd -/

theorem Canonical.modSlot {i f} (h : Canonical s) : Canonical (modSlot s i f) := .keep h

theorem Canonical.queueBindOp {q} (h : Canonical s) : Canonical (queueBindOp s q) := by
  unfold Machine.queueBindOp
  refine .ite ?_ h
  split
  · exact .keep h
  · split
    · exact .keep h
    · exact h

theorem Canonical.takeDoorbell {q} (h : Canonical s) : Canonical (takeDoorbell s q) := by
  unfold Machine.takeDoorbell
  extract_lets +onlyGivenNames _ _ s2
  have h2 : Canonical s2 := .ite (.keep h) (.raise (.submitFault (.keep h)))
  exact .ite h2 (.raise (.submitFault h2))

theorem Canonical.slotSampleOp {i} (h : Canonical s) : Canonical (slotSampleOp s i) := by
  unfold Machine.slotSampleOp
  split
  · exact h
  · exact .ite (.modSlot (.takeDoorbell h)) h

theorem Canonical.enterIdle {i} (h : Canonical s) : Canonical (enterIdle s i) := by
  unfold Machine.enterIdle
  split <;> exact .keep h

theorem Canonical.drainEndOp {i} (h : Canonical s) : Canonical (drainEndOp s i) := by
  unfold Machine.drainEndOp
  split
  · exact h
  · exact .ite (.ite (.modSlot (.takeDoorbell h)) (.enterIdle h)) h

theorem Canonical.apTake {off n} (h : Canonical s) : Canonical (apTake s off n).2 := by
  unfold Machine.apTake
  split
  · extract_lets +onlyGivenNames _
    split
    next t e =>
      split
      · refine .iteSnd ?_ (.snd e (.pbTake h))
        split
        next t1 e1 =>
          have ht1 : Canonical t1 := .snd e1 (.pbTake (.snd e (.pbTake h)))
          exact ht1
      · exact .snd e (.pbTake h)
  · exact h

theorem Canonical.modCmd {id f} (h : Canonical s) : Canonical (modCmd s id f) := .keep h

theorem Canonical.resolveGraphCmd {id} (h : Canonical s) : Canonical (resolveGraphCmd s id) := by
  unfold Machine.resolveGraphCmd
  split
  · exact h
  · extract_lets +onlyGivenNames _
    split
    · exact .cmdRefuse (.keep h)
    · refine .ite (.ite ?_ (.cmdRefuse (.modCmd (.keep h)))) (.modCmd (.keep h))
      split
      next t e =>
        refine .ite ?_ (.snd e (.apTake (.modCmd (.keep h))))
        split
        · exact .cmdRefuse (.snd e (.apTake (.modCmd (.keep h))))
        · exact .modCmd (.foldl (.foldl (.snd e (.apTake (.modCmd (.keep h)))) (fun h => .keep h)) (fun h => .keep h))

theorem Canonical.resolveHeld (h : Canonical s) : Canonical (resolveHeld s) := by
  unfold Machine.resolveHeld
  refine .foldl h (fun h => ?_)
  split
  · exact h
  · exact .ite h (.resolveGraphCmd h)

theorem Canonical.resolveCmd {id d ctx ord} (h : Canonical s) : Canonical (resolveCmd s id d ctx ord) := by
  unfold Machine.resolveCmd
  refine .ite (.cmdRefuse h) (.ite (.cmdRefuse h) (.ite (.cmdRefuse h) ?_))
  extract_lets +onlyGivenNames _ s1
  have h1 : Canonical s1 := .modCmd (.foldl h (fun h => .keep h))
  refine .ite ?_ (.ite h1 (.ite (.modCmd h1) (.resolveGraphCmd h1)))
  split
  · exact .cmdRefuse h1
  · exact .ite (.cmdRefuse h1) (.modCmd (.objRef h1))

theorem Canonical.startDrain {i} (h : Canonical s) : Canonical (startDrain s i) := .keep h

theorem Canonical.fetchEntry {i q} (h : Canonical s) : Canonical (fetchEntry s i q) := by
  unfold Machine.fetchEntry
  refine .ite ?_ (.cmdRefuse (.keep h))
  split
  next t e =>
    extract_lets +onlyGivenNames _ s3
    have h3 : Canonical s3 := .keep (.snd e (.apTake (.keep h)))
    exact .ite (.resolveCmd h3) (.cmdDone h3)

theorem Canonical.serveSlot {i p} (h : Canonical s) : Canonical (serveSlot s i p) := by
  unfold Machine.serveSlot
  exact .ite (.keep h) h

theorem Canonical.slotFetchOp {i} (h : Canonical s) : Canonical (slotFetchOp s i) := by
  unfold Machine.slotFetchOp
  split
  · exact h
  · refine .ite (.ite (.startDrain (.serveSlot h)) (.ite (.serveSlot h) ?_)) h
    extract_lets +onlyGivenNames s3
    have h3 : Canonical s3 := .fetchEntry (.serveSlot h)
    exact .ite (.startDrain h3) h3

theorem Canonical.bindPinned {p q} (h : Canonical s) : Canonical (bindPinned s p q) := by
  unfold Machine.bindPinned
  split
  · exact .keep h
  · split
    · exact .keep h
    · split
      · exact .keep h
      · exact h

theorem Canonical.qCreateOp {ctx q page} (h : Canonical s) : Canonical (qCreateOp s ctx q page).2 := by
  unfold Machine.qCreateOp
  refine .iteSnd h (.iteSnd h ?_)
  split
  next t e =>
    refine .iteSnd (.snd e (.pbTake h)) (.iteSnd (.snd e (.pbTake h)) ?_)
    extract_lets +onlyGivenNames _ s2
    have h2 : Canonical s2 := .keep (.snd e (.pbTake h))
    exact .ite (.bindPinned h2) h2

theorem Canonical.disarm {key} (h : Canonical s) : Canonical (disarm s key) := by
  unfold Machine.disarm
  split
  · exact h
  · exact .armRelease (.keep h)

theorem Canonical.qDestroyOp {ctx q} (h : Canonical s) : Canonical (qDestroyOp s ctx q).2 := by
  unfold Machine.qDestroyOp
  exact .iteSnd h (.resolveHeld (.queueSettle (.foldl (.foldl (.keep h) (fun h => .cmdDone h)) (fun h => .disarm h))))

theorem Canonical.setFeCmd {st} (h : Canonical s) : Canonical (setFeCmd s st) := .keep h

theorem Canonical.feRun {raw} (h : Canonical s) : Canonical (feRun s raw) := by
  unfold Machine.feRun
  extract_lets +onlyGivenNames _
  split
  · split
    next t e => exact .setFeCmd (.snd e (.qCreateOp h))
  · split
    next t e => exact .setFeCmd (.snd e (.qDestroyOp h))
  · exact .keep h

theorem Canonical.feCmdWrite {raw} (h : Canonical s) : Canonical (feCmdWrite s raw) := by
  unfold Machine.feCmdWrite
  exact .feCmd h (fun h => .keep h) (fun h => .feRun h)

end Sys2Proof.Machine
end

section
namespace Sys2Proof.Machine

set_option Elab.async false

variable {s t : State}

/-! ## The byte memories stay canonical: Graphs -/

theorem Canonical.modInst {id f} (h : Canonical s) : Canonical (modInst s id f) := .keep h

theorem Canonical.commandStartOp {id} (h : Canonical s) : Canonical (commandStartOp s id) := by
  unfold Machine.commandStartOp
  extract_lets +onlyGivenNames s1
  have h1 : Canonical s1 := .resolveHeld h
  split
  · exact h1
  · exact .ite (.resolveHeld (.cmdDone h1)) (.ite (.ite (.cmdRefuse h1) (.modCmd h1)) h1)

theorem Canonical.waitTimeoutOp {id} (h : Canonical s) : Canonical (waitTimeoutOp s id) := by
  unfold Machine.waitTimeoutOp
  split
  · exact h
  · exact .ite (.resolveHeld (.cmdDone h)) h

theorem Canonical.startedCmd {id op f} (h : Canonical s) (hf : ∀ {u v}, Canonical u → Canonical (f u v)) :
    Canonical (startedCmd s id op f) := by
  unfold Machine.startedCmd
  split
  · exact h
  · exact .ite (hf h) h

theorem Canonical.nopOp {id} (h : Canonical s) : Canonical (nopOp s id) := by
  unfold Machine.nopOp
  exact .startedCmd h (fun h => .cmdDone h)

theorem Canonical.registerOp {id} (h : Canonical s) : Canonical (registerOp s id) := by
  unfold Machine.registerOp
  refine .startedCmd h (fun h => ?_)
  split
  · exact .resolveHeld (.hwFault h)
  · exact .resolveHeld (.cmdRefuse h)
  · extract_lets +onlyGivenNames s1
    have h1 : Canonical s1 := .foldl (.foldl h (fun h => .keep h)) (fun h => .keep h)
    exact .resolveHeld (.cmdDone (.keep h1))

theorem Canonical.destroyOp {id} (h : Canonical s) : Canonical (destroyOp s id) := by
  unfold Machine.destroyOp
  exact .startedCmd h (fun h => .ite (.ite h (.cmdDone (.graphRemove h))) (.ite (.ite (.graphRetire (.disarm h))
      (.cmdDone (.graphRemove (.disarm h)))) (.cmdRefuse h)))

theorem Canonical.armOp {id} (h : Canonical s) : Canonical (armOp s id) := by
  unfold Machine.armOp
  refine .startedCmd h (fun h => ?_)
  extract_lets +onlyGivenNames _ _
  split
  · exact .cmdRefuse h
  · refine .ite (.cmdRefuse h) ?_
    extract_lets +onlyGivenNames _ _ s3
    have h3 : Canonical s3 := .ite (.fenceRef (.keep h)) (.keep h)
    exact .cmdDone (.keep h3)

theorem Canonical.disarmOp {id} (h : Canonical s) : Canonical (disarmOp s id) := by
  unfold Machine.disarmOp
  exact .startedCmd h (fun h => .ite (.cmdDone (.disarm h)) (.cmdRefuse h))

theorem Canonical.paramWrite {g off d} (h : Canonical s) : Canonical (paramWrite s g off d) := by
  unfold Machine.paramWrite
  split
  · exact .hwFault h
  · exact .dmWrite h

theorem Canonical.applyPatches {g vals trig vs rs} (h : Canonical s) :
    Canonical (applyPatches s g vals trig vs rs) := by
  unfold Machine.applyPatches
  exact .foldl h (fun h => .paramWrite h)

theorem Canonical.addInst {x} (h : Canonical s) : Canonical (addInst s x) := .keep h

theorem Canonical.launchOp {id} (h : Canonical s) : Canonical (launchOp s id) := by
  unfold Machine.launchOp
  refine .startedCmd h (fun h => .ite h ?_)
  split
  · exact .cmdRefuse h
  · exact .ite h (.applyPatches (.addInst (.keep h)))

theorem Canonical.armRecord {a v st errIdx} (h : Canonical s) : Canonical (armRecord s a v st errIdx) := by
  unfold Machine.armRecord
  exact .writeRec (.keep h)

theorem Canonical.triggeredOp {ctx gid} (h : Canonical s) : Canonical (triggeredOp s ctx gid) := by
  unfold Machine.triggeredOp
  extract_lets +onlyGivenNames _
  split
  · exact h
  · split
    · exact h
    · exact .ite h (.ite (.ite (.disarm (.armRecord h)) h) (.ite h (.ite (.ite (.armRecord (.keep h)) (.event
        (.keep h))) (.ite h (.ite (.event (.keep h)) (.applyPatches (.addInst (.keep h))))))))

theorem Canonical.settleFail {id} (h : Canonical s) : Canonical (settleFail s id) := by
  unfold Machine.settleFail
  split
  · exact h
  · split
    · exact h
    · exact .ite h (.finishInst h)

theorem Canonical.failInst {id node st} (h : Canonical s) : Canonical (failInst s id node st) := by
  unfold Machine.failInst
  split
  · exact h
  · exact .ite h (.settleFail (.modInst (.submitFault h)))

theorem Canonical.modNode {id n f} (h : Canonical s) : Canonical (modNode s id n f) := .keep h

theorem Canonical.releaseRoots {id g} (h : Canonical s) : Canonical (releaseRoots s id g) := by
  unfold Machine.releaseRoots
  exact .ite (.finishInst (.keep h)) (.keep h)

theorem Canonical.instStartOp {id} (h : Canonical s) : Canonical (instStartOp s id) := by
  unfold Machine.instStartOp
  split
  · exact h
  · split
    · exact h
    · refine .ite h ?_
      extract_lets +onlyGivenNames _ _
      split
      · exact .hwFault (.keep h)
      · exact .failInst (.keep h)
      · exact .ite (.finishInst (.keep h)) (.ite (.releaseRoots (.keep h)) (.foldl (.keep h) (fun h => .keep h)))

theorem Canonical.waitNodeTimeoutOp {id node} (h : Canonical s) : Canonical (waitNodeTimeoutOp s id node) := by
  unfold Machine.waitNodeTimeoutOp
  split
  · exact h
  · split
    · exact h
    · extract_lets +onlyGivenNames _
      split
      · exact h
      · exact .ite (.finishInst h) h

theorem Canonical.nodeEnded {id n} (h : Canonical s) : Canonical (nodeEnded s id n) := .keep h

theorem Canonical.copyStart {id i x n} (h : Canonical s) : Canonical (copyStart s id i x n) := by
  unfold Machine.copyStart
  exact .ite (.fixedFault h) (.ite (.fixedFault h) (.keep h))

theorem Canonical.signalStart {id i x g n} (h : Canonical s) : Canonical (signalStart s id i x g n) := by
  unfold Machine.signalStart
  split
  · exact .failInst (.keep h)
  · exact .keep h

theorem Canonical.allocFree {x} (h : Canonical s) : Canonical (allocFree s x) := by
  unfold Machine.allocFree
  exact .reserveDrop (.keep h)

theorem Canonical.freeStart {id i x g n} (h : Canonical s) : Canonical (freeStart s id i x g n) := by
  unfold Machine.freeStart
  exact .ite (.keep h) (.ite (.nodeEnded (.allocFree h)) (.failInst (.keep h)))

theorem Canonical.nodeStartOp {id i} (h : Canonical s) : Canonical (nodeStartOp s id i) := by
  unfold Machine.nodeStartOp
  split
  · exact h
  · split
    · exact h
    · refine .ite ?_ h
      extract_lets +onlyGivenNames _
      split
      · exact .hwFault (.keep h)
      · split
        · exact .nodeEnded (.keep h)
        · exact .copyStart (.keep h)
        · exact .signalStart (.keep h)
        · exact .keep h
        · exact .freeStart (.keep h)
        · exact .keep h

theorem Canonical.nodeWrite {id x a d} (h : Canonical s) : Canonical (nodeWrite s id x a d) := by
  unfold Machine.nodeWrite
  refine .ite (.fixedFault h) ?_
  split
  · exact .hwFault h
  · exact .dmWrite h

theorem Canonical.copyBytes {id x n} (h : Canonical s) : Canonical (copyBytes s id x n) := by
  unfold Machine.copyBytes
  extract_lets +onlyGivenNames _ _ _ _ d
  clear_value d
  split
  · exact .hwFault h
  · split
    next t e =>
      have ht : Canonical t := .snd e (.iteSnd (.freeBytes h) (.dmTouch h))
      exact .ite ht (.nodeWrite ht)

theorem Canonical.nodeDone {id i g} (h : Canonical s) : Canonical (nodeDone s id i g) := by
  unfold Machine.nodeDone
  extract_lets +onlyGivenNames _ _ s2
  have h2 : Canonical s2 := .foldl (.keep h) (fun h => .keep h)
  split
  · exact h2
  · exact .ite (.settleFail h2) (.ite (.finishInst h2) h2)

theorem Canonical.nodeCompleteOp {id i} (h : Canonical s) : Canonical (nodeCompleteOp s id i) := by
  unfold Machine.nodeCompleteOp
  split
  · exact h
  · split
    · exact h
    · exact .ite (.nodeDone (.ite (.copyBytes h) h)) h

/-! ## The byte memories stay canonical: RasGeom -/

theorem Canonical.modPass {id f} (h : Canonical s) : Canonical (modPass s id f) := .keep h

/-! ## The byte memories stay canonical: Sched -/

theorem Canonical.lsClaim {core ctx base kib} (h : Canonical s) : Canonical (lsClaim s core ctx base kib) := .keep h

theorem Canonical.groupSeed {core place ctx} (h : Canonical s) : Canonical (groupSeed s core place ctx).2 := by
  unfold Machine.groupSeed
  exact .iteSnd (.keep h) (.keep h)

theorem Canonical.setupGroup {id w gidx} (h : Canonical s) : Canonical (setupGroup s id w gidx) := by
  unfold Machine.setupGroup
  extract_lets +onlyGivenNames _
  split
  next t e => exact .keep (.snd e (.groupSeed h))

theorem Canonical.setupWg {id w fresh} (h : Canonical s) : Canonical (setupWg s id w fresh) := by
  unfold Machine.setupWg
  exact .foldl (.modCore (.lsClaim (.ite (.modCore (.l1Flash (.keep h))) (.keep h)))) (fun h => .setupGroup h)

theorem Canonical.placeOne {f inst x g node idx core rank ras} (h : Canonical s) :
    Canonical (placeOne s f inst x g node idx core rank ras) := by
  unfold Machine.placeOne
  split
  · exact h
  · split
    exact .setupWg (.keep h)

theorem Canonical.placeKernel {inst node idx core} (h : Canonical s) :
    Canonical (placeKernel s inst node idx core) := by
  unfold Machine.placeKernel
  split
  · exact h
  · split
    · exact h
    · refine .ite ?_ h
      split
      · exact h
      · extract_lets +onlyGivenNames s2
        have h2 : Canonical s2 := .foldl h (fun h => .placeOne h)
        exact .ite h2 (.modNode h2)

theorem Canonical.stackFill {lsBase x} (h : Canonical s) : Canonical (stackFill s lsBase x) := by
  unfold Machine.stackFill
  exact .foldl h (fun h => .keep h)

theorem Canonical.traceSave {id lsBase} (h : Canonical s) : Canonical (traceSave s id lsBase) := by
  unfold Machine.traceSave
  extract_lets +onlyGivenNames _ s1
  have h1 : Canonical s1 := .foldl h (fun h => .stackFill h)
  exact .keep h1

theorem Canonical.traceMove {old new core} (h : Canonical s) : Canonical (traceMove s old new core) := .keep h

theorem Canonical.saveOne {id w} (h : Canonical s) : Canonical (saveOne s id w) := by
  unfold Machine.saveOne
  extract_lets +onlyGivenNames _ _ _ _ _ _ _ _ s3
  have h3 : Canonical s3 := by
    refine .foldl (.modCore (.traceSave h)) fun h => ?_
    split
    · exact h
    · exact .traceMove h
  exact .keep h3

theorem Canonical.saveOp {id} (h : Canonical s) : Canonical (saveOp s id) := by
  unfold Machine.saveOp
  split
  · exact h
  · exact .ite (.foldl h (fun h => .saveOne h)) h

theorem Canonical.restoreOne {id w core} (h : Canonical s) : Canonical (restoreOne s id w core) := by
  unfold Machine.restoreOne
  split
  · exact h
  · refine .foldl (.modCore (.lsClaim (.l1Flash (.keep h)))) (fun h => ?_)
    split
    · exact h
    · exact .keep h

theorem Canonical.restoreAll {l cs} (h : Canonical s) : Canonical (restoreAll s l cs).1 := by
  unfold Machine.restoreAll
  exact .foldl h (fun h => .restoreOne h)

theorem Canonical.switchFb {m id x o} (h : Canonical s) : Canonical (switchFb s m id x o) := by
  unfold Machine.switchFb
  split
  · exact h
  · extract_lets +onlyGivenNames c _ _ s3
    have h3 : Canonical s3 := by
      unfold s3
      clear_value c
      split
      · exact .applyPatches (.modMon (.killInst h))
      · exact .applyPatches (.modMon (.killInst h))
    exact .modInst h3

theorem Canonical.galeCheckOp {m} (h : Canonical s) : Canonical (galeCheckOp s m) := by
  unfold Machine.galeCheckOp
  split
  · exact .ite h (.ite (.switchFb h) (.ite (.event h) h))
  · exact h

theorem Canonical.monAddOp {page} (h : Canonical s) : Canonical (monAddOp s page).2.2 := by
  unfold Machine.monAddOp
  refine .iteTrd h ?_
  split
  next t e =>
    refine .iteTrd (.snd e (.pbTake h)) ?_
    split
    · exact .snd e (.pbTake h)
    · exact .iteTrd (.keep (.snd e (.pbTake h))) (.snd e (.pbTake h))

theorem Canonical.monRemoveOp {m} (h : Canonical s) : Canonical (monRemoveOp s m).2 := by
  unfold Machine.monRemoveOp
  exact .iteSnd (.monSettle (.keep h)) h

theorem Canonical.setGmCmd {st} (h : Canonical s) : Canonical (setGmCmd s st) := .keep h

theorem Canonical.gmRun {raw} (h : Canonical s) : Canonical (gmRun s raw) := by
  unfold Machine.gmRun
  extract_lets +onlyGivenNames _
  split
  · split
    next t e => exact .setGmCmd (.trd e (.monAddOp h))
  · split
    next t e => exact .setGmCmd (.snd e (.monRemoveOp h))
  · exact .keep h

theorem Canonical.gmCmdWrite {raw} (h : Canonical s) : Canonical (gmCmdWrite s raw) := by
  unfold Machine.gmCmdWrite
  exact .feCmd h (fun h => .keep h) (fun h => .gmRun h)

/-! ## The byte memories stay canonical: Serving -/

theorem Canonical.joinOp {page} (h : Canonical s) : Canonical (joinOp s page).2.2 := by
  unfold Machine.joinOp
  refine .iteTrd h ?_
  split
  next t e =>
    extract_lets +onlyGivenNames _ _ d
    clear_value d
    split
    · exact .snd e (.pbTake h)
    · refine .iteTrd (.snd e (.pbTake h)) (.iteTrd (.snd e (.pbTake h)) ?_)
      split
      · exact .snd e (.pbTake h)
      · exact .keep (.snd e (.pbTake h))

theorem Canonical.seqCmd {i f} (h : Canonical s) (hf : ∀ {u v}, Canonical u → Canonical (f u v)) :
    Canonical (seqCmd s i f).2 := by
  unfold Machine.seqCmd
  split
  · exact h
  · exact .iteSnd h (hf h)

theorem Canonical.leaveOp {i} (h : Canonical s) : Canonical (leaveOp s i).2 := by
  unfold Machine.leaveOp
  exact .seqCmd h (fun h => .ite (.keep h) (.seqFree h))

theorem Canonical.pauseOp {i} (h : Canonical s) : Canonical (pauseOp s i).2 := by
  unfold Machine.pauseOp
  exact .seqCmd h (fun h => .ite (.keep h) (.ite (.keep h) h))

theorem Canonical.resumeOp {i} (h : Canonical s) : Canonical (resumeOp s i).2 := by
  unfold Machine.resumeOp
  exact .seqCmd h (fun h => .ite (.keep h) h)

theorem Canonical.setPrioOp {i prio} (h : Canonical s) : Canonical (setPrioOp s i prio).2 := by
  unfold Machine.setPrioOp
  exact .seqCmd h (fun h => .keep h)

theorem Canonical.setSqCmd {st} (h : Canonical s) : Canonical (setSqCmd s st) := .keep h

theorem Canonical.sqRun {raw} (h : Canonical s) : Canonical (sqRun s raw) := by
  unfold Machine.sqRun
  extract_lets +onlyGivenNames _ _ _
  split
  · split
    next t e => exact .setSqCmd (.trd e (.joinOp h))
  · exact .setSqCmd (.leaveOp h)
  · exact .setSqCmd (.pauseOp h)
  · exact .setSqCmd (.resumeOp h)
  · exact .setSqCmd (.setPrioOp h)
  · exact .keep h

theorem Canonical.sqCmdWrite {raw} (h : Canonical s) : Canonical (sqCmdWrite s raw) := by
  unfold Machine.sqCmdWrite
  exact .feCmd h (fun h => .keep h) (fun h => .sqRun h)

theorem Canonical.stepNode {id i retire f} (h : Canonical s) (hf : ∀ {u x n}, Canonical u → Canonical (f u x n)) :
    Canonical (stepNode s id i retire f) := by
  unfold Machine.stepNode
  split
  · exact h
  · split
    · exact h
    · exact .ite (hf h) h

theorem Canonical.buildOp {id i} (h : Canonical s) : Canonical (buildOp s id i) := by
  unfold Machine.buildOp
  exact .stepNode h (fun h => .nodeWrite (.nodeEnded (.modInst (.foldl h (fun h => .keep h)))))

theorem Canonical.retireRun {base l j acc} (h : Canonical s) : Canonical (retireRun base l j s acc).1 := by
  induction l generalizing j s acc with
  | nil => exact h
  | cons i r ih =>
    unfold Machine.retireRun
    split
    · exact ih h
    · split
      · exact ih (.keep h)
      · exact ih (.seqFree h)

theorem Canonical.retireOp {id i} (h : Canonical s) : Canonical (retireOp s id i) := by
  unfold Machine.retireOp
  refine .stepNode h (fun h => ?_)
  extract_lets +onlyGivenNames _ _ _
  split
  · exact .hwFault h
  · split
    next t _ e => exact .nodeWrite (.nodeWrite (.nodeEnded (.modInst (.fst e (.retireRun h)))))

end Sys2Proof.Machine
end

section
namespace Sys2Proof.Machine

set_option Elab.async false

variable {s t : State}

/-! ## The byte memories stay canonical: Operands -/

theorem Canonical.modGroup {key f} (h : Canonical s) : Canonical (modGroup s key f) := .keep h

theorem Canonical.modSplit {key sid f} (h : Canonical s) : Canonical (modSplit s key sid f) := .keep h

theorem Canonical.stall {i why} (h : Canonical s) : Canonical (stall s i why) := .keep h

theorem Canonical.unstall {key p} (h : Canonical s) : Canonical (unstall s key p) := .keep h

theorem Canonical.badEncoding {i} (h : Canonical s) : Canonical (badEncoding s i) := by
  unfold Machine.badEncoding
  exact .wgFault h

theorem Canonical.refusedAccess {i addr} (h : Canonical s) : Canonical (refusedAccess s i addr) := by
  unfold Machine.refusedAccess
  exact .wgFault h

theorem Canonical.l1iFill {core ctx a} (h : Canonical s) : Canonical (l1iFill s core ctx a) := by
  unfold Machine.l1iFill
  exact .ite h (.modCore (.dmTouch h))

theorem Canonical.noteIssue {i packs} (h : Canonical s) : Canonical (noteIssue s i packs) := .keep h

theorem Canonical.onIssue {sp iw ops f act packs} (h : Canonical s)
    (hact : ∀ {u i}, Canonical u → Canonical (act u i)) :
    Canonical (onIssue s sp iw ops f act packs) := by
  unfold Machine.onIssue
  split
  · exact h
  · refine .ite h ?_
    extract_lets +onlyGivenNames _
    split
    · exact h
    · refine .ite h (.ite (.refusedAccess (.keep h)) (.ite (.refusedAccess (.keep h)) (.ite h ?_)))
      split
      · exact .hwFault (.keep h)
      · refine .ite (.badEncoding (.keep h)) (.ite h ?_)
        extract_lets +onlyGivenNames _ _ _ s4
        have h4 : Canonical s4 := .modSplit (.noteIssue (.keep h))
        exact .ite (.badEncoding h4) (.ite (.badEncoding h4) (.ite (.stall h4)
          (hact (.foldl h4 fun h => .l1iFill h))))

/-! ## The byte memories stay canonical: Counters -/

theorem Canonical.modWg {id f} (h : Canonical s) : Canonical (modWg s id f) := .keep h

theorem Canonical.unstallAll {p} (h : Canonical s) : Canonical (unstallAll s p) := by
  unfold Machine.unstallAll
  exact .foldl h (fun h => .keep h)

theorem Canonical.modHub {i f} (h : Canonical s) : Canonical (modHub s i f) := .keep h

theorem Canonical.ctrSet {home i v} (h : Canonical s) : Canonical (ctrSet s home i v) := by
  unfold Machine.ctrSet
  split <;> exact .keep h

theorem Canonical.evalCtr {home i} (h : Canonical s) : Canonical (evalCtr s home i) := by
  unfold Machine.evalCtr
  extract_lets +onlyGivenNames _
  split
  refine .ite h ?_
  extract_lets +onlyGivenNames _ _ s3
  have h3 : Canonical s3 := by
    unfold s3
    split
    · exact .ite (.modCore (.ctrSet h)) (.ctrSet h)
    · exact .ctrSet h
  exact .unstallAll (.keep h3)

theorem Canonical.ctrAdd {home i v src} (h : Canonical s) : Canonical (ctrAdd s home i v src) := by
  unfold Machine.ctrAdd
  refine .ite h ?_
  extract_lets +onlyGivenNames _ s2
  have h2 : Canonical s2 := by
    unfold s2
    split
    · exact .ite (.ctrSet h) (.modCore (.ctrSet h))
    · exact .ctrSet h
  exact .evalCtr h2

theorem Canonical.ctrZero {home i} (h : Canonical s) : Canonical (ctrZero s home i) := by
  unfold Machine.ctrZero
  refine .ite h ?_
  extract_lets +onlyGivenNames _ s2
  have h2 : Canonical s2 := by
    unfold s2
    split
    · exact .modCore (.ctrSet h)
    · exact .ctrSet h
  exact .evalCtr h2

theorem Canonical.releaseBar {ids kind sense} (h : Canonical s) : Canonical (releaseBar s ids kind sense) := by
  unfold Machine.releaseBar
  extract_lets +onlyGivenNames _ _ _ _ s1
  have h1 : Canonical s1 := .foldl h (fun h => .keep h)
  exact .keep h1

theorem Canonical.barFlip {kind z l sense ctrs} (h : Canonical s) : Canonical (barFlip s kind z l sense ctrs) := by
  unfold Machine.barFlip
  exact .releaseBar (.foldl (.keep h) (fun h => .foldl h (fun h => .ctrZero h)))

theorem Canonical.barFall {kind z l} (h : Canonical s) : Canonical (barFall s kind z l) := by
  unfold Machine.barFall
  exact .ite (.keep h) (.ite (.barFlip h) h)

theorem Canonical.hubArrive {x realign} (h : Canonical s) : Canonical (hubArrive s x realign) := by
  unfold Machine.hubArrive
  exact .ite h (.ite (.releaseBar (.foldl (.keep h) (fun h => .ctrZero h))) (.keep h))

/-! ## The byte memories stay canonical: RasMerge -/

theorem Canonical.vertexOut {out lane n} (h : Canonical s) : Canonical (vertexOut s out lane n).2 := by
  unfold Machine.vertexOut
  refine .foldlSnd h fun h => ?_
  split
  · exact h
  · exact .takeFree h

theorem Canonical.vertexEnd {id pid p r} (h : Canonical s) : Canonical (vertexEnd s id pid p r) := by
  unfold Machine.vertexEnd
  refine .foldl h (fun h => ?_)
  split
  next t e => exact .modPass (.snd e (.vertexOut h))

theorem Canonical.rasEnd {id w} (h : Canonical s) : Canonical (rasEnd s id w) := by
  unfold Machine.rasEnd
  split
  · split
    · exact .vertexEnd h
    · exact .unstallAll (.modPass (.keep h))
  · exact h

/-! ## The byte memories stay canonical: Splits -/

theorem Canonical.settleGroup {key f} (h : Canonical s) : Canonical (settleGroup s key f) := .keep h

theorem Canonical.advance {i} (h : Canonical s) : Canonical (advance s i) := .keep h

theorem Canonical.putGroup {i g} (h : Canonical s) : Canonical (putGroup s i g) := .keep h

theorem Canonical.braOp {i} (h : Canonical s) : Canonical (braOp s i) := by
  unfold Machine.braOp
  refine .ite (.keep h) (.ite (.badEncoding h) (.ite (.keep h) (.ite (.ite (.keep h) ?_) (.ite (.keep h)
      (.ite ?_ ?_)))))
  · split
    · exact .keep h
    · exact .badEncoding h
  · split
    · exact .keep h
    · exact .badEncoding h
  · split
    · exact .keep h
    · exact .badEncoding h

theorem Canonical.wgBarFall {id w} (h : Canonical s) : Canonical (wgBarFall s id w) := by
  unfold Machine.wgBarFall
  exact .barFall h

theorem Canonical.clBarFall {w} (h : Canonical s) : Canonical (clBarFall s w) := by
  unfold Machine.clBarFall
  exact .barFall h

theorem Canonical.hubFall {id} (h : Canonical s) : Canonical (hubFall s id) := by
  unfold Machine.hubFall
  split
  · exact h
  · exact .ite (.hubArrive (.keep h)) h

theorem Canonical.commitFall {id} (h : Canonical s) : Canonical (commitFall s id) := .keep h

theorem Canonical.wgEnd {id} (h : Canonical s) : Canonical (wgEnd s id) := by
  unfold Machine.wgEnd
  split
  · exact h
  · extract_lets +onlyGivenNames _ _ _ _ _ s4 s5
    have h4 : Canonical s4 := .unstallAll (.foldl (.ite (.rasEnd (.keep h)) (.modNode (.keep h))) (fun h => .keep h))
    have h5 : Canonical s5 := .keep h4
    exact .ite (.keep h5) h5

theorem Canonical.exitLanes {i ended} (h : Canonical s) : Canonical (exitLanes s i ended) := by
  unfold Machine.exitLanes
  extract_lets +onlyGivenNames _ _ _ s2
  have h2 : Canonical s2 := .modWg (.keep h)
  split
  · exact h2
  · extract_lets +onlyGivenNames s4
    have h4 : Canonical s4 := .commitFall (.hubFall (.clBarFall (.wgBarFall h2)))
    exact .ite (.wgEnd h4) h4

theorem Canonical.exitOp {i} (h : Canonical s) : Canonical (exitOp s i) := by
  unfold Machine.exitOp
  exact .ite (.keep h) (.ite (.keep h) (.exitLanes h))

theorem Canonical.splitOp {i} (h : Canonical s) : Canonical (splitOp s i) := by
  unfold Machine.splitOp
  refine .ite (.badEncoding h) (.ite (.keep h) (.ite (.keep h) ?_))
  split
  · exact .keep h
  · exact .badEncoding h

theorem Canonical.promoteOp {core cpart place} (h : Canonical s) : Canonical (promoteOp s core cpart place) := by
  unfold Machine.promoteOp
  extract_lets +onlyGivenNames _
  split
  · exact h
  · split
    · exact h
    · exact .ite (.modCore (.keep h)) h

/-! ## The byte memories stay canonical: Alu -/

theorem Canonical.aluIssue {i ok rs f} (h : Canonical s) : Canonical (aluIssue s i ok rs f) := by
  unfold Machine.aluIssue
  exact .ite (.badEncoding h) (.ite (.keep h) (.ite (.keep h) (.keep h)))

theorem Canonical.elemIssue {op d i} (h : Canonical s) : Canonical (elemIssue op d s i) := by
  unfold Machine.elemIssue
  exact .aluIssue h

theorem Canonical.pairIssue {d i} (h : Canonical s) : Canonical (pairIssue d s i) := by
  unfold Machine.pairIssue
  exact .aluIssue h

theorem Canonical.cmpIssue {r int32 d i} (h : Canonical s) : Canonical (cmpIssue r int32 d s i) := by
  unfold Machine.cmpIssue
  exact .aluIssue h

theorem Canonical.selectIssue {d i} (h : Canonical s) : Canonical (selectIssue d s i) := by
  unfold Machine.selectIssue
  exact .aluIssue h

theorem Canonical.predIssue {op d i} (h : Canonical s) : Canonical (predIssue op d s i) := by
  unfold Machine.predIssue
  exact .aluIssue h

theorem Canonical.shuffleIssue {op d i} (h : Canonical s) : Canonical (shuffleIssue op d s i) := by
  unfold Machine.shuffleIssue
  exact .aluIssue h

theorem Canonical.voteIssue {op d i} (h : Canonical s) : Canonical (voteIssue op d s i) := by
  unfold Machine.voteIssue
  exact .aluIssue h

theorem Canonical.movIssue {wide d i} (h : Canonical s) : Canonical (movIssue wide d s i) := by
  unfold Machine.movIssue
  exact .aluIssue h

theorem Canonical.aluOpIssue {op d i} (h : Canonical s) : Canonical (aluOpIssue op d s i) := by
  unfold Machine.aluOpIssue
  split
  · exact .pairIssue h
  · exact .cmpIssue h
  · exact .selectIssue h
  · exact .predIssue h
  · exact .predIssue h
  · exact .predIssue h
  · exact .predIssue h
  · exact .shuffleIssue h
  · exact .shuffleIssue h
  · exact .voteIssue h
  · exact .voteIssue h
  · exact .voteIssue h
  · exact .movIssue h
  · exact .elemIssue h

theorem Canonical.cvtIssue {i} (h : Canonical s) : Canonical (cvtIssue s i) := by
  unfold Machine.cvtIssue
  exact .aluIssue h

end Sys2Proof.Machine
end

section
namespace Sys2Proof.Machine

set_option Elab.async false

variable {s t : State}

/-! ## The byte memories stay canonical: Lsu -/

theorem Canonical.prefetchLine {core ctx l l1Only} (h : Canonical s) :
    Canonical (prefetchLine s core ctx l l1Only) := by
  unfold Machine.prefetchLine
  exact .ite h (.l1Fill h)

theorem Canonical.strideMatch {i a} (h : Canonical s) : Canonical (strideMatch s i a) := by
  unfold Machine.strideMatch
  exact .ite h (.foldl (.keep h) (fun h => .prefetchLine h))

theorem Canonical.flyLoad {i sid ws lines} (h : Canonical s) : Canonical (flyLoad s i sid ws lines).1 := by
  unfold Machine.flyLoad
  exact .keep h

theorem Canonical.loadTouch {i ls n} (h : Canonical s) : Canonical (loadTouch s i ls n) := by
  unfold Machine.loadTouch
  refine .ite h ?_
  extract_lets +onlyGivenNames s1
  have h1 : Canonical s1 := .foldl h (fun h => .l1Fill h)
  split
  · exact h1
  · exact .strideMatch h1

theorem Canonical.loadGo {i d ls n} (h : Canonical s) : Canonical (loadGo s i d ls n) := by
  unfold Machine.loadGo
  split
  · exact .advance (.flyLoad (.loadTouch h))
  · extract_lets +onlyGivenNames _ _ _
    split
    next t _ e =>
      have ht : Canonical t := .fst e (.flyLoad (.loadTouch h))
      split
      next t1 _ e1 =>
        extract_lets +onlyGivenNames _
        split
        · exact .putGroup (.fst e1 (.flyLoad ht))
        · exact .badEncoding (.fst e1 (.flyLoad ht))

theorem Canonical.loadOp {d i} (h : Canonical s) : Canonical (loadOp d s i) := by
  unfold Machine.loadOp
  refine .ite (.badEncoding h) (.ite (.keep h) (.ite (.keep h) (.ite (.keep h) ?_)))
  split
  · exact .refusedAccess h
  · refine .ite (.loadGo h) ?_
    split
    · exact .hwFault h
    · exact .ite (.loadGo h) (.keep h)

theorem Canonical.loadDoneOp {id} (h : Canonical s) : Canonical (loadDoneOp s id) := by
  unfold Machine.loadDoneOp
  split
  · exact h
  · refine .ite h ?_
    extract_lets +onlyGivenNames _ _ s2 _ _ s5
    have h2 : Canonical s2 := .modGroup (.keep h)
    have h5 : Canonical s5 := .settleGroup (.unstall (.ite (.l1Flash h2) h2))
    exact .ite h5 (.unstallAll h5)

theorem Canonical.storeLane {i l n} (h : Canonical s) : Canonical (storeLane s i l n) := by
  unfold Machine.storeLane
  refine .ite ?_ (.l1Store (.dmWrite h))
  split
  · exact .keep h
  · exact h

theorem Canonical.storeGo {i ls n} (h : Canonical s) : Canonical (storeGo s i ls n) := by
  unfold Machine.storeGo
  refine .ite ?_ ?_
  · extract_lets +onlyGivenNames _
    split
    · exact .refusedAccess h
    · exact .keep h
  · split
    · exact .hwFault h
    · extract_lets +onlyGivenNames s1
      have h1 : Canonical s1 := .foldl h (fun h => .storeLane h)
      exact .advance (.ite (.l1Flash h1) h1)

theorem Canonical.storeOp {i} (h : Canonical s) : Canonical (storeOp s i) := by
  unfold Machine.storeOp
  refine .ite (.badEncoding h) (.ite (.keep h) (.ite (.keep h) ?_))
  split
  · exact .refusedAccess h
  · exact .storeGo h

theorem Canonical.l1Drop {core a n} (h : Canonical s) : Canonical (l1Drop s core a n) := .keep h

theorem Canonical.atomLane {op n i l} (h : Canonical s) : Canonical (atomLane op n s i l).2 := by
  unfold Machine.atomLane
  refine .iteSnd ?_ (.l1Drop (.dmWrite h))
  split
  · exact .keep h
  · exact h

theorem Canonical.atomRun {op n i l acc} (h : Canonical s) : Canonical (atomRun op n i l s acc).1 := by
  induction l generalizing s acc with
  | nil => exact h
  | cons l r ih =>
    unfold Machine.atomRun
    split
    next t e => exact ih (.snd e (.atomLane h))

theorem Canonical.atomOp {op wide i} (h : Canonical s) : Canonical (atomOp op wide s i) := by
  unfold Machine.atomOp
  refine .ite (.badEncoding h) (.ite (.keep h) (.ite (.keep h) (.ite (.keep h) ?_)))
  split
  · exact .refusedAccess h
  · split
    · exact .hwFault h
    · split
      next t _ e => exact .advance (.flyLoad (.fst e (.atomRun h)))

/-! ## The byte memories stay canonical: Matrix -/

theorem Canonical.flyCopies {l} (h : Canonical s) : Canonical (flyCopies s l) := by
  unfold Machine.flyCopies
  exact .foldl h (fun h => .keep h)

theorem Canonical.mmaIssue {i a b kept} (h : Canonical s) : Canonical (mmaIssue s i a b kept) := by
  unfold Machine.mmaIssue
  extract_lets +onlyGivenNames _ _ _ _ _ _ s2
  have h2 : Canonical s2 := .flyCopies (.keep h)
  exact .advance (.ite h2 (.modGroup h2))

theorem Canonical.mmaOp {i} (h : Canonical s) : Canonical (mmaOp s i) := by
  unfold Machine.mmaOp
  refine .ite (.badEncoding h) (.ite (.keep h) (.ite (.badEncoding h) (.ite (.keep h) ?_)))
  split
  · split
    · exact .mmaIssue h
    · exact .hwFault h
    · exact .hwFault h
  · exact .refusedAccess h
  · exact .refusedAccess h
  · exact .refusedAccess h
  · exact .refusedAccess h

theorem Canonical.msyncSettle {key} (h : Canonical s) : Canonical (msyncSettle s key) := by
  unfold Machine.msyncSettle
  split
  · exact h
  · exact .keep h

theorem Canonical.mmaDoneOp {core cpart} (h : Canonical s) : Canonical (mmaDoneOp s core cpart) := by
  unfold Machine.mmaDoneOp
  extract_lets +onlyGivenNames _
  split
  · exact h
  · extract_lets +onlyGivenNames _ _ s3
    have h3 : Canonical s3 := .modGroup (.keep h)
    exact .foldl (.keep h3) (fun h => .msyncSettle (.keep h))

theorem Canonical.msyncOp {i} (h : Canonical s) : Canonical (msyncOp s i) := by
  unfold Machine.msyncOp
  exact .ite (.badEncoding h) (.ite (.keep h) (.advance (.ite (.keep h) h)))

theorem Canonical.amovOp {i} (h : Canonical s) : Canonical (amovOp s i) := by
  unfold Machine.amovOp
  exact .ite (.badEncoding h) (.ite (.keep h) (.advance (.keep h)))

/-! ## The byte memories stay canonical: Lull -/

theorem Canonical.watchOp {i} (h : Canonical s) : Canonical (watchOp s i) := by
  unfold Machine.watchOp
  refine .ite (.badEncoding h) (.ite (.keep h) ?_)
  split
  · exact .badEncoding h
  · exact .refusedAccess h
  · refine .ite ?_ (.ite (.keep h) (.modSplit (.keep h)))
    extract_lets +onlyGivenNames _ s3 s4
    have h3 : Canonical s3 := .ite (.keep h) h
    have h4 : Canonical s4 := .ite (.evalCtr (.ctrSet h3)) h3
    exact .advance (.ite (.l1Flash h4) h4)

theorem Canonical.sigCounter {i} (h : Canonical s) : Canonical (sigCounter s i) := by
  unfold Machine.sigCounter
  extract_lets +onlyGivenNames _
  split
  · exact .badEncoding h
  · exact .refusedAccess h
  · exact .ite (.badEncoding h) (.advance (.ctrAdd h))

theorem Canonical.sigFence {i} (h : Canonical s) : Canonical (sigFence s i) := by
  unfold Machine.sigFence
  exact .ite (.badEncoding h) (.ite (.refusedAccess h) (.keep h))

theorem Canonical.sigOp {i} (h : Canonical s) : Canonical (sigOp s i) := by
  unfold Machine.sigOp
  exact .ite (.badEncoding h) (.ite (.keep h) (.ite (.keep h) (.ite (.sigFence h) (.sigCounter h))))

theorem Canonical.slotArrive {i kind z l ctrs} (h : Canonical s) : Canonical (slotArrive s i kind z l ctrs) := by
  unfold Machine.slotArrive
  exact .ite (.modWg (.keep h)) (.barFlip (.keep h))

theorem Canonical.hubBar {i x} (h : Canonical s) : Canonical (hubBar s i x) := by
  unfold Machine.hubBar
  exact .ite (.modWg (.keep h)) (.hubArrive (.modWg (.keep h)))

theorem Canonical.barOp {i} (h : Canonical s) : Canonical (barOp s i) := by
  unfold Machine.barOp
  refine .ite (.badEncoding h) (.ite (.keep h) (.ite ?_ (.ite (.badEncoding h) (.ite (.slotArrive h)
      (.slotArrive h)))))
  split
  · exact .ite (.refusedAccess h) (.hubBar h)
  · exact .refusedAccess h
  · exact .badEncoding h

theorem Canonical.wakeOp {sp} (h : Canonical s) : Canonical (wakeOp s sp) := by
  unfold Machine.wakeOp
  split
  · exact h
  · exact .settleGroup (.ite (.l1Flash (.keep h)) (.keep h))

theorem Canonical.setLuCmd {st} (h : Canonical s) : Canonical (setLuCmd s st) := .keep h

theorem Canonical.hubAllocOp {r tag} (h : Canonical s) : Canonical (hubAllocOp s r tag) := by
  unfold Machine.hubAllocOp
  exact .ite (.keep h) (.ite (.keep h) (.ite (.setLuCmd (.keep h)) (.setLuCmd (.keep h))))

theorem Canonical.hubSnap {r tag} (h : Canonical s) : Canonical (hubSnap s r tag) := by
  unfold Machine.hubSnap
  refine .ite (.keep h) ?_
  extract_lets +onlyGivenNames _ s3
  have h3 : Canonical s3 := by
    refine .foldl (.pbStore h) (fun h => ?_)
    split
    next t e =>
      have ht : Canonical t := by
        refine .snd e (.iteSnd ?_ h)
        split
        next t e => exact .snd e (.takeFree h)
      exact .pbStore ht
  exact .setLuCmd h3

theorem Canonical.luRun {r} (h : Canonical s) : Canonical (luRun s r) := by
  unfold Machine.luRun
  refine .ite (.keep h) (.ite (.keep h) (.ite (.keep h) (.ite (.hubAllocOp h) (.ite (.keep h) ?_))))
  split
  · exact .ite (.keep h) (.keep h)
  · exact .hubSnap h
  · exact .ite (.keep h) (.setLuCmd (.foldl h (fun h => .ctrZero h)))

theorem Canonical.luCmdWrite {raw} (h : Canonical s) : Canonical (luCmdWrite s raw) := by
  unfold Machine.luCmdWrite
  exact .feCmd h (fun h => .keep h) (fun h => .luRun h)

theorem Canonical.resettle {id} (h : Canonical s) : Canonical (resettle s id) := by
  unfold Machine.resettle
  exact .foldl h (fun h => .keep h)

theorem Canonical.reRegister {x} (h : Canonical s) : Canonical (reRegister s x) := by
  unfold Machine.reRegister
  extract_lets +onlyGivenNames _ s1
  have h1 : Canonical s1 := .evalCtr (.keep h)
  exact .ite h1 (.modSplit (.keep h1))

theorem Canonical.restoreOp {id core} (h : Canonical s) : Canonical (restoreOp s id core) := by
  unfold Machine.restoreOp
  split
  · exact h
  · split
    · exact h
    · split
      · exact h
      · refine .ite ?_ h
        split
        · exact h
        · extract_lets +onlyGivenNames _
          split
          next t _ e => exact .foldl (.foldl (.fst e (.restoreAll h)) (fun h => .resettle h)) (fun h => .reRegister h)

/-! ## The byte memories stay canonical: Async -/

theorem Canonical.allocBlock {ctx size} (h : Canonical s) : Canonical (allocBlock s ctx size).2.2 := by
  unfold Machine.allocBlock
  split
  · split
    · exact .keep h
    · exact h
  · exact h

theorem Canonical.allocOp {i} (h : Canonical s) : Canonical (allocOp s i) := by
  unfold Machine.allocOp
  exact .ite (.badEncoding h) (.ite (.keep h) (.ite (.keep h) (.stall (.keep h))))

theorem Canonical.allocServedOp (h : Canonical s) : Canonical (allocServedOp s) := by
  unfold Machine.allocServedOp
  split
  · exact h
  · extract_lets +onlyGivenNames _ _ s1
    have h1 : Canonical s1 := .unstallAll (.keep h)
    split
    · split
      next t e =>
        have ht : Canonical t := .trd e (.allocBlock h1)
        exact .keep ht
    · split
      · exact h1
      · split
        next t e =>
          have ht : Canonical t := .trd e (.allocBlock h1)
          split
          · exact .hwFault ht
          · exact .nodeEnded (.paramWrite ht)

theorem Canonical.freeOp {i} (h : Canonical s) : Canonical (freeOp s i) := by
  unfold Machine.freeOp
  exact .ite (.badEncoding h) (.ite (.keep h) (.ite (.keep h) (.ite (.advance (.allocFree h)) (.badEncoding h))))

theorem Canonical.acopyIssue {i} (h : Canonical s) : Canonical (acopyIssue s i) := by
  unfold Machine.acopyIssue
  refine .ite (.badEncoding h) (.ite (.keep h) (.ite (.badEncoding h) ?_))
  split
  · exact .refusedAccess h
  · exact .ite (.refusedAccess h) (.ite (.keep h) (.ite (.keep h) (.advance (.flyCopies h))))

theorem Canonical.copyInto {c x} (h : Canonical s) : Canonical (copyInto s c x) := by
  unfold Machine.copyInto
  exact .foldl h (fun h => .keep h)

theorem Canonical.copyTouch {ctx c} (h : Canonical s) : Canonical (copyTouch s ctx c) := by
  unfold Machine.copyTouch
  exact .foldl h (fun h => .dmTouch h)

theorem Canonical.landed {id c x} (h : Canonical s) : Canonical (landed s id c x) := by
  unfold Machine.landed
  extract_lets +onlyGivenNames _ _ s2
  have h2 : Canonical s2 := .ctrAdd (.copyInto (.ite h (.copyTouch h)))
  exact .ite (.unstallAll (.keep h2)) (.keep h2)

theorem Canonical.landOp {id core kept} (h : Canonical s) : Canonical (landOp s id core kept) := by
  unfold Machine.landOp
  split
  · exact h
  · refine .ite h ?_
    split
    · exact h
    · extract_lets +onlyGivenNames _
      split
      · exact h
      · split
        · exact .hwFault h
        · exact .landed h

theorem Canonical.commitOp {i} (h : Canonical s) : Canonical (commitOp s i) := by
  unfold Machine.commitOp
  exact .ite (.badEncoding h) (.modWg (.keep h))

theorem Canonical.commitEndOp {id} (h : Canonical s) : Canonical (commitEndOp s id) := by
  unfold Machine.commitEndOp
  split
  · exact h
  · refine .ite h ?_
    extract_lets +onlyGivenNames _ s1
    have h1 : Canonical s1 := .modWg (.stagedWrites h)
    split
    · exact .wgFault h1
    · exact .hwFault h1
    · exact .foldl h1 (fun h => .keep h)

theorem Canonical.svOp {i} (h : Canonical s) : Canonical (svOp s i) := by
  unfold Machine.svOp
  refine .ite (.ite (.badEncoding h) (.ite (.keep h) (.keep h))) (.ite (.badEncoding h) ?_)
  split
  exact .ite (.badEncoding h) (.ite (.keep h) (.keep h))

end Sys2Proof.Machine
end

section
namespace Sys2Proof.Machine

set_option Elab.async false

variable {s t : State}

/-! ## The byte memories stay canonical: Display -/

theorem Canonical.dcPipeWrite {n val mask} (h : Canonical s) : Canonical (dcPipeWrite s n val mask) := by
  unfold Machine.dcPipeWrite
  exact .ite (.event h) (.ite h (.keep h))

theorem Canonical.confApply {n c cache} (h : Canonical s) : Canonical (confApply s n c cache) := by
  unfold Machine.confApply
  extract_lets +onlyGivenNames _ _ s2
  have h2 : Canonical s2 := by
    unfold s2
    split
    · exact .objRef (.dropRef h)
    · exact .dropRef h
  exact .modPipe (.ite (.modPipe h2) h2)

theorem Canonical.dcConfig {n issuer page} (h : Canonical s) : Canonical (dcConfig s n issuer page).2 := by
  unfold Machine.dcConfig
  split
  next t e =>
    refine .iteSnd (.snd e (.pbTake h)) (.iteSnd (.confApply (.snd e (.pbTake h))) ?_)
    split
    · exact .snd e (.pbTake h)
    · exact .iteSnd (.snd e (.pbTake h)) (.iteSnd (.snd e (.pbTake h)) (.confApply (.snd e (.pbTake h))))

theorem Canonical.flipQueue {n f} (h : Canonical s) : Canonical (flipQueue s n f) := by
  unfold Machine.flipQueue
  extract_lets +onlyGivenNames ref
  have href {u r} (h : Canonical u) : Canonical (ref u r) := by
    unfold ref
    split
    · exact .objRef h
    · exact h
  exact .modPipe (.foldl (href (.foldl h fun h => href (href h))) fun h => .fenceRef h)

theorem Canonical.dcFlip {n issuer page} (h : Canonical s) : Canonical (dcFlip s n issuer page).2 := by
  unfold Machine.dcFlip
  split
  next t e =>
    extract_lets +onlyGivenNames _ _ _ _
    split
    · exact .snd e (.pbTake h)
    · exact .iteSnd (.snd e (.pbTake h)) (.iteSnd (.snd e (.pbTake h)) (.iteSnd (.snd e (.pbTake h)) (.flipQueue
        (.snd e (.pbTake h)))))

theorem Canonical.dcLut {n page} (h : Canonical s) : Canonical (dcLut s n page).2 := by
  unfold Machine.dcLut
  split
  next t e => exact .iteSnd (.snd e (.pbTake h)) (.modPipe (.snd e (.pbTake h)))

theorem Canonical.dcSideband {n page r} (h : Canonical s) : Canonical (dcSideband s n page r).2 := by
  unfold Machine.dcSideband
  split
  next t e => exact .iteSnd (.snd e (.pbTake h)) (.pbStore (.snd e (.pbTake h)))

theorem Canonical.dcRun {n issuer raw reply} (h : Canonical s) : Canonical (dcRun s n issuer raw reply) := by
  unfold Machine.dcRun
  refine .ite (.keep h) (.ite (.keep h) (.ite (.keep h) ?_))
  split
  next t e =>
    have ht : Canonical t := by
      refine .snd e ?_
      split
      · exact .dcConfig h
      · exact .dcFlip h
      · exact .dcLut h
      · exact .dcSideband h
    exact .keep ht

theorem Canonical.dcCmdWrite {n issuer raw reply} (h : Canonical s) :
    Canonical (dcCmdWrite s n issuer raw reply) := by
  unfold Machine.dcCmdWrite
  exact .ite (.mgmtCmd h (fun h => .keep h) (fun h => .dcRun h)) h

theorem Canonical.linkTrainedOp {n lanes rate} (h : Canonical s) : Canonical (linkTrainedOp s n lanes rate) := by
  unfold Machine.linkTrainedOp
  extract_lets +onlyGivenNames _
  split
  · exact .ite (.keep h) h
  · exact h

theorem Canonical.takeFlips {k n} (h : Canonical s) : Canonical (takeFlips k s n) := by
  induction k generalizing s with
  | zero => exact h
  | succ k ih =>
    unfold Machine.takeFlips
    split
    · exact h
    · split
      · exact ih (.flipDiscard (.keep h))
      · exact ih (.keep h)
      · exact h

theorem Canonical.poseRead {owner l} (h : Canonical s) : Canonical (poseRead s owner l).2 := by
  unfold Machine.poseRead
  split
  · exact h
  · split
    next t e => exact .snd e (.portRead h)

theorem Canonical.reproject {n} (h : Canonical s) : Canonical (reproject s n) := by
  unfold Machine.reproject
  refine .foldl h (fun h => ?_)
  split
  next t e => exact .modPipe (.snd e (.poseRead h))
  next t e => exact .snd e (.poseRead h)

theorem Canonical.leadPointOp {n} (h : Canonical s) : Canonical (leadPointOp s n) := by
  unfold Machine.leadPointOp
  exact .ite (.reproject (.takeFlips h)) h

theorem Canonical.flipShow {n f} (h : Canonical s) : Canonical (flipShow n s f) := by
  unfold Machine.flipShow
  exact .foldl (.flipSignal (.foldl (.keep h) (fun h => .layerRelease h))) (fun h => .keep h)

theorem Canonical.underrunOp {n} (h : Canonical s) : Canonical (underrunOp s n) := by
  unfold Machine.underrunOp
  exact .ite h (.event (.keep h))

theorem Canonical.pipeWrites {n ws} (h : Canonical s) : Canonical (pipeWrites s n ws) := by
  unfold Machine.pipeWrites
  exact .foldl h (fun h => .ite (.portWrite h) h)

theorem Canonical.cacheWrite {n} (h : Canonical s) : Canonical (cacheWrite s n) := by
  unfold Machine.cacheWrite
  extract_lets +onlyGivenNames _
  split
  · exact .pipeWrites (.keep h)
  · exact h

theorem Canonical.frameTake {n} (h : Canonical s) : Canonical (frameTake s n) := by
  unfold Machine.frameTake
  extract_lets +onlyGivenNames _
  split
  · exact .ite h (.ite (.underrunOp (.keep h)) (.keep h))
  · exact h

theorem Canonical.vblankOp {n} (h : Canonical s) : Canonical (vblankOp s n) := by
  unfold Machine.vblankOp
  refine .ite h ?_
  extract_lets +onlyGivenNames _ _ s2
  have h2 : Canonical s2 := .frameTake (.modPipe (.ite (.pipeClear h) (.foldl (.keep h) (fun h => .flipShow h))))
  exact .ite h2 (.cacheWrite h2)

theorem Canonical.writeBackOp {n lines late} (h : Canonical s) : Canonical (writeBackOp s n lines late) := by
  unfold Machine.writeBackOp
  split
  · exact h
  · extract_lets +onlyGivenNames _ _ s2 s3
    have h2 : Canonical s2 := by
      unfold s2
      split
      · exact .pipeWrites (.keep h)
      · exact .keep h
    have h3 : Canonical s3 := .fenceSignal h2
    exact .fenceUnref (.dropRef (.ite (.underrunOp h3) h3))

theorem Canonical.hpdOp {n level} (h : Canonical s) : Canonical (hpdOp s n level) := by
  unfold Machine.hpdOp
  exact .ite (.event (.keep h)) h

/-! ## The byte memories stay canonical: Capture -/

theorem Canonical.capStartOp {n issuer page} (h : Canonical s) : Canonical (capStartOp s n issuer page).2 := by
  unfold Machine.capStartOp
  refine .iteSnd h (.iteSnd h ?_)
  split
  next t e =>
    extract_lets +onlyGivenNames _
    split
    · exact .snd e (.pbTake h)
    · exact .iteSnd (.snd e (.pbTake h)) (.iteSnd (.snd e (.pbTake h)) (.modCap (.objRef (.snd e (.pbTake h)))))

theorem Canonical.setCap {n st} (h : Canonical s) : Canonical (setCap n s st) := .keep h

theorem Canonical.capRun {n issuer raw} (h : Canonical s) : Canonical (capRun s n issuer raw) := by
  unfold Machine.capRun
  extract_lets +onlyGivenNames _
  split
  · split
    next t e => exact .setCap (.snd e (.capStartOp h))
  · exact .ite (.keep h) (.setCap (.capHalt h))
  · exact .keep h

theorem Canonical.capCmdWrite {n issuer raw} (h : Canonical s) : Canonical (capCmdWrite s n issuer raw) := by
  unfold Machine.capCmdWrite
  exact .ite (.mgmtCmd h (fun h => .keep h) (fun h => .capRun h)) h

theorem Canonical.capEndFrame {n noFe} (h : Canonical s) : Canonical (capEndFrame s n noFe) := by
  unfold Machine.capEndFrame
  extract_lets +onlyGivenNames _
  split
  · exact .ite (.portWrite h) (.modCap (.fenceSignal (.portWrite h)))
  · exact h

theorem Canonical.frameStartOp {n vc} (h : Canonical s) : Canonical (frameStartOp s n vc) := by
  unfold Machine.frameStartOp
  exact .ite h (.modCap (.ite (.capEndFrame h) h))

theorem Canonical.linePacketOp {n l} (h : Canonical s) : Canonical (linePacketOp s n l) := by
  unfold Machine.linePacketOp
  extract_lets +onlyGivenNames _ _
  split
  · exact .ite h (.ite (.keep h) (.ite h (.ite (.keep h) (.ite (.keep h) (.ite (.portWrite h) (.modCap
      (.portWrite h)))))))
  · exact h

theorem Canonical.frameEndOp {n vc} (h : Canonical s) : Canonical (frameEndOp s n vc) := by
  unfold Machine.frameEndOp
  exact .ite h (.capEndFrame h)

theorem Canonical.audStartOp {issuer page} (h : Canonical s) : Canonical (audStartOp s issuer page).2 := by
  unfold Machine.audStartOp
  refine .iteSnd h (.iteSnd h ?_)
  split
  next t e =>
    extract_lets +onlyGivenNames _
    split
    · refine .iteSnd (.snd e (.pbTake h)) ?_
      extract_lets +onlyGivenNames _ hold s2
      have hhold {u o} (h : Canonical u) : Canonical (hold u o) := by
        unfold hold
        split
        · exact .objRef h
        · exact h
      have h2 : Canonical s2 := hhold (hhold (.snd e (.pbTake h)))
      exact .keep h2
    · exact .snd e (.pbTake h)

theorem Canonical.setAud {st} (h : Canonical s) : Canonical (setAud s st) := .keep h

theorem Canonical.audRun {issuer raw} (h : Canonical s) : Canonical (audRun s issuer raw) := by
  unfold Machine.audRun
  extract_lets +onlyGivenNames _
  split
  · split
    next t e => exact .setAud (.snd e (.audStartOp h))
  · exact .ite (.keep h) (.setAud (.audStopSoon h))
  · exact .keep h

theorem Canonical.audCmdWrite {issuer raw} (h : Canonical s) : Canonical (audCmdWrite s issuer raw) := by
  unfold Machine.audCmdWrite
  exact .ite (.mgmtCmd h (fun h => .keep h) (fun h => .audRun h)) h

theorem Canonical.audExamine (h : Canonical s) : Canonical (audExamine s) := by
  unfold Machine.audExamine
  exact .ite (.keep h) h

theorem Canonical.audCapture {din} (h : Canonical s) : Canonical (audCapture s din) := by
  unfold Machine.audCapture
  extract_lets +onlyGivenNames _
  split
  · exact h
  · exact .ite (.portWrite h) (.ite (.fenceSignal (.portWrite h)) (.portWrite h))

theorem Canonical.audDrive (h : Canonical s) : Canonical (audDrive s).2 := by
  unfold Machine.audDrive
  extract_lets +onlyGivenNames _
  split
  · exact h
  · extract_lets +onlyGivenNames _
    split
    next t e =>
      have ht : Canonical t := .snd e (.iteSnd (.portRead h) h)
      exact ht

theorem Canonical.audioFrameOp {f} (h : Canonical s) : Canonical (audioFrameOp s f) := by
  unfold Machine.audioFrameOp
  refine .ite h (.ite (.keep h) ?_)
  extract_lets +onlyGivenNames _ s1
  have h1 : Canonical s1 := .audExamine (.keep h)
  split
  next t e =>
    extract_lets +onlyGivenNames s3
    have h3 : Canonical s3 := .ite (.snd e (.audDrive h1)) (.audCapture (.snd e (.audDrive h1)))
    exact .ite h3 (.ite (.audHalt (.keep h3)) (.keep h3))

/-! ## The byte memories stay canonical: Functions -/

theorem Canonical.modFn {n f} (h : Canonical s) : Canonical (modFn s n f) := .keep h

theorem Canonical.fnEnter {n st} (h : Canonical s) : Canonical (fnEnter s n st) := by
  unfold Machine.fnEnter
  exact .raise (.event (.keep h))

theorem Canonical.railStart (h : Canonical s) : Canonical (railStart s) := by
  unfold Machine.railStart
  split
  · exact .ite (.keep h) h
  · exact h

theorem Canonical.fnBegin {n again} (h : Canonical s) : Canonical (fnBegin s n again) := .keep h

theorem Canonical.pipeOff {n} (h : Canonical s) : Canonical (pipeOff s n) := by
  unfold Machine.pipeOff
  exact .modPipe (.pipeClear h)

theorem Canonical.fnPlain {n en} (h : Canonical s) : Canonical (fnPlain s n en) := by
  unfold Machine.fnPlain
  extract_lets +onlyGivenNames _
  split
  · exact .ite (.fnBegin (.keep h)) (.mgmtWake (.modFn (.keep h)))
  · exact .modFn (.keep h)
  · exact .keep h
  · exact .keep h
  · exact .keep h
  · exact .ite (.modFn (.pipeOff (.keep h))) (.ite (.keep h) (.modFn (.keep h)))
  · exact .modFn (.keep h)

theorem Canonical.eddyOn {p} (h : Canonical s) : Canonical (eddyOn s p) := by
  unfold Machine.eddyOn
  exact .foldl h (fun h => .fnPlain h)

theorem Canonical.eddyOff {p} (h : Canonical s) : Canonical (eddyOff s p) := by
  unfold Machine.eddyOff
  exact .foldl h (fun h => .ite h (.fnPlain h))

theorem Canonical.partBegin {p again} (h : Canonical s) : Canonical (partBegin s p again) := by
  unfold Machine.partBegin
  exact .eddyOn (.railStart (.keep h))

theorem Canonical.partStop {p} (h : Canonical s) : Canonical (partStop s p) := by
  unfold Machine.partStop
  exact .ite h (.eddyOff (.modFn (.finishAll h)))

theorem Canonical.partsStop (h : Canonical s) : Canonical (partsStop s) := by
  unfold Machine.partsStop
  exact .foldl h (fun h => .ite (.partStop h) h)

theorem Canonical.partWrite {p en} (h : Canonical s) : Canonical (partWrite s p en) := by
  unfold Machine.partWrite
  extract_lets +onlyGivenNames _ _
  split
  · exact .ite (.partBegin (.keep h)) (.mgmtWake (.modFn (.keep h)))
  · exact .modFn (.keep h)
  · exact .keep h
  · exact .keep h
  · exact .keep h
  · exact .partStop (.keep h)
  · exact .modFn (.keep h)

theorem Canonical.fnSet {n en} (h : Canonical s) : Canonical (fnSet s n en) := by
  unfold Machine.fnSet
  refine .ite ?_ (.ite h (.fnPlain h))
  split
  · exact .partWrite h
  · exact h

theorem Canonical.fnHostSet {n en} (h : Canonical s) : Canonical (fnHostSet s n en) := by
  unfold Machine.fnHostSet
  exact .ite (.fnSet h) h

theorem Canonical.fnStop {n} (h : Canonical s) : Canonical (fnStop s n) := by
  unfold Machine.fnStop
  split
  · exact .partStop h
  · exact .keep h

theorem Canonical.partZero {p} (h : Canonical s) : Canonical (partZero s p) := by
  unfold Machine.partZero
  extract_lets +onlyGivenNames _ s2
  have h2 : Canonical s2 := .foldl (.foldl h (fun h => .l2Evict h)) (fun h => .wcFlush h)
  exact .keep h2

theorem Canonical.fnStopped {n} (h : Canonical s) : Canonical (fnStopped s n) := by
  unfold Machine.fnStopped
  extract_lets +onlyGivenNames d s1
  have h1 : Canonical s1 := by
    unfold s1
    clear_value d
    split
    · exact .partZero h
    · exact h
  clear_value d s1
  refine .ite ?_ (.fnEnter h1)
  split
  · exact .partBegin h1
  · exact .fnBegin h1

theorem Canonical.fnDoneOp {n} (h : Canonical s) : Canonical (fnDoneOp s n) := by
  unfold Machine.fnDoneOp
  extract_lets +onlyGivenNames _
  split
  · exact h
  · exact h
  · exact .ite h (.fnStopped h)
  · refine .ite ?_ (.fnStop h)
    extract_lets +onlyGivenNames s2
    have h2 : Canonical s2 := .fnEnter (.ite (.modPipe (.pipeOff h)) h)
    exact .ite (.unstallAll h2) h2

/-! ## The byte memories stay canonical: Maint -/

theorem Canonical.setMemCmd {st} (h : Canonical s) : Canonical (setMemCmd s st) := .keep h

theorem Canonical.memRun {r} (h : Canonical s) : Canonical (memRun s r) := by
  unfold Machine.memRun
  refine .ite (.keep h) (.ite (.keep h) (.ite (.keep h) (.ite (.keep h) ?_)))
  split
  next t e => exact .ite (.setMemCmd (.snd e (.pbTake h))) (.ite (.setMemCmd (.snd e (.pbTake h))) (.keep (.snd e
      (.pbTake h))))

theorem Canonical.memCmdWrite {view raw} (h : Canonical s) : Canonical (memCmdWrite s view raw) := by
  unfold Machine.memCmdWrite
  exact .mgmtCmd h (fun h => .keep h) (fun h => .memRun h)

theorem Canonical.l2Clean {key} (h : Canonical s) : Canonical (l2Clean s key) := by
  unfold Machine.l2Clean
  split
  · exact h
  · split
    · exact h
    · exact .ite (.dramPut (.keep h)) h

theorem Canonical.maintDoneOp (h : Canonical s) : Canonical (maintDoneOp s) := by
  unfold Machine.maintDoneOp
  split
  · exact h
  · extract_lets +onlyGivenNames s1 _ _ s4
    have h1 : Canonical s1 := .ite (.foldl h (fun h => .l2Clean h)) h
    have h4 : Canonical s4 := .foldl (.foldl (.ite (.foldl h1 (fun h => .keep h)) h1) (fun h => .keep h))
        (fun h => .keep h)
    exact .partsStop (.keep h4)

theorem Canonical.poisonWord {a} (h : Canonical s) : Canonical (poisonWord s a) := by
  unfold Machine.poisonWord
  exact .ite h (.keep h)

theorem Canonical.scrubOp {line ce ue} (h : Canonical s) : Canonical (scrubOp s line ce ue) := by
  unfold Machine.scrubOp
  extract_lets +onlyGivenNames _ s1
  have h1 : Canonical s1 := by
    refine .foldl h (fun h => ?_)
    split
    next t e => exact .errWrite (.snd e (.takeFree h))
  exact .foldl h1 (fun h => .event (.poisonWord h))

end Sys2Proof.Machine
end

section
namespace Sys2Proof.Machine

set_option Elab.async false

variable {s t : State}

/-! ## The byte memories stay canonical: Raster -/

theorem Canonical.drawFail {inst ctx e} (h : Canonical s) : Canonical (drawFail s inst ctx e) := by
  unfold Machine.drawFail
  split
  · exact .fixedFault h
  · exact .hwFault h

theorem Canonical.drawStartOp {inst node} (h : Canonical s) : Canonical (drawStartOp s inst node) := by
  unfold Machine.drawStartOp
  split
  · exact h
  · split
    · exact h
    · refine .ite ?_ h
      extract_lets +onlyGivenNames _ _ _ s2
      have h2 : Canonical s2 := .failInst (.keep h)
      split
      · exact .hwFault h
      · refine .ite h2 ?_
        split
        · exact .hwFault h
        · split
          · exact .drawFail h
          · exact .ite (.keep h) h2

theorem Canonical.drawWrite {p a d} (h : Canonical s) : Canonical (drawWrite s p a d) := by
  unfold Machine.drawWrite
  split
  · exact h
  · refine .ite h ?_
    split
    · exact .drawFail h
    · exact .dmWrite h

theorem Canonical.drawScribble {p a n} (h : Canonical s) : Canonical (drawScribble s p a n) := by
  unfold Machine.drawScribble
  split
  next t e => exact .drawWrite (.snd e (.freeBytes h))

theorem Canonical.binTri {id p c x} (h : Canonical s) : Canonical (binTri s id p c x).1 := by
  unfold Machine.binTri
  extract_lets +onlyGivenNames _ _ _ _ _ _
  split
  refine .iteFst (.keep h) ?_
  split
  refine .foldl (.foldl (.foldl (.keep h) (fun h => .ite h (.dmTouch h))) (fun h => .drawWrite h)) (fun h => ?_)
  extract_lets +onlyGivenNames s6
  have h6 : Canonical s6 := by
    unfold s6
    split
    · exact .drawScribble h
    · exact h
  split
  · exact .drawScribble h6
  · exact h6

theorem Canonical.binTris {id l} (h : Canonical s) : Canonical (binTris id l s) := by
  induction l generalizing s with
  | nil => exact h
  | cons x l ih =>
    unfold Machine.binTris
    split
    · exact h
    · split
      · exact h
      · split
        next u _ e =>
          have hu : Canonical u := .fst e (.binTri h)
          exact .ite (ih hu) (.modPass hu)

theorem Canonical.modBinReq {part f} (h : Canonical s) : Canonical (modBinReq s part f) := .keep h

theorem Canonical.growWait {id p} (h : Canonical s) : Canonical (growWait s id p) := by
  unfold Machine.growWait
  exact .raise (.event (.modBinReq (.keep h)))

theorem Canonical.binGo {id} (h : Canonical s) : Canonical (binGo s id) := by
  unfold Machine.binGo
  extract_lets +onlyGivenNames _ s1
  have h1 : Canonical s1 := .binTris (.keep h)
  split
  · exact h1
  · exact .ite (.growWait h1) (.ite (.modPass h1) h1)

theorem Canonical.startFlush {id} (h : Canonical s) : Canonical (startFlush s id) := by
  unfold Machine.startFlush
  split
  · exact h
  · exact .event (.modBinReq (.keep h))

theorem Canonical.binSettle {part} (h : Canonical s) : Canonical (binSettle s part) := by
  unfold Machine.binSettle
  split
  · exact .ite (.startFlush h) h
  · exact h

theorem Canonical.binBatchOp {part tris pass} (h : Canonical s) : Canonical (binBatchOp s part tris pass) := by
  unfold Machine.binBatchOp
  extract_lets +onlyGivenNames s1
  have h1 : Canonical s1 := .binSettle h
  split
  · exact h1
  · refine .ite ?_ h1
    extract_lets +onlyGivenNames _ _
    split
    · exact .drawFail (.keep h1)
    · exact .ite (.binSettle (.binGo (.modPass (.keep h1)))) h1

theorem Canonical.growExpireOp {part} (h : Canonical s) : Canonical (growExpireOp s part) := by
  unfold Machine.growExpireOp
  extract_lets +onlyGivenNames _
  split
  · exact .binSettle h
  · exact .binSettle (.modPass (.binSettle h))

theorem Canonical.flushEndOp {part} (h : Canonical s) : Canonical (flushEndOp s part) := by
  unfold Machine.flushEndOp
  extract_lets +onlyGivenNames _
  split
  · exact .binSettle h
  · exact .ite (.binSettle (.binGo (.modPass (.binSettle h)))) (.binSettle h)

theorem Canonical.setBinCmd {st} (h : Canonical s) : Canonical (setBinCmd s st) := .keep h

theorem Canonical.grantOp {ctx x tag} (h : Canonical s) : Canonical (grantOp s ctx x tag) := by
  unfold Machine.grantOp
  extract_lets +onlyGivenNames _
  split
  · exact .keep h
  · refine .ite (.keep h) (.ite (.keep h) ?_)
    extract_lets +onlyGivenNames _ s3
    have h3 : Canonical s3 := .setBinCmd (.keep h)
    split
    · exact h3
    · exact .ite (.binSettle (.binGo (.modPass h3))) (.modPass h3)

theorem Canonical.withdrawOp {ctx x tag} (h : Canonical s) : Canonical (withdrawOp s ctx x tag) := by
  unfold Machine.withdrawOp
  exact .ite (.keep h) (.ite (.keep h) (.setBinCmd (.objUnref (.keep h))))

theorem Canonical.binRun {r} (h : Canonical s) : Canonical (binRun s r) := by
  unfold Machine.binRun
  exact .ite (.keep h) (.ite (.keep h) (.ite (.grantOp h) (.withdrawOp h)))

theorem Canonical.binCmdWrite {raw} (h : Canonical s) : Canonical (binCmdWrite s raw) := by
  unfold Machine.binCmdWrite
  exact .feCmd h (fun h => .keep h) (fun h => .binRun h)

theorem Canonical.freeSamples {n} (h : Canonical s) : Canonical (freeSamples s n).2 := by
  unfold Machine.freeSamples
  exact .keep h

theorem Canonical.fillAtt {id x i} (h : Canonical s) : Canonical (fillAtt s id x i) := by
  unfold Machine.fillAtt
  split
  · exact h
  · extract_lets +onlyGivenNames _
    split
    next t e =>
      have ht : Canonical t := .snd e (.iteSnd h (.iteSnd h (.freeSamples h)))
      exact .modPass (.foldl ht (fun h => .dmTouch h))

theorem Canonical.tileAssignOp {part core} (h : Canonical s) : Canonical (tileAssignOp s part core) := by
  unfold Machine.tileAssignOp
  refine .ite h ?_
  split
  · exact h
  · split
    · split
      · exact .drawFail h
      · exact .drawScribble (.foldl (.keep h) (fun h => .fillAtt h))
    · exact h

theorem Canonical.storeAtt {p i x} (h : Canonical s) : Canonical (storeAtt s p i x) := by
  unfold Machine.storeAtt
  exact .foldl h (fun h => .drawWrite h)

theorem Canonical.spillAtt {p i x} (h : Canonical s) : Canonical (spillAtt s p i x) := by
  unfold Machine.spillAtt
  exact .drawWrite h

theorem Canonical.tileDone {id core x spilled} (h : Canonical s) : Canonical (tileDone s id core x spilled) := by
  unfold Machine.tileDone
  extract_lets +onlyGivenNames _
  split
  · exact .keep h
  · extract_lets +onlyGivenNames s3
    have h3 : Canonical s3 := .drawScribble (.keep h)
    exact .ite (.nodeEnded (.passDrop h3)) h3

theorem Canonical.tileResolveOp {part core} (h : Canonical s) : Canonical (tileResolveOp s part core) := by
  unfold Machine.tileResolveOp
  split
  · exact h
  · exact .ite (.tileDone (.foldl h (fun h => .spillAtt h))) (.tileDone (.foldl h (fun h => .storeAtt h)))

theorem Canonical.rasSetup {inst x g node core pc helpers r} (h : Canonical s) :
    Canonical (rasSetup s inst x g node core pc helpers r) := by
  unfold Machine.rasSetup
  exact .foldl (.setupWg (.keep h)) (fun h => .keep h)

theorem Canonical.placeFragments {inst x g node core pid p r} (h : Canonical s) :
    Canonical (placeFragments s inst x g node core pid p r) := by
  unfold Machine.placeFragments
  exact .modPass (.rasSetup h)

theorem Canonical.rasPlace {inst node core r} (h : Canonical s) : Canonical (rasPlace s inst node core r) := by
  unfold Machine.rasPlace
  split
  · split
    · exact h
    · extract_lets +onlyGivenNames _
      split
      · exact .ite (.rasSetup h) h
      · exact .ite (.placeFragments h) h
  · exact h

theorem Canonical.texLane {i unfiltered d l} (h : Canonical s) : Canonical (texLane s i unfiltered d l).2 := by
  unfold Machine.texLane
  exact .iteSnd h (.keep h)

theorem Canonical.texOp {unfiltered i} (h : Canonical s) : Canonical (texOp unfiltered s i) := by
  unfold Machine.texOp
  refine .ite (.badEncoding h) (.ite (.keep h) (.ite (.keep h) (.ite (.refusedAccess h) (.ite (.badEncoding h) ?_))))
  extract_lets +onlyGivenNames _
  split
  · exact .refusedAccess h
  · split
    · exact .hwFault h
    · split
      next t e =>
        have ht : Canonical t := by
          refine .snd e (.foldlSnd h fun h => ?_)
          split
          next u e => exact .snd e (.texLane h)
        exact .keep ht

theorem Canonical.voutOp {i} (h : Canonical s) : Canonical (voutOp s i) := by
  unfold Machine.voutOp
  extract_lets +onlyGivenNames _ _ _ _
  split
  · exact .badEncoding h
  · exact .ite (.badEncoding h) (.ite (.keep h) (.ite (.keep h) (.keep h)))

theorem Canonical.vinOp {i} (h : Canonical s) : Canonical (vinOp s i) := by
  unfold Machine.vinOp
  extract_lets +onlyGivenNames _ _
  split
  · exact .badEncoding h
  · exact .ite (.badEncoding h) (.ite (.keep h) (.keep h))

theorem Canonical.foutOp {i} (h : Canonical s) : Canonical (foutOp s i) := by
  unfold Machine.foutOp
  extract_lets +onlyGivenNames _ _
  split
  · exact .badEncoding h
  · exact .ite (.badEncoding h) (.ite (.keep h) (.keep h))

theorem Canonical.killOp {i} (h : Canonical s) : Canonical (killOp s i) := by
  unfold Machine.killOp
  split
  · exact .badEncoding h
  · exact .ite (.keep h) (.keep h)

theorem Canonical.areadOp {i} (h : Canonical s) : Canonical (areadOp s i) := by
  unfold Machine.areadOp
  extract_lets +onlyGivenNames _ _
  split
  · exact .badEncoding h
  · exact .ite (.badEncoding h) (.ite (.keep h) (.ite (.keep h) (.keep h)))

theorem Canonical.oenterOp {i} (h : Canonical s) : Canonical (oenterOp s i) := by
  unfold Machine.oenterOp
  split
  · exact .badEncoding h
  · refine .ite (.keep h) (.ite (.keep h) ?_)
    split
    · exact .ite (.keep h) (.keep h)
    · exact .keep h

theorem Canonical.oexitOp {i} (h : Canonical s) : Canonical (oexitOp s i) := by
  unfold Machine.oexitOp
  split
  · exact .badEncoding h
  · exact .ite (.keep h) (.ite (.keep h) (.unstallAll (.keep h)))

theorem Canonical.rsvOp {dst i} (h : Canonical s) : Canonical (rsvOp dst s i) := by
  unfold Machine.rsvOp
  exact .ite (.badEncoding h) (.ite (.keep h) (.ite (.keep h) (.keep h)))

/-! ## The byte memories stay canonical: Eddy -/

theorem Canonical.eddyFetch {w core a n} (h : Canonical s) : Canonical (eddyFetch s w core a n).2 := by
  unfold Machine.eddyFetch
  exact .l1Fill h

theorem Canonical.fetchStop {w id pc a} (h : Canonical s) : Canonical (fetchStop s w id pc a) := by
  unfold Machine.fetchStop
  split
  · exact .wgFault h
  · exact .wgFault h
  · exact .hwFault h

theorem Canonical.readHdr {w core base x} (e : readHdr s w core base = .inr (x, t)) (h : Canonical s) :
    Canonical t := by
  unfold Machine.readHdr at e
  split at e
  · cases e
  · split at e
    next u eu =>
      dsimp only at e
      split at e
      · cases e
      · cases e
        exact .snd eu (.eddyFetch h)

/-- The state a walk of the structure ends with is canonical, where it ends with one. -/
def CanonicalWalk : Walk → Prop
  | .away => True
  | .bad _ s => Canonical s
  | .ok _ s => Canonical s

theorem Canonical.walkBad {x : Walk} {b} (e : x = .bad b t) (h : CanonicalWalk x) : Canonical t := by
  rwa [e] at h

theorem Canonical.walkOk {x : Walk} {runs} (e : x = .ok runs t) (h : CanonicalWalk x) : Canonical t := by
  rwa [e] at h

theorem Canonical.walkNodes {w core base lim l known runs} (h : Canonical s) :
    CanonicalWalk (walkNodes w core base lim l known runs s) := by
  induction l generalizing s known runs with
  | nil => exact h
  | cons n r ih =>
    unfold Machine.walkNodes
    split
    · trivial
    · split
      · exact h
      · split
        next u e =>
          have hu : Canonical u := .snd e (.eddyFetch h)
          split
          · exact hu
          · exact ih hu

theorem Canonical.walkEntries {w core base lim runs l} (h : Canonical s) :
    CanonicalWalk (walkEntries w core base lim runs l s) := by
  induction l generalizing s with
  | nil => exact h
  | cons n r ih =>
    unfold Machine.walkEntries
    split
    · trivial
    · split
      · exact h
      · exact ih (.eddyFetch h)

theorem Canonical.traceGo {i x x1} (h : Canonical s) : Canonical (traceGo s i x x1) := by
  unfold Machine.traceGo
  extract_lets +onlyGivenNames _ _ _ _ _ s2
  have h2 : Canonical s2 := .stackFill (.keep h)
  exact .advance (.ite (.modSplit h2) h2)

theorem Canonical.traceOp {i} (h : Canonical s) : Canonical (traceOp s i) := by
  unfold Machine.traceOp
  refine .ite (.badEncoding h) (.ite (.keep h) (.ite (.keep h) (.ite (.keep h) (.ite (.keep h) (.ite (.keep h) (.ite
      (.badEncoding h) (.ite (.refusedAccess h) (.ite (.keep h) ?_))))))))
  split
  · exact .fetchStop h
  next t e => exact .traceGo (.readHdr e h)

theorem Canonical.bucketOp {core bucket} (h : Canonical s) : Canonical (bucketOp s core bucket) := by
  unfold Machine.bucketOp
  extract_lets +onlyGivenNames _ d
  clear_value d
  split
  · exact h
  · exact .ite (.keep h) h

theorem Canonical.roundStart {id x x1 l} (h : Canonical s) : Canonical (roundStart s id x x1 l) := by
  unfold Machine.roundStart
  exact .modGroup (.keep h)

theorem Canonical.callbackOp {id nodes entries cands} (h : Canonical s) :
    Canonical (callbackOp s id nodes entries cands) := by
  unfold Machine.callbackOp
  split
  · exact h
  · split
    · refine .ite h ?_
      split
      · exact .fetchStop h
      next t e =>
        have ht : Canonical t := .readHdr e h
        split
        · exact h
        next e1 => exact .fetchStop (.walkBad e1 ht.walkNodes)
        next t1 e1 =>
          have h1 : Canonical t1 := .walkOk e1 ht.walkNodes
          split
          · exact h
          next e2 => exact .fetchStop (.walkBad e2 h1.walkEntries)
          next t2 e2 =>
            have h2 : Canonical t2 := .walkOk e2 h1.walkEntries
            split
            · exact h
            · exact h
            · exact .roundStart h2
    · exact h

theorem Canonical.verdict {x rd i lane} {p : State × Trace} (h : Canonical p.1) :
    Canonical (verdict x rd i p lane).1 := by
  unfold Machine.verdict
  split
  next t _ =>
    have ht : Canonical t := h
    extract_lets +onlyGivenNames _
    split
    next t1 e1 =>
      split
      next t2 e2 =>
        have ht2 : Canonical t2 := .snd e2 (.iteSnd (.snd e1 (.takeFree ht)) ht)
        split
        · exact ht2
        · exact .iteFst ht2 ht2

theorem Canonical.hitretOp {i} (h : Canonical s) : Canonical (hitretOp s i) := by
  unfold Machine.hitretOp
  split
  · exact .badEncoding h
  · split
    · exact .badEncoding h
    · refine .ite (.badEncoding h) (.ite (.keep h) ?_)
      split
      next t _ e =>
        have ht : Canonical t := by
          exact .fst e (.foldlFst h fun h => .verdict h)
        exact .modSplit (.keep ht)

theorem Canonical.traceEnd {id x lsBase ws} (h : Canonical s) : Canonical (traceEnd s id x lsBase ws) := by
  unfold Machine.traceEnd
  extract_lets +onlyGivenNames _ s1
  have h1 : Canonical s1 := .stackFill h
  exact .settleGroup (.unstallAll (.unstall (.modGroup (.keep h1))))

theorem Canonical.traceDoneOp {id nodes entries hits} (h : Canonical s) :
    Canonical (traceDoneOp s id nodes entries hits) := by
  unfold Machine.traceDoneOp
  split
  · exact h
  · split
    · exact h
    · refine .ite h ?_
      split
      · exact .fetchStop h
      next t e =>
        have ht : Canonical t := .readHdr e h
        split
        · exact h
        next e1 => exact .fetchStop (.walkBad e1 ht.walkNodes)
        next t1 e1 =>
          have h1 : Canonical t1 := .walkOk e1 ht.walkNodes
          split
          · exact h
          next e2 => exact .fetchStop (.walkBad e2 h1.walkEntries)
          next t2 e2 =>
            have h2 : Canonical t2 := .walkOk e2 h1.walkEntries
            extract_lets +onlyGivenNames _
            split
            · exact .fetchStop h2
            · exact .ite (.traceEnd (.foldl h2 fun h => .eddyFetch h)) h

end Sys2Proof.Machine
end

section
namespace Sys2Proof.Machine

set_option Elab.async false

variable {s t : State}

/-! ## The byte memories stay canonical: Place -/

theorem Canonical.dropTile {pid core} (h : Canonical s) : Canonical (dropTile s pid core) := .keep h

theorem Canonical.killToRerun {l} (h : Canonical s) : Canonical (killToRerun s l) := by
  unfold Machine.killToRerun
  refine .foldl (.killWgs h) (fun h => ?_)
  extract_lets +onlyGivenNames s3
  have h3 : Canonical s3 := .ite (.keep h) h
  exact .keep h3

theorem Canonical.stopVictim {core v} (h : Canonical s) : Canonical (stopVictim core s v) := by
  unfold Machine.stopVictim
  split
  · exact .dropTile (.killWgs h)
  · exact .ite (.killWgs h) (.ite (.killToRerun h) (.foldl h (fun h => .keep h)))

theorem Canonical.holdRoom {core vs} (h : Canonical s) : Canonical (holdRoom s core vs) := by
  unfold Machine.holdRoom
  exact .ite h (.keep h)

theorem Canonical.preemptOp {inst node idx core} (h : Canonical s) : Canonical (preemptOp s inst node idx core) := by
  unfold Machine.preemptOp
  split
  · exact h
  · split
    · exact h
    · split
      · exact h
      · refine .ite h ?_
        split
        · exact h
        · exact .ite (.foldl (.holdRoom h) (fun h => .stopVictim h)) h

/-! ## The byte memories stay canonical: Compress -/

theorem Canonical.cmpReadyOp {id i} (h : Canonical s) : Canonical (cmpReadyOp s id i) := by
  unfold Machine.cmpReadyOp
  split
  · exact h
  · split
    · exact h
    · refine .ite h ?_
      split
      · exact .hwFault h
      · exact .ite (.failInst (.keep h)) (.ite (.failInst (.keep h)) (.keep h))

theorem Canonical.cmpStartOp {e} (h : Canonical s) : Canonical (cmpStartOp s e) := by
  unfold Machine.cmpStartOp
  split
  · exact h
  · split
    · exact h
    · exact .keep h

theorem Canonical.streamOf {n} (h : Canonical s) : Canonical (streamOf s n).2 := by
  unfold Machine.streamOf
  refine .iteSnd ?_ (.iteSnd h h)
  split
  next t e => exact .snd e (.freeBytes h)

theorem Canonical.cmpWrite {g n a e} (h : Canonical s) : Canonical (cmpWrite s g n a e) := by
  unfold Machine.cmpWrite
  extract_lets +onlyGivenNames _ _
  split
  next t e =>
    have ht : Canonical t := .snd e (.iteSnd h (.freeBytes h))
    extract_lets +onlyGivenNames s2
    have h2 : Canonical s2 := .ite ht (.dmWrite ht)
    exact .dmWrite (.ite (.dmWrite h2) h2)

theorem Canonical.badStateEnd (h : Canonical s) : Canonical (badStateEnd s).2 := by
  unfold Machine.badStateEnd
  split
  next t e =>
    split
    next t1 e1 =>
      have ht1 : Canonical t1 := .snd e1 (.takeFree (.snd e (.takeFree h)))
      split
      next t2 e2 => exact .snd e2 (.takeFree ht1)

theorem Canonical.cmpFinish {eng id i n code} (h : Canonical s) : Canonical (cmpFinish s eng id i n code) := by
  unfold Machine.cmpFinish
  extract_lets +onlyGivenNames _ s2
  have h2 : Canonical s2 := .keep h
  exact .ite (.failInst h2) h2

theorem Canonical.cmpEndOp {eng r} (h : Canonical s) : Canonical (cmpEndOp s eng r) := by
  unfold Machine.cmpEndOp
  split
  · exact h
  · split
    · exact h
    · split
      · exact h
      · extract_lets +onlyGivenNames _ _
        split
        · exact .hwFault h
        · exact .fixedFault h
        · extract_lets +onlyGivenNames _ _ _ _
          split
          next t e =>
            split
            next t1 e1 =>
              have ht1 : Canonical t1 := .snd e1 (.badStateEnd (.snd e (.streamOf (.dmTouch h))))
              exact .cmpFinish (.cmpWrite ht1)
          next t e =>
            refine .ite (.dmTouch h) ?_
            split
            · exact .dmTouch h
            · exact .cmpFinish (.cmpWrite (.snd e (.streamOf (.dmTouch h))))

/-! ## The byte memories stay canonical: Security -/

theorem Canonical.secDone {tag r} (h : Canonical s) : Canonical (secDone s tag r) := .keep h

theorem Canonical.attestOp {r} (h : Canonical s) : Canonical (attestOp s r) := by
  unfold Machine.attestOp
  split
  next t e =>
    extract_lets +onlyGivenNames _ _ s1 s2
    have h1 : Canonical s1 := .keep (s := t) (.snd e (.pbTake h))
    have h2 : Canonical s2 := .pbStore h1
    clear_value s2
    exact .secDone (.keep h2)

theorem Canonical.getIdOp {r} (h : Canonical s) : Canonical (getIdOp s r) := by
  unfold Machine.getIdOp
  exact .secDone (.pbStore (.pbStore (.pbStore h)))

theorem Canonical.setLoadOp {r} (h : Canonical s) : Canonical (setLoadOp s r) := by
  unfold Machine.setLoadOp
  split
  next t e =>
    refine .ite (.secDone (.snd e (.pbTake h))) (.ite (.secDone (.snd e (.pbTake h))) (.ite (.secDone (.snd e
        (.pbTake h))) ?_))
    split
    · exact .secDone (.snd e (.pbTake h))
    · refine .ite (.secDone (.snd e (.pbTake h))) ?_
      split
      · exact .secDone (.snd e (.pbTake h))
      · exact .secDone (.slotPut (.snd e (.pbTake h)))

theorem Canonical.setDropOp {r} (h : Canonical s) : Canonical (setDropOp s r) := by
  unfold Machine.setDropOp
  split
  next t e =>
    split
    · exact .secDone (.snd e (.pbTake h))
    · exact .secDone (.slotPut (.snd e (.pbTake h)))

theorem Canonical.weightLoadOp {r} (h : Canonical s) : Canonical (weightLoadOp s r) := by
  unfold Machine.weightLoadOp
  split
  next t e =>
    extract_lets +onlyGivenNames _ _ _ s1
    have h1 : Canonical s1 := .setSecCmd (.snd e (.pbTake h))
    refine .ite (.secDone h1) ?_
    split
    · refine .ite (.secDone h1) (.ite (.secDone h1) ?_)
      extract_lets +onlyGivenNames _
      split
      · exact .secDone (.hwFault h1)
      · refine .ite (.secDone h1) ?_
        split
        · exact .secDone h1
        · refine .ite (.secDone h1) ?_
          split
          · exact .secDone h1
          · extract_lets +onlyGivenNames _ s6
            have h6 : Canonical s6 := .objRef (.objRef h1)
            exact .keep h6
    · exact .secDone h1

theorem Canonical.weightChunkOp (h : Canonical s) : Canonical (weightChunkOp s) := by
  unfold Machine.weightChunkOp
  split
  · exact h
  · refine .ite (.loadAbort h) (.ite (.loadAbort (.fixedFault h)) ?_)
    split
    · exact .loadAbort (.hwFault h)
    · split
      · exact .loadAbort h
      · extract_lets +onlyGivenNames s2 _ _ _ _ s4
        have h2 : Canonical s2 := .dmWrite h
        have h4 : Canonical s4 := .setSecCmd (.keep h2)
        exact .ite (.loadFinish h4) h4

theorem Canonical.challengeOp {r} (h : Canonical s) : Canonical (challengeOp s r) := by
  unfold Machine.challengeOp
  exact .secDone (.pbStore (.keep h))

theorem Canonical.tokenOp {d} (h : Canonical s) : Canonical (tokenOp s d).2 := by
  unfold Machine.tokenOp
  exact .iteSnd (.keep h) (.iteSnd (.keep h) (.iteSnd (.keep h) (.iteSnd (.keep h) (.keep h))))

theorem Canonical.unlockOp {r} (h : Canonical s) : Canonical (unlockOp s r) := by
  unfold Machine.unlockOp
  split
  next t e =>
    split
    next t1 e1 =>
      have ht1 : Canonical t1 := .snd e1 (.tokenOp (.snd e (.pbTake h)))
      exact .keep ht1

theorem Canonical.svnAdvanceOp {r supply blown} (h : Canonical s) : Canonical (svnAdvanceOp s r supply blown) := by
  unfold Machine.svnAdvanceOp
  split
  next t e =>
    extract_lets +onlyGivenNames _
    split
    · exact .secDone (.snd e (.pbTake h))
    · exact .ite (.secDone (.snd e (.pbTake h))) (.ite (.secDone (.snd e (.pbTake h))) (.keep (.snd e (.pbTake h))))

theorem Canonical.killDebugOp {r supply} (h : Canonical s) : Canonical (killDebugOp s r supply) := by
  unfold Machine.killDebugOp
  split
  next t e => exact .ite (.secDone (.snd e (.pbTake h))) (.ite (.secDone (.snd e (.pbTake h))) (.keep (.snd e
      (.pbTake h))))

theorem Canonical.secRun {r supply blown} (h : Canonical s) : Canonical (secRun s r supply blown) := by
  unfold Machine.secRun
  refine .ite (.keep h) (.ite (.keep h) (.ite (.keep h) ?_))
  split
  · exact .attestOp h
  · exact .getIdOp h
  · exact .setLoadOp h
  · exact .setDropOp h
  · exact .weightLoadOp h
  · exact .challengeOp h
  · exact .unlockOp h
  · exact .svnAdvanceOp h
  · exact .killDebugOp h

theorem Canonical.secCmdSupply {view raw supply blown} (h : Canonical s) :
    Canonical (secCmdSupply s view raw supply blown) := by
  unfold Machine.secCmdSupply
  exact .mgmtCmd h (fun h => .keep h) (fun h => .ite (.keep h) (.secRun h))

theorem Canonical.secCmdWrite {view raw} (h : Canonical s) : Canonical (secCmdWrite s view raw) := by
  unfold Machine.secCmdWrite
  split
  next t e => exact .secCmdSupply (.snd e (.takeFree h))

/-! ## The byte memories stay canonical: Links -/

theorem Canonical.ringUpdate (h : Canonical s) : Canonical (ringUpdate s) := by
  unfold Machine.ringUpdate
  exact .ite h (.keep h)

theorem Canonical.ringReached (h : Canonical s) : Canonical (ringReached s) := by
  unfold Machine.ringReached
  exact .ite h (.keep h)

theorem Canonical.trainOp {n ok} (h : Canonical s) : Canonical (trainOp s n ok) := by
  unfold Machine.trainOp
  refine .ite h ?_
  split
  · exact .ringUpdate (.ringReached (.keep h))
  · exact .ringUpdate (.ringReached (.keep h))
  · exact .ringUpdate (.event (.keep h))

theorem Canonical.retrainOp {n} (h : Canonical s) : Canonical (retrainOp s n) := by
  unfold Machine.retrainOp
  exact .ite (.ringUpdate (.keep h)) h

theorem Canonical.replayOp {n} (h : Canonical s) : Canonical (replayOp s n) := by
  unfold Machine.replayOp
  exact .ite (.keep h) h

theorem Canonical.olEnd {tag r} (h : Canonical s) : Canonical (olEnd s tag r) := .keep h

theorem Canonical.linkMeet {p x} (h : Canonical s) : Canonical (linkMeet s p x) := by
  unfold Machine.linkMeet
  refine .ite h ?_
  split
  · exact h
  · exact .keep h

theorem Canonical.ringSetRun {page tag peers} (h : Canonical s) : Canonical (ringSetRun s page tag peers) := by
  unfold Machine.ringSetRun
  split
  next t e =>
    refine .ite (.olEnd (.snd e (.pbTake h))) (.ite (.olEnd (.snd e (.pbTake h))) ?_)
    extract_lets +onlyGivenNames _ s3
    have h3 : Canonical s3 := .foldl (.keep (.snd e (.pbTake h))) (fun h => .linkMeet h)
    exact .olEnd (.ringUpdate (.ite (.ringReached h3) h3))

theorem Canonical.grantTake {tag id g} (h : Canonical s) : Canonical (grantTake s tag id g) := .keep h

theorem Canonical.exportObjRun {tag b ok} (h : Canonical s) : Canonical (exportObjRun s tag b ok) := by
  unfold Machine.exportObjRun
  extract_lets +onlyGivenNames _
  split
  · exact .keep h
  · refine .ite (.keep h) ?_
    split
    · exact .keep h
    · exact .ite (.keep h) (.grantTake (.keep h))

theorem Canonical.exportFenceRun {tag b ok} (h : Canonical s) : Canonical (exportFenceRun s tag b ok) := by
  unfold Machine.exportFenceRun
  refine .ite (.keep h) ?_
  split
  · exact .keep h
  · exact .ite (.keep h) (.grantTake (.keep h))

theorem Canonical.grantLeave {id g} (h : Canonical s) : Canonical (grantLeave s id g) := by
  unfold Machine.grantLeave
  exact .ite (.keep h) (.objLeave h)

theorem Canonical.grantEnd {id} (h : Canonical s) : Canonical (grantEnd s id) := by
  unfold Machine.grantEnd
  split
  · exact h
  · exact .ite (.objUnref (.keep h)) (.grantLeave (.keep h))

theorem Canonical.revokeRun {tag id inFlight} (h : Canonical s) : Canonical (revokeRun s tag id inFlight) := by
  unfold Machine.revokeRun
  split
  · exact .keep h
  · refine .ite (.keep h) (.ite ?_ (.olEnd (.grantEnd h)))
    extract_lets +onlyGivenNames s1
    have h1 : Canonical s1 := .grantLeave (.keep h)
    exact .keep h1

theorem Canonical.olRun {raw a} (h : Canonical s) : Canonical (olRun s raw a) := by
  unfold Machine.olRun
  extract_lets +onlyGivenNames _ _
  split
  · exact .revokeRun h
  · refine .ite (.keep h) (.ite (.keep h) (.ite (.ringSetRun h) ?_))
    split
    next t e => exact .ite (.exportObjRun (.snd e (.pbTake h))) (.exportFenceRun (.snd e (.pbTake h)))

theorem Canonical.olCmdWrite {raw a} (h : Canonical s) : Canonical (olCmdWrite s raw a) := by
  unfold Machine.olCmdWrite
  exact .mgmtCmd h (fun h => .keep h) (fun h => .olRun h)

theorem Canonical.olCmdRaw {raw} (h : Canonical s) : Canonical (olCmdRaw s raw) := by
  unfold Machine.olCmdRaw
  split
  next t e => exact .olCmdWrite (.snd e (.takeFree h))

theorem Canonical.proxyObj {chip gid tctx x len r0 r1} (h : Canonical s) :
    Canonical (proxyObj s chip gid tctx x len r0 r1) := by
  unfold Machine.proxyObj
  exact .ite (.keep h) h

theorem Canonical.proxyFence {chip gid tctx f v err abandoned r0 r1} (h : Canonical s) :
    Canonical (proxyFence s chip gid tctx f v err abandoned r0 r1) := by
  unfold Machine.proxyFence
  exact .ite (.keep h) h

theorem Canonical.proxyGone {isFence i} (h : Canonical s) : Canonical (proxyGone s isFence i) := by
  unfold Machine.proxyGone
  exact .ite (.ite (.keep h) h) (.ite (.objLeave h) h)

theorem Canonical.proxyUpdate {f v err abandoned} (h : Canonical s) :
    Canonical (proxyUpdate s f v err abandoned) := by
  unfold Machine.proxyUpdate
  exact .ite (.keep h) h

theorem Canonical.signalForward {chip f ctx v err} (h : Canonical s) :
    Canonical (signalForward s chip f ctx v err) := by
  unfold Machine.signalForward
  exact .ite (.keep h) h

theorem Canonical.remoteAccess {gid off len d} (h : Canonical s) : Canonical (remoteAccess s gid off len d) := by
  unfold Machine.remoteAccess
  split
  · exact h
  · refine .ite h ?_
    split
    · refine .ite h ?_
      split
      · exact .hwFault h
      · exact .dmTouch h
    · refine .ite h ?_
      split
      · exact .hwFault h
      · exact .dmWrite h

theorem Canonical.joinAcked {i ok} (h : Canonical s) : Canonical (joinAcked s i ok) := by
  unfold Machine.joinAcked
  exact .ite h (.ite (.ite (.keep h) (.keep h)) (.keep h))

theorem Canonical.ringWake {i c} (h : Canonical s) : Canonical (ringWake s i c) := by
  unfold Machine.ringWake
  split
  exact .unstallAll (.keep h)

theorem Canonical.ringMessage {m} (h : Canonical s) : Canonical (ringMessage s m) := by
  unfold Machine.ringMessage
  extract_lets +onlyGivenNames _
  split
  · exact h
  · exact .joinAcked h
  · exact .ite (.ctrAdd h) h
  · exact .ite (.hubArrive h) h
  · exact .ite (.ringWake h) h
  · exact .ite (.releaseBar (.modHub (.foldl h (fun h => .ctrZero h)))) h

theorem Canonical.copiesLost {chip id} (h : Canonical s) : Canonical (copiesLost chip s id) := by
  unfold Machine.copiesLost
  split
  · exact h
  · split
    · exact h
    · exact .ite h (.settleFail (.modInst (.foldl h (fun h => .keep h))))

theorem Canonical.ringLost {chip ctx} (h : Canonical s) : Canonical (ringLost chip s ctx) := by
  unfold Machine.ringLost
  exact .ctxError h

theorem Canonical.unreachableOp {j} (h : Canonical s) : Canonical (unreachableOp s j) := by
  unfold Machine.unreachableOp
  refine .ite h ?_
  extract_lets +onlyGivenNames _ _ s2 _ _ _ s6
  have h2 : Canonical s2 := .event (.keep h)
  have h6 : Canonical s6 := .foldl (.foldl (.foldl (.keep h2) (fun h => .copiesLost h)) (fun h => .objLeave h))
      (fun h => .grantEnd h)
  exact .ringUpdate (.ite (.foldl h6 (fun h => .ringLost h)) h6)

end Sys2Proof.Machine
end

section
namespace Sys2Proof.Machine

set_option Elab.async false

variable {s t : State}

/-! ## The byte memories stay canonical: CmdRegs -/

theorem Canonical.dcCmdRaw {n ctx raw} (h : Canonical s) : Canonical (dcCmdRaw s n ctx raw) := by
  unfold Machine.dcCmdRaw
  split
  next t e =>
    split
    next t1 e1 =>
      have ht1 : Canonical t1 := .snd e1 (.freeBytes (.snd e (.takeFree h)))
      exact .dcCmdWrite ht1

theorem Canonical.globalCmd {off raw} (h : Canonical s) : Canonical (globalCmd s off raw) := by
  unfold Machine.globalCmd
  split
  · exact .feCmdWrite h
  · exact .ctxCmdWrite h
  · exact .gmCmdWrite h
  · exact .sqCmdWrite h
  · exact .luCmdWrite h
  · exact .memCmdWrite h
  · exact .binCmdWrite h
  · exact .secCmdWrite h
  · exact .olCmdRaw h
  · exact h

theorem Canonical.viewCmd {ctx off raw} (h : Canonical s) : Canonical (viewCmd s ctx off raw) := by
  unfold Machine.viewCmd
  split
  · exact .dcCmdRaw h
  · exact .dcCmdRaw h
  · exact .dcCmdRaw h
  · exact .dcCmdRaw h
  · exact .capCmdWrite h
  · exact .capCmdWrite h
  · exact .capCmdWrite h
  · exact .capCmdWrite h
  · exact .audCmdWrite h
  · exact h

theorem Canonical.feHeldRun {x} (h : Canonical s) : Canonical (feHeldRun s x) := by
  unfold Machine.feHeldRun
  extract_lets +onlyGivenNames s1
  have h1 : Canonical s1 := by
    unfold s1
    split <;> exact .keep h
  exact .globalCmd h1

theorem Canonical.mgmtHeldRun {x} (h : Canonical s) : Canonical (mgmtHeldRun s x) := by
  unfold Machine.mgmtHeldRun
  split
  refine .ite ?_ (.viewCmd (.ite (.keep h) (.ite (.keep h) (.keep h))))
  extract_lets +onlyGivenNames s1
  have h1 : Canonical s1 := by
    unfold s1
    split <;> exact .keep h
  exact .globalCmd h1

/-! ## The byte memories stay canonical: Restart -/

theorem Canonical.feRestartOp (h : Canonical s) : Canonical (feRestartOp s) := by
  unfold Machine.feRestartOp
  refine .ite h ?_
  extract_lets +onlyGivenNames _ _ s1
  have h1 : Canonical s1 := .raise (.event h)
  exact .keep h1

theorem Canonical.feReloadOp (h : Canonical s) : Canonical (feReloadOp s) := by
  unfold Machine.feReloadOp
  exact .ite (.foldl (.resolveHeld (.foldl (.finishAll (.keep h)) (fun h => .cmdDone h))) (fun h => .feHeldRun h)) h

theorem Canonical.mgmtRestartOp (h : Canonical s) : Canonical (mgmtRestartOp s) := by
  unfold Machine.mgmtRestartOp
  refine .ite h ?_
  extract_lets +onlyGivenNames s1
  have h1 : Canonical s1 := .raise (.event h)
  exact .keep h1

theorem Canonical.mgmtDoneOp (h : Canonical s) : Canonical (mgmtDoneOp s) := by
  unfold Machine.mgmtDoneOp
  exact .ite (.foldl (.keep h) (fun h => .mgmtHeldRun h)) h

theorem Canonical.mailFail (h : Canonical s) : Canonical (mailFail s) := by
  unfold Machine.mailFail
  split
  · exact h
  · exact .keep h

theorem Canonical.secFaultOp (h : Canonical s) : Canonical (secFaultOp s) := by
  unfold Machine.secFaultOp
  extract_lets +onlyGivenNames s1 s2
  have h1 : Canonical s1 := .mailFail (.event h)
  have h2 : Canonical s2 := by
    unfold s2
    split
    · exact h1
    · exact .loadAbort h1
  split
  next t e => exact .keep (.snd e (.takeFree h2))

theorem Canonical.secUp (h : Canonical s) : Canonical (secUp s) := by
  unfold Machine.secUp
  exact .ite (.foldl (.keep h) (fun h => .secCmdWrite (.keep h))) h

theorem Canonical.idleStep (h : Canonical s) : Canonical (idleStep s) := by
  unfold Machine.idleStep
  exact .ite (.secUp (.idleTick h)) (.idleTick h)

/-! ## The byte memories stay canonical: Errors -/

theorem Canonical.corrected {code unit inst addr info} (h : Canonical s) :
    Canonical (corrected s code unit inst addr info) := by
  unfold Machine.corrected
  exact .errWrite h

theorem Canonical.correctedOp {unit inst addr syndrome} (h : Canonical s) :
    Canonical (correctedOp s unit inst addr syndrome) := by
  unfold Machine.correctedOp
  exact .ite h (.ite (.corrected h) (.corrected h))

theorem Canonical.wgArrayOp {core wg} (h : Canonical s) : Canonical (wgArrayOp s core wg) := by
  unfold Machine.wgArrayOp
  split
  · exact h
  · exact .ite (.hwFault h) h

theorem Canonical.l1Op {core instruction addr} (h : Canonical s) : Canonical (l1Op s core instruction addr) := by
  unfold Machine.l1Op
  exact .corrected (.keep h)

theorem Canonical.poisonPb {off} (h : Canonical s) : Canonical (poisonPb s off) := by
  unfold Machine.poisonPb
  exact .ite h (.keep h)

theorem Canonical.memoryOp {addr ctx link} (h : Canonical s) : Canonical (memoryOp s addr ctx link) := by
  unfold Machine.memoryOp
  exact .ite (.ite h (.hwFault h)) (.hwFault (.poisonWord (.l2Fill h)))

theorem Canonical.tamperOp {addr cipher mac} (h : Canonical s) : Canonical (tamperOp s addr cipher mac) := by
  unfold Machine.tamperOp
  extract_lets +onlyGivenNames _
  split
  · exact h
  · extract_lets +onlyGivenNames s2
    have h2 : Canonical s2 := .wcFlush h
    obtain ⟨hp, hd, hs⟩ := h2
    exact .ite ⟨hp, hd, hs⟩ (.ite ⟨hp, hd, hs⟩ ⟨hp, mwrites_wf hd _ _, hs⟩)

theorem Canonical.pbRegen {page} (h : Canonical s) : Canonical (pbRegen s page) := by
  unfold Machine.pbRegen
  exact .corrected (.keep h)

theorem Canonical.pbUe {w apPage} (h : Canonical s) : Canonical (pbUe s w apPage) := by
  unfold Machine.pbUe
  refine .ite ?_ (.ite (.pbRegen h) ?_)
  · extract_lets +onlyGivenNames _ s2
    have h2 : Canonical s2 := by
      unfold s2
      split
      · exact .ite (.keep h) h
      · exact h
    exact .errWrite h2
  · split
    · exact h
    · exact .ctxError h

theorem Canonical.portBufferOp {off deviceRead} (h : Canonical s) : Canonical (portBufferOp s off deviceRead) := by
  unfold Machine.portBufferOp
  exact .ite (.pbUe (.poisonPb h)) (.poisonPb h)

theorem Canonical.tableOp {ctx unit addr} (h : Canonical s) : Canonical (tableOp s ctx unit addr) := by
  unfold Machine.tableOp
  exact .hwFault h

theorem Canonical.ctxTableOp {ctx} (h : Canonical s) : Canonical (ctxTableOp s ctx) := by
  unfold Machine.ctxTableOp
  split
  next t e => exact .tableOp (.snd e (.takeFree h))

theorem Canonical.errorDetectOp {e} (h : Canonical s) : Canonical (errorDetectOp s e) := by
  unfold Machine.errorDetectOp
  split
  · exact .correctedOp h
  · exact .wgArrayOp h
  · exact .wgArrayOp h
  · exact .l1Op h
  · exact .memoryOp h
  · exact .tamperOp h
  · exact .portBufferOp h
  · split
    · exact h
    · exact .tableOp h
  · split
    · exact h
    · exact .tableOp h
  · exact .ctxTableOp h
  · exact .ite (.corrected h) h
  · exact .feRestartOp h
  · exact .mgmtRestartOp h
  · exact .secFaultOp h
  · exact .fatalError (.keep h)
  · exact .fatalError (.keep h)
  · exact .fatalError h
  · exact .ctxError h

theorem Canonical.acceptWaiting {r i resv} (h : Canonical s) : Canonical (acceptWaiting s r i resv) := by
  unfold Machine.acceptWaiting
  extract_lets +onlyGivenNames _
  split
  · exact .ite (.modCtx (.keep h)) (.keep h)
  · exact .keep h

theorem Canonical.heldEnters (h : Canonical s) : Canonical (heldEnters s) := by
  unfold Machine.heldEnters
  split
  · exact h
  · refine .ite ?_ h
    split
    · exact .keep h
    · exact .keep h

theorem Canonical.withLog {l} (h : Canonical s) : Canonical { s with log := l } := .keep h

theorem Canonical.waitingEnters (h : Canonical s) : Canonical (waitingEnters s) := by
  unfold Machine.waitingEnters
  split
  · exact h
  · split
    · exact h
    · exact .heldEnters (.acceptWaiting (.withLog h))

theorem Canonical.logDrainOp (h : Canonical s) : Canonical (logDrainOp s) := by
  unfold Machine.logDrainOp
  refine .ite h ?_
  split
  · exact h
  · refine .ite (.keep h) ?_
    extract_lets +onlyGivenNames _ s1
    have h1 : Canonical s1 := .pbStore h
    exact .waitingEnters (.withLog h1)

theorem Canonical.ringCfgWrite {val mask} (h : Canonical s) : Canonical (ringCfgWrite s val mask) := by
  unfold Machine.ringCfgWrite
  exact .ite h (.keep h)

theorem Canonical.ringCheck (h : Canonical s) : Canonical (ringCheck s) := by
  unfold Machine.ringCheck
  exact .ite (.keep h) h

theorem Canonical.injectWrite {val mask} (h : Canonical s) : Canonical (injectWrite s val mask) := by
  unfold Machine.injectWrite
  exact .ite h (.keep h)

theorem Canonical.injectedOp {addr} (h : Canonical s) : Canonical (injectedOp s addr) := by
  unfold Machine.injectedOp
  refine .ite h (.ite (.keep h) ?_)
  split
  · exact .poisonWord (.keep h)
  · exact .poisonWord (.l2Fill (.keep h))
  · exact .poisonPb (.keep h)
  · exact .keep h

/-! ## The byte memories stay canonical: Power -/

theorem Canonical.retainTake (h : Canonical s) : Canonical (retainTake s) := by
  unfold Machine.retainTake
  exact .ite (.ite (.keep h) (.keep h)) h

theorem Canonical.retainOp (h : Canonical s) : Canonical (retainOp s) := by
  unfold Machine.retainOp
  exact .ite (.retainTake (.keep h)) h

theorem Canonical.wakeDevOp (h : Canonical s) : Canonical (wakeDevOp s) := by
  unfold Machine.wakeDevOp
  exact .ite (.mgmtWake h) (.keep h)

theorem Canonical.retainExitOp (h : Canonical s) : Canonical (retainExitOp s) := by
  unfold Machine.retainExitOp
  exact .ite (.foldl (.keep h) (fun h => .ite (.fnSet (.keep h)) h)) h

theorem Canonical.mgmtDoneAll (h : Canonical s) : Canonical (mgmtDoneAll s) := by
  unfold Machine.mgmtDoneAll
  refine .ite h ?_
  extract_lets +onlyGivenNames _ s1 _ s2
  have h1 : Canonical s1 := .mgmtDoneOp (.keep h)
  have h2 : Canonical s2 := by
    unfold s2
    split
    · exact .keep h1
    · exact h1
  exact .retainTake (.foldl h2 (fun h => .ctxZeroedOp h))

theorem Canonical.limitWrite {v} (h : Canonical s) : Canonical (limitWrite s v) := by
  unfold Machine.limitWrite
  exact .ite h (.ite (.keep h) (.keep h))

theorem Canonical.sampleOp {l} (h : Canonical s) : Canonical (sampleOp s l) := by
  unfold Machine.sampleOp
  exact .ite h (.keep h)

theorem Canonical.loopRaise {cause} (h : Canonical s) : Canonical (loopRaise s cause) := by
  unfold Machine.loopRaise
  split
  · exact h
  · exact .applySteps h

theorem Canonical.loopRelax {cause} (h : Canonical s) : Canonical (loopRelax s cause) := by
  unfold Machine.loopRelax
  split
  · exact h
  · exact .applySteps h

theorem Canonical.loopOp (h : Canonical s) : Canonical (loopOp s) := by
  unfold Machine.loopOp
  extract_lets +onlyGivenNames _ _
  split
  exact .ite h (.ite (.loopRaise h) (.ite (.loopRelax h) h))

theorem Canonical.thermalOp {sensor x} (h : Canonical s) : Canonical (thermalOp s sensor x) := by
  unfold Machine.thermalOp
  exact .ite (.applySteps h) h

theorem Canonical.coolOp {sensor x} (h : Canonical s) : Canonical (coolOp s sensor x) := by
  unfold Machine.coolOp
  exact .ite h (.ite (.keep h) (.applySteps h))

theorem Canonical.tripWarnOp {x} (h : Canonical s) : Canonical (tripWarnOp s x) := by
  unfold Machine.tripWarnOp
  exact .ite (.keep h) h

theorem Canonical.thermtripOp {x} (h : Canonical s) : Canonical (thermtripOp s x) := by
  unfold Machine.thermtripOp
  exact .ite (.keep h) h

theorem Canonical.currentOp (h : Canonical s) : Canonical (currentOp s) := by
  unfold Machine.currentOp
  exact .applySteps (.keep h)

theorem Canonical.currentOffOp (h : Canonical s) : Canonical (currentOffOp s) := by
  unfold Machine.currentOffOp
  exact .applySteps (.keep h)

theorem Canonical.voltageOp (h : Canonical s) : Canonical (voltageOp s) := by
  unfold Machine.voltageOp
  split
  · exact h
  · exact .applySteps h

theorem Canonical.busFailOp (h : Canonical s) : Canonical (busFailOp s) := by
  unfold Machine.busFailOp
  exact .applySteps h

theorem Canonical.correlateOp (h : Canonical s) : Canonical (correlateOp s) := by
  unfold Machine.correlateOp
  exact .ite h (.keep h)

/-! ## The byte memories stay canonical: Registers -/

theorem Canonical.modCh {n f} (h : Canonical s) : Canonical (modCh s n f) := .keep h

theorem Canonical.captureOp {view off} (h : Canonical s) : Canonical (captureOp s view off) := by
  unfold Machine.captureOp
  refine .ite h ?_
  split
  · exact .keep h
  · exact .ite (.keep h) h

theorem Canonical.mgmtStateWrite {v} (h : Canonical s) : Canonical (mgmtStateWrite s v) := by
  unfold Machine.mgmtStateWrite
  exact .ite (.wakeDevOp h) (.ite (.retainOp h) h)

theorem Canonical.maskWrite {k val mask} (h : Canonical s) : Canonical (maskWrite s k val mask) := .keep h

theorem Canonical.pfWrite {p val mask} (h : Canonical s) : Canonical (pfWrite s p val mask) := .keep h

theorem Canonical.globalWrite {off val mask} (h : Canonical s) : Canonical (globalWrite s off val mask) := by
  unfold Machine.globalWrite
  extract_lets +onlyGivenNames _ _ _
  split
  · exact .keep h
  · exact .maskWrite h
  · exact .maskWrite h
  · exact .maskWrite h
  · exact .maskWrite h
  · exact .mgmtStateWrite h
  · exact .ite h (.limitWrite h)
  · exact .ite (.keep h) h
  · exact .ringCfgWrite h
  · exact .keep h
  · exact .injectWrite h
  · split
    · exact .ite h (.fnHostSet h)
    · exact .pfWrite h
    · exact .dcPipeWrite h
    · exact .globalCmd h

theorem Canonical.regEffect {view off val mask} (h : Canonical s) : Canonical (regEffect s view off val mask) := by
  unfold Machine.regEffect
  split
  · exact .globalWrite h
  · exact .viewCmd h

theorem Canonical.regWrite {view off val mask} (h : Canonical s) : Canonical (regWrite s view off val mask) := by
  unfold Machine.regWrite
  split
  · exact h
  · exact .ite (.regEffect h) (.keep h)

theorem Canonical.heldApply {view off} (h : Canonical s) : Canonical (heldApply s view off) := by
  unfold Machine.heldApply
  split
  · exact .ite (.regEffect (.keep h)) h
  · exact h

/-! ## The byte memories stay canonical: Windows -/

theorem Canonical.stageEntry {off data masked i} (h : Canonical s) : Canonical (stageEntry off data masked s i) := by
  unfold Machine.stageEntry
  exact .ite (.keep h) h

theorem Canonical.tableWriteOp {off data masked} (h : Canonical s) : Canonical (tableWriteOp s off data masked) := by
  unfold Machine.tableWriteOp
  exact .ite h (.foldl h (fun h => .stageEntry h))

theorem Canonical.wtReject {code} (h : Canonical s) : Canonical (wtReject s code) := .keep h

theorem Canonical.invalidationOp {gen n} (h : Canonical s) : Canonical (invalidationOp s gen n) := by
  unfold Machine.invalidationOp
  exact .ite h (.ite (.wtReject (.keep h)) (.ite (.wtReject (.keep h)) (.ite (.wtReject (.keep h)) (.ite (.wtReject
      (.keep h)) (.keep h)))))

theorem Canonical.commitEnd {c} (h : Canonical s) : Canonical (commitEnd s c) := by
  unfold Machine.commitEnd
  extract_lets +onlyGivenNames s1
  have h1 : Canonical s1 := .pbZeroPages h
  exact .ringCheck (.keep h1)

theorem Canonical.wtCommitEndOp (h : Canonical s) : Canonical (wtCommitEndOp s) := by
  unfold Machine.wtCommitEndOp
  split
  · exact h
  · extract_lets +onlyGivenNames s1
    have h1 : Canonical s1 := .commitEnd h
    split
    · exact h1
    · exact .tdStep4 (.keep h1)

theorem Canonical.snapshotSwapOp {p} (h : Canonical s) : Canonical (snapshotSwapOp s p) := by
  unfold Machine.snapshotSwapOp
  refine .ite ?_ h
  extract_lets +onlyGivenNames _ _ _ s1
  have h1 : Canonical s1 := .pbStore h
  exact .keep h1

theorem Canonical.latchSet {q data mask} (h : Canonical s) : Canonical (latchSet s q data mask) := by
  unfold Machine.latchSet
  exact .modQueue (.keep h)

theorem Canonical.doorbellOp {page wctx q data mask} (h : Canonical s) :
    Canonical (doorbellOp s page wctx q data mask) := by
  unfold Machine.doorbellOp
  exact .ite (.dbDrop h) (.ite h (.ite (.dbDrop h) (.mgmtWake (.latchSet h))))

theorem Canonical.fenceWriteOp {page wctx f data mask} (h : Canonical s) :
    Canonical (fenceWriteOp s page wctx f data mask) := by
  unfold Machine.fenceWriteOp
  exact .ite (.keep h) (.dbDrop h)

/-! ## The byte memories stay canonical: HostPort -/

theorem Canonical.hpLink (h : Canonical s) : Canonical (hpLink s) := .keep h

theorem Canonical.protoErr {n} (h : Canonical s) : Canonical (protoErr s n) := .keep h

theorem Canonical.chTrains {n} (h : Canonical s) : Canonical (chTrains s n) := .keep h

theorem Canonical.rlArm {n} (h : Canonical s) : Canonical (rlArm s n) := by
  unfold Machine.rlArm
  exact .ite h (.keep h)

theorem Canonical.pbHostStore {off data masked} (h : Canonical s) : Canonical (pbHostStore s off data masked) := by
  obtain ⟨hp, hd, hs⟩ := h
  exact ⟨mwritesMasked_wf hp _ _ _, hd, hs⟩

theorem Canonical.slotWrite {view at_ data masked k} (h : Canonical s) :
    Canonical (slotWrite view at_ data masked s k) := by
  unfold Machine.slotWrite
  exact .ite h (.regWrite h)

theorem Canonical.dbUnit {e page at_ data masked k} (h : Canonical s) :
    Canonical (dbUnit e page at_ data masked s k) := by
  unfold Machine.dbUnit
  exact .ite h (.doorbellOp h)

theorem Canonical.fenceUnit {e page at_ data masked k} (h : Canonical s) :
    Canonical (fenceUnit e page at_ data masked s k) := by
  unfold Machine.fenceUnit
  exact .ite h (.fenceWriteOp h)

theorem Canonical.invalUnit {data masked} (h : Canonical s) : Canonical (invalUnit s data masked) := by
  unfold Machine.invalUnit
  exact .ite h (.invalidationOp h)

theorem Canonical.bootDbWrite {data masked} (h : Canonical s) : Canonical (bootDbWrite s data masked) := by
  unfold Machine.bootDbWrite
  exact .ite h (.keep h)

theorem Canonical.entryWrite {n page off e data masked} (h : Canonical s) :
    Canonical (entryWrite s n page off e data masked) := by
  unfold Machine.entryWrite
  extract_lets +onlyGivenNames _
  split
  · exact .pbHostStore h
  · exact .foldl h (fun h => .dbUnit h)
  · exact .foldl h (fun h => .slotWrite h)
  · exact .foldl h (fun h => .fenceUnit h)
  · exact .keep h

theorem Canonical.hostWrite {n off data masked} (h : Canonical s) : Canonical (hostWrite s n off data masked) := by
  unfold Machine.hostWrite
  extract_lets +onlyGivenNames _
  split
  · exact .keep h
  · exact .keep h
  · exact .ite (.invalUnit h) h
  · exact .tableWriteOp h
  · exact .foldl h (fun h => .slotWrite h)
  · exact .ite (.bootDbWrite h) h
  · exact .pbHostStore h
  · exact .entryWrite h

theorem Canonical.pbHostRead {off n apPage} (h : Canonical s) : Canonical (pbHostRead s off n apPage).2 := by
  unfold Machine.pbHostRead
  split
  · exact h
  · exact .pbUe (.keep h)

theorem Canonical.pbShown {off n apPage d} (h : Canonical s) : Canonical (pbShown s off n apPage d).2 := by
  unfold Machine.pbShown
  split
  · exact h
  · exact .pbHostRead h

theorem Canonical.entryRead {page off len e} (h : Canonical s) : Canonical (entryRead s page off len e).2 := by
  unfold Machine.entryRead
  refine .iteSnd h ?_
  split
  · exact .pbShown h
  · exact .pbShown h
  · exact .pbShown h
  · exact .pbHostRead h

theorem Canonical.hostRead {n off len} (h : Canonical s) : Canonical (hostRead s n off len).2 := by
  unfold Machine.hostRead
  extract_lets +onlyGivenNames _ _
  split
  · exact .keep h
  · exact .pbHostRead h
  · exact h
  · exact h
  · exact .pbShown h
  · exact .pbShown h
  · exact .pbHostRead h
  · exact .entryRead h

theorem Canonical.actOp {n bank row} (h : Canonical s) : Canonical (actOp s n bank row) := by
  unfold Machine.actOp
  exact .ite (.modCh (.ite (.keep h) h)) h

theorem Canonical.chAnswer {n a} (h : Canonical s) : Canonical (chAnswer s n a) := .keep h

theorem Canonical.rdData {n off len} (h : Canonical s) : Canonical (rdData s n off len).2 := by
  unfold Machine.rdData
  exact .iteSnd (.ite h (.keep h)) (.iteSnd (.hostRead h) h)

theorem Canonical.rdOp {n bank col bl32} (h : Canonical s) : Canonical (rdOp s n bank col bl32) := by
  unfold Machine.rdOp
  refine .ite ?_ (.ite (.keep h) h)
  extract_lets +onlyGivenNames _ _
  split
  · exact .chAnswer (.ite (.protoErr (.keep h)) (.keep h))
  · split
    next t e => exact .chAnswer (.snd e (.rdData (.keep h)))

theorem Canonical.weccDrop {n page} (h : Canonical s) : Canonical (weccDrop s n page) := by
  unfold Machine.weccDrop
  exact .hpLink (.event (.keep h))

theorem Canonical.wrOp {n bank col ecc data masked} (h : Canonical s) :
    Canonical (wrOp s n bank col ecc data masked) := by
  unfold Machine.wrOp
  refine .ite (.ite (.keep h) ?_) h
  split
  · exact .protoErr (.keep h)
  · exact .ite (.keep h) (.ite (.weccDrop (.keep h)) (.hostWrite (.ite (.modCh (.keep h)) (.keep h))))

theorem Canonical.preOp {n bank} (h : Canonical s) : Canonical (preOp s n bank) := by
  unfold Machine.preOp
  exact .ite (.keep h) h

theorem Canonical.refOp {n} (h : Canonical s) : Canonical (refOp s n) := by
  unfold Machine.refOp
  exact .ite (.keep h) h

theorem Canonical.mrwOp {n mr raw f} (h : Canonical s) : Canonical (mrwOp s n mr raw f) := by
  unfold Machine.mrwOp
  exact .ite (.rlArm (.ite (.chTrains (.keep h)) (.keep h))) h

theorem Canonical.mrrOp {n mr} (h : Canonical s) : Canonical (mrrOp s n mr) := by
  unfold Machine.mrrOp
  exact .ite (.keep h) h

theorem Canonical.chMove {n f} (h : Canonical s) : Canonical (chMove s n f) := by
  unfold Machine.chMove
  exact .ite (.keep h) h

theorem Canonical.cbtEnd {n ok} (h : Canonical s) : Canonical (cbtEnd s n ok) := by
  unfold Machine.cbtEnd
  exact .ite h (.ite (.keep h) (.keep h))

theorem Canonical.mpcOp {n op} (h : Canonical s) : Canonical (mpcOp s n op) := by
  unfold Machine.mpcOp
  refine .ite ?_ h
  extract_lets +onlyGivenNames _
  split
  · exact .modCh (.keep h)
  · exact .modCh (.keep h)
  · exact .modCh (.keep h)
  · exact .cbtEnd (.keep h)
  · exact .keep h
  · exact .modCh (.keep h)
  · exact .modCh (.keep h)
  · exact .keep h
  · exact .chAnswer (.keep h)

theorem Canonical.wffOp {n data} (h : Canonical s) : Canonical (wffOp s n data) := by
  unfold Machine.wffOp
  exact .ite (.keep h) h

theorem Canonical.rffOp {n} (h : Canonical s) : Canonical (rffOp s n) := by
  unfold Machine.rffOp
  refine .ite ?_ h
  extract_lets +onlyGivenNames _
  split
  · exact .chAnswer (.modCh (.keep h))
  · split
    next t e => exact .chAnswer (.snd e (.freeBytes (.keep h)))

theorem Canonical.rdcOp {n} (h : Canonical s) : Canonical (rdcOp s n) := by
  unfold Machine.rdcOp
  exact .ite (.keep h) h

theorem Canonical.rateErrOp {n} (h : Canonical s) : Canonical (rateErrOp s n) := by
  unfold Machine.rateErrOp
  exact .ite (.keep h) h

theorem Canonical.noClockOp {n} (h : Canonical s) : Canonical (noClockOp s n) := by
  unfold Machine.noClockOp
  exact .ite (.keep h) h

/-! ## The byte memories stay canonical: Boot -/

theorem Canonical.pulseActs {refclks} (h : Canonical s) : Canonical (pulseActs s refclks).2 := by
  unfold Machine.pulseActs
  refine .iteSnd h (.iteSnd h ?_)
  split
  next t e => exact .snd e (.takeFree h)

theorem Canonical.powerOn {p} : Canonical (powerOn s p) := by
  unfold Machine.powerOn
  exact .keep .reset

theorem Canonical.porstLowOp {refclks} (h : Canonical s) : Canonical (porstLowOp s refclks) := by
  unfold Machine.porstLowOp
  split
  next t e => exact .ite .powerOn (.snd e (.pulseActs h))

theorem Canonical.porstHighOp {fuseOk} (h : Canonical s) : Canonical (porstHighOp s fuseOk) := by
  unfold Machine.porstHighOp
  exact .ite h .powerOn

theorem Canonical.internalResetOp (h : Canonical s) : Canonical (internalResetOp s) := by
  unfold Machine.internalResetOp
  exact .ite .powerOn h

theorem Canonical.take256 (h : Canonical s) : Canonical (take256 s).2 := by
  unfold Machine.take256
  split
  next t e =>
    split
    next t1 e1 =>
      have ht1 : Canonical t1 := .snd e1 (.takeFree (.snd e (.takeFree h)))
      split
      next t2 e2 =>
        split
        next t3 e3 =>
          have ht3 : Canonical t3 := .snd e3 (.takeFree (.snd e2 (.takeFree ht1)))
          exact ht3

theorem Canonical.drawKeys (h : Canonical s) : Canonical (drawKeys s) := by
  unfold Machine.drawKeys
  refine .foldl h (fun h => ?_)
  split
  next t e =>
    split
    next t1 e1 =>
      have ht1 : Canonical t1 := .snd e1 (.take256 (.snd e (.take256 h)))
      split
      next t2 e2 => exact .keep (.snd e2 (.take256 ht1))

theorem Canonical.zeroStart (h : Canonical s) : Canonical (zeroStart s) := by
  unfold Machine.zeroStart
  exact .ite (.drawKeys (.keep h)) (.keep h)

theorem Canonical.afterHrst {portChanges} : Canonical (afterHrst s portChanges) := by
  unfold Machine.afterHrst
  exact .keep .reset

theorem Canonical.hrstOp {refclks portChanges} (h : Canonical s) : Canonical (hrstOp s refclks portChanges) := by
  unfold Machine.hrstOp
  split
  next t e =>
    refine .ite (.snd e (.pulseActs h)) ?_
    extract_lets +onlyGivenNames _ s1
    have h1 : Canonical s1 := .keep (.snd e (.pulseActs h))
    refine .ite h1 ?_
    extract_lets +onlyGivenNames s3
    have h3 : Canonical s3 := .afterHrst
    exact .ite h3 (.zeroStart h3)

theorem Canonical.hprstOp {half} (h : Canonical s) : Canonical (hprstOp s half) := by
  unfold Machine.hprstOp
  exact .foldl h (fun h => .keep h)

theorem Canonical.configReadOp {a b} (h : Canonical s) : Canonical (configReadOp s a b) := by
  unfold Machine.configReadOp
  refine .ite ?_ h
  split
  exact .ite (.keep h) (.zeroStart (.keep h))

theorem Canonical.bootPagesZero (h : Canonical s) : Canonical (bootPagesZero s) := by
  obtain ⟨hp, hd, hs⟩ := h
  exact ⟨filter_wf hp _, hd, hs⟩

theorem Canonical.autoStart {p} (h : Canonical s) : Canonical (autoStart s p) := by
  unfold Machine.autoStart
  exact .ite (.foldl (.foldl (.fnSet h) (fun h => .fnSet h)) (fun h => .fnSet h)) h

theorem Canonical.linksStart (h : Canonical s) : Canonical (linksStart s) := by
  unfold Machine.linksStart
  exact .foldl h (fun h => .keep h)

theorem Canonical.readyOp (h : Canonical s) : Canonical (readyOp s) := by
  unfold Machine.readyOp
  extract_lets +onlyGivenNames s1
  have h1 : Canonical s1 := .bootPagesZero h
  exact .foldl (.linksStart (.applySteps (.keep h1))) (fun h => .autoStart h)

theorem Canonical.readyCheck (h : Canonical s) : Canonical (readyCheck s) := by
  unfold Machine.readyCheck
  exact .ite (.readyOp h) h

theorem Canonical.pbZeroedOp (h : Canonical s) : Canonical (pbZeroedOp s) := by
  unfold Machine.pbZeroedOp
  have ⟨_, hd, _⟩ := h
  exact .ite (.readyCheck ⟨rfl, hd, rfl⟩) h

theorem Canonical.trainingDoneOp {failed} (h : Canonical s) : Canonical (trainingDoneOp s failed) := by
  unfold Machine.trainingDoneOp
  exact .ite h (.ite (.keep h) (.readyCheck (.drawKeys (.keep h))))

theorem Canonical.zeroingDoneOp (h : Canonical s) : Canonical (zeroingDoneOp s) := by
  unfold Machine.zeroingDoneOp
  have ⟨hp, _, hs⟩ := h
  exact .ite (.readyCheck ⟨hp, rfl, hs⟩) h

theorem Canonical.bootDoorbellOp (h : Canonical s) : Canonical (bootDoorbellOp s) := by
  unfold Machine.bootDoorbellOp
  exact .ite h (.ite (.keep h) (.ite (.keep h) (.keep h)))

theorem Canonical.stageCopiedOp (h : Canonical s) : Canonical (stageCopiedOp s) := by
  unfold Machine.stageCopiedOp
  split
  · exact h
  · refine .ite h ?_
    extract_lets +onlyGivenNames _ _ s1
    have h1 : Canonical s1 := .foldl h (fun h => .pbUe h)
    split
    · exact h1
    · exact .keep h1

theorem Canonical.stageVerifiedOp (h : Canonical s) : Canonical (stageVerifiedOp s) := by
  unfold Machine.stageVerifiedOp
  split
  · exact h
  · exact .ite h (.ite (.keep h) (.readyCheck (.keep h)))

/-! ## The byte memories stay canonical: Step -/

/-- The outcome of a command: a next state, where it is one, has its byte memories canonical. -/
def NextCanonical (o : Host.Outcome State Fault Refusal) : Prop := ∀ t, o = .next t → Canonical t

theorem Canonical.next (h : Canonical t) : NextCanonical (.next t) := by
  rintro _ ⟨⟩
  exact h

theorem Canonical.onLive (h : Canonical s) (ht : Canonical t) : NextCanonical (onLive s t) :=
  .next (.ite ht h)

theorem Canonical.tapOp {i} (h : Canonical s) : Canonical (tapOp s i) := .keep h

theorem Canonical.flagOp {f i} (h : Canonical s) : Canonical (flagOp f s i) := .advance (.modSplit h)

theorem Canonical.exec (h : Canonical s) (c : Instr) : NextCanonical (exec c s) := by
  cases c with
  | porstNRelease _ => exact .next (.porstHighOp h)
  | porstNAssert _ => exact .next (.porstLowOp h)
  | hrstNPulse _ => exact .onLive h (.hrstOp h)
  | internalReset _ => exact .next (.internalResetOp h)
  | hprstNAssert _ => exact .onLive h (.hprstOp h)
  | configRead _ _ => exact .onLive h (.configReadOp h)
  | bootDoorbell => exact .onLive h (.bootDoorbellOp h)
  | stageCopied => exact .onLive h (.stageCopiedOp h)
  | stageVerified => exact .onLive h (.stageVerifiedOp h)
  | dramTrainingDone _ => exact .onLive h (.trainingDoneOp h)
  | dramZeroingDone => exact .onLive h (.zeroingDoneOp h)
  | act _ _ _ => exact .onLive h (.actOp h)
  | rd _ _ _ _ => exact .onLive h (.rdOp h)
  | wr _ _ _ _ _ _ => exact .onLive h (.wrOp h)
  | mwr _ _ _ _ _ _ _ => exact .onLive h (.wrOp h)
  | pre _ _ => exact .onLive h (.preOp h)
  | ref _ _ => exact .onLive h (.refOp h)
  | mrw _ _ _ _ => exact .onLive h (.mrwOp h)
  | mrr _ _ => exact .onLive h (.mrrOp h)
  | sre _ => exact .onLive h (.chMove h)
  | srx _ => exact .onLive h (.chMove h)
  | pde _ => exact .onLive h (.chMove h)
  | pdx _ => exact .onLive h (.chMove h)
  | deepSleepEntry _ => exact .onLive h (.chMove h)
  | deepSleepExit _ => exact .onLive h (.chMove h)
  | cas _ _ => exact .onLive h (.ite (.modCh h) h)
  | mpc _ _ => exact .onLive h (.mpcOp h)
  | wff _ _ => exact .onLive h (.wffOp h)
  | rff _ => exact .onLive h (.rffOp h)
  | rdc _ => exact .onLive h (.rdcOp h)
  | nop _ _ => exact .next h
  | rateErr _ => exact .onLive h (.rateErrOp h)
  | noClock _ => exact .onLive h (.noClockOp h)
  | tableWrite _ _ _ => exact .onLive h (.tableWriteOp h)
  | invalidationWrite _ _ => exact .onLive h (.invalidationOp h)
  | wtCommitEnd => exact .onLive h (.wtCommitEndOp h)
  | snapshotSwap _ => exact .onLive h (.snapshotSwapOp h)
  | shadowCapture _ _ => exact .onLive h (.captureOp h)
  | registerWrite _ _ _ _ => exact .onLive h (.ite (.regWrite h) h)
  | heldWriteApply _ _ => exact .onLive h (.heldApply h)
  | doorbell _ _ _ _ _ => exact .onLive h (.ite (.doorbellOp h) h)
  | fenceWrite _ _ _ _ _ => exact .onLive h (.ite (.fenceWriteOp h) h)
  | queueBind _ => exact .onLive h (.queueBindOp h)
  | slotSample _ => exact .onLive h (.slotSampleOp h)
  | slotFetch _ => exact .onLive h (.slotFetchOp h)
  | drainPassEnd _ => exact .onLive h (.drainEndOp h)
  | commandStart _ => exact .onLive h (.commandStartOp h)
  | waitTimeout _ => exact .onLive h (.waitTimeoutOp h)
  | ctxCreate _ _ _ => exact .onLive h (.ctxCmdWrite h)
  | ctxTeardown _ _ => exact .onLive h (.ctxCmdWrite h)
  | teardownStepEnd _ => exact .onLive h (.teardownStepOp h)
  | ctxZeroingDone _ => exact .onLive h (.ctxZeroedOp h)
  | ctxBatch _ _ _ _ => exact .onLive h (.ctxCmdWrite h)
  | objZeroingDone _ => exact .onLive h (.objZeroedOp h)
  | qCreate _ _ _ _ => exact .onLive h (.feCmdWrite h)
  | qDestroy _ _ _ => exact .onLive h (.feCmdWrite h)
  | launchGraph _ => exact .onLive h (.launchOp h)
  | registerGraph _ => exact .onLive h (.registerOp h)
  | destroyGraph _ => exact .onLive h (.destroyOp h)
  | armGraph _ => exact .onLive h (.armOp h)
  | disarmGraph _ => exact .onLive h (.disarmOp h)
  | nopCommand _ => exact .onLive h (.nopOp h)
  | triggeredLaunch _ _ => exact .onLive h (.triggeredOp h)
  | instanceStart _ => exact .onLive h (.instStartOp h)
  | waitNodeTimeout _ _ => exact .onLive h (.waitNodeTimeoutOp h)
  | nodeStart _ _ => exact .onLive h (.nodeStartOp h)
  | nodeComplete _ _ => exact .onLive h (.nodeCompleteOp h)
  | preemption _ _ _ _ => exact .onLive h (.preemptOp h)
  | stateSaveDone _ => exact .onLive h (.saveOp h)
  | restore _ _ => exact .onLive h (.restoreOp h)
  | workgroupPlace _ _ _ _ ras =>
    cases ras with
    | none => exact .onLive h (.placeKernel h)
    | some _ => exact .onLive h (.rasPlace h)
  | monAdd _ _ => exact .onLive h (.gmCmdWrite h)
  | monRemove _ _ => exact .onLive h (.gmCmdWrite h)
  | galeCheck _ => exact .onLive h (.galeCheckOp h)
  | join _ _ => exact .onLive h (.sqCmdWrite h)
  | leave _ _ => exact .onLive h (.sqCmdWrite h)
  | pause _ _ => exact .onLive h (.sqCmdWrite h)
  | resume _ _ => exact .onLive h (.sqCmdWrite h)
  | setPrio _ _ _ => exact .onLive h (.sqCmdWrite h)
  | build _ _ => exact .onLive h (.buildOp h)
  | retire _ _ => exact .onLive h (.retireOp h)
  | bra _ _ => exact .onLive h (.onIssue h fun h => .braOp h)
  | exit _ _ => exact .onLive h (.onIssue h fun h => .exitOp h)
  | split _ _ => exact .onLive h (.onIssue h fun h => .splitOp h)
  | rejoin _ _ => exact .onLive h (.onIssue h fun h => .advance h)
  | yield _ _ => exact .onLive h (.onIssue h fun h => .flagOp h)
  | pin _ _ => exact .onLive h (.onIssue h fun h => .flagOp h)
  | unpin _ _ => exact .onLive h (.onIssue h fun h => .flagOp h)
  | splitPromote _ _ _ => exact .onLive h (.promoteOp h)
  | alu _ _ _ _ => exact .onLive h (.onIssue h fun h => .aluOpIssue h)
  | cvt _ _ => exact .onLive h (.onIssue h fun h => .cvtIssue h)
  | load _ _ _ => exact .onLive h (.onIssue h fun h => .loadOp h)
  | loadComplete _ => exact .onLive h (.loadDoneOp h)
  | store _ _ => exact .onLive h (.onIssue h fun h => .storeOp h)
  | atomic _ _ _ _ => exact .onLive h (.onIssue h fun h => .atomOp h)
  | mma _ _ => exact .onLive h (.onIssue h fun h => .mmaOp h)
  | mmaComplete _ _ => exact .onLive h (.mmaDoneOp h)
  | msync _ _ => exact .onLive h (.onIssue h fun h => .msyncOp h)
  | amov _ _ => exact .onLive h (.onIssue h fun h => .amovOp h)
  | keptCopyLanded _ => exact .onLive h (.landOp h)
  | watch _ _ => exact .onLive h (.onIssue h fun h => .watchOp h)
  | sig _ _ => exact .onLive h (.onIssue h fun h => .sigOp h)
  | bar _ _ => exact .onLive h (.onIssue h fun h => .barOp h)
  | wakeArrive _ => exact .onLive h (.wakeOp h)
  | alloc _ _ => exact .onLive h (.onIssue h fun h => .allocOp h)
  | allocServed => exact .onLive h (.allocServedOp h)
  | free _ _ => exact .onLive h (.onIssue h fun h => .freeOp h)
  | acopy _ _ => exact .onLive h (.onIssue h fun h => .acopyIssue h)
  | copyLanded _ _ => exact .onLive h (.landOp h)
  | commit _ _ => exact .onLive h (.onIssue h fun h => .commitOp h)
  | commitWriteEnd _ => exact .onLive h (.commitEndOp h)
  | sv _ _ => exact .onLive h (.onIssue h fun h => .svOp h)
  | hubAlloc _ _ _ _ _ _ => exact .onLive h (.luCmdWrite h)
  | hubFree _ _ _ _ => exact .onLive h (.luCmdWrite h)
  | snapshot _ _ _ _ _ => exact .onLive h (.luCmdWrite h)
  | hubReset _ _ _ _ => exact .onLive h (.luCmdWrite h)
  | clean _ _ _ _ => exact .onLive h (.memCmdWrite h)
  | inval _ _ _ _ => exact .onLive h (.memCmdWrite h)
  | cleanInval _ _ _ _ => exact .onLive h (.memCmdWrite h)
  | maintenanceDone => exact .onLive h (.maintDoneOp h)
  | patrolScrub _ _ _ => exact .onLive h (.scrubOp h)
  | drawNodeStart _ _ => exact .onLive h (.drawStartOp h)
  | binBatch _ _ _ => exact .onLive h (.binBatchOp h)
  | growWaitExpire _ => exact .onLive h (.growExpireOp h)
  | flushEnd _ => exact .onLive h (.flushEndOp h)
  | tileAssign _ _ => exact .onLive h (.tileAssignOp h)
  | tileResolve _ _ => exact .onLive h (.tileResolveOp h)
  | grant _ _ _ => exact .onLive h (.binCmdWrite h)
  | withdraw _ _ _ => exact .onLive h (.binCmdWrite h)
  | tex _ _ => exact .onLive h (.onIssue h fun h => .texOp h)
  | tload _ _ => exact .onLive h (.onIssue h fun h => .texOp h)
  | vout _ _ => exact .onLive h (.onIssue h fun h => .voutOp h)
  | vin _ _ => exact .onLive h (.onIssue h fun h => .vinOp h)
  | fout _ _ => exact .onLive h (.onIssue h fun h => .foutOp h)
  | kill _ _ => exact .onLive h (.onIssue h fun h => .killOp h)
  | aread _ _ => exact .onLive h (.onIssue h fun h => .areadOp h)
  | oenter _ _ => exact .onLive h (.onIssue h fun h => .oenterOp h)
  | oexit _ _ => exact .onLive h (.onIssue h fun h => .oexitOp h)
  | rsv _ _ _ => exact .onLive h (.onIssue h fun h => .rsvOp h)
  | trace _ _ => exact .onLive h (.onIssue h fun h => .traceOp h)
  | bucketRelease _ _ => exact .onLive h (.bucketOp h)
  | callbackRound _ _ _ _ => exact .onLive h (.callbackOp h)
  | hitret _ _ => exact .onLive h (.onIssue h fun h => .hitretOp h)
  | traceComplete _ _ _ _ => exact .onLive h (.traceDoneOp h)
  | dcPipeWrite _ _ _ => exact .onLive h (.dcPipeWrite h)
  | config _ _ _ _ => exact .onLive h (.dcCmdWrite h)
  | flip _ _ _ _ => exact .onLive h (.dcCmdWrite h)
  | lut _ _ _ _ => exact .onLive h (.dcCmdWrite h)
  | sideband _ _ _ _ _ => exact .onLive h (.dcCmdWrite h)
  | linkTrained _ _ _ => exact .onLive h (.linkTrainedOp h)
  | leadPoint _ => exact .onLive h (.leadPointOp h)
  | vblank _ => exact .onLive h (.vblankOp h)
  | underrun _ => exact .onLive h (.underrunOp h)
  | writeBackDone _ _ _ => exact .onLive h (.writeBackOp h)
  | hpd _ _ => exact .onLive h (.hpdOp h)
  | capStart _ _ _ _ => exact .onLive h (.capCmdWrite h)
  | capStop _ _ _ => exact .onLive h (.capCmdWrite h)
  | frameStart _ _ => exact .onLive h (.frameStartOp h)
  | linePacket _ _ => exact .onLive h (.linePacketOp h)
  | frameEnd _ _ => exact .onLive h (.frameEndOp h)
  | audStart _ _ _ => exact .onLive h (.audCmdWrite h)
  | audStop _ _ => exact .onLive h (.audCmdWrite h)
  | audioFrame _ => exact .onLive h (.audioFrameOp h)
  | outputPeriodStart => exact .onLive h (.audExamine h)
  | compressNodeReady _ _ => exact .onLive h (.cmpReadyOp h)
  | compressStart _ => exact .onLive h (.cmpStartOp h)
  | compressEnd _ _ => exact .onLive h (.cmpEndOp h)
  | attest _ _ _ _ => exact .onLive h (.secCmdSupply h)
  | getId _ _ _ => exact .onLive h (.secCmdSupply h)
  | setLoad _ _ _ => exact .onLive h (.secCmdSupply h)
  | setDrop _ _ _ => exact .onLive h (.secCmdSupply h)
  | weightLoad _ _ _ => exact .onLive h (.secCmdSupply h)
  | weightChunk => exact .onLive h (.weightChunkOp h)
  | debugChallenge _ _ _ => exact .onLive h (.secCmdSupply h)
  | debugUnlock _ _ _ => exact .onLive h (.secCmdSupply h)
  | debugTokenTap _ => exact .onLive h (.ite h (.tokenOp h))
  | tapInstruction _ => exact .onLive h (.tapOp h)
  | svnAdvance _ _ _ _ _ => exact .onLive h (.secCmdSupply h)
  | killDebug _ _ _ _ => exact .onLive h (.secCmdSupply h)
  | linkTraining _ _ => exact .onLive h (.trainOp h)
  | retrain _ => exact .onLive h (.retrainOp h)
  | flitReplay _ => exact .onLive h (.replayOp h)
  | ringSet _ _ _ => exact .onLive h (.olCmdWrite h)
  | olExportObj x =>
    cases x with
    | issue => exact .onLive h (.olCmdWrite h)
    | arrive => exact .onLive h (.proxyObj h)
  | olExportFence x =>
    cases x with
    | issue => exact .onLive h (.olCmdWrite h)
    | arrive => exact .onLive h (.proxyFence h)
  | revoke x =>
    cases x with
    | issue => exact .onLive h (.olCmdWrite h)
    | proxyGone => exact .onLive h (.proxyGone h)
    | ended => exact .onLive h (.grantEnd h)
  | proxyFenceUpdate _ _ _ _ => exact .onLive h (.proxyUpdate h)
  | ringCounterMessage _ => exact .onLive h (.ringMessage h)
  | unreachable _ => exact .onLive h (.unreachableOp h)
  | errorDetect _ => exact .onLive h (.errorDetectOp h)
  | logDrain => exact .onLive h (.logDrainOp h)
  | errRingCfgWrite _ _ => exact .onLive h (.ringCfgWrite h)
  | errInjectWrite _ _ => exact .onLive h (.injectWrite h)
  | injectedWrite _ => exact .onLive h (.injectedOp h)
  | pwrFnWrite _ _ _ => exact .onLive h (.ite (.fnSet h) (.ite (.fnHostSet h) h))
  | fnTransitionDone _ => exact .onLive h (.fnDoneOp h)
  | retainRequest => exact .onLive h (.retainOp h)
  | wake => exact .onLive h (.wakeDevOp h)
  | retainExitDone => exact .onLive h (.retainExitOp h)
  | pwrLimitWrite _ => exact .onLive h (.ite (.limitWrite h) h)
  | powerLoopTick => exact .onLive h (.loopOp h)
  | powerSample _ => exact .onLive h (.sampleOp h)
  | thermalThrottle _ _ => exact .onLive h (.thermalOp h)
  | tripWarn _ _ => exact .onLive h (.tripWarnOp h)
  | thermtrip _ _ => exact .onLive h (.thermtripOp h)
  | currentLimit => exact .onLive h (.currentOp h)
  | currentLimitRelease => exact .onLive h (.currentOffOp h)
  | voltageWaitEnd => exact .onLive h (.voltageOp h)
  | regulatorBusFailure => exact .onLive h (.busFailOp h)
  | clockCorrelation => exact .onLive h (.correlateOp h)
  | feRestart => exact .onLive h (.feRestartOp h)
  | feReloadDone => exact .onLive h (.feReloadOp h)
  | mgmtRestart => exact .onLive h (.mgmtRestartOp h)
  | secFault => exact .onLive h (.secFaultOp h)
  | thermalRelease _ _ => exact .onLive h (.coolOp h)
  | mgmtRestartDone => exact .onLive h (.mgmtDoneAll h)
  | portBufferZeroed => exact .onLive h (.pbZeroedOp h)
  | proxySignalForward _ _ _ _ _ => exact .onLive h (.signalForward h)
  | remoteAccessRequest _ _ _ _ => exact .onLive h (.remoteAccess h)

/-- Settles O4: every command's operation keeps the three memories, one lemma per function of the model. -/
theorem memoryCanonical : Obligations.MemoryCanonical := by
  unfold Obligations.MemoryCanonical
  intro s t h e
  unfold step at e
  split at e
  · exact Canonical.next (.idleStep h) t e
  · exact Canonical.exec (.keep h) _ t e

end Sys2Proof.Machine
end

section
/-! # Detected errors, the log ring, injection and restarts -/

namespace Sys2Proof.Machine

set_option Elab.async false

variable {s t u : State}

/-! ## What the end of work never undoes -/

/-- `t` comes after `s` with nothing reported lost: the log's records stay, with new ones after them, a cause stays set,
and the window table, the firmware's state and FATAL are as they were. -/
structure Reported (s t : State) : Prop where
  recs  : s.log.recs <+: t.log.recs
  fatal : t.log.fatal = s.log.fatal
  cause : ∀ b, s.irq.cause.getLsbD b = true → t.irq.cause.getLsbD b = true
  wt    : t.wt = s.wt
  fw    : t.fw = s.fw

/-- The same, and no context changes its state or its cause of loss. -/
structure Later (s t : State) : Prop extends Reported s t where
  ctx : ∀ c, (ctxOf t c).st = (ctxOf s c).st ∧ (ctxOf t c).cause = (ctxOf s c).cause

theorem Reported.trans (h : Reported u s) (g : Reported s t) : Reported u t :=
  ⟨h.recs.trans g.recs, g.fatal.trans h.fatal, fun b hb => g.cause b (h.cause b hb), g.wt.trans h.wt, g.fw.trans h.fw⟩

theorem Reported.refl (s : State) : Reported s s := ⟨List.prefix_rfl, rfl, fun _ h => h, rfl, rfl⟩

theorem Later.refl (s : State) : Later s s := ⟨.refl s, fun _ => ⟨rfl, rfl⟩⟩

theorem Later.keep (h : Later u s) (hl : t.log = s.log := by rfl) (hi : t.irq = s.irq := by rfl)
    (hc : t.ctxs = s.ctxs := by rfl) (hw : t.wt = s.wt := by rfl) (hf : t.fw = s.fw := by rfl) : Later u t := by
  obtain ⟨⟨recs, fatal, cause, wt, fw⟩, ctx⟩ := h
  refine ⟨⟨hl ▸ recs, hl ▸ fatal, hi ▸ cause, hw.trans wt, hf.trans fw⟩, fun c => ?_⟩
  unfold ctxOf at *
  exact hc ▸ ctx c

theorem Later.ite {c : Prop} [Decidable c] (hs : Later u s) (ht : Later u t) : Later u (if c then s else t) := by
  split
  · exact hs
  · exact ht

theorem Later.foldl {α : Type} {f : State → α → State} {l : List α} (h : Later u s)
    (hf : ∀ {v x}, Later u v → Later u (f v x)) : Later u (l.foldl f s) := by
  induction l generalizing s with
  | nil => exact h
  | cons x l ih => exact ih (hf h)

theorem Later.snd {α : Type} {p : α × State} {a : α} (e : p = (a, t)) (h : Later u p.2) : Later u t := by
  rwa [e] at h

theorem Later.withLog {l : Log} (h : Later u s) (hr : s.log.recs <+: l.recs) (hf : l.fatal = s.log.fatal) :
    Later u { s with log := l } := by
  obtain ⟨⟨recs, fatal, cause, wt, fw⟩, ctx⟩ := h
  exact ⟨⟨recs.trans hr, hf.trans fatal, cause, wt, fw⟩, ctx⟩

theorem Later.raise {c} (h : Later u s) : Later u (raise s c) := by
  obtain ⟨⟨recs, fatal, cause, wt, fw⟩, ctx⟩ := h
  exact ⟨⟨recs, fatal, fun b hb => raise_keeps s c b (cause b hb), wt, fw⟩, ctx⟩

theorem Later.modCtx {c f} (h : Later u s) (hf : ∀ x, (f x).st = x.st ∧ (f x).cause = x.cause) :
    Later u (modCtx s c f) := by
  obtain ⟨⟨recs, fatal, cause, wt, fw⟩, ctx⟩ := h
  refine ⟨⟨recs, fatal, cause, wt, fw⟩, fun d => ?_⟩
  by_cases hd : d = c
  · subst hd
    rw [ctxOf_modCtx_same, (hf _).1, (hf _).2]
    exact ctx d
  · rw [ctxOf_modCtx_other _ _ _ _ hd]
    exact ctx d

theorem Later.queueWaiting {r} (h : Later u s) : Later u (queueWaiting s r) := by
  unfold Machine.queueWaiting
  refine .ite (.ite (.withLog h List.prefix_rfl rfl) (.withLog h List.prefix_rfl rfl))
    (.ite (.withLog h List.prefix_rfl rfl) ?_)
  extract_lets +onlyGivenNames c
  have hl : Later u { s with log := { s.log with heldOrd := s.log.heldOrd ++ [c] } } :=
    .withLog h List.prefix_rfl rfl
  split
  · exact .modCtx h fun _ => ⟨rfl, rfl⟩
  · exact .ite (.withLog h List.prefix_rfl rfl) (.modCtx hl fun _ => ⟨rfl, rfl⟩)

/-- A corrected-class record advances the one counter of its unit (Table 22-9). -/
theorem Log.countCe_eq (l : Log) (n : Nat) : l.countCe n = { l with
    ceCore := if n = 0 then l.ceCore + 1 else l.ceCore
    ceSs := if n = 1 then l.ceSs + 1 else l.ceSs
    ceDram := if n = 2 ∨ n = 3 then l.ceDram + 1 else l.ceDram
    ceOther := if 4 ≤ n then l.ceOther + 1 else l.ceOther } := by
  unfold Log.countCe
  split
  case h_5 h0 h1 h2 h3 =>
    have h4 : 4 ≤ n := by
      simp only [imp_false] at h0 h1 h2 h3
      omega
    simp [h4, show n ≠ 0 from h0, show n ≠ 1 from h1, show n ≠ 2 from h2, show n ≠ 3 from h3]
  all_goals simp

theorem Later.errWrite {r} (h : Later u s) : Later u (errWrite s r) := by
  unfold Machine.errWrite
  extract_lets +onlyGivenNames s1 s2
  have h1 : Later u s1 := by
    have hc := Log.countCe_eq s.log r.unit
    exact .ite (.withLog h (hc ▸ List.prefix_rfl) (hc ▸ rfl)) h
  have h2 : Later u s2 := .ite (.raise h1) h1
  clear_value s2
  refine .ite (.queueWaiting h2) ?_
  split
  · exact .withLog h2 (List.prefix_append _ _) rfl
  · exact .ite (.queueWaiting h2) (.withLog h2 List.prefix_rfl rfl)

theorem Later.event {code status unit inst addr info ctx} (h : Later u s) :
    Later u (event s code status unit inst addr info ctx) := .errWrite h

theorem Later.pbStore {off d} (h : Later u s) : Later u (pbStore s off d) := .keep h

theorem Later.fenceSignal {f v err} (h : Later u s) : Later u (fenceSignal s f v err) := .keep h

theorem Later.fenceUnref {f} (h : Later u s) : Later u (fenceUnref s f) := .keep h

theorem Later.freeBytes {n} (h : Later u s) : Later u (freeBytes s n).2 := by
  unfold Machine.freeBytes
  exact .keep h

theorem Later.takeFree (h : Later u s) : Later u (takeFree s).2 := by
  unfold Machine.takeFree
  exact .keep h

theorem dmWriteOpt_frame (s : State) (pol a : Nat) (d : List (Option Byte)) :
    dmWriteOpt s pol a d = { s with mem := (dmWriteOpt s pol a d).mem } := by
  unfold dmWriteOpt
  dsimp only
  split
  · rfl
  · rw [dmWriteLines_frame]
    rfl

theorem dmZero_frame (s : State) (a n : Nat) : dmZero s a n = { s with mem := (dmZero s a n).mem } := by
  unfold dmZero
  dsimp only
  rw [foldl_mem _ wcFlush_frame, foldl_mem _ l2Evict_frame]

theorem Later.withMem {m : DevMem} (h : Later u s) : Later u { s with mem := m } := .keep h

theorem Later.dmWriteOpt {pol a d} (h : Later u s) : Later u (dmWriteOpt s pol a d) :=
  dmWriteOpt_frame s pol a d ▸ .withMem h

theorem Later.dmWrite {pol a d} (h : Later u s) : Later u (dmWrite s pol a d) := .dmWriteOpt h

theorem Later.dmZero {a n} (h : Later u s) : Later u (dmZero s a n) := dmZero_frame s a n ▸ .withMem h

theorem Later.modCore {c f} (h : Later u s) : Later u (modCore s c f) := .keep h

theorem Later.l1Store {core a d} (h : Later u s) : Later u (l1Store s core a d) := .keep h

theorem Later.objUnref {i} (h : Later u s) : Later u (objUnref s i) := .keep h

theorem Later.reserveDrop {ctx i} (h : Later u s) : Later u (reserveDrop s ctx i) := by
  unfold Machine.reserveDrop
  exact .ite (.objUnref (.modCtx h fun _ => ⟨rfl, rfl⟩)) h

theorem Later.dropRef {r} (h : Later u s) : Later u (dropRef s r) := by
  unfold Machine.dropRef
  split
  · exact .keep h
  · exact h

theorem Later.layerRelease {l} (h : Later u s) : Later u (layerRelease s l) := by
  unfold Machine.layerRelease
  exact .dropRef (.dropRef h)

theorem Later.flipSignal {f err} (h : Later u s) : Later u (flipSignal s f err) := by
  unfold Machine.flipSignal
  exact .ite (.keep h) h

theorem Later.flipDiscard {f} (h : Later u s) : Later u (flipDiscard s f) := by
  unfold Machine.flipDiscard
  exact .foldl (.dropRef (.foldl (.flipSignal h) (fun h => .layerRelease h))) (fun h => .keep h)

theorem Later.modPipe {n f} (h : Later u s) : Later u (modPipe s n f) := .keep h

theorem Later.pipeFlush {n} (h : Later u s) : Later u (pipeFlush s n) := by
  unfold Machine.pipeFlush
  exact .foldl (.keep h) (fun h => .flipDiscard h)

theorem Later.modCap {n f} (h : Later u s) : Later u (modCap s n f) := .keep h

theorem Later.capHalt {n} (h : Later u s) : Later u (capHalt s n) := by
  unfold Machine.capHalt
  exact .ite h (.modCap (.dropRef h))

theorem Later.audHalt (h : Later u s) : Later u (audHalt s) := by
  unfold Machine.audHalt
  extract_lets +onlyGivenNames _ s1
  have h1 : Later u s1 := .dropRef (.dropRef h)
  exact .keep h1

theorem Later.audStopSoon (h : Later u s) : Later u (audStopSoon s) := by
  unfold Machine.audStopSoon
  exact .ite h (.ite (.audHalt h) (.keep h))

theorem Later.setSecCmd {st} (h : Later u s) : Later u (setSecCmd s st) := .keep h

theorem Later.slotPut {k x} (h : Later u s) : Later u (slotPut s k x) := by
  unfold Machine.slotPut
  exact .ite (.keep h) (.keep h)

theorem Later.loadFinish {l res} (h : Later u s) : Later u (loadFinish s l res) := by
  unfold Machine.loadFinish
  exact .setSecCmd (.objUnref (.objUnref (.foldl (.keep h) (fun h => .slotPut h))))

theorem Later.loadAbort {l res} (h : Later u s) : Later u (loadAbort s l res) := by
  unfold Machine.loadAbort
  exact .loadFinish (.dmZero h)

theorem Later.loadLeave {ctx} (h : Later u s) : Later u (loadLeave s ctx) := by
  unfold Machine.loadLeave
  split
  · exact .ite (.loadAbort h) h
  · exact h

theorem Later.portsStop {ctx} (h : Later u s) : Later u (portsStop s ctx) := by
  unfold Machine.portsStop
  extract_lets +onlyGivenNames s1
  have h1 : Later u s1 := .foldl h (fun h => .capHalt h)
  exact .ite (.audStopSoon h1) h1

theorem Later.portsLost {ctx} (h : Later u s) : Later u (portsLost s ctx) := by
  unfold Machine.portsLost
  extract_lets +onlyGivenNames s1
  have h1 : Later u s1 := .loadLeave (.foldl h (fun h => .pipeFlush h))
  exact .ite h1 (.portsStop h1)

theorem Later.modQueue {q f} (h : Later u s) : Later u (modQueue s q f) := .keep h

theorem Later.recInRing {r q e} (h : Later u s) : Later u (recInRing s r q e) := by
  unfold Machine.recInRing
  extract_lets +onlyGivenNames _ s2 s3
  have h2 : Later u s2 := .modQueue (.pbStore h)
  have h3 : Later u s3 := by
    unfold s3
    split
    · exact .fenceSignal h2
    · exact h2
  exact .ite (.raise h3) h3

theorem Later.recOrphaned {r q} (h : Later u s) : Later u (recOrphaned s r q) := by
  unfold Machine.recOrphaned
  extract_lets +onlyGivenNames _ _ _ _ _ _ s2 _ s4
  have h2 : Later u s2 := by
    unfold s2
    split
    · exact .errWrite (.modCtx h fun _ => ⟨rfl, rfl⟩)
    · exact .dmWrite (.modCtx h fun _ => ⟨rfl, rfl⟩)
  have h4 : Later u s4 := by
    unfold s4
    split
    · exact .fenceSignal (.modQueue h2)
    · exact .modQueue h2
  exact .raise h4

theorem Later.writeRec {r} (h : Later u s) : Later u (writeRec s r) := by
  unfold Machine.writeRec
  refine .ite h ?_
  split
  · exact .recInRing h
  · exact .recOrphaned h

theorem Later.queueSettle {q} (h : Later u s) : Later u (queueSettle s q) := by
  unfold Machine.queueSettle
  exact .ite (.keep h) h

theorem Later.releaseCmd {c} (h : Later u s) : Later u (releaseCmd s c) := by
  unfold Machine.releaseCmd
  exact .foldl (.foldl h (fun h => .keep h)) (fun h => .keep h)

theorem Later.cmdEnd {id st errIdx} (h : Later u s) : Later u (cmdEnd s id st errIdx) := by
  unfold Machine.cmdEnd
  split
  · exact h
  · exact .queueSettle (.releaseCmd (.writeRec (.keep h)))

theorem Later.modMon {m f} (h : Later u s) : Later u (modMon s m f) := .keep h

theorem Later.monMiss {m ctx sc} (h : Later u s) : Later u (monMiss s m ctx sc) := by
  unfold Machine.monMiss
  split
  · exact h
  · split
    · exact h
    · exact .ite (.event (.keep h)) h

theorem Later.cmdDone {id st errIdx} (h : Later u s) : Later u (cmdDone s id st errIdx) := by
  unfold Machine.cmdDone
  split
  · exact h
  · exact .cmdEnd (.monMiss h)

theorem Later.stagedWrite {core ctx e} (h : Later u s) : Later u (stagedWrite s core ctx e) := by
  unfold Machine.stagedWrite
  exact .ite h (.l1Store (.dmWriteOpt h))

theorem Later.stagedWrites {w} (h : Later u s) : Later u (stagedWrites s w) := by
  unfold Machine.stagedWrites
  exact .foldl h (fun h => .stagedWrite h)

theorem Later.commitsLand {p} (h : Later u s) : Later u (commitsLand s p) := by
  unfold Machine.commitsLand
  exact .foldl h (fun h => .stagedWrites h)

theorem Later.killWgs {p} (h : Later u s) : Later u (killWgs s p) := by
  unfold Machine.killWgs
  extract_lets +onlyGivenNames s1
  have h1 : Later u s1 := .commitsLand h
  exact .keep h1

theorem Later.passDrop {id} (h : Later u s) : Later u (passDrop s id) := by
  unfold Machine.passDrop
  split
  · exact h
  · exact .foldl (.keep h) (fun h => .reserveDrop h)

theorem Later.cmpStop {c} (h : Later u s) : Later u (cmpStop s c) := by
  unfold Machine.cmpStop
  split
  next t e => exact .ite (.snd e (.freeBytes h)) (.dmWrite (.snd e (.freeBytes h)))

theorem Later.killInst {id} (h : Later u s) : Later u (killInst s id) := by
  unfold Machine.killInst
  extract_lets +onlyGivenNames _ _ s3
  have h3 : Later u s3 := .foldl (.foldl (.killWgs h) (fun h => .passDrop h)) (fun h => .cmpStop h)
  exact .keep h3

theorem Later.seqFree {e} (h : Later u s) : Later u (seqFree s e) := by
  unfold Machine.seqFree
  split
  · exact h
  · exact .keep h

theorem Later.seqReturn {e} (h : Later u s) : Later u (seqReturn s e) := by
  unfold Machine.seqReturn
  split
  · exact h
  · exact .ite (.seqFree h) (.ite (.keep h) h)

theorem Later.monEnd {x st} (h : Later u s) : Later u (monEnd s x st) := by
  unfold Machine.monEnd
  split
  · exact h
  · exact .monMiss (.ite (.raise (.event (.keep h))) (.ite (.keep h) h))

theorem Later.dropInst {id} (h : Later u s) : Later u (dropInst s id) := by
  unfold Machine.dropInst
  split
  · exact h
  · extract_lets +onlyGivenNames _ s2
    have h2 : Later u s2 := .foldl (.killInst h) (fun h => .seqReturn h)
    exact .keep h2

theorem Later.monSettle {m} (h : Later u s) : Later u (monSettle s m) := by
  unfold Machine.monSettle
  split
  · exact h
  · exact .ite (.keep h) h

theorem Later.finishInst {id st errIdx} (h : Later u s) : Later u (finishInst s id st errIdx) := by
  unfold Machine.finishInst
  split
  · exact h
  · extract_lets +onlyGivenNames _ s1
    have h1 : Later u s1 := .monSettle (.monEnd (.dropInst h))
    split
    · exact .cmdEnd h1
    · exact .queueSettle (.writeRec h1)

theorem Later.finishAll {ids st errIdx} (h : Later u s) : Later u (finishAll s ids st errIdx) := by
  unfold Machine.finishAll
  exact .foldl h (fun h => .finishInst h)

end Sys2Proof.Machine
end

section
namespace Sys2Proof.Machine

set_option Elab.async false

variable {s t u : State}

/-! ## A record as it is written -/

/-- A record of the two uncorrected classes raises err_log first; what follows undoes nothing of it. -/
theorem errWrite_later_raise (s : State) {r : ErrRec} (h : 2 ≤ r.cls) : Later (raise s .errLog) (errWrite s r) := by
  unfold errWrite
  extract_lets +onlyGivenNames s1 s2
  have h2 : s2 = raise s .errLog := by
    unfold s2 s1
    rw [if_pos h, if_neg (by omega)]
  rw [h2]
  have hr : Later (raise s .errLog) (raise s .errLog) := .refl _
  refine .ite (.queueWaiting hr) ?_
  split
  · exact .withLog hr (List.prefix_append _ _) rfl
  · exact .ite (.queueWaiting hr) (.withLog hr List.prefix_rfl rfl)

theorem errWrite_raises (s : State) {r : ErrRec} (h : 2 ≤ r.cls) :
    (errWrite s r).irq.cause.getLsbD Cause.errLog.bit = true :=
  (errWrite_later_raise s h).cause _ (raise_sets s .errLog)

/-- With the next ordinary slot free, and no record of its context waiting, a record is the log's next. -/
theorem errWrite_recs {s : State} {r : ErrRec} (hf : s.log.used s.log.nextOrd = false)
    (hw : r.cls = 2 → hasWaiting s r.ctx = false) : (errWrite s r).log.recs =
      s.log.recs ++ [{ r with idx := s.log.nextOrd, resv := false, seq := s.log.written + 1 }] := by
  unfold errWrite
  extract_lets +onlyGivenNames s1 s2
  have hl : s2.log = if r.cls = 1 then s.log.countCe r.unit else s.log := by
    unfold s2 s1
    split <;> split <;> rfl
  have hu : s2.log.recs = s.log.recs ∧ s2.log.nextOrd = s.log.nextOrd ∧ s2.log.written = s.log.written := by
    rw [hl, Log.countCe_eq]
    split <;> exact ⟨rfl, rfl, rfl⟩
  obtain ⟨hr, hn, hwr⟩ := hu
  have hs : s2.log.slotFor r.cls = some (s.log.nextOrd, false) := by
    have : s2.log.used s.log.nextOrd = false := by
      unfold Log.used at *
      rw [hr, hf]
    simp [Log.slotFor, this, hn]
  have hq : ¬(r.cls = 2 && hasWaiting s2 r.ctx) = true := by
    by_cases h2 : r.cls = 2
    · have : hasWaiting s2 r.ctx = hasWaiting s r.ctx := by
        unfold s2 s1
        rw [if_pos (by omega), if_neg (by omega)]
        rfl
      simp [this, hw h2]
    · simp [h2]
  rw [if_neg hq, hs]
  simp [Log.take, hr, hwr]

/-- An event-class or corrected-class record changes the log alone. -/
theorem errWrite_log {s : State} {r : ErrRec} (h : r.cls < 2) :
    errWrite s r = { s with log := (errWrite s r).log } := by
  unfold errWrite
  have h2 : ¬2 ≤ r.cls := by omega
  simp only [if_neg h2, show (decide (r.cls = 2)) = false by simp; omega, Bool.false_and, Bool.false_eq_true, if_false]
  split <;> split <;> rfl

/-! ## The loss of a context (R123) -/

/-- What follows the change of the entry of a context that becomes LOST. -/
theorem ctxLose_later {c cause idx inst} (h : (ctxOf s c).st = .active) :
    Later (modCtx s c (fun x => { x with st := .lost, cause := cause.code, errIdx := idx }))
      (ctxLose s c cause idx inst) := by
  unfold ctxLose
  rw [if_pos h]
  extract_lets +onlyGivenNames s1 s2 s3 s4
  have h2 : Later s1 s2 := .portsLost (.refl s1)
  have h3 : Later s1 s3 := by
    unfold s3
    split
    · exact .finishInst h2
    · exact h2
  exact .foldl (.finishAll h3) fun h => .cmdDone h

theorem ctxLose_inactive {c cause idx inst} (h : (ctxOf s c).st ≠ .active) : ctxLose s c cause idx inst = s := by
  unfold ctxLose
  rw [if_neg h]

theorem ctxLose_reported (s : State) (c : Nat) (cause : Status) (idx : BitVec 16) (inst : Option Nat) :
    Reported s (ctxLose s c cause idx inst) := by
  by_cases h : (ctxOf s c).st = .active
  · have ⟨recs, fatal, cause, wt, fw⟩ := (ctxLose_later (cause := cause) (idx := idx) (inst := inst) h).toReported
    exact ⟨recs, fatal, cause, wt, fw⟩
  · rw [ctxLose_inactive h]
    exact .refl s

/-- An ACTIVE context becomes LOST, with its cause. -/
theorem ctxLose_lost {c cause idx inst} (h : (ctxOf s c).st = .active) :
    (ctxOf (ctxLose s c cause idx inst) c).st = .lost ∧ (ctxOf (ctxLose s c cause idx inst) c).cause = cause.code := by
  have := (ctxLose_later (cause := cause) (idx := idx) (inst := inst) h).ctx c
  rwa [ctxOf_modCtx_same] at this

/-- Another context keeps its state. -/
theorem ctxLose_other {c d cause idx inst} (h : d ≠ c) :
    (ctxOf (ctxLose s c cause idx inst) d).st = (ctxOf s d).st := by
  by_cases hc : (ctxOf s c).st = .active
  · have := (ctxLose_later (cause := cause) (idx := idx) (inst := inst) hc).ctx d
    rw [ctxOf_modCtx_other _ _ _ _ h] at this
    exact this.1
  · rw [ctxLose_inactive hc]

/-- A context that is LOST stays LOST while another, or itself, is lost. -/
theorem ctxLose_stays_lost {c d cause idx inst} (h : (ctxOf s d).st = .lost) :
    (ctxOf (ctxLose s c cause idx inst) d).st = .lost := by
  by_cases hd : d = c
  · subst hd
    rw [ctxLose_inactive (by rw [h]; decide)]
    exact h
  · rw [ctxLose_other hd, h]

/-! ## Errors met for a context (R406, R407) -/

theorem LosesCtx.mono {c code} {p q : ErrRec → Prop} (h : LosesCtx s t c code p) (hpq : ∀ r, p r → q r) :
    LosesCtx s t c code q := by
  obtain ⟨hi, ha, hl⟩ := h
  refine ⟨hi, fun hw hf => ?_, hl⟩
  obtain ⟨r, l, hr, h1, h2, h3, h4, hp⟩ := ha hw hf
  exact ⟨r, l, hr, h1, h2, h3, h4, hpq r hp⟩

/-- The loss depends on the log and the context table of the state before alone. -/
theorem LosesCtx.of_eq {c code} {p : ErrRec → Prop} (h : LosesCtx s t c code p) (hl : s.log = u.log)
    (hc : s.ctxs = u.ctxs) : LosesCtx u t c code p := by
  unfold LosesCtx AppendsFirst hasWaiting ctxOf at *
  rwa [hl, hc] at h

theorem ctxError_loses (s : State) (c : Nat) (r : ErrRec) (inst : Option Nat) (p : ErrRec → Prop) (h2 : r.cls = 2)
    (hc : r.ctx = some c) (hs : r.status = Status.contextLost.code)
    (hp : ∀ i v n, p { r with idx := i, resv := v, seq := n }) :
    LosesCtx s (ctxError s c r .contextLost inst) c r.code p := by
  unfold ctxError
  extract_lets +onlyGivenNames s1
  have hr : Reported s1 (ctxLose s1 c .contextLost (errIdxAfter s1 c) inst) := ctxLose_reported _ _ _ _ _
  have h1 : Later s s1 := .errWrite (.refl s)
  refine ⟨hr.cause _ (errWrite_raises s (by omega)), fun hw hf => ?_, fun ha => ?_⟩
  · obtain ⟨l, hl⟩ := hr.recs
    have hn : s1.log.recs = _ := errWrite_recs hf (fun _ => by rw [hc]; exact hw)
    rw [hn, List.append_assoc] at hl
    exact ⟨_, l, hl.symm, h2, rfl, hc, hs, hp _ _ _⟩
  · have : (ctxOf s1 c).st = .active := by rw [(h1.ctx c).1, ha]
    exact ctxLose_lost this

theorem faultInfo_log (s : State) (code : Nat) :
    (faultInfo s code).2.log = s.log ∧ (faultInfo s code).2.ctxs = s.ctxs := by
  unfold faultInfo
  split <;> exact ⟨rfl, rfl⟩

theorem hwFault_loses (s : State) (c : Nat) (m : MemFault) (inst : Option Nat) :
    LosesCtx s (hwFault s c m inst) c m.code
      (fun r => r.unit = m.unit ∧ r.inst = m.inst ∧ r.addr = BitVec.ofNat 40 m.addr) := by
  unfold hwFault
  split
  next info u e =>
    have ⟨hl, hc⟩ := faultInfo_log s m.code
    rw [e] at hl hc
    refine LosesCtx.of_eq (ctxError_loses u c _ inst _ rfl rfl rfl ?_) hl hc
    exact fun i v n => ⟨rfl, rfl, rfl⟩

theorem tableOp_loses (s : State) (c n a : Nat) : LosesCtx s (tableOp s c n a) c 2 (fun r => r.unit = n) :=
  (hwFault_loses s c _ none).mono fun _ h => h.1

/-- An error for a context that is not ACTIVE leaves device memory as it is. -/
theorem hwFault_inactive_mem {c m inst} (h : (ctxOf s c).st ≠ .active) : (hwFault s c m inst).mem = s.mem := by
  have hf : (faultInfo s m.code).2.mem = s.mem := by
    unfold faultInfo
    split <;> rfl
  unfold hwFault
  split
  next info u e =>
    have hc := (faultInfo_log s m.code).2
    rw [e] at hc hf
    unfold ctxError
    extract_lets +onlyGivenNames s1 s2
    have h2 : (ctxOf s2 c).st ≠ .active := by
      rw [((Later.errWrite (r := s1) (.refl u)).ctx c).1]
      unfold ctxOf at *
      rwa [hc]
    rw [ctxLose_inactive h2]
    unfold s2
    rw [errWrite_frame]
    exact hf

/-! ## Fatal errors (R408) -/

/-- Every context of a list that was ACTIVE or LOST is LOST once each of the list has been lost. -/
theorem foldl_ctxLose_lost {idx} (l : List Nat) {c : Nat} (hc : c ∈ l)
    (h : (ctxOf s c).st = .active ∨ (ctxOf s c).st = .lost) :
    (ctxOf (l.foldl (fun s c => ctxLose s c .contextLost idx none) s) c).st = .lost := by
  have stays : ∀ (l : List Nat) (s : State), (ctxOf s c).st = .lost →
      (ctxOf (l.foldl (fun s c => ctxLose s c .contextLost idx none) s) c).st = .lost := by
    intro l
    induction l with
    | nil => exact fun _ h => h
    | cons d l ih => exact fun s h => ih _ (ctxLose_stays_lost h)
  induction l generalizing s with
  | nil => cases hc
  | cons d l ih =>
    rw [List.foldl_cons]
    by_cases hd : c = d
    · subst hd
      rcases h with h | h
      · exact stays l _ (ctxLose_lost h).1
      · exact stays l _ (ctxLose_stays_lost h)
    · refine ih (by simpa [hd] using hc) ?_
      rwa [ctxLose_other hd]

theorem foldl_ctxLose_reported (idx : BitVec 16) (l : List Nat) (s : State) :
    Reported s (l.foldl (fun s c => ctxLose s c .contextLost idx none) s) := by
  induction l generalizing s with
  | nil => exact .refl s
  | cons c l ih => exact (ctxLose_reported s c _ _ _).trans (ih _)

theorem mem_tkeys {α : Type} {m : Tab α} {p : Nat → α → Bool} {i : Nat} :
    i ∈ tkeys m p ↔ ∃ x, (i, x) ∈ m ∧ p i x = true := by
  simp [tkeys]

theorem mem_of_tfind {α : Type} {m : Tab α} {i : Nat} {x : α} (h : tfind m i = some x) : (i, x) ∈ m := by
  induction m with
  | nil => cases h
  | cons e r ih =>
    obtain ⟨k, v⟩ := e
    rw [tfind] at h
    split at h
    next hk =>
      cases h
      simp [hk]
    next => exact List.mem_cons_of_mem _ (ih h)

/-- A record of the fatal class changes no context entry. -/
theorem errWrite_fatal_ctxs {r : ErrRec} (h : r.cls = 3) : (errWrite s r).ctxs = s.ctxs := by
  have hq : ∀ v : State, (queueWaiting v r).ctxs = v.ctxs := by
    intro v
    unfold queueWaiting
    rw [if_pos h]
    split <;> rfl
  unfold errWrite
  extract_lets +onlyGivenNames s1 s2
  have h2 : s2.ctxs = s.ctxs := by
    unfold s2 s1
    split <;> split <;> rfl
  split
  · rw [hq, h2]
  · split
    · exact h2
    · split
      · rw [hq, h2]
      · exact h2

theorem fatalError_fatal (s : State) (code unit inst addr info : Nat) :
    Fatal s (fatalError s code unit inst addr info) code unit addr ∧
      (fatalError s code unit inst addr info).wt = s.wt := by
  unfold fatalError
  extract_lets +onlyGivenNames s1 idx _ s2
  have h1 : Later s s1 := .errWrite (.refl s)
  have hr := foldl_ctxLose_reported idx (tkeys s2.ctxs (fun _ c => c.st == .active)) s2
  have hi := errWrite_raises s (r := mkErr s 3 code 0 unit inst addr info none) (show 2 ≤ 3 by decide)
  refine ⟨⟨hr.fatal, hr.cause _ hi, fun hf => ?_, fun c x hx ha => ?_⟩, hr.wt.trans h1.wt⟩
  · obtain ⟨l, hl⟩ := hr.recs
    have hn : s2.log.recs = _ := errWrite_recs hf (by simp [mkErr])
    rw [hn, List.append_assoc] at hl
    exact ⟨_, l, hl.symm, rfl, rfl, rfl, rfl⟩
  · have h2 : s2.ctxs = s.ctxs := errWrite_fatal_ctxs rfl
    refine foldl_ctxLose_lost _ (mem_tkeys.2 ⟨x, h2 ▸ mem_of_tfind hx, by simp [ha]⟩) (.inl ?_)
    unfold ctxOf tget
    rw [h2, hx]
    exact ha

end Sys2Proof.Machine
end

section
namespace Sys2Proof.Machine

set_option Elab.async false

variable {s t u : State}

/-! ## Corrected errors (R403) -/

/-- The record depends on the logs before and after alone. -/
theorem Appends.of_eq {p : ErrRec → Prop} (h : Appends s t p) (hl : s.log = u.log) : Appends u t p := by
  unfold Appends at *
  rwa [hl] at h

theorem Appends.to_eq {p : ErrRec → Prop} (h : Appends s t p) (hl : u.log = t.log) : Appends s u p := by
  unfold Appends at *
  rwa [← hl] at h

theorem Appends.mono {p q : ErrRec → Prop} (h : Appends s t p) (hpq : ∀ r, p r → q r) : Appends s t q := fun hf => by
  obtain ⟨r, hr, hp⟩ := h hf
  exact ⟨r, hr, hpq r hp⟩

theorem corrected_frame (s : State) (code unit inst addr info : Nat) :
    corrected s code unit inst addr info = { s with log := (corrected s code unit inst addr info).log } :=
  errWrite_log (show 1 < 2 by decide)

theorem corrected_appends (s : State) (code unit inst addr info : Nat) :
    Appends s (corrected s code unit inst addr info) (fun r =>
      r.cls = 1 ∧ r.code = code ∧ r.unit = unit ∧ r.inst = inst ∧ r.addr = BitVec.ofNat 40 addr ∧
      r.info = BitVec.ofNat 32 info ∧ r.seq = s.log.written + 1) := fun hf =>
  ⟨_, errWrite_recs hf (by simp [mkErr]), rfl, rfl, rfl, rfl, rfl, rfl, rfl⟩

/-- Without a free ordinary slot the record is dropped, and counted as such. -/
theorem corrected_full {s : State} (code unit inst addr info : Nat) (h : s.log.used s.log.nextOrd = true) :
    (corrected s code unit inst addr info).log = { s.log.countCe unit with dropped := s.log.dropped + 1 } := by
  have hu : (s.log.countCe unit).used (s.log.countCe unit).nextOrd = true := by rw [Log.countCe_eq]; exact h
  have hd : (s.log.countCe unit).dropped = s.log.dropped := by rw [Log.countCe_eq]
  simp [corrected, errWrite, mkErr, Log.slotFor, hu, hd]

theorem corrected_counts (s : State) (code unit inst addr info : Nat) :
    (corrected s code unit inst addr info).log.ceCore = (s.log.countCe unit).ceCore ∧
    (corrected s code unit inst addr info).log.ceSs = (s.log.countCe unit).ceSs ∧
    (corrected s code unit inst addr info).log.ceDram = (s.log.countCe unit).ceDram ∧
    (corrected s code unit inst addr info).log.ceOther = (s.log.countCe unit).ceOther := by
  cases h : s.log.used s.log.nextOrd with
  | true =>
    rw [corrected_full code unit inst addr info h]
    exact ⟨rfl, rfl, rfl, rfl⟩
  | false =>
    have hu : (s.log.countCe unit).used (s.log.countCe unit).nextOrd = false := by rw [Log.countCe_eq]; exact h
    have hl : (corrected s code unit inst addr info).log =
        (s.log.countCe unit).take (mkErr s 1 code 0 unit inst addr info none) (s.log.countCe unit).nextOrd false := by
      simp [corrected, errWrite, mkErr, Log.slotFor, hu]
    rw [hl]
    exact ⟨rfl, rfl, rfl, rfl⟩

theorem correctedOp_away {unit inst addr syn} (h : errAt s unit inst addr = false) :
    correctedOp s unit inst addr syn = s := by
  simp [correctedOp, h]

/-- The record of a single-bit error: LINK_CE of a DRAM link, SRAM_CE of an array. -/
theorem correctedOp_eq {unit inst addr syn} (h : errAt s unit inst addr = true) : correctedOp s unit inst addr syn =
    corrected s (if unit = 3 then 5 else 1) unit inst (if unit = 3 then addr / 128 * 128 else ceAddr unit addr)
      (if unit = 3 then 0 else syn % 256) := by
  unfold correctedOp
  rw [if_neg (by simp [h])]
  split
  next hu => rw [hu]
  next => rfl

/-- The core without the bad line (Table 22-1). -/
def l1Dropped (s : State) (core : Nat) (instruction : Bool) (addr : Nat) : State :=
  modCore s core fun c =>
    if instruction then { c with l1i := tdel c.l1i (addr / 128 % 256) }
    else { c with l1 := tdel c.l1 (addr / 128 % 512) }

theorem l1Op_eq (s : State) (core : Nat) (instr : Bool) (addr : Nat) :
    l1Op s core instr addr = corrected (l1Dropped s core instr addr) 1 0 core 0 0 := rfl

theorem l1Op_frame (s : State) (core : Nat) (instr : Bool) (addr : Nat) : l1Op s core instr addr =
    { s with cores := (l1Op s core instr addr).cores, log := (l1Op s core instr addr).log } := by
  rw [l1Op_eq, corrected_frame]
  rfl

theorem l1Op_cores (s : State) (core : Nat) (instr : Bool) (addr : Nat) :
    coreOf (l1Op s core instr addr) core =
      (if instr then { coreOf s core with l1i := tdel (coreOf s core).l1i (addr / 128 % 256) }
       else { coreOf s core with l1 := tdel (coreOf s core).l1 (addr / 128 % 512) }) ∧
    ∀ k, k ≠ core → tfind (l1Op s core instr addr).cores k = tfind s.cores k := by
  rw [l1Op_eq, corrected_frame]
  show coreOf (l1Dropped s core instr addr) core = _ ∧ ∀ k, k ≠ core → tfind (l1Dropped s core instr addr).cores k = _
  exact ⟨coreOf_modCore_same s core _, fun k hk => tfind_tput_other s.cores core k _ hk⟩

/-! ## Uncorrectable errors met for a context -/

theorem wgArrayOp_away {core wg} (h : ∀ w, tfind s.wgs wg = some w → w.core ≠ core) : wgArrayOp s core wg = s := by
  unfold wgArrayOp
  split
  · rfl
  next w hw => rw [if_neg (h w hw)]

theorem wgArrayOp_loses {core wg w} (h : tfind s.wgs wg = some w) (hc : w.core = core) :
    LosesCtx s (wgArrayOp s core wg) w.ctx 2 (fun r => r.unit = 0 ∧ r.inst = core ∧ r.addr = 0) := by
  unfold wgArrayOp
  rw [h]
  dsimp only
  rw [if_pos hc]
  exact hwFault_loses s w.ctx _ _

theorem poisonWord_mem (s : State) (a : Nat) : a ∈ (poisonWord s a).mem.poison := by
  unfold poisonWord
  split
  next h => simpa using h
  · simp

theorem poisonWord_frame (s : State) (a : Nat) : poisonWord s a = { s with mem := (poisonWord s a).mem } := by
  unfold poisonWord
  split <;> rfl

theorem memoryOp_link_away {addr ctx} (h : (chanOf s addr).any (fun c => chanUp s c.1) = false) :
    memoryOp s addr ctx true = s := by
  simp [memoryOp, h]

theorem memoryOp_link {addr ctx c} (h : chanOf s addr = some c) (hu : chanUp s c.1 = true) :
    LosesCtx s (memoryOp s addr ctx true) ctx 6
      (fun r => r.unit = 3 ∧ r.inst = c.1 ∧ r.addr = BitVec.ofNat 40 (addr / 128 * 128)) := by
  have hm : memoryOp s addr ctx true =
      hwFault s ctx { code := 6, unit := 3, inst := c.1, addr := addr / 128 * 128 } none := by
    simp [memoryOp, h, hu]
  rw [hm]
  exact hwFault_loses s ctx _ none

/-- Device memory with its bad word: what stands when the error is reported. -/
theorem poisoned_fill_frame (s : State) (addr : Nat) : poisonWord (l2Fill s addr) (addr / 8 * 8) =
    { s with mem := (poisonWord (l2Fill s addr) (addr / 8 * 8)).mem } := by
  rw [poisonWord_frame, l2Fill_frame]

theorem memoryOp_word (s : State) (addr ctx : Nat) :
    LosesCtx s (memoryOp s addr ctx false) ctx 2
      (fun r => r.unit = (if isSs addr then 1 else 2) ∧ r.addr = BitVec.ofNat 40 (addr / 8 * 8)) := by
  have hf := poisoned_fill_frame s addr
  unfold memoryOp
  rw [if_neg (by decide)]
  extract_lets v
  refine LosesCtx.of_eq (LosesCtx.mono (hwFault_loses v ctx _ none) fun r h => ⟨h.1, h.2.2⟩) ?_ ?_
  · unfold v; rw [hf]
  · unfold v; rw [hf]

theorem memoryOp_poisons {addr ctx} (h : (ctxOf s ctx).st ≠ .active) :
    addr / 8 * 8 ∈ (memoryOp s addr ctx false).mem.poison := by
  have hf := poisoned_fill_frame s addr
  unfold memoryOp
  rw [if_neg (by decide)]
  extract_lets v
  rw [hwFault_inactive_mem (s := v) (by unfold v; rw [hf]; exact h)]
  exact poisonWord_mem _ _

/-! ## A stored line replaced in DRAM (R294, R296, R297) -/

theorem tamperOp_away {addr cipher mac} (h : encAt s (addr / 64 * 64) = none) : tamperOp s addr cipher mac = s := by
  simp [tamperOp, h]

/-- The line's MAC in force stands against the one given; a line that passes holds what it deciphers to. -/
theorem tamperOp_eq {addr cipher mac p k} (h : encAt s (addr / 64 * 64) = some (p, k)) : tamperOp s addr cipher mac =
    (let l := addr / 64 * 64
     let u := wcFlush s l
     let rest := u.mem.macBad.filter (· != l)
     if macOf k l cipher != (if macCached u l && !u.mem.macBad.contains l then
         macOf k l (cipherOf k l (mreads u.mem.dram l 64)) else mac) then
       { u with mem := { u.mem with macBad := l :: rest } }
     else if cipher = cipherOf k l (mreads u.mem.dram l 64) then { u with mem := { u.mem with macBad := rest } }
     else { u with mem := { u.mem with
       macBad := rest
       dram := mwrites u.mem.dram l (fit 64 (Config.xtsDec k.x1 k.x2 (BitVec.ofNat 128 (l / 64)) cipher)) } }) := by
  unfold tamperOp
  dsimp only
  rw [h]

theorem fit_length (n : Nat) (d : List Byte) : (fit n d).length = n := by
  simp [fit]

/-- What a byte of a memory reads as after a run of bytes is written. -/
theorem mget_mwrites {m : Memory} (h : Memory.wf m = true) (a b : Nat) (d : List Byte) :
    mget (mwrites m a d) b = if a ≤ b ∧ b < a + d.length then d.getD (b - a) 0 else mget m b := by
  split
  next hb =>
    obtain ⟨i, rfl⟩ := Nat.exists_eq_add_of_le hb.1
    have hi : i < d.length := by omega
    rw [mget_mwrites_in h a i d hi, Nat.add_sub_cancel_left, List.getD_eq_getElem _ _ hi]
  next hb => exact mget_mwrites_out h a b d (by omega)

/-! ## The port buffer (R404, Table 22-2) -/

theorem poisonPb_mem (s : State) (off : Nat) : off / 8 ∈ (poisonPb s off).pbPoison := by
  unfold poisonPb
  dsimp only
  split
  next h => simpa using h
  · simp

theorem poisonPb_bad {off} (h : off / 8 ∈ s.pbPoison) : poisonPb s off = s := by
  simp [poisonPb, h]

theorem poisonPb_good {off} (h : off / 8 ∉ s.pbPoison) :
    poisonPb s off = { s with pbPoison := off / 8 :: s.pbPoison } := by
  simp [poisonPb, h]

theorem poisonPb_frame (s : State) (off : Nat) : poisonPb s off = { s with pbPoison := (poisonPb s off).pbPoison } := by
  unfold poisonPb
  dsimp only
  split <;> rfl

/-- Dropping the bad words of a page drops the one just gone bad. -/
theorem poisonPb_filter (s : State) (off : Nat) : (poisonPb s off).pbPoison.filter (fun w => w / 512 != off / 8 / 512) =
    s.pbPoison.filter (fun w => w / 512 != off / 8 / 512) := by
  by_cases h : off / 8 ∈ s.pbPoison
  · rw [poisonPb_bad h]
  · rw [poisonPb_good h]
    simp

/-- The stage image being copied is marked bad where the word is part of it. -/
def imageMarked (s : State) (w : Nat) : State :=
  { s with boot := { s.boot with cur := s.boot.cur.map (fun j => if j.word w then { j with bad := true } else j) } }

theorem pbUe_boot {w : Nat} (h : bootPage s (w / 512) = true) : pbUe s w 0 = errWrite (imageMarked s w)
    (mkErr (imageMarked s w) 0 8 0 5 (pbHalf s (w / 512)) (8 * w) 0 none) := by
  unfold pbUe
  extract_lets page _ v
  rw [if_pos h]
  have eta : ∀ c, s.boot.cur = c → { s with boot := { s.boot with cur := c } } = s := by
    rintro _ rfl
    rfl
  have hv : v = imageMarked s w := by
    unfold v imageMarked
    cases hc : s.boot.cur with
    | none => exact (eta none hc).symm
    | some j =>
      cases hj : j.word w with
      | true =>
        dsimp only
        rw [if_pos (by simp [hj]), Option.map_some, if_pos hj]
      | false => simpa [hj] using (eta (some j) hc).symm
  rw [hv]
  rfl

/-- A bad word of the boot windows is an event, and changes nothing else but the mark. -/
theorem pbUe_boot_reports {w : Nat} (h : bootPage s (w / 512) = true) :
    pbUe s w 0 = { s with boot := (pbUe s w 0).boot, log := (pbUe s w 0).log } ∧
    (pbUe s w 0).boot =
      { s.boot with cur := s.boot.cur.map (fun j => if j.word w then { j with bad := true } else j) } ∧
    Appends s (pbUe s w 0) (fun r => r.cls = 0 ∧ r.code = 8 ∧ r.unit = 5 ∧ r.addr = BitVec.ofNat 40 (8 * w)) := by
  rw [pbUe_boot h]
  refine ⟨?_, ?_, fun hf => ⟨_, errWrite_recs (s := imageMarked s w) hf (by simp [mkErr]), rfl, rfl, rfl, rfl⟩⟩
  · rw [errWrite_log (show 0 < 2 by decide)]
    rfl
  · rw [errWrite_log (show 0 < 2 by decide)]
    rfl

theorem pbUe_ring {w : Nat} (hb : bootPage s (w / 512) = false) (h : w / 512 < 256) :
    pbUe s w 0 = pbRegen s (w / 512) := by
  simp [pbUe, hb, h]

/-- The page of a word just gone bad is good again once rewritten (R78). -/
theorem pbRegen_poisonPb (s : State) (off : Nat) : pbRegen (poisonPb s off) (off / 8 / 512) =
    corrected { s with pbPoison := s.pbPoison.filter (fun w => w / 512 != off / 8 / 512) } 9 5
      (pbHalf s (off / 8 / 512)) (off / 8 / 512 * 4096) 0 := by
  unfold pbRegen
  rw [poisonPb_filter, poisonPb_frame]
  rfl

theorem pbUe_unmapped {w : Nat} (hb : bootPage s (w / 512) = false) (h : 256 ≤ w / 512)
    (he : pbEntry s (w / 512) = none) :
    pbUe s w 0 = s := by
  have : ¬w / 512 < 256 := by omega
  simp [pbUe, hb, this, he]

theorem pbUe_window {w : Nat} {e : WtEntry} (hb : bootPage s (w / 512) = false) (h : 256 ≤ w / 512)
    (he : pbEntry s (w / 512) = some e) : LosesCtx s (pbUe s w 0) e.ctx 8 (fun r => r.unit = 5 ∧
      r.addr = BitVec.ofNat 40 (8 * w)) := by
  have hu : pbUe s w 0 = ctxError s e.ctx
      (mkErr s 2 0x0008 Status.contextLost.code 5 (pbHalf s (w / 512)) (8 * w) 0 (some e.ctx)) .contextLost none := by
    have : ¬w / 512 < 256 := by omega
    simp [pbUe, hb, this, he]
  rw [hu]
  exact ctxError_loses s e.ctx _ none _ rfl rfl rfl fun _ _ _ => ⟨rfl, rfl⟩

/-! ## The log ring (R411) -/

theorem natBytes_length (v n : Nat) : (natBytes v n).length = n := by
  induction n generalizing v with
  | zero => rfl
  | succ n ih => simp [natBytes, ih]

/-- A record that waits becomes the log's last record, at the slot given. -/
theorem acceptWaiting_frame (s : State) (r : ErrRec) (i : Nat) (v : Bool) :
    acceptWaiting s r i v = { s with log := s.log.take r i v, ctxs := (acceptWaiting s r i v).ctxs } := by
  unfold acceptWaiting
  dsimp only
  split
  · split <;> rfl
  · rfl

theorem heldEnters_frame (s : State) : heldEnters s =
    { s with log := { s.log with heldOrd := (heldEnters s).log.heldOrd, overQ := (heldEnters s).log.overQ }
             ctxs := (heldEnters s).ctxs } := by
  unfold heldEnters
  split
  · rfl
  · split
    · split <;> rfl
    · rfl

theorem waitingEnters_frame (s : State) : waitingEnters s =
    { s with log := (waitingEnters s).log, ctxs := (waitingEnters s).ctxs } := by
  unfold waitingEnters
  split
  · rfl
  · split
    · rfl
    · rw [heldEnters_frame, acceptWaiting_frame]

theorem waitingEnters_pb (s : State) : (waitingEnters s).pb = s.pb := by
  rw [waitingEnters_frame]

theorem waitingEnters_empty (h : s.log.overQ = []) : waitingEnters s = s := by
  simp [waitingEnters, h]

theorem waitingEnters_full {w ws} (h : s.log.overQ = w :: ws) (hs : s.log.slotFor w.cls = none) :
    waitingEnters s = s := by
  simp [waitingEnters, h, hs]

theorem waitingEnters_recs {w ws i v} (h : s.log.overQ = w :: ws) (hs : s.log.slotFor w.cls = some (i, v)) :
    (waitingEnters s).log.recs = s.log.recs ++ [{ w with idx := i, resv := v, seq := s.log.written + 1 }] := by
  unfold waitingEnters
  rw [h]
  dsimp only
  rw [hs]
  dsimp only
  rw [heldEnters_frame, acceptWaiting_frame]
  rfl

/-! ## ERR_RING_CFG (R417) -/

/-- Byte by byte under the mask: an empty mask takes the new value, a full one keeps the old. -/
theorem merge32_none (w v : W32) : merge32 w v 0 = v := by
  apply BitVec.eq_of_toNat_eq
  have := v.isLt
  simp [merge32, maskBytes, List.range, List.range.loop, leNat, Nat.shiftRight_eq_div_pow]
  omega

theorem merge32_all (w v : W32) : merge32 w v 15 = w := by
  apply BitVec.eq_of_toNat_eq
  have := w.isLt
  simp [merge32, maskBytes, List.range, List.range.loop, leNat, Nat.shiftRight_eq_div_pow, Nat.testBit]
  omega

/-- Two values agree in page and size exactly when their difference has none of those bits. -/
theorem ringFields_eq (w c : W32) : bits w 31 15 = bits c 31 15 ↔ (w ^^^ c) &&& 0xFFFF8000 = 0 := by
  have hb (x : W32) : bits x 31 15 = (x >>> 15).toNat := by
    have := x.isLt
    simp only [bits, BitVec.toNat_ushiftRight, Nat.shiftRight_eq_div_pow]
    omega
  have hm : ∀ i < 17, (0xFFFF8000 : W32).getLsbD (15 + i) = true := by decide
  have hlow : ∀ i < 15, (0xFFFF8000 : W32).getLsbD i = false := by decide
  rw [hb, hb, BitVec.toNat_inj]
  constructor
  · intro h
    apply BitVec.eq_of_getLsbD_eq
    intro i hi
    have h0 : (0 : W32).getLsbD i = false := BitVec.getLsbD_zero
    rw [BitVec.getLsbD_and, BitVec.getLsbD_xor, h0]
    by_cases hl : i < 15
    · rw [hlow i hl, Bool.and_false]
    · have := congrArg (fun x => x.getLsbD (i - 15)) h
      simp only [BitVec.getLsbD_ushiftRight, show 15 + (i - 15) = i by omega] at this
      rw [this, Bool.xor_self, Bool.false_and]
  · intro h
    apply BitVec.eq_of_getLsbD_eq
    intro i hi
    by_cases hl : i < 17
    · have := congrArg (fun x => x.getLsbD (15 + i)) h
      simp only [BitVec.getLsbD_and, BitVec.getLsbD_xor, hm i hl, Bool.and_true] at this
      simpa using this
    · rw [BitVec.getLsbD_ushiftRight, BitVec.getLsbD_ushiftRight, BitVec.getLsbD_of_ge _ _ (by omega),
        BitVec.getLsbD_of_ge _ _ (by omega)]

theorem ringCfgWrite_kept {v m} (he : bit s.log.ringCfg 0 = true)
    (hb : bits (merge32 s.log.ringCfg v m &&& 0xFFFF8001) 31 15 ≠ bits s.log.ringCfg 31 15) :
    ringCfgWrite s v m = s := by
  have : (((merge32 s.log.ringCfg v m &&& 0xFFFF8001) ^^^ s.log.ringCfg) &&& 0xFFFF8000) ≠ 0 :=
    fun h => hb ((ringFields_eq _ _).2 h)
  unfold ringCfgWrite
  extract_lets w
  rw [if_pos (by rw [he, Bool.true_and]; exact bne_iff_ne.2 this)]

theorem ringCfgWrite_taken {v m} (h : bit s.log.ringCfg 0 = false ∨
    bits (merge32 s.log.ringCfg v m &&& 0xFFFF8001) 31 15 = bits s.log.ringCfg 31 15) : ringCfgWrite s v m =
      { s with log := { s.log with ringCfg := merge32 s.log.ringCfg v m &&& 0xFFFF8001 } } := by
  unfold ringCfgWrite
  extract_lets w
  refine if_neg ?_
  rcases h with h | h
  · rw [h]
    simp
  · have : ((w ^^^ s.log.ringCfg) &&& 0xFFFF8000) = 0 := (ringFields_eq _ _).1 h
    rw [this]
    simp

/-! ## Table entries (R278) -/

theorem graphDir_none {ctx gid} (h : tfind s.graphs (graphKey ctx gid) = none) :
    errorDetectOp s (.graphDir ctx gid) = s := by
  simp [errorDetectOp, h]

theorem graphDir_some {ctx gid g} (h : tfind s.graphs (graphKey ctx gid) = some g) :
    errorDetectOp s (.graphDir ctx gid) = tableOp s ctx 6 (dirAt g.dir) := by
  simp [errorDetectOp, h]

theorem seqEntry_none {i} (h : tfind s.seqs i = none) : errorDetectOp s (.seqEntry i) = s := by
  simp [errorDetectOp, h]

theorem seqEntry_some {i x} (h : tfind s.seqs i = some x) :
    errorDetectOp s (.seqEntry i) = tableOp s x.ctx 6 (seqAt i) := by
  simp [errorDetectOp, h]

theorem ctxTableOp_loses (s : State) (ctx : Nat) : LosesCtx s (ctxTableOp s ctx) ctx 2 (fun r => r.unit = 7) := by
  unfold ctxTableOp
  split
  next v u e =>
    cases e
    exact (tableOp_loses _ ctx 7 _).of_eq rfl rfl

/-! ## Fatal errors of tables (R408) -/

/-- FATAL depends on the log and the context table of the state before alone. -/
theorem Fatal.of_eq {code unit addr} (h : Fatal s t code unit addr) (hl : s.log = u.log) (hc : s.ctxs = u.ctxs) :
    Fatal u t code unit addr := by
  unfold Fatal AppendsFirst at *
  rwa [hl, hc] at h

theorem windowTable_fatal (s : State) (i : Nat) : Fatal s (errorDetectOp s (.windowTable i)) 2 4 0 ∧
    tfind (errorDetectOp s (.windowTable i)).wt.table i = none := by
  unfold errorDetectOp
  dsimp only
  generalize hv : { s with wt := { s.wt with table := tdel s.wt.table i } } = v
  obtain ⟨hf, hw⟩ := fatalError_fatal v 2 4 0 0 0
  refine ⟨hf.of_eq (by rw [← hv]) (by rw [← hv]), ?_⟩
  rw [hw, ← hv]
  exact tfind_tdel_same _ _

theorem fenceEntry_fatal (s : State) (f : Nat) : Fatal s (errorDetectOp s (.fenceEntry f)) 2 6 (fenceAt f) :=
  (fatalError_fatal (modFence s f _) 2 6 0 (fenceAt f) 0).1.of_eq rfl rfl

end Sys2Proof.Machine
end

section
namespace Sys2Proof.Machine

set_option Elab.async false

variable {s t u : State}

/-! ## The front end (R18, Table 1-3) -/

theorem event_eq_log (s : State) (code status unit inst addr info : Nat) (ctx : Option Nat) :
    event s code status unit inst addr info ctx =
      { s with log := (event s code status unit inst addr info ctx).log } := errWrite_log (show 0 < 2 by decide)

theorem event_appends (s : State) (code status unit inst addr info : Nat) (ctx : Option Nat) :
    Appends s (event s code status unit inst addr info ctx)
      (fun r => r.code = code ∧ r.unit = unit ∧ r.info = BitVec.ofNat 32 info) := fun hf =>
  ⟨_, errWrite_recs hf (by simp [mkErr]), rfl, rfl, rfl⟩

theorem feRestartOp_again (h : s.fw.feReloading = true) : feRestartOp s = s := by
  simp [feRestartOp, h]

/-- Launches not issued, and commands that no launch carries, are lost. -/
theorem feRestartOp_eq (h : s.fw.feReloading = false) : feRestartOp s =
    { s with
      irq := (raise s .feRestart).irq, log := (event s 0x0020 0 6 0 0 0 none).log
      fw := { s.fw with
        feReloading := true
        feLost := tkeys s.cmds (fun id _ => !(s.insts.any (·.2.cmd == some id)) && !thas s.graphs (retiredKey id))
        feLostInsts := tkeys s.insts (fun _ x => !x.issued) } } := by
  unfold feRestartOp
  rw [if_neg (by simp [h])]
  dsimp only
  rw [event_eq_log]
  rfl

theorem lostInsts_iff (s : State) (i : Nat) :
    i ∈ tkeys s.insts (fun _ x => !x.issued) ↔ ∃ x, (i, x) ∈ s.insts ∧ x.issued = false := by
  simp [mem_tkeys]

theorem lostCmds_iff (s : State) (i : Nat) :
    i ∈ tkeys s.cmds (fun id _ => !(s.insts.any (·.2.cmd == some id)) && !thas s.graphs (retiredKey id)) ↔
      (∃ c, (i, c) ∈ s.cmds) ∧ (∀ e ∈ s.insts, e.2.cmd ≠ some i) ∧ thas s.graphs (retiredKey i) = false := by
  rw [mem_tkeys, exists_and_right]
  simp

/-- A DEADLINE_MISS of a monitored launch changes the log and the monitors. -/
theorem monMiss_frame (s : State) (m : Option Nat) (ctx : Nat) (sc : BitVec 48) :
    monMiss s m ctx sc = { s with log := (monMiss s m ctx sc).log, mons := (monMiss s m ctx sc).mons } := by
  unfold monMiss
  split
  · rfl
  · split
    · rfl
    · split
      · rw [event_eq_log]
        rfl
      · rfl

theorem releaseCmd_frame (s : State) (c : Cmd) : releaseCmd s c =
    { s with objs := (releaseCmd s c).objs, fences := (releaseCmd s c).fences } := by
  have hf : ∀ (l : List Nat) (v : State), l.foldl fenceUnref v =
      { v with fences := (l.foldl fenceUnref v).fences } := by
    intro l
    induction l with
    | nil => exact fun _ => rfl
    | cons x l ih => exact fun v => by rw [List.foldl_cons, ih]; rfl
  have ho : ∀ (l : List Nat) (v : State), l.foldl objUnref v =
      { v with objs := (l.foldl objUnref v).objs } := by
    intro l
    induction l with
    | nil => exact fun _ => rfl
    | cons x l ih => exact fun v => by rw [List.foldl_cons, ih]; rfl
  unfold releaseCmd
  rw [hf, ho]

theorem pbStore_writes (s : State) (off : Nat) (d : List Byte) : (pbStore s off d).cmds = s.cmds ∧
    (pbStore s off d).pb = mwrites s.pb off d ∧ (pbStore s off d).queues = s.queues := ⟨rfl, rfl, rfl⟩

/-- A record in the ring: its bytes, and its queue's counts. -/
theorem recInRing_writes (s : State) (r : Rec) (q : Queue) (e : WtEntry) :
    (recInRing s r q e).cmds = s.cmds ∧
    (recInRing s r q e).pb =
      mwrites s.pb (e.pbByte q.nextPlace) (r.bytes s q.ctx (q.recs + 1).toNat r.status.code 0) ∧
    (recInRing s r q e).queues =
      tmod s.queues r.queue {} (fun q => { q with recs := q.recs + 1, resv := q.resv - 1 }) := by
  unfold recInRing
  extract_lets s1 s2 s3
  have h1 : s1.cmds = s.cmds ∧ s1.pb = mwrites s.pb (e.pbByte q.nextPlace)
      (r.bytes s q.ctx (q.recs + 1).toNat r.status.code 0) ∧ s1.queues = s.queues :=
    pbStore_writes _ _ _
  clear_value s1
  obtain ⟨hc, hp, hq⟩ := h1
  have h2 : s2.cmds = s.cmds ∧ s2.pb = mwrites s.pb (e.pbByte q.nextPlace)
        (r.bytes s q.ctx (q.recs + 1).toNat r.status.code 0) ∧
      s2.queues = tmod s.queues r.queue {} (fun q => { q with recs := q.recs + 1, resv := q.resv - 1 }) := by
    rw [← hc, ← hp, ← hq]
    exact ⟨rfl, rfl, rfl⟩
  have h3 : s3.cmds = s2.cmds ∧ s3.pb = s2.pb ∧ s3.queues = s2.queues := by
    unfold s3
    clear_value s2
    split
    · exact ⟨rfl, rfl, rfl⟩
    · exact ⟨rfl, rfl, rfl⟩
  clear_value s2 s3
  obtain ⟨h3c, h3p, h3q⟩ := h3
  rw [← h3c, ← h3p, ← h3q] at h2
  split
  · exact h2
  · exact h2

/-- A queue that is LIVE stays. -/
theorem queueSettle_live {q} (h : (queueOf s q).st = .live) : queueSettle s q = s := by
  simp [queueSettle, h]

theorem Rec.bytes_length (s : State) (r : Rec) (ctx seq status orig : Nat) :
    (r.bytes s ctx seq status orig).length = 32 :=
  natBytes_length _ _

/-- A record with a ring place goes there (R101). -/
theorem writeRec_ring {r : Rec} {q : Queue} {e : WtEntry} (hr : queueOf s r.queue = q) (hq : q.st ≠ .free)
    (he : placeEntry s q = some e) : writeRec s r = recInRing s r q e := by
  unfold writeRec
  rw [hr]
  dsimp only
  rw [if_neg hq, he]

/-- The completion of a command. -/
def cmdRec (c : Cmd) (st : Status) (errIdx : BitVec 16) : Rec :=
  { queue := c.queue, tag := dTag c.desc, sig := sigOf c.sig c.desc (dSigVal c.desc), status := st, errIdx := errIdx }

theorem cmdEnd_eq {id st errIdx} {c : Cmd} (h : tfind s.cmds id = some c) : cmdEnd s id st errIdx =
    queueSettle (releaseCmd (writeRec { s with cmds := tdel s.cmds id } (cmdRec c st errIdx)) c) c.queue := by
  unfold cmdEnd
  rw [h]
  rfl

/-- The completion's bytes read the clocks alone. -/
theorem Rec.bytes_of_clk {r : Rec} {ctx seq status orig : Nat} (h : t.clk = s.clk) :
    r.bytes t ctx seq status orig = r.bytes s ctx seq status orig := by
  unfold Rec.bytes stamp domCount
  rw [h]

theorem placeEntry_of_wt {q : Queue} (h : t.wt = s.wt) : placeEntry t q = placeEntry s q := by
  unfold placeEntry apEntry
  rw [h]

/-- A command of a LIVE queue with a ring place ends with its record there (R100). -/
theorem cmdEnd_completes {id st} {c : Cmd} {e : WtEntry} (hc : tfind s.cmds id = some c) (hw : Memory.wf s.pb = true)
    (hq : (queueOf s c.queue).st = .live) (he : placeEntry s (queueOf s c.queue) = some e) :
    Completes s (cmdEnd s id st 0xFFFF) id c e st ∧ (cmdEnd s id st 0xFFFF).cmds = tdel s.cmds id := by
  have hend := cmdEnd_eq (st := st) (errIdx := 0xFFFF) hc
  obtain ⟨u, hu⟩ : ∃ u, u = { s with cmds := tdel s.cmds id } := ⟨_, rfl⟩
  have huq : queueOf u c.queue = queueOf s c.queue := by rw [hu]; rfl
  rw [← hu, writeRec_ring (r := cmdRec c st 0xFFFF) huq (by rw [hq]; decide)
    ((placeEntry_of_wt (by rw [hu])).trans he)] at hend
  obtain ⟨hcm, hpb, hqs⟩ := recInRing_writes u (cmdRec c st 0xFFFF) (queueOf s c.queue) e
  generalize recInRing u (cmdRec c st 0xFFFF) (queueOf s c.queue) e = v at hend hcm hpb hqs
  have hv : queueOf v c.queue = { queueOf s c.queue with
      recs := (queueOf s c.queue).recs + 1, resv := (queueOf s c.queue).resv - 1 } := by
    rw [← huq]
    unfold queueOf
    rw [hqs]
    exact tget_tmod_same _ _ _ _
  have hcmds : v.cmds = tdel s.cmds id := by rw [hcm, hu]
  have hbytes : (cmdRec c st 0xFFFF).bytes u (queueOf s c.queue).ctx ((queueOf s c.queue).recs + 1).toNat st.code 0 =
      ringRecord s c st 0xFFFF := Rec.bytes_of_clk (by rw [hu])
  have hl : (ringRecord s c st 0xFFFF).length = 32 := Rec.bytes_length _ _ _ _ _ _
  have hpb' : v.pb = mwrites s.pb (e.pbByte (queueOf s c.queue).nextPlace) (ringRecord s c st 0xFFFF) := by
    rw [hpb, ← hbytes, hu]
    rfl
  rw [releaseCmd_frame, queueSettle_live (s := { v with objs := _, fences := _ }) (by exact hv ▸ hq)] at hend
  rw [hend]
  refine ⟨⟨?_, fun j hj => ?_, congrArg Queue.recs hv, fun i hi => ?_⟩, hcmds⟩
  · exact hcmds ▸ tfind_tdel_same _ _
  · exact hcmds ▸ (tfind_tdel _ _ _).trans (if_neg hj)
  · show mget v.pb _ = _
    rw [hpb', mget_mwrites hw, if_pos (by omega), Nat.add_sub_cancel_left]

theorem ringRecord_of_eq {c st errIdx} (hq : t.queues = s.queues) (hk : t.clk = s.clk) :
    ringRecord t c st errIdx = ringRecord s c st errIdx := by
  unfold ringRecord
  rw [Rec.bytes_of_clk hk]
  unfold queueOf
  rw [hq]

/-- The end of a command depends on the commands, the queues and the clocks of the state before alone. -/
theorem Completes.of_eq {id c e st} (h : Completes t u id c e st) (hc : t.cmds = s.cmds) (hq : t.queues = s.queues)
    (hk : t.clk = s.clk) : Completes s u id c e st := by
  unfold Completes at *
  rw [ringRecord_of_eq hq hk, hc] at h
  unfold queueOf at *
  rwa [hq] at h

theorem cmdDone_completes {id st} {c : Cmd} {e : WtEntry} (hc : tfind s.cmds id = some c) (hw : Memory.wf s.pb = true)
    (hq : (queueOf s c.queue).st = .live) (he : placeEntry s (queueOf s c.queue) = some e) :
    Completes s (cmdDone s id st 0xFFFF) id c e st ∧ (cmdDone s id st 0xFFFF).cmds = tdel s.cmds id := by
  have hm := monMiss_frame s (if dOp c.desc = 1 then monOf s c.ctx (dGid c.desc) else none) c.ctx c.s
  unfold cmdDone
  rw [hc]
  dsimp only
  generalize monMiss s (if dOp c.desc = 1 then monOf s c.ctx (dGid c.desc) else none) c.ctx c.s = v at hm
  have hvc : v.cmds = s.cmds := by rw [hm]
  have hvq : v.queues = s.queues := by rw [hm]
  have hqo : queueOf v c.queue = queueOf s c.queue := by unfold queueOf; rw [hvq]
  have hd := cmdEnd_completes (s := v) (st := st) (e := e) (hvc ▸ hc) (by rw [hm]; exact hw) (hqo ▸ hq)
    (by rw [hqo, placeEntry_of_wt (s := s) (by rw [hm])]; exact he)
  exact ⟨hd.1.of_eq hvc hvq (by rw [hm]), hvc ▸ hd.2⟩

theorem feReloadOp_idle (h : s.fw.feReloading = false) : feReloadOp s = s := by
  simp [feReloadOp, h]

/-- The end of a reload with no launch lost and no command held: the lost commands end one after another. -/
theorem feReloadOp_eq (h : s.fw.feReloading = true) (hh : s.fw.feHeld = []) (hi : s.fw.feLostInsts = []) :
    feReloadOp s = resolveHeld (s.fw.feLost.foldl (fun s c => cmdDone s c .preempted 0xFFFF)
      { s with fw := { s.fw with feReloading := false, feLost := [] } }) := by
  unfold feReloadOp
  rw [if_pos h]
  dsimp only [finishAll]
  rw [hh, hi]
  rfl

/-- Nothing lost and nothing held: dispatch resumes. -/
theorem feReloadOp_none (h : s.fw.feReloading = true) (hh : s.fw.feHeld = []) (hi : s.fw.feLostInsts = [])
    (hr : s.cmds.all (fun e => !e.2.unresolved) = true) (hl : s.fw.feLost = []) :
    feReloadOp s = { s with fw := { s.fw with feReloading := false } } := by
  rw [feReloadOp_eq h hh hi, hl, List.foldl_nil]
  rw [resolveHeld_id]
  · rw [← hl]
  · exact hr

theorem feReloadOp_one {id} {c : Cmd} {e : WtEntry} (h : s.fw.feReloading = true) (hh : s.fw.feHeld = [])
    (hi : s.fw.feLostInsts = []) (hr : s.cmds.all (fun e => !e.2.unresolved) = true) (hl : s.fw.feLost = [id])
    (hc : tfind s.cmds id = some c) (hw : Memory.wf s.pb = true) (hq : (queueOf s c.queue).st = .live)
    (he : placeEntry s (queueOf s c.queue) = some e) :
    (feReloadOp s).fw = { s.fw with feReloading := false, feLost := [] } ∧
      Completes s (feReloadOp s) id c e .preempted := by
  have ⟨v, hv⟩ : ∃ v, v = { s with fw := { s.fw with feReloading := false, feLost := [] } } := ⟨_, rfl⟩
  have hd := cmdDone_completes (s := v) (id := id) (st := .preempted) (e := e) (by rw [hv]; exact hc)
    (by rw [hv]; exact hw) (by rw [hv]; exact hq) (by rw [hv]; exact he)
  have ho : feReloadOp s = cmdDone v id .preempted 0xFFFF := by
    rw [feReloadOp_eq h hh hi, hl, ← hv, List.foldl_cons, List.foldl_nil, resolveHeld_id]
    rw [hd.2, hv]
    exact List.all_eq_true.2 fun x hx => List.all_eq_true.1 hr x (List.mem_of_mem_filter hx)
  rw [ho]
  refine ⟨?_, hd.1.of_eq (by rw [hv]) (by rw [hv]) (by rw [hv])⟩
  rw [(Later.cmdDone (.refl v)).fw, hv]

/-! ## The management firmware (R17) -/

theorem mgmtRestartOp_again (h : s.pwr.mgmtRestarting = true) : mgmtRestartOp s = s := by
  simp [mgmtRestartOp, h]

theorem mgmtRestartOp_eq (h : s.pwr.mgmtRestarting = false) : mgmtRestartOp s =
    { s with
      irq := (raise s .mgmtRestart).irq, log := (event s 0x0020 0 7 0 0 1 none).log
      pwr := { s.pwr with mgmtRestarting := true, mgmtRestarts := satInc s.pwr.mgmtRestarts } } := by
  unfold mgmtRestartOp
  rw [if_neg (by simp [h])]
  dsimp only
  rw [event_eq_log]
  rfl

theorem mgmtDoneAll_idle (h : s.pwr.mgmtRestarting = false) : mgmtDoneAll s = s := by
  simp [mgmtDoneAll, h]

/-- With no command held and no RETAIN asked, the firmware runs again, with the host limit that was held. -/
theorem mgmtDoneAll_eq (h : s.pwr.mgmtRestarting = true) (hm : s.fw.mgmtHeld = []) (hr : s.pwr.retain = false)
    (hz : s.fw.zeroedHeld = []) : mgmtDoneAll s =
      { s with
        pwr := { s.pwr with mgmtRestarting := false, hostLim := s.fw.limHeld.getD s.pwr.hostLim }
        fw := { s.fw with limHeld := none } } := by
  unfold mgmtDoneAll mgmtDoneOp retainTake
  simp only [h, hm, hz, Bool.not_true, Bool.false_eq_true, if_false, if_true, List.foldl_nil]
  rw [← hm, ← hz]
  cases s.fw.limHeld with
  | none => simp [hr]
  | some v => simp [hr]

theorem mgmtDoneAll_none (h : s.pwr.mgmtRestarting = true) (hm : s.fw.mgmtHeld = []) (hr : s.pwr.retain = false)
    (hz : s.fw.zeroedHeld = []) (hl : s.fw.limHeld = none) :
    mgmtDoneAll s = { s with pwr := { s.pwr with mgmtRestarting := false } } := by
  rw [mgmtDoneAll_eq h hm hr hz]
  simp only [hl, Option.getD_none]
  rw [← hl]

theorem mgmtDoneAll_held {v} (h : s.pwr.mgmtRestarting = true) (hm : s.fw.mgmtHeld = []) (hr : s.pwr.retain = false)
    (hz : s.fw.zeroedHeld = []) (hl : s.fw.limHeld = some v) : mgmtDoneAll s =
      { s with pwr := { s.pwr with mgmtRestarting := false, hostLim := v }, fw := { s.fw with limHeld := none } } := by
  rw [mgmtDoneAll_eq h hm hr hz, hl]
  rfl

/-! ## The security processor (R381, R387) -/

theorem mailFail_empty (h : s.sec.heldCmds = []) : mailFail s = s := by
  simp [mailFail, h]

theorem mailFail_first {c l} (h : s.sec.heldCmds = c :: l) : mailFail s =
    { s with sec := { s.sec with heldCmds := [], stat := done (scTag c.2) .secFault 0 } } := by
  unfold mailFail
  rw [h]
  rfl

/-- A request in the mailbox fails, and nothing else changes. -/
theorem mailFail_frame (s : State) : mailFail s =
    { s with sec := { s.sec with heldCmds := [], stat := (mailFail s).sec.stat } } := by
  cases h : s.sec.heldCmds with
  | nil =>
    rw [mailFail_empty h, ← h]
  | cons c l => rw [mailFail_first h]

theorem mailFail_stat_of_sec (h : t.sec = s.sec) : (mailFail t).sec.stat = (mailFail s).sec.stat := by
  cases hc : s.sec.heldCmds with
  | nil => rw [mailFail_empty hc, mailFail_empty (h ▸ hc), h]
  | cons c l => rw [mailFail_first hc, mailFail_first (s := t) (h ▸ hc)]

theorem secFaultOp_idle (h : s.sec.load = none) : secFaultOp s =
    { s with
      log := (event s 0x0020 0 8 0 0 2 none).log, free := s.free + 1
      sec := { s.sec with
        heldCmds := [], stat := (mailFail s).sec.stat
        downUntil := some (s.clk.now + 1 + (Config.freeValue s.free).toNat) } } := by
  have hs : (mailFail (event s 0x0020 0 8 0 0 2 none)).sec.stat = (mailFail s).sec.stat :=
    mailFail_stat_of_sec (by rw [event_eq_log])
  unfold secFaultOp
  rw [mailFail_frame, hs, event_eq_log]
  dsimp only
  rw [h]
  rfl

/-! ### Zeroing device memory does not read the log -/

theorem macTouch_withLog (s : State) (l : Log) (a : Nat) (b : Bool) :
    macTouch { s with log := l } a b = { macTouch s a b with log := l } := by
  unfold macTouch
  rw [show macLoc { s with log := l } a = macLoc s a from rfl]
  split <;> rfl

theorem dramMask_withLog (s : State) (l : Log) (a : Nat) (d : List (Option Byte)) :
    dramMask { s with log := l } a d = { dramMask s a d with log := l } := by
  unfold dramMask
  rw [← macTouch_withLog]

theorem dramPut_withLog (s : State) (l : Log) (a : Nat) (d : List Byte) :
    dramPut { s with log := l } a d = { dramPut s a d with log := l } := by
  unfold dramPut
  rw [← macTouch_withLog]

theorem wcFlush_withLog (s : State) (l : Log) (a : Nat) :
    wcFlush { s with log := l } a = { wcFlush s a with log := l } := by
  unfold wcFlush
  rw [show chanOf { s with log := l } a = chanOf s a from rfl, show wcLine { s with log := l } a = wcLine s a from rfl]
  split
  · rw [← dramMask_withLog]
  · rfl

theorem l2Evict_withLog (s : State) (l : Log) (k : Nat) :
    l2Evict { s with log := l } k = { l2Evict s k with log := l } := by
  unfold l2Evict
  dsimp only
  split
  · rfl
  next x _ =>
    rw [show l2Addr { s with log := l } k x.tag = l2Addr s k x.tag from rfl]
    split
    · rfl
    · split
      · rw [← dramPut_withLog]
      · rfl

theorem foldl_withLog {f : State → Nat → State} {l : Log}
    (hf : ∀ s a, f { s with log := l } a = { f s a with log := l }) (as : List Nat) (s : State) :
    as.foldl f { s with log := l } = { as.foldl f s with log := l } := by
  induction as generalizing s with
  | nil => rfl
  | cons a as ih => rw [List.foldl_cons, hf, ih, List.foldl_cons]

theorem dmZero_withLog (s : State) (l : Log) (a n : Nat) :
    dmZero { s with log := l } a n = { dmZero s a n with log := l } := by
  unfold dmZero
  dsimp only
  have hk (s : State) (p : Nat → Bool) : l2Keys { s with log := l } p = l2Keys s p := rfl
  have hw (s : State) (p : Nat → Bool) : wcAddrs { s with log := l } p = wcAddrs s p := rfl
  rw [hk, foldl_withLog (fun s a => l2Evict_withLog s l a), hw, foldl_withLog (fun s a => wcFlush_withLog s l a), hk]

/-- A load under way is zeroed, and ends with SEC_FAULT. -/
theorem secFaultOp_loading {l : WLoad} (h : s.sec.load = some l) (hd : s.sec.deferred = []) (hh : s.sec.heldCmds = []) :
    (secFaultOp s).sec = { s.sec with
      load := none, downUntil := some (s.clk.now + 1 + (Config.freeValue s.free).toNat)
      stat := { s.sec.stat with result := .secFault, busy := false } } ∧
    (secFaultOp s).mem = (dmZero s l.dstAt (min (whPlain l.header) (l.next * 2 ^ whLog l.header))).mem ∧
    (secFaultOp s).log = (event s 0x0020 0 8 0 0 2 none).log := by
  unfold secFaultOp
  rw [mailFail_empty (by rw [event_eq_log]; exact hh), event_eq_log]
  dsimp only
  rw [h]
  dsimp only
  unfold loadAbort loadFinish
  rw [dmZero_withLog, dmZero_frame]
  dsimp only
  rw [hd]
  dsimp only [List.foldl_nil]
  exact ⟨by rw [← hd]; rfl, rfl, rfl⟩

/-! ## Injection (R414) -/

theorem injectedOp_off {addr} (h : bits s.log.inject 1 0 = 0 ∨ bits s.log.inject 1 0 = 3 ∨
    injectHits s (bits s.log.inject 21 16) (bits s.log.inject 13 8) addr = false) : injectedOp s addr = s := by
  unfold injectedOp
  dsimp only
  refine if_pos ?_
  rcases h with h | h | h
  · simp [h]
  · simp [h]
  · simp [h]

/-- ERR_INJECT once its write has landed: no kind is armed. -/
def disarmed (s : State) : State := { s with log := { s.log with inject := s.log.inject &&& 0xFFFFFFFC } }

/-- One flipped bit is corrected where it is read, and an array the model does not keep word by word shows neither. -/
theorem injectedOp_clean {addr} (hh : injectHits s (bits s.log.inject 21 16) (bits s.log.inject 13 8) addr = true)
    (h : bits s.log.inject 1 0 = 1 ∨ bits s.log.inject 1 0 = 2 ∧ bits s.log.inject 21 16 ≠ 1 ∧
      bits s.log.inject 21 16 ≠ 2 ∧ bits s.log.inject 21 16 ≠ 5) : injectedOp s addr = disarmed s := by
  unfold injectedOp
  dsimp only
  rcases h with h | ⟨h, h1, h2, h5⟩
  · rw [if_neg (by simp [h, hh]), if_pos h]
    rfl
  · rw [if_neg (by simp [h, hh]), if_neg (by omega)]
    split
    · exact absurd ‹_› h1
    · exact absurd ‹_› h2
    · exact absurd ‹_› h5
    · rfl

/-! Two flipped bits make the word uncorrectable, in the array the unit names. -/

theorem injectedOp_pb {addr} (hh : injectHits s (bits s.log.inject 21 16) (bits s.log.inject 13 8) addr = true)
    (h : bits s.log.inject 1 0 = 2) (hu : bits s.log.inject 21 16 = 5) :
    injectedOp s addr = poisonPb (disarmed s) addr := by
  unfold injectedOp
  dsimp only
  rw [if_neg (by simp [h, hh]), if_neg (by omega), hu]
  rfl

theorem injectedOp_stacked {addr} (hh : injectHits s (bits s.log.inject 21 16) (bits s.log.inject 13 8) addr = true)
    (h : bits s.log.inject 1 0 = 2) (hu : bits s.log.inject 21 16 = 1) :
    injectedOp s addr = poisonWord (disarmed s) (addr / 8 * 8) := by
  unfold injectedOp
  dsimp only
  rw [if_neg (by simp [h, hh]), if_neg (by omega), hu]
  rfl

theorem injectedOp_line {addr} (hh : injectHits s (bits s.log.inject 21 16) (bits s.log.inject 13 8) addr = true)
    (h : bits s.log.inject 1 0 = 2) (hu : bits s.log.inject 21 16 = 2) :
    injectedOp s addr = poisonWord (l2Fill (disarmed s) addr) (addr / 8 * 8) := by
  unfold injectedOp
  dsimp only
  rw [if_neg (by simp [h, hh]), if_neg (by omega), hu]
  rfl

/-! ## LOG_DRAIN (R411) -/

theorem logDrainOp_off (h : bit s.log.ringCfg 0 = false ∨ s.pwr.mgmtRestarting = true ∨ ringMapped s = false ∨
    s.log.recs = []) : logDrainOp s = s := by
  unfold logDrainOp
  rcases h with h | h | h | h
  · rw [if_pos (by simp [h])]
  · rw [if_pos (by simp [h])]
  · rw [if_pos (by simp [h])]
  · rw [h]
    exact ite_self s

/-- What stands once the next record is in its ring place and its log slot is free. -/
def drained (s : State) (p : Nat) (d : List Byte) (rest : List ErrRec) : State :=
  { pbStore s p d with log := { s.log with recs := rest, ringFull := false } }

theorem logDrainOp_eq {r rest} (he : bit s.log.ringCfg 0 = true) (hm : s.pwr.mgmtRestarting = false)
    (hr : ringMapped s = true) (hl : s.log.recs = r :: rest) : logDrainOp s =
      if 2 ^ ringLog s.log < (r.seq - s.log.ringHead).toNat then { s with log := { s.log with ringFull := true } }
      else waitingEnters
        (drained s (ringPage s.log * 4096 + 32 * ((r.seq - 1).toNat % 2 ^ ringLog s.log)) r.bytes rest) := by
  have hh : ringHeld s.log = decide (2 ^ ringLog s.log < (r.seq - s.log.ringHead).toNat) := by
    unfold ringHeld
    rw [hl]
  unfold logDrainOp
  rw [if_neg (by simp [he, hm, hr]), hl]
  dsimp only
  simp only [hh, decide_eq_true_eq]
  rfl

theorem drained_frame (s : State) (p : Nat) (d : List Byte) (rest : List ErrRec) : drained s p d rest =
    { s with
      pb := (drained s p d rest).pb, pbPoison := (drained s p d rest).pbPoison
      log := { s.log with recs := rest, ringFull := false } } := rfl

theorem drained_in {p d rest j} (hw : Memory.wf s.pb = true) (hj : j < d.length) :
    mget (drained s p d rest).pb (p + j) = d.getD j 0 :=
  (pbStore_in hw p j d hj).trans (List.getD_eq_getElem _ _ hj).symm

theorem drained_out {p d rest b} (hw : Memory.wf s.pb = true) (hb : b < p ∨ p + d.length ≤ b) :
    mget (drained s p d rest).pb b = mget s.pb b :=
  pbStore_out hw p b d hb

theorem ErrRec.bytes_length (r : ErrRec) : r.bytes.length = 32 := natBytes_length _ _

end Sys2Proof.Machine
end

section
namespace Sys2Proof.Machine

set_option Elab.async false

variable {s t u : State}

/-! ## The obligation -/

/-- A command of a running device answers what its operation gives. -/
theorem onLive_next {v : State} (h : s.runs = true) (e : v = t) : onLive s v = .next t := e ▸ onLive_runs h v

/-- Settles O59: `Later` says that ending work loses nothing already reported, so the record written first stands in the
log after every context the error ends; each clause then cites what its operation does. -/
theorem errorsAndRestarts : Obligations.ErrorsAndRestarts := by
  unfold Obligations.ErrorsAndRestarts
  refine ⟨?corrected, ?array, ?l1, ?memory, ?tamper, ?portBuffer, ?tables, ?fatal, ?drain, ?config, ?inject, ?firmware,
    ?security⟩
  case corrected =>
    intro s unit inst addr syn hrun
    refine ⟨fun h => onLive_next hrun (correctedOp_away h), fun h => ⟨_, onLive_next hrun (correctedOp_eq h), ?_⟩⟩
    obtain ⟨hcore, hss, hdram, hother⟩ := corrected_counts s (if unit = 3 then 5 else 1) unit inst
      (if unit = 3 then addr / 128 * 128 else ceAddr unit addr) (if unit = 3 then 0 else syn % 256)
    rw [hcore, hss, hdram, hother, Log.countCe_eq]
    refine ⟨corrected_frame _ _ _ _ _ _, ?_, fun hu => ?_, rfl, rfl, rfl, rfl⟩
    · refine (corrected_appends s _ unit inst _ _).mono ?_
      rintro r ⟨hcls, hcode, hunit, hinst, haddr, hinfo, hseq⟩
      refine ⟨hcls, hcode, hunit, hinst, haddr, ?_, hseq⟩
      rw [hinfo]
      split
      · rfl
      · rfl
    · rw [corrected_full _ _ _ _ _ hu, Log.countCe_eq]
      exact ⟨rfl, rfl⟩
  case array =>
    intro s core off wg hrun
    exact ⟨rfl, fun h => onLive_next hrun (wgArrayOp_away h),
      fun w hw hc => ⟨_, onLive_runs hrun _, wgArrayOp_loses hw hc⟩⟩
  case l1 =>
    intro s core addr instr hrun
    obtain ⟨hsame, hother⟩ := l1Op_cores s core instr addr
    refine ⟨l1Op s core instr addr, onLive_runs hrun _, l1Op_frame s core instr addr, hother, hsame,
      fun hi => ?_, fun hi => ?_, ?_⟩
    · rw [hsame, hi]
      exact tfind_tdel_same _ _
    · rw [hsame, hi]
      exact tfind_tdel_same _ _
    · refine ((corrected_appends (l1Dropped s core instr addr) 1 0 core 0 0).of_eq rfl).mono ?_
      exact fun r ⟨hcls, hcode, hunit, hinst, haddr, _⟩ => ⟨hcls, hcode, hunit, hinst, haddr⟩
  case memory =>
    intro s addr ctx hrun
    exact ⟨fun h => onLive_next hrun (memoryOp_link_away h),
      fun c hc hu => ⟨_, onLive_runs hrun _, memoryOp_link hc hu⟩,
      _, onLive_runs hrun _, memoryOp_poisons, memoryOp_word s addr ctx⟩
  case tamper =>
    rintro s u addr l cipher mac m own hrun rfl rfl
    refine ⟨fun h => onLive_next hrun (tamperOp_away h), ?_⟩
    rintro p k hk rfl rfl
    have ht := tamperOp_eq (cipher := cipher) (mac := mac) hk
    refine ⟨fun hm => onLive_next hrun (ht.trans (if_pos (bne_iff_ne.2 hm))), fun hm ho => ?_, fun hm ho => ?_⟩
    · exact onLive_next hrun (ht.trans ((if_neg (by simpa using hm)).trans (if_pos ho)))
    · refine ⟨_, onLive_next hrun (ht.trans ((if_neg (by simpa using hm)).trans (if_neg ho))), rfl, fun a hw => ?_⟩
      have := mget_mwrites hw (addr / 64 * 64) a
        (fit 64 (Config.xtsDec k.x1 k.x2 (BitVec.ofNat 128 (addr / 64 * 64 / 64)) cipher))
      rwa [fit_length] at this
  case portBuffer =>
    rintro s u off page hrun rfl rfl
    have hf := poisonPb_frame s off
    have hl : (poisonPb s off).log = s.log := by rw [hf]
    have hb : bootPage (poisonPb s off) (off / 8 / 512) = bootPage s (off / 8 / 512) := by rw [hf]; rfl
    have he : pbEntry (poisonPb s off) (off / 8 / 512) = pbEntry s (off / 8 / 512) := by rw [hf]; rfl
    refine ⟨poisonPb_bad, poisonPb_good, onLive_runs hrun _, fun h => ?_, fun h hp => ?_, fun h hp hn => ?_,
      fun e h hp hn => ?_⟩
    · obtain ⟨ht, hboot, ha⟩ := pbUe_boot_reports (hb.trans h)
      have hs : (poisonPb s off).boot = s.boot := by rw [hf]
      exact ⟨_, onLive_runs hrun _, ht, hs ▸ hboot, ha.of_eq hl⟩
    · refine ⟨_, onLive_next hrun ((pbUe_ring (hb.trans h) hp).trans (pbRegen_poisonPb s off)),
        corrected_frame _ _ _ _ _ _, Appends.mono (Appends.of_eq (corrected_appends _ _ _ _ _ _) ?_) ?_⟩
      · rfl
      · exact fun r ⟨hcls, hcode, hunit, _, haddr, _⟩ => ⟨hcls, hcode, hunit, haddr⟩
    · exact onLive_next hrun (pbUe_unmapped (hb.trans h) hp (he.trans hn))
    · exact ⟨_, onLive_runs hrun _, (pbUe_window (hb.trans h) hp (he.trans hn)).of_eq hl (by rw [hf])⟩
  case tables =>
    intro s ctx gid i k path hrun
    refine ⟨fun h => onLive_next hrun (graphDir_none h),
      fun g h => ⟨_, onLive_next hrun (graphDir_some h), tableOp_loses _ _ _ _⟩,
      fun h => onLive_next hrun (seqEntry_none h),
      fun x h => ⟨_, onLive_next hrun (seqEntry_some h), tableOp_loses _ _ _ _⟩,
      ⟨_, onLive_runs hrun _, ctxTableOp_loses s ctx⟩, ⟨_, onLive_runs hrun _, ?_⟩,
      fun h => onLive_next hrun (if_neg (by simp [h])),
      fun h => ⟨_, onLive_next hrun (if_pos h), corrected_frame _ _ _ _ _ _, ?_⟩⟩
    · exact ctxError_loses s ctx _ none _ rfl rfl rfl fun _ _ _ => ⟨rfl, rfl⟩
    · refine (corrected_appends s 10 1 0 0 k).mono ?_
      exact fun r ⟨hcls, hcode, hunit, _, _, hinfo, _⟩ => ⟨hcls, hcode, hunit, hinfo⟩
  case fatal =>
    intro s i hrun
    exact ⟨rfl, rfl, rfl, ⟨_, onLive_runs hrun _, windowTable_fatal s i⟩, ⟨_, onLive_runs hrun _, fenceEntry_fatal s i⟩,
      _, onLive_runs hrun _, (fatalError_fatal s 4 14 0 0 0).1⟩
  case drain =>
    intro s r rest p hrun
    refine ⟨fun h => onLive_next hrun (logDrainOp_off h), fun he hm hr hl hn =>
      onLive_next hrun ((logDrainOp_eq he hm hr hl).trans (if_pos hn)), fun he hm hr hl hn hw hp => ?_⟩
    subst hp
    refine ⟨_, drained s _ r.bytes rest, onLive_next hrun ((logDrainOp_eq he hm hr hl).trans (if_neg (by omega))),
      drained_frame _ _ _ _, waitingEnters_frame _, fun h => waitingEnters_empty h,
      fun w ws h hs => waitingEnters_full h hs,
      fun w ws i v h hs => waitingEnters_recs h hs, fun j hj => ?_, fun b hb => ?_⟩
    · rw [waitingEnters_pb, drained_in hw (by rwa [ErrRec.bytes_length])]
    · rw [waitingEnters_pb, drained_out hw (by rwa [ErrRec.bytes_length])]
  case config =>
    intro s v w m hrun
    refine ⟨fun hw => ?_, fun h => onLive_next hrun (if_pos h), fun h => onLive_next hrun (if_neg (by omega)),
      merge32_none w v, merge32_all w v⟩
    subst hw
    exact ⟨fun he hb => onLive_next hrun (ringCfgWrite_kept he hb), fun h => onLive_next hrun (ringCfgWrite_taken h)⟩
  case inject =>
    rintro s u addr kind unit hrun rfl rfl rfl
    exact ⟨fun h => onLive_next hrun (injectedOp_off h), fun hh hk => onLive_next hrun (injectedOp_clean hh hk),
      fun hh hk => ⟨fun hu => onLive_next hrun (injectedOp_pb hh hk hu),
        fun hu => onLive_next hrun (injectedOp_stacked hh hk hu), fun hu => onLive_next hrun (injectedOp_line hh hk hu),
        poisonPb_mem _ _, poisonWord_mem _ _⟩⟩
  case firmware =>
    intro s hrun
    exact ⟨fun h => onLive_next hrun (feRestartOp_again h), fun h => ⟨onLive_next hrun (feReloadOp_idle h),
        _, onLive_next hrun (feRestartOp_eq h), rfl, rfl, lostInsts_iff s, lostCmds_iff s,
        event_appends s 0x0020 0 6 0 0 0 none⟩,
      fun h hh hi hr => ⟨fun hl => onLive_next hrun (feReloadOp_none h hh hi hr hl), fun id c e hl hc hw hq he =>
        ⟨_, onLive_runs hrun _, feReloadOp_one h hh hi hr hl hc hw hq he⟩⟩,
      fun h => onLive_next hrun (mgmtRestartOp_again h), fun h => ⟨onLive_next hrun (mgmtDoneAll_idle h),
        _, onLive_next hrun (mgmtRestartOp_eq h), rfl, event_appends s 0x0020 0 7 0 0 1 none⟩,
      fun h hm hr hz => ⟨fun hl => onLive_next hrun (mgmtDoneAll_none h hm hr hz hl),
        fun v hl => onLive_next hrun (mgmtDoneAll_held h hm hr hz hl)⟩⟩
  case security =>
    intro s hrun
    refine ⟨fun h => ?_, fun l h hd hh => ?_⟩
    · refine ⟨_, _, onLive_next hrun (secFaultOp_idle h), rfl, ?_, rfl, fun hh => ?_, fun c l hh => ?_,
        event_appends s 0x0020 0 8 0 0 2 none⟩
      · omega
      · rw [mailFail_empty hh]
      · rw [mailFail_first hh]
    · obtain ⟨hsec, hmem, hlog⟩ := secFaultOp_loading h hd hh
      refine ⟨_, _, onLive_runs hrun _, ?_, hsec, hmem, (event_appends s 0x0020 0 8 0 0 2 none).to_eq hlog⟩
      omega
end Sys2Proof.Machine
end

section
/-! # One step, snapshot pages and registers -/

namespace Sys2Proof.Machine

set_option Elab.async false

variable {s t : State}

/-! ## The idle step (log 5) -/

theorem idleTick_frame (s : State) : idleTick s = { s with clk := (idleTick s).clk } := by
  unfold idleTick
  split
  · rfl
  · split <;> rfl

theorem idleTick_now (h : s.runs = true) : (idleTick s).clk.now = s.clk.now + 1 := by
  have hr : (s.pins.porstN && !s.pins.held && !s.pins.clocksStopped) = true := h
  rw [idleTick, if_pos hr]
  rfl

theorem secUp_up (h : s.sec.downUntil = none) : secUp s = s := by
  simp [secUp, h]

theorem idleStep_up (h : s.sec.downUntil = none) : idleStep s = idleTick s := by
  have hs : (idleTick s).sec.downUntil = none := by rw [idleTick_frame]; exact h
  rw [idleStep, secUp_up hs, ite_self]

/-- Settles O1: both clauses on the empty queue speak of `idleStep`, which is the tick alone while nothing of the
security processor's is due. -/
theorem stepRunsFront : Obligations.StepRunsFront := by
  refine ⟨fun _ _ _ => rfl, fun s h => ⟨_, rfl, ?_, fun hr => ?_⟩, fun s => ⟨_, rfl⟩⟩
  · rw [idleStep_up (s := { s with pending := [] }) h]
    exact idleTick_frame _
  · rw [idleStep_up (s := { s with pending := [] }) h]
    exact idleTick_now (s := { s with pending := [] }) hr

/-! ## Snapshot pages (R91) -/

theorem snapBody_length (s : State) (p : SnapPage) : (snapBody s p).length = 4080 := by
  cases p <;> exact fit_length _ _

theorem snapKey_injective : Function.Injective snapKey := by
  intro p q
  cases p <;> cases q <;> simp [snapKey]

/-- The page of the version not shown takes the new one, between its two generation words. -/
def snapVersion (s : State) (p : SnapPage) : List Byte :=
  natBytes ((snapOf s p).gen + 1).toNat 8 ++ snapBody s p ++ natBytes ((snapOf s p).gen + 1).toNat 8

theorem snapVersion_length (s : State) (p : SnapPage) : (snapVersion s p).length = 4096 := by
  simp [snapVersion, snapBody_length, natBytes_length]

theorem snapshotSwapOp_eq {p : SnapPage} (h : snapLive s p = true) : snapshotSwapOp s p =
    { pbStore s ((2 * snapKey p + b2n (!(snapOf s p).odd)) * 4096) (snapVersion s p) with
      snaps := tput s.snaps (snapKey p) { gen := (snapOf s p).gen + 1, odd := !(snapOf s p).odd } } := by
  unfold snapshotSwapOp
  rw [if_pos h]
  rfl

theorem snapOf_swapped {p : SnapPage} (h : snapLive s p = true) :
    snapOf (snapshotSwapOp s p) p = { gen := (snapOf s p).gen + 1, odd := !(snapOf s p).odd } := by
  rw [snapshotSwapOp_eq h]
  exact tget_tput_same _ _ _ _

theorem snapOf_swapped_other {p q : SnapPage} (h : snapLive s p = true) (hq : q ≠ p) :
    snapOf (snapshotSwapOp s p) q = snapOf s q := by
  rw [snapshotSwapOp_eq h]
  exact tget_tput_other _ _ _ _ _ (snapKey_injective.ne hq)

theorem snapShown_swapped {p : SnapPage} (h : snapLive s p = true) :
    snapShown (snapshotSwapOp s p) p = 2 * snapKey p + b2n (!(snapOf s p).odd) := by
  rw [snapShown, snapOf_swapped h]

/-- Outside the page now shown no byte of the port buffer changes. -/
theorem snapshotSwapOp_out {p : SnapPage} (h : snapLive s p = true) (hw : Memory.wf s.pb = true) {a : Nat}
    (ha : a < 4096 * snapShown (snapshotSwapOp s p) p ∨ 4096 * snapShown (snapshotSwapOp s p) p + 4096 ≤ a) :
    mget (snapshotSwapOp s p).pb a = mget s.pb a := by
  rw [snapShown_swapped h] at ha
  rw [snapshotSwapOp_eq h]
  exact pbStore_out hw _ _ _ (by rw [snapVersion_length]; omega)

/-! ## Captures (R93) -/

theorem captureOp_eq {view : Option Nat} {off dom v : Nat} (hb : s.boot.stage = .ready)
    (hr : regAt s view off = some (dom, v)) (hc : clocked s dom = true) : captureOp s view off = { s with
      shadow := tput s.shadow (slotKey view off) (Shadow.mk (BitVec.ofNat 64 v) dom (some (refclkNow s)))
      pbPoison := s.pbPoison.filter (fun w => !slotWord s view off w) } := by
  simp [captureOp, hb, hr, hc]

/-! ## HP_INT_CAUSE, written at once and held (R94, R102) -/

/-- HP_INT_CAUSE is a register of the front-end domain. -/
theorem regAt_cause (s : State) : regAt s none 0x10 = some (35, s.irq.cause.toNat) := rfl

theorem unmasked_none (v : W64) : unmasked v 0 = v := by
  apply BitVec.eq_of_toNat_eq
  have := v.isLt
  simp [unmasked, maskBytes, List.range, List.range.loop, leNat, Nat.shiftRight_eq_div_pow]
  omega

/-- The write clears the causes its value names. -/
theorem regEffect_cause (s : State) (v : W64) :
    regEffect s none 0x10 v 0 = { s with irq := s.irq.clear (domCount s 35) (v.setWidth 13) } := by
  have h : regEffect s none 0x10 v 0 = { s with irq := s.irq.clear (domCount s 35) ((unmasked v 0).setWidth 13) } := rfl
  rw [h, unmasked_none]

theorem regWrite_cause (h : clocked s 35 = true) (v : W64) : regWrite s none 0x10 v 0 = regEffect s none 0x10 v 0 := by
  rw [regWrite, regAt_cause]
  exact if_pos h

/-- Bit by bit, a clearing write leaves what it does not name and what was raised in its own cycle (R9). -/
theorem clear_bit (q : Irq) (now : BitVec 48) (v : W64) {b : Nat} (hb : b < 13) :
    (q.clear now (v.setWidth 13)).cause.getLsbD b =
      (q.cause.getLsbD b && (!v.getLsbD b || (q.freshNow now).getLsbD b)) := by
  simp [Irq.clear, hb]

theorem heldApply_none {view : Option Nat} {off : Nat} (h : tfind s.held (slotKey view off) = none) :
    heldApply s view off = s := by
  rw [heldApply, heldKey, h]

theorem heldApply_cause {v : W64} (hc : clocked s 35 = true) (hh : tfind s.held 1 = some (v, 0)) :
    heldApply s none 0x10 = regEffect { s with held := tdel s.held 1 } none 0x10 v 0 := by
  have hk : tfind s.held (heldKey none 0x10) = some (v, 0) := hh
  rw [heldApply, hk, regAt_cause]
  exact if_pos hc

/-- Settles O15: each clause runs its operation by that operation's own equation; both writes of HP_INT_CAUSE are the
clearing of the register's effect. -/
theorem snapshotsAndRegisters : Obligations.SnapshotsAndRegisters := by
  refine ⟨fun s p hrun hl hw => ?_, fun s view off dom v hrun hb hr hc => ?_, fun s view off hh => ?_,
    fun s v hrun hb hc => ?_, fun s v hrun hc hh => ?_⟩
  · refine ⟨_, onLive_runs hrun _, ?_, ?_, ?_, fun q hq => snapOf_swapped_other hl hq,
      fun a ha => snapshotSwapOp_out hl hw ha⟩
    · rw [snapshotSwapOp_eq hl]
      rfl
    · rw [snapOf_swapped hl]
    · rw [snapOf_swapped hl]
  · exact onLive_next hrun (captureOp_eq hb hr hc)
  · have h : exec (.heldWriteApply view off) s = onLive s (heldApply s view off) := rfl
    rw [h, heldApply_none hh, onLive, ite_self]
  · refine ⟨{ s with irq := s.irq.clear (domCount s 35) (v.setWidth 13) }, onLive_next hrun ?_, rfl,
      fun b hb' => clear_bit _ _ v hb'⟩
    rw [if_pos (by simp [viewExists, hb]), regWrite_cause hc, regEffect_cause]
  · refine ⟨{ s with held := tdel s.held 1, irq := s.irq.clear (domCount s 35) (v.setWidth 13) }, onLive_next hrun ?_,
      rfl, fun b hb' => clear_bit _ _ v hb'⟩
    rw [heldApply_cause hc hh, regEffect_cause]
    rfl

end Sys2Proof.Machine
end

section
/-! # Power: table 2-7's transitions, RETAIN, throttling, the rail (02) -/

namespace Sys2Proof.Machine

set_option Elab.async false

variable {s t u : State}

/-! ## Ending work keeps the functions

Of the functions of Table 2-5, the end of a launch changes those of compression engines alone: one that was to stop
may stop now (R374). -/

/-- From `s` to `t` the configuration stays, and every function does, but that a compression engine may stop. -/
structure FnsKept (s t : State) : Prop where
  cfg : t.cfg = s.cfg
  fn  : ∀ k, k < 20 → fnOf t k = fnOf s k
  en  : ∀ k, (fnOf t k).en = (fnOf s k).en

theorem FnsKept.refl (s : State) : FnsKept s s := ⟨rfl, fun _ _ => rfl, fun _ => rfl⟩

theorem FnsKept.keep (h : FnsKept u s) (hp : t.pwr = s.pwr := by rfl) (hc : t.cfg = s.cfg := by rfl) : FnsKept u t := by
  obtain ⟨cfg, fn, en⟩ := h
  have hf (k : Nat) : fnOf t k = fnOf s k := by rw [fnOf, hp]; rfl
  exact ⟨hc.trans cfg, fun k hk => (hf k).trans (fn k hk), fun k => by rw [hf, en]⟩

theorem FnsKept.ite {c : Prop} [Decidable c] (hs : FnsKept u s) (ht : FnsKept u t) : FnsKept u (if c then s else t) := by
  split
  · exact hs
  · exact ht

theorem FnsKept.foldl {α : Type} {f : State → α → State} {l : List α} (h : FnsKept u s)
    (hf : ∀ {v x}, FnsKept u v → FnsKept u (f v x)) : FnsKept u (l.foldl f s) := by
  induction l generalizing s with
  | nil => exact h
  | cons x l ih => exact ih (hf h)

theorem FnsKept.errWrite {r} (h : FnsKept u s) : FnsKept u (errWrite s r) := by
  rw [errWrite_frame]
  exact .keep h

theorem FnsKept.event {code status unit inst addr info ctx} (h : FnsKept u s) :
    FnsKept u (event s code status unit inst addr info ctx) := .errWrite h

theorem FnsKept.raise {c} (h : FnsKept u s) : FnsKept u (raise s c) := .keep h

theorem FnsKept.withMem {m : DevMem} (h : FnsKept u s) : FnsKept u { s with mem := m } := .keep h

theorem FnsKept.dmWriteOpt {pol a d} (h : FnsKept u s) : FnsKept u (dmWriteOpt s pol a d) :=
  dmWriteOpt_frame s pol a d ▸ .withMem h

theorem FnsKept.dmWrite {pol a d} (h : FnsKept u s) : FnsKept u (dmWrite s pol a d) := .dmWriteOpt h

theorem FnsKept.pbStore {off d} (h : FnsKept u s) : FnsKept u (pbStore s off d) := .keep h

theorem FnsKept.modQueue {q f} (h : FnsKept u s) : FnsKept u (modQueue s q f) := .keep h

theorem FnsKept.fenceSignal {f v err} (h : FnsKept u s) : FnsKept u (fenceSignal s f v err) := .keep h

theorem FnsKept.modCtx {c f} (h : FnsKept u s) : FnsKept u (modCtx s c f) := .keep h

theorem FnsKept.objUnref {i} (h : FnsKept u s) : FnsKept u (objUnref s i) := .keep h

theorem FnsKept.reserveDrop {ctx i} (h : FnsKept u s) : FnsKept u (reserveDrop s ctx i) := by
  unfold Machine.reserveDrop
  exact .ite (.objUnref (.modCtx h)) h

theorem FnsKept.recInRing {r q e} (h : FnsKept u s) : FnsKept u (recInRing s r q e) := by
  unfold Machine.recInRing
  extract_lets +onlyGivenNames _ s2 s3
  have h2 : FnsKept u s2 := .modQueue (.pbStore h)
  have h3 : FnsKept u s3 := by
    unfold s3
    split
    · exact .fenceSignal h2
    · exact h2
  exact .ite (.raise h3) h3

theorem FnsKept.recOrphaned {r q} (h : FnsKept u s) : FnsKept u (recOrphaned s r q) := by
  unfold Machine.recOrphaned
  extract_lets +onlyGivenNames _ _ _ _ _ _ s2 _ s4
  have h2 : FnsKept u s2 := by
    unfold s2
    split
    · exact .errWrite (.modCtx h)
    · exact .dmWrite (.modCtx h)
  have h4 : FnsKept u s4 := by
    unfold s4
    split
    · exact .fenceSignal (.modQueue h2)
    · exact .modQueue h2
  exact .raise h4

theorem FnsKept.writeRec {r} (h : FnsKept u s) : FnsKept u (writeRec s r) := by
  unfold Machine.writeRec
  refine .ite h ?_
  split
  · exact .recInRing h
  · exact .recOrphaned h

theorem FnsKept.queueSettle {q} (h : FnsKept u s) : FnsKept u (queueSettle s q) := by
  unfold Machine.queueSettle
  exact .ite (.keep h) h

theorem FnsKept.releaseCmd {c} (h : FnsKept u s) : FnsKept u (releaseCmd s c) := by
  unfold Machine.releaseCmd
  exact .foldl (.foldl h (fun h => .keep h)) (fun h => .keep h)

theorem FnsKept.cmdEnd {id st errIdx} (h : FnsKept u s) : FnsKept u (cmdEnd s id st errIdx) := by
  unfold Machine.cmdEnd
  split
  · exact h
  · exact .queueSettle (.releaseCmd (.writeRec (.keep h)))

theorem FnsKept.monMiss {m ctx sc} (h : FnsKept u s) : FnsKept u (monMiss s m ctx sc) := by
  unfold Machine.monMiss
  split
  · exact h
  · split
    · exact h
    · exact .ite (.event (.keep h)) h

theorem FnsKept.stagedWrite {core ctx e} (h : FnsKept u s) : FnsKept u (stagedWrite s core ctx e) := by
  unfold Machine.stagedWrite
  exact .ite h (.keep (.dmWriteOpt h))

theorem FnsKept.killWgs {p} (h : FnsKept u s) : FnsKept u (killWgs s p) := by
  unfold Machine.killWgs
  extract_lets +onlyGivenNames s1
  have h1 : FnsKept u s1 := .foldl h fun h => .foldl h fun h => .stagedWrite h
  exact .keep h1

theorem FnsKept.passDrop {id} (h : FnsKept u s) : FnsKept u (passDrop s id) := by
  unfold Machine.passDrop
  split
  · exact h
  · exact .foldl (.keep h) (fun h => .reserveDrop h)

theorem FnsKept.cmpStop {c} (h : FnsKept u s) : FnsKept u (cmpStop s c) := by
  unfold Machine.cmpStop
  dsimp only [Machine.freeBytes]
  exact .ite (.keep h) (.dmWrite (.keep h))

theorem tfind_map (f : Nat → α → α) (l : Tab α) (k : Nat) :
    tfind (l.map fun e => (e.1, f e.1 e.2)) k = (tfind l k).map (f k) := by
  induction l with
  | nil => rfl
  | cons e r ih =>
    obtain ⟨i, x⟩ := e
    simp only [List.map_cons, tfind, ih]
    split
    · next h => rw [h]; rfl
    · rfl

/-- What `cmpStops` makes of function `k`. -/
def cmpStopsFn (l : List Nat) (k : Nat) (f : Fn) : Fn :=
  if decide (20 ≤ k) && l.contains (k - 20) && f.st == .on && !f.en then { f with st := .stopping } else f

theorem FnsKept.cmpStops (l : List Nat) (h : FnsKept u s) : FnsKept u { s with pwr := s.pwr.cmpStops l } := by
  obtain ⟨cfg, fn, en⟩ := h
  have hf (k : Nat) : fnOf { s with pwr := s.pwr.cmpStops l } k = cmpStopsFn l k (fnOf s k) := by
    have ht := tfind_map (cmpStopsFn l) s.pwr.fns k
    have h0 : ({} : Fn) = cmpStopsFn l k {} := by simp [cmpStopsFn]
    calc (tfind (s.pwr.fns.map fun e => (e.1, cmpStopsFn l e.1 e.2)) k).getD {}
        = ((tfind s.pwr.fns k).map (cmpStopsFn l k)).getD {} := by rw [ht]
      _ = cmpStopsFn l k ((tfind s.pwr.fns k).getD {}) := by
        cases tfind s.pwr.fns k
        · exact h0
        · rfl
  refine ⟨cfg, fun k hk => ?_, fun k => ?_⟩
  · rw [hf, cmpStopsFn, if_neg (by simp; omega), fn k hk]
  · rw [hf, ← en, cmpStopsFn]
    split <;> rfl

theorem FnsKept.killInst {id} (h : FnsKept u s) : FnsKept u (killInst s id) := by
  unfold Machine.killInst
  extract_lets +onlyGivenNames _ _ s3
  have h3 : FnsKept u s3 := .foldl (.foldl (.killWgs h) (fun h => .passDrop h)) (fun h => .cmpStop h)
  exact .keep (.cmpStops _ h3)

theorem FnsKept.seqReturn {e} (h : FnsKept u s) : FnsKept u (seqReturn s e) := by
  unfold Machine.seqReturn Machine.seqFree
  split
  · exact h
  · refine .ite ?_ (.ite (.keep h) h)
    split
    · exact h
    · exact .keep h

theorem FnsKept.monEnd {x st} (h : FnsKept u s) : FnsKept u (monEnd s x st) := by
  unfold Machine.monEnd
  split
  · exact h
  · exact .monMiss (.ite (.raise (.event (.keep h))) (.ite (.keep h) h))

theorem FnsKept.dropInst {id} (h : FnsKept u s) : FnsKept u (dropInst s id) := by
  unfold Machine.dropInst
  split
  · exact h
  · extract_lets +onlyGivenNames _ s2
    have h2 : FnsKept u s2 := .foldl (.killInst h) (fun h => .seqReturn h)
    exact .keep h2

theorem FnsKept.monSettle {m} (h : FnsKept u s) : FnsKept u (monSettle s m) := by
  unfold Machine.monSettle
  split
  · exact h
  · exact .ite (.keep h) h

theorem FnsKept.finishInst {id st errIdx} (h : FnsKept u s) : FnsKept u (finishInst s id st errIdx) := by
  unfold Machine.finishInst
  split
  · exact h
  · extract_lets +onlyGivenNames _ s1
    have h1 : FnsKept u s1 := .monSettle (.monEnd (.dropInst h))
    split
    · exact .cmdEnd h1
    · exact .queueSettle (.writeRec h1)

theorem finishAll_fns (s : State) (ids : List Nat) (st : Status) (errIdx : BitVec 16) :
    FnsKept s (finishAll s ids st errIdx) := .foldl (.refl s) (fun h => .finishInst h)

end Sys2Proof.Machine
end

section
/-! # The functions of Table 2-5 -/

namespace Sys2Proof.Machine

set_option Elab.async false

variable {s t u : State}

/-! ## A write of en to one function (Table 2-7) -/

/-- Of the power domain, a change of functions reaches the functions, the rail's step and the wake-up alone, and an
active device does not wake. -/
def FnsOnly (s t : State) : Prop :=
  ∃ fns v w, t = { s with pwr := { s.pwr with fns := fns, vStep := v, waking := w } } ∧
    (s.pwr.dev = .active → w = s.pwr.waking)

theorem FnsOnly.refl (s : State) : FnsOnly s s := ⟨_, _, _, rfl, fun _ => rfl⟩

theorem FnsOnly.trans (h : FnsOnly s t) (g : FnsOnly t u) : FnsOnly s u := by
  obtain ⟨_, _, _, rfl, hw⟩ := h
  obtain ⟨_, _, _, rfl, gw⟩ := g
  exact ⟨_, _, _, rfl, fun ha => (gw ha).trans (hw ha)⟩

theorem FnsOnly.foldl {α : Type} {f : State → α → State} (hf : ∀ s x, FnsOnly s (f s x)) (l : List α) (s : State) :
    FnsOnly s (l.foldl f s) := by
  induction l generalizing s with
  | nil => exact .refl s
  | cons x l ih => exact (hf s x).trans (ih _)

theorem FnsOnly.pwr (h : FnsOnly s t) : t = { s with pwr := t.pwr } := by
  obtain ⟨_, _, _, rfl, _⟩ := h
  rfl

theorem FnsOnly.cfg (h : FnsOnly s t) : t.cfg = s.cfg := by
  obtain ⟨_, _, _, rfl, _⟩ := h
  rfl

theorem FnsOnly.dev (h : FnsOnly s t) : t.pwr.dev = s.pwr.dev := by
  obtain ⟨_, _, _, rfl, _⟩ := h
  rfl

theorem FnsOnly.sramMv (h : FnsOnly s t) : t.pwr.sramMv = s.pwr.sramMv := by
  obtain ⟨_, _, _, rfl, _⟩ := h
  rfl

theorem FnsOnly.waking (h : FnsOnly s t) (ha : s.pwr.dev = .active) : t.pwr.waking = s.pwr.waking := by
  obtain ⟨_, _, _, rfl, hw⟩ := h
  exact hw ha

theorem modFn_only (s : State) (n : Nat) (f : Fn → Fn) : FnsOnly s (modFn s n f) := ⟨_, _, _, rfl, fun _ => rfl⟩

theorem mgmtWake_only (s : State) : FnsOnly s (mgmtWake s) := by
  unfold mgmtWake
  split
  · next h => exact ⟨_, _, _, rfl, fun ha => by rw [h] at ha; cases ha⟩
  · exact .refl s

theorem fnOf_mgmtWake (s : State) (k : Nat) : fnOf (mgmtWake s) k = fnOf s k := by
  unfold mgmtWake
  split <;> rfl

theorem mgmtWake_waking (h : s.pwr.dev = .retain) : (mgmtWake s).pwr.waking = true := by
  rw [mgmtWake, if_pos h]

@[simp] theorem modFn_dev (s : State) (n : Nat) (f : Fn → Fn) : (modFn s n f).pwr.dev = s.pwr.dev := rfl

/-- What a write of `en` makes of a function, given whether the device is active and whether the function's unit is
busy (Table 2-7, R30, R374). -/
def Fn.written (f : Fn) (active busy en : Bool) : Fn :=
  match f.st, en with
  | .off, true => if active then { f with en := true, st := .starting, pending := false }
                  else { f with en := true, latched := true }
  | .off, false => { f with en := false, latched := false }
  | .on, false => if busy then { f with en := false } else { f with en := false, st := .stopping }
  | .stopping, e => { f with en := e, pending := e }
  | _, e => { f with en := e }

@[simp] theorem Fn.written_en (f : Fn) (active busy en : Bool) : (f.written active busy en).en = en := by
  unfold Fn.written
  split
  · split <;> rfl
  · rfl
  · split <;> rfl
  · rfl
  · rfl

/-- A compression engine with a node under way. -/
def cmpBusy (s : State) (n : Nat) : Bool := decide (20 ≤ n) && (tget s.cmps (n - 20) {}).run.isSome

/-- The write stops a display pipe. -/
def PipeStops (s : State) (n : Nat) (en : Bool) : Prop := 8 ≤ n ∧ n < 12 ∧ (fnOf s n).st = .on ∧ en = false

/-- Function `n` becomes `x`, and no other changes. -/
structure Writes (s t : State) (n : Nat) (x : Fn) : Prop where
  only : FnsOnly s t
  same : fnOf t n = x
  other : ∀ k, k ≠ n → fnOf t k = fnOf s k

theorem modFn_writes (s : State) (n : Nat) (f : Fn → Fn) : Writes s (modFn s n f) n (f (fnOf s n)) :=
  ⟨modFn_only s n f, fnOf_modFn_same s n f, fun k hk => fnOf_modFn_other s n k f hk⟩

theorem Writes.modFn {n : Nat} {x : Fn} (h : Writes s t n x) (f : Fn → Fn) : Writes s (modFn t n f) n (f x) := by
  obtain ⟨only, same, other⟩ := h
  exact ⟨only.trans (modFn_only ..), by rw [fnOf_modFn_same, same],
    fun k hk => (fnOf_modFn_other _ _ _ _ hk).trans (other k hk)⟩

theorem Writes.mgmtWake {n : Nat} {x : Fn} (h : Writes s t n x) : Writes s (mgmtWake t) n x := by
  obtain ⟨only, same, other⟩ := h
  exact ⟨only.trans (mgmtWake_only t), (fnOf_mgmtWake t n).trans same, fun k hk => (fnOf_mgmtWake t k).trans (other k hk)⟩

theorem Writes.of_eq {n : Nat} {x y : Fn} (h : Writes s t n x) (hu : u = t) (hy : y = x) : Writes s u n y := by
  rw [hu, hy]
  exact h

/-- Where no pipe stops, only a busy engine keeps a function from STOPPING (R374). -/
theorem fnPlain_stop {n : Nat} (hst : (fnOf s n).st = .on) (hp : ¬(8 ≤ n ∧ n < 12)) : fnPlain s n false =
    if cmpBusy s n then modFn s n (fun f => { f with en := false })
    else modFn (modFn s n fun f => { f with en := false }) n (fun f => { f with st := .stopping }) := by
  unfold fnPlain
  simp only [fnOf_modFn_same, hst]
  rw [if_neg (by simpa using hp)]
  rfl

theorem fnPlain_writes {n : Nat} {en : Bool} (h : ¬PipeStops s n en) :
    Writes s (fnPlain s n en) n ((fnOf s n).written (decide (s.pwr.dev = .active)) (cmpBusy s n) en) := by
  have h0 := modFn_writes s n (fun f => { f with en := en })
  cases hst : (fnOf s n).st
  case off =>
    cases en
    case false =>
      exact (h0.modFn fun f => { f with latched := false }).of_eq (by simp [fnPlain, hst]) (by simp [Fn.written, hst])
    case true =>
      by_cases ha : s.pwr.dev = .active
      · exact (h0.modFn fun f => { f with st := .starting, pending := false }).of_eq (by simp [fnPlain, fnBegin, hst, ha])
          (by simp [Fn.written, hst, ha])
      · exact (h0.modFn fun f => { f with latched := true }).mgmtWake.of_eq (by simp [fnPlain, hst, ha])
          (by simp [Fn.written, hst, ha])
  case starting => exact h0.of_eq (by simp [fnPlain, hst]) (by simp [Fn.written, hst])
  case restarting => exact h0.of_eq (by simp [fnPlain, hst]) (by simp [Fn.written, hst])
  case on =>
    cases en
    case true => exact h0.of_eq (by simp [fnPlain, hst]) (by simp [Fn.written, hst])
    case false =>
      have hp : ¬(8 ≤ n ∧ n < 12) := fun hn => h ⟨hn.1, hn.2, hst, rfl⟩
      have hw := fnPlain_stop hst hp
      cases hb : cmpBusy s n
      · exact (h0.modFn fun f => { f with st := .stopping }).of_eq (by rw [hw, hb]; rfl) (by simp [Fn.written, hst])
      · exact h0.of_eq (by rw [hw, hb]; rfl) (by simp [Fn.written, hst])
  case stopping =>
    exact (h0.modFn fun f => { f with pending := en }).of_eq (by simp [fnPlain, hst]) (by simp [Fn.written, hst])

end Sys2Proof.Machine
end

section
/-! # Throttle steps and the rail -/

namespace Sys2Proof.Machine

set_option Elab.async false

variable {s t u : State} {p : Pwr} {on : List Nat} {cause : Nat} {force : Bool}

/-! ## Tables of one value per key -/

theorem tfind_map_keys {α : Type} (f : Nat → α) {l : List Nat} {k : Nat} (h : k ∈ l) :
    tfind (l.map fun g => (g, f g)) k = some (f k) := by
  induction l with
  | nil => simp at h
  | cons g l ih =>
    rw [List.map_cons, tfind]
    split
    · next hg => rw [hg]
    · next hg => exact ih ((List.mem_cons.mp h).resolve_left (Ne.symm hg))

/-- A table kept without its zeros reads the same. -/
theorem tget_map_nonzero (f : Nat → Nat) {l : List Nat} {k : Nat} (h : k ∈ l) :
    tget ((l.map fun g => (g, f g)).filter fun e => e.2 != 0) k 0 = f k := by
  have find : ∀ l : List Nat, tfind ((l.map fun g => (g, f g)).filter fun e => e.2 != 0) k =
      if k ∈ l ∧ f k ≠ 0 then some (f k) else none := by
    intro l
    induction l with
    | nil => rfl
    | cons g l ih =>
      by_cases hg : g = k
      · subst hg
        by_cases h0 : f g = 0 <;> simp [h0, tfind, ih]
      · by_cases h0 : f g = 0 <;> simp [h0, tfind, ih, hg, Ne.symm hg]
  rw [tget, find]
  by_cases h0 : f k = 0 <;> simp [h, h0]

/-! ## The index a group takes (R37, R426) -/

theorem demand_le_nextStep (p : Pwr) (on : List Nat) (g : Nat) : demand p g ≤ nextStep p on g := by
  unfold nextStep
  dsimp only
  split
  · exact le_rfl
  · next h =>
    simp only [Bool.or_eq_true, decide_eq_true_eq, not_or] at h
    omega

/-- The step of the rail serves the demand. -/
theorem nextStep_served {g : Nat} (h : p.vStep ≤ demand p g) : nextStep p on g = demand p g := by
  simp [nextStep, h]

theorem dLoop_le_demand (p : Pwr) (g : Nat) : tget p.dLoop g 0 ≤ demand p g := by
  unfold demand
  omega

theorem dTherm_le_demand (p : Pwr) (g : Nat) : tget p.dTherm g 0 ≤ demand p g := by
  unfold demand
  omega

theorem dCur_le_demand (p : Pwr) (g : Nat) : tget p.dCur g 0 ≤ demand p g := by
  unfold demand
  omega

theorem dHold_le_demand (p : Pwr) (g : Nat) : tget p.dHold g 0 ≤ demand p g := by
  unfold demand
  omega

theorem railFollow_keeps (on : List Nat) (cause : Nat) (p : Pwr) :
    (railFollow on cause p).steps = p.steps ∧ (railFollow on cause p).gen = p.gen := by
  unfold railFollow
  split
  · split <;> exact ⟨rfl, rfl⟩
  · exact ⟨rfl, rfl⟩

theorem poweredGroups_lt {g : Nat} (h : g ∈ poweredGroups s) : g < 8 :=
  List.mem_range.mp (List.mem_filter.mp h).1

/-! ## Demands come into force (R38, R162) -/

/-- The steps that demands `p` give, the groups at 0 left out. -/
def stepsFor (s : State) (p : Pwr) : Tab Nat :=
  ((List.range 8).map fun g => (g, nextStep p (poweredGroups s) g)).filter fun e => e.2 != 0

/-- What `applySteps` does before its record. -/
def stepped (s : State) (cause : Nat) (p : Pwr) : State := { s with
  pwr := railFollow (poweredGroups s) cause
    { p with steps := stepsFor s p, gen := if stepsFor s p != s.pwr.steps then p.gen + 1 else p.gen }
  insts := if stepsFor s p != s.pwr.steps then
      s.insts.map fun e => (e.1, { e.2 with norm := e.2.normNow s, normAt := now35 s })
    else s.insts
  cmds := if stepsFor s p != s.pwr.steps then
      s.cmds.map fun e => (e.1, { e.2 with norm := e.2.normNow s, normAt := now35 s })
    else s.cmds }

/-- What a THROTTLE record says: groups above 0, the highest index and the cause (Table 2-11). -/
def throttleInfo (steps : Tab Nat) (cause : Nat) : Nat :=
  packNat [((steps.map (fun e => 2 ^ e.1)).foldl (· + ·) 0, 0), (steps.foldl (fun m e => max m e.2) 0, 8), (cause, 12)]

/-- The THROTTLE record follows where a step changed or the caller forces it. -/
theorem applySteps_eq (s : State) (cause : Nat) (force : Bool) (p : Pwr) : applySteps s cause force p =
    if (stepsFor s p != s.pwr.steps || force) = true then
      event (stepped s cause p) 0x0022 0 16 0 0 (throttleInfo (stepsFor s p) cause) none
    else stepped s cause p := rfl

theorem applySteps_frame (s : State) (cause : Nat) (force : Bool) (p : Pwr) :
    applySteps s cause force p = { stepped s cause p with log := (applySteps s cause force p).log } := by
  rw [applySteps_eq]
  split
  · exact event_eq_log ..
  · rfl

theorem stepsFor_get (s : State) (p : Pwr) {g : Nat} (h : g < 8) :
    tget (stepsFor s p) g 0 = nextStep p (poweredGroups s) g := tget_map_nonzero _ (List.mem_range.mpr h)

theorem applySteps_steps (s : State) (cause : Nat) (force : Bool) (p : Pwr) :
    (applySteps s cause force p).pwr.steps = stepsFor s p := by
  rw [applySteps_frame]
  exact (railFollow_keeps ..).1

theorem applySteps_gen (s : State) (cause : Nat) (force : Bool) (p : Pwr) : (applySteps s cause force p).pwr.gen =
    if stepsFor s p != s.pwr.steps then p.gen + 1 else p.gen := by
  rw [applySteps_frame]
  exact (railFollow_keeps ..).2

/-- Only a change of a step brings the launches' normalised times up to now (R162). -/
theorem applySteps_insts (s : State) (cause : Nat) (force : Bool) (p : Pwr) : (applySteps s cause force p).insts =
    if stepsFor s p != s.pwr.steps then
      s.insts.map fun e => (e.1, { e.2 with norm := e.2.normNow s, normAt := now35 s })
    else s.insts := by
  rw [applySteps_frame]
  rfl

theorem applySteps_cmds (s : State) (cause : Nat) (force : Bool) (p : Pwr) : (applySteps s cause force p).cmds =
    if stepsFor s p != s.pwr.steps then
      s.cmds.map fun e => (e.1, { e.2 with norm := e.2.normNow s, normAt := now35 s })
    else s.cmds := by
  rw [applySteps_frame]
  rfl

/-- No group runs below what the mechanisms demand of it. -/
theorem demand_le_applySteps (s : State) (cause : Nat) (force : Bool) (p : Pwr) {g : Nat} (h : g < 8) :
    demand p g ≤ tget (applySteps s cause force p).pwr.steps g 0 := by
  rw [applySteps_steps, stepsFor_get s p h]
  exact demand_le_nextStep ..

/-- An event-class record, where the log has room for it. -/
theorem event_appends_class (s : State) (code status unit inst addr info : Nat) (ctx : Option Nat) :
    Appends s (event s code status unit inst addr info ctx)
      (fun r => r.cls = 0 ∧ r.code = code ∧ r.unit = unit ∧ r.info = BitVec.ofNat 32 info) := fun hf =>
  ⟨_, errWrite_recs hf (by simp [mkErr]), rfl, rfl, rfl, rfl⟩

theorem applySteps_taken (s : State) (cause : Nat) (force : Bool) (p : Pwr) :
    StepsTaken s (applySteps s cause force p) cause force p := by
  have hframe := applySteps_frame s cause force p
  have hsteps := applySteps_steps s cause force p
  have hgen := applySteps_gen s cause force p
  refine ⟨?frame, fun g hg => ?steps, ?rail, fun h => ?same, fun h => ?changed, fun h => ?record⟩
  case frame =>
    rw [hframe]
    rfl
  case steps => rw [hsteps, stepsFor_get s p hg]
  case rail =>
    rw [hsteps, hgen, hframe]
    rfl
  case same =>
    rw [hsteps] at h
    have hc : ¬(stepsFor s p != s.pwr.steps) = true := by simpa using h
    rw [hgen, applySteps_insts, applySteps_cmds, if_neg hc, if_neg hc, if_neg hc]
    refine ⟨rfl, rfl, rfl, fun hf => ?_⟩
    rw [applySteps_eq, if_neg (by simp [h, hf])]
    rfl
  case changed =>
    rw [hsteps] at h
    have hc : (stepsFor s p != s.pwr.steps) = true := by simpa using h
    rw [hgen, applySteps_insts, if_pos hc, if_pos hc]
    refine ⟨rfl, fun k x hk => ?_⟩
    have hmap := tfind_map (fun _ x => { x with norm := Inst.normNow s x, normAt := now35 s }) s.insts k
    rwa [hk] at hmap
  case record =>
    rw [hsteps] at h ⊢
    rw [applySteps_eq, if_pos (by simpa using h)]
    have h := event_appends_class (stepped s cause p) 0x0022 0 16 0 0 (throttleInfo (stepsFor s p) cause) none
    exact (h.mono fun r ⟨hcls, hcode, hunit, hinfo⟩ => ⟨hcode, hunit, hcls, hinfo⟩).of_eq rfl

end Sys2Proof.Machine
end

section
/-! # Display pipes, partitions and their Eddy units -/

namespace Sys2Proof.Machine

set_option Elab.async false

variable {s t u : State} {n : Nat} {en : Bool} {p : Partition}

/-! ## A pipe stops (R353) -/

/-- Releasing what a pipe holds changes fences and objects alone. -/
def Releases (s t : State) : Prop := ∃ fs os, t = { s with fences := fs, objs := os }

theorem Releases.refl (s : State) : Releases s s := ⟨_, _, rfl⟩

theorem Releases.trans (h : Releases s t) (g : Releases t u) : Releases s u := by
  obtain ⟨_, _, rfl⟩ := h
  obtain ⟨_, _, rfl⟩ := g
  exact ⟨_, _, rfl⟩

theorem Releases.foldl {α : Type} {f : State → α → State} (hf : ∀ s x, Releases s (f s x)) (l : List α) (s : State) :
    Releases s (l.foldl f s) := by
  induction l generalizing s with
  | nil => exact .refl s
  | cons x l ih => exact (hf s x).trans (ih _)

theorem dropRef_releases (s : State) (r : Option (Nat × Nat × Nat)) : Releases s (dropRef s r) := by
  unfold dropRef
  split
  · exact ⟨_, _, rfl⟩
  · exact .refl s

theorem fenceUnref_releases (s : State) (f : Nat) : Releases s (fenceUnref s f) := ⟨_, _, rfl⟩

theorem layerRelease_releases (s : State) (l : Layer) : Releases s (layerRelease s l) :=
  (dropRef_releases s l.buf).trans (dropRef_releases _ _)

theorem flipSignal_releases (s : State) (f : Flip) (err : Bool) : Releases s (flipSignal s f err) := by
  unfold flipSignal
  split
  · exact ⟨_, _, rfl⟩
  · exact .refl s

theorem flipDiscard_releases (s : State) (f : Flip) : Releases s (flipDiscard s f) :=
  (flipSignal_releases s f true).trans ((Releases.foldl layerRelease_releases _ _).trans
    ((dropRef_releases _ _).trans (Releases.foldl fenceUnref_releases _ _)))

/-- A cleared pipe has no layer; what it held is released. -/
theorem pipeClear_eq (s : State) (n : Nat) :
    ∃ v f, Releases s v ∧ pipeClear s n = modPipe v n f ∧ ∀ p, (f p).layers = [] := by
  have hwb (s : State) (f : Flip) : Releases s (fenceUnref (dropRef s f.wb) (fWbFence f.hdr)) :=
    (dropRef_releases s f.wb).trans (fenceUnref_releases _ _)
  refine ⟨_, _, (Releases.foldl flipDiscard_releases _ s).trans ((Releases.foldl layerRelease_releases _ _).trans
    ((dropRef_releases _ _).trans (Releases.foldl hwb _ _))), rfl, ?_⟩
  exact fun _ => rfl

theorem pipeOff_frame (s : State) (n : Nat) :
    pipeOff s n = { s with pipes := (pipeOff s n).pipes, fences := (pipeOff s n).fences, objs := (pipeOff s n).objs } := by
  obtain ⟨v, f, ⟨fs, os, rfl⟩, hp, -⟩ := pipeClear_eq s n
  rw [pipeOff, hp]
  rfl

theorem pipeOff_same (s : State) (n : Nat) : (pipeOf (pipeOff s n) n).layers = [] ∧
    (pipeOf (pipeOff s n) n).conf = none ∧ (pipeOf (pipeOff s n) n).link = 0 := by
  obtain ⟨v, f, -, hp, hl⟩ := pipeClear_eq s n
  rw [pipeOff, hp, pipeOf_modPipe_same, pipeOf_modPipe_same]
  exact ⟨hl _, rfl, rfl⟩

theorem pipeOff_other (s : State) (n : Nat) {k : Nat} (h : k ≠ n) : pipeOf (pipeOff s n) k = pipeOf s k := by
  obtain ⟨v, f, ⟨fs, os, rfl⟩, hp, -⟩ := pipeClear_eq s n
  rw [pipeOff, hp, pipeOf_modPipe_other _ _ _ _ h, pipeOf_modPipe_other _ _ _ _ h]
  rfl

theorem fnOf_pipeOff (s : State) (n k : Nat) : fnOf (pipeOff s n) k = fnOf s k := by
  rw [pipeOff_frame]
  rfl

theorem fnPlain_pipe (h8 : 8 ≤ n) (h12 : n < 12) (hst : (fnOf s n).st = .on) : fnPlain s n false =
    modFn (pipeOff (modFn s n fun f => { f with en := false }) (n - 8)) n (fun f => { f with st := .stopping }) := by
  simp [fnPlain, hst, h8, h12]

/-! ## The write reaches the function (R34, R421) -/

/-- Some configured partition concerns the function. -/
abbrev Concerned (s : State) (n : Nat) : Prop :=
  (if n < 8 then (partRec s n).isSome else !(fnConcerns s n).isEmpty) = true

theorem partRec_idx (h : partRec s n = some p) : p.idx = n := by
  simpa using List.find?_some h

theorem fnSet_unconcerned (h : ¬Concerned s n) : fnSet s n en = s := by
  unfold fnSet
  by_cases hn : n < 8
  · have hp : partRec s n = none := by simpa [Concerned, hn] using h
    rw [if_pos hn, hp]
  · have hp : (fnConcerns s n).isEmpty = true := by simpa [Concerned, hn] using h
    rw [if_neg hn, if_pos hp]

theorem fnSet_plain (h : 8 ≤ n) (hc : Concerned s n) : fnSet s n en = fnPlain s n en := by
  have hn : ¬n < 8 := by omega
  have hp : ¬(fnConcerns s n).isEmpty = true := by simpa [Concerned, hn] using hc
  rw [fnSet, if_neg hn, if_neg hp]

theorem fnSet_part (h : n < 8) (hp : partRec s n = some p) : fnSet s n en = partWrite s p en := by
  rw [fnSet, if_pos h, hp]

/-- Where it neither starts nor stops, a partition is written like any other function. -/
theorem partWrite_plain (hon : ¬((fnOf s p.idx).st = .off ∧ en = true ∧ s.pwr.dev = .active))
    (hoff : ¬((fnOf s p.idx).st = .on ∧ en = false)) : partWrite s p en = fnPlain s p.idx en := by
  cases hst : (fnOf s p.idx).st
  case off =>
    cases en
    case false => simp [partWrite, fnPlain, hst]
    case true =>
      have ha : s.pwr.dev ≠ .active := fun ha => hon ⟨hst, rfl, ha⟩
      simp [partWrite, fnPlain, hst, ha]
  case starting => simp [partWrite, fnPlain, hst]
  case restarting => simp [partWrite, fnPlain, hst]
  case on =>
    cases en
    case false => exact absurd ⟨hst, rfl⟩ hoff
    case true => simp [partWrite, fnPlain, hst]
  case stopping => simp [partWrite, fnPlain, hst]

theorem partWrite_begin (hst : (fnOf s p.idx).st = .off) (ha : s.pwr.dev = .active) :
    partWrite s p true = eddyOn (railStart (fnPlain s p.idx true)) p := by
  simp [partWrite, fnPlain, partBegin, hst, ha]

theorem partWrite_stop (hst : (fnOf s p.idx).st = .on) :
    partWrite s p false = partStop (modFn s p.idx fun f => { f with en := false }) p := by
  simp [partWrite, hst]

theorem exists_partRec (h : n < 8) (hc : Concerned s n) : ∃ p, partRec s n = some p :=
  Option.isSome_iff_exists.mp (by simpa [Concerned, h] using hc)

theorem fnSet_eq_fnPlain (hc : Concerned s n)
    (hpart : n < 8 → ¬((fnOf s n).st = .off ∧ en = true ∧ s.pwr.dev = .active) ∧ ¬((fnOf s n).st = .on ∧ en = false)) :
    fnSet s n en = fnPlain s n en := by
  by_cases hn : n < 8
  · obtain ⟨p, hp⟩ := exists_partRec hn hc
    obtain rfl := partRec_idx hp
    rw [fnSet_part hn hp, partWrite_plain (hpart hn).1 (hpart hn).2]
  · exact fnSet_plain (by omega) hc

/-- The write changes its own function alone, unless a pipe stops or a partition starts or stops. -/
theorem fnSet_writes (hc : Concerned s n) (hpipe : ¬PipeStops s n en)
    (hpart : n < 8 → ¬((fnOf s n).st = .off ∧ en = true ∧ s.pwr.dev = .active) ∧ ¬((fnOf s n).st = .on ∧ en = false)) :
    Writes s (fnSet s n en) n ((fnOf s n).written (decide (s.pwr.dev = .active)) (cmpBusy s n) en) := by
  rw [fnSet_eq_fnPlain hc hpart]
  exact fnPlain_writes hpipe

/-! ## Eddy unit groups follow their partitions (R34) -/

theorem not_pipeStops_true : ¬PipeStops s n true := fun ⟨_, _, _, h⟩ => Bool.noConfusion h

theorem not_pipeStops_eddy {g : Nat} : ¬PipeStops s (12 + g) en := fun ⟨_, h, _, _⟩ => by omega

theorem eddyOn_only (s : State) (p : Partition) : FnsOnly s (eddyOn s p) :=
  .foldl (fun _ _ => (fnPlain_writes not_pipeStops_true).only) _ _

/-- A function no Eddy unit group is keeps its state through steps that write Eddy unit groups. -/
theorem foldl_eddy_below {f : State → Nat → State} (hf : ∀ s g k, k < 12 → fnOf (f s g) k = fnOf s k) (l : List Nat)
    (s : State) {k : Nat} (hk : k < 12) : fnOf (l.foldl f s) k = fnOf s k := by
  induction l generalizing s with
  | nil => rfl
  | cons g l ih => rw [List.foldl_cons, ih, hf s g k hk]

theorem fnPlain_eddy_below (s : State) (en : Bool) (g : Nat) {k : Nat} (hk : k < 12) :
    fnOf (fnPlain s (12 + g) en) k = fnOf s k := (fnPlain_writes not_pipeStops_eddy).other k (by omega)

theorem eddyOn_below (s : State) (p : Partition) {k : Nat} (hk : k < 12) : fnOf (eddyOn s p) k = fnOf s k :=
  foldl_eddy_below (fun s g _ hk => fnPlain_eddy_below s true g hk) _ _ hk

/-- `g` comes of `f` by enables while the device is active: what is latched or on stays, and OFF may become
STARTING. -/
def Fn.Grows (f g : Fn) : Prop :=
  g.latched = f.latched ∧ (f.en = true → g.en = true) ∧ (g.st = f.st ∨ f.st = .off ∧ g.st = .starting)

theorem Fn.Grows.refl (f : Fn) : f.Grows f := ⟨rfl, id, .inl rfl⟩

theorem Fn.Grows.trans {f g h : Fn} (hfg : f.Grows g) (hgh : g.Grows h) : f.Grows h := by
  obtain ⟨l, e, st⟩ := hfg
  obtain ⟨l', e', st'⟩ := hgh
  refine ⟨l'.trans l, e' ∘ e, ?_⟩
  rcases st with st | ⟨off, st⟩
  · rwa [st] at st'
  · rcases st' with st' | ⟨off', -⟩
    · exact .inr ⟨off, st'.trans st⟩
    · rw [st] at off'
      cases off'

theorem Fn.written_grows (f : Fn) (busy : Bool) : f.Grows (f.written true busy true) := by
  unfold Fn.Grows
  cases hst : f.st <;> simp [Fn.written, hst]

theorem fnPlain_grows (ha : s.pwr.dev = .active) (n k : Nat) : (fnOf s k).Grows (fnOf (fnPlain s n true) k) := by
  have hw := fnPlain_writes (s := s) (n := n) not_pipeStops_true
  by_cases hk : k = n
  · subst hk
    rw [hw.same, decide_eq_true ha]
    exact Fn.written_grows ..
  · rw [hw.other k hk]
    exact .refl _

theorem eddyOn_grows (ha : s.pwr.dev = .active) (p : Partition) (k : Nat) : (fnOf s k).Grows (fnOf (eddyOn s p) k) := by
  unfold eddyOn
  induction groupsOf p generalizing s with
  | nil => exact .refl _
  | cons g l ih =>
    have hd := (fnPlain_writes (s := s) (n := 12 + g) not_pipeStops_true).only.dev
    exact (fnPlain_grows ha (12 + g) k).trans (ih (hd.trans ha))

theorem eddyOn_en (s : State) (p : Partition) {g : Nat} (hg : g ∈ groupsOf p) : (fnOf (eddyOn s p) (12 + g)).en = true := by
  have stays : ∀ (l : List Nat) (s : State), (fnOf s (12 + g)).en = true →
      (fnOf (l.foldl (fun s g => fnPlain s (12 + g) true) s) (12 + g)).en = true := by
    intro l
    induction l with
    | nil => exact fun _ h => h
    | cons x l ih =>
      refine fun s h => ih _ ?_
      have hw := fnPlain_writes (s := s) (n := 12 + x) not_pipeStops_true
      by_cases hx : 12 + g = 12 + x
      · rw [hx, hw.same, Fn.written_en]
      · rw [hw.other _ hx, h]
  unfold eddyOn
  generalize groupsOf p = l at hg
  induction l generalizing s with
  | nil => simp at hg
  | cons x l ih =>
    rcases List.mem_cons.mp hg with rfl | hg
    · refine stays l _ ?_
      rw [(fnPlain_writes not_pipeStops_true).same, Fn.written_en]
    · exact ih _ hg

/-- An Eddy unit group stops with a partition unless another enabled partition has a core in it. -/
def eddyOffStep (s : State) (i g : Nat) : State :=
  if s.cfg.parts.any (fun q => q.idx != i && (fnOf s q.idx).en && (groupsOf q).contains g) then s
  else fnPlain s (12 + g) false

theorem eddyOffStep_only (s : State) (i g : Nat) : FnsOnly s (eddyOffStep s i g) := by
  unfold eddyOffStep
  split
  · exact .refl s
  · exact (fnPlain_writes not_pipeStops_eddy).only

theorem eddyOffStep_below (s : State) (i g k : Nat) (hk : k < 12) : fnOf (eddyOffStep s i g) k = fnOf s k := by
  unfold eddyOffStep
  split
  · rfl
  · exact fnPlain_eddy_below s false g hk

/-- No step enables a function. -/
theorem eddyOffStep_en (s : State) (i g k : Nat) (h : (fnOf (eddyOffStep s i g) k).en = true) : (fnOf s k).en = true := by
  unfold eddyOffStep at h
  split at h
  · exact h
  · have hw := fnPlain_writes (s := s) (n := 12 + g) (en := false) not_pipeStops_eddy
    by_cases hk : k = 12 + g
    · rw [hk, hw.same, Fn.written_en] at h
      cases h
    · rwa [hw.other k hk] at h

theorem eddyOff_eq (s : State) (p : Partition) : eddyOff s p = (groupsOf p).foldl (fun s g => eddyOffStep s p.idx g) s := rfl

theorem eddyOff_only (s : State) (p : Partition) : FnsOnly s (eddyOff s p) :=
  .foldl (fun s g => eddyOffStep_only s p.idx g) _ _

theorem eddyOff_below (s : State) (p : Partition) {k : Nat} (hk : k < 12) : fnOf (eddyOff s p) k = fnOf s k :=
  foldl_eddy_below (fun s g k hk => eddyOffStep_below s p.idx g k hk) _ _ hk

/-- A group of the partition that no other enabled partition has a core in is disabled. -/
theorem eddyOff_en (s : State) (p : Partition) {g : Nat} (hg : g ∈ groupsOf p)
    (hq : s.cfg.parts.any (fun q => q.idx != p.idx && (fnOf s q.idx).en && (groupsOf q).contains g) = false) :
    (fnOf (eddyOff s p) (12 + g)).en = false := by
  have stays : ∀ (l : List Nat) (s : State), (fnOf s (12 + g)).en = false →
      (fnOf (l.foldl (fun s g => eddyOffStep s p.idx g) s) (12 + g)).en = false := by
    intro l
    induction l with
    | nil => exact fun _ h => h
    | cons x l ih =>
      refine fun s h => ih _ (Bool.eq_false_iff.mpr fun ht => ?_)
      rw [eddyOffStep_en s _ _ _ ht] at h
      cases h
  rw [eddyOff_eq]
  generalize groupsOf p = l at hg
  induction l generalizing s with
  | nil => simp at hg
  | cons x l ih =>
    rcases List.mem_cons.mp hg with rfl | hg
    · have hstep : eddyOffStep s p.idx g = fnPlain s (12 + g) false := by
        unfold eddyOffStep
        rw [hq, if_neg Bool.false_ne_true]
      refine stays l _ ?_
      change (fnOf (eddyOffStep s p.idx g) (12 + g)).en = false
      rw [hstep, (fnPlain_writes not_pipeStops_eddy).same, Fn.written_en]
    · refine ih _ ?_ hg
      rw [(eddyOffStep_only s p.idx x).cfg]
      refine Bool.eq_false_iff.mpr fun ht => Bool.eq_false_iff.mp hq ?_
      simp only [List.any_eq_true, Bool.and_eq_true] at ht ⊢
      obtain ⟨q, hm, ⟨hne, hen⟩, hc⟩ := ht
      exact ⟨q, hm, ⟨hne, eddyOffStep_en s _ _ _ hen⟩, hc⟩

end Sys2Proof.Machine
end

section
/-! # The ends of transitions (R33) -/

namespace Sys2Proof.Machine

set_option Elab.async false

variable {s t u : State} {n : Nat} {p : Partition}

/-! ## A partition starts and stops (R159, R292, R426) -/

theorem railStart_only (s : State) : FnsOnly s (railStart s) := by
  unfold railStart
  split
  · split
    · exact ⟨_, _, _, rfl, fun _ => rfl⟩
    · exact .refl s
  · exact .refl s

theorem fnOf_railStart (s : State) (k : Nat) : fnOf (railStart s) k = fnOf s k := by
  unfold railStart
  split
  · split <;> rfl
  · rfl

/-- A partition's maintenance operation is waited for. -/
theorem partStop_waits (h : s.mem.op.isSome = true) : partStop s p = s := if_pos h

/-- The launches that run on a partition. -/
def partInsts (s : State) (p : Partition) : List Nat := tkeys s.insts (fun _ x => x.part == p.idx)

theorem partStop_eq (h : s.mem.op = none) : partStop s p =
    eddyOff (modFn (finishAll s (partInsts s p) .preempted 0xFFFF) p.idx fun f => { f with st := .stopping }) p := by
  rw [partStop, if_neg (by simp [h])]
  rfl

theorem partStop_below (h : s.mem.op = none) {k : Nat} (hk : k < 12) : fnOf (partStop s p) k =
    if k = p.idx then { fnOf s k with st := .stopping } else fnOf s k := by
  have hf := (finishAll_fns s (partInsts s p) .preempted 0xFFFF).fn k (by omega)
  rw [partStop_eq h, eddyOff_below _ _ hk]
  split
  · next hi => rw [← hi, fnOf_modFn_same, hf]
  · next hi => rw [fnOf_modFn_other _ _ _ _ hi, hf]

/-- A partition that runs nothing stops without changing anything but the power domain. -/
theorem partStop_idle (h : s.mem.op = none) (hi : s.insts.all (fun e => e.2.part != p.idx) = true) :
    FnsOnly s (partStop s p) := by
  have hl : partInsts s p = [] := by
    simp only [partInsts, tkeys, List.map_eq_nil_iff, List.filter_eq_nil_iff]
    intro e he
    simpa using List.all_eq_true.mp hi e he
  rw [partStop_eq h, hl]
  exact (modFn_only ..).trans (eddyOff_only ..)

theorem partStop_eddy (h : s.mem.op = none) {g : Nat} (hg : g ∈ groupsOf p)
    (hq : s.cfg.parts.any (fun q => q.idx != p.idx && (fnOf s q.idx).en && (groupsOf q).contains g) = false) :
    (fnOf (partStop s p) (12 + g)).en = false := by
  have hf := finishAll_fns s (partInsts s p) .preempted 0xFFFF
  rw [partStop_eq h]
  refine eddyOff_en _ p hg (Bool.eq_false_iff.mpr fun ht => Bool.eq_false_iff.mp hq ?_)
  rw [show (modFn (finishAll s (partInsts s p) .preempted 0xFFFF) p.idx fun f => { f with st := .stopping }).cfg = s.cfg
    from hf.cfg] at ht
  simp only [List.any_eq_true, Bool.and_eq_true] at ht ⊢
  obtain ⟨q, hm, ⟨hne, hen⟩, hc⟩ := ht
  rw [fnOf_modFn_other _ _ _ _ (by simpa using hne), hf.en] at hen
  exact ⟨q, hm, ⟨hne, hen⟩, hc⟩

theorem partBegin_only (s : State) (p : Partition) (again : Bool) : FnsOnly s (partBegin s p again) :=
  (modFn_only ..).trans ((railStart_only _).trans (eddyOn_only _ _))

theorem partBegin_below (s : State) (p : Partition) (again : Bool) {k : Nat} (hk : k < 12) :
    fnOf (partBegin s p again) k = fnOf (fnBegin s p.idx again) k := by
  rw [partBegin, eddyOn_below _ _ hk, fnOf_railStart]

/-! ## Entry into ON and OFF (R33) -/

theorem fnEnter_frame (s : State) (n : Nat) (st : FnState) : fnEnter s n st = { s with
    pwr := (modFn s n fun f => { f with st := st }).pwr, irq := (raise s .fnState).irq, log := (fnEnter s n st).log } := by
  unfold fnEnter
  rw [event_eq_log]
  rfl

theorem fnOf_fnEnter (s : State) (n : Nat) (st : FnState) (k : Nat) :
    fnOf (fnEnter s n st) k = fnOf (modFn s n fun f => { f with st := st }) k := by
  rw [fnEnter_frame]
  rfl

theorem fnEnter_appends (s : State) (n : Nat) (st : FnState) : Appends s (fnEnter s n st) (fun r =>
    r.cls = 0 ∧ r.code = 0x0021 ∧ r.unit = 16 ∧ r.info = BitVec.ofNat 32 (packNat [(n, 0), (st.code, 8)])) :=
  event_appends_class (modFn s n fun f => { f with st := st }) 0x0021 0 16 0 0 (packNat [(n, 0), (st.code, 8)]) none

/-! ## Splits that waited for Eddy units -/

theorem Group.sameRegs_trans {g h k : Group} (hgh : g.sameRegs h) (hhk : h.sameRegs k) : g.sameRegs k := by
  obtain ⟨a, b, c, d, e⟩ := hgh
  obtain ⟨a', b', c', d', e'⟩ := hhk
  exact ⟨a.trans a', b.trans b', c.trans c', d.trans d', e.trans e'⟩

/-- Groups of `s` are in `t` with the same registers. -/
def KeepsRegs (s t : State) : Prop :=
  ∀ k g, tfind s.groups k = some g → ∃ g', tfind t.groups k = some g' ∧ g'.sameRegs g

theorem KeepsRegs.of_groups (h : t.groups = s.groups) : KeepsRegs s t :=
  fun _ g hg => ⟨g, by rw [h, hg], rfl, rfl, rfl, rfl, rfl⟩

theorem KeepsRegs.trans (h : KeepsRegs s t) (h' : KeepsRegs t u) : KeepsRegs s u := fun k g hg => by
  obtain ⟨g', hg', hs⟩ := h k g hg
  obtain ⟨g'', hg'', hs'⟩ := h' k g' hg'
  exact ⟨g'', hg'', Group.sameRegs_trans hs' hs⟩

theorem unstall_keepsRegs (s : State) (key : Nat) (q : Why → Bool) : KeepsRegs s (unstall s key q) := fun k g hg => by
  have hf := tfind_tupd s.groups key k (fun g => { g with splits := g.splits.map fun e =>
    (e.1, if e.2.st = .stalled && q e.2.why then e.2.toReady (coreNow s (key / 64)) else e.2) })
  rw [hg] at hf
  by_cases hk : k = key
  · rw [if_pos hk] at hf
    exact ⟨_, hf, rfl, rfl, rfl, rfl, rfl⟩
  · rw [if_neg hk] at hf
    exact ⟨_, hf, rfl, rfl, rfl, rfl, rfl⟩

theorem unstallAll_keepsRegs (s : State) (q : Why → Bool) : KeepsRegs s (unstallAll s q) := by
  unfold unstallAll
  generalize s.groups.map (·.1) = l
  induction l generalizing s with
  | nil => exact .of_groups rfl
  | cons k l ih => exact (unstall_keepsRegs s k q).trans (ih _)

theorem unstallAll_frame (s : State) (q : Why → Bool) :
    unstallAll s q = { s with groups := (unstallAll s q).groups } := by
  unfold unstallAll
  generalize s.groups.map (·.1) = l
  induction l generalizing s with
  | nil => rfl
  | cons k l ih =>
    rw [List.foldl_cons, ih]
    rfl

/-! ## What a stopped partition leaves (R32, R115, R288) -/

theorem partZero_frame (s : State) (p : Partition) :
    partZero s p = { s with cores := (partZero s p).cores, mem := (partZero s p).mem } := by
  unfold partZero
  dsimp only
  rw [foldl_mem _ wcFlush_frame, foldl_mem _ l2Evict_frame]

theorem partZero_cores (s : State) (p : Partition) :
    (partZero s p).cores = s.cores.filter (fun e => !p.coreMask.getLsbD e.1) := by
  unfold partZero
  dsimp only
  rw [foldl_mem _ wcFlush_frame, foldl_mem _ l2Evict_frame]

theorem macTouch_l2 (s : State) (a : Nat) (wr : Bool) : (macTouch s a wr).mem.l2 = s.mem.l2 := by
  unfold macTouch
  split <;> rfl

theorem wcFlush_l2 (s : State) (a : Nat) : (wcFlush s a).mem.l2 = s.mem.l2 := by
  unfold wcFlush
  split
  · rw [dramMask, macTouch_l2]
  · rfl

theorem l2Evict_l2 (s : State) (key k : Nat) :
    tfind (l2Evict s key).mem.l2 k = if k = key then none else tfind s.mem.l2 k := by
  unfold l2Evict
  split
  · next h =>
    split
    · next hk => rw [hk, h]
    · rfl
  · split
    · exact tfind_tdel _ _ _
    · dsimp only
      split
      · rw [dramPut, macTouch_l2]
        exact tfind_tdel _ _ _
      · exact tfind_tdel _ _ _

theorem foldl_l2Evict_l2 (l : List Nat) (s : State) (k : Nat) :
    tfind (l.foldl l2Evict s).mem.l2 k = if k ∈ l then none else tfind s.mem.l2 k := by
  induction l generalizing s with
  | nil => simp
  | cons x l ih =>
    rw [List.foldl_cons, ih, l2Evict_l2]
    by_cases hl : k ∈ l <;> by_cases hx : k = x <;> simp [hl, hx]

theorem foldl_wcFlush_l2 (l : List Nat) (s : State) : (l.foldl wcFlush s).mem.l2 = s.mem.l2 := by
  induction l generalizing s with
  | nil => rfl
  | cons x l ih => rw [List.foldl_cons, ih, wcFlush_l2]

/-- The partition's L2 slices hold no line. -/
theorem partZero_l2 (s : State) (p : Partition) {k : Nat} (hk : p.chMask.getLsbD (k / 8192) = true) :
    tfind (partZero s p).mem.l2 k = none := by
  have hl : (partZero s p).mem.l2 =
      ((tkeys s.mem.l2 (fun k _ => p.chMask.getLsbD (k / 8192))).foldl l2Evict s).mem.l2 := foldl_wcFlush_l2 _ _
  rw [hl, foldl_l2Evict_l2]
  split
  · rfl
  · next hm =>
    by_contra hf
    obtain ⟨x, hx⟩ := Option.ne_none_iff_exists'.mp hf
    exact hm (mem_tkeys.mpr ⟨x, mem_of_tfind hx, hk⟩)

end Sys2Proof.Machine
end

section
/-! # FN_TRANSITION_DONE and the exit from RETAIN (R30, R33) -/

namespace Sys2Proof.Machine

set_option Elab.async false

variable {s t u : State} {n : Nat} {p : Partition}

/-! ## FN_TRANSITION_DONE -/

/-- A pipe enters ON with every layer disabled, no configuration and frames 0 (R353). -/
def pipeReady (s : State) (n : Nat) : State :=
  if 8 ≤ n && n < 12 then modPipe (pipeOff s (n - 8)) (n - 8) (fun p => { p with frames := 0 }) else s

/-- What the end of STARTING leaves of an enabled function: ON, with the splits of its Eddy units ready. -/
def turnOn (s : State) (n : Nat) : State :=
  let u := fnEnter (pipeReady s n) n .on
  if 12 ≤ n && n < 20 then unstallAll u (· == .eddyOff) else u

theorem pipeReady_other (h : n < 8 ∨ 12 ≤ n) : pipeReady s n = s := if_neg (by simp; omega)

theorem pipeReady_pipe (h8 : 8 ≤ n) (h12 : n < 12) :
    pipeReady s n = modPipe (pipeOff s (n - 8)) (n - 8) (fun p => { p with frames := 0 }) := if_pos (by simp [h8, h12])

theorem pipeReady_frame (s : State) (n : Nat) : pipeReady s n = { s with
    pipes := (pipeReady s n).pipes, fences := (pipeReady s n).fences, objs := (pipeReady s n).objs } := by
  unfold pipeReady
  split
  · rw [pipeOff_frame]
    rfl
  · rfl

theorem turnOn_frame (s : State) (n : Nat) : turnOn s n = { s with
    pwr := (turnOn s n).pwr, irq := (raise s .fnState).irq, log := (turnOn s n).log, groups := (turnOn s n).groups
    pipes := (turnOn s n).pipes, fences := (turnOn s n).fences, objs := (turnOn s n).objs } := by
  unfold turnOn
  dsimp only
  split
  · rw [unstallAll_frame, fnEnter_frame, pipeReady_frame]
    rfl
  · rw [fnEnter_frame, pipeReady_frame]
    rfl

/-- Past the entry into ON only groups change. -/
theorem turnOn_enter (s : State) (n : Nat) :
    turnOn s n = { fnEnter (pipeReady s n) n .on with groups := (turnOn s n).groups } := by
  unfold turnOn
  dsimp only
  split
  · exact unstallAll_frame _ _
  · rfl

theorem fnOf_turnOn (s : State) (n k : Nat) : fnOf (turnOn s n) k = fnOf (modFn s n fun f => { f with st := .on }) k := by
  calc fnOf (turnOn s n) k = fnOf (fnEnter (pipeReady s n) n .on) k := by rw [turnOn_enter]; rfl
    _ = fnOf (modFn (pipeReady s n) n fun f => { f with st := .on }) k := fnOf_fnEnter ..
    _ = fnOf (modFn s n fun f => { f with st := .on }) k := by rw [pipeReady_frame]; rfl

theorem turnOn_keepsRegs (s : State) (n : Nat) : KeepsRegs s (turnOn s n) := by
  have h0 : KeepsRegs s (fnEnter (pipeReady s n) n .on) := .of_groups (by rw [fnEnter_frame, pipeReady_frame])
  unfold turnOn
  dsimp only
  split
  · exact h0.trans (unstallAll_keepsRegs _ _)
  · exact h0

theorem turnOn_groups (h : n < 12 ∨ 20 ≤ n) : (turnOn s n).groups = s.groups := by
  have hc : ¬(decide (12 ≤ n) && decide (n < 20)) = true := by simp; omega
  have hu : turnOn s n = fnEnter (pipeReady s n) n .on := if_neg hc
  rw [hu, fnEnter_frame, pipeReady_frame]

theorem turnOn_pipes (s : State) (n : Nat) : (turnOn s n).pipes = (pipeReady s n).pipes := by
  rw [turnOn_enter, fnEnter_frame]

theorem turnOn_keepsPipes (h : n < 8 ∨ 12 ≤ n) :
    (turnOn s n).pipes = s.pipes ∧ (turnOn s n).fences = s.fences ∧ (turnOn s n).objs = s.objs := by
  rw [turnOn_enter, fnEnter_frame, pipeReady_other h]
  exact ⟨rfl, rfl, rfl⟩

theorem turnOn_pipe (h8 : 8 ≤ n) (h12 : n < 12) : (pipeOf (turnOn s n) (n - 8)).layers = [] ∧
    (pipeOf (turnOn s n) (n - 8)).conf = none ∧ (pipeOf (turnOn s n) (n - 8)).frames = 0 := by
  obtain ⟨hl, hc, -⟩ := pipeOff_same s (n - 8)
  have hp : pipeOf (turnOn s n) (n - 8) = { pipeOf (pipeOff s (n - 8)) (n - 8) with frames := 0 } := by
    rw [pipeOf, turnOn_pipes, pipeReady_pipe h8 h12]
    exact pipeOf_modPipe_same ..
  rw [hp]
  exact ⟨hl, hc, rfl⟩

theorem turnOn_appends (s : State) (n : Nat) : Appends s (turnOn s n) (fun r =>
    r.cls = 0 ∧ r.code = 0x0021 ∧ r.unit = 16 ∧ r.info = BitVec.ofNat 32 (packNat [(n, 0), (3, 8)])) :=
  ((fnEnter_appends (pipeReady s n) n .on).of_eq (by rw [pipeReady_frame])).to_eq (by rw [turnOn_enter])

theorem fnDoneOp_waits (h : (fnOf s n).st = .off ∨ (fnOf s n).st = .on ∨
    (fnOf s n).st = .stopping ∧ 12 ≤ n ∧ n < 20 ∧ tracing s (n - 12) = true) : fnDoneOp s n = s := by
  rcases h with h | h | ⟨h, h12, h20, ht⟩
  · simp [fnDoneOp, h]
  · simp [fnDoneOp, h]
  · simp [fnDoneOp, h, h12, h20, ht]

theorem fnDoneOp_starts (h : (fnOf s n).st = .starting ∨ (fnOf s n).st = .restarting) :
    fnDoneOp s n = if (fnOf s n).en then turnOn s n else fnStop s n := by
  unfold fnDoneOp
  dsimp only
  rcases h with h | h <;> rw [h] <;> rfl

theorem fnDoneOp_stops (h : (fnOf s n).st = .stopping) (ht : 12 ≤ n → n < 20 → tracing s (n - 12) = false) :
    fnDoneOp s n = fnStopped s n := by
  have hc : ¬(decide (12 ≤ n) && decide (n < 20) && tracing s (n - 12)) = true := by
    simp only [Bool.and_eq_true, decide_eq_true_eq, not_and, Bool.not_eq_true]
    exact fun h => ht h.1 h.2
  unfold fnDoneOp
  dsimp only
  rw [h]
  exact if_neg hc

theorem fnStop_plain (h : 8 ≤ n ∨ partRec s n = none) : fnStop s n = modFn s n fun f => { f with st := .stopping } := by
  have hp : (if n < 8 then partRec s n else none) = none := by
    split
    · exact h.resolve_left (by omega)
    · rfl
  rw [fnStop, hp]

theorem fnStop_part (h : n < 8) (hp : partRec s n = some p) : fnStop s n = partStop s p := by
  rw [fnStop, if_pos h, hp]

/-- What STOPPING leaves zeroed: the storage of a partition's cores and its L2 slices. -/
def stopZero (s : State) (n : Nat) : State :=
  match (if n < 8 then partRec s n else none) with
  | some p => partZero s p
  | none => s

theorem stopZero_frame (s : State) (n : Nat) :
    stopZero s n = { s with cores := (stopZero s n).cores, mem := (stopZero s n).mem } := by
  unfold stopZero
  split
  · exact partZero_frame _ _
  · rfl

theorem stopZero_plain (h : 8 ≤ n) : stopZero s n = s := by
  rw [stopZero, if_neg (by omega)]

theorem stopZero_part (h : n < 8) (hp : partRec s n = some p) : stopZero s n = partZero s p := by
  rw [stopZero, if_pos h, hp]

theorem fnOf_stopZero (s : State) (n k : Nat) : fnOf (stopZero s n) k = fnOf s k := by
  rw [stopZero_frame]
  rfl

theorem fnStopped_off (h : (fnOf s n).pending = false) : fnStopped s n = fnEnter (stopZero s n) n .off := by
  have hp : ¬(fnOf (stopZero s n) n).pending = true := by rw [fnOf_stopZero, h]; exact Bool.false_ne_true
  exact if_neg hp

/-- An enable that came while the function stopped restarts it. -/
theorem fnStopped_again (h : (fnOf s n).pending = true) : fnStopped s n =
    match (if n < 8 then partRec s n else none) with
    | some p => partBegin (stopZero s n) p true
    | none => fnBegin (stopZero s n) n true := by
  have hp : (fnOf (stopZero s n) n).pending = true := by rw [fnOf_stopZero, h]
  exact if_pos hp

theorem fnStopped_again_only (h : (fnOf s n).pending = true) : FnsOnly (stopZero s n) (fnStopped s n) := by
  rw [fnStopped_again h]
  split
  · exact partBegin_only _ _ _
  · exact modFn_only ..

theorem fnOf_fnStopped_again (h : (fnOf s n).pending = true) : fnOf (fnStopped s n) n =
    { fnOf s n with st := .restarting, pending := false, restarts := satInc (fnOf s n).restarts } := by
  have hb : fnOf (fnBegin (stopZero s n) n true) n =
      { fnOf s n with st := .restarting, pending := false, restarts := satInc (fnOf s n).restarts } := by
    rw [fnBegin, fnOf_modFn_same, fnOf_stopZero]
    rfl
  rw [fnStopped_again h]
  split
  · next q hq =>
    by_cases hn : n < 8
    · rw [if_pos hn] at hq
      have hi := partRec_idx hq
      rw [partBegin_below _ _ _ (by omega), hi, hb]
    · rw [if_neg hn] at hq
      cases hq
  · exact hb

theorem fnOf_fnStopped_again_other (h8 : 8 ≤ n) (h : (fnOf s n).pending = true) {k : Nat} (hk : k ≠ n) :
    fnOf (fnStopped s n) k = fnOf s k := by
  rw [fnStopped_again h, if_neg (by omega), stopZero_plain h8]
  exact fnOf_modFn_other _ _ _ _ hk

/-! ## The exit from RETAIN starts what was latched (R30) -/

theorem fnOf_all {q : Fn → Bool} (h : s.pwr.fns.all (fun e => q e.2) = true) (h0 : q {} = true) (k : Nat) :
    q (fnOf s k) = true := by
  unfold fnOf tget
  cases hf : tfind s.pwr.fns k
  case none => exact h0
  case some f => exact List.all_eq_true.mp h _ (mem_of_tfind hf)

/-- The device is active and every function is off or starting. -/
def Quiet (s : State) : Prop := s.pwr.dev = .active ∧ ∀ k, (fnOf s k).st = .off ∨ (fnOf s k).st = .starting

theorem Fn.Grows.quiet {f g : Fn} (h : f.Grows g) (hf : f.st = .off ∨ f.st = .starting) :
    g.st = .off ∨ g.st = .starting := by
  obtain ⟨-, -, hst | ⟨-, hst⟩⟩ := h
  · rwa [hst]
  · exact .inr hst

theorem Fn.written_quiet {f : Fn} (hf : f.st = .off ∨ f.st = .starting) (busy en : Bool) :
    ((f.written true busy en).st = .off ∨ (f.written true busy en).st = .starting) ∧
    (f.latched = false → (f.written true busy en).latched = false) ∧
    (en = true → (f.written true busy en).st = .starting) := by
  rcases hf with hf | hf
  · cases en <;> simp [Fn.written, hf]
  · simp [Fn.written, hf]

/-- A write to a function of a quiet device reaches that function, and else only enables Eddy unit groups. -/
theorem fnSet_quiet (hq : Quiet s) (n : Nat) (en : Bool) : FnsOnly s (fnSet s n en) ∧
    (∀ k, k ≠ n → (fnOf s k).Grows (fnOf (fnSet s n en) k)) ∧
    fnOf (fnSet s n en) n = if Concerned s n then (fnOf s n).written true (cmpBusy s n) en else fnOf s n := by
  obtain ⟨ha, hst⟩ := hq
  have hpipe : ¬PipeStops s n en := fun ⟨_, _, h, _⟩ => by
    rcases hst n with h' | h' <;> rw [h'] at h <;> cases h
  by_cases hc : Concerned s n
  · rw [if_pos hc]
    by_cases hb : n < 8 ∧ (fnOf s n).st = .off ∧ en = true
    · obtain ⟨hn, hoff, rfl⟩ := hb
      obtain ⟨p, hp⟩ := exists_partRec hn hc
      obtain rfl := partRec_idx hp
      have hw := fnPlain_writes (s := s) (n := p.idx) not_pipeStops_true
      have hr := hw.only.trans (railStart_only _)
      rw [fnSet_part hn hp, partWrite_begin hoff ha]
      refine ⟨hr.trans (eddyOn_only _ _), fun k hk => ?_, ?_⟩
      · have hg := eddyOn_grows (hr.dev.trans ha) p k
        rwa [fnOf_railStart, hw.other k hk] at hg
      · rw [eddyOn_below _ _ (by omega), fnOf_railStart, hw.same, decide_eq_true ha]
    · have hon : ¬((fnOf s n).st = .on ∧ en = false) := fun ⟨h, _⟩ => by
        rcases hst n with h' | h' <;> rw [h'] at h <;> cases h
      have hw := fnSet_writes hc hpipe fun hn => ⟨fun h => hb ⟨hn, h.1, h.2.1⟩, hon⟩
      refine ⟨hw.only, fun k hk => ?_, by rw [hw.same, decide_eq_true ha]⟩
      rw [hw.other k hk]
      exact .refl _
  · rw [if_neg hc, fnSet_unconcerned hc]
    exact ⟨.refl s, fun _ _ => .refl _, rfl⟩

/-- One function's turn: a latched enable is taken. -/
def takeLatch (s : State) (n : Nat) : State :=
  if (fnOf s n).latched then fnSet (modFn s n (fun f => { f with latched := false })) n (fnOf s n).en else s

/-- The device as the 200 microseconds end. -/
def awake (s : State) : State :=
  { s with pwr := { s.pwr with dev := .active, waking := false, retain := false, sramMv := 750 } }

theorem retainExitOp_idle (h : s.pwr.dev ≠ .retain ∨ s.pwr.waking = false) : retainExitOp s = s := by
  unfold retainExitOp
  rw [if_neg]
  rcases h with h | h <;> simp [h]

theorem retainExitOp_eq (h : s.pwr.dev = .retain) (hw : s.pwr.waking = true) :
    retainExitOp s = (List.range 22).foldl takeLatch (awake s) := by
  unfold retainExitOp
  rw [if_pos (by simp [h, hw])]
  rfl

theorem foldl_takeLatch_none (h : ∀ k, (fnOf s k).latched = false) (l : List Nat) : l.foldl takeLatch s = s := by
  induction l with
  | nil => rfl
  | cons x l ih =>
    have hx : takeLatch s x = s := if_neg (by simp [h x])
    rw [List.foldl_cons, hx, ih]

theorem modFn_unlatch_quiet (hq : Quiet s) (n : Nat) : Quiet (modFn s n fun f => { f with latched := false }) := by
  obtain ⟨ha, hst⟩ := hq
  refine ⟨ha, fun k => ?_⟩
  by_cases hk : k = n
  · rw [hk, fnOf_modFn_same]
    exact hst n
  · rw [fnOf_modFn_other _ _ _ _ hk]
    exact hst k

theorem Concerned.of_cfg (h : Concerned s n) (hc : t.cfg = s.cfg) : Concerned t n := by
  unfold Concerned fnConcerns partRec at *
  rwa [hc]

theorem takeLatch_quiet (hq : Quiet s) (n : Nat) : FnsOnly s (takeLatch s n) ∧ Quiet (takeLatch s n) ∧
    (∀ k, k ≠ n → (fnOf s k).Grows (fnOf (takeLatch s n) k)) ∧
    ((fnOf s n).latched = true → (fnOf s n).en = true → Concerned s n →
      (fnOf (takeLatch s n) n).st = .starting ∧ (fnOf (takeLatch s n) n).latched = false) := by
  unfold takeLatch
  split
  · next hl =>
    have hq' := modFn_unlatch_quiet hq n
    have hu := modFn_writes s n fun f => { f with latched := false }
    obtain ⟨honly, hother, hsame⟩ := fnSet_quiet hq' n (fnOf s n).en
    have hgrows (k : Nat) (hk : k ≠ n) := hu.other k hk ▸ hother k hk
    obtain ⟨hst, hlat, hstart⟩ := Fn.written_quiet (hq'.2 n)
      (cmpBusy (modFn s n fun f => { f with latched := false }) n) (fnOf s n).en
    refine ⟨hu.only.trans honly, ⟨honly.dev.trans hq.1, fun k => ?_⟩, hgrows, fun _ hen hc => ?_⟩
    · by_cases hk : k = n
      · subst hk
        rw [hsame]
        split
        · exact hst
        · exact hq'.2 k
      · exact (hgrows k hk).quiet (hq.2 k)
    · rw [hsame, if_pos (hc.of_cfg hu.only.cfg)]
      exact ⟨hstart hen, hlat (by rw [hu.same])⟩
  · next hl => exact ⟨.refl s, hq, fun _ _ => .refl _, fun h => absurd h hl⟩

theorem foldl_takeLatch_quiet (hq : Quiet s) (l : List Nat) : FnsOnly s (l.foldl takeLatch s) ∧
    Quiet (l.foldl takeLatch s) ∧ ∀ k, k ∉ l → (fnOf s k).Grows (fnOf (l.foldl takeLatch s) k) := by
  induction l generalizing s with
  | nil => exact ⟨.refl s, hq, fun _ _ => .refl _⟩
  | cons x l ih =>
    obtain ⟨honly, hq', hg, -⟩ := takeLatch_quiet hq x
    obtain ⟨honly', hq'', hg'⟩ := ih hq'
    refine ⟨honly.trans honly', hq'', fun k hk => ?_⟩
    rw [List.mem_cons, not_or] at hk
    exact (hg k hk.1).trans (hg' k hk.2)

/-- Each latched function starts at its own turn; the turns before and after leave it latched, and starting. -/
theorem foldl_takeLatch_starts (hq : Quiet s) {l : List Nat} (hl : l.Nodup) (hn : n ∈ l)
    (hlat : (fnOf s n).latched = true) (hen : (fnOf s n).en = true) (hc : Concerned s n) :
    (fnOf (l.foldl takeLatch s) n).st = .starting ∧ (fnOf (l.foldl takeLatch s) n).latched = false := by
  obtain ⟨a, b, rfl⟩ := List.append_of_mem hn
  have hna : n ∉ a := fun h => List.disjoint_of_nodup_append hl h List.mem_cons_self
  have hnb : n ∉ b := (List.nodup_cons.mp (List.nodup_append.mp hl).2.1).1
  rw [List.foldl_append, List.foldl_cons]
  obtain ⟨honly, hqa, hga⟩ := foldl_takeLatch_quiet hq a
  obtain ⟨hla, hea, -⟩ := hga n hna
  obtain ⟨-, hqt, -, hstart⟩ := takeLatch_quiet hqa n
  obtain ⟨hst, hlt⟩ := hstart (hla.trans hlat) (hea hen) (hc.of_cfg honly.cfg)
  obtain ⟨-, -, hgb⟩ := foldl_takeLatch_quiet hqt b
  obtain ⟨hlb, -, hsb⟩ := hgb n hnb
  refine ⟨?_, hlb.trans hlt⟩
  rcases hsb with h | ⟨h, -⟩
  · exact h.trans hst
  · rw [hst] at h
    cases h

end Sys2Proof.Machine
end

section
/-! # The power loop, sensors, the rail and the correlation record (R28, R36, R37, R426) -/

namespace Sys2Proof.Machine

set_option Elab.async false

variable {s t u : State} {n g sensor c cause : Nat}

/-! ## The power loop (R37, R423) -/

theorem powerLimit_watts (s : State) : (powerLimit s).1 = min s.cfg.limitW (max 35 s.pwr.hostLim.toNat) := by
  unfold powerLimit
  dsimp only
  split
  · rfl
  · dsimp only
    omega

/-- Above the limit the loop raises, below 95 % of it it relaxes. -/
theorem loopOp_eq (s : State) : loopOp s =
    if s.pwr.dev != .active || s.pwr.mgmtRestarting || s.pwr.samples.length = 0 then s
    else if (powerLimit s).1 * 1000 * s.pwr.samples.length < s.pwr.samples.foldl (· + ·) 0 then loopRaise s (powerLimit s).2
    else if s.pwr.samples.foldl (· + ·) 0 * 100 < 95 * (powerLimit s).1 * 1000 * s.pwr.samples.length then
      loopRelax s (powerLimit s).2
    else s := rfl

/-- The conditions under which the loop has samples to judge. -/
def LoopRuns (s : State) : Prop := s.pwr.dev = .active ∧ s.pwr.mgmtRestarting = false ∧ 0 < s.pwr.samples.length

theorem loopOp_runs (h : LoopRuns s) : loopOp s =
    if (powerLimit s).1 * 1000 * s.pwr.samples.length < s.pwr.samples.foldl (· + ·) 0 then loopRaise s (powerLimit s).2
    else if s.pwr.samples.foldl (· + ·) 0 * 100 < 95 * (powerLimit s).1 * 1000 * s.pwr.samples.length then
      loopRelax s (powerLimit s).2
    else s := by
  obtain ⟨ha, hm, hn⟩ := h
  have hne : s.pwr.samples ≠ [] := List.ne_nil_of_length_pos hn
  rw [loopOp_eq, if_neg (by simp [ha, hm, hne])]

theorem loopOp_still (h : s.pwr.dev ≠ .active ∨ s.pwr.mgmtRestarting = true ∨ s.pwr.samples.length = 0 ∨
    s.pwr.samples.foldl (· + ·) 0 ≤ (powerLimit s).1 * 1000 * s.pwr.samples.length ∧
      95 * (powerLimit s).1 * 1000 * s.pwr.samples.length ≤ s.pwr.samples.foldl (· + ·) 0 * 100) : loopOp s = s := by
  rw [loopOp_eq]
  rcases h with h | h | h | ⟨hle, hge⟩
  · exact if_pos (by simp [h])
  · exact if_pos (by simp [h])
  · exact if_pos (by simp [h])
  · rw [if_neg (not_lt.mpr hle), if_neg (not_lt.mpr hge), ite_self]

theorem mem_raiseOrder (h : g ∈ raiseOrder s) : g ∈ poweredGroups s := by
  simp only [raiseOrder, List.mem_append, List.mem_filter, List.mem_reverse] at h
  exact h.elim And.left And.left

theorem loopRaise_none (h : (raiseOrder s).find? (fun g => decide (tget s.pwr.steps g 0 < 12)) = none) :
    loopRaise s cause = s := by
  rw [loopRaise, h]

/-- The first group of the raising order that can still rise rises. -/
theorem loopRaise_some (h : (raiseOrder s).find? (fun g => decide (tget s.pwr.steps g 0 < 12)) = some g) :
    tget s.pwr.steps g 0 < tget (loopRaise s cause).pwr.steps g 0 ∧
    StepsTaken s (loopRaise s cause) cause false { s.pwr with
      dLoop := tput s.pwr.dLoop g (tget s.pwr.steps g 0 + 1) } := by
  have hlt := poweredGroups_lt (mem_raiseOrder (List.mem_of_find?_eq_some h))
  rw [loopRaise, h]
  refine ⟨?_, applySteps_taken ..⟩
  refine Nat.lt_of_lt_of_le ?_ ((dLoop_le_demand _ g).trans (demand_le_applySteps s cause false _ hlt))
  rw [tget_tput_same]
  exact Nat.lt_succ_self _

theorem loopRelax_none (h : (raiseOrder s).reverse.find? (fun g => decide (0 < tget s.pwr.dLoop g 0)) = none) :
    loopRelax s cause = s := by
  rw [loopRelax, h]

theorem loopRelax_some (h : (raiseOrder s).reverse.find? (fun g => decide (0 < tget s.pwr.dLoop g 0)) = some g) :
    StepsTaken s (loopRelax s cause) cause false { s.pwr with
      dLoop := tput s.pwr.dLoop g (tget s.pwr.dLoop g 0 - 1) } := by
  rw [loopRelax, h]
  exact applySteps_taken ..

/-! ## Sensors (R36) -/

theorem thermalOp_cool (h : c ≤ s.cfg.throttleC) : thermalOp s sensor c = s := if_neg (by omega)

/-- The sensors known hot, with one more. -/
def hotWith (s : State) (sensor : Nat) : List Nat := if s.pwr.hot.contains sensor then s.pwr.hot else sensor :: s.pwr.hot

theorem thermalOp_hot (h : s.cfg.throttleC < c) : thermalOp s sensor c = applySteps s 1 false { s.pwr with
    hot := hotWith s sensor
    dTherm := tput s.pwr.dTherm (sensor / 3) (min 12 (tget s.pwr.steps (sensor / 3) 0 + 2)) } := if_pos h

theorem thermalOp_raises (h : s.cfg.throttleC < c) (hs : sensor < 24) :
    min 12 (tget s.pwr.steps (sensor / 3) 0 + 2) ≤ tget (thermalOp s sensor c).pwr.steps (sensor / 3) 0 := by
  have hle := (dTherm_le_demand { s.pwr with
    hot := hotWith s sensor
    dTherm := tput s.pwr.dTherm (sensor / 3) (min 12 (tget s.pwr.steps (sensor / 3) 0 + 2)) } (sensor / 3)).trans
      (demand_le_applySteps s 1 false _ (by omega))
  rw [tget_tput_same] at hle
  rwa [thermalOp_hot h]

theorem coolOp_still (h : s.cfg.throttleC < c ∨ sensor ∉ s.pwr.hot) : coolOp s sensor c = s :=
  if_pos (by simpa using h)

theorem coolOp_eq (hc : c ≤ s.cfg.throttleC) (hm : sensor ∈ s.pwr.hot) : coolOp s sensor c =
    if (s.pwr.hot.filter (· != sensor)).any (fun x => x / 3 == sensor / 3) then
      { s with pwr := { s.pwr with hot := s.pwr.hot.filter (· != sensor) } }
    else applySteps s 1 false { s.pwr with
      hot := s.pwr.hot.filter (· != sensor), dTherm := tdel s.pwr.dTherm (sensor / 3) } :=
  if_neg (by simp [hm]; omega)

/-! ## Groups held together (R36, R426) -/

/-- One demand of every core group. -/
theorem tget_allGroups (v : Nat) (hg : g < 8) : tget ((List.range 8).map fun g => (g, v)) g 0 = v := by
  rw [tget, tfind_map_keys (fun _ => v) (List.mem_range.mpr hg)]
  rfl

theorem currentOp_raises (s : State) (hg : g < 8) : 8 ≤ tget (currentOp s).pwr.steps g 0 := by
  have hle := (dCur_le_demand { s.pwr with
    currentOn := true, dCur := (List.range 8).map (fun g => (g, 8)) } g).trans
      (demand_le_applySteps { s with pins := { s.pins with coreOcN := false } } 2 false _ hg)
  rwa [tget_allGroups 8 hg] at hle

theorem busFailOp_holds (s : State) (hg : g < 8) : s.pwr.vStep ≤ tget (busFailOp s).pwr.steps g 0 := by
  have hle := (dHold_le_demand { s.pwr with
    vNext := none, dHold := (List.range 8).map (fun g => (g, s.pwr.vStep)) } g).trans
      (demand_le_applySteps s 4 true _ hg)
  rwa [tget_allGroups s.pwr.vStep hg] at hle

theorem voltageOp_none (h : s.pwr.vNext = none) : voltageOp s = s := by
  rw [voltageOp, h]

theorem voltageOp_some {v : Nat} (h : s.pwr.vNext = some v) : voltageOp s =
    applySteps s s.pwr.vCause false { s.pwr with vStep := v, vNext := none, dHold := [] } := by
  rw [voltageOp, h]

/-- A group whose demand the new voltage serves runs at its demand. -/
theorem voltageOp_demand {v : Nat} (h : s.pwr.vNext = some v) (hg : g < 8)
    (hd : v ≤ demand { s.pwr with dHold := [] } g) :
    tget (voltageOp s).pwr.steps g 0 = demand { s.pwr with dHold := [] } g := by
  rw [voltageOp_some h, applySteps_steps, stepsFor_get s _ hg]
  exact nextStep_served (p := { s.pwr with vStep := v, vNext := none, dHold := [] }) hd

/-! ## The correlation record (R28) -/

theorem correlateOp_still (h : s.boot.stage ≠ .ready ∨ s.pwr.mgmtRestarting = true) : correlateOp s = s :=
  if_pos (by simpa using h)

theorem correlateOp_eq (hb : s.boot.stage = .ready) (hm : s.pwr.mgmtRestarting = false) :
    correlateOp s = { s with clk := { s.clk with
      corr := (List.range 44).map (fun d => (d, (domCount s d, BitVec.ofNat 32 (domHz s d))))
      corrTs := domCount s 36 } } := if_neg (by simp [hb, hm])

/-! ## RETAIN (R422) -/

theorem retainOp_eq (h : s.pwr.dev = .active) : retainOp s = retainTake { s with pwr := { s.pwr with retain := true } } :=
  if_pos h

end Sys2Proof.Machine
end

section
/-! # PWR_FN_WRITE and the power commands together -/

namespace Sys2Proof.Machine

set_option Elab.async false

variable {s t u : State} {n : Nat} {en : Bool} {p : Partition}

/-! ## PWR_FN_WRITE (R33, R55, R421) -/

theorem hostWrite_eq (s : State) (n : Nat) (en : Bool) : exec (.pwrFnWrite n en false) s =
    onLive s (if s.boot.stage = .ready then fnHostSet s n en else s) := rfl

theorem mgmtWrite_eq (s : State) (n : Nat) (en : Bool) : exec (.pwrFnWrite n en true) s = onLive s (fnSet s n en) := rfl

theorem fnHostSet_granted (h : (fnConcerns s n).all (·.fnGrant) = true) : fnHostSet s n en = fnSet s n en := if_pos h

theorem fnHostSet_refused (h : (fnConcerns s n).all (·.fnGrant) = false) : fnHostSet s n en = s :=
  if_neg (Bool.eq_false_iff.mp h)

theorem not_concerned (h : (if n < 8 then (partRec s n).isNone else (fnConcerns s n).isEmpty) = true) :
    ¬Concerned s n := by
  unfold Concerned
  split at h
  · next hn => simpa [hn] using h
  · next hn => simpa [hn] using h

theorem exec_pwrFnWrite_unconcerned (h : ¬Concerned s n) (mgmt : Bool) : exec (.pwrFnWrite n en mgmt) s = .next s := by
  have hs : onLive s s = .next s := by rw [onLive, ite_self]
  cases mgmt
  · rw [hostWrite_eq]
    cases hg : (fnConcerns s n).all (·.fnGrant)
    · rw [fnHostSet_refused hg, ite_self, hs]
    · rw [fnHostSet_granted hg, fnSet_unconcerned h, ite_self, hs]
  · rw [mgmtWrite_eq, fnSet_unconcerned h, hs]

/-- A write that starts and stops no partition and stops no pipe changes its function as Table 2-7 says, and nothing
else. -/
theorem fnSet_becomes {x : Fn} (hc : Concerned s n) (hstop : (fnOf s n).st = .on → en = false → 12 ≤ n)
    (hstart : (fnOf s n).st = .off → en = true → s.pwr.dev ≠ .active ∨ 8 ≤ n)
    (hx : (fnOf s n).written (decide (s.pwr.dev = .active)) (cmpBusy s n) en = x) : Writes s (fnSet s n en) n x := by
  have hpipe : ¬PipeStops s n en := fun ⟨_, h12, hon, he⟩ => by
    have := hstop hon he
    omega
  refine hx ▸ fnSet_writes hc hpipe fun hn => ⟨fun ⟨hoff, he, ha⟩ => ?_, fun ⟨hon, he⟩ => ?_⟩
  · exact (hstart hoff he).elim (· ha) (by omega)
  · have := hstop hon he
    omega

theorem Writes.outcome {x : Fn} (h : Writes s (fnSet s n en) n x) (hrun : s.runs = true) :
    ∃ t, exec (.pwrFnWrite n en true) s = .next t ∧ t = { s with pwr := t.pwr } ∧ fnOf t n = x ∧
      ∀ k, k ≠ n → fnOf t k = fnOf s k := ⟨_, onLive_runs hrun _, h.only.pwr, h.same, h.other⟩

/-- An enable in RETAIN wakes the device (R30). -/
theorem fnSet_wakes (hc : Concerned s n) (hoff : (fnOf s n).st = .off) (hd : s.pwr.dev = .retain) :
    (fnSet s n true).pwr.waking = true := by
  have hna : s.pwr.dev ≠ .active := by rw [hd]; exact DevState.noConfusion
  rw [fnSet_eq_fnPlain hc fun _ => ⟨fun ⟨_, _, ha⟩ => hna ha, fun ⟨_, he⟩ => Bool.noConfusion he⟩]
  simp [fnPlain, hoff, hd, mgmtWake_waking]

/-- An enable of a function that is OFF starts it; a partition's Eddy unit groups follow. -/
theorem fnSet_starts (hc : Concerned s n) (hoff : (fnOf s n).st = .off) (ha : s.pwr.dev = .active) :
    FnsOnly s (fnSet s n true) ∧
    fnOf (fnSet s n true) n = { fnOf s n with en := true, st := .starting, pending := false } ∧
    (8 ≤ n → ∀ k, k ≠ n → fnOf (fnSet s n true) k = fnOf s k) ∧
    (∀ k, k < 12 → k ≠ n → fnOf (fnSet s n true) k = fnOf s k) ∧
    ∀ p, n < 8 → partRec s n = some p → ∀ g ∈ groupsOf p, (fnOf (fnSet s n true) (12 + g)).en = true := by
  have hx : (fnOf s n).written (decide (s.pwr.dev = .active)) (cmpBusy s n) true =
      { fnOf s n with en := true, st := .starting, pending := false } := by simp [Fn.written, hoff, ha]
  have hw := fnPlain_writes (s := s) (n := n) not_pipeStops_true
  by_cases hn : n < 8
  · obtain ⟨p, hp⟩ := exists_partRec hn hc
    obtain rfl := partRec_idx hp
    rw [fnSet_part hn hp, partWrite_begin hoff ha]
    refine ⟨hw.only.trans ((railStart_only _).trans (eddyOn_only _ _)), ?_, fun h => by omega, fun k hk hne => ?_,
      fun q _ hq g hg => ?_⟩
    · rw [eddyOn_below _ _ (by omega), fnOf_railStart, hw.same, hx]
    · rw [eddyOn_below _ _ hk, fnOf_railStart, hw.other k hne]
    · rw [hp] at hq
      cases hq
      exact eddyOn_en _ p hg
  · rw [fnSet_plain (by omega) hc]
    exact ⟨hw.only, hw.same.trans hx, fun _ => hw.other, fun k _ hk => hw.other k hk, fun _ h => absurd h hn⟩

/-- A pipe that stops loses its layers, its configuration and its link (R353). -/
theorem fnSet_pipeStops (hc : Concerned s n) (hon : (fnOf s n).st = .on) (h8 : 8 ≤ n) (h12 : n < 12) :
    fnSet s n false = { s with
      pwr := (fnSet s n false).pwr, pipes := (fnSet s n false).pipes, fences := (fnSet s n false).fences
      objs := (fnSet s n false).objs } ∧
    fnOf (fnSet s n false) n = { fnOf s n with en := false, st := .stopping } ∧
    (∀ k, k ≠ n → fnOf (fnSet s n false) k = fnOf s k) ∧
    (pipeOf (fnSet s n false) (n - 8)).layers = [] ∧ (pipeOf (fnSet s n false) (n - 8)).conf = none ∧
    (pipeOf (fnSet s n false) (n - 8)).link = 0 ∧ ∀ k, k ≠ n - 8 → pipeOf (fnSet s n false) k = pipeOf s k := by
  have hw := modFn_writes s n fun f => { f with en := false }
  obtain ⟨hl, hcf, hlk⟩ := pipeOff_same (modFn s n fun f => { f with en := false }) (n - 8)
  rw [fnSet_plain h8 hc, fnPlain_pipe h8 h12 hon]
  refine ⟨?_, ?_, fun k hk => ?_, hl, hcf, hlk, fun k hk => pipeOff_other _ _ hk⟩
  · rw [pipeOff_frame]
    rfl
  · rw [fnOf_modFn_same, fnOf_pipeOff, hw.same]
  · rw [fnOf_modFn_other _ _ _ _ hk, fnOf_pipeOff, hw.other k hk]

theorem fnSet_partStops (h : n < 8) (hp : partRec s n = some p) (hon : (fnOf s n).st = .on) :
    fnSet s n false = partStop (modFn s n fun f => { f with en := false }) p := by
  obtain rfl := partRec_idx hp
  rw [fnSet_part h hp, partWrite_stop hon]

/-- Settles O60: each command is its operation on a running device, and each clause cites what that operation does in
the state named. -/
theorem powerCommands : Obligations.PowerCommands := by
  refine ⟨?granted, ?written, ?ended, ?retain, ?limits, ?loop, ?sensors, ?rail⟩
  case granted =>
    intro s n en mgmt hrun
    refine ⟨fun h => ?_, fun h => ?_, fun hb hg => ?_, fun h => exec_pwrFnWrite_unconcerned (not_concerned h) mgmt⟩
    · exact onLive_next hrun (if_neg h)
    · rw [hostWrite_eq, fnHostSet_refused h, ite_self, onLive_runs hrun]
    · rw [hostWrite_eq, if_pos hb, fnHostSet_granted hg, mgmtWrite_eq]
  case written =>
    intro s n en f hrun hf hc
    subst hf
    refine ⟨fun h => ?same, fun h he => ?off, fun h ha => ?latch, fun h => ?stopping, fun h ha => ?start,
      fun h h12 hb => ?stop, fun h h20 hb => ?busy, fun h h8 h12 => ?pipe, fun h h8 hop => ?maint,
      fun p h h8 hp hop => ?part⟩
    case same =>
      rcases h with h | h | ⟨h, he⟩
      · exact (fnSet_becomes hc (by simp [h]) (by simp [h]) (by simp [Fn.written, h])).outcome hrun
      · exact (fnSet_becomes hc (by simp [h]) (by simp [h]) (by simp [Fn.written, h])).outcome hrun
      · exact (fnSet_becomes hc (by simp [he]) (by simp [h]) (by simp [Fn.written, h, he])).outcome hrun
    case off => exact (fnSet_becomes hc (by simp [h]) (by simp) (by simp [Fn.written, h])).outcome hrun
    case latch =>
      have hw : Writes s (fnSet s n true) n { fnOf s n with en := true, latched := true } :=
        fnSet_becomes hc (by simp) (fun _ _ => .inl ha) (by simp [Fn.written, h, ha])
      exact ⟨_, onLive_runs hrun _, hw.only.pwr, hw.same, fnSet_wakes hc h, hw.other⟩
    case stopping => exact (fnSet_becomes hc (by simp [h]) (by simp [h]) (by simp [Fn.written, h])).outcome hrun
    case start =>
      obtain ⟨honly, hsame, hother⟩ := fnSet_starts hc h ha
      exact ⟨_, onLive_runs hrun _, honly.pwr, hsame, hother⟩
    case stop =>
      have hbusy : cmpBusy s n = false := by
        by_cases h20 : 20 ≤ n
        · rw [cmpBusy, hb h20, Option.isSome_none, Bool.and_false]
        · simp [cmpBusy, h20]
      exact (fnSet_becomes hc (fun _ _ => h12) (by simp) (by simp [Fn.written, h, hbusy])).outcome hrun
    case busy =>
      have hbusy : cmpBusy s n = true := by
        rw [cmpBusy, hb, decide_eq_true h20, Bool.and_self]
      exact (fnSet_becomes hc (fun _ _ => by omega) (by simp) (by simp [Fn.written, h, hbusy])).outcome hrun
    case pipe => exact ⟨_, onLive_runs hrun _, fnSet_pipeStops hc h h8 h12⟩
    case maint =>
      obtain ⟨p, hp⟩ := exists_partRec h8 hc
      have hw := modFn_writes s n fun f => { f with en := false }
      refine ⟨_, onLive_next hrun ?_, hw.only.pwr, hw.same, hw.other⟩
      exact (fnSet_partStops h8 hp h).trans (partStop_waits hop)
    case part =>
      have hw := modFn_writes s n fun f => { f with en := false }
      have hi := partRec_idx hp
      have hop' : (modFn s n fun f => { f with en := false }).mem.op = none := hop
      refine ⟨_, onLive_next hrun (fnSet_partStops h8 hp h), ?_, fun k hk hne => ?_, fun g hg hq => ?_, fun hins => ?_⟩
      · rw [partStop_below hop' (by omega), if_pos hi.symm, hw.same]
      · rw [partStop_below hop' hk, if_neg (by omega), hw.other k hne]
      · refine partStop_eddy hop' hg (Bool.eq_false_iff.mpr fun ht => Bool.eq_false_iff.mp hq ?_)
        simp only [List.any_eq_true, Bool.and_eq_true, bne_iff_ne, hi] at ht ⊢
        obtain ⟨q, hm, ⟨hne, hen⟩, hcont⟩ := ht
        rw [hw.other _ hne] at hen
        exact ⟨q, hm, ⟨hne, hen⟩, hcont⟩
      · exact (hw.only.trans (partStop_idle hop' (hi ▸ hins))).pwr
  case ended =>
    intro s n f hrun hf
    subst hf
    have hfn (k : Nat) (hk : k ≠ n) (st : FnState) := fnOf_modFn_other s n k (fun f => { f with st := st }) hk
    refine ⟨fun h => onLive_next hrun (fnDoneOp_waits h), fun h hen => ?on, fun h hen hp => ?plain,
      fun p h hen h8 hp => ?part, fun h hpend htr => ?off, fun h hpend htr => ?again⟩
    case on =>
      refine ⟨turnOn s n, onLive_next hrun ?_, turnOn_frame s n, ?_, fun k hk => ?_, turnOn_keepsPipes, turnOn_groups,
        turnOn_pipe, turnOn_keepsRegs s n, turnOn_appends s n⟩
      · rw [fnDoneOp_starts h, if_pos hen]
      · rw [fnOf_turnOn, fnOf_modFn_same]
      · rw [fnOf_turnOn, hfn k hk]
    case plain =>
      have hw := modFn_writes s n fun f => { f with st := .stopping }
      refine ⟨_, onLive_next hrun ?_, hw.only.pwr, hw.same, hw.other⟩
      rw [fnDoneOp_starts h, if_neg (by simp [hen]), fnStop_plain hp]
    case part =>
      have hstop : fnDoneOp s n = partStop s p := by
        rw [fnDoneOp_starts h, if_neg (by simp [hen]), fnStop_part h8 hp]
      refine ⟨fun hop => onLive_next hrun (hstop.trans (partStop_waits hop)), fun hop => ⟨_, onLive_next hrun hstop, ?_⟩⟩
      rw [partStop_below hop (by omega), if_pos (partRec_idx hp).symm]
    case off =>
      refine ⟨fnEnter (stopZero s n) n .off, onLive_next hrun ?_, ?_, ?_, fun k hk => ?_, fun h8 => ?_,
        fun p h8 hp => ?_, ?_⟩
      · rw [fnDoneOp_stops h htr, fnStopped_off hpend]
      · rw [fnEnter_frame, stopZero_frame]
        rfl
      · rw [fnOf_fnEnter, fnOf_modFn_same, fnOf_stopZero]
      · rw [fnOf_fnEnter, fnOf_modFn_other _ _ _ _ hk, fnOf_stopZero]
      · rw [fnEnter_frame, stopZero_plain h8]
        exact ⟨rfl, rfl⟩
      · rw [fnEnter_frame, stopZero_part h8 hp]
        refine ⟨fun e he => ?_, fun k hk => partZero_l2 s p hk⟩
        have he' : e ∈ s.cores.filter (fun e => !p.coreMask.getLsbD e.1) := partZero_cores s p ▸ he
        simpa using (List.mem_filter.mp he').2
      · exact (fnEnter_appends (stopZero s n) n .off).of_eq (by rw [stopZero_frame])
    case again =>
      have honly := fnStopped_again_only hpend
      refine ⟨fnStopped s n, onLive_next hrun (fnDoneOp_stops h htr), ?_, fnOf_fnStopped_again hpend, fun h8 => ?_⟩
      · rw [honly.pwr, stopZero_frame]
      · rw [stopZero_plain h8] at honly
        rw [honly.pwr]
        exact ⟨rfl, rfl, fun k hk => fnOf_fnStopped_again_other h8 hpend hk⟩
  case retain =>
    intro s hrun
    refine ⟨fun h => onLive_next hrun (if_neg h), fun h hm => onLive_next hrun ?_, fun h hm hf => onLive_next hrun ?_,
      fun h hm hf => onLive_next hrun ?_, fun h => onLive_next hrun (if_neg h),
      fun h => onLive_next hrun ((if_pos h).trans (if_pos h)), fun h => onLive_next hrun (retainExitOp_idle h),
      fun h hw hl => onLive_next hrun ?_, fun h hw hf => ?_⟩
    · simp [retainOp_eq h, retainTake, h, hm]
    · simp only [retainOp_eq h, retainTake, h, hm, hf]
      rfl
    · simp only [retainOp_eq h, retainTake, h, hm, hf]
      rfl
    · have hnone (k : Nat) : (fnOf s k).latched = false := by simpa using fnOf_all (q := fun f => !f.latched) hl rfl k
      rw [retainExitOp_eq h hw, foldl_takeLatch_none (s := awake s) hnone]
      rfl
    · have hoff (k : Nat) : (fnOf s k).st = .off := by simpa using fnOf_all (q := fun f => f.st == .off) hf rfl k
      have hq : Quiet (awake s) := ⟨rfl, fun k => .inl (hoff k)⟩
      obtain ⟨honly, hquiet, -⟩ := foldl_takeLatch_quiet hq (List.range 22)
      exact ⟨_, onLive_next hrun (retainExitOp_eq h hw), honly.pwr, hquiet.1, honly.waking rfl, honly.sramMv,
        fun n hn hlat hen hc => foldl_takeLatch_starts hq List.nodup_range (List.mem_range.mpr hn) hlat hen hc⟩
  case limits =>
    intro s v l hrun
    refine ⟨fun h => onLive_next hrun ?_, fun hb hw hm => onLive_next hrun ?_, fun hb hw hm => onLive_next hrun ?_,
      fun hm => onLive_next hrun (if_pos hm), fun hm => onLive_next hrun (if_neg (by simp [hm]))⟩
    · rcases h with h | h <;> simp [limitWrite, h]
    · simp [limitWrite, hb, hw, hm]
    · simp [limitWrite, hb, hw, hm]
  case loop =>
    intro s n sum lim g hrun hn hsum hlim
    rw [← powerLimit_watts] at hlim
    subst hn hsum hlim
    refine ⟨rfl, fun h => onLive_next hrun (loopOp_still h), fun ha hm hn hlt => ?_, fun ha hm hn hle hlt => ?_⟩
    · have hloop : loopOp s = loopRaise s (powerLimit s).2 := by rw [loopOp_runs ⟨ha, hm, hn⟩, if_pos hlt]
      exact ⟨fun hg => onLive_next hrun (hloop.trans (loopRaise_none hg)),
        fun hg => ⟨_, onLive_next hrun hloop, loopRaise_some hg⟩⟩
    · have hloop : loopOp s = loopRelax s (powerLimit s).2 := by
        rw [loopOp_runs ⟨ha, hm, hn⟩, if_neg (not_lt.mpr hle), if_pos hlt]
      exact ⟨fun hg => onLive_next hrun (hloop.trans (loopRelax_none hg)),
        fun hg => ⟨_, onLive_next hrun hloop, loopRelax_some hg⟩⟩
  case sensors =>
    intro s sensor c hot hrun
    refine ⟨fun h => onLive_next hrun (thermalOp_cool h), fun h hh => ?_, fun h => onLive_next hrun (coolOp_still h),
      fun hc hm hh => ?_, fun h => onLive_next hrun (if_neg (by omega)), fun h => onLive_next hrun (if_pos h),
      fun h => ?_, fun h => onLive_next hrun (if_neg (by omega))⟩
    · subst hh
      refine ⟨_, onLive_runs hrun _, thermalOp_raises h, ?_⟩
      rw [thermalOp_hot h]
      exact applySteps_taken ..
    · subst hh
      refine ⟨fun ha => onLive_next hrun ((coolOp_eq hc hm).trans (if_pos ha)), fun ha => ⟨_, onLive_next hrun
        ((coolOp_eq hc hm).trans (if_neg (Bool.eq_false_iff.mp ha))), applySteps_taken ..⟩⟩
    · exact ⟨_, onLive_next hrun (if_pos h), by simp [State.runs], rfl⟩
  case rail =>
    intro s hrun
    refine ⟨⟨_, onLive_runs hrun _, fun g => currentOp_raises s, applySteps_taken ..⟩,
      ⟨_, onLive_runs hrun _, applySteps_taken ..⟩, fun h => onLive_next hrun (voltageOp_none h), fun v h => ?_,
      ⟨_, onLive_runs hrun _, fun g => busFailOp_holds s, applySteps_taken ..⟩,
      fun h => onLive_next hrun (correlateOp_still h), fun hb hm => ?_⟩
    · refine ⟨_, onLive_runs hrun _, ?_, fun g hg hd => voltageOp_demand h hg hd⟩
      rw [voltageOp_some h]
      exact applySteps_taken ..
    · exact ⟨_, onLive_next hrun (correlateOp_eq hb hm), rfl, fun d hd => tfind_map_keys _ (List.mem_range.mpr hd)⟩

end Sys2Proof.Machine
end

section
/-! # Out of reach, the state after reset and the reset pulses (R40 to R43) -/

namespace Sys2Proof.Machine

variable {s : State} {n : Nat}

/-! ## Commands meet nobody while the device does not run (R40, R428, Table 2-10) -/

/-- Only PORST_N and the internal reset reach a device that does not run: every other meaning answers through `onLive`,
but for NOP, which changes nothing anyway. -/
theorem exec_stopped {c : Instr} (h : s.runs = false) (hrise : ∀ b, c ≠ .porstNRelease b)
    (hfall : ∀ n, c ≠ .porstNAssert n) (hint : ∀ w, c ≠ .internalReset w) : exec c s = .next s := by
  cases c with
  | porstNRelease b => exact absurd rfl (hrise b)
  | porstNAssert n => exact absurd rfl (hfall n)
  | internalReset w => exact absurd rfl (hint w)
  | nop ch des => rfl
  | _ => exact onLive_stopped h _

/-- Settles O2: each command but the three that act in reset is answered by `onLive`. -/
theorem outOfReach : Obligations.OutOfReach := by
  unfold Obligations.OutOfReach
  exact fun s c h hrise hfall hint => exec_stopped h hrise hfall hint

theorem onLive_same (s : State) : onLive s s = .next s := by rw [onLive, ite_self]

/-! ## The state after reset (R40, Table 3-2) -/

theorem intLow_reset (k : Nat) : intLow State.reset k = true ↔ k = 3 := by simp [intLow, State.reset]

/-- Settles O3: the tables of `State.reset` are empty, so each entry reads as its default. -/
theorem resetState : Obligations.ResetState := by
  unfold Obligations.ResetState
  exact ⟨.reset, rfl, rfl, rfl, rfl, rfl, rfl, rfl, rfl, rfl, intLow_reset, fun _ => ⟨rfl, rfl⟩, fun _ _ => ⟨rfl, rfl⟩,
    fun _ => ⟨rfl, rfl⟩, rfl, rfl, fun _ => ⟨rfl, rfl⟩, fun _ => rfl, fun _ => rfl, fun _ => ⟨rfl, rfl⟩, rfl, rfl, rfl,
    rfl, rfl, fun _ => ⟨rfl, rfl⟩⟩

/-! ## Which pulses act (R41) -/

theorem pulseActs_short (h : n < 38) : pulseActs s n = (false, s) := if_pos h

theorem pulseActs_long (h : 384 ≤ n) : pulseActs s n = (true, s) := by
  rw [pulseActs, if_neg (by omega), if_pos h]

/-- Between the two lengths a free value decides (log 8). -/
theorem pulseActs_between (h : 38 ≤ n) (hn : n < 384) :
    pulseActs s n = (bit (Config.freeValue s.free) 0, { s with free := s.free + 1 }) := by
  rw [pulseActs, if_neg (by omega), if_neg (by omega)]
  rfl

/-! ## PORST_N and the internal reset (R40, R375, R428) -/

theorem porstLowOp_short (h : n < 38) : porstLowOp s n = s := by
  rw [porstLowOp, pulseActs_short h]
  rfl

theorem porstLowOp_long (h : 384 ≤ n) : porstLowOp s n = powerOn s { porstN := false, xspiDriven := false } := by
  rw [porstLowOp, pulseActs_long h]
  rfl

theorem porstLowOp_between (h : 38 ≤ n) (hn : n < 384) : porstLowOp s n = { s with free := s.free + 1 } ∨
    porstLowOp s n = porstLowOp { s with free := s.free + 1 } 384 := by
  rw [porstLowOp_long (Nat.le_refl 384), porstLowOp, pulseActs_between h hn]
  cases bit (Config.freeValue s.free) 0
  · exact .inl rfl
  · exact .inr rfl

theorem porstHighOp_rise (h : s.pins.porstN = false) (ok : Bool) :
    porstHighOp s ok = powerOn { s with fuses := { s.fuses with ok := ok } } {} := if_neg (Bool.eq_false_iff.mp h)

theorem porstHighOp_high (h : s.pins.porstN = true) (ok : Bool) : porstHighOp s ok = s := if_pos h

theorem internalResetOp_high (h : s.pins.porstN = true) : internalResetOp s =
    powerOn s { held := true, xspiDriven := false, thermtrip := s.pins.thermtrip } := if_pos h

/-- Settles O6: each of the three ends in `powerOn`, which takes every part of the state but three from
`State.reset`. -/
theorem powerOnResets : Obligations.PowerOnResets := by
  unfold Obligations.PowerOnResets
  refine ⟨fun s n h => ?_, fun s n h => ?_, fun s ok h => ?_, fun s ok h => ?_, fun s why h => ?_⟩
  · exact congrArg _ (porstLowOp_long h)
  · exact congrArg _ (porstLowOp_short h)
  · exact congrArg _ (porstHighOp_rise h ok)
  · exact congrArg _ (porstHighOp_high h ok)
  · exact congrArg _ (internalResetOp_high h)

end Sys2Proof.Machine
end

section
/-! # Zeroing starts, and HRST_N restarts boot (R42, R43, R60, R295) -/

namespace Sys2Proof.Machine

variable {s : State} {n : Nat} {pc : Bool}

/-! ## The keys of encrypted partitions (R295) -/

/-- A 256-bit number of four free values, from number `k` on. -/
def random256 (k : Nat) : BitVec 256 :=
  Config.freeValue k ++ Config.freeValue (k + 1) ++ Config.freeValue (k + 2) ++ Config.freeValue (k + 3)

/-- A key table with fresh keys for a list of partitions, of the free values from number `k` on. -/
def keysFor : List Partition → Nat → Tab MemKeys → Tab MemKeys
  | [], _, t => t
  | p :: ps, k, t =>
    keysFor ps (k + 12) (tput t p.idx { x1 := random256 k, x2 := random256 (k + 4), mac := random256 (k + 8) })

theorem drawKeys_eq (s : State) : drawKeys s = { s with
    free := s.free + 12 * (s.cfg.parts.filter (·.enc)).length
    mem := { s.mem with keys := keysFor (s.cfg.parts.filter (·.enc)) s.free s.mem.keys } } := by
  unfold drawKeys
  induction s.cfg.parts.filter (·.enc) generalizing s with
  | nil => rfl
  | cons p ps ih =>
    rw [List.foldl_cons, ih, List.length_cons, Nat.mul_add, Nat.mul_one, Nat.add_comm _ 12, ← Nat.add_assoc]
    rfl

theorem keysFor_keeps {i : Nat} {m : Tab MemKeys} (h : (tfind m i).isSome = true) (ps : List Partition) (k : Nat) :
    (tfind (keysFor ps k m) i).isSome = true := by
  induction ps generalizing k m with
  | nil => exact h
  | cons p ps ih =>
    refine ih ?_ _
    rw [tfind_tput]
    split
    · rfl
    · exact h

theorem keysFor_mem {p : Partition} {ps : List Partition} (h : p ∈ ps) (k : Nat) (m : Tab MemKeys) :
    (tfind (keysFor ps k m) p.idx).isSome = true := by
  induction ps generalizing k m with
  | nil => cases h
  | cons q ps ih =>
    cases h with
    | head => exact keysFor_keeps (by rw [tfind_tput_same]; rfl) ps _
    | tail _ h => exact ih h _ _

theorem drawKeys_mem {p : Partition} (h : p ∈ s.cfg.parts) (he : p.enc = true) :
    (tfind (drawKeys s).mem.keys p.idx).isSome = true := by
  rw [drawKeys_eq]
  exact keysFor_mem (List.mem_filter.mpr ⟨h, he⟩) _ _

/-! ## Zeroing starts (R60) -/

/-- Every populated byte is left to zero. -/
def zeroCounted (s : State) : State := { s with boot := { s.boot with zeroLeft := populatedBytes s.cfg } }

theorem zeroStart_eq (s : State) :
    zeroStart s = if s.boot.trained then drawKeys (zeroCounted s) else zeroCounted s := rfl

/-- `t` is `s` with a count of bytes to zero and perhaps fresh keys. -/
def Zeroes (s t : State) : Prop := ∃ left free keys,
  t = { s with boot := { s.boot with zeroLeft := left }, free := free, mem := { s.mem with keys := keys } }

theorem zeroStart_zeroes (s : State) : Zeroes s (zeroStart s) := by
  rw [zeroStart_eq]
  split
  · rw [drawKeys_eq]
    exact ⟨_, _, _, rfl⟩
  · exact ⟨_, _, _, rfl⟩

theorem zeroes_unless (c : Bool) (s : State) : Zeroes s (if c then s else zeroStart s) := by
  cases c
  · exact zeroStart_zeroes s
  · exact ⟨_, _, _, rfl⟩

/-! ## HRST_N restarts boot (R42, R43) -/

/-- HRST_N is low until tick `k`. -/
def lowUntil (s : State) (k : Nat) : State := { s with pins := { s.pins with hrstUntil := k } }

theorem zeroStart_lowUntil (s : State) (k : Nat) : zeroStart (lowUntil s k) = lowUntil (zeroStart s) k := by
  have hc : zeroCounted (lowUntil s k) = lowUntil (zeroCounted s) k := rfl
  have ht : (lowUntil s k).boot.trained = s.boot.trained := rfl
  rw [zeroStart_eq, zeroStart_eq, hc, ht, apply_ite (lowUntil · k), drawKeys_eq, drawKeys_eq]
  rfl

/-- Boot restarts at CFG, and zeroing starts unless the fallback configuration is in force. -/
def hrstRestart (s : State) (pc : Bool) : State :=
  if s.cfg.fallback then afterHrst s pc else zeroStart (afterHrst s pc)

theorem hrstRestart_lowUntil (s : State) (pc : Bool) (k : Nat) :
    hrstRestart (lowUntil s k) pc = lowUntil (hrstRestart s pc) k := by
  have ha : afterHrst (lowUntil s k) pc = lowUntil (afterHrst s pc) k := rfl
  have hf : (lowUntil s k).cfg.fallback = s.cfg.fallback := rfl
  rw [hrstRestart, hrstRestart, ha, hf, zeroStart_lowUntil, apply_ite (lowUntil · k)]

theorem hrstRestart_zeroes (s : State) (pc : Bool) : Zeroes (afterHrst s pc) (hrstRestart s pc) :=
  zeroes_unless s.cfg.fallback (afterHrst s pc)

/-- The configuration is still to be captured, or to be read again. -/
abbrev Uncaptured (s : State) : Prop := s.boot.stage = .cfg ∧ (s.cfg.valid = false ∨ s.boot.reread = true)

theorem uncaptured_iff : (decide (s.boot.stage = .cfg) && (!s.cfg.valid || s.boot.reread)) = true ↔ Uncaptured s := by
  simp

/-- HRST_N is low for `n` REFCLK cycles from now, or longer. -/
def hrstHold (s : State) (n : Nat) : State := lowUntil s (max s.pins.hrstUntil (s.clk.now + 875 * n))

/-- What a pulse that acts does. -/
def hrstTake (s : State) (n : Nat) (pc : Bool) : State :=
  if Uncaptured s then hrstHold s n else hrstRestart (hrstHold s n) pc

theorem hrstOp_eq (s : State) (n : Nat) (pc : Bool) : hrstOp s n pc =
    if (pulseActs s n).1 then hrstTake (pulseActs s n).2 n pc else (pulseActs s n).2 := by
  unfold hrstOp
  obtain ⟨acts, u⟩ := pulseActs s n
  cases acts
  · rfl
  · have hif : (if (decide (u.boot.stage = .cfg) && (!u.cfg.valid || u.boot.reread)) = true then hrstHold u n
        else hrstRestart (hrstHold u n) pc) = hrstTake u n pc := if_congr uncaptured_iff rfl rfl
    exact hif

theorem hrstOp_short (h : n < 38) : hrstOp s n pc = s := by
  rw [hrstOp_eq, pulseActs_short h]
  rfl

theorem hrstOp_long (h : 384 ≤ n) : hrstOp s n pc = hrstTake s n pc := by
  rw [hrstOp_eq, pulseActs_long h]
  rfl

theorem hrstOp_between (h : 38 ≤ n) (hn : n < 384) : hrstOp s n pc = { s with free := s.free + 1 } ∨
    hrstOp s n pc = hrstTake { s with free := s.free + 1 } n pc := by
  rw [hrstOp_eq, pulseActs_between h hn]
  cases bit (Config.freeValue s.free) 0
  · exact .inl rfl
  · exact .inr rfl

/-- How long the pin was low shows in the instant of its release alone. -/
theorem hrstTake_length (s : State) (m n : Nat) (pc : Bool) :
    hrstTake s m pc = lowUntil (hrstTake s n pc) (hrstTake s m pc).pins.hrstUntil := by
  unfold hrstTake
  split
  · rfl
  · rw [hrstHold, hrstHold, hrstRestart_lowUntil, hrstRestart_lowUntil]
    rfl

/-- Settles O5: of the length of a pulse only `pulseActs` and the end of the low level ask. -/
theorem resetPulses : Obligations.ResetPulses := by
  unfold Obligations.ResetPulses
  refine ⟨fun s n pc h => ⟨?_, ?_⟩, fun s n h => ?_, fun s n pc hrun h hn => ⟨?_, ?_⟩⟩
  · exact congrArg _ (porstLowOp_short h)
  · exact (congrArg _ (hrstOp_short h)).trans (onLive_same s)
  · exact congrArg _ ((porstLowOp_long h).trans (porstLowOp_long (Nat.le_refl 384)).symm)
  · exact (porstLowOp_between h hn).imp (congrArg _) (congrArg _)
  · refine (hrstOp_between h hn).imp (onLive_next hrun) fun ht => ⟨_, _, onLive_next hrun ht,
      onLive_next hrun (hrstOp_long (Nat.le_refl 384)), hrstTake_length ..⟩

/-! ## What HRST_N leaves of a channel (R42, R81) -/

/-- The counters of a channel are 0. -/
def Chan.uncounted (c : Chan) : Chan :=
  { c with cntRef := 0, proto := 0, weccUe := 0, weccCe := 0, unmapRd := 0, unmapWr := 0 }

theorem chOf_afterHrst (h : ¬(s.cfg.fallback = true ∧ pc = true)) (ch : Nat) :
    chOf (afterHrst s pc) ch = (chOf s ch).uncounted := by
  have hp : (afterHrst s pc).hp = s.hp.map fun e => (e.1, e.2.uncounted) := if_neg (by simpa using h)
  rw [chOf, chOf, hp, tget, tget, tfind_map fun _ => Chan.uncounted]
  cases tfind s.hp ch <;> rfl

/-! ## HPRST_N (R62, R81) -/

/-- A channel loses all but its counters. -/
def Chan.portReset (c : Chan) : Chan :=
  { cntRef := c.cntRef, proto := c.proto, weccUe := c.weccUe, weccCe := c.weccCe, unmapRd := c.unmapRd
    unmapWr := c.unmapWr }

theorem foldl_modCh_frame (f : Chan → Chan) (l : List Nat) (s : State) :
    l.foldl (fun s n => modCh s n f) s = { s with hp := (l.foldl (fun s n => modCh s n f) s).hp } := by
  induction l generalizing s with
  | nil => rfl
  | cons n l ih =>
    rw [List.foldl_cons, ih]
    rfl

theorem chOf_foldl_modCh (f : Chan → Chan) {l : List Nat} (hl : l.Nodup) (s : State) (ch : Nat) :
    chOf (l.foldl (fun s n => modCh s n f) s) ch = if ch ∈ l then f (chOf s ch) else chOf s ch := by
  induction l generalizing s with
  | nil => rfl
  | cons n l ih =>
    obtain ⟨hn, hl⟩ := List.nodup_cons.mp hl
    rw [List.foldl_cons, ih hl]
    by_cases hc : ch = n
    · subst hc
      rw [if_neg hn, if_pos List.mem_cons_self, chOf_modCh_same]
    · rw [chOf_modCh_other _ _ _ _ hc]
      simp [hc]

theorem hprstOp_frame (s : State) (half : Nat) : hprstOp s half = { s with hp := (hprstOp s half).hp } :=
  foldl_modCh_frame Chan.portReset _ s

theorem chOf_hprstOp (s : State) (half ch : Nat) :
    chOf (hprstOp s half) ch = if ch / 4 = half then (chOf s ch).portReset else chOf s ch := by
  refine (chOf_foldl_modCh Chan.portReset List.nodup_range' s ch).trans (if_congr ?_ rfl rfl)
  rw [List.mem_range'_1]
  omega

/-- Settles O7: a pulse on a captured device is `afterHrst` with zeroing started, and an earlier one only holds the
pin. -/
theorem hostResets : Obligations.HostResets := by
  unfold Obligations.HostResets
  refine ⟨fun s n pc hrun hn hc => ?_, fun s n pc hrun hn hs hc => ?_, fun s n pc hn => ?_, fun s half ch hrun _ _ => ?_⟩
  · have hu : ¬Uncaptured s := by
      rintro ⟨hs, hv⟩
      rcases hc with hc | ⟨hv', hr⟩
      · exact hc hs
      · simp [hv', hr] at hv
    obtain ⟨left, free, keys, ht⟩ := hrstRestart_zeroes (hrstHold s n) pc
    refine ⟨_, onLive_next hrun ((hrstOp_long hn).trans ((if_neg hu).trans ht)), rfl, rfl, rfl, rfl, rfl, rfl, rfl, rfl,
      rfl, rfl, rfl, rfl, rfl, rfl, rfl, fun ch hl => ?_, Nat.le_max_right ..⟩
    have hch := chOf_afterHrst (s := hrstHold s n) hl ch
    exact ⟨(congrArg Chan.mr hch :), (congrArg Chan.st hch :)⟩
  · exact onLive_next hrun ((hrstOp_long hn).trans (if_pos ⟨hs, hc⟩))
  · exact (congrArg _ (hrstOp_short hn)).trans (onLive_same s)
  · exact ⟨_, onLive_runs hrun _, hprstOp_frame s half, chOf_hprstOp s half ch⟩

end Sys2Proof.Machine
end

section
/-! # The configuration comes into force (R44 to R52, R375) -/

namespace Sys2Proof.Machine

variable {s : State} {a b : List Byte}

/-! ## Which image is taken (R45, R52, R375) -/

theorem cfgChoose_fuse (h : s.fuses.ok = false) : cfgChoose s a b = (fallbackCfg, 2, 0, 0, 4) :=
  if_pos (by rw [h]; rfl)

theorem cfgChoose_ok (h : s.fuses.ok = true) : cfgChoose s a b =
    if imageErr s.fuses a = 0 then (imgCfg a, 0, imgGen a, imgDigest a, 0)
    else if imageErr s.fuses b = 0 then (imgCfg b, 1, imgGen b, imgDigest b, 0)
    else (fallbackCfg, 2, 0, 0, if imgBlank b then imageErr s.fuses a else imageErr s.fuses b) :=
  if_neg (by rw [h]; exact Bool.false_ne_true)

/-! ## What is read of the flash (R44 to R46) -/

/-- Image A is read, and image B only if A fails. -/
def imagesRead (s : State) (a b : List Byte) : List XspiOp :=
  imgReads 0 a ++ (if imageErr s.fuses a = 0 then [] else imgReads 0x20000 b)

/-- A list of flash accesses that ends with the release of the interface. -/
def released (l : List XspiOp) : List XspiOp := if l.getLast? = some .release then l else l ++ [.release]

theorem released_getLast? (l : List XspiOp) : (released l).getLast? = some .release := by
  unfold released
  split
  · assumption
  · exact List.getLast?_concat

theorem mem_released {x : XspiOp} (h : x ≠ .release) (l : List XspiOp) : x ∈ released l ↔ x ∈ l := by
  unfold released
  split
  · rfl
  · simp [h]

theorem cfgReads_fuse (h : s.fuses.ok = false) : cfgReads s a b = [] := if_pos (by rw [h]; rfl)

theorem cfgReads_ok (h : s.fuses.ok = true) : cfgReads s a b = released (imagesRead s a b) :=
  if_neg (by rw [h]; exact Bool.false_ne_true)

/-- The reads in 1S-1S-1S for an image are that of its header alone. -/
theorem read1S_mem_imgReads (addr n at_ : Nat) (m : List Byte) :
    XspiOp.read1S addr n ∈ imgReads at_ m ↔ addr = at_ ∧ n = 64 := by
  unfold imgReads
  dsimp only
  split
  · simp [ihMode]
  · simp

theorem headerA_mem : XspiOp.read1S 0 64 ∈ imagesRead s a b :=
  List.mem_append_left _ ((read1S_mem_imgReads ..).mpr ⟨rfl, rfl⟩)

theorem headerB_mem : XspiOp.read1S 0x20000 64 ∈ imagesRead s a b ↔ imageErr s.fuses a ≠ 0 := by
  unfold imagesRead
  rw [List.mem_append, read1S_mem_imgReads]
  split
  · next h => simp [h]
  · next h => simp [h, read1S_mem_imgReads]

/-! ## CONFIG_READ (R51, R54) -/

/-- The configuration chosen is in force, and the flash and INT3_N are released. -/
def cfgTaken (s : State) (a b : List Byte) : State :=
  let (c, src, gen, dig, err) := cfgChoose s a b
  { s with
    cfg := c, hp := if s.cfg.valid && !samePort s.cfg c then [] else s.hp
    pins := { s.pins with int3Hold := false, xspiDriven := false, xspiRst := s.clk.now + 336000 }
    sec := { s.sec with udsBlocked := true, cdi := if s.sec.udsBlocked then s.sec.cdi else some (cdiOf s.fuses) }
    pwr := { s.pwr with ocWarn := c.currentA }
    boot := { s.boot with
      cfgSrc := src, cfgGen := gen, cfgDigest := dig, err := err, reread := false, xspi := cfgReads s a b } }

theorem configReadOp_uncaptured (h : Uncaptured s) : Zeroes (cfgTaken s a b) (configReadOp s a b) := by
  have he : configReadOp s a b = if (cfgTaken s a b).cfg.fallback then cfgTaken s a b else zeroStart (cfgTaken s a b) :=
    if_pos (uncaptured_iff.mpr h)
  rw [he]
  exact zeroes_unless _ _

theorem configReadOp_late (h : s.boot.stage ≠ .cfg) : configReadOp s a b = s := if_neg (by simp [h])

theorem cfgTaken_hp (s : State) (a b : List Byte) : (cfgTaken s a b).hp =
    if s.cfg.valid && !samePort s.cfg (cfgTaken s a b).cfg then [] else s.hp := rfl

/-- A changed HOST_PORT record loses training. -/
theorem cfgTaken_untrained (hv : s.cfg.valid = true) (hp : samePort s.cfg (cfgTaken s a b).cfg = false) (ch : Nat) :
    (chOf (cfgTaken s a b) ch).st = .untrained := by
  rw [chOf, cfgTaken_hp, hv, hp]
  rfl

/-- What a choice makes of the state. -/
theorem cfgTaken_of {c : Cfg} {src err : Nat} {gen : W32} {dig : BitVec 384}
    (h : cfgChoose s a b = (c, src, gen, dig, err)) :
    (cfgTaken s a b).cfg = c ∧ (cfgTaken s a b).boot.cfgSrc = src ∧ (cfgTaken s a b).boot.cfgGen = gen ∧
    (cfgTaken s a b).boot.cfgDigest = dig ∧ (cfgTaken s a b).boot.err = err := by
  unfold cfgTaken
  rw [h]
  exact ⟨rfl, rfl, rfl, rfl, rfl⟩

/-- Settles O8: CONFIG_READ is `cfgTaken` with zeroing started, and `cfgChoose` names the image. -/
theorem configurationImage : Obligations.ConfigurationImage := by
  unfold Obligations.ConfigurationImage
  refine ⟨fun s a b hrun hs hc => ?_, fun s a b h => (congrArg _ (configReadOp_late h)).trans (onLive_same s)⟩
  obtain ⟨left, free, keys, ht⟩ := configReadOp_uncaptured (a := a) (b := b) (s := s) ⟨hs, hc⟩
  refine ⟨_, onLive_next hrun ht, rfl, rfl, rfl, hs, rfl, fun hf => ?fuse, fun hf ha => ?imageA, fun hf ha hb => ?imageB,
    fun hf ha hb => ?fallback, fun hf => ?reads, fun hv hp ch => (cfgTaken_untrained hv hp ch :)⟩
  case fuse =>
    obtain ⟨hcfg, hsrc, -, -, herr⟩ := cfgTaken_of (cfgChoose_fuse (a := a) (b := b) hf)
    exact ⟨hcfg, hsrc, herr, cfgReads_fuse hf⟩
  case imageA => exact cfgTaken_of ((cfgChoose_ok hf).trans (if_pos ha))
  case imageB =>
    obtain ⟨hcfg, hsrc, hgen, hdig, -⟩ := cfgTaken_of ((cfgChoose_ok hf).trans ((if_neg ha).trans (if_pos hb)))
    exact ⟨hcfg, hsrc, hgen, hdig⟩
  case fallback =>
    obtain ⟨hcfg, hsrc, -, -, herr⟩ := cfgTaken_of ((cfgChoose_ok hf).trans ((if_neg ha).trans (if_neg hb)))
    exact ⟨hcfg, hsrc, herr⟩
  case reads =>
    have hx : (cfgTaken s a b).boot.xspi = released (imagesRead s a b) := cfgReads_ok hf
    dsimp only
    rw [hx, mem_released XspiOp.noConfusion, mem_released XspiOp.noConfusion]
    exact ⟨headerA_mem, released_getLast? _, headerB_mem⟩

end Sys2Proof.Machine
end

section
/-! # The boot stages and the entry into READY (R54 to R60) -/

namespace Sys2Proof.Machine

variable {s t : State} {j : BootJob}

/-! ## READY starts links and functions (R55, R392) -/

theorem FnsOnly.boot (h : FnsOnly s t) : t.boot = s.boot := by rw [h.pwr]

theorem FnsOnly.mem (h : FnsOnly s t) : t.mem = s.mem := by rw [h.pwr]

/-- An enable never stops anything, whatever states the functions are in. -/
theorem fnSet_true_only (s : State) (n : Nat) : FnsOnly s (fnSet s n true) := by
  by_cases hc : Concerned s n
  · by_cases hb : n < 8 ∧ (fnOf s n).st = .off ∧ s.pwr.dev = .active
    · obtain ⟨hn, hst, ha⟩ := hb
      exact (fnSet_starts hc hst ha).1
    · exact (fnSet_writes hc not_pipeStops_true fun hn =>
        ⟨fun ⟨hst, _, ha⟩ => hb ⟨hn, hst, ha⟩, fun ⟨_, he⟩ => Bool.noConfusion he⟩).only
  · rw [fnSet_unconcerned hc]
    exact .refl s

theorem autoStart_only (s : State) (p : Partition) : FnsOnly s (autoStart s p) := by
  unfold autoStart
  split
  · exact (fnSet_true_only _ _).trans ((FnsOnly.foldl (fun s k => fnSet_true_only s (8 + k)) _ _).trans
      (.foldl (fun s k => fnSet_true_only s (20 + k)) _ _))
  · exact .refl s

/-- What every step of a fold keeps, the fold keeps. -/
theorem foldl_keeps {α β : Type} {f : State → α → State} {g : State → β} (h : ∀ s x, g (f s x) = g s) (l : List α)
    (s : State) : g (l.foldl f s) = g s := by
  induction l generalizing s with
  | nil => rfl
  | cons x l ih => rw [List.foldl_cons, ih, h]

theorem linksStart_boot (s : State) : (linksStart s).boot = s.boot := foldl_keeps (fun s n => modLink_boot s n _) _ _

theorem linksStart_mem (s : State) : (linksStart s).mem = s.mem := foldl_keeps (fun s n => modLink_mem s n _) _ _

/-- What READY does before the partitions that start by themselves. -/
def readyEntered (s : State) : State :=
  let s := bootPagesZero s
  let s := { s with
    boot := { s.boot with stage := .ready, readyTs := stamp s 35, dbPend := false, dbRec := 0 }
    wt := {}, pwr := { s.pwr with dev := .active } }
  linksStart (applySteps s 5 true { s.pwr with dLoop := (List.range 8).map (fun g => (g, s.cfg.initStep)) })

theorem readyOp_only (s : State) : FnsOnly (readyEntered s) (readyOp s) := .foldl autoStart_only _ _

theorem readyEntered_boot (s : State) : (readyEntered s).boot =
    { s.boot with stage := .ready, readyTs := stamp (bootPagesZero s) 35, dbPend := false, dbRec := 0 } := by
  rw [readyEntered, linksStart_boot, applySteps_frame]
  rfl

theorem readyEntered_mem (s : State) : (readyEntered s).mem = s.mem := by
  rw [readyEntered, linksStart_mem, applySteps_frame]
  rfl

theorem readyOp_boot (s : State) : (readyOp s).boot =
    { s.boot with stage := .ready, readyTs := stamp (bootPagesZero s) 35, dbPend := false, dbRec := 0 } := by
  rw [(readyOp_only s).boot, readyEntered_boot]

theorem readyOp_mem (s : State) : (readyOp s).mem = s.mem := by
  rw [(readyOp_only s).mem, readyEntered_mem]

/-! ## When READY is reached (R60) -/

/-- Every stage is verified, nothing is left to zero, and stage DRAM is reached. -/
abbrev Booted (b : Boot) : Prop := b.fwDone = 7 ∧ b.zeroLeft = 0 ∧ b.stage = .dram

theorem readyCheck_still (h : ¬Booted s.boot) : readyCheck s = s :=
  if_neg (by simpa only [Bool.and_eq_true, decide_eq_true_eq, and_assoc] using h)

theorem readyCheck_booted (h : Booted s.boot) : readyCheck s = readyOp s :=
  if_pos (by simpa only [Bool.and_eq_true, decide_eq_true_eq, and_assoc] using h)

theorem readyCheck_mem (s : State) : (readyCheck s).mem = s.mem := by
  by_cases h : Booted s.boot
  · rw [readyCheck_booted h, readyOp_mem]
  · rw [readyCheck_still h]

/-- The stage, the time of READY and the boot doorbell are all of the boot status that READY may change. -/
theorem readyCheck_boot (s : State) : (readyCheck s).boot = { s.boot with
    stage := (readyCheck s).boot.stage, readyTs := (readyCheck s).boot.readyTs, dbPend := (readyCheck s).boot.dbPend
    dbRec := (readyCheck s).boot.dbRec } := by
  by_cases h : Booted s.boot
  · rw [readyCheck_booted h, readyOp_boot]
  · rw [readyCheck_still h]

theorem readyCheck_stage (h : s.boot.stage ≠ .ready) : (readyCheck s).boot.stage = .ready ↔ Booted s.boot := by
  by_cases hb : Booted s.boot
  · rw [readyCheck_booted hb, readyOp_boot]
    exact iff_of_true rfl hb
  · rw [readyCheck_still hb]
    exact iff_of_false h hb

/-! ## The port buffer is zeroed (R43, R52) -/

theorem pbZeroedOp_low (h : hrstLow s = true) : pbZeroedOp s = s := if_neg (by simp [h])

theorem pbZeroedOp_eq (hs : s.boot.stage = .cfg ∨ (s.boot.stage = .halted ∧ s.boot.pbZeroed = false))
    (hv : s.cfg.valid = true) (hr : s.boot.reread = false) (hl : hrstLow s = false) : pbZeroedOp s = { s with
      pb := [], pbPoison := [], mem := { s.mem with ss := [] }
      boot := { s.boot with
        pbZeroed := true, stage := if s.cfg.fallback || s.boot.stage == .halted then .halted else .awaitM } } := by
  refine (if_pos (by simp [hs, hv, hr, hl])).trans (readyCheck_still ?_)
  rintro ⟨-, -, hd⟩
  dsimp only at hd
  split at hd <;> cases hd

/-! ## DRAM trains and is zeroed (R60, R295) -/

/-- Training may still end: a configuration that has DRAM is in force, and it is not trained. -/
structure Trains (s : State) : Prop where
  valid : s.cfg.valid = true
  own : s.cfg.fallback = false
  untrained : s.boot.trained = false
  stage : s.boot.stage ≠ .ready

theorem trainingDoneOp_eq (h : Trains s) (failed : Bool) : trainingDoneOp s failed =
    if failed then { s with boot := { s.boot with stage := .halted, err := 9, cur := none } }
    else readyCheck (drawKeys { s with boot := { s.boot with trained := true } }) := by
  obtain ⟨hv, hf, ht, hs⟩ := h
  exact if_neg (by simp [hv, hf, ht, hs])

theorem drawKeys_boot (s : State) : (drawKeys s).boot = s.boot := by rw [drawKeys_eq]

theorem trainingDoneOp_good (h : Trains s) (hb : ¬Booted s.boot) :
    trainingDoneOp s false = drawKeys { s with boot := { s.boot with trained := true } } := by
  rw [trainingDoneOp_eq h, if_neg Bool.false_ne_true]
  refine readyCheck_still ?_
  rw [drawKeys_boot]
  exact hb

/-- DRAM and its caches are zero. -/
def dramZeroed (s : State) : State := { s with
  mem := { s.mem with dram := [], l2 := [], wcb := [], macC := [], macBad := [], poison := [] }
  boot := { s.boot with zeroLeft := 0 } }

theorem zeroingDoneOp_eq (hv : s.cfg.valid = true) (ht : s.boot.trained = true) (hs : s.boot.stage ≠ .ready) :
    zeroingDoneOp s = readyCheck (dramZeroed s) := if_pos (by simp [hv, ht, hs])

/-! ## The boot doorbell (R58, R59) -/

/-- Boot takes a doorbell: one is pending, none is being handled, the boot windows are in force and boot goes on. -/
structure TakesDoorbell (b : Boot) : Prop where
  pend : b.dbPend = true
  idle : b.cur = none
  zeroed : b.pbZeroed = true
  running : b.stage ≠ .halted
  unready : b.stage ≠ .ready

/-- The sequence number, the stage, the length and the offset of the doorbell record. -/
def dbSeq (b : Boot) : W32 := BitVec.ofNat 32 (bits b.dbRec 31 0)
def dbStage (b : Boot) : Nat := bits b.dbRec 39 32
def dbLen (b : Boot) : Nat := bits b.dbRec 95 64
def dbOff (b : Boot) : Nat := bits b.dbRec 127 96

/-- The length or the offset is outside what Table 3-12 and the staging window allow. -/
abbrev DbIllegal (b : Boot) : Prop :=
  dbLen b = 0 ∨ stageMax (dbStage b) < dbLen b ∨ 16777216 < dbOff b + dbLen b ∨ dbOff b % 4096 ≠ 0

/-- A doorbell is refused with an error. -/
def dbRefused (s : State) (e : Nat) : State :=
  { s with boot := { s.boot with dbPend := false, err := e, seqCopied := dbSeq s.boot, seqDone := dbSeq s.boot } }

/-- A doorbell starts its stage. -/
def dbStarted (s : State) : State :=
  { s with boot := { s.boot with
    dbPend := false, stage := verifyStage (dbStage s.boot)
    cur := some { seq := dbSeq s.boot, stage := dbStage s.boot, off := dbOff s.boot, len := dbLen s.boot
                  image := [], copied := false, bad := false } } }

theorem bootDoorbellOp_eq (h : TakesDoorbell s.boot) : bootDoorbellOp s =
    if !awaited s.boot (dbStage s.boot) then dbRefused s 5
    else if dbLen s.boot = 0 || stageMax (dbStage s.boot) < dbLen s.boot || 16777216 < dbOff s.boot + dbLen s.boot ||
      dbOff s.boot % 4096 != 0 then dbRefused s 6
    else dbStarted s := by
  obtain ⟨hp, hi, hz, hr, hu⟩ := h
  exact if_neg (by simp [hp, hi, hz, hr, hu])

theorem bootDoorbellOp_other (h : TakesDoorbell s.boot) (ha : awaited s.boot (dbStage s.boot) = false) :
    bootDoorbellOp s = dbRefused s 5 := (bootDoorbellOp_eq h).trans (if_pos (by simp [ha]))

theorem bootDoorbellOp_illegal (h : TakesDoorbell s.boot) (ha : awaited s.boot (dbStage s.boot) = true)
    (hl : DbIllegal s.boot) : bootDoorbellOp s = dbRefused s 6 :=
  (bootDoorbellOp_eq h).trans ((if_neg (by simp [ha])).trans (if_pos (by simpa [or_assoc] using hl)))

theorem bootDoorbellOp_legal (h : TakesDoorbell s.boot) (ha : awaited s.boot (dbStage s.boot) = true)
    (hl : ¬DbIllegal s.boot) : bootDoorbellOp s = dbStarted s :=
  (bootDoorbellOp_eq h).trans ((if_neg (by simp [ha])).trans (if_neg (by simpa [or_assoc] using hl)))

/-! ## A stage is copied and verified (R59, R379) -/

theorem stageCopiedOp_eq (hj : s.boot.cur = some j) (hc : j.copied = false)
    (hb : pbBad s (stagingPage * 4096 + j.off) j.len = []) : stageCopiedOp s = { s with boot := { s.boot with
      seqCopied := j.seq
      cur := some { j with image := pbFetch s (stagingPage * 4096 + j.off) j.len, copied := true } } } := by
  simp only [stageCopiedOp, hj, hc, hb, List.foldl_nil, Bool.false_eq_true, if_false]

/-- A stage failed its verification with error `e`. -/
def stageFailed (s : State) (j : BootJob) (e : Nat) : State :=
  let n := tget s.boot.failCnt j.stage 0 + 1
  { s with boot := { s.boot with
    cur := none, seqDone := j.seq, err := e, fails := n, failCnt := tput s.boot.failCnt j.stage n
    stage := if 3 ≤ n then .halted else awaitStage j.stage } }

/-- A stage passed its verification. -/
def stagePassed (s : State) (j : BootJob) : State :=
  let done := s.boot.fwDone ||| BitVec.ofNat 8 (2 ^ (j.stage - 1))
  { s with boot := { s.boot with
    cur := none, seqDone := j.seq, err := 0, fails := 0, fwDone := done
    images := tput s.boot.images j.stage { image := j.image, digest := stageDigest j.image,
                                           svn := bits (BitVec.ofNat 512 (leNat (j.image.take 64))) 63 56 }
    stage := if done = 7 then .dram else .awaitFC } }

theorem stageVerifiedOp_eq (hj : s.boot.cur = some j) (hc : j.copied = true) : stageVerifiedOp s =
    if stageErr s j != 0 then stageFailed s j (stageErr s j) else readyCheck (stagePassed s j) := by
  unfold stageVerifiedOp
  rw [hj]
  exact if_neg (by rw [hc]; exact Bool.false_ne_true)

theorem stageVerifiedOp_bad (hj : s.boot.cur = some j) (hc : j.copied = true) (he : stageErr s j ≠ 0) :
    stageVerifiedOp s = stageFailed s j (stageErr s j) := (stageVerifiedOp_eq hj hc).trans (if_pos (bne_iff_ne.mpr he))

theorem stageVerifiedOp_good (hj : s.boot.cur = some j) (hc : j.copied = true) (he : stageErr s j = 0) :
    stageVerifiedOp s = readyCheck (stagePassed s j) := (stageVerifiedOp_eq hj hc).trans (if_neg (by simp [he]))

theorem stagePassed_unfinished (h : (stagePassed s j).boot.fwDone ≠ 7) : (stagePassed s j).boot.stage = .awaitFC :=
  if_neg h

/-- Settles O9: where a command ends in `readyCheck`, READY keeps the memories and all of the boot status but the stage,
the time and the doorbell. -/
theorem bootStages : Obligations.BootStages := by
  unfold Obligations.BootStages
  refine ⟨⟨?pb, ?training, ?zeroing⟩, ?doorbell, ?copied, ?bad, ?good⟩
  case pb =>
    intro s hrun hs hv hr
    exact ⟨fun hl => onLive_next hrun (pbZeroedOp_low hl), fun hl => onLive_next hrun (pbZeroedOp_eq hs hv hr hl)⟩
  case training =>
    intro s hrun hv hf ht hs
    have htr : Trains s := ⟨hv, hf, ht, hs⟩
    refine ⟨onLive_next hrun (trainingDoneOp_eq htr true), fun hb => ?_⟩
    have hnb : ¬Booted s.boot := fun ⟨hd, hz, hst⟩ => hb.elim (· hst) (·.elim (· hd) (· hz))
    refine ⟨_, onLive_next hrun (trainingDoneOp_good htr hnb), ?_, fun p hp he => drawKeys_mem hp he⟩
    rw [drawKeys_eq]
  case zeroing =>
    intro s hrun hv ht hs
    refine ⟨_, onLive_next hrun (zeroingDoneOp_eq hv ht hs), ?_, ?_, (readyCheck_stage (s := dramZeroed s) hs).trans ?_⟩
    · rw [readyCheck_boot]
      rfl
    · rw [readyCheck_mem, dramZeroed]
    · exact ⟨fun ⟨hd, _, hst⟩ => ⟨hst, hd⟩, fun ⟨hst, hd⟩ => ⟨hd, rfl, hst⟩⟩
  case doorbell =>
    intro s k len off hrun hp hi hz hr hu hk hl ho
    subst hk hl ho
    have h : TakesDoorbell s.boot := ⟨hp, hi, hz, hr, hu⟩
    refine ⟨fun ha h0 hm he hoff => onLive_next hrun (bootDoorbellOp_legal h ha ?_),
      fun ha => onLive_next hrun (bootDoorbellOp_other h ha),
      fun ha hl => onLive_next hrun (bootDoorbellOp_illegal h ha hl)⟩
    unfold DbIllegal dbLen dbStage dbOff
    omega
  case copied => exact fun s j hrun hj hc hb => onLive_next hrun (stageCopiedOp_eq hj hc hb)
  case bad => exact fun s j hrun hj hc he => onLive_next hrun (stageVerifiedOp_bad hj hc he)
  case good =>
    intro s j hrun hj hc he
    refine ⟨_, onLive_next hrun (stageVerifiedOp_good hj hc he), ?_⟩
    have hb := readyCheck_boot (stagePassed s j)
    have hd : (readyCheck (stagePassed s j)).boot.fwDone = (stagePassed s j).boot.fwDone :=
      (congrArg Boot.fwDone hb :)
    refine ⟨(congrArg Boot.cur hb :), (congrArg Boot.seqDone hb :), (congrArg Boot.err hb :), hd, fun hne => ?_⟩
    rw [hd] at hne
    rw [readyCheck_still fun h => hne h.1]
    exact stagePassed_unfinished hne

end Sys2Proof.Machine
end

section
/-! # The channels of the host port: states, rows, mode registers and training (R65 to R81) -/

namespace Sys2Proof.Machine

set_option Elab.async false

variable {s t : State} {ch n : Nat} {c d : Chan}

/-! ## One channel changes -/

/-- Only channel `ch` differs, and there it is `c`, but that HP_LINK is raised with it (R71, R76). -/
def ChanRaises (s t : State) (ch : Nat) (c : Chan) : Prop :=
  t = { s with hp := t.hp, irq := (raise s .hpLink).irq } ∧ chOf t ch = c ∧ ∀ n, n ≠ ch → chOf t n = chOf s n

theorem ChanOnly.refl (s : State) (ch : Nat) : ChanOnly s s ch (chOf s ch) := ⟨rfl, rfl, fun _ _ => rfl⟩

theorem ChanOnly.modCh (h : ChanOnly s t ch c) (f : Chan → Chan) : ChanOnly s (modCh t ch f) ch (f c) := by
  obtain ⟨ht, hc, ho⟩ := h
  exact ⟨congrArg (fun v : State => { v with hp := (Machine.modCh t ch f).hp }) ht,
    (chOf_modCh_same t ch f).trans (congrArg f hc), fun n hn => (chOf_modCh_other t ch n f hn).trans (ho n hn)⟩

theorem modCh_only (s : State) (ch : Nat) (f : Chan → Chan) : ChanOnly s (modCh s ch f) ch (f (chOf s ch)) :=
  (ChanOnly.refl s ch).modCh f

theorem ChanOnly.ite {p : Prop} [Decidable p] {u : State} (ht : ChanOnly s t ch c) (hu : ChanOnly s u ch d) :
    ChanOnly s (if p then t else u) ch (if p then c else d) := by
  split
  · exact ht
  · exact hu

theorem ChanOnly.answers (h : ChanOnly s t ch c) (a : Answer) :
    ChanOnly s (chAnswer t ch a) ch { c with answer := a } := h.modCh _

/-- A raise of HP_LINK reads the clock and the causes, which no channel changes. -/
theorem ChanOnly.hpLink (h : ChanOnly s t ch c) : ChanRaises s (hpLink t) ch c := by
  obtain ⟨ht, hc, ho⟩ := h
  exact ⟨congrArg (fun v : State => raise v .hpLink) ht, hc, ho⟩

theorem ChanRaises.modCh (h : ChanRaises s t ch c) (f : Chan → Chan) : ChanRaises s (modCh t ch f) ch (f c) := by
  obtain ⟨ht, hc, ho⟩ := h
  exact ⟨congrArg (fun v : State => { v with hp := (Machine.modCh t ch f).hp }) ht,
    (chOf_modCh_same t ch f).trans (congrArg f hc), fun n hn => (chOf_modCh_other t ch n f hn).trans (ho n hn)⟩

theorem ChanOnly.protoErr (h : ChanOnly s t ch c) : ChanRaises s (protoErr t ch) ch { c with proto := c.proto + 1 } :=
  (h.modCh _).hpLink

/-- The configuration decides rl_err, and no channel changes it (R67). -/
theorem ChanOnly.rlErr_eq (h : ChanOnly s t ch c) (d : Chan) : rlErr t d = rlErr s d :=
  (congrArg (fun v : State => rlErr v d) h.1 :)

/-! ## ACT, PRE and REF (R70, R71, R81, R439) -/

theorem actOp_closed {bank row : Nat} (ha : chActs s ch = true) (hr : tfind (chOf s ch).rows bank = none) :
    ChanOnly s (actOp s ch bank row) ch { chOf s ch with rows := tput (chOf s ch).rows bank row } := by
  have hc : thas (chOf s ch).rows bank = false := by rw [thas, hr]; rfl
  rw [actOp, if_pos ha, hc]
  exact modCh_only s ch _

theorem actOp_open {bank row old : Nat} (ha : chActs s ch = true) (hr : tfind (chOf s ch).rows bank = some old) :
    ChanRaises s (actOp s ch bank row) ch
      { chOf s ch with proto := (chOf s ch).proto + 1, rows := tput (chOf s ch).rows bank row } := by
  have ho : thas (chOf s ch).rows bank = true := by rw [thas, hr]; rfl
  rw [actOp, if_pos ha, ho]
  exact (ChanOnly.refl s ch).protoErr.modCh _

theorem actOp_idle {bank row : Nat} (ha : chActs s ch = false) : actOp s ch bank row = s :=
  if_neg (by simp [ha])

theorem preOp_only {bank : Option Nat} (hh : chHears s ch = true) : ChanOnly s (preOp s ch bank) ch
    { chOf s ch with rows := match bank with | some b => tdel (chOf s ch).rows b | none => [] } := by
  rw [preOp, if_pos hh]
  cases bank with
  | none => exact modCh_only s ch _
  | some b => exact modCh_only s ch _

theorem refOp_only (ha : chActs s ch = true) :
    ChanOnly s (refOp s ch) ch { chOf s ch with cntRef := (chOf s ch).cntRef + 1 } := by
  rw [refOp, if_pos ha]
  exact modCh_only s ch _

theorem refOp_idle (ha : chActs s ch = false) : refOp s ch = s := if_neg (by simp [ha])

/-- Settles O10: an ACT on an open bank is a protocol error first, and then opens its row as on a closed bank. -/
theorem channelRows : Obligations.ChannelRows := by
  unfold Obligations.ChannelRows
  refine ⟨fun s ch bank row hrun ha hr => ⟨_, onLive_runs hrun _, actOp_closed ha hr⟩,
    fun s ch bank row old hrun ha hr => ⟨_, onLive_runs hrun _, actOp_open ha hr⟩,
    fun s ch bank hrun hh => ⟨_, onLive_runs hrun _, ?_⟩,
    fun s ch k hrun ha => ⟨_, onLive_runs hrun _, refOp_only ha⟩, fun s ch bank row k ha => ⟨?_, ?_⟩⟩
  · exact preOp_only hh
  · exact (congrArg (onLive s) (actOp_idle ha)).trans (onLive_same s)
  · exact (congrArg (onLive s) (refOp_idle ha)).trans (onLive_same s)

/-! ## Mode registers and CAS (R74, R75, R79) -/

/-- A training command of Table 4-4 or an MPC command makes an untrained channel TRAINING (R76). -/
theorem ChanOnly.trains (h : ChanOnly s t ch c) : ChanOnly s (chTrains t ch) ch c.training := h.modCh _

theorem ChanOnly.rlArm (h : ChanOnly s t ch c) :
    ChanOnly s (rlArm t ch) ch (if rlErr s c then c else { c with rlSeen := false }) := by
  have hr : rlErr t (chOf t ch) = rlErr s c := (h.rlErr_eq _).trans (congrArg (rlErr s) h.2.1)
  rw [Machine.rlArm, hr]
  exact h.ite (h.modCh _)

/-- The channel once an MRW has written its copy, with the effects of the fields it carries. -/
def Chan.mrw (c : Chan) (mr : Nat) (raw : Byte) (f : MrFields) : Chan :=
  (if c.fspWr then { c with mr1 := c.mr1.write mr raw f } else { c with mr0 := c.mr0.write mr raw f }).mrEffect f

/-- An MRW that starts a training does so from UNTRAINED and NO_CLOCK alone. -/
theorem Chan.training_iff (c : Chan) (b : Bool) : (if b then c.training else c) =
    if b && (c.st == .untrained || c.st == .noClock) then { c with st := .training } else c := by
  cases b with
  | false => rfl
  | true =>
    by_cases h : c.st = .untrained ∨ c.st = .noClock <;> simp [Chan.training, h]

theorem mrwOp_only {mr : Nat} {raw : Byte} {f : MrFields} (hh : chHears s ch = true) (hm : mrReadOnly mr = none)
    (hc : c = (chOf s ch).mrw mr raw f) (hd : d = if mrTrains f then c.training else c) :
    ChanOnly s (mrwOp s ch mr raw f) ch (if rlErr s d then d else { d with rlSeen := false }) := by
  have hw : ChanOnly s (modCh s ch fun c => c.mrw mr raw f) ch c := hc ▸ modCh_only s ch _
  rw [mrwOp, if_pos (by simp [hh, hm]), hd]
  exact (hw.trains.ite hw).rlArm

theorem mrwOp_readOnly {mr : Nat} {raw v : Byte} {f : MrFields} (hm : mrReadOnly mr = some v) :
    mrwOp s ch mr raw f = s := if_neg (by simp [hm])

theorem mrrOp_only {mr : Nat} (hh : chHears s ch = true) : ChanOnly s (mrrOp s ch mr) ch
    { chOf s ch with answer := .modeReg (match mrReadOnly mr with
      | some v => v
      | none => tget (if (chOf s ch).fspWr then (chOf s ch).mr1 else (chOf s ch).mr0).raw mr 0) } := by
  rw [mrrOp, if_pos hh]
  exact (ChanOnly.refl s ch).answers _

/-! ## Training (R65, R76) -/

/-- The end of command bus training with none running does nothing. -/
theorem cbtEnd_idle {ok : Bool} (h : (chOf s n).cbt = false) : cbtEnd s n ok = s := if_pos (by simp [h])

/-- Command bus training has completed at the set point in force, with CK in range. -/
def Chan.cbtPassed (c : Chan) : Chan :=
  { c with cbt := false, ckErr := false, ratioErr := false, trained0 := c.trained0 || !c.fspOp
           trained1 := c.trained1 || c.fspOp }

theorem ChanOnly.cbtPassed (h : ChanOnly s t ch c) (hc : c.cbt = true) :
    ChanOnly s (cbtEnd t ch true) ch c.cbtPassed := by
  have hcbt : (chOf t ch).cbt = true := h.2.1 ▸ hc
  rw [cbtEnd, if_neg (by simp [hcbt]), if_pos rfl]
  have hp : c.cbtPassed = if c.fspOp then { c with cbt := false, ckErr := false, ratioErr := false, trained1 := true }
      else { c with cbt := false, ckErr := false, ratioErr := false, trained0 := true } := by
    unfold Chan.cbtPassed
    cases c.fspOp <;> simp
  exact hp ▸ h.modCh _

theorem ChanOnly.cbtFailed (h : ChanOnly s t ch c) (hc : c.cbt = true) :
    ChanRaises s (cbtEnd t ch false) ch { c with cbt := false, ckErr := true, rows := [] } := by
  have hcbt : (chOf t ch).cbt = true := h.2.1 ▸ hc
  rw [cbtEnd, if_neg (by simp [hcbt]), if_neg Bool.false_ne_true]
  exact (h.modCh _).hpLink

/-- The calibration pattern is that of the mode registers, which no training command changes. -/
theorem calData_training (s : State) (ch : Nat) :
    calData (chTrains s ch) ch = fit 32 (Config.calPattern (chOf s ch).mr.raw) := by
  rw [calData, (ChanOnly.refl s ch).trains.2.1]
  rfl

/-- What an MPC operation other than the end of a running command bus training makes of a channel. -/
def Chan.mpc (c : Chan) : MpcOp → Chan
  | .zqStart => { c.training with zqBusy := !c.mr.zqStop }
  | .zqLatch => { c.training with zqBusy := false }
  | .cbtEnter => { c.training with cbt := true }
  | .cbtDone _ => c.training
  | .wckLevelling => c.training
  | .dutyStart => { c.training with duty := true }
  | .dutyStop => { c.training with duty := false }
  | .fifo => c.training
  | .readCal => { c.training with answer := .data (fit 32 (Config.calPattern c.mr.raw)) }

theorem mpcOp_only {op : MpcOp} (hh : chHears s ch = true)
    (hcbt : ∀ ok, op = .cbtDone ok → (chOf s ch).cbt = false) :
    ChanOnly s (mpcOp s ch op) ch ((chOf s ch).mpc op) := by
  have ht : ChanOnly s (chTrains s ch) ch (chOf s ch).training := (ChanOnly.refl s ch).trains
  rw [mpcOp, if_pos hh]
  cases op with
  | zqStart => exact ht.modCh _
  | zqLatch => exact ht.modCh _
  | cbtEnter => exact ht.modCh _
  | cbtDone ok =>
    have hc : (chOf (chTrains s ch) ch).cbt = false := ht.2.1 ▸ hcbt ok rfl
    dsimp only
    rw [cbtEnd_idle hc]
    exact ht
  | wckLevelling => exact ht
  | dutyStart => exact ht.modCh _
  | dutyStop => exact ht.modCh _
  | fifo => exact ht
  | readCal =>
    dsimp only
    rw [calData_training]
    exact ht.answers _

theorem mpcOp_cbtDone {ok : Bool} (hh : chHears s ch = true) :
    mpcOp s ch (.cbtDone ok) = cbtEnd (chTrains s ch) ch ok := if_pos hh

theorem wffOp_only {b : List Byte} (hh : chHears s ch = true) : ChanOnly s (wffOp s ch b) ch
    { (chOf s ch).training with fifo := ((chOf s ch).fifo ++ [b]).drop ((chOf s ch).fifo.length + 1 - 8) } := by
  have hl : ((chOf s ch).fifo ++ [b]).length = (chOf s ch).fifo.length + 1 := by simp
  rw [wffOp, if_pos hh, ← hl]
  exact (ChanOnly.refl s ch).trains.modCh _

theorem rffOp_some {b : List Byte} {r : List (List Byte)} (hh : chHears s ch = true) (hf : (chOf s ch).fifo = b :: r) :
    ChanOnly s (rffOp s ch) ch { (chOf s ch).training with fifo := r, answer := .data b } := by
  have ht : ChanOnly s (chTrains s ch) ch (chOf s ch).training := (ChanOnly.refl s ch).trains
  have hft : (chOf (chTrains s ch) ch).fifo = b :: r := ht.2.1 ▸ hf
  rw [rffOp, if_pos hh]
  dsimp only
  rw [hft]
  exact (ht.modCh _).answers _

/-- An empty FIFO gives bytes the manual leaves open (log 8). -/
theorem rffOp_none (hh : chHears s ch = true) (hf : (chOf s ch).fifo = []) :
    rffOp s ch = chAnswer { chTrains s ch with free := s.free + 32 } ch (.data (freeBytes s 32).1) := by
  have ht : ChanOnly s (chTrains s ch) ch (chOf s ch).training := (ChanOnly.refl s ch).trains
  have hft : (chOf (chTrains s ch) ch).fifo = [] := ht.2.1 ▸ hf
  rw [rffOp, if_pos hh]
  dsimp only
  rw [hft]
  rfl

theorem rdcOp_only (hh : chHears s ch = true) : ChanOnly s (rdcOp s ch) ch
    { (chOf s ch).training with answer := .data (fit 32 (Config.calPattern (chOf s ch).mr.raw)) } := by
  rw [rdcOp, if_pos hh]
  exact (ChanOnly.refl s ch).trains.answers _

/-- Settles O12: every training command first makes the channel `Chan.training`, which keeps its mode registers, its
FIFO and its flags, and then has its own effect on that. -/
theorem channelModes : Obligations.ChannelModes := by
  unfold Obligations.ChannelModes
  refine ⟨⟨?mrw, ?readOnly, ?mrr, ?cas⟩, ?mpc, ?cbtDone, ?wff, ?rff, ?rdc⟩
  case mrw =>
    intro s ch mr raw f c d hrun hh hm hc hd
    exact ⟨_, onLive_runs hrun _, mrwOp_only hh hm hc (hd.trans (Chan.training_iff c (mrTrains f)).symm)⟩
  case readOnly =>
    exact fun s ch mr raw f v hm => (congrArg (onLive s) (mrwOp_readOnly hm)).trans (onLive_same s)
  case mrr => exact fun s ch mr hrun hh => ⟨_, onLive_runs hrun _, mrrOp_only hh⟩
  case cas => exact fun s ch k hrun hh => ⟨_, onLive_next hrun (if_pos hh), modCh_only s ch _⟩
  case mpc =>
    intro s ch op hrun hh hcbt
    refine ⟨_, onLive_runs hrun _, ?_⟩
    have h := mpcOp_only hh hcbt
    cases op <;> exact h
  case cbtDone =>
    intro s ch hrun hh hcbt
    have ht : ChanOnly s (chTrains s ch) ch (chOf s ch).training := (ChanOnly.refl s ch).trains
    exact ⟨⟨_, onLive_next hrun (mpcOp_cbtDone hh), ht.cbtPassed hcbt⟩,
      ⟨_, onLive_next hrun (mpcOp_cbtDone hh), ht.cbtFailed hcbt⟩⟩
  case wff => exact fun s ch b hrun hh => ⟨_, onLive_runs hrun _, wffOp_only hh⟩
  case rff =>
    intro s ch hrun hh
    refine ⟨fun b r hf => ⟨_, onLive_runs hrun _, rffOp_some hh hf⟩, fun hf => ?_⟩
    have ht : ChanOnly s (chTrains s ch) ch (chOf s ch).training := (ChanOnly.refl s ch).trains
    obtain ⟨_, hc, ho⟩ := ht.answers (.data (freeBytes s 32).1)
    exact ⟨_, (freeBytes s 32).1, onLive_next hrun (rffOp_none hh hf), by simp [freeBytes], rfl, hc, ho⟩
  case rdc => exact fun s ch hrun hh => ⟨_, onLive_runs hrun _, rdcOp_only hh⟩

/-! ## Port-idle states (R80, Table 4-6) -/

theorem chMove_only {f : Chan → Chan} (he : chEnabled s ch = true) (hf : f (chOf s ch) = c) :
    ChanOnly s (chMove s ch f) ch c := by
  rw [chMove, if_pos he]
  exact hf ▸ modCh_only s ch f

theorem Chan.idleIn_live {st : ChState} (h : c.st.live = true) : c.idleIn st = { c with st := st, back := c.st } :=
  if_pos h

theorem Chan.idleOut_back (c : Chan) : c.idleOut c.st = { c with st := c.back } := if_pos rfl

theorem Chan.pde_selfRefresh (h : c.st = .selfRefresh) : c.pde = { c with st := .srPowerDown } := if_pos h

theorem Chan.pde_live (h : c.st.live = true) : c.pde = { c with st := .powerDown, back := c.st } :=
  (if_neg fun e => by simp [e, ChState.live] at h).trans (idleIn_live h)

theorem Chan.pdx_srPowerDown (h : c.st = .srPowerDown) : c.pdx = { c with st := .selfRefresh } := if_pos h

theorem Chan.pdx_powerDown (h : c.st = .powerDown) : c.pdx = { c with st := c.back } :=
  (if_neg (by simp [h])).trans (h ▸ c.idleOut_back)

/-! ## Loss of rate and of clock (R65, R76) -/

/-- What the loss of the configured rate leaves of a channel: training that had completed is dropped, and its rows. -/
def Chan.rateLost (c : Chan) : Chan :=
  if c.trained0 || c.trained1 then { c.untrain .untrained with ckErr := true } else { c with ckErr := true }

theorem rateErrOp_raises (he : chEnabled s ch = true) : ChanRaises s (rateErrOp s ch) ch (chOf s ch).rateLost := by
  rw [rateErrOp, if_pos he]
  exact (modCh_only s ch _).hpLink

theorem noClockOp_raises (he : chEnabled s ch = true) (hl : (chOf s ch).st.live = true) :
    ChanRaises s (noClockOp s ch) ch ((chOf s ch).untrain .noClock) := by
  rw [noClockOp, if_pos (by simp [he, hl])]
  exact (modCh_only s ch _).hpLink

/-- An interrupt output whose mask enables HP_LINK is low once that cause is raised (R102). -/
theorem ChanRaises.intLow {k : Nat} (h : ChanRaises s t ch c) (hk : (s.irq.mask k).getLsbD 2 = true) :
    intLow t k = true := by
  obtain ⟨ht, _, _⟩ := h
  have hi : t.irq = (raise s .hpLink).irq := (congrArg State.irq ht :)
  have hc : t.irq.cause.getLsbD 2 = true := hi ▸ raise_sets s .hpLink
  have hm : t.irq.mask k = s.irq.mask k := by rw [hi, raise_masks]; rfl
  have hne : t.irq.cause &&& t.irq.mask k ≠ 0 := fun h0 => by
    have hb := congrArg (·.getLsbD 2) h0
    rw [BitVec.getLsbD_and, hc, hm, hk] at hb
    exact absurd hb (by decide)
  rw [Machine.intLow, bne_iff_ne.mpr hne, Bool.or_true]

/-- Settles O13: each state of Table 4-6 names the commands that leave it, and a loss of rate or clock is one change of
the channel with HP_LINK raised. -/
theorem channelStates : Obligations.ChannelStates := by
  unfold Obligations.ChannelStates
  refine ⟨fun s ch hrun he => ⟨?live, ?selfRefresh, ?powerDown, ?srPowerDown, ?deepSleep⟩, ?rate, ?clock, ?nop⟩
  case live =>
    intro hl
    exact ⟨⟨_, onLive_runs hrun _, chMove_only he (Chan.idleIn_live hl)⟩,
      ⟨_, onLive_runs hrun _, chMove_only he (Chan.pde_live hl)⟩,
      ⟨_, onLive_runs hrun _, chMove_only he (Chan.idleIn_live hl)⟩⟩
  case selfRefresh =>
    intro hst
    exact ⟨⟨_, onLive_runs hrun _, chMove_only he (hst ▸ (chOf s ch).idleOut_back)⟩,
      ⟨_, onLive_runs hrun _, chMove_only he (Chan.pde_selfRefresh hst)⟩⟩
  case powerDown => exact fun hst => ⟨_, onLive_runs hrun _, chMove_only he (Chan.pdx_powerDown hst)⟩
  case srPowerDown => exact fun hst => ⟨_, onLive_runs hrun _, chMove_only he (Chan.pdx_srPowerDown hst)⟩
  case deepSleep => exact fun hst => ⟨_, onLive_runs hrun _, chMove_only he (hst ▸ (chOf s ch).idleOut_back)⟩
  case rate =>
    intro s ch hrun he
    obtain ⟨ht, hc, ho⟩ := rateErrOp_raises he
    exact ⟨_, onLive_runs hrun _, ht, hc, ho, fun k hk => (rateErrOp_raises he).intLow hk⟩
  case clock => exact fun s ch hrun he hl => ⟨_, onLive_runs hrun _, noClockOp_raises he hl⟩
  case nop => exact fun s ch des => rfl

end Sys2Proof.Machine
end

section
/-! # What the loss of a context can change (R123) -/

namespace Sys2Proof.Machine

set_option Elab.async false

variable {s t u : State}

/-! ## The parts of the state that reports and the end of work touch -/

/-- From `s` to `t` at most the parts change that an error report and the end of work touch: every other part, among
them the channels of the host port, the window table, the configuration, the pins and the clocks, is as before. -/
def WorkOnly (s t : State) : Prop :=
  t = { s with
    free := t.free, boot := t.boot, pb := t.pb, pbPoison := t.pbPoison, irq := t.irq, pwr := t.pwr, ctxs := t.ctxs
    objs := t.objs, fences := t.fences, queues := t.queues, cmds := t.cmds, insts := t.insts, wgs := t.wgs
    mons := t.mons, seqs := t.seqs, groups := t.groups, cores := t.cores, fly := t.fly, mem := t.mem
    passes := t.passes, pipes := t.pipes, caps := t.caps, aud := t.aud, cmps := t.cmps, cmpWait := t.cmpWait
    sec := t.sec, log := t.log }

theorem WorkOnly.refl (s : State) : WorkOnly s s := rfl

theorem WorkOnly.keep (h : WorkOnly u s) (ht : WorkOnly s t := by rfl) : WorkOnly u t := by
  unfold WorkOnly at *
  rw [h] at ht
  exact ht

theorem WorkOnly.ite {c : Prop} [Decidable c] (hs : WorkOnly u s) (ht : WorkOnly u t) :
    WorkOnly u (if c then s else t) := by
  split
  · exact hs
  · exact ht

theorem WorkOnly.foldl {α : Type} {f : State → α → State} {l : List α} (h : WorkOnly u s)
    (hf : ∀ {v x}, WorkOnly u v → WorkOnly u (f v x)) : WorkOnly u (l.foldl f s) := by
  induction l generalizing s with
  | nil => exact h
  | cons x l ih => exact ih (hf h)

theorem WorkOnly.errWrite {r} (h : WorkOnly u s) : WorkOnly u (errWrite s r) := by
  rw [errWrite_frame]
  exact .keep h

theorem WorkOnly.event {code status unit inst addr info ctx} (h : WorkOnly u s) :
    WorkOnly u (event s code status unit inst addr info ctx) := .errWrite h

theorem WorkOnly.raise {c} (h : WorkOnly u s) : WorkOnly u (raise s c) := .keep h

theorem WorkOnly.pbStore {off d} (h : WorkOnly u s) : WorkOnly u (pbStore s off d) := .keep h

theorem WorkOnly.modQueue {q f} (h : WorkOnly u s) : WorkOnly u (modQueue s q f) := .keep h

theorem WorkOnly.dmWriteOpt {pol a d} (h : WorkOnly u s) : WorkOnly u (dmWriteOpt s pol a d) := by
  rw [dmWriteOpt_frame]
  exact .keep h

theorem WorkOnly.dmZero {a n} (h : WorkOnly u s) : WorkOnly u (dmZero s a n) := by
  rw [dmZero_frame]
  exact .keep h

/-! ## Ports of the context (R353, R355, R387) -/

theorem WorkOnly.dropRef {r} (h : WorkOnly u s) : WorkOnly u (dropRef s r) := by
  unfold Machine.dropRef
  split
  · exact .keep h
  · exact h

theorem WorkOnly.layerRelease {l} (h : WorkOnly u s) : WorkOnly u (layerRelease s l) := .dropRef (.dropRef h)

theorem WorkOnly.flipDiscard {f} (h : WorkOnly u s) : WorkOnly u (flipDiscard s f) := by
  unfold Machine.flipDiscard Machine.flipSignal
  exact .foldl (.dropRef (.foldl (.ite (.keep h) h) (fun h => .layerRelease h))) (fun h => .keep h)

theorem WorkOnly.pipeFlush {n} (h : WorkOnly u s) : WorkOnly u (pipeFlush s n) := by
  unfold Machine.pipeFlush
  exact .foldl (.keep h) (fun h => .flipDiscard h)

theorem WorkOnly.capHalt {n} (h : WorkOnly u s) : WorkOnly u (capHalt s n) := by
  unfold Machine.capHalt
  exact .ite h (.keep (.dropRef (r := (capOf s n).buf) h))

theorem WorkOnly.audHalt (h : WorkOnly u s) : WorkOnly u (audHalt s) := by
  unfold Machine.audHalt
  exact .keep (.dropRef (r := s.aud.outBuf) (.dropRef (r := s.aud.inBuf) h))

theorem WorkOnly.audStopSoon (h : WorkOnly u s) : WorkOnly u (audStopSoon s) := by
  unfold Machine.audStopSoon
  exact .ite h (.ite (.audHalt h) (.keep h))

theorem WorkOnly.slotPut {k x} (h : WorkOnly u s) : WorkOnly u (slotPut s k x) := by
  unfold Machine.slotPut
  exact .ite (.keep h) (.keep h)

theorem WorkOnly.loadFinish {l res} (h : WorkOnly u s) : WorkOnly u (loadFinish s l res) := by
  unfold Machine.loadFinish
  extract_lets +onlyGivenNames _ s1 _ s2
  have h1 : WorkOnly u s1 := .keep h
  have h2 : WorkOnly u s2 := .foldl (.keep h1) (fun h => .slotPut h)
  exact .keep h2

theorem WorkOnly.loadAbort {l res} (h : WorkOnly u s) : WorkOnly u (loadAbort s l res) := by
  unfold Machine.loadAbort
  exact .loadFinish (.dmZero h)

theorem WorkOnly.loadLeave {ctx} (h : WorkOnly u s) : WorkOnly u (loadLeave s ctx) := by
  unfold Machine.loadLeave
  split
  · exact .ite (.loadAbort h) h
  · exact h

theorem WorkOnly.portsStop {ctx} (h : WorkOnly u s) : WorkOnly u (portsStop s ctx) := by
  unfold Machine.portsStop
  extract_lets +onlyGivenNames s1
  have h1 : WorkOnly u s1 := .foldl h (fun h => .capHalt h)
  exact .ite (.audStopSoon h1) h1

theorem WorkOnly.portsLost {ctx} (h : WorkOnly u s) : WorkOnly u (portsLost s ctx) := by
  unfold Machine.portsLost
  extract_lets +onlyGivenNames s1
  have h1 : WorkOnly u s1 := .loadLeave (.foldl h (fun h => .pipeFlush h))
  exact .ite h1 (.portsStop h1)

/-! ## Records and the end of commands (R100, R101, R114) -/

theorem WorkOnly.recInRing {r q e} (h : WorkOnly u s) : WorkOnly u (recInRing s r q e) := by
  unfold Machine.recInRing
  extract_lets +onlyGivenNames _ s2 s3
  have h2 : WorkOnly u s2 := .modQueue (.pbStore h)
  clear_value s2
  have h3 : WorkOnly u s3 := by
    unfold s3
    split
    · exact .keep h2
    · exact h2
  exact .ite (.raise h3) h3

theorem WorkOnly.recOrphaned {r q} (h : WorkOnly u s) : WorkOnly u (recOrphaned s r q) := by
  unfold Machine.recOrphaned
  extract_lets +onlyGivenNames _ _ _ _ s1 _ s2 s3 s4
  have h1 : WorkOnly u s1 := .keep h
  have h2 : WorkOnly u s2 := by
    unfold s2
    split
    · exact .errWrite h1
    · exact .dmWriteOpt h1
  have h4 : WorkOnly u s4 := by
    unfold s4
    split
    · exact .keep h2
    · exact .keep h2
  exact .keep h4

theorem WorkOnly.writeRec {r} (h : WorkOnly u s) : WorkOnly u (writeRec s r) := by
  unfold Machine.writeRec
  refine .ite h ?_
  split
  · exact .recInRing h
  · exact .recOrphaned h

theorem WorkOnly.queueSettle {q} (h : WorkOnly u s) : WorkOnly u (queueSettle s q) := by
  unfold Machine.queueSettle
  exact .ite (.keep h) h

theorem WorkOnly.releaseCmd {c} (h : WorkOnly u s) : WorkOnly u (releaseCmd s c) := by
  rw [releaseCmd_frame]
  exact .keep h

theorem WorkOnly.cmdEnd {id st errIdx} (h : WorkOnly u s) : WorkOnly u (cmdEnd s id st errIdx) := by
  unfold Machine.cmdEnd
  split
  · exact h
  · exact .queueSettle (.releaseCmd (.writeRec (.keep h)))

theorem WorkOnly.monMiss {m ctx sc} (h : WorkOnly u s) : WorkOnly u (monMiss s m ctx sc) := by
  rw [monMiss_frame]
  exact .keep h

theorem WorkOnly.cmdDone {id st errIdx} (h : WorkOnly u s) : WorkOnly u (cmdDone s id st errIdx) := by
  unfold Machine.cmdDone
  split
  · exact h
  · exact .cmdEnd (.monMiss h)

/-! ## The end of a launch (R145, R147, R157) -/

theorem WorkOnly.stagedWrite {core ctx e} (h : WorkOnly u s) : WorkOnly u (stagedWrite s core ctx e) := by
  unfold Machine.stagedWrite
  exact .ite h (.keep (.dmWriteOpt h))

theorem WorkOnly.killWgs {p} (h : WorkOnly u s) : WorkOnly u (killWgs s p) := by
  unfold Machine.killWgs
  extract_lets +onlyGivenNames s1
  have h1 : WorkOnly u s1 := .foldl h fun h => .foldl h fun h => .stagedWrite h
  exact .keep h1

theorem WorkOnly.passDrop {id} (h : WorkOnly u s) : WorkOnly u (passDrop s id) := by
  unfold Machine.passDrop Machine.reserveDrop
  split
  · exact h
  · exact .foldl (.keep h) (fun h => .ite (.keep h) h)

theorem WorkOnly.cmpStop {c} (h : WorkOnly u s) : WorkOnly u (cmpStop s c) := by
  unfold Machine.cmpStop
  dsimp only [Machine.freeBytes]
  exact .ite (.keep h) (.dmWriteOpt (.keep h))

theorem WorkOnly.killInst {id} (h : WorkOnly u s) : WorkOnly u (killInst s id) := by
  unfold Machine.killInst
  extract_lets +onlyGivenNames _ _ s3
  have h3 : WorkOnly u s3 := .foldl (.foldl (.killWgs h) (fun h => .passDrop h)) (fun h => .cmpStop h)
  exact .keep h3

theorem WorkOnly.seqReturn {e} (h : WorkOnly u s) : WorkOnly u (seqReturn s e) := by
  unfold Machine.seqReturn Machine.seqFree
  split
  · exact h
  · refine .ite ?_ (.ite (.keep h) h)
    split
    · exact h
    · exact .keep h

theorem WorkOnly.dropInst {id} (h : WorkOnly u s) : WorkOnly u (dropInst s id) := by
  unfold Machine.dropInst
  split
  · exact h
  · extract_lets +onlyGivenNames _ s2
    have h2 : WorkOnly u s2 := .foldl (.killInst h) (fun h => .seqReturn h)
    exact .keep h2

theorem WorkOnly.monEnd {x st} (h : WorkOnly u s) : WorkOnly u (monEnd s x st) := by
  unfold Machine.monEnd
  split
  · exact h
  · exact .monMiss (.ite (.raise (.event (.keep h))) (.ite (.keep h) h))

theorem WorkOnly.monSettle {m} (h : WorkOnly u s) : WorkOnly u (monSettle s m) := by
  unfold Machine.monSettle
  split
  · exact h
  · exact .ite (.keep h) h

theorem WorkOnly.finishInst {id st errIdx} (h : WorkOnly u s) : WorkOnly u (finishInst s id st errIdx) := by
  unfold Machine.finishInst
  split
  · exact h
  · extract_lets +onlyGivenNames _ s1
    have h1 : WorkOnly u s1 := .monSettle (.monEnd (.dropInst h))
    split
    · exact .cmdEnd h1
    · exact .queueSettle (.writeRec h1)

/-! ## Errors met for a context (R123, R406) -/

theorem WorkOnly.ctxLose {c cause idx inst} (h : WorkOnly u s) : WorkOnly u (ctxLose s c cause idx inst) := by
  unfold Machine.ctxLose
  extract_lets +onlyGivenNames s1 s2 s3 s4
  have h2 : WorkOnly u s2 := .portsLost (.keep h)
  have h3 : WorkOnly u s3 := by
    unfold s3
    split
    · exact .finishInst h2
    · exact h2
  have h4 : WorkOnly u s4 := .foldl h3 (fun h => .finishInst h)
  exact .ite (.foldl h4 (fun h => .cmdDone h)) h

theorem ctxError_workOnly (s : State) (ctx : Nat) (r : ErrRec) (cause : Status) (inst : Option Nat) :
    WorkOnly s (ctxError s ctx r cause inst) := .ctxLose (.errWrite (.refl s))

theorem WorkOnly.pbRegen {page} (h : WorkOnly u s) : WorkOnly u (pbRegen s page) := by
  unfold Machine.pbRegen Machine.corrected
  exact .errWrite (.keep h)

/-- An uncorrectable word of the port buffer, met on a read, costs at most the context of its window (R78). -/
theorem pbUe_workOnly (s : State) (w apPage : Nat) : WorkOnly s (pbUe s w apPage) := by
  unfold pbUe
  extract_lets +onlyGivenNames page _ s1
  have h1 : WorkOnly s s1 := by
    unfold s1
    split
    · exact .ite (.keep (.refl s)) (.refl s)
    · exact .refl s
  refine .ite (.errWrite h1) (.ite (.pbRegen (.refl s)) ?_)
  split
  · exact .refl s
  · exact ctxError_workOnly ..

theorem WorkOnly.hp (h : WorkOnly s t) : t.hp = s.hp := by
  unfold WorkOnly at h
  rw [h]

end Sys2Proof.Machine
end

section
/-! # Bursts of the host port (R63, R68, R71, R72, R77, R78, R83) -/

namespace Sys2Proof.Machine

set_option Elab.async false

variable {s t : State} {ch n off len : Nat} {c : Chan} {e : WtEntry} {data : List Byte} {masked : List Bool}

/-! ## The window behind an offset (Tables 5-2 and 5-3) -/

/-- The boot stage and the window table decide what lies behind an aperture page, and no channel changes them. -/
theorem ChanOnly.hpWin_eq (h : ChanOnly s t ch c) (page : Nat) : hpWin t page = hpWin s page :=
  (congrArg (fun v : State => hpWin v page) h.1 :)

/-- A READ or WRITE window that takes no snapshots shows the port-buffer bytes behind it. -/
theorem hostRead_entry (hw : hpWin s (off / 4096) = .entry e) (hs : e.snap = false) (hc : e.cls = 0 ∨ e.cls = 1) :
    hostRead s n off len = pbHostRead s (e.pbByte off) len (off / 4096) := by
  unfold hostRead
  dsimp only
  rw [hw]
  dsimp only
  rw [entryRead, if_neg (by simp [hs])]
  obtain hc | hc := hc
  · rw [hc]
    rfl
  · rw [hc]
    rfl

theorem hostRead_unmapped (hw : hpWin s (off / 4096) = .unmapped) : hostRead s n off len =
    (List.replicate len 0, modCh s n (fun c => { c with unmapRd := c.unmapRd + 1 })) := by
  unfold hostRead
  dsimp only
  rw [hw]

/-- Bytes with no uncorrectable word among them are read as stored. -/
theorem pbHostRead_good {page : Nat} (h : pbBad s off len = []) :
    pbHostRead s off len page = (mreads s.pb off len, s) := by
  rw [pbHostRead, h]
  rfl

/-- One uncorrectable word makes the whole burst ones, and the channels stay as they are (R78). -/
theorem pbHostRead_bad {page : Nat} (h : pbBad s off len ≠ []) :
    (pbHostRead s off len page).1 = List.replicate len 0xFF ∧ (pbHostRead s off len page).2.hp = s.hp := by
  obtain ⟨w, r, hb⟩ := List.exists_cons_of_ne_nil h
  rw [pbHostRead, hb]
  exact ⟨rfl, (pbUe_workOnly (raise s .hpUe) (r.foldl min w) page).hp⟩

/-- A WRITE window puts the bytes that are not masked behind it. -/
theorem hostWrite_entry (hw : hpWin s (off / 4096) = .entry e) (hc : e.cls = 1) :
    hostWrite s n off data masked = pbHostStore s (e.pbByte off) data masked := by
  unfold hostWrite
  dsimp only
  rw [hw]
  dsimp only
  rw [entryWrite, hc]
  rfl

theorem hostWrite_unmapped (hw : hpWin s (off / 4096) = .unmapped) :
    hostWrite s n off data masked = refuseWr s n := by
  unfold hostWrite
  dsimp only
  rw [hw]

/-! ## RD (R67, R70, R71, R77) -/

/-- A channel once an RD or WR has acted on it (R76). -/
def Chan.touched (c : Chan) : Chan := { c with st := .active }

theorem chTouch_only (s : State) (ch : Nat) : ChanOnly s (chTouch s ch) ch (chOf s ch).touched := modCh_only s ch _

/-- RD of an open row drives what the window behind it reads, where RL fits the rate and the port buffer is zeroed. -/
theorem rdOp_open {bank col row : Nat} {bl32 : Bool} (ha : chActs s ch = true)
    (hr : tfind (chOf s ch).rows bank = some row) (hl : rlErr s (chOf s ch) = false) (hz : s.boot.pbZeroed = true)
    {d : List Byte} {v : State}
    (hrd : hostRead (chTouch s ch) ch (apOffset ch row bank col) (if bl32 then 64 else 32) = (d, v)) :
    rdOp s ch bank col bl32 = chAnswer v ch ((chOf v ch).burst d) := by
  have hc := (chTouch_only s ch).2.1
  have hrt : tfind (chOf (chTouch s ch) ch).rows bank = some row := hc ▸ hr
  have hlt : rlErr (chTouch s ch) (chOf (chTouch s ch) ch) = false := hc ▸ hl
  have hd : rdData (chTouch s ch) ch (apOffset ch row bank col) (if bl32 then 64 else 32) = (d, v) := by
    rw [rdData, if_neg (by simp [hlt])]
    exact (if_pos hz).trans hrd
  rw [rdOp, if_pos ha]
  dsimp only
  rw [hrt]
  dsimp only
  rw [hd]

theorem rdOp_closed {bank col : Nat} {bl32 : Bool} (ha : chActs s ch = true)
    (hr : tfind (chOf s ch).rows bank = none) (hz : s.boot.pbZeroed = true) : rdOp s ch bank col bl32 =
    chAnswer (protoErr (chTouch s ch) ch) ch ((chOf s ch).burst (List.replicate (if bl32 then 64 else 32) 0)) := by
  have hc := (chTouch_only s ch).2.1
  have hrt : tfind (chOf (chTouch s ch) ch).rows bank = none := hc ▸ hr
  rw [rdOp, if_pos ha]
  dsimp only
  rw [hrt, hc]
  dsimp only
  rw [if_pos (show (chTouch s ch).boot.pbZeroed = true from hz)]
  rfl

/-! ## WR and MWR (R70 to R72, R77) -/

/-- A channel once it has taken a write burst: a corrected error on the link is counted (R77). -/
def Chan.taken (c : Chan) (ecc : Ecc) : Chan :=
  if c.mr.wecc && ecc == .corrected then { c.touched with weccCe := c.weccCe + 1 } else c.touched

theorem Chan.taken_st (c : Chan) (ecc : Ecc) : (c.taken ecc).st = .active := by
  unfold Chan.taken
  split <;> rfl

theorem Chan.taken_plain {ecc : Ecc} (h : c.mr.wecc = false) : c.taken ecc = c.touched := if_neg (by simp [h])

/-- The state a write burst lands in. -/
def writeTaken (s : State) (n : Nat) (ecc : Ecc) : State :=
  if (chOf s n).mr.wecc && ecc == .corrected then modCh (chTouch s n) n (fun c => { c with weccCe := c.weccCe + 1 })
  else chTouch s n

theorem writeTaken_only (s : State) (ch : Nat) (ecc : Ecc) :
    ChanOnly s (writeTaken s ch ecc) ch ((chOf s ch).taken ecc) :=
  ((chTouch_only s ch).modCh _).ite (chTouch_only s ch)

theorem wrOp_open {bank col row : Nat} {ecc : Ecc} {m : Option (List Bool)} (ha : chActs s ch = true)
    (hr : tfind (chOf s ch).rows bank = some row) (hz : s.boot.pbZeroed = true) : wrOp s ch bank col ecc data m =
      if m.isSome && (chOf s ch).mr.dmDis then chTouch s ch
      else if (chOf s ch).mr.wecc && ecc == .uncorrectable then
        weccDrop (chTouch s ch) ch (apOffset ch row bank col / 4096)
      else hostWrite (writeTaken s ch ecc) ch (apOffset ch row bank col) data (m.getD []) := by
  have hc := (chTouch_only s ch).2.1
  have hrt : tfind (chOf s ch).touched.rows bank = some row := hr
  have hzt : ¬(!(chTouch s ch).boot.pbZeroed) = true := by simp [chTouch, hz]
  rw [wrOp, if_pos ha]
  dsimp only
  rw [hc, if_neg hzt, hrt]
  rfl

/-- A write burst that the link delivers whole lands, with a mask where the channel's data mask is on. -/
theorem wrOp_lands {bank col row : Nat} {ecc : Ecc} {m : Option (List Bool)} (ha : chActs s ch = true)
    (hr : tfind (chOf s ch).rows bank = some row) (hz : s.boot.pbZeroed = true)
    (he : (chOf s ch).mr.wecc = false ∨ ecc ≠ .uncorrectable) (hm : m = none ∨ (chOf s ch).mr.dmDis = false) :
    wrOp s ch bank col ecc data m =
      hostWrite (writeTaken s ch ecc) ch (apOffset ch row bank col) data (m.getD []) := by
  have hmask : ¬(m.isSome && (chOf s ch).mr.dmDis) = true := by
    obtain hm | hm := hm <;> simp [hm]
  have hecc : ¬((chOf s ch).mr.wecc && ecc == .uncorrectable) = true := by
    obtain he | he := he <;> simp [he]
  rw [wrOp_open ha hr hz, if_neg hmask, if_neg hecc]

/-- A write burst with an uncorrectable error on the link is dropped (R77). -/
theorem wrOp_uncorrectable {bank col row : Nat} (ha : chActs s ch = true)
    (hr : tfind (chOf s ch).rows bank = some row) (hz : s.boot.pbZeroed = true) (hw : (chOf s ch).mr.wecc = true) :
    wrOp s ch bank col .uncorrectable data none =
      weccDrop (chTouch s ch) ch (apOffset ch row bank col / 4096) := by
  rw [wrOp_open ha hr hz, if_neg (by simp), if_pos (by simp [hw])]

/-- Host bytes stored in the port buffer change nothing else that a write burst has not. -/
theorem ChanOnly.pbHostStore (h : ChanOnly s t ch c) (off : Nat) (data : List Byte) (masked : List Bool) :
    pbHostStore t off data masked = { s with
      hp := t.hp, pb := (pbHostStore t off data masked).pb, pbPoison := (pbHostStore t off data masked).pbPoison } ∧
    (pbHostStore t off data masked).pb = mwritesMasked s.pb off data masked := by
  obtain ⟨ht, _, _⟩ := h
  have hpb : t.pb = s.pb := (congrArg State.pb ht :)
  refine ⟨?_, congrArg (mwritesMasked · off data masked) hpb⟩
  exact congrArg (fun v : State => { v with
    pb := (Machine.pbHostStore t off data masked).pb
    pbPoison := (Machine.pbHostStore t off data masked).pbPoison }) ht

/-- A write burst through a WRITE window changes the port buffer and the one channel. -/
theorem wrOp_window {bank col row : Nat} {ecc : Ecc} {m : Option (List Bool)} (ha : chActs s ch = true)
    (hr : tfind (chOf s ch).rows bank = some row) (hz : s.boot.pbZeroed = true)
    (he : (chOf s ch).mr.wecc = false ∨ ecc ≠ .uncorrectable) (hm : m = none ∨ (chOf s ch).mr.dmDis = false)
    (hw : hpWin s (apOffset ch row bank col / 4096) = .entry e) (hc : e.cls = 1) :
    ∃ u, wrOp s ch bank col ecc data m = u ∧ u = { s with hp := u.hp, pb := u.pb, pbPoison := u.pbPoison } ∧
      u.pb = mwritesMasked s.pb (e.pbByte (apOffset ch row bank col)) data (m.getD []) ∧ (chOf u ch).st = .active ∧
      ∀ n, n ≠ ch → chOf u n = chOf s n := by
  have hta := writeTaken_only s ch ecc
  have hrun := (wrOp_lands (data := data) ha hr hz he hm).trans (hostWrite_entry ((hta.hpWin_eq _).trans hw) hc)
  obtain ⟨hstore, hpb⟩ := hta.pbHostStore (e.pbByte (apOffset ch row bank col)) data (m.getD [])
  obtain ⟨_, hch, ho⟩ := hta
  exact ⟨_, hrun, hstore, hpb, (congrArg Chan.st hch).trans (Chan.taken_st _ _), ho⟩

/-- A record written before HP_LINK is raised adds the log to what changes. -/
theorem ChanOnly.hpLink_logged {u : State} (h : ChanOnly s t ch c) (hu : u = { t with log := u.log }) :
    Machine.hpLink u = { s with
      hp := (Machine.hpLink u).hp, irq := (raise s .hpLink).irq, log := (Machine.hpLink u).log } ∧
    chOf (Machine.hpLink u) ch = c := by
  obtain ⟨ht, hc, _⟩ := h
  constructor
  · rw [hu, ht]
    rfl
  · rw [hu]
    exact hc

/-- The drop of a write burst counts, records and raises HP_LINK (R77). -/
theorem ChanOnly.weccDrop (h : ChanOnly s t ch c) (page : Nat) :
    weccDrop t ch page = { s with
      hp := (weccDrop t ch page).hp, irq := (raise s .hpLink).irq, log := (weccDrop t ch page).log } ∧
    chOf (weccDrop t ch page) ch = { c with weccUe := c.weccUe + 1 } ∧
    Appends s (weccDrop t ch page) (fun r => r.code = 0x000B ∧ r.cls = 0 ∧ r.unit = 4 ∧ r.inst = ch) := by
  have hcount := h.modCh fun c => { c with weccUe := c.weccUe + 1 }
  obtain ⟨ht, hc⟩ := hcount.hpLink_logged (event_eq_log _ 0x000B 0 4 ch 0 page none)
  have hl : t.log = s.log := (congrArg State.log h.1 :)
  refine ⟨ht, hc, Appends.of_eq (s := t) (fun hf => ?_) hl⟩
  exact ⟨_, errWrite_recs hf (by simp [mkErr]), rfl, rfl, rfl, rfl⟩

/-! ## The bursts of Table 4-3 together -/

/-- Settles O11: each burst touches its channel, lands where `hpWin` says, and leaves that window as Table 5-2 has it;
an uncorrectable word may cost a context, but the loss of a context changes no channel. -/
theorem hostBursts : Obligations.HostBursts := by
  unfold Obligations.HostBursts
  refine ⟨⟨?read, ?write, ?masked⟩, ?readUnmapped, ?writeUnmapped, ?dropped, ?closed⟩
  case read =>
    intro s ch bank col row bl32 e hrun ha hr hl hz hw hs hc
    have hto := chTouch_only s ch
    have hrd := hostRead_entry (n := ch) (len := if bl32 then 64 else 32) ((hto.hpWin_eq _).trans hw) hs hc
    refine ⟨fun hg => ?_, fun hb => ?_⟩
    · have hop := rdOp_open ha hr hl hz (hrd.trans (pbHostRead_good hg))
      rw [hto.2.1] at hop
      exact ⟨_, onLive_next hrun hop, hto.answers _⟩
    · obtain ⟨hones, hhp⟩ := pbHostRead_bad (s := chTouch s ch) (page := apOffset ch row bank col / 4096) hb
      have hop := rdOp_open ha hr hl hz (hrd.trans (Prod.ext hones rfl))
      have hch : chOf (pbHostRead (chTouch s ch) (e.pbByte (apOffset ch row bank col)) (if bl32 then 64 else 32)
          (apOffset ch row bank col / 4096)).2 ch = (chOf s ch).touched := by
        rw [chOf, hhp]
        exact hto.2.1
      rw [hch] at hop
      refine ⟨_, onLive_next hrun hop, ?_⟩
      rw [chAnswer, chOf_modCh_same]
      rfl
  case write =>
    intro s ch bank col row bl32 ecc data e hrun ha hr he hz hw hc
    obtain ⟨u, hu, h⟩ := wrOp_window (data := data) ha hr hz he (.inl rfl) hw hc
    exact ⟨u, onLive_next hrun hu, h⟩
  case masked =>
    intro s ch bank col row bl32 ecc data masked e hrun ha hr he hm hz hw hc
    obtain ⟨u, hu, h⟩ := wrOp_window (data := data) (m := some masked) ha hr hz he (.inr hm) hw hc
    exact ⟨u, onLive_next hrun hu, h⟩
  case readUnmapped =>
    intro s ch bank col row bl32 hrun ha hr hl hz hw
    have hto := chTouch_only s ch
    have hun := hto.modCh fun c => { c with unmapRd := c.unmapRd + 1 }
    have hop := rdOp_open (bl32 := bl32) ha hr hl hz (hostRead_unmapped ((hto.hpWin_eq _).trans hw))
    rw [hun.2.1] at hop
    exact ⟨_, onLive_next hrun hop, hun.answers _⟩
  case writeUnmapped =>
    intro s ch bank col row bl32 ecc data hrun ha hr he hz hw
    have hta : ChanOnly s (writeTaken s ch ecc) ch (chOf s ch).touched :=
      Chan.taken_plain (ecc := ecc) he ▸ writeTaken_only s ch ecc
    refine ⟨refuseWr (writeTaken s ch ecc) ch, onLive_next hrun ?_, hta.modCh _⟩
    exact (wrOp_lands ha hr hz (.inl he) (.inl rfl)).trans (hostWrite_unmapped ((hta.hpWin_eq _).trans hw))
  case dropped =>
    intro s ch bank col row bl32 data hrun ha hr he hz
    exact ⟨_, onLive_next hrun (wrOp_uncorrectable ha hr hz he), (chTouch_only s ch).weccDrop _⟩
  case closed =>
    intro s ch bank col bl32 hrun ha hr hz
    have hp := (chTouch_only s ch).protoErr.modCh fun c =>
      { c with answer := (chOf s ch).burst (List.replicate (if bl32 then 64 else 32) 0) }
    obtain ⟨ht, hc, _⟩ := hp
    exact ⟨_, onLive_next hrun (rdOp_closed ha hr hz), ht, congrArg Chan.proto hc, congrArg Chan.answer hc⟩

end Sys2Proof.Machine
end

section
/-! # The window table: staging, invalidation writes and the end of a commit (R87 to R90) -/

namespace Sys2Proof.Machine

set_option Elab.async false

variable {s t : State} {off : Nat} {data : List Byte} {masked : List Bool}

/-! ## Bytes of an entry -/

/-- A byte string is the low bytes of the number it holds (R5). -/
theorem natBytes_leNat (l : List Byte) : natBytes (leNat l) l.length = l := by
  induction l with
  | nil => rfl
  | cons b r ih =>
    have hb : b.toNat < 256 := b.isLt
    have hlow : BitVec.ofNat 8 (b.toNat + 256 * leNat r) = b := by
      apply BitVec.eq_of_toNat_eq
      rw [BitVec.toNat_ofNat]
      omega
    have hhigh : (b.toNat + 256 * leNat r) / 256 = leNat r := by omega
    simp only [leNat, List.length_cons, natBytes, hlow, hhigh, ih]

theorem leNat_lt (l : List Byte) : leNat l < 256 ^ l.length := by
  induction l with
  | nil => decide
  | cons b r ih =>
    have hb : b.toNat < 256 := b.isLt
    rw [leNat, List.length_cons, Nat.pow_succ]
    omega

/-- An entry written from 16 bytes holds them. -/
theorem entryByte_ofNat {l : List Byte} (h : l.length = 16) (j : Nat) :
    entryByte (BitVec.ofNat 128 (leNat l)) j = l.getD j 0 := by
  have hl := leNat_lt l
  rw [h] at hl
  have hn : (BitVec.ofNat 128 (leNat l)).toNat = leNat l := by
    rw [BitVec.toNat_ofNat]
    exact Nat.mod_eq_of_lt hl
  rw [entryByte, hn, ← h, natBytes_leNat]

/-! ## Staging (R87) -/

/-- A burst has no byte outside its own range. -/
theorem burstByte_out {p : Nat} (h : p < off ∨ off + data.length ≤ p) : burstByte off data masked p = none := by
  unfold burstByte
  rcases h with h | h
  · simp [h]
  · simp only [show data[p - off]? = none from List.getElem?_eq_none (by omega), ite_self]

/-- Entry `k` as a burst leaves it: the bytes it writes over those staged, or in force where nothing is. -/
def entryStaged (s : State) (off : Nat) (data : List Byte) (masked : List Bool) (k : Nat) : BitVec 128 :=
  BitVec.ofNat 128 (leNat ((List.range 16).map fun j => (burstByte off data masked (16 * k + j)).getD
    (entryByte (tget s.wt.staged k (wtEntry s k).word) j)))

theorem entryByte_entryStaged (s : State) (k : Nat) {j : Nat} (hj : j < 16) :
    entryByte (entryStaged s off data masked k) j = (burstByte off data masked (16 * k + j)).getD
      (entryByte (tget s.wt.staged k (wtEntry s k).word) j) := by
  rw [entryStaged, entryByte_ofNat (by simp), List.getD_eq_getElem _ _ (by simpa using hj)]
  simp

/-- Whether a burst writes a byte of entry `k`. -/
def Touches (off : Nat) (data : List Byte) (masked : List Bool) (k : Nat) : Prop :=
  ∃ j < 16, (burstByte off data masked (16 * k + j)).isSome = true

theorem not_touches {k j : Nat} (h : ¬Touches off data masked k) (hj : j < 16) :
    burstByte off data masked (16 * k + j) = none := by
  by_contra hn
  exact h ⟨j, hj, Option.isSome_iff_ne_none.2 hn⟩

theorem stageEntry_touched {k : Nat} (h : Touches off data masked k) : stageEntry off data masked s k =
    { s with wt := { s.wt with
      staged := tput s.wt.staged k (entryStaged s off data masked k), cnt := s.wt.cnt + 1 } } := by
  have hany : (((List.range 16).map fun j => burstByte off data masked (16 * k + j)).any Option.isSome) = true := by
    simpa [Touches] using h
  have hbytes : (List.range 16).map (fun j =>
        ((((List.range 16).map fun j => burstByte off data masked (16 * k + j)).getD j none).getD
          ((natBytes (tget s.wt.staged k (wtEntry s k).word).toNat 16).getD j 0))) =
      (List.range 16).map fun j => (burstByte off data masked (16 * k + j)).getD
        (entryByte (tget s.wt.staged k (wtEntry s k).word) j) := by
    refine List.map_congr_left fun j hj => ?_
    rw [List.getD_eq_getElem _ _ (by simpa using hj)]
    simp [entryByte]
  unfold stageEntry
  dsimp only
  rw [if_pos hany, hbytes]
  rfl

theorem stageEntry_untouched {k : Nat} (h : ¬Touches off data masked k) : stageEntry off data masked s k = s := by
  refine if_neg fun hany => h ?_
  simpa [Touches] using hany

/-- From `s` to `t` entries were staged and counted, and the bytes of entry `k` are those of a burst where `k` is
listed, and as before where it is not. -/
structure Stages (s t : State) (off : Nat) (data : List Byte) (masked : List Bool) (l : List Nat) : Prop where
  frame : t = { s with wt := { s.wt with staged := t.wt.staged, cnt := t.wt.cnt } }
  bytes : ∀ k j, j < 16 → entryByte (tget t.wt.staged k (wtEntry s k).word) j =
    if k ∈ l then (burstByte off data masked (16 * k + j)).getD (entryByte (tget s.wt.staged k (wtEntry s k).word) j)
    else entryByte (tget s.wt.staged k (wtEntry s k).word) j

theorem Stages.nil (s : State) : Stages s s off data masked [] := ⟨rfl, fun _ _ _ => rfl⟩

theorem Stages.snoc {l : List Nat} {k : Nat} (h : Stages s t off data masked l) (hk : k ∉ l) :
    Stages s (stageEntry off data masked t k) off data masked (l ++ [k]) := by
  obtain ⟨hframe, hbytes⟩ := h
  have hentry : wtEntry t = wtEntry s := by
    unfold wtEntry
    rw [hframe]
  by_cases ht : Touches off data masked k
  · rw [stageEntry_touched ht]
    refine ⟨by rw [hframe], fun i j hj => ?_⟩
    by_cases hi : i = k
    · subst hi
      rw [if_pos (by simp)]
      refine (congrArg (entryByte · j) (tget_tput_same _ _ _ _)).trans ?_
      rw [entryByte_entryStaged t i hj, hentry, hbytes i j hj, if_neg hk]
    · refine (congrArg (entryByte · j) (tget_tput_other _ _ _ _ _ hi)).trans ?_
      rw [hbytes i j hj]
      simp [hi]
  · rw [stageEntry_untouched ht]
    refine ⟨hframe, fun i j hj => ?_⟩
    rw [hbytes i j hj]
    by_cases hi : i = k
    · subst hi
      rw [if_neg hk, if_pos (by simp), not_touches ht hj]
      rfl
    · simp [hi]

theorem Stages.foldl {l m : List Nat} (h : Stages s t off data masked l) (hm : (l ++ m).Nodup) :
    Stages s (m.foldl (stageEntry off data masked) t) off data masked (l ++ m) := by
  induction m generalizing l t with
  | nil => simpa using h
  | cons k m ih =>
    have hk : k ∉ l := fun hl => (List.nodup_append.1 hm).2.2 k hl k (by simp) rfl
    have := ih (h.snoc hk) (by simpa using hm)
    simpa using this

/-- The entries a burst may touch. -/
def burstEntries (off n : Nat) : List Nat := List.range' (off / 16) ((off % 16 + n + 15) / 16)

theorem burstByte_unlisted {k j : Nat} (hk : k ∉ burstEntries off data.length) (hj : j < 16) :
    burstByte off data masked (16 * k + j) = none := by
  refine burstByte_out ?_
  rw [burstEntries, List.mem_range'_1] at hk
  omega

theorem tableWriteOp_eq (hb : s.boot.stage = .ready) : tableWriteOp s off data masked =
    (burstEntries off data.length).foldl (stageEntry off data masked) s := by
  simp [tableWriteOp, burstEntries, hb]

/-- A burst stages every byte it writes and leaves every other byte of every entry. -/
theorem tableWriteOp_stages (hb : s.boot.stage = .ready) :
    Stages s (tableWriteOp s off data masked) off data masked (burstEntries off data.length) := by
  rw [tableWriteOp_eq hb]
  exact (Stages.nil s).foldl (List.nodup_range' (s := off / 16))

theorem tableWriteOp_byte (hb : s.boot.stage = .ready) (k : Nat) {j : Nat} (hj : j < 16) :
    entryByte (tget (tableWriteOp s off data masked).wt.staged k (wtEntry s k).word) j =
      (burstByte off data masked (16 * k + j)).getD (entryByte (tget s.wt.staged k (wtEntry s k).word) j) := by
  rw [(tableWriteOp_stages hb).bytes k j hj]
  split
  · rfl
  · rw [burstByte_unlisted (by assumption) hj]
    rfl

/-- A burst of one whole entry. -/
theorem tableWriteOp_entry {k : Nat} (hb : s.boot.stage = .ready) (hl : data.length = 16) :
    tableWriteOp s (16 * k) data [] = { s with wt := { s.wt with
      staged := tput s.wt.staged k (BitVec.ofNat 128 (leNat data)), cnt := s.wt.cnt + 1 } } := by
  have hbyte : ∀ j, burstByte (16 * k) data [] (16 * k + j) = data[j]? := by
    intro j
    simp [burstByte]
  have hone : burstEntries (16 * k) data.length = [k] := by
    have h1 : 16 * k / 16 = k := by omega
    have h2 : (16 * k % 16 + data.length + 15) / 16 = 1 := by omega
    rw [burstEntries, h1, h2]
    rfl
  have hword : entryStaged s (16 * k) data [] k = BitVec.ofNat 128 (leNat data) := by
    unfold entryStaged
    congr 2
    apply List.ext_getElem
    · simp [hl]
    · intro j h1 h2
      simp [hbyte, h2]
  rw [tableWriteOp_eq hb, hone, List.foldl_cons, List.foldl_nil,
    stageEntry_touched ⟨0, by decide, by rw [hbyte 0]; simp [hl]⟩, hword]

/-! ## Invalidation writes (R88, R89, Table 5-5) -/

/-- A commit starts where every check passes. -/
theorem invalidationOp_starts {gen : W32} {n : BitVec 16} (hb : s.boot.stage = .ready) (hbusy : s.wt.busy = false)
    (hg : gen = s.wt.gen + 1) (hn : n = s.wt.cnt) (hok : tableOk s (tableApply s.wt.table s.wt.staged) = true) :
    invalidationOp s gen n = { s with wt := { s.wt with
      staged := [], cnt := 0, busy := true
      commit := some { table := tableApply s.wt.table s.wt.staged, gen := gen
                       zero := commitZero s.wt.table (tableApply s.wt.table s.wt.staged), teardown := none }
      table := s.wt.table.filter (fun e => tget (tableApply s.wt.table s.wt.staged) e.1 {} == e.2) } } := by
  have hok' : tableOk { s with wt := { s.wt with staged := [], cnt := 0 } }
      (tableApply s.wt.table s.wt.staged) = true := hok
  unfold invalidationOp
  dsimp only
  rw [if_neg (by simp [hb]), if_neg (by simp [hbusy]), if_neg (by simp [hg]), if_neg (by simp [hn]),
    if_neg (by rw [hok']; decide)]

/-- Otherwise the first check that fails names the error. -/
theorem invalidationOp_fails {gen : W32} {n : BitVec 16} (hb : s.boot.stage = .ready)
    (h : s.wt.busy = true ∨ gen ≠ s.wt.gen + 1 ∨ n ≠ s.wt.cnt ∨
      tableOk s (tableApply s.wt.table s.wt.staged) = false) :
    invalidationOp s gen n = { s with
      irq := (raise s .wtErr).irq
      wt := { s.wt with staged := [], cnt := 0
                        err := if s.wt.busy then 1 else if gen ≠ s.wt.gen + 1 then 2
                          else if n ≠ s.wt.cnt then 3 else 4 } } := by
  have hok : tableOk { s with wt := { s.wt with staged := [], cnt := 0 } } (tableApply s.wt.table s.wt.staged) =
      tableOk s (tableApply s.wt.table s.wt.staged) := rfl
  unfold invalidationOp
  refine (if_neg (by simp [hb])).trans ?_
  dsimp only
  by_cases hbusy : s.wt.busy = true
  · refine (if_pos hbusy).trans ?_
    rw [if_pos hbusy]
    rfl
  refine (if_neg hbusy).trans ?_
  rw [if_neg hbusy]
  by_cases hg : gen ≠ s.wt.gen + 1
  · refine (if_pos (bne_iff_ne.2 hg)).trans ?_
    rw [if_pos hg]
    rfl
  refine (if_neg (mt bne_iff_ne.1 hg)).trans ?_
  rw [if_neg hg]
  by_cases hn : n ≠ s.wt.cnt
  · refine (if_pos (bne_iff_ne.2 hn)).trans ?_
    rw [if_pos hn]
    rfl
  refine (if_neg (mt bne_iff_ne.1 hn)).trans ?_
  rw [if_neg hn]
  have hbad : tableOk s (tableApply s.wt.table s.wt.staged) = false := by tauto
  exact (if_pos (by rw [hok, hbad]; rfl)).trans rfl

/-! ## The end of a commit (R89) -/

/-- Dropping cells by their address zeroes those addresses. -/
theorem mget_filter (p : Nat → Bool) (m : Memory) (a : Nat) :
    mget (m.filter fun c => p c.1) a = if p a = true then mget m a else 0 := by
  induction m with
  | nil => simp [mget]
  | cons c r ih =>
    obtain ⟨k, v⟩ := c
    by_cases hk : k = a
    · subst hk
      cases hp : p k <;> simp [hp, mget, ih]
    · cases hp : p k <;> simp [hp, mget, ih, hk]

theorem ringCheck_frame (s : State) : ringCheck s = { s with log := (ringCheck s).log } := by
  unfold ringCheck
  split <;> rfl

theorem wtCommitEndOp_eq {c : Commit} (hc : s.wt.commit = some c) (hw : s.wt.waiting = []) (ht : c.teardown = none) :
    wtCommitEndOp s = ringCheck { pbZeroPages s c.zero with
      wt := { s.wt with table := c.table, gen := c.gen, busy := false, commit := none, err := 0 } } := by
  have hend : commitEnd s c = ringCheck { pbZeroPages s c.zero with
      wt := { s.wt with table := c.table, gen := c.gen, busy := false, commit := none, err := 0 } } := by
    unfold commitEnd
    rw [ht]
    rfl
  unfold wtCommitEndOp
  rw [hc]
  dsimp only
  have hwait : (commitEnd s c).wt.waiting = [] := by
    rw [hend, ringCheck_frame]
    exact hw
  rw [hwait]
  exact hend

/-- Settles O14: a burst by its entries, one after another; an invalidation write by its checks in their order; the
end of a commit by its one equation. -/
theorem windowTableCommit : Obligations.WindowTableCommit := by
  unfold Obligations.WindowTableCommit
  refine ⟨?staged, ?entry, ?starts, ?fails, ?ends⟩
  case staged =>
    intro s off data masked hrun hb
    exact ⟨_, onLive_runs hrun _, (tableWriteOp_stages hb).frame, fun k j hj => tableWriteOp_byte hb k hj⟩
  case entry =>
    intro s k data hrun hb hl
    exact onLive_next hrun (tableWriteOp_entry hb hl)
  case starts =>
    intro s gen n hrun hb hbusy hg hn hok
    exact onLive_next hrun (invalidationOp_starts hb hbusy hg hn hok)
  case fails =>
    intro s gen n hrun hb h
    exact onLive_next hrun (invalidationOp_fails hb h)
  case ends =>
    intro s c hrun hc hw ht
    refine ⟨_, onLive_next hrun ((wtCommitEndOp_eq hc hw ht).trans (ringCheck_frame _)), rfl, rfl, rfl, rfl, rfl,
      fun a => ?_⟩
    refine (mget_filter (fun x => !c.zero.contains (x / 4096)) s.pb a).trans ?_
    by_cases ha : a / 4096 ∈ c.zero <;> simp [ha]

end Sys2Proof.Machine
end

section
/-! # Doorbells and host fence writes (R83, R95, R119, R276) -/

namespace Sys2Proof.Machine

set_option Elab.async false

variable {s t : State} {page wctx q f : Nat} {data : BitVec 256} {mask : W32}

/-! ## A drop is reported (Tables 5-13 and 22-5) -/

/-- An event-class record for a context, where the log has room for it. -/
theorem event_appends_ctx (s : State) (code status unit inst addr info : Nat) (ctx : Option Nat) :
    Appends s (event s code status unit inst addr info ctx)
      (fun r => r.code = code ∧ r.cls = 0 ∧ r.ctx = ctx ∧ r.info = BitVec.ofNat 32 info) := fun hf =>
  ⟨_, errWrite_recs hf (by simp [mkErr]), rfl, rfl, rfl, rfl⟩

theorem dbDrop_frame (s : State) (ctx page reason chan : Nat) : dbDrop s ctx page reason chan =
    { s with log := (dbDrop s ctx page reason chan).log, irq := (raise s .dbDrop).irq } := by
  unfold dbDrop
  rw [event_eq_log]
  rfl

theorem dbDrop_appends (s : State) (ctx page reason chan : Nat) : Appends s (dbDrop s ctx page reason chan)
    (fun r => r.code = 0x0012 ∧ r.cls = 0 ∧ r.ctx = some ctx ∧
      r.info = BitVec.ofNat 32 (packNat [(page, 0), (reason, 24)])) :=
  (event_appends_ctx s 0x0012 0 4 chan 0 _ (some ctx)).to_eq rfl

/-! ## Doorbells (R95, Table 6-13) -/

theorem mgmtWake_eq (s : State) : mgmtWake s =
    { s with pwr := if s.pwr.dev = .retain then { s.pwr with waking := true } else s.pwr } := by
  unfold mgmtWake
  split <;> rfl

/-- A queue as a doorbell leaves it, where `ord` numbers a latch that was clear. -/
def Queue.rung (x : Queue) (ord : Nat) (data : BitVec 256) (mask : W32) : Queue := { x with
  latch := true, latchOrd := if x.latch then x.latchOrd else ord
  dTail := BitVec.ofNat 32 (maskBytes 4 x.dTail.toNat data.toNat mask.toNat)
  dHead := BitVec.ofNat 32 (maskBytes 4 x.dHead.toNat (data.toNat >>> 64) (mask.toNat >>> 8)) }

/-- A doorbell of its context sets the latch of a LIVE queue and ends RETAIN. -/
theorem doorbellOp_taken (hl : (queueOf s q).st = .live) (hc : (queueOf s q).ctx = wctx)
    (hs : (queueOf s q).stopped = false) : doorbellOp s page wctx q data mask = { s with
      orders := s.orders + 1, queues := tmod s.queues q {} (·.rung (s.orders + 1) data mask)
      pwr := if s.pwr.dev = .retain then { s.pwr with waking := true } else s.pwr } := by
  have h : doorbellOp s page wctx q data mask = mgmtWake (latchSet s q data mask) := by
    simp [doorbellOp, hl, hc, hs]
  rw [h, mgmtWake_eq]
  rfl

/-- A doorbell that is dropped with a record: the queue is not the context's, or is being destroyed. -/
theorem doorbellOp_dropped (h : (queueOf s q).st = .free ∨ (queueOf s q).ctx ≠ wctx ∨
      ((queueOf s q).st = .destroying ∧ (queueOf s q).stopped = false)) :
    doorbellOp s page wctx q data mask = dbDrop s wctx page
      (if (queueOf s q).st = .free ∨ (queueOf s q).ctx ≠ wctx then 0 else 1) (pageChan page) := by
  unfold doorbellOp
  by_cases ho : (queueOf s q).st = .free ∨ (queueOf s q).ctx ≠ wctx
  · rw [if_pos ho]
    exact if_pos (by simpa using ho)
  · obtain ⟨hd, hs⟩ : (queueOf s q).st = .destroying ∧ (queueOf s q).stopped = false := by tauto
    rw [if_neg ho]
    exact (if_neg (by simpa using ho)).trans ((if_neg (by simp [hs])).trans (if_pos hd))

theorem doorbellOp_stopped (hf : (queueOf s q).st ≠ .free) (hc : (queueOf s q).ctx = wctx)
    (hs : (queueOf s q).stopped = true) : doorbellOp s page wctx q data mask = s := by
  simp [doorbellOp, hf, hc, hs]

/-! ## Fence words (R83, R119) -/

/-- A LIVE fence of this chip takes a greater value and keeps its own otherwise. -/
theorem signal_val {x : Fence} (now : BitVec 48) (v : W64) (e : Bool) (hl : x.st = .live) (hr : x.remote = none) :
    (x.signal now v e).val = if x.val < v then v else x.val := by
  by_cases h : x.val < v
  · rw [signal_raises e hl hr h, if_pos h]
  · rw [signal_keeps e hl hr h, if_neg h]

theorem fenceWriteOp_signals {data : BitVec 128} {mask : BitVec 16} (h : fenceSig s wctx f = true) :
    fenceWriteOp s page wctx f data mask = fenceSignal s f
      (BitVec.ofNat 64 (maskBytes 8 (fenceOf s f).val.toNat data.toNat mask.toNat)) (bit data 64 && !bit mask 8) :=
  if_pos h

theorem fenceWriteOp_refused {data : BitVec 128} {mask : BitVec 16} (h : fenceSig s wctx f = false) :
    fenceWriteOp s page wctx f data mask = dbDrop s wctx page 2 (pageChan page) := if_neg (by simp [h])

/-! ## Table 5-7 -/

theorem exec_doorbell (hw : dbWindow s page wctx q = true) :
    exec (.doorbell page wctx q data mask) s = onLive s (doorbellOp s page wctx q data mask) :=
  congrArg (onLive s) (if_pos hw)

theorem exec_fenceWrite {data : BitVec 128} {mask : BitVec 16} (hw : fenceWindow s page wctx f = true) :
    exec (.fenceWrite page wctx f data mask) s = onLive s (fenceWriteOp s page wctx f data mask) :=
  congrArg (onLive s) (if_pos hw)

/-- Settles O17: a doorbell changes its queue and what wakes the device, a signal changes its fence, and a drop changes
the log and the causes. -/
theorem doorbellsAndFenceWrites : Obligations.DoorbellsAndFenceWrites := by
  unfold Obligations.DoorbellsAndFenceWrites
  refine ⟨?taken, ?dropped, ?stopped, ?signalled, ?refused⟩
  case taken =>
    intro s page wctx q data mask hrun hw hl hc hs
    exact ⟨_, (exec_doorbell hw).trans (onLive_next hrun (doorbellOp_taken hl hc hs)), rfl,
      tget_tmod_same s.queues q {} (·.rung (s.orders + 1) data mask),
      fun r hr => tget_tmod_other s.queues q r {} {} (·.rung (s.orders + 1) data mask) hr, rfl⟩
  case dropped =>
    intro s page wctx q data mask hrun hw h
    exact ⟨_, (exec_doorbell hw).trans (onLive_next hrun (doorbellOp_dropped h)), dbDrop_frame _ _ _ _ _,
      dbDrop_appends _ _ _ _ _⟩
  case stopped =>
    intro s page wctx q data mask hw hf hc hs
    rw [exec_doorbell hw, doorbellOp_stopped hf hc hs, onLive, ite_self]
  case signalled =>
    intro s page wctx f data mask hrun hw hs hl hr
    exact ⟨_, _, (exec_fenceWrite hw).trans (onLive_next hrun (fenceWriteOp_signals hs)), rfl, rfl,
      (congrArg Fence.val (fenceSignal_same _ _ _ _)).trans (signal_val _ _ _ hl hr),
      fun g hg => fenceSignal_other _ _ _ _ _ hg⟩
  case refused =>
    intro s page wctx f data mask hrun hw hs
    exact ⟨_, (exec_fenceWrite hw).trans (onLive_next hrun (fenceWriteOp_refused hs)), dbDrop_frame _ _ _ _ _,
      dbDrop_appends _ _ _ _ _⟩

end Sys2Proof.Machine
end

section
/-! # Hardware slots: binding, sampling, draining and fetching (R97 to R99, R130 to R133) -/

namespace Sys2Proof.Machine

set_option Elab.async false

variable {s t u : State} {i q : Nat}

/-! ## One slot changes -/

/-- From `s` to `t` slot `i` becomes `x` and no other slot changes. -/
def SlotOnly (s t : State) (i : Nat) (x : Slot) : Prop := slotOf t i = x ∧ ∀ j, j ≠ i → slotOf t j = slotOf s j

theorem SlotOnly.of_slots {f : Slot → Slot} (h : t.slots = tmod s.slots i {} f) : SlotOnly s t i (f (slotOf s i)) := by
  unfold SlotOnly slotOf
  rw [h]
  exact ⟨tget_tmod_same _ _ _ _, fun j hj => tget_tmod_other _ _ _ _ _ _ hj⟩

theorem SlotOnly.modSlot {x : Slot} (h : SlotOnly s t i x) (f : Slot → Slot) : SlotOnly s (modSlot t i f) i (f x) :=
  ⟨(slotOf_modSlot_same t i f).trans (congrArg f h.1),
    fun j hj => (slotOf_modSlot_other t i j f hj).trans (h.2 j hj)⟩

theorem SlotOnly.refl (s : State) (i : Nat) : SlotOnly s s i (slotOf s i) := ⟨rfl, fun _ _ => rfl⟩

theorem SlotOnly.of_eq {x : Slot} (h : SlotOnly s t i x) (hu : u.slots = t.slots) : SlotOnly s u i x := by
  unfold SlotOnly slotOf at *
  rwa [hu]

/-! ## Binding (R132) -/

/-- A slot just bound to a queue is IDLE from now on. -/
def boundTo (s : State) (q : Nat) : Slot := { queue := some q, st := .idle, idleOrd := s.orders }

theorem bindSlot_only (s : State) (i q : Nat) :
    bindSlot s i q = { s with slots := (bindSlot s i q).slots, orders := s.orders + 1 } ∧
    SlotOnly s (bindSlot s i q) i (boundTo s q) := ⟨rfl, .of_slots (f := fun _ => boundTo s q) rfl⟩

/-- The slot a waiting queue takes: a free one, or else the one IDLE longest. -/
theorem queueBindOp_takes (hd : dispatching s = true) (hw : firstWaiting s (queuePart s q) = some q)
    (hi : freeSlot s (queuePart s q) = some i ∨
      (freeSlot s (queuePart s q) = none ∧ idleLongest s (queuePart s q) = some i)) :
    queueBindOp s q = bindSlot s i q := by
  unfold queueBindOp
  refine (if_pos (by simp [hd, hw])).trans ?_
  rcases hi with hf | ⟨hf, hl⟩
  · rw [hf]
  · rw [hf, hl]

theorem queueBindOp_waits (h : firstWaiting s (queuePart s q) ≠ some q ∨
    (freeSlot s (queuePart s q) = none ∧ idleLongest s (queuePart s q) = none)) : queueBindOp s q = s := by
  unfold queueBindOp
  rcases h with hw | ⟨hf, hl⟩
  · exact if_neg (by simp [hw])
  · dsimp only
    rw [hf, hl, ite_self]

/-! ## Taking a doorbell (R96, Table 22-5a) -/

/-- One value of a doorbell is taken, or refused with a SUBMIT_FAULT record and DB_DROP. -/
def valueTaken (s : State) (ctx q check : Nat) (ok : Bool) : State :=
  if ok then s else raise (submitFault s ctx q check 0 .formatFault) .dbDrop

theorem valueTaken_frame (s : State) (ctx q check : Nat) (ok : Bool) : valueTaken s ctx q check ok =
    { s with log := (valueTaken s ctx q check ok).log, irq := (valueTaken s ctx q check ok).irq } := by
  unfold valueTaken submitFault
  cases ok
  · rw [event_eq_log]
    rfl
  · rfl

theorem valueTaken_later (s : State) (ctx q check : Nat) (ok : Bool) : Later s (valueTaken s ctx q check ok) :=
  .ite (.refl s) (.raise (.event (.refl s)))

theorem valueTaken_true (s : State) (ctx q check : Nat) : valueTaken s ctx q check true = s := rfl

theorem valueRefused_appends (s : State) (ctx q check : Nat) : Appends s (valueTaken s ctx q check false)
    (fun r => r.code = 0x0011 ∧ r.ctx = some ctx ∧ r.info = BitVec.ofNat 32 (packNat [(q, 0), (check, 16)])) := by
  have h := event_appends_ctx s 0x0011 Status.formatFault.code 6 0 0 (packNat [(q, 0), (check, 16), (0, 20)]) (some ctx)
  refine (h.mono fun r => ?_).to_eq rfl
  rintro ⟨hcode, -, hctx, hinfo⟩
  exact ⟨hcode, hctx, hinfo.trans (by simp [packNat])⟩

theorem valueRefused_raises (s : State) (ctx q check : Nat) :
    (valueTaken s ctx q check false).irq.cause.getLsbD Cause.dbDrop.bit = true := raise_sets _ _

theorem takeDoorbell_eq (s : State) (q : Nat) : takeDoorbell s q =
    valueTaken (valueTaken (modQueue s q Queue.sampled) (queueOf s q).ctx q 1 (tailOk (queueOf s q)))
      (queueOf s q).ctx q 2 (cqHeadOk (queueOf s q)) := rfl

theorem takeDoorbell_frame (s : State) (q : Nat) : takeDoorbell s q =
    { s with queues := tmod s.queues q {} Queue.sampled
             log := (takeDoorbell s q).log, irq := (takeDoorbell s q).irq } := by
  rw [takeDoorbell_eq, valueTaken_frame, valueTaken_frame]
  rfl

theorem takeDoorbell_slots (s : State) (q : Nat) : (takeDoorbell s q).slots = s.slots := by
  rw [takeDoorbell_frame]

theorem takeDoorbell_queues (s : State) (q : Nat) : (takeDoorbell s q).queues = tmod s.queues q {} Queue.sampled := by
  rw [takeDoorbell_frame]

theorem takeDoorbell_taken (ht : tailOk (queueOf s q) = true) (hc : cqHeadOk (queueOf s q) = true) :
    takeDoorbell s q = modQueue s q Queue.sampled := by
  rw [takeDoorbell_eq, ht, hc]
  rfl

/-- Records that follow leave the first where it is. -/
theorem Appends.first {p : ErrRec → Prop} (h : Appends s t p) (hu : t.log.recs <+: u.log.recs) : AppendsFirst s u p := by
  intro hf
  obtain ⟨r, hr, hp⟩ := h hf
  obtain ⟨l, hl⟩ := hu
  exact ⟨r, l, by rw [← hl, hr, List.append_assoc]; rfl, hp⟩

/-- A refused tail is reported first. -/
theorem takeDoorbell_tail (ht : tailOk (queueOf s q) = false) : AppendsFirst s (takeDoorbell s q) (fun r =>
    r.code = 0x0011 ∧ r.ctx = some (queueOf s q).ctx ∧ r.info = BitVec.ofNat 32 (packNat [(q, 0), (1, 16)])) := by
  rw [takeDoorbell_eq, ht]
  have h := valueRefused_appends (modQueue s q Queue.sampled) (queueOf s q).ctx q 1
  exact (h.of_eq (modQueue_log s q _)).first (valueTaken_later _ _ _ _ _).recs

theorem takeDoorbell_cqHead (ht : tailOk (queueOf s q) = true) (hc : cqHeadOk (queueOf s q) = false) :
    Appends s (takeDoorbell s q) (fun r => r.code = 0x0011 ∧ r.ctx = some (queueOf s q).ctx ∧
      r.info = BitVec.ofNat 32 (packNat [(q, 0), (2, 16)])) := by
  rw [takeDoorbell_eq, ht, hc, valueTaken_true]
  exact (valueRefused_appends _ _ _ _).of_eq (modQueue_log s q _)

theorem takeDoorbell_raises (h : (tailOk (queueOf s q) && cqHeadOk (queueOf s q)) = false) :
    (takeDoorbell s q).irq.cause.getLsbD Cause.dbDrop.bit = true := by
  rw [takeDoorbell_eq]
  cases hc : cqHeadOk (queueOf s q) with
  | false => exact valueRefused_raises _ _ _ _
  | true =>
    have ht : tailOk (queueOf s q) = false := by simpa [hc] using h
    rw [ht, valueTaken_true]
    exact valueRefused_raises _ _ _ _

/-- A slot takes its queue's latest doorbell and becomes ACTIVE. -/
def sampleSlot (s : State) (i q : Nat) : State :=
  modSlot (takeDoorbell s q) i (fun x => { x with st := .active, served := false })

theorem sampleSlot_samples (s : State) (i q : Nat) : Samples s (sampleSlot s i q) i q := by
  have hslot : SlotOnly s (sampleSlot s i q) i { slotOf s i with st := .active, served := false } :=
    ((SlotOnly.refl s i).of_eq (takeDoorbell_slots s q)).modSlot _
  have hqueues : (sampleSlot s i q).queues = tmod s.queues q {} Queue.sampled := takeDoorbell_queues s q
  have hqueue : queueOf (sampleSlot s i q) q = (queueOf s q).sampled := by
    unfold queueOf
    rw [hqueues, tget_tmod_same]
  have hothers : ∀ r, r ≠ q → queueOf (sampleSlot s i q) r = queueOf s r := fun r hr => by
    unfold queueOf
    rw [hqueues, tget_tmod_other _ _ _ _ _ _ hr]
  refine ⟨?frame, hslot.1, hslot.2, hqueue, hothers, fun ht hc => ?taken, takeDoorbell_tail, takeDoorbell_cqHead,
    takeDoorbell_raises⟩
  case frame =>
    unfold sampleSlot
    rw [takeDoorbell_frame]
    rfl
  case taken =>
    unfold sampleSlot
    rw [takeDoorbell_taken ht hc]
    exact ⟨rfl, rfl⟩

theorem slotSampleOp_takes (hq : (slotOf s i).queue = some q) (hi : (slotOf s i).st = .idle)
    (hl : (queueOf s q).latch = true) (hr : slotRuns s q = true) : slotSampleOp s i = sampleSlot s i q := by
  unfold slotSampleOp
  rw [hq]
  exact if_pos (by simp [hi, hl, hr])

theorem slotSampleOp_quiet (hq : (slotOf s i).queue = some q) (hl : (queueOf s q).latch = false) :
    slotSampleOp s i = s := by
  unfold slotSampleOp
  rw [hq]
  exact if_neg (by simp [hl])

/-! ## The end of a drain pass (Table 5-9) -/

theorem drainEndOp_takes (hq : (slotOf s i).queue = some q) (hd : (slotOf s i).st = .draining)
    (hl : (queueOf s q).latch = true) (hr : slotRuns s q = true) : drainEndOp s i = sampleSlot s i q := by
  unfold drainEndOp
  rw [hq]
  exact (if_pos hd).trans (if_pos (by simp [hl, hr]))

theorem drainEndOp_idles (hq : (slotOf s i).queue = some q) (hd : (slotOf s i).st = .draining)
    (h : (queueOf s q).latch = false ∨ slotRuns s q = false) : drainEndOp s i = enterIdle s i := by
  unfold drainEndOp
  rw [hq]
  exact (if_pos hd).trans (if_neg (by rcases h with h | h <;> simp [h]))

/-- A slot enters IDLE with its queue, or with the pinned queue that waits for it. -/
theorem enterIdle_only (s : State) (i : Nat) :
    enterIdle s i = { s with slots := (enterIdle s i).slots, orders := s.orders + 1 } ∧
    SlotOnly s (enterIdle s i) i { slotOf s i with
      queue := if (slotOf s i).next = none then (slotOf s i).queue else (slotOf s i).next, next := none
      st := .idle, idleOrd := s.orders, served := false } := by
  unfold enterIdle
  cases hn : (slotOf s i).next with
  | none =>
    refine ⟨rfl, ?_⟩
    have h := ((SlotOnly.refl s i).of_eq (u := { s with orders := s.orders + 1 }) rfl).modSlot
      (fun x => { x with st := .idle, idleOrd := s.orders, served := false })
    rw [hn] at h
    rw [if_pos rfl]
    exact h
  | some p => exact bindSlot_only s i p

/-! ## Serving a slot (Table 5-9, R134) -/

theorem serveSlot_only (s : State) (i p : Nat) :
    serveSlot s i p = { s with slots := (serveSlot s i p).slots, rr := (serveSlot s i p).rr } ∧
    ∃ b, SlotOnly s (serveSlot s i p) i { slotOf s i with served := b } := by
  unfold serveSlot
  split
  · exact ⟨rfl, true, ((SlotOnly.refl s i).of_eq
      (u := { s with rr := { s.rr with part := p, slot := tput s.rr.slot p i } }) rfl).modSlot _⟩
  · exact ⟨rfl, (slotOf s i).served, .refl s i⟩

theorem slotFetchOp_drains (hq : (slotOf s i).queue = some q) (ha : (slotOf s i).st = .active)
    (hr : slotRuns s q = true) (hm : mayServe s i = true) (hn : nothingToFetch (queueOf s q) = true) :
    slotFetchOp s i = startDrain (serveSlot s i (queuePart s q)) i := by
  have hn' : nothingToFetch (queueOf (serveSlot s i (queuePart s q)) q) = true := by
    rw [(serveSlot_only s i _).1]
    exact hn
  unfold slotFetchOp
  rw [hq]
  exact (if_pos (by simp [ha, hr, hm])).trans (if_pos hn')

/-- A slot that has fetched drains where nothing is left. -/
def drainIfDone (s : State) (i q : Nat) : State := if nothingToFetch (queueOf s q) then startDrain s i else s

theorem drainIfDone_only (s : State) (i q : Nat) :
    drainIfDone s i q = { s with slots := (drainIfDone s i q).slots } ∧
    (slotOf (drainIfDone s i q) i).st = if nothingToFetch (queueOf s q) then .draining else (slotOf s i).st := by
  unfold drainIfDone
  split
  · exact ⟨rfl, congrArg Slot.st (slotOf_modSlot_same _ _ _)⟩
  · exact ⟨rfl, rfl⟩

theorem slotFetchOp_fetches (hq : (slotOf s i).queue = some q) (ha : (slotOf s i).st = .active)
    (hr : slotRuns s q = true) (hm : mayServe s i = true) (hn : nothingToFetch (queueOf s q) = false)
    (hu : (unstarted s q).length < 4) :
    slotFetchOp s i = drainIfDone (fetchEntry (serveSlot s i (queuePart s q)) i q) i q := by
  have hn' : ¬nothingToFetch (queueOf (serveSlot s i (queuePart s q)) q) = true := by
    rw [(serveSlot_only s i _).1]
    exact Bool.not_eq_true _ ▸ hn
  have hu' : ¬4 ≤ (unstarted (serveSlot s i (queuePart s q)) q).length := by
    rw [(serveSlot_only s i _).1]
    exact Nat.not_le.2 hu
  unfold slotFetchOp
  rw [hq]
  exact (if_pos (by simp [ha, hr, hm])).trans ((if_neg hn').trans (if_neg hu'))

/-! ## Reading an entry (R99, R130) -/

/-- Without poison a device-side read of the port buffer changes nothing. -/
theorem pbTake_clean (h : s.pbPoison = []) (off n : Nat) : pbTake s off n = (pbFetch s off n, s) := by
  have hb : pbBad s off n = [] := by simp [pbBad, h]
  unfold pbTake
  rw [hb]

/-- Reads of two port buffers with the same bytes, under the same windows. -/
theorem apTake_of_eq (hs : s.pbPoison = []) (ht : t.pbPoison = []) (hpb : t.pb = s.pb) (hwt : t.wt = s.wt)
    (off n : Nat) : apTake t off n = ((apTake s off n).1, t) := by
  have hfetch : ∀ o m, pbFetch t o m = pbFetch s o m := fun o m => by
    unfold pbFetch
    rw [hs, ht, hpb]
  have hentry : ∀ page, apEntry t page = apEntry s page := fun page => by
    unfold apEntry
    rw [hwt]
  unfold apTake
  simp only [pbTake_clean hs, pbTake_clean ht, hfetch, hentry]
  split
  · split
    · split <;> rfl
    · rfl
  · rfl

theorem apTake_clean (h : s.pbPoison = []) (off n : Nat) : (apTake s off n).2 = s :=
  congrArg Prod.snd (apTake_of_eq h h rfl rfl off n)

/-- First aperture byte of the queue's next entry. -/
def Queue.entryAt (x : Queue) : Nat := x.sqOff * 64 + 64 * (x.head.toNat % 2 ^ x.sqLog)

/-- The queue once an entry is fetched: one entry on, one completion place taken. -/
def Queue.advanced (x : Queue) : Queue := { x with head := x.head + 1, resv := x.resv + 1 }

/-- The command a fetched descriptor makes. -/
def fetchedCmd (s : State) (i q : Nat) (d : BitVec 512) : Cmd :=
  { queue := q, ctx := (queueOf s q).ctx, desc := d, ord := s.orders, s := now35 s, slot := i, normAt := now35 s
    sig := dSigEn d && fenceSig s (queueOf s q).ctx (dSigFence d) }

/-- The state with the command of a fetched descriptor, not yet resolved. -/
def entryFetched (s : State) (i q : Nat) (d : BitVec 512) : State :=
  { s with orders := s.orders + 1, queues := tmod s.queues q {} Queue.advanced
           cmds := tput s.cmds s.orders (fetchedCmd s i q d) }

/-- The descriptor in the queue's next entry. -/
def nextDesc (s : State) (q : Nat) : BitVec 512 :=
  BitVec.ofNat 512 (leNat (apTake s (queueOf s q).entryAt 64).1)

/-- The descriptor depends on the queue, the windows and the port buffer. -/
theorem nextDesc_of_eq (hs : s.pbPoison = []) (ht : t.pbPoison = []) (hpb : t.pb = s.pb) (hwt : t.wt = s.wt)
    (hq : t.queues = s.queues) : nextDesc t q = nextDesc s q := by
  unfold nextDesc queueOf
  rw [apTake_of_eq hs ht hpb hwt, hq]

theorem fetchEntry_inside (hp : s.pbPoison = [])
    (hin : apRangeIn s (queueOf s q).entryAt 64 1 (queueOf s q).ctx = true) :
    fetchEntry s i q = if (ctxOf s (queueOf s q).ctx).st = .active then
        resolveCmd (entryFetched s i q (nextDesc s q)) s.orders (nextDesc s q) (queueOf s q).ctx s.orders
      else cmdDone (entryFetched s i q (nextDesc s q)) s.orders .contextLost (ctxOf s (queueOf s q).ctx).errIdx := by
  have htake := apTake_of_eq hp (t := modQueue { s with orders := s.orders + 1 } q
    (fun x => { x with head := x.head + 1, resv := x.resv + 1 })) hp rfl rfl
    ((queueOf s q).sqOff * 64 + 64 * ((queueOf s q).head.toNat % 2 ^ (queueOf s q).sqLog)) 64
  unfold fetchEntry
  dsimp only
  refine (if_pos hin).trans ?_
  rw [htake]
  rfl

theorem fetchEntry_outside (hin : apRangeIn s (queueOf s q).entryAt 64 1 (queueOf s q).ctx = false) :
    fetchEntry s i q = cmdRefuse (entryFetched s i q 0) s.orders 3 0 .formatFault := by
  unfold fetchEntry
  dsimp only
  exact (if_neg (Bool.not_eq_true _ ▸ hin)).trans rfl

/-- Fences a descriptor names. -/
def descFences (d : BitVec 512) : List Nat :=
  (if dWaitEn d then [dWaitFence d] else []) ++ (if dSigEn d then [dSigFence d] else [])

/-- A legal NOP whose context holds its fences takes its references on them. -/
theorem resolveCmd_nop {d : BitVec 512} {id ctx ord : Nat} (hd : descOk s ctx d = true) (ho : dOp d = 0)
    (hw : dWaitEn d = true → fenceWait s ctx (dWaitFence d) = true)
    (hs : dSigEn d = true → fenceSig s ctx (dSigFence d) = true) :
    resolveCmd s id d ctx ord =
      modCmd ((descFences d).foldl fenceRef s) id (fun c => { c with fences := descFences d }) := by
  have hw' : (dWaitEn d && !fenceWait s ctx (dWaitFence d)) = false := by
    cases h : dWaitEn d <;> simp [hw, h]
  have hs' : (dSigEn d && !fenceSig s ctx (dSigFence d)) = false := by
    cases h : dSigEn d <;> simp [hs, h]
  unfold resolveCmd
  rw [if_neg (by simp [hd]), if_neg (by simp [hw']), if_neg (by simp [hs'])]
  dsimp only
  rw [if_neg (by omega), if_pos ho]
  rfl

theorem foldl_fenceRef_frame (l : List Nat) (s : State) :
    l.foldl fenceRef s = { s with fences := (l.foldl fenceRef s).fences } := by
  induction l generalizing s with
  | nil => rfl
  | cons f l ih =>
    rw [List.foldl_cons, ih]
    rfl

/-- The state with a legal NOP fetched and resolved, where `fs` are the fences with its references. -/
def nopFetched (s : State) (i q : Nat) (d : BitVec 512) (fs : Tab Fence) : State :=
  { entryFetched s i q d with
    fences := fs
    cmds := tupd (tput s.cmds s.orders (fetchedCmd s i q d)) s.orders (fun c => { c with fences := descFences d }) }

theorem fetchEntry_nop (hp : s.pbPoison = [])
    (hin : apRangeIn s (queueOf s q).entryAt 64 1 (queueOf s q).ctx = true)
    (ha : (ctxOf s (queueOf s q).ctx).st = .active)
    (hd : descOk s (queueOf s q).ctx (nextDesc s q) = true) (ho : dOp (nextDesc s q) = 0)
    (hw : dWaitEn (nextDesc s q) = true → fenceWait s (queueOf s q).ctx (dWaitFence (nextDesc s q)) = true)
    (hs : dSigEn (nextDesc s q) = true → fenceSig s (queueOf s q).ctx (dSigFence (nextDesc s q)) = true) :
    ∃ fs, fetchEntry s i q = nopFetched s i q (nextDesc s q) fs := by
  have hnop := resolveCmd_nop (s := entryFetched s i q (nextDesc s q)) (id := s.orders) (ord := s.orders) hd ho hw hs
  rw [fetchEntry_inside hp hin, if_pos ha, hnop, foldl_fenceRef_frame]
  exact ⟨_, rfl⟩

/-- Its command is the one with that descriptor, and no other command changes. -/
theorem nopFetched_cmds {d : BitVec 512} {fs : Tab Fence}
    (hs : dSigEn d = true → fenceSig s (queueOf s q).ctx (dSigFence d) = true) :
    tfind (nopFetched s i q d fs).cmds s.orders = some
      { queue := q, ctx := (queueOf s q).ctx, desc := d, ord := s.orders, s := now35 s, slot := i
        normAt := now35 s, sig := dSigEn d, fences := descFences d } ∧
    ∀ j, j ≠ s.orders → tfind (nopFetched s i q d fs).cmds j = tfind s.cmds j := by
  have hsig : (dSigEn d && fenceSig s (queueOf s q).ctx (dSigFence d)) = dSigEn d := by
    cases h : dSigEn d <;> simp [hs, h]
  refine ⟨?_, fun j hj => ?_⟩
  · rw [nopFetched, tfind_tupd_same, tfind_tput_same, fetchedCmd, hsig]
    rfl
  · rw [nopFetched, tfind_tupd_other _ _ _ _ hj, tfind_tput_other _ _ _ _ hj]

/-- Its queue is one entry on, and no other queue changes. -/
theorem nopFetched_queues {d : BitVec 512} {fs : Tab Fence} :
    queueOf (nopFetched s i q d fs) q = (queueOf s q).advanced ∧
    ∀ r, r ≠ q → queueOf (nopFetched s i q d fs) r = queueOf s r :=
  ⟨tget_tmod_same s.queues q {} Queue.advanced, fun r hr => tget_tmod_other s.queues q r {} {} Queue.advanced hr⟩

/-! ## What the end of a refused command leaves of its queue -/

/-- From `s` to `t` no order is given, and of queue `q`, where it is LIVE, only the counts of records and of reserved
places change. -/
structure QueueCounts (q : Nat) (s t : State) : Prop where
  orders : t.orders = s.orders
  queue : (queueOf s q).st = .live → ∃ n k, queueOf t q = { queueOf s q with recs := n, resv := k }

theorem QueueCounts.refl (q : Nat) (s : State) : QueueCounts q s s := ⟨rfl, fun _ => ⟨_, _, rfl⟩⟩

theorem QueueCounts.trans (h : QueueCounts q s t) (g : QueueCounts q t u) : QueueCounts q s u := by
  refine ⟨g.orders.trans h.orders, fun hl => ?_⟩
  obtain ⟨n, k, ht⟩ := h.queue hl
  obtain ⟨m, j, hu⟩ := g.queue (by rw [ht]; exact hl)
  exact ⟨m, j, by rw [hu, ht]⟩

theorem QueueCounts.keep (h : QueueCounts q u s) (ho : t.orders = s.orders := by rfl)
    (hq : t.queues = s.queues := by rfl) : QueueCounts q u t := by
  refine h.trans ⟨ho, fun _ => ⟨(queueOf s q).recs, (queueOf s q).resv, ?_⟩⟩
  unfold queueOf
  rw [hq]

theorem QueueCounts.ite {c : Prop} [Decidable c] (hs : QueueCounts q u s) (ht : QueueCounts q u t) :
    QueueCounts q u (if c then s else t) := by
  split
  · exact hs
  · exact ht

theorem QueueCounts.foldl {α : Type} {f : State → α → State} {l : List α} (h : QueueCounts q u s)
    (hf : ∀ {v x}, QueueCounts q u v → QueueCounts q u (f v x)) : QueueCounts q u (l.foldl f s) := by
  induction l generalizing s with
  | nil => exact h
  | cons x l ih => exact ih (hf h)

theorem QueueCounts.modQueue {r : Nat} {f : Queue → Queue} (h : QueueCounts q u s)
    (hf : ∀ x, ∃ n k, f x = { x with recs := n, resv := k }) : QueueCounts q u (modQueue s r f) := by
  refine h.trans ⟨rfl, fun _ => ?_⟩
  by_cases hr : q = r
  · subst hr
    rw [queueOf_modQueue_same]
    exact hf _
  · rw [queueOf_modQueue_other _ _ _ _ hr]
    exact ⟨_, _, rfl⟩

theorem QueueCounts.errWrite {r} (h : QueueCounts q u s) : QueueCounts q u (errWrite s r) := by
  rw [errWrite_frame]
  exact .keep h

theorem QueueCounts.dmWrite {pol a d} (h : QueueCounts q u s) : QueueCounts q u (dmWrite s pol a d) := by
  unfold Machine.dmWrite
  rw [dmWriteOpt_frame]
  exact .keep h

theorem QueueCounts.pbStore {off d} (h : QueueCounts q u s) : QueueCounts q u (pbStore s off d) := .keep h

theorem QueueCounts.recInRing {r x e} (h : QueueCounts q u s) : QueueCounts q u (recInRing s r x e) := by
  unfold Machine.recInRing
  extract_lets s1 s2 s3
  have h1 : QueueCounts q u s1 := .pbStore h
  clear_value s1
  have h2 : QueueCounts q u s2 := .modQueue h1 fun x => ⟨_, _, rfl⟩
  have h3 : QueueCounts q u s3 := by
    unfold s3
    split
    · exact .keep h2
    · exact h2
  exact .ite (.keep h3) h3

theorem QueueCounts.recOrphaned {r x} (h : QueueCounts q u s) : QueueCounts q u (recOrphaned s r x) := by
  unfold Machine.recOrphaned
  extract_lets +onlyGivenNames _ _ _ _ s1 _ s2 s3 s4
  have h1 : QueueCounts q u s1 := .keep h
  have h2 : QueueCounts q u s2 := by
    unfold s2
    split
    · exact .errWrite h1
    · exact .dmWrite h1
  have h3 : QueueCounts q u s3 := .modQueue h2 fun x => ⟨x.recs, _, rfl⟩
  have h4 : QueueCounts q u s4 := by
    unfold s4
    split
    · exact .keep h3
    · exact h3
  exact .keep h4

theorem QueueCounts.writeRec {r} (h : QueueCounts q u s) : QueueCounts q u (writeRec s r) := by
  unfold Machine.writeRec
  refine .ite h ?_
  split
  · exact .recInRing h
  · exact .recOrphaned h

/-- A queue that settles was being destroyed, so the LIVE one stays. -/
theorem QueueCounts.queueSettle {r} (h : QueueCounts q u s) : QueueCounts q u (queueSettle s r) := by
  by_cases hr : q = r
  · subst hr
    refine h.trans ⟨by unfold Machine.queueSettle; split <;> rfl, fun hl => ?_⟩
    rw [queueSettle_live hl]
    exact ⟨_, _, rfl⟩
  · unfold Machine.queueSettle
    refine .ite (h.trans ⟨rfl, fun _ => ⟨(queueOf s q).recs, (queueOf s q).resv, ?_⟩⟩) h
    unfold queueOf tget
    rw [tfind_tdel, if_neg hr]

theorem QueueCounts.releaseCmd {c} (h : QueueCounts q u s) : QueueCounts q u (releaseCmd s c) := by
  rw [releaseCmd_frame]
  exact .keep h

theorem QueueCounts.cmdEnd {id st errIdx} (h : QueueCounts q u s) : QueueCounts q u (cmdEnd s id st errIdx) := by
  unfold Machine.cmdEnd
  split
  · exact h
  · exact .queueSettle (.releaseCmd (.writeRec (.keep h)))

theorem QueueCounts.cmdDone {id st errIdx} (h : QueueCounts q u s) : QueueCounts q u (cmdDone s id st errIdx) := by
  unfold Machine.cmdDone
  split
  · exact h
  · refine .cmdEnd ?_
    rw [monMiss_frame]
    exact .keep h

theorem QueueCounts.cmdRefuse {id check detail st} (h : QueueCounts q u s) :
    QueueCounts q u (cmdRefuse s id check detail st) := by
  unfold Machine.cmdRefuse
  split
  · exact h
  · refine .cmdDone ?_
    unfold submitFault
    rw [event_eq_log]
    exact .keep h

theorem QueueCounts.fenceRefs {l : List Nat} (h : QueueCounts q u s) : QueueCounts q u (l.foldl fenceRef s) :=
  .foldl h fun h => .keep h

theorem QueueCounts.objRefs {l : List Nat} (h : QueueCounts q u s) : QueueCounts q u (l.foldl objRef s) :=
  .foldl h fun h => .keep h

theorem QueueCounts.modCmd {id f} (h : QueueCounts q u s) : QueueCounts q u (modCmd s id f) := .keep h

theorem QueueCounts.resolveGraphCmd {id} (h : QueueCounts q u s) (hp : s.pbPoison = []) :
    QueueCounts q u (resolveGraphCmd s id) := by
  unfold Machine.resolveGraphCmd
  split
  · exact h
  · dsimp only
    split
    · exact .cmdRefuse (.modCmd h)
    · have hg {r : Nat} := h.modCmd (id := id) (f := fun c => { c with unresolved := false })
        |>.modCmd (id := id) (f := fun c => { c with graph := some r })
      refine .ite (.ite ?_ (.cmdRefuse hg)) hg
      rw [apTake_clean (by exact hp)]
      refine .ite ?_ hg
      split
      · exact .cmdRefuse hg
      · exact .modCmd (.fenceRefs (.objRefs hg))

theorem QueueCounts.resolveCmd {id d ctx ord} (h : QueueCounts q u s) (hp : s.pbPoison = []) :
    QueueCounts q u (resolveCmd s id d ctx ord) := by
  unfold Machine.resolveCmd
  refine .ite (.cmdRefuse h) (.ite (.cmdRefuse h) (.ite (.cmdRefuse h) ?_))
  extract_lets fs s1
  have h1 : QueueCounts q u s1 := .keep (.fenceRefs (l := fs) h)
  have hp1 : s1.pbPoison = [] := by
    unfold s1
    rw [foldl_fenceRef_frame]
    exact hp
  refine .ite ?_ (.ite h1 (.ite (.keep h1) (.resolveGraphCmd h1 hp1)))
  split
  · exact .cmdRefuse h1
  · exact .ite (.cmdRefuse h1) (.keep h1)

theorem fetchEntry_counts (s : State) (i q : Nat) (hp : s.pbPoison = []) :
    ∃ d, QueueCounts q (entryFetched s i q d) (fetchEntry s i q) := by
  cases hin : apRangeIn s (queueOf s q).entryAt 64 1 (queueOf s q).ctx with
  | true =>
    rw [fetchEntry_inside hp hin]
    exact ⟨_, .ite (.resolveCmd (.refl _ _) hp) (.cmdDone (.refl _ _))⟩
  | false =>
    rw [fetchEntry_outside hin]
    exact ⟨_, .cmdRefuse (.refl _ _)⟩

/-! ## SLOT_FETCH together (R99, R133) -/

theorem queueOf_entryFetched (s : State) (i q : Nat) (d : BitVec 512) :
    queueOf (entryFetched s i q d) q = (queueOf s q).advanced := tget_tmod_same _ _ _ _

/-- Settles O19: a slot's operation, where its conditions hold, is one of a bind, a sample, a pass or a fetch, and each
changes its own slot; a fetch ends with the queue one entry on, whatever its descriptor comes to. -/
theorem slotBinding : Obligations.SlotBinding := by
  unfold Obligations.SlotBinding
  refine ⟨?binds, ?waits, ?samples, ?quiet, ?resamples, ?idles, ?drains, ?fetchesNop, ?fetches⟩
  case binds =>
    intro s q i hrun hd hw hi
    obtain ⟨hframe, hslot⟩ := bindSlot_only s i q
    exact ⟨_, onLive_next hrun (queueBindOp_takes hd hw hi), hframe, hslot⟩
  case waits =>
    intro s q h
    have hop : exec (.queueBind q) s = onLive s (queueBindOp s q) := rfl
    rw [hop, queueBindOp_waits h, onLive, ite_self]
  case samples =>
    intro s i q hrun hq hi hl hr
    exact ⟨_, onLive_next hrun (slotSampleOp_takes hq hi hl hr), sampleSlot_samples s i q⟩
  case quiet =>
    intro s i q hq hl
    have hop : exec (.slotSample i) s = onLive s (slotSampleOp s i) := rfl
    rw [hop, slotSampleOp_quiet hq hl, onLive, ite_self]
  case resamples =>
    intro s i q hrun hq hd hl hr
    exact ⟨_, onLive_next hrun (drainEndOp_takes hq hd hl hr), sampleSlot_samples s i q⟩
  case idles =>
    intro s i q hrun hq hd h
    obtain ⟨hframe, hslot⟩ := enterIdle_only s i
    rw [hq] at hslot
    exact ⟨_, onLive_next hrun (drainEndOp_idles hq hd h), hframe, hslot⟩
  case drains =>
    intro s i q hrun hq ha hr hm hn
    obtain ⟨hframe, b, hslot⟩ := serveSlot_only s i (queuePart s q)
    obtain ⟨hsame, hothers⟩ := hslot.modSlot (fun x => { x with st := .draining, served := false })
    refine ⟨_, onLive_next hrun (slotFetchOp_drains hq ha hr hm hn), ?_, hsame, hothers⟩
    unfold startDrain
    rw [hframe]
    rfl
  case fetchesNop =>
    intro s i q d hrun hq ha hr hm hn hu hin hp hact hd hok hop hw hs
    have hfetch := slotFetchOp_fetches hq ha hr hm hn hu
    obtain ⟨hframe, b, hslot, -⟩ := serveSlot_only s i (queuePart s q)
    generalize serveSlot s i (queuePart s q) = u at hfetch hframe hslot
    obtain ⟨slots, rr, rfl⟩ : ∃ slots rr, u = { s with slots := slots, rr := rr } := ⟨_, _, hframe⟩
    have hdesc : nextDesc { s with slots := slots, rr := rr } q = d :=
      (nextDesc_of_eq (t := { s with slots := slots, rr := rr }) hp hp rfl rfl rfl).trans hd.symm
    obtain ⟨fs, hv⟩ := fetchEntry_nop (s := { s with slots := slots, rr := rr }) (i := i) (q := q) hp hin hact
      (hdesc ▸ hok) (hdesc ▸ hop) (hdesc ▸ hw) (hdesc ▸ hs)
    have hcmds := nopFetched_cmds (s := { s with slots := slots, rr := rr }) (i := i) (q := q) (fs := fs) hs
    have hqueues := nopFetched_queues (s := { s with slots := slots, rr := rr }) (i := i) (q := q) (d := d) (fs := fs)
    rw [hv, hdesc] at hfetch
    obtain ⟨ht, hst⟩ := drainIfDone_only (nopFetched { s with slots := slots, rr := rr } i q d fs) i q
    refine ⟨_, onLive_next hrun hfetch, ?frame, ?queue, ?queues, ?cmd, ?cmds, ?slot⟩
    case frame =>
      rw [ht]
      rfl
    case queue =>
      rw [ht]
      exact hqueues.1
    case queues =>
      rw [ht]
      exact hqueues.2
    case cmd =>
      rw [ht]
      exact hcmds.1
    case cmds =>
      rw [ht]
      exact hcmds.2
    case slot =>
      refine hst.trans ?_
      rw [ht]
      exact congrArg (ite _ _) ((congrArg Slot.st hslot).trans ha)
  case fetches =>
    intro s i q hrun hq ha hr hm hn hu hl hp
    have hfetch := slotFetchOp_fetches hq ha hr hm hn hu
    have hframe := (serveSlot_only s i (queuePart s q)).1
    generalize serveSlot s i (queuePart s q) = u at hfetch hframe
    obtain ⟨slots, rr, rfl⟩ : ∃ slots rr, u = { s with slots := slots, rr := rr } := ⟨_, _, hframe⟩
    obtain ⟨d, horders, hqueue⟩ := fetchEntry_counts { s with slots := slots, rr := rr } i q hp
    generalize fetchEntry { s with slots := slots, rr := rr } i q = v at hfetch horders hqueue
    rw [queueOf_entryFetched] at hqueue
    obtain ⟨n, k, hv⟩ := hqueue hl
    have ht := (drainIfDone_only v i q).1
    have htq : queueOf (drainIfDone v i q) q = { (queueOf s q).advanced with recs := n, resv := k } := by
      rw [ht]
      exact hv
    refine ⟨_, onLive_next hrun hfetch, ?_, ?_, ?_⟩
    · rw [htq]
      rfl
    · rw [htq]
      rfl
    · rw [ht]
      exact horders ▸ Nat.lt_succ_self _

end Sys2Proof.Machine
end

section
/-! # A command table with a key twice (R137, R440) -/

namespace Sys2Proof.Machine

set_option Elab.async false

/-- A NOP that waits at most 1 unit for fence 0 to reach 1. -/
def impatient : Cmd := { queue := 5, ctx := 1, desc := BitVec.ofNat 512 (2 ^ 48 + 2 ^ 99 + 2 ^ 128), ord := 0, s := 0 }

/-- A resolved command of another queue. -/
def shadowing : Cmd := { queue := 6, ctx := 1, desc := 0, ord := 1, s := 0 }

/-- A ring of 16 places for queue 5. -/
def ringWindow : WtEntry := { valid := true, ap := 256, pb := 256, npages := 1, cls := 3, ctx := 1 }

/-- A running device whose command table lists key 1 twice: `tfind` sees the resolved entry, `tkeys` the one held
behind it too. -/
def twiceKeyed : State :=
  { State.reset with
    boot := { stage := .ready }, pwr := { dev := .active }, wt := { table := [(0, ringWindow)] }
    queues := [(5, { st := .live, ctx := 1, cqOff := 32768, cqLog := 4 })]
    cmds := [(0, impatient), (1, shadowing), (1, { shadowing with unresolved := true })] }

/-- No entry that `tfind` sees there is held behind a registration. -/
theorem twiceKeyed_stillHeld : StillHeld twiceKeyed 0 := by
  intro j x hx hu
  have hc : x = impatient ∨ x = shadowing := by
    simp only [twiceKeyed, tfind] at hx
    split at hx
    · exact .inl (Option.some.inj hx).symm
    · split at hx
      · exact .inr (Option.some.inj hx).symm
      · cases hx
  rcases hc with rfl | rfl <;> cases hu

/-- The held entry's key is resolved once command 0 has timed out, and the entry `tfind` sees pays for it: it names no
graph, and is refused. -/
theorem twiceKeyed_refuses_other : (tfind (waitTimeoutOp twiceKeyed 0).cmds 1).isSome = false := by decide +kernel

theorem twiceKeyed_times_out : twiceKeyed.runs = true ∧ Memory.wf twiceKeyed.pb = true ∧
    inTurn twiceKeyed 0 impatient = true ∧ dWaitEn impatient.desc = true ∧ dWaitTo impatient.desc ≠ 0 ∧
    fenceMet twiceKeyed (dWaitFence impatient.desc) (dWaitVal impatient.desc) = false ∧
    (queueOf twiceKeyed 5).st = .live ∧ placeEntry twiceKeyed (queueOf twiceKeyed 5) = some ringWindow := by
  decide +kernel

/-- Refutes O20: its clauses do not ask for a command table in canonical form, and `StillHeld` speaks of what `tfind`
sees alone. Where a key stands twice, with an entry held behind a registration after one that is not, the end of
command 0 by WAIT_TIMEOUT lets `resolveHeld` act on the first of them, which ends too. -/
theorem not_commandStartAndEnd : ¬ Obligations.CommandStartAndEnd := by
  unfold Obligations.CommandStartAndEnd
  rintro ⟨-, -, -, -, timeout, -⟩
  obtain ⟨hrun, hpb, hturn, hen, hto, hunmet, hlive, hplace⟩ := twiceKeyed_times_out
  obtain ⟨t, ht, -, hkept, -⟩ :=
    timeout twiceKeyed 0 impatient ringWindow hrun hpb twiceKeyed_stillHeld rfl hturn hen hto hunmet hlive hplace
  have hop : t = waitTimeoutOp twiceKeyed 0 := (Host.Outcome.next.inj ((onLive_runs hrun _).symm.trans ht)).symm
  have hsome : tfind t.cmds 1 = some shadowing := hkept 1 (by decide)
  rw [hop] at hsome
  have hnone := twiceKeyed_refuses_other
  rw [hsome] at hnone
  cases hnone

end Sys2Proof.Machine
end

section
/-! # A queue table with a key twice (R124, Table 6-13) -/

namespace Sys2Proof.Machine

set_option Elab.async false

/-- A running device whose queue table lists key 5 twice: `queueOf` sees the queue of context 2, `ctxQueues` the one
of context 1 behind it too. -/
def twiceQueued : State :=
  { State.reset with
    boot := { stage := .ready }, pwr := { dev := .active }, ctxs := [(1, { st := .active })]
    queues := [(5, { st := .live, ctx := 2 }), (5, { st := .live, ctx := 1 })] }

theorem twiceQueued_ready : MgmtReady twiceQueued ∧ twiceQueued.ctxCmd.busy = false ∧
    (ctxOf twiceQueued 1).st = .active ∧ (queueOf twiceQueued 5).ctx ≠ 1 ∧ (queueOf twiceQueued 5).stopped = false :=
  ⟨⟨rfl, rfl, by decide, rfl⟩, rfl, rfl, by decide, rfl⟩

/-- The teardown of context 1 stops the queue that `queueOf` sees at the key the two share. -/
theorem twiceQueued_stops_other : (queueOf (ctxCmdWrite twiceQueued (ctxWord 0 0 1 2 0)) 5).stopped = true := by
  decide +kernel

/-- Refutes O21: its clauses do not ask for a queue table in canonical form. Where a key stands twice, with a queue of
the context torn down behind one of another context, CTX_TEARDOWN stops the queue of the other context. -/
theorem not_contextLife : ¬ Obligations.ContextLife := by
  unfold Obligations.ContextLife
  rintro ⟨-, -, teardown, -⟩
  obtain ⟨hready, hidle, hactive, hother, hruns⟩ := twiceQueued_ready
  obtain ⟨t, ht, -, -, -, -, hkept⟩ := teardown twiceQueued 0 1 hready hidle (by decide) (.inl hactive)
  have hop : t = ctxCmdWrite twiceQueued (ctxWord 0 0 1 2 0) :=
    (Host.Outcome.next.inj ((onLive_runs hready.runs _).symm.trans ht)).symm
  have hstop := twiceQueued_stops_other
  rw [← hop, hkept 5 (.inl hother), hruns] at hstop
  cases hstop

end Sys2Proof.Machine
end

section
/-! # CTX_BATCH, and the zeroing of objects (R107, R109, R112, R118) -/

namespace Sys2Proof.Machine

set_option Elab.async false

variable {s : State}

/-! ## Commands the firmware takes at once (R107) -/

/-- A command register that is not busy acts at once while the management firmware takes commands. -/
theorem mgmtCmd_takes (h : MgmtReady s) {off view : Nat} {raw : W64} {st : CmdStat} (hb : st.busy = false)
    (set : State → CmdStat → State) (run : State → State) : mgmtCmd s off view raw st set run = run s := by
  have hwake : mgmtWake s = s := if_neg h.awake
  simp [mgmtCmd, hb, h.boot, hwake, h.up]

/-- Without a poisoned word under it a block is read as it stands. -/
theorem pbTake_sound {off n : Nat} (h : pbBad s off n = []) : pbTake s off n = (pbFetch s off n, s) := by
  unfold pbTake
  rw [h]

/-- CTX_BATCH ends with its count. -/
theorem exec_ctxBatch (h : MgmtReady s) (hb : s.ctxCmd.busy = false) {tag : BitVec 4} {ctx page count : Nat}
    (hctx : ctx < 1024) (hpage : page < 8192) (hcount : count < 256) :
    exec (.ctxBatch tag ctx page count) s = .next { (ctxBatchOp s ctx page count).2.2 with
      ctxCmd := done tag.toNat (ctxBatchOp s ctx page count).1 (ctxBatchOp s ctx page count).2.1 } := by
  obtain ⟨hfpage, hfcount, hfctx, hfop, hftag⟩ := ctxWord_fields page count ctx 3 tag.toNat hpage hcount hctx (by decide) tag.isLt
  have hrun : ctxCmdWrite s (ctxWord page count ctx 3 tag.toNat) = ctxRun s (ctxWord page count ctx 3 tag.toNat) :=
    mgmtCmd_takes h hb _ _
  refine (onLive_runs h.runs _).trans (congrArg _ (hrun.trans ?_))
  simp only [ctxRun, hfpage, hfcount, hfctx, hfop, hftag]
  rfl

/-- A batch the context may not give, or whose entries cannot be read, is refused whole (R108, R109). -/
theorem ctxBatchOp_refused {ctx page count : Nat} (h : (ctxOf s ctx).st ≠ .active ∨ count = 0 ∨ 128 < count ∨
    writePage s page (some ctx) = false) :
    ctxBatchOp s ctx page count = (if (ctxOf s ctx).st = .active then .badBlock else .bad3, 0, s) := by
  unfold ctxBatchOp
  by_cases ha : (ctxOf s ctx).st = .active
  · have hbad : (decide (count = 0) || decide (128 < count) || !writePage s page (some ctx)) = true := by
      rcases h with h | h | h | h
      · exact absurd ha h
      all_goals simp [h]
    simp [ha, hbad]
  · simp [ha]

/-- A batch that can be read runs entry by entry. -/
theorem ctxBatchOp_runs {s' : State} {ctx page count n : Nat} {ok : Bool} (hpos : 1 ≤ count) (hmax : count ≤ 128)
    (ha : (ctxOf s ctx).st = .active) (hw : writePage s page (some ctx) = true)
    (hb : pbBad s (page * 4096) (32 * count) = [])
    (hrun : batchRun ctx ((List.range count).map fun i =>
      BitVec.ofNat 256 (leNat (((pbFetch s (page * 4096) (32 * count)).drop (32 * i)).take 32))) s 0 = (n, ok, s')) :
    ctxBatchOp s ctx page count = (if ok then .ok else .r5, n, s') := by
  have hok : (decide (count = 0) || decide (128 < count) || !writePage s page (some ctx)) = false := by
    simp [hw]
    omega
  unfold ctxBatchOp
  simp only [ha, bne_self_eq_false, hok, Bool.false_eq_true, if_false, pbTake_sound hb, hrun]
  cases ok <;> rfl

/-! ## Fences of a batch (R118) -/

theorem createFence_free {ctx : Nat} {e : BitVec 256} (h : (fenceOf s (beFence e)).st = .free) : createFence s ctx e =
    some { s with fences := tput s.fences (beFence e) { st := .live, val := beValue e, owner := ctx, ownerHolds := true } } :=
  if_pos h

theorem destroyFence_owner {ctx : Nat} {e : BitVec 256} (hl : (fenceOf s (beFence e)).st = .live)
    (hh : (fenceOf s (beFence e)).ownerHolds = true) (ho : (fenceOf s (beFence e)).owner = ctx)
    (hr : (fenceOf s (beFence e)).remote = none) :
    destroyFence s ctx e = some (modFence s (beFence e) (fun x => Fence.settle x.abandon)) := by
  simp [destroyFence, hl, hh, ho, hr]

/-- A fence that others hold or reference stays ABANDONED (Table 6-10). -/
theorem Fence.settle_abandon {x : Fence} (h : x.importers ≠ [] ∨ x.refs ≠ 0) : Fence.settle x.abandon = x.abandon := by
  unfold Fence.settle
  refine if_neg ?_
  rcases h with h | h <;> simp [Fence.abandon, h]

/-! ## The obligation -/

/-- Settles O22: CTX_BATCH is the run over its entries, which stops at the first that fails, and the entries for
fences and the end of zeroing each change one entry of one table. -/
theorem objectsAndFences : Obligations.ObjectsAndFences := by
  unfold Obligations.ObjectsAndFences
  refine ⟨?runs, ?steps, ?refused, ?creates, ?destroys, ?zeroed⟩
  case runs =>
    intro s s' tag ctx page count n ok hready hidle hctx hpage hpos hmax ha hw hb hrun
    rw [exec_ctxBatch hready hidle hctx hpage (by omega), ctxBatchOp_runs hpos hmax ha hw hb hrun]
    rfl
  case steps =>
    intro ctx e r s n
    refine ⟨rfl, fun s' h => ?_, fun h => ?_⟩
    · rw [batchRun, h]
    · rw [batchRun, h]
  case refused =>
    intro s tag ctx page count r hready hidle hctx hpage hcount h hr
    rw [exec_ctxBatch hready hidle hctx hpage hcount, ctxBatchOp_refused h, hr]
  case creates =>
    intro s ctx e x hop hf hx
    rw [hx]
    unfold batchEntry
    rw [hop]
    exact createFence_free hf
  case destroys =>
    intro s ctx e hop hl hh ho hr
    have hentry : batchEntry s ctx e = some (modFence s (beFence e) (fun x => Fence.settle x.abandon)) := by
      unfold batchEntry
      rw [hop]
      exact destroyFence_owner hl hh ho hr
    refine ⟨_, hentry, rfl, fun f hf => fenceOf_modFence_other _ _ _ _ hf, fun h => ?_⟩
    rw [fenceOf_modFence_same, Fence.settle_abandon h]
    exact ⟨rfl, rfl, rfl, rfl⟩
  case zeroed =>
    intro s i o hrun hi hz
    have hop : objZeroedOp s i = { dmZero s o.base o.len with objs := tdel s.objs i } := by
      unfold objZeroedOp
      rw [hi]
      exact if_pos hz
    refine ⟨_, onLive_next hrun hop, tfind_tdel_same _ _, fun j hj => (tfind_tdel _ _ _).trans (if_neg hj), ?_⟩
    rw [dmZero_frame]

end Sys2Proof.Machine
end

section
/-! # A load that would split when the mask stack is full (R177, R179) -/

namespace Sys2Proof.Machine

set_option Elab.async false

namespace FullStackLoad

/-! ## The witness: half of the lanes hit, and no place is left for the SPLIT entry -/

/-- A splittable load of 4 bytes a lane from s2 and v1 to v5; the other half would rejoin at word 40. -/
def word : IWord :=
  ⟨BitVec.ofNat 64 (0x180 + 2 ^ 10 + 2 ^ 17 + 2 * 2 ^ 28 + 1 * 2 ^ 40 + 2 * 2 ^ 48 + 5 * 2 ^ 56), BitVec.ofNat 64 (40 * 2 ^ 32)⟩

/-- The split that issues, at word 8 with all its lanes. -/
def split : Split := { st := .ready, pc := 8, mask := 0xFFFFFFFF }

/-- Its group: lanes 16 to 31 address another line than the others, and all 16 stack places are in use. -/
def group : Group :=
  { wg := 4, gidx := 0, splits := [(0, split)], sreg := [(2, 65536)]
    vreg := (List.range 16).map (fun l => (32 + 16 + l, 4096))
    stack := (List.range' 1 16).map (fun p => (p, { isSplit := false, owner := 0, rpc := 100, alt := 100, mask := 0, below := 0 })) }

/-- Its workgroup, of context 1. -/
def wg : Wg :=
  { inst := 8, node := 0, idx := 0, ctx := 1, part := 0, core := 0, cluster := 0, csize := 1, rank := 0, groups := 1
    entry := 64, codeLen := 4096, start := 8, vregs := 64, nAcc := 2, lullCtrs := 2, ctrBase := 0, lsKib := 16, lsBase := 0
    stageKib := 0, commitForm := false, nosplit := false, ord := 0, kills := 0, st := .placed, exited := 0, bar := {}
    cbar := {}, commits := 0, writing := false, committed := false, staged := 0, paramBase := 0, argOff := 0, ras := none
    hubN := 0, hubAt := 0, savedCtrs := [], savedLs := [], savedWatches := [], codeBase := 0, codeObj := 0x10000 }

/-- Its context may read the first MiB. -/
def ctx : Ctx :=
  { st := .active, gen := 1
    segs := [{ valid := true, base := 0, limit := 1048576, policy := 2, arena := false, ex := true, wr := true, rd := true }] }

/-- The code: the word's two halves at word 8. -/
def code : List Host.Cell := mwrites [] 64 (natBytes word.w0.toNat 8 ++ natBytes word.w1.toNat 8)

/-- The state: the code's line is in the core's L1, and so is the line of lanes 0 to 15. -/
def state : State :=
  { State.reset with
    pins := { int3Hold := false, xspiDriven := false }
    ctxs := [(1, ctx)], wgs := [(4, wg)], groups := [(0, group)], mem := { dram := code }
    cores := [(0, { l1i := [(0, { tag := 0, data := mreads code 0 128 })]
                    l1 := [(0, { tag := 1, data := List.replicate 128 7 })] })] }

/-- The place of the split. -/
def place : SplitRef := ⟨0, 0, 0, 0⟩

/-- Its issue. -/
def iss : Iss := { sp := place, key := 0, g := group, x := split, id := 4, w := wg, iw := word }

/-- What the load's action starts from. -/
def start : State := issueState state iss true

theorem issues : Issues state place word .l iss where
  runs    := by decide +kernel
  found   := rfl
  ready   := rfl
  placed  := rfl
  apart   := by decide +kernel
  pref    := .inl (by decide +kernel)
  inObj   := by decide +kernel
  fetched := by decide +kernel
  sound   := by decide +kernel
  listed  := by decide +kernel
  word    := by decide +kernel
  rounds  := by decide +kernel
  traced  := by decide +kernel

/-- The word is a legal load, and nothing holds it back. -/
theorem legal : wOp word = 0x180 ∧ mBytes word = 4 ∧ addrOk iss = true ∧ runOk iss false (wD word) (mRegs 4) = true ∧
    mSplit word = true ∧ wL word = true ∧ pcInside iss.w (w1Bits word 119 96) = true ∧ mustWait state iss = false ∧
    depends state iss (guardRead word ++ addrRegs iss (laneList iss.lanes) ++ loadDst .vector word (laneList iss.lanes)) = false := by
  decide +kernel

/-- Its accesses are permitted, and the misses find places. -/
theorem permitted : laneList iss.lanes ≠ [] ∧ refusedLane start (issueIss state iss) (laneList iss.lanes) 4 [.rd] = none ∧
    missRoom start place.core (missLines start (issueIss state iss) (laneList iss.lanes) 4) = true ∧
    (laneList iss.lanes).findSome? (fun l => loadFault start place.core (polAt start iss.w.ctx
      (laneAddr (issueIss state iss) l).toNat) (laneAddr (issueIss state iss) l).toNat 4) = none := by
  decide +kernel

/-- It would divide. -/
theorem divides : loadSplits start (issueIss state iss) (laneList iss.lanes) 4 = some (List.range 16, List.range' 16 16) := by
  decide +kernel

/-- The state the load leaves. -/
def outcome : Option State :=
  match exec (.load place .vector word) state with
  | .next t => some t
  | _ => none

/-- There is no place for the SPLIT entry, so the load ends as an invalid encoding, with a record. -/
theorem reported : outcome.map (fun t => t.log.nextOrd == state.log.nextOrd) = some false := by decide +kernel

end FullStackLoad

/-- Refutes O37: a load whose lanes part into hits and misses does not divide when all 16 places of the mask stack are in
use; its context is LOST for an invalid encoding, which writes a record in the log (R177, R200). -/
theorem not_loads : ¬ Obligations.Loads := by
  unfold Obligations.Loads
  intro h
  open FullStackLoad in
  obtain ⟨hop, hn, haddr, hrun, hsplit, hlong, hpc, hwait, hdep⟩ := legal
  obtain ⟨hne, href, hroom, hfault⟩ := permitted
  obtain ⟨-, hgo⟩ := h.1 state start place .vector word iss (issueIss state iss) 4 (laneList iss.lanes) issues rfl rfl hop
    hn.symm (by decide) rfl haddr hrun (fun _ => ⟨hlong, hpc⟩) (fun hs => absurd (hsplit.symm.trans hs) (by decide)) hdep hwait
  obtain ⟨t, hexec, -, ht, -⟩ := (hgo hne href fun _ => ⟨hroom, hfault⟩).2 _ _ divides
  have hout : outcome = some t := by
    unfold outcome
    rw [hexec]
  have hlog : t.log = state.log := by rw [ht]
  have hrep := reported
  rw [hout, Option.map_some, hlog, beq_self_eq_true] at hrep
  exact absurd hrep (by decide)

end Sys2Proof.Machine
end

section
/-! # A write-combined store across two channels (R189, R279, R283) -/

namespace Sys2Proof.Machine

set_option Elab.async false

namespace SplitCombine

/-! ## The witness: a partition of 102 bytes ends amid a line, and a store lies across its end -/

/-- A store of 4 bytes of v6 at the address in s2 and v1. -/
def word : IWord :=
  ⟨BitVec.ofNat 64 (0x181 + 2 * 2 ^ 28 + 6 * 2 ^ 32 + 1 * 2 ^ 40 + 2 * 2 ^ 48), 0⟩

/-- The split that issues, at word 8 with lane 0. -/
def split : Split := { st := .ready, pc := 8, mask := 1 }

/-- Its group: the address 100 in s2, and bytes of ones in v6. -/
def group : Group := { wg := 4, gidx := 0, splits := [(0, split)], sreg := [(2, 100)], vreg := [(192, 0xFFFFFFFF)] }

/-- Its workgroup, of context 1, whose kernel is not of the commit form. -/
def wg : Wg :=
  { inst := 8, node := 0, idx := 0, ctx := 1, part := 0, core := 0, cluster := 0, csize := 1, rank := 0, groups := 1
    entry := 64, codeLen := 4096, start := 8, vregs := 64, nAcc := 2, lullCtrs := 2, ctrBase := 0, lsKib := 16, lsBase := 0
    stageKib := 0, commitForm := false, nosplit := false, ord := 0, kills := 0, st := .placed, exited := 0, bar := {}
    cbar := {}, commits := 0, writing := false, committed := false, staged := 0, paramBase := 0, argOff := 0, ras := none
    hubN := 0, hubAt := 0, savedCtrs := [], savedLs := [], savedWatches := [], codeBase := 0, codeObj := 0x10000 }

/-- Its context may write the first MiB, with write combining (policy 3). -/
def ctx : Ctx :=
  { st := .active, gen := 1
    segs := [{ valid := true, base := 0, limit := 1048576, policy := 3, arena := false, ex := true, wr := true, rd := true }] }

/-- A partition of one channel. -/
def partOf (idx : Nat) (chMask : BitVec 32) : Partition :=
  { idx := idx, auto := false, cls := 0, enc := false, fnGrant := true, coreMask := 1, chMask := chMask, ssBase := 0
    ssSize := 16, pipeMask := 15, capMask := 15, aud := true, cmpMask := 3, olShare := 0xFFFF }

/-- The code: the word at word 8. -/
def code : List Host.Cell := mwrites [] 64 (natBytes word.w0.toNat 8)

/-- The state: partition 0 has the 102 bytes of channel 0, partition 1 the bytes of channel 1 after them. -/
def state : State :=
  { State.reset with
    pins := { int3Hold := false, xspiDriven := false }
    cfg := { State.reset.cfg with parts := [partOf 0 1, partOf 1 2], density := [102, 1000] }
    ctxs := [(1, ctx)], wgs := [(4, wg)], groups := [(0, group)], mem := { dram := code }
    cores := [(0, { l1i := [(0, { tag := 0, data := mreads code 0 128 })] })] }

/-- The place of the split. -/
def place : SplitRef := ⟨0, 0, 0, 0⟩

/-- Its issue. -/
def iss : Iss := { sp := place, key := 0, g := group, x := split, id := 4, w := wg, iw := word }

/-- What the store's action starts from. -/
def start : State := issueState state iss true

theorem issues : Issues state place word .l iss where
  runs    := by decide +kernel
  found   := rfl
  ready   := rfl
  placed  := rfl
  apart   := by decide +kernel
  pref    := .inl (by decide +kernel)
  inObj   := by decide +kernel
  fetched := by decide +kernel
  sound   := by decide +kernel
  listed  := by decide +kernel
  word    := by decide +kernel
  rounds  := by decide +kernel
  traced  := by decide +kernel

/-- The word is a legal store of lane 0 at 100, and nothing holds it back. -/
theorem legal : wOp word = 0x181 ∧ mBytes word = 4 ∧ mLocal word = false ∧ wL word = false ∧ addrOk iss = true ∧
    runOk iss (wKind word 2) (wC word) (mRegs 4) = true ∧ laneList iss.outLanes = [0] ∧ (laneAddr iss 0).toNat = 100 ∧
    mustWait state iss = false ∧
    depends state iss (guardRead word ++ addrRegs iss [0] ++ dataRegs iss [0] (mRegs 4)) = false := by
  decide +kernel

/-- It is permitted, and no MAC stands against it. -/
theorem permitted : refusedLane start (issueIss state iss) [0] 4 [.wr] = none ∧
    [0].findSome? (fun l => macDrops start (laneAddr (issueIss state iss) l).toNat 4) = none := by
  decide +kernel

/-- No cache stands before the bytes, and each lies on a channel. -/
theorem plain : PlainAccess start iss.w.ctx 100 4 where
  one   := by decide +kernel
  pol   := by decide +kernel
  empty := by decide +kernel
  wcb   := by decide +kernel
  mac   := by decide +kernel
  chan  := by
    intro _ _ b hlo hhi
    have hb : b ∈ List.range' 100 4 := List.mem_range'_1.mpr ⟨hlo, hhi⟩
    revert b
    decide +kernel
  dram  := by decide +kernel
  ss    := by decide +kernel

/-- The state the store leaves. -/
def outcome : Option State :=
  match exec (.store place word) state with
  | .next t => some t
  | _ => none

/-- The third byte is combined on the channel of the first, and memory shows none of it. -/
theorem unseen : outcome.map (fun t => dmByte t 102) = some 0 := by decide +kernel

/-- The byte stored there. -/
theorem stored : (dataBytes iss 0 4).getD 2 0 = 255 := by decide +kernel

end SplitCombine

/-- Refutes O38: a store of policy 3 whose bytes lie on two channels, where a partition ends amid a line, combines them all
in the line of the first byte's channel, so that reads of the bytes on the other channel do not see them (R189, R283). -/
theorem not_storesAndAtomics : ¬ Obligations.StoresAndAtomics := by
  unfold Obligations.StoresAndAtomics
  intro h
  open SplitCombine in
  obtain ⟨hop, hn, hdevice, hshort, haddr, hrun, hlanes, hat, hwait, hdep⟩ := legal
  obtain ⟨href, hmac⟩ := permitted
  obtain ⟨-, hdirect, -⟩ := h.1 state start place word iss (issueIss state iss) 4 [0] _ issues rfl rfl hop hn.symm
    hlanes.symm haddr (fun hl => absurd (hshort.symm.trans hl) (by decide)) hrun hdep hwait href rfl
  obtain ⟨t, hexec, -, -, -, -, -, hbytes⟩ := hdirect rfl hdevice hmac
  have hbyte : dmByte t 102 = 255 := (hbytes 0 100 rfl hat.symm plain 102).trans stored
  have hout : outcome = some t := by
    unfold outcome
    rw [hexec]
  have hseen := unseen
  rw [hout, Option.map_some, hbyte] at hseen
  exact absurd hseen (by decide)

end Sys2Proof.Machine
end

section
/-! # A split goes on or stalls: what its group and the state keep (R172, R176, R180, R186) -/

namespace Sys2Proof.Machine

set_option Elab.async false

variable {s t u : State} {i : Iss} {g g' : Group}

/-! ## Registers of a group that settles -/

theorem Group.sameRegs_rfl : g.sameRegs g := ⟨rfl, rfl, rfl, rfl, rfl⟩

theorem joinSet_sameRegs {now : BitVec 48} {p sid : Nat} (h : joinSet g now p = some (g', sid)) : g'.sameRegs g := by
  unfold joinSet at h
  split at h
  · dsimp only at h
    split at h
    · cases h
      exact ⟨rfl, rfl, rfl, rfl, rfl⟩
    · cases h
  · split at h
    · cases h
      exact ⟨rfl, rfl, rfl, rfl, rfl⟩
    · cases h
  · cases h

/-- Where the mask stack is empty nothing acts on a split that arrives. -/
theorem arrive_noStack (now : BitVec 48) (f sid : Nat) (h : g.stack = []) : arrive now f g sid = g := by
  cases f with
  | zero => rfl
  | succ f =>
    unfold arrive
    rw [h]
    split <;> rfl

theorem arrive_sameRegs (now : BitVec 48) (f sid : Nat) : (arrive now f g sid).sameRegs g := by
  induction f generalizing g sid with
  | zero => exact Group.sameRegs_rfl
  | succ f ih =>
    unfold arrive
    split
    · exact Group.sameRegs_rfl
    next x _ =>
      split
      · exact Group.sameRegs_rfl
      · split
        · exact Group.sameRegs_rfl
        · split
          · split
            · split <;> exact ⟨rfl, rfl, rfl, rfl, rfl⟩
            · split
              · dsimp only
                split
                next hj => exact Group.sameRegs_trans (ih _) (joinSet_sameRegs (g := g.putSplit sid _) hj)
                · exact ⟨rfl, rfl, rfl, rfl, rfl⟩
              · exact Group.sameRegs_rfl
          · split
            · exact ih _
            · exact ih _

theorem settleSets_noStack (now : BitVec 48) (f : Nat) (h : g.stack = []) : settleSets now f g = g := by
  cases f with
  | zero => rfl
  | succ f =>
    unfold settleSets
    rw [h]
    rfl

theorem settleSets_sameRegs (now : BitVec 48) (f : Nat) : (settleSets now f g).sameRegs g := by
  induction f generalizing g with
  | zero => exact Group.sameRegs_rfl
  | succ f ih =>
    unfold settleSets
    split
    next hj =>
      obtain ⟨p, -, hp⟩ := List.exists_of_findSome?_eq_some hj
      split at hp
      · exact Group.sameRegs_trans ih (Group.sameRegs_trans (arrive_sameRegs _ _ _) (joinSet_sameRegs hp))
      · cases hp
    · exact Group.sameRegs_rfl

theorem retrySpin_sameRegs (now : BitVec 48) : (retrySpin now g g').sameRegs g' := by
  unfold retrySpin
  split <;> exact ⟨rfl, rfl, rfl, rfl, rfl⟩

theorem retrySpin_sameLength (now : BitVec 48) (h : g'.splits.length = g.splits.length) : retrySpin now g g' = g' :=
  if_neg (by omega)

theorem goPc_sameRegs (now : BitVec 48) (sid : Nat) (pc : BitVec 24) : (goPc now g sid pc).sameRegs g :=
  Group.sameRegs_trans (arrive_sameRegs _ _ _) ⟨rfl, rfl, rfl, rfl, rfl⟩

theorem goPc_noStack (now : BitVec 48) (sid : Nat) (pc : BitVec 24) (h : g.stack = []) :
    goPc now g sid pc = g.modSplit sid (fun x => { x with pc := pc }) := arrive_noStack _ _ _ h

/-! ## A group changes, and settles -/

theorem modGroup_find (f : Group → Group) {key : Nat} (hg : tfind s.groups key = some g) :
    tfind (modGroup s key f).groups key = some (f g) := by
  unfold modGroup
  dsimp only
  rw [tfind_tupd_same, hg, Option.map_some]

theorem modGroup_frame (s : State) (key : Nat) (f : Group → Group) :
    modGroup s key f = { s with groups := (modGroup s key f).groups } := rfl

theorem modGroup_other (f : Group → Group) {k key : Nat} (h : k ≠ key) :
    tfind (modGroup s key f).groups k = tfind s.groups k := by
  unfold modGroup
  exact tfind_tupd_other _ _ _ _ h

theorem settleGroup_frame (s : State) (key : Nat) (f : Group → Group) :
    settleGroup s key f = { s with groups := (settleGroup s key f).groups } := rfl

theorem settleGroup_other (f : Group → Group) {k key : Nat} (h : k ≠ key) :
    tfind (settleGroup s key f).groups k = tfind s.groups k := modGroup_other _ h

/-- A change of a group that then settles keeps the registers the change left; with an empty mask stack and as many splits
as before it is the change alone. -/
theorem settleGroup_find (f : Group → Group) {key : Nat} (hg : tfind s.groups key = some g) :
    ∃ h, tfind (settleGroup s key f).groups key = some h ∧ h.sameRegs (f g) ∧
      ((f g).stack = [] → (f g).splits.length = g.splits.length → h = f g) := by
  refine ⟨_, modGroup_find _ hg, Group.sameRegs_trans (retrySpin_sameRegs _) (settleSets_sameRegs _ _), fun hst hlen => ?_⟩
  rw [settleSets_noStack _ _ hst, retrySpin_sameLength _ hlen]

/-! ## The split goes on at the next instruction -/

theorem tupd_single {α : Type} (k : Nat) (x : α) (f : α → α) : tupd [(k, x)] k f = [(k, f x)] := by
  simp [tupd]

theorem modSplit_single {sid : Nat} {x : Split} (f : Split → Split) (h : g.splits = [(sid, x)]) :
    (g.modSplit sid f).splits = [(sid, f x)] := (congrArg (tupd · sid f) h).trans (tupd_single ..)

/-- The issuing group keeps its registers; with an empty mask stack its split alone moves. -/
theorem advance_find (hg : tfind s.groups i.key = some g) :
    ∃ h, tfind (advance s i).groups i.key = some h ∧ h.sameRegs g ∧
      (g.stack = [] → h = g.modSplit i.sp.sid (fun x => { x with pc := nextPc i })) := by
  obtain ⟨h, hh, hr, he⟩ := settleGroup_find (s := s)
    (fun g => goPc (coreNow s i.sp.core) g i.sp.sid (i.x.pc + BitVec.ofNat 24 (iLen i.iw))) hg
  refine ⟨h, hh, Group.sameRegs_trans hr (goPc_sameRegs _ _ _), fun hst => ?_⟩
  have hgo := goPc_noStack (coreNow s i.sp.core) i.sp.sid (i.x.pc + BitVec.ofNat 24 (iLen i.iw)) hst
  refine (he ?_ ?_).trans hgo
  · rw [hgo]
    exact hst
  · rw [hgo]
    exact List.length_map _

theorem advance_frame (s : State) (i : Iss) : advance s i = { s with groups := (advance s i).groups } := rfl

theorem advance_other {k : Nat} (h : k ≠ i.key) : tfind (advance s i).groups k = tfind s.groups k :=
  settleGroup_other _ h

/-! ## What the action of an issue finds -/

/-- An instruction that issues ends as its action leaves the state. -/
theorem onLive_onIssue {sp : SplitRef} {w : IWord} {f : Form1} {ops : Nat → Bool} {act : State → Iss → State} {packs : Bool}
    (h : Issues s sp w f i) (ho : ops (wOp w) = true) :
    onLive s (onIssue s sp w ops f act packs) = .next (act (issueState s i packs) (issueIss s i)) := by
  rw [onLive_runs h.runs, onIssue_eq h ho]

theorem issueIss_g : (issueIss s i).g = i.g.modSplit i.sp.sid (fun _ => i.at_ s i.x.pc) := rfl

theorem issueIss_lone (h : i.lone) :
    (issueIss s i).g.stack = [] ∧ (issueIss s i).g.splits = [(i.sp.sid, i.at_ s i.x.pc)] := by
  obtain ⟨hsp, hst⟩ := h
  exact ⟨hst, modSplit_single _ hsp⟩

/-- Loads, traces and matrix instructions under way are those of before. -/
theorem IssueOnly.depends (h : IssueOnly s u i) (rs : List RegId) : depends u (issueIss s i) rs = depends s i rs := by
  rw [h.1]
  rfl

theorem IssueOnly.accessPending (h : IssueOnly s u i) : accessPending u (issueIss s i) = accessPending s i := by
  rw [h.1]
  rfl

theorem IssueOnly.resolveRef (h : IssueOnly s u i) (w : Wg) (r : Nat) : resolveRef u w r = resolveRef s w r := by
  rw [h.1]
  rfl

theorem FetchOnly.of_cores (h : FetchOnly s u i) (hc : t.cores = u.cores) : FetchOnly s t i := by
  unfold FetchOnly coreOf
  rw [hc]
  exact h

/-! ## From the action to the claim -/

/-- Two states of the issuing group: registers kept, and its split alone where it stood alone. -/
def Iss.standsIn (i : Iss) (s : State) (g : Group) : Prop :=
  g.sameRegs i.g ∧ (i.lone → g.stack = [] ∧ g.splits = [(i.sp.sid, i.at_ s i.x.pc)])

theorem Iss.standsIn_issueIss (s : State) (i : Iss) : i.standsIn s (issueIss s i).g :=
  ⟨⟨rfl, rfl, rfl, rfl, rfl⟩, issueIss_lone⟩

/-- The group of an issue whose split moves on. -/
theorem advance_alone (hg : tfind u.groups i.key = some g)
    (hl : i.lone → g.stack = [] ∧ g.splits = [(i.sp.sid, i.at_ s i.x.pc)]) :
    ∃ h, tfind (advance u (issueIss s i)).groups i.key = some h ∧ h.sameRegs g ∧
      (i.lone → h.stack = [] ∧ h.splits = [(i.sp.sid, i.at_ s (nextPc i))]) := by
  obtain ⟨h, hh, hr, he⟩ := advance_find (i := issueIss s i) hg
  refine ⟨h, hh, hr, fun hlone => ?_⟩
  obtain ⟨hst, hsp⟩ := hl hlone
  rw [he hst]
  exact ⟨hst, modSplit_single _ hsp⟩

theorem moves_advance (hg : tfind u.groups i.key = some g) (hs : i.standsIn s g) :
    Moves s (advance u (issueIss s i)) i := by
  obtain ⟨hr, hl⟩ := hs
  obtain ⟨h, hh, hr', hl'⟩ := advance_alone hg hl
  exact ⟨h, hh, Group.sameRegs_trans hr' hr, hl'⟩

theorem IssueOnly.advance (h : IssueOnly s u i) : IssueOnly s (advance u (issueIss s i)) i := by
  obtain ⟨hf, hm, hg, hc⟩ := h
  refine ⟨?_, hm, fun k hk => (advance_other hk).trans (hg k hk), hc⟩
  show { u with groups := _ } = _
  rw [hf]
  rfl

/-- An instruction whose action is to move on. -/
theorem runsBare_of_advance {c : Instr} (h : IssueOnly s u i) (hg : tfind u.groups i.key = some (issueIss s i).g)
    (he : exec c s = .next (Machine.advance u (issueIss s i))) : RunsBare s c i := by
  obtain ⟨g, hg', hr, hl⟩ := advance_alone hg issueIss_lone
  exact ⟨_, g, he, h.advance, hg', hl, Group.sameRegs_trans hr ⟨rfl, rfl, rfl, rfl, rfl⟩⟩

/-! ## Splits that wait are let try again -/

/-- A group in which no split waits for the reason is left as it is. -/
theorem unstall_quiet (key : Nat) {k : Nat} {q : Why → Bool} (hg : tfind s.groups k = some g)
    (hq : ∀ e ∈ g.splits, (decide (e.2.st = .stalled) && q e.2.why) = false) :
    tfind (unstall s key q).groups k = some g := by
  by_cases hk : k = key
  · subst hk
    refine (modGroup_find _ hg).trans ?_
    have hid : g.splits.map (fun e => (e.1, if (decide (e.2.st = .stalled) && q e.2.why) = true then
        e.2.toReady (coreNow s (k / 64)) else e.2)) = g.splits := by
      conv => rhs; rw [← List.map_id g.splits]
      exact List.map_congr_left fun e he => by rw [hq e he]; rfl
    rw [hid]
  · exact (modGroup_other _ hk).trans hg

theorem unstallAll_quiet {k : Nat} {q : Why → Bool} (hg : tfind s.groups k = some g)
    (hq : ∀ e ∈ g.splits, (decide (e.2.st = .stalled) && q e.2.why) = false) :
    tfind (unstallAll s q).groups k = some g := by
  unfold unstallAll
  generalize s.groups.map (·.1) = l
  induction l generalizing s with
  | nil => exact hg
  | cons a l ih => exact ih (unstall_quiet a hg hq)

/-! ## A split stalls -/

theorem stall_groups (u : State) (i : Iss) (why : Why) : (stall u i why).groups =
    (modSplit u i.key i.sp.sid (fun x => { x with st := .stalled, why := why, rot := i.was })).groups := rfl

theorem stall_find {why : Why} (hg : tfind u.groups i.key = some (issueIss s i).g) :
    tfind (stall u (issueIss s i) why).groups i.key = some (i.stalled s why) := by
  rw [stall_groups]
  exact modGroup_find _ hg

theorem stall_other {why : Why} {k : Nat} (h : k ≠ i.key) : tfind (stall u i why).groups k = tfind u.groups k := by
  rw [stall_groups]
  exact modGroup_other _ h

theorem stall_frame (u : State) (i : Iss) (why : Why) :
    stall u i why = { u with groups := (stall u i why).groups, cores := (stall u i why).cores } := rfl

theorem FetchOnly.stall {why : Why} (h : FetchOnly s u i) : FetchOnly s (stall u (issueIss s i) why) i := by
  obtain ⟨ho, hs⟩ := h
  have hc (c : Nat) : coreOf (Machine.stall u (issueIss s i) why) c =
      coreOf (modCore u i.sp.core fun c => { c with issued := tupd c.issued i.sp.cpart fun e => { e with packs := false } }) c := rfl
  refine ⟨fun c hne => ?_, ?_⟩
  · rw [hc, coreOf_modCore_other _ _ _ _ hne, ho c hne]
  · rw [hc, coreOf_modCore_same, hs]

theorem IssueOnly.stall {why : Why} (h : IssueOnly s u i) : IssueOnly s (stall u (issueIss s i) why) i := by
  obtain ⟨hf, hm, hg, hc⟩ := h
  refine ⟨?_, hm, fun k hk => (stall_other (i := issueIss s i) hk).trans (hg k hk), hc.stall⟩
  rw [stall_frame, hf]

end Sys2Proof.Machine
end

section
/-! # The allocator of the arena (R116, R117, R211) -/

namespace Sys2Proof.Machine

set_option Elab.async false

variable {s t u v : State} {i : Iss} {g : Group}

/-! ## A block is found, or none (R116) -/

/-- The block of an arena at an offset, for index `k`. -/
def blockOf (s : State) (ctx : Nat) (a : Seg) (off n k : Nat) : Obj :=
  { st := .live, gen := nextGen (tget s.allocGen k 0), owner := ctx, ownerHolds := true, base := a.base + off, len := n
    rd := a.rd, wr := a.wr, ex := a.ex, policy := a.policy }

/-- A request that finds a place and an index makes a LIVE object of the next generation there. -/
theorem allocBlock_found {ctx size n off k : Nat} {a : Seg} (ha : arenaOf s ctx = some a) (hn : sizeClass size = some n)
    (hoff : lowestBlock ((blocksOf s ctx).map (fun o => (o.base - a.base, o.len))) (a.limit - a.base) n = some off)
    (hk : freeAllocIdx s = some k) :
    ∃ v o, allocBlock s ctx size = (o.gen * 262144 + k, o.base, v) ∧ tfind v.objs k = some o ∧ o.st = .live ∧
      o.owner = ctx ∧ o.base = a.base + off ∧ o.len = n ∧ o.gen = nextGen (tget s.allocGen k 0) ∧
      (∀ j, j ≠ k → tfind v.objs j = tfind s.objs j) := by
  have he : allocBlock s ctx size = ((blockOf s ctx a off n k).gen * 262144 + k, (blockOf s ctx a off n k).base,
      { s with objs := tput s.objs k (blockOf s ctx a off n k)
               allocGen := tput s.allocGen k (blockOf s ctx a off n k).gen }) := by
    unfold allocBlock
    simp only [ha, hn, hoff, hk]
    rfl
  exact ⟨_, _, he, tfind_tput_same .., rfl, rfl, rfl, rfl, rfl, fun j hj => tfind_tput_other _ _ _ _ hj⟩

/-- Without an arena, a size class, a place or an index there is none. -/
theorem allocBlock_none {ctx size : Nat} (h : ¬∃ a n off k, arenaOf s ctx = some a ∧ sizeClass size = some n ∧
    lowestBlock ((blocksOf s ctx).map (fun o => (o.base - a.base, o.len))) (a.limit - a.base) n = some off ∧
    freeAllocIdx s = some k) : allocBlock s ctx size = (0, 0, s) := by
  unfold allocBlock
  split
  next a n ha hn =>
    split
    next off k hoff hk => exact absurd ⟨a, n, off, k, ha, hn, hoff, hk⟩ h
    · rfl
  · rfl

/-- The allocator changes objects and their generations. -/
theorem allocBlock_frame {ctx size h base : Nat} (he : allocBlock s ctx size = (h, base, v)) :
    v = { s with objs := v.objs, allocGen := v.allocGen } := by
  unfold allocBlock at he
  split at he
  · split at he <;> cases he <;> rfl
  · cases he
    rfl

/-- A state with other work under way. -/
def State.besides (s : State) (r : Rr) (f : Fly) (gs : Tab Group) : State := { s with rr := r, fly := f, groups := gs }

/-- The allocator looks at contexts and objects only. -/
theorem allocBlock_besides {ctx size h base : Nat} (he : allocBlock s ctx size = (h, base, v)) (r : Rr) (f : Fly)
    (gs : Tab Group) : allocBlock (s.besides r f gs) ctx size = (h, base, v.besides r f gs) := by
  have ha : arenaOf (s.besides r f gs) ctx = arenaOf s ctx := rfl
  have hb : blocksOf (s.besides r f gs) ctx = blocksOf s ctx := rfl
  have hk : freeAllocIdx (s.besides r f gs) = freeAllocIdx s := rfl
  unfold allocBlock at he ⊢
  rw [ha, hb, hk]
  split at he
  · split at he <;> cases he <;> rfl
  · cases he
    rfl

/-! ## Device memory does not look at the work under way -/

section
variable (s : State) (r : Rr) (f : Fly) (gs : Tab Group)

theorem macTouch_besides (a : Nat) (b : Bool) :
    macTouch (s.besides r f gs) a b = (macTouch s a b).besides r f gs := by
  unfold macTouch
  rw [show macLoc (s.besides r f gs) a = macLoc s a from rfl]
  split <;> rfl

theorem dramMask_besides (a : Nat) (d : List (Option Byte)) :
    dramMask (s.besides r f gs) a d = (dramMask s a d).besides r f gs := by
  unfold dramMask
  rw [← macTouch_besides]
  rfl

theorem dramPut_besides (a : Nat) (d : List Byte) :
    dramPut (s.besides r f gs) a d = (dramPut s a d).besides r f gs := by
  unfold dramPut
  rw [← macTouch_besides]
  rfl

theorem wcFlush_besides (a : Nat) : wcFlush (s.besides r f gs) a = (wcFlush s a).besides r f gs := by
  unfold wcFlush
  rw [show chanOf (s.besides r f gs) a = chanOf s a from rfl, show wcLine (s.besides r f gs) a = wcLine s a from rfl]
  split
  · rw [← dramMask_besides]
    rfl
  · rfl

theorem l2Evict_besides (k : Nat) : l2Evict (s.besides r f gs) k = (l2Evict s k).besides r f gs := by
  unfold l2Evict
  rw [show (s.besides r f gs).mem = s.mem from rfl]
  split
  · rfl
  next x _ =>
    rw [show l2Addr (s.besides r f gs) k x.tag = l2Addr s k x.tag from rfl]
    split
    · rfl
    · dsimp only
      split
      · rw [← dramPut_besides]
        rfl
      · rfl

theorem l2Fill_besides (a : Nat) : l2Fill (s.besides r f gs) a = (l2Fill s a).besides r f gs := by
  unfold l2Fill
  rw [show l2Loc (s.besides r f gs) a = l2Loc s a from rfl, show l2Hit (s.besides r f gs) a = l2Hit s a from rfl]
  split
  · rfl
  · split
    · rfl
    · dsimp only
      rw [wcFlush_besides, show ((wcFlush s a).besides r f gs).mem = (wcFlush s a).mem from rfl]
      split
      · rfl
      · rw [l2Evict_besides, macTouch_besides]
        rfl

theorem wcPut_besides (a : Nat) (d : List (Option Byte)) :
    wcPut (s.besides r f gs) a d = (wcPut s a d).besides r f gs := by
  unfold wcPut
  rw [show chanOf (s.besides r f gs) a = chanOf s a from rfl, show wcLine (s.besides r f gs) a = wcLine s a from rfl]
  split
  · rfl
  · dsimp only
    rw [show (s.besides r f gs).mem = s.mem from rfl]
    split
    · rw [← wcFlush_besides]
      rfl
    · split
      · rw [← wcFlush_besides]
        rfl
      · rfl

theorem dmWriteLine_besides (pol a : Nat) (d : List (Option Byte)) :
    dmWriteLine (s.besides r f gs) pol a d = (dmWriteLine s pol a d).besides r f gs := by
  have hfill : (if pol < 2 then l2Fill (s.besides r f gs) a else s.besides r f gs) =
      (if pol < 2 then l2Fill s a else s).besides r f gs := by
    split
    · exact l2Fill_besides ..
    · rfl
  unfold dmWriteLine
  dsimp only
  rw [hfill]
  generalize (if pol < 2 then l2Fill s a else s) = s
  rw [show l2Hit (s.besides r f gs) a = l2Hit s a from rfl, show (s.besides r f gs).mem = s.mem from rfl]
  split
  · split
    · rfl
    · split
      · rw [← dramMask_besides]
        rfl
      · rw [← dramPut_besides]
        rfl
  · split
    · exact wcPut_besides ..
    · rw [wcFlush_besides, dramMask_besides]

theorem dmWriteLines_besides (n pol a : Nat) (d : List (Option Byte)) :
    dmWriteLines n (s.besides r f gs) pol a d = (dmWriteLines n s pol a d).besides r f gs := by
  induction n generalizing s a d with
  | zero => rfl
  | succ n ih =>
    unfold dmWriteLines
    split
    · rfl
    · dsimp only
      rw [dmWriteLine_besides, ih]

theorem dmWrite_besides (pol a : Nat) (d : List Byte) :
    dmWrite (s.besides r f gs) pol a d = (dmWrite s pol a d).besides r f gs := by
  unfold dmWrite dmWriteOpt
  dsimp only
  split
  · rfl
  · rw [← dmWriteLines_besides]
    rfl
end

/-! ## The oldest request is served (R116) -/

/-- A request is taken, in the turn of a partition. -/
def takeRequest (s : State) (p : Nat) (r : AllocReq) : State :=
  { s with rr := { s.rr with alloc := p }, fly := { s.fly with allocs := s.fly.allocs.erase r } }

/-- Then splits that waited for a place try again. -/
theorem takeRequest_unstallAll (s : State) (p : Nat) (r : AllocReq) :
    unstallAll { s with rr := { s.rr with alloc := p }, fly := { s.fly with allocs := s.fly.allocs.erase r } } (· == .unit) =
      s.besides (takeRequest s p r).rr (takeRequest s p r).fly (unstallAll (takeRequest s p r) (· == .unit)).groups :=
  unstallAll_frame _ _

/-- The registers handle and base are received in. -/
def blockRegs (d h base : Nat) : List (RegId × W32) :=
  [(.s d, BitVec.ofNat 32 h), (.s (d + 1), 0), (.s (d + 2), BitVec.ofNat 32 base), (.s (d + 3), BitVec.ofNat 32 (base / 2 ^ 32))]

/-- A split receives its block and goes on. -/
def receiveBlock (now : BitVec 48) (sid d h base : Nat) (g : Group) : Group :=
  let g := writeRegs g (blockRegs d h base)
  match tfind g.splits sid with
  | none => g
  | some x => goPc now (g.putSplit sid (x.toReady now)) sid (x.pc + 1)

theorem readS_writeReg (g : Group) (m n : Nat) (v : W32) :
    readS (writeReg g (.s m) v) n = if n = m then v else readS g n := by
  show tget (tput g.sreg m v) n 0 = _
  split
  next h => rw [h, tget_tput_same]
  next h => exact tget_tput_other _ _ _ _ _ h

theorem readS_blockRegs (g : Group) (d h base n : Nat) :
    readS (writeRegs g (blockRegs d h base)) n = if n = d then BitVec.ofNat 32 h else if n = d + 1 then 0 else
      if n = d + 2 then BitVec.ofNat 32 base else if n = d + 3 then BitVec.ofNat 32 (base / 2 ^ 32) else readS g n := by
  simp only [blockRegs, writeRegs, List.foldl_cons, List.foldl_nil, readS_writeReg]
  grind

theorem receiveBlock_sameRegs (now : BitVec 48) (sid d h base : Nat) (g : Group) :
    (receiveBlock now sid d h base g).sameRegs (writeRegs g (blockRegs d h base)) := by
  unfold receiveBlock
  dsimp only
  split
  · exact Group.sameRegs_rfl
  · exact Group.sameRegs_trans (goPc_sameRegs _ _ _) ⟨rfl, rfl, rfl, rfl, rfl⟩

/-- A split that stands alone is READY at the next instruction. -/
theorem receiveBlock_alone (now : BitVec 48) (sid d h base : Nat) {x : Split} (hsp : g.splits = [(sid, x)])
    (hst : g.stack = []) :
    (receiveBlock now sid d h base g).stack = [] ∧
      (receiveBlock now sid d h base g).splits = [(sid, { x.toReady now with pc := x.pc + 1 })] := by
  have hfind : tfind (writeRegs g (blockRegs d h base)).splits sid = some x := by
    show tfind g.splits sid = _
    rw [hsp]
    exact if_pos rfl
  have hput : ((writeRegs g (blockRegs d h base)).putSplit sid (x.toReady now)).splits = [(sid, x.toReady now)] := by
    show tput g.splits sid _ = _
    rw [hsp]
    simp [tput]
  unfold receiveBlock
  simp only [hfind]
  rw [goPc_noStack (g := (writeRegs g (blockRegs d h base)).putSplit sid _) _ _ _ hst]
  exact ⟨hst, modSplit_single _ hput⟩

/-- A split's request. -/
theorem allocServedOp_split {sp : SplitRef} {ctx size d p h base : Nat} (hn : nextAlloc s = some (p, .split sp ctx size d))
    (hb : allocBlock s ctx size = (h, base, v)) {r : AllocReq} (hr : r = .split sp ctx size d) :
    allocServedOp s = settleGroup (v.besides (takeRequest s p r).rr (takeRequest s p r).fly
        (unstallAll (takeRequest s p r) (· == .unit)).groups)
      (spKey sp) (receiveBlock (coreNow s sp.core) sp.sid d h base) := by
  have hclk : coreNow v sp.core = coreNow s sp.core := by
    rw [allocBlock_frame hb]
    rfl
  subst hr
  unfold allocServedOp
  simp only [hn]
  rw [takeRequest_unstallAll]
  simp only [allocBlock_besides hb]
  rw [← hclk]
  rfl

/-- A node's request: the parameter block is written, and the node ends. -/
theorem allocServedOp_node {id n ctx cls off p h base : Nat} {x : Inst} {g : Graph} {r : AllocReq}
    (hr : r = .node id n ctx cls off) (hn : nextAlloc s = some (p, r)) (hx : tfind s.insts id = some x)
    (hg : graphOf s x = some g) (hmac : macDrops s (g.param off) 16 = none)
    (hb : allocBlock s ctx (2 ^ (cls + 8)) = (h, base, v)) :
    allocServedOp s = nodeEnded ((dmWrite v (polAt s g.ctx (g.param off)) (g.param off)
      (natBytes h 8 ++ natBytes base 8)).besides (takeRequest s p r).rr (takeRequest s p r).fly
        (unstallAll (takeRequest s p r) (· == .unit)).groups) id n := by
  have hv := allocBlock_frame hb
  have hgraph (a : Rr) (f : Fly) (gs : Tab Group) :
      (tfind (s.besides a f gs).insts id).bind (graphOf (s.besides a f gs)) = some g := by
    rw [show (s.besides a f gs).insts = s.insts from rfl, hx]
    exact hg
  have hpol (a : Rr) (f : Fly) (gs : Tab Group) :
      polAt (v.besides a f gs) g.ctx (g.param off) = polAt s g.ctx (g.param off) := by
    rw [hv]
    rfl
  have hdrops (a : Rr) (f : Fly) (gs : Tab Group) : macDrops (v.besides a f gs) (g.param off) 16 = none := by
    rw [← hmac, hv]
    rfl
  have hlen : (natBytes h 8 ++ natBytes base 8).length = 16 := by rw [List.length_append, natBytes_length, natBytes_length]
  unfold allocServedOp
  simp only [hn]
  rw [takeRequest_unstallAll]
  subst hr
  simp only [hgraph, allocBlock_besides hb, hdrops, paramWrite, hlen, hpol, dmWrite_besides]

/-! ## `alloc` and `free` (R117, R211) -/

/-- A legal `alloc` with a place for its request puts it to the allocator and stalls. -/
theorem allocOp_asks (hlow : wA i.iw < 64) (hmod : wD i.iw % 4 = 0) (hdst : wD i.iw < 64) (hform : i.w.commitForm = false)
    (hdep : depends s i (.s (wA i.iw) :: (List.range 4).map (fun k => .s (wD i.iw + k))) = false)
    (hroom : s.fly.allocs.length < 64) :
    allocOp s i = stall { s with fly := { s.fly with
      allocs := s.fly.allocs ++ [.split i.sp i.w.ctx (readS i.g (wA i.iw)).toNat (wD i.iw)] } } i (.allocResult (wD i.iw)) := by
  unfold allocOp
  simp [sOk, hlow, hmod, hform, hdep, Nat.not_le.mpr hdst, Nat.not_le.mpr hroom]

/-- A legal `free` of 0, or of a live handle of the context. -/
theorem freeOp_goes (hlow : wA i.iw < 64) (hform : i.w.commitForm = false) (hdep : depends s i [.s (wA i.iw)] = false) :
    (readS i.g (wA i.iw) = 0 → freeOp s i = advance s i) ∧
    (readS i.g (wA i.iw) ≠ 0 → liveAlloc s i.w.ctx (readS i.g (wA i.iw)).toNat = true →
      freeOp s i = advance (allocFree s (readS i.g (wA i.iw)).toNat) i) := by
  unfold freeOp
  constructor
  · intro h0
    simp [sOk, hlow, hform, hdep, h0]
  · intro h0 hlive
    have hne : (readS i.g (wA i.iw)).toNat ≠ 0 := fun h => h0 (BitVec.eq_of_toNat_eq h)
    simp [sOk, hlow, hform, hdep, hne, hlive]

theorem Obj.settle_ownerHolds {n : Nat} {o : Obj} (h : o.ownerHolds = false) : (Obj.settle n o).ownerHolds = false := by
  unfold Obj.settle
  split
  · split
    · split
      · rfl
      · exact h
    · exact h
  · exact h

theorem tget_modObj (n : Nat) (f : Obj → Obj) : tget (modObj s n f).objs n {} = f (tget s.objs n {}) :=
  tget_tmod_same ..

theorem tfind_modObj_other {n j : Nat} (f : Obj → Obj) (h : j ≠ n) : tfind (modObj s n f).objs j = tfind s.objs j :=
  tfind_tput_other _ _ _ _ h

/-- The owner leaves the block, and no other object changes. -/
theorem allocFree_objs (s : State) (h : Nat) :
    (tget (allocFree s h).objs (h % 262144) {}).ownerHolds = false ∧
    ∀ k, k ≠ h % 262144 → tfind (allocFree s h).objs k = tfind s.objs k := by
  have hleft : (tget (modObj s (h % 262144) fun o => Obj.settle (h % 262144) { o with ownerHolds := false }).objs
      (h % 262144) {}).ownerHolds = false := by
    rw [tget_modObj]
    exact Obj.settle_ownerHolds rfl
  unfold allocFree reserveDrop objUnref
  dsimp only
  split
  · refine ⟨?_, fun k hk => by rw [tfind_modObj_other _ hk, modCtx_objs, tfind_modObj_other _ hk]⟩
    rw [tget_modObj]
    exact Obj.settle_ownerHolds hleft
  · exact ⟨hleft, fun k hk => tfind_modObj_other _ hk⟩

theorem allocFree_frame (s : State) (h : Nat) :
    allocFree s h = { s with ctxs := (allocFree s h).ctxs, objs := (allocFree s h).objs } := by
  unfold allocFree reserveDrop
  dsimp only
  split <;> rfl

/-- It looks at the objects, the contexts and the passes. -/
theorem allocFree_issued (h : u = { s with groups := u.groups, cores := u.cores, mem := u.mem }) (n : Nat) :
    (allocFree u n).objs = (allocFree s n).objs := by
  rw [h]
  unfold allocFree reserveDrop
  dsimp only
  rw [apply_ite State.objs, apply_ite State.objs]
  rfl

/-! ## The clauses together -/

theorem alloc_waits {sp : SplitRef} {w : IWord} (h : Issues s sp w .none i) (hop : wOp w = 0x2C0) (hlow : wA w < 64)
    (hmod : wD w % 4 = 0) (hdst : wD w < 64) (hform : i.w.commitForm = false)
    (hdep : depends s i (.s (wA w) :: (List.range 4).map (fun k => .s (wD w + k))) = false)
    (hroom : s.fly.allocs.length < 64) :
    ∃ t, exec (.alloc sp w) s = .next t ∧ FetchOnly s t i ∧ (i.hot s → t.mem = s.mem) ∧
      (∀ k, k ≠ i.key → tfind t.groups k = tfind s.groups k) ∧
      tfind t.groups i.key = some (i.stalled s (.allocResult (wD w))) ∧
      t = { s with groups := t.groups, cores := t.cores, mem := t.mem, fly := { s.fly with
        allocs := s.fly.allocs ++ [.split sp i.w.ctx (readS i.g (wA w)).toNat (wD w)] } } := by
  obtain ⟨hsp, hw, -⟩ := locate_inv h.found
  subst hsp hw
  obtain ⟨ho, hg⟩ := issueState_only h true
  have hexec : exec (.alloc i.sp i.iw) s = .next (allocOp (issueState s i true) (issueIss s i)) :=
    onLive_onIssue h (by rw [hop]; rfl)
  generalize issueState s i true = u at ho hg hexec
  have hfly : u.fly = s.fly := by rw [ho.1]
  have hact := allocOp_asks (s := u) (i := issueIss s i) hlow hmod hdst hform ((ho.depends _).trans hdep) (by rwa [hfly])
  obtain ⟨v, hv⟩ : ∃ v, v = { u with fly := { u.fly with
    allocs := u.fly.allocs ++ [AllocReq.split i.sp i.w.ctx (readS i.g (wA i.iw)).toNat (wD i.iw)] } } := ⟨_, rfl⟩
  have hcores : FetchOnly s v i := ho.2.2.2.of_cores (by rw [hv])
  have hmem : v.mem = u.mem := by rw [hv]
  have hgroups : v.groups = u.groups := by rw [hv]
  have hexec' : exec (.alloc i.sp i.iw) s = .next (stall v (issueIss s i) (.allocResult (wD i.iw))) := by
    rw [hv]
    exact hexec.trans (congrArg Host.Outcome.next hact)
  refine ⟨_, hexec', hcores.stall, fun hot => hmem.trans (ho.2.1 hot), fun k hk => ?_, ?_, ?_⟩
  · rw [stall_other (i := issueIss s i) hk, hgroups]
    exact ho.2.2.1 k hk
  · rw [← hgroups] at hg
    exact stall_find hg
  · rw [stall_frame, hv, ho.1]

theorem alloc_serves_split {sp : SplitRef} {ctx size d p h base : Nat} {gr : Group} {x : Split} (hruns : s.runs = true)
    (hn : nextAlloc s = some (p, .split sp ctx size d)) (hg : tfind s.groups (spKey sp) = some gr)
    (hb : allocBlock s ctx size = (h, base, v)) :
    ∃ t g, exec .allocServed s = .next t ∧ tfind t.groups (spKey sp) = some g ∧
      t = { s with
        rr := { s.rr with alloc := p }, groups := t.groups, objs := v.objs, allocGen := v.allocGen
        fly := { s.fly with allocs := s.fly.allocs.erase (.split sp ctx size d) } } ∧
      (∀ k y, k ≠ spKey sp → tfind s.groups k = some y → ∃ z, tfind t.groups k = some z ∧ z.sameRegs y) ∧
      g.vreg = gr.vreg ∧ g.preg = gr.preg ∧ g.acc = gr.acc ∧ g.seed = gr.seed ∧
      (∀ n, readS g n = if n = d then BitVec.ofNat 32 h else if n = d + 1 then 0 else
        if n = d + 2 then BitVec.ofNat 32 base else if n = d + 3 then BitVec.ofNat 32 (base / 2 ^ 32) else readS gr n) ∧
      (gr.splits = [(sp.sid, x)] → gr.stack = [] → x.why ≠ .unit →
        g.splits = [(sp.sid, { x.toReady (coreNow s sp.core) with pc := x.pc + 1 })]) := by
  have hkeep := unstallAll_keepsRegs (takeRequest s p (.split sp ctx size d)) (· == .unit)
  have hop := allocServedOp_split hn hb rfl
  obtain ⟨gr', hgr', hsame⟩ := hkeep (spKey sp) gr hg
  obtain ⟨g, hfind, hregs, halone⟩ := settleGroup_find (s := v.besides (takeRequest s p (.split sp ctx size d)).rr
    (takeRequest s p (.split sp ctx size d)).fly (unstallAll (takeRequest s p (.split sp ctx size d)) (· == .unit)).groups)
    (receiveBlock (coreNow s sp.core) sp.sid d h base) hgr'
  obtain ⟨hs, hp, hv, ha, hseed⟩ := Group.sameRegs_trans hregs (receiveBlock_sameRegs ..)
  obtain ⟨hs', hp', hv', ha', hseed'⟩ := hsame
  refine ⟨_, g, (onLive_runs hruns _).trans (congrArg Host.Outcome.next hop), hfind, ?_, fun k y hk hy => ?_, hv.trans hv', hp.trans hp',
    ha.trans ha', hseed.trans hseed', fun n => ?_, fun hsp hst hwhy => ?_⟩
  · rw [settleGroup_frame, allocBlock_frame hb]
    rfl
  · obtain ⟨z, hz, hzy⟩ := hkeep k y hy
    exact ⟨z, (settleGroup_other _ hk).trans hz, hzy⟩
  · have hsame : readS g n = readS (writeRegs gr' (blockRegs d h base)) n := congrArg (tget · n 0) hs
    rw [hsame, readS_blockRegs, show readS gr' n = readS gr n from congrArg (tget · n 0) hs']
  · have hquiet : tfind (unstallAll (takeRequest s p (.split sp ctx size d)) (· == .unit)).groups (spKey sp) = some gr := by
      refine unstallAll_quiet hg fun e he => ?_
      rw [hsp, List.mem_singleton] at he
      simp [he, hwhy]
    cases hgr'.symm.trans hquiet
    obtain ⟨hrst, hrsp⟩ := receiveBlock_alone (coreNow s sp.core) sp.sid d h base hsp hst
    rw [halone hrst (by rw [hrsp, hsp]; rfl), hrsp]

theorem nodeEnded_node {id n : Nat} {x : Inst} (hx : tfind s.insts id = some x) (hn : thas x.nodes n = true) :
    ∃ y, tfind (nodeEnded s id n).insts id = some y ∧ (y.node n).ended = 1 := by
  obtain ⟨r, hr⟩ := Option.isSome_iff_exists.mp hn
  refine ⟨{ x with nodes := tupd x.nodes n fun r => { r with ended := 1 } }, ?_, ?_⟩
  · unfold nodeEnded modNode modInst
    dsimp only
    rw [tfind_tupd_same, hx, Option.map_some]
  · unfold Inst.node tget
    dsimp only
    rw [tfind_tupd_same, hr]
    rfl

theorem alloc_serves_node {id n ctx cls off p h base : Nat} {x : Inst} {g : Graph} (hruns : s.runs = true)
    (hn : nextAlloc s = some (p, .node id n ctx cls off)) (hx : tfind s.insts id = some x) (hg : graphOf s x = some g)
    (hnode : thas x.nodes n = true) (hmac : macDrops s (g.param off) 16 = none)
    (hb : allocBlock s ctx (2 ^ (cls + 8)) = (h, base, v)) :
    ∃ t y, exec .allocServed s = .next t ∧ tfind t.insts id = some y ∧ (y.node n).ended = 1 ∧
      t.objs = v.objs ∧ t.fly.allocs = s.fly.allocs.erase (.node id n ctx cls off) ∧
      t.mem = (dmWrite v (polAt s g.ctx (g.param off)) (g.param off) (natBytes h 8 ++ natBytes base 8)).mem := by
  have hop := allocServedOp_node rfl hn hx hg hmac hb
  have hinsts : (dmWrite v (polAt s g.ctx (g.param off)) (g.param off) (natBytes h 8 ++ natBytes base 8)).insts = s.insts := by
    rw [dmWrite_frame, allocBlock_frame hb]
  have hobjs : (dmWrite v (polAt s g.ctx (g.param off)) (g.param off) (natBytes h 8 ++ natBytes base 8)).objs = v.objs := by
    rw [dmWrite_frame]
  rw [← hinsts] at hx
  generalize dmWrite v (polAt s g.ctx (g.param off)) (g.param off) (natBytes h 8 ++ natBytes base 8) = u at hop hinsts hobjs hx
  obtain ⟨y, hy, hended⟩ := nodeEnded_node (s := u.besides (takeRequest s p (.node id n ctx cls off)).rr
    (takeRequest s p (.node id n ctx cls off)).fly (unstallAll (takeRequest s p (.node id n ctx cls off)) (· == .unit)).groups)
    hx hnode
  exact ⟨_, y, (onLive_runs hruns _).trans (congrArg Host.Outcome.next hop), hy, hended, hobjs, rfl, rfl⟩

theorem free_releases {sp : SplitRef} {w : IWord} (h : Issues s sp w .none i) (hop : wOp w = 0x2C1) (hlow : wA w < 64)
    (hform : i.w.commitForm = false) (hdep : depends s i [.s (wA w)] = false) :
    (readS i.g (wA w) = 0 → RunsBare s (.free sp w) i) ∧
    (readS i.g (wA w) ≠ 0 → liveAlloc s i.w.ctx (readS i.g (wA w)).toNat = true →
      ∃ t, exec (.free sp w) s = .next t ∧ Moves s t i ∧ (i.hot s → t.mem = s.mem) ∧
        t.objs = (allocFree s (readS i.g (wA w)).toNat).objs ∧
        (tget t.objs ((readS i.g (wA w)).toNat % 262144) {}).ownerHolds = false ∧
        ∀ k, k ≠ (readS i.g (wA w)).toNat % 262144 → tfind t.objs k = tfind s.objs k) := by
  obtain ⟨hsp, hw, -⟩ := locate_inv h.found
  subst hsp hw
  obtain ⟨ho, hg⟩ := issueState_only h true
  have hexec : exec (.free i.sp i.iw) s = .next (freeOp (issueState s i true) (issueIss s i)) :=
    onLive_onIssue h (by rw [hop]; rfl)
  generalize issueState s i true = u at ho hg hexec
  obtain ⟨hzero, hlive⟩ := freeOp_goes (s := u) (i := issueIss s i) hlow hform ((ho.depends _).trans hdep)
  constructor
  · intro h0
    exact runsBare_of_advance ho hg (hexec.trans (congrArg Host.Outcome.next (hzero h0)))
  · intro h0 hl
    have hl' : liveAlloc u i.w.ctx (readS i.g (wA i.iw)).toNat = true := by
      rw [ho.1]
      exact hl
    have hobjs := allocFree_issued ho.1 (readS i.g (wA i.iw)).toNat
    obtain ⟨hleft, hkept⟩ := allocFree_objs s (readS i.g (wA i.iw)).toNat
    refine ⟨_, hexec.trans (congrArg Host.Outcome.next (hlive h0 hl')), moves_advance ?_ (i.standsIn_issueIss s), ?_, hobjs, ?_, ?_⟩
    · rw [allocFree_frame]
      exact hg
    · intro hot
      have hmem : (allocFree u (readS i.g (wA i.iw)).toNat).mem = u.mem := by
        rw [allocFree_frame]
      exact hmem.trans (ho.2.1 hot)
    · rw [← hobjs] at hleft
      exact hleft
    · rw [← hobjs] at hkept
      exact hkept

/-- Settles O43: a request is a stall, its service a write of registers or of the parameter block, and `free` the owner's
leaving the object. -/
theorem allocator : Obligations.Allocator := by
  unfold Obligations.Allocator
  refine ⟨?_, ?_, ?_, ?_, ?_⟩
  · intro s sp w i h hop hlow hmod hdst hform hdep hroom
    exact alloc_waits h hop hlow hmod hdst hform hdep hroom
  · intro s v sp ctx size d p h base gr x hruns hn hg hx hb
    exact alloc_serves_split hruns hn hg hb
  · intro s ctx size
    exact ⟨fun a n off k ha hn hoff hk => allocBlock_found ha hn hoff hk, allocBlock_none⟩
  · intro s v id n ctx cls off p h base x g hruns hn hx hg hnode hmac hb
    exact alloc_serves_node hruns hn hx hg hnode hmac hb
  · intro s sp w i h hop hlow hform hdep
    exact free_releases h hop hlow hform hdep

end Sys2Proof.Machine
end

section
/-! # Texture reads (R315, R319) -/

namespace Sys2Proof.Machine

set_option Elab.async false

variable {s t u : State} {i : Iss} {g : Group}

/-! ## Writes of vector registers -/

theorem mem_laneList {m : W32} {l : Nat} : l ∈ laneList m ↔ l < 32 ∧ m.getLsbD l = true := by
  simp [laneList, setBits]

theorem laneList_isEmpty {m : W32} : (laneList m).isEmpty = true ↔ m = 0 := by
  rw [List.isEmpty_iff, List.eq_nil_iff_forall_not_mem]
  constructor
  · intro h
    refine BitVec.eq_of_getLsbD_eq fun l hl => ?_
    have hn := h l
    rw [mem_laneList, not_and, Bool.not_eq_true] at hn
    exact (hn hl).trans BitVec.getLsbD_zero.symm
  · rintro rfl l hl
    exact absurd ((mem_laneList.mp hl).2.symm.trans BitVec.getLsbD_zero) (by decide)

theorem writeRegs_append (g : Group) (a b : List (RegId × W32)) : writeRegs g (a ++ b) = writeRegs (writeRegs g a) b :=
  List.foldl_append

theorem writeRegs_cons (g : Group) (e : RegId × W32) (r : List (RegId × W32)) :
    writeRegs g (e :: r) = writeRegs (writeReg g e.1 e.2) r := rfl

/-- Registers are apart by number and lane. -/
theorem readV_writeReg {n m l k : Nat} (hl : l < 32) (hk : k < 32) (v : W32) :
    readV (writeReg g (.v m k) v) n l = if n = m ∧ l = k then v else readV g n l := by
  have hunset (a : Nat) : (writeReg g (.v m k) v).unset a = g.unset a := rfl
  unfold readV
  rw [hunset, show (writeReg g (.v m k) v).vreg = tput g.vreg (m * 32 + k) v from rfl]
  by_cases h : n = m ∧ l = k
  · rw [if_pos h, h.1, h.2, tfind_tput_same]
  · rw [if_neg h, tfind_tput_other _ _ _ _ (by omega)]

/-- Values for consecutive registers of a lane. -/
def laneWrites (d l : Nat) (c : List W32) : List (RegId × W32) := c.zipIdx.map fun e => (.v (d + e.2) l, e.1)

theorem readV_laneWrites {n d l k : Nat} (c : List W32) (hl : l < 32) (hk : k < 32) :
    readV (writeRegs g (laneWrites d k c)) n l =
      if l = k ∧ d ≤ n ∧ n < d + c.length then c.getD (n - d) 0 else readV g n l := by
  have hfrom (a : Nat) (g : Group) : readV (writeRegs g ((c.zipIdx a).map fun e => (.v (d + e.2) k, e.1))) n l =
      if l = k ∧ d + a ≤ n ∧ n < d + a + c.length then c.getD (n - (d + a)) 0 else readV g n l := by
    induction c generalizing a g with
    | nil => exact (if_neg (by rw [List.length_nil]; omega)).symm
    | cons v c ih =>
      rw [List.zipIdx_cons, List.map_cons, writeRegs_cons, ih (a + 1), readV_writeReg hl hk, List.length_cons]
      by_cases hn : n = d + a
      · subst hn
        by_cases hlk : l = k
        · rw [if_neg (by omega), if_pos ⟨rfl, hlk⟩, if_pos (by omega), Nat.sub_self]
          rfl
        · rw [if_neg (by tauto), if_neg (by tauto), if_neg (by tauto)]
      · rw [if_neg (c := n = d + a ∧ l = k) (by tauto)]
        by_cases hin : l = k ∧ d + (a + 1) ≤ n ∧ n < d + (a + 1) + c.length
        · rw [if_pos hin, if_pos (by omega), show n - (d + a) = n - (d + (a + 1)) + 1 by omega]
          rfl
        · rw [if_neg hin, if_neg (by omega)]
  exact hfrom 0 g

/-- The same for each of some lanes. -/
theorem readV_lanesWrites {n d l : Nat} {ls : List Nat} (f : Nat → List W32) (len : Nat) (hf : ∀ k, (f k).length = len)
    (hls : ∀ k ∈ ls, k < 32) (hl : l < 32) :
    readV (writeRegs g (ls.flatMap fun k => laneWrites d k (f k))) n l =
      if l ∈ ls ∧ d ≤ n ∧ n < d + len then (f l).getD (n - d) 0 else readV g n l := by
  induction ls generalizing g with
  | nil => exact (if_neg (by simp)).symm
  | cons k r ih =>
    rw [List.flatMap_cons, writeRegs_append, ih fun a ha => hls a (List.mem_cons_of_mem _ ha),
      readV_laneWrites _ hl (hls k List.mem_cons_self), hf k]
    by_cases hlk : l = k
    · by_cases hn : d ≤ n ∧ n < d + len
      · simp [hlk, hn]
      · rw [if_neg (by tauto), if_neg (by tauto), if_neg (by tauto)]
    · simp [hlk]

/-- Writes of some registers of some lanes. -/
def WritesLanes (d len : Nat) (ls : List Nat) (ws : List (RegId × W32)) : Prop :=
  ∀ e ∈ ws, ∃ n l, e.1 = .v n l ∧ l ∈ ls ∧ d ≤ n ∧ n < d + len

theorem writesLanes_laneWrites {d len l : Nat} {ls : List Nat} {c : List W32} (hc : c.length = len) (hl : l ∈ ls) :
    WritesLanes d len ls (laneWrites d l c) := by
  intro e he
  obtain ⟨a, ha, rfl⟩ := List.mem_map.mp he
  have hlt := (List.mem_zipIdx ha).2.1
  exact ⟨_, _, rfl, hl, by omega, by omega⟩

theorem WritesLanes.append {d len : Nat} {ls : List Nat} {a b : List (RegId × W32)} (ha : WritesLanes d len ls a)
    (hb : WritesLanes d len ls b) : WritesLanes d len ls (a ++ b) := fun e he =>
  (List.mem_append.mp he).elim (ha e) (hb e)

/-- They change vector registers only, and of these only the named ones. -/
theorem WritesLanes.frame {d len : Nat} {ls : List Nat} {ws : List (RegId × W32)} (h : WritesLanes d len ls ws) :
    writeRegs g ws = { g with vreg := (writeRegs g ws).vreg } := by
  induction ws generalizing g with
  | nil => rfl
  | cons e r ih =>
    obtain ⟨n, l, he, -⟩ := h e List.mem_cons_self
    rw [writeRegs_cons, he, ih fun a ha => h a (List.mem_cons_of_mem _ ha)]
    rfl

theorem WritesLanes.readV_other {d len n l : Nat} {ls : List Nat} {ws : List (RegId × W32)} (h : WritesLanes d len ls ws)
    (hls : ∀ k ∈ ls, k < 32) (hl : l < 32) (ho : n < d ∨ d + len ≤ n ∨ l ∉ ls) : readV (writeRegs g ws) n l = readV g n l := by
  induction ws generalizing g with
  | nil => rfl
  | cons e r ih =>
    obtain ⟨m, k, he, hk, hlo, hhi⟩ := h e List.mem_cons_self
    have hne : ¬(n = m ∧ l = k) := by
      rintro ⟨rfl, rfl⟩
      rcases ho with ho | ho | ho
      · omega
      · omega
      · exact ho hk
    rw [writeRegs_cons, ih fun a ha => h a (List.mem_cons_of_mem _ ha), he, readV_writeReg hl (hls k hk), if_neg hne]

/-! ## What the lanes read (Table 15-13) -/

theorem pxDecode_length (f raw : Nat) : (pxDecode f raw).length = 4 := by
  unfold pxDecode
  dsimp only
  split <;> rfl

/-- A raw read, or a nearest read of one level. -/
def texPlain (raw : Bool) (d : BitVec 256) : Bool := raw || (bits d 115 114 == 0 && tdLevels d == 1)

/-- The texel a lane reads, decoded. -/
def laneTexel (s : State) (i : Iss) (raw : Bool) (d : BitVec 256) (l : Nat) : List W32 :=
  let k := texLevel raw d (readV i.g (wC i.iw) l)
  pxDecode (tdFmt d) (texel s d k (texCoord raw (readV i.g (wB i.iw) l) (tdW d k))
    (texCoord raw (readV i.g (wB i.iw + 1) l) (tdH d k))).2

/-- One lane's step through the executing lanes. -/
def texStep (i : Iss) (raw : Bool) (d : BitVec 256) (acc : List (RegId × W32) × State) (l : Nat) :
    List (RegId × W32) × State :=
  (acc.1 ++ laneWrites (wD i.iw) l (texLane acc.2 i raw d l).1, (texLane acc.2 i raw d l).2)

theorem texLane_plain {raw : Bool} {d : BitVec 256} (h : texPlain raw d = true) (s : State) (i : Iss) (l : Nat) :
    texLane s i raw d l = (laneTexel s i raw d l, s) := if_pos h

theorem texLane_free {raw : Bool} {d : BitVec 256} (h : texPlain raw d = false) (s : State) (i : Iss) (l : Nat) :
    ∃ c, c.length = 4 ∧ texLane s i raw d l = (c, { s with free := s.free + 4 }) := by
  refine ⟨_, ?_, if_neg (by rw [← texPlain, h]; exact Bool.false_ne_true)⟩
  rw [List.length_map, List.length_range]

/-- Plain reads leave the state and give each lane its texel. -/
theorem texSteps_plain {raw : Bool} {d : BitVec 256} (h : texPlain raw d = true) (ls : List Nat) (ws : List (RegId × W32)) :
    ls.foldl (texStep i raw d) (ws, s) =
      (ws ++ ls.flatMap (fun l => laneWrites (wD i.iw) l (laneTexel s i raw d l)), s) := by
  induction ls generalizing ws with
  | nil => exact Prod.ext (List.append_nil ws).symm rfl
  | cons l r ih =>
    have hstep : texStep i raw d (ws, s) l = (ws ++ laneWrites (wD i.iw) l (laneTexel s i raw d l), s) := by
      unfold texStep
      rw [texLane_plain h]
    rw [List.foldl_cons, hstep, ih, List.flatMap_cons, List.append_assoc]

/-- Others take free values for the registers of the lanes. -/
theorem texSteps_free {raw : Bool} {d : BitVec 256} (h : texPlain raw d = false) {as ls : List Nat} (hsub : ∀ l ∈ ls, l ∈ as)
    {ws : List (RegId × W32)} (hws : WritesLanes (wD i.iw) 4 as ws) :
    ∃ ws' fr, ls.foldl (texStep i raw d) (ws, s) = (ws', { s with free := fr }) ∧ WritesLanes (wD i.iw) 4 as ws' := by
  induction ls generalizing s ws with
  | nil => exact ⟨ws, s.free, rfl, hws⟩
  | cons l r ih =>
    obtain ⟨c, hc, hlane⟩ := texLane_free h s i l
    have hstep : texStep i raw d (ws, s) l = (ws ++ laneWrites (wD i.iw) l c, { s with free := s.free + 4 }) := by
      unfold texStep
      rw [hlane]
    have hmore := hws.append (writesLanes_laneWrites hc (hsub l List.mem_cons_self))
    obtain ⟨ws', fr, hfold, hall⟩ := ih (s := { s with free := s.free + 4 }) (fun a ha => hsub a (List.mem_cons_of_mem _ ha)) hmore
    refine ⟨ws', fr, ?_, hall⟩
    rw [List.foldl_cons, hstep, hfold]

/-! ## The instruction -/

/-- The encoding of a texture read is legal and nothing in flight holds its registers. -/
structure TexFree (s : State) (i : Iss) : Prop where
  pair  : sPairOk (wA i.iw) = true
  coord : vRunOk i (wB i.iw) 2 = true
  level : vOk i (wC i.iw) = true
  dst   : vRunOk i (wD i.iw) 4 = true
  quiet : depends s i (guardRegs i ++ ([.s (wA i.iw), .s (wA i.iw + 1)] ++ vRegs (wB i.iw) (laneList i.lanes) ++
    vRegs (wB i.iw + 1) (laneList i.lanes) ++ vRegs (wC i.iw) (laneList i.lanes) ++
    (List.range 4).flatMap (fun k => vRegs (wD i.iw + k) (laneList i.lanes)))) = false

theorem texOp_noLanes (raw : Bool) (h : TexFree s i) (hl : i.lanes = 0) : texOp raw s i = advance s i := by
  unfold texOp
  simp only [h.pair, h.coord, h.level, h.dst, h.quiet, laneList_isEmpty.mpr hl, Bool.not_true, Bool.or_false,
    Bool.false_eq_true, if_false, if_true]

/-- A permitted read without an error writes what its lanes read, and moves on. -/
theorem texOp_reads {raw : Bool} {d : BitVec 256} (h : TexFree s i) (hl : i.lanes ≠ 0)
    (hmay : wgMay s i.w (readS64 i.g (wA i.iw) : Nat) 32 .rd = true)
    (hd : d = BitVec.ofNat 256 (dmNum s (readS64 i.g (wA i.iw)) 32)) (hok : tdOk d = true)
    (hall : ((laneList i.lanes).flatMap (texRanges s i raw d)).all (fun r => wgMay s i.w (r.1 : Nat) r.2 .rd) = true)
    (hsound : ((readS64 i.g (wA i.iw), 32) :: (laneList i.lanes).flatMap (texRanges s i raw d)).findSome?
      (fun r => dmFault s r.1 r.2) = none) {ws : List (RegId × W32)} {v : State}
    (hfold : (laneList i.lanes).foldl (texStep i raw d) ([], s) = (ws, v)) :
    texOp raw s i = advance (modGroup v i.key fun g => writeRegs g ws) i := by
  have hne : (laneList i.lanes).isEmpty = false := by
    rw [Bool.eq_false_iff, ne_eq, laneList_isEmpty]
    exact hl
  have hfind : ((laneList i.lanes).flatMap (texRanges s i raw d)).find? (fun r => !wgMay s i.w (r.1 : Nat) r.2 .rd) = none := by
    rw [List.find?_eq_none]
    intro r hr
    rw [List.all_eq_true.mp hall r hr]
    exact Bool.false_ne_true
  unfold texOp
  simp only [h.pair, h.coord, h.level, h.dst, h.quiet, hne, hmay, ← hd, hok, hfind, hsound, Bool.not_true, Bool.or_false,
    Bool.false_eq_true, if_false]
  exact congrArg (fun p => advance (modGroup p.2 i.key fun g => writeRegs g p.1) i) hfold

/-- The two instructions differ in their opcode and in the filtering. -/
theorem exec_tex (raw : Bool) (sp : SplitRef) (w : IWord) (s : State) :
    exec (if raw then .tload sp w else .tex sp w) s =
      onLive s (onIssue s sp w (· == if raw then 0x381 else 0x380) .none (texOp raw)) := by
  cases raw <;> rfl

/-- What the issue leaves untouched of a texture read. -/
theorem IssueOnly.texFree (h : IssueOnly s u i) (hf : TexFree s i) : TexFree u (issueIss s i) :=
  ⟨hf.pair, hf.coord, hf.level, hf.dst, (h.depends _).trans hf.quiet⟩

theorem IssueOnly.wgMay (h : IssueOnly s u i) (w : Wg) (a : Int) (n : Nat) (r : Right) : wgMay u w a n r = wgMay s w a n r := by
  rw [h.1]
  rfl

theorem IssueOnly.modGroup {f : Group → Group} (h : IssueOnly s u i) : IssueOnly s (modGroup u i.key f) i := by
  obtain ⟨hf, hm, hg, hc⟩ := h
  refine ⟨?_, hm, fun k hk => (modGroup_other _ hk).trans (hg k hk), hc.of_cores rfl⟩
  unfold Machine.modGroup
  dsimp only
  rw [hf]

/-- The issuing group after writes of vector registers, its split gone on. -/
theorem advance_writes {d len : Nat} {ls : List Nat} {ws : List (RegId × W32)} (hws : WritesLanes d len ls ws)
    (hg : tfind u.groups i.key = some (issueIss s i).g) :
    ∃ g, tfind (advance (modGroup u i.key fun g => writeRegs g ws) (issueIss s i)).groups i.key = some g ∧
      g.sameRegs (writeRegs (issueIss s i).g ws) ∧
      (i.lone → g.stack = [] ∧ g.splits = [(i.sp.sid, i.at_ s (nextPc i))]) := by
  refine advance_alone (modGroup_find _ hg) fun hlone => ?_
  rw [hws.frame]
  exact issueIss_lone hlone

/-- Registers that agree are read alike. -/
theorem Group.sameRegs.readV {g h : Group} (hr : g.sameRegs h) (n l : Nat) : readV g n l = readV h n l := by
  obtain ⟨-, -, hv, -, hs⟩ := hr
  unfold Machine.readV Group.unset
  rw [hv, hs]

/-- A plain read writes the texels. -/
theorem texOp_runs {f : Nat → List W32} {d : Nat} (hlen : ∀ l, (f l).length = 4) (ho : IssueOnly s u i)
    (hg : tfind u.groups i.key = some (issueIss s i).g) {c : Instr}
    (he : exec c s = .next (advance (modGroup u i.key fun g =>
      writeRegs g ((laneList i.lanes).flatMap fun l => laneWrites d l (f l))) (issueIss s i))) :
    RunsOn s c i (RegsAre i · (fun _ => none) (fun _ _ => none) (fun n l =>
      if i.lanes.getLsbD l = true ∧ d ≤ n ∧ n < d + 4 then some ((f l).getD (n - d) 0) else none)) := by
  have hws : WritesLanes d 4 (laneList i.lanes) ((laneList i.lanes).flatMap fun l => laneWrites d l (f l)) := by
    intro e hmem
    obtain ⟨l, hl, hel⟩ := List.mem_flatMap.mp hmem
    exact writesLanes_laneWrites (hlen l) hl e hel
  obtain ⟨g, hfind, hr, hl⟩ := advance_writes hws hg
  have hreadV := hr.readV
  rw [hws.frame] at hr
  obtain ⟨hs, hp, -, ha, hseed⟩ := hr
  refine ⟨_, g, he, ho.modGroup.advance, hfind, hl, ⟨fun n => congrArg (tget · n 0) hs, fun n l _ => ?_, fun n l hl => ?_, ha, hseed⟩⟩
  · exact congrArg (fun t => (tget t n 0).getLsbD l) hp
  · rw [hreadV, readV_lanesWrites f 4 hlen (fun k hk => (mem_laneList.mp hk).1) hl]
    have hold : readV (issueIss s i).g n l = readV i.g n l := rfl
    rw [hold]
    by_cases hin : i.lanes.getLsbD l = true ∧ d ≤ n ∧ n < d + 4
    · rw [if_pos ⟨mem_laneList.mpr ⟨hl, hin.1⟩, hin.2⟩, if_pos hin]
      rfl
    · rw [if_neg fun hc => hin ⟨(mem_laneList.mp hc.1).2, hc.2⟩, if_neg hin]
      rfl

/-- A read whose texels are free writes registers of its lanes, and draws on the free values. -/
theorem texOp_draws {ws : List (RegId × W32)} {fr d : Nat} (hws : WritesLanes d 4 (laneList i.lanes) ws) (ho : IssueOnly s u i)
    (hg : tfind u.groups i.key = some (issueIss s i).g) {c : Instr}
    (he : exec c s = .next (advance (modGroup { u with free := fr } i.key fun g => writeRegs g ws) (issueIss s i))) :
    ∃ t g, exec c s = .next t ∧ tfind t.groups i.key = some g ∧ FetchOnly s t i ∧
      (∀ k, k ≠ i.key → tfind t.groups k = tfind s.groups k) ∧
      t = { s with groups := t.groups, cores := t.cores, mem := u.mem, free := t.free } ∧
      g.sreg = i.g.sreg ∧ g.preg = i.g.preg ∧ g.acc = i.g.acc ∧
      ∀ n l, l < 32 → (n < d ∨ d + 4 ≤ n ∨ i.lanes.getLsbD l = false) → readV g n l = readV i.g n l := by
  obtain ⟨g, hfind, hr, -⟩ := advance_writes (u := { u with free := fr }) hws hg
  have hreadV := hr.readV
  rw [hws.frame] at hr
  obtain ⟨hs, hp, -, ha, -⟩ := hr
  obtain ⟨hf, -, hothers, hcores⟩ := ho
  refine ⟨_, g, he, hfind, hcores.of_cores rfl, fun k hk => ?_, ?_, hs, hp, ha, fun n l hl hn => ?_⟩
  · exact (advance_other (i := issueIss s i) hk).trans ((modGroup_other _ hk).trans (hothers k hk))
  · rw [advance_frame, modGroup_frame, hf]
  · rw [hreadV, hws.readV_other (fun k hk => (mem_laneList.mp hk).1) hl]
    · rfl
    · rcases hn with hn | hn | hn
      · exact .inl hn
      · exact .inr (.inl hn)
      · refine .inr (.inr fun hm => ?_)
        rw [(mem_laneList.mp hm).2] at hn
        cases hn

/-- Settles O50: the lanes are read one by one; a plain read leaves the state, another takes free values. -/
theorem textures : Obligations.Textures := by
  unfold Obligations.Textures
  intro s u sp w i a d raw h hu hop hlow heven hcoord hlevel hdst hdep
  obtain ⟨hsp, hw, -⟩ := locate_inv h.found
  subst hsp hw
  obtain ⟨ho, hg⟩ := issueState_only h true
  have hexec : exec (if raw then .tload i.sp i.iw else .tex i.sp i.iw) s = .next (texOp raw u (issueIss s i)) := by
    rw [exec_tex, hu]
    exact onLive_onIssue h (by rw [hop]; exact beq_self_eq_true _)
  rw [← hu] at ho hg
  have hfree : TexFree u (issueIss s i) := ho.texFree
    ⟨by simp [sPairOk, hlow, heven], decide_eq_true hcoord, decide_eq_true hlevel, decide_eq_true hdst, hdep⟩
  refine ⟨fun hl => runsBare_of_advance ho hg ?_, fun hl ha hmay hd hok hall hsound => ?_⟩
  · rw [hexec, texOp_noLanes raw hfree hl]
  · subst ha
    have hreads {ws v} := texOp_reads (ws := ws) (v := v) hfree hl ((ho.wgMay ..).trans hmay) hd hok
      (by simp only [ho.wgMay]; exact hall) hsound
    have hplain : texPlain raw d = true ↔ raw = true ∨ bits d 115 114 = 0 ∧ tdLevels d = 1 := by
      simp [texPlain]
    refine ⟨fun hp => ?_, fun hraw hp => ?_⟩
    · have hfold := texSteps_plain (hplain.mpr hp) (i := issueIss s i) (s := u) (laneList i.lanes) []
      exact texOp_runs (f := laneTexel u (issueIss s i) raw d) (fun l => pxDecode_length _ _) ho hg
        (hexec.trans (congrArg Host.Outcome.next (hreads hfold)))
    · have hnot : texPlain raw d = false := by
        rw [Bool.eq_false_iff, ne_eq, hplain, hraw]
        simpa using hp
      obtain ⟨ws, fr, hfold, hws⟩ := texSteps_free hnot (i := issueIss s i) (s := u) (as := laneList i.lanes)
        (ls := laneList i.lanes) (fun _ hl => hl) (ws := []) (fun _ he => absurd he List.not_mem_nil)
      rw [hraw] at hexec
      exact texOp_draws hws ho hg (hexec.trans (congrArg Host.Outcome.next (by rw [← hraw]; exact hreads hfold)))

end Sys2Proof.Machine
end

section
/-! # Counters: watches, and signals to counters and fences (R119, R208, R209, R259 to R263) -/

namespace Sys2Proof.Machine

set_option Elab.async false

variable {s t u v : State} {i : Iss} {g : Group}

/-! ## Counts -/

/-- Counts are in the cores and in the hub. -/
theorem ctrGet_congr (hc : ∀ c, (coreOf t c).ctrs = (coreOf s c).ctrs) (hh : t.hub = s.hub) (home : Option Nat) (m : Nat) :
    ctrGet t home m = ctrGet s home m := by
  cases home with
  | none => exact congrArg (fun h => (tget h m {}).count) hh
  | some c => exact congrArg (tget · m 0) (hc c)

theorem ctrGet_modCore (core : Nat) (f : Core → Core) (hf : ∀ c, (f c).ctrs = c.ctrs) (home : Option Nat) (m : Nat) :
    ctrGet (modCore s core f) home m = ctrGet s home m := by
  refine ctrGet_congr (s := s) (t := modCore s core f) (fun c => ?_) rfl home m
  by_cases hc : c = core
  · rw [hc, coreOf_modCore_same, hf]
  · rw [coreOf_modCore_other _ _ _ _ hc]

theorem ctrSet_frame (s : State) (home : Option Nat) (k : Nat) (c : W32) :
    ctrSet s home k c = { s with cores := (ctrSet s home k c).cores, hub := (ctrSet s home k c).hub } := by
  cases home <;> rfl

theorem ctrGet_ctrSet_same (s : State) (home : Option Nat) (k : Nat) (c : W32) : ctrGet (ctrSet s home k c) home k = c := by
  cases home with
  | none => exact congrArg Hub.count (hubOf_modHub_same ..)
  | some core =>
    show tget (coreOf (modCore s core _) core).ctrs k 0 = c
    rw [coreOf_modCore_same]
    by_cases h : c = 0
    · simp [h, tget]
    · exact (congrArg (tget · k 0) (if_neg h)).trans (tget_tput_same ..)

theorem ctrGet_ctrSet_other {home h : Option Nat} {k m : Nat} (c : W32) (hne : ¬(h = home ∧ m = k)) :
    ctrGet (ctrSet s home k c) h m = ctrGet s h m := by
  cases home with
  | none =>
    cases h with
    | none => exact congrArg Hub.count (hubOf_modHub_other _ _ _ _ fun hm => hne ⟨rfl, hm⟩)
    | some d => rfl
  | some core =>
    cases h with
    | none => rfl
    | some d =>
      show tget (coreOf (modCore s core _) d).ctrs m 0 = tget (coreOf s d).ctrs m 0
      by_cases hd : d = core
      · have hm : m ≠ k := fun hm => hne ⟨congrArg some hd, hm⟩
        rw [hd, coreOf_modCore_same]
        dsimp only
        split
        · rw [tget, tget, tfind_tdel, if_neg hm]
        · exact tget_tput_other _ _ _ _ _ hm
      · rw [coreOf_modCore_other _ _ _ _ hd]

/-! ## A counter is evaluated (R261) -/

theorem runWatches_none {l k : List Watch} {c d : W32} (h : runWatches l c = (d, k, [])) : d = c := by
  induction l generalizing k with
  | nil =>
    cases h
    rfl
  | cons w r ih =>
    unfold runWatches at h
    split at h
    · cases h
    · rcases hr : runWatches r c with ⟨d', k', f'⟩
      rw [hr] at h
      cases h
      exact ih hr

/-- A count that no watch takes stays. -/
theorem runCycles_none {n : Nat} {l : List Watch} {c d : W32} (h : runCycles n l c = (d, [])) : d = c := by
  cases n with
  | zero =>
    cases h
    rfl
  | succ n =>
    unfold runCycles at h
    rcases hr : runWatches l c with ⟨d', k', f'⟩
    rw [hr] at h
    cases f' with
    | nil =>
      cases h
      exact runWatches_none hr
    | cons w r => cases h

/-- What the evaluation of a counter may change. -/
def CtrsOnly (s t : State) : Prop :=
  t = { s with groups := t.groups, cores := t.cores, hub := t.hub
               fly := { s.fly with watches := t.fly.watches, wakes := t.fly.wakes } }

theorem CtrsOnly.rfl_ : CtrsOnly s s := rfl

theorem CtrsOnly.trans (h : CtrsOnly s t) (h' : CtrsOnly t u) : CtrsOnly s u := by
  unfold CtrsOnly at h h' ⊢
  rw [h', h]

/-- Splits that wait for a place of a watch may try again; registers stay. -/
def WatchersKept (s t : State) : Prop :=
  ∀ k g, tfind s.groups k = some g → ∃ g', tfind t.groups k = some g' ∧ g'.sameRegs g ∧
    ((∀ e ∈ g.splits, e.2.st ≠ .stalled) → g' = g)

theorem WatchersKept.of_groups (h : t.groups = s.groups) : WatchersKept s t :=
  fun _ g hg => ⟨g, by rw [h, hg], Group.sameRegs_rfl, fun _ => rfl⟩

theorem WatchersKept.trans (h : WatchersKept s t) (h' : WatchersKept t u) : WatchersKept s u := fun k g hg => by
  obtain ⟨g', hg', hr, hq⟩ := h k g hg
  obtain ⟨g'', hg'', hr', hq'⟩ := h' k g' hg'
  exact ⟨g'', hg'', Group.sameRegs_trans hr' hr, fun hn => (hq' (by rw [hq hn]; exact hn)).trans (hq hn)⟩

theorem unstallAll_watchersKept (s : State) (q : Why → Bool) : WatchersKept s (unstallAll s q) := fun k g hg => by
  obtain ⟨g', hg', hr⟩ := unstallAll_keepsRegs s q k g hg
  refine ⟨g', hg', hr, fun hn => ?_⟩
  have hquiet := unstallAll_quiet (q := q) hg fun e he => by simp [hn e he]
  rw [hg'] at hquiet
  exact Option.some.inj hquiet

/-- Words from outside that a core has seen count as its own again. -/
def dropOutside (s : State) (home : Option Nat) (k : Nat) (fired : List Watch) : State :=
  match home with
  | some h => if fired.any (·.sp.core == h) then modCore s h (fun x => { x with ctrOut := x.ctrOut.filter (· != k) }) else s
  | none => s

/-- The watches that fire leave, with a message each. -/
def fireWatches (s : State) (home : Option Nat) (k : Nat) (fired : List Watch) (out : Nat → Bool) : State :=
  { s with fly := { s.fly with
    watches := s.fly.watches.filter (fun w => !(onCtr home k w && fired.contains w))
    wakes := s.fly.wakes ++ fired.map fun w => ({ sp := w.sp, flash := out w.sp.core } : WakeMsg) } }

theorem evalCtr_none {home : Option Nat} {k : Nat} {d : W32}
    (h : runCycles ((s.fly.watches.filter (onCtr home k)).length + 1) (s.fly.watches.filter (onCtr home k))
      (ctrGet s home k) = (d, [])) : evalCtr s home k = s := by
  unfold evalCtr
  simp only [h]
  rfl

theorem evalCtr_fires {home : Option Nat} {k : Nat} {d : W32} {w : Watch} {r : List Watch}
    (h : runCycles ((s.fly.watches.filter (onCtr home k)).length + 1) (s.fly.watches.filter (onCtr home k))
      (ctrGet s home k) = (d, w :: r)) :
    evalCtr s home k = unstallAll (fireWatches (dropOutside (ctrSet s home k d) home k (w :: r)) home k (w :: r)
      (outsideOf s home k)) (· == .watchPlace) := by
  unfold evalCtr
  simp only [h]
  cases home <;> rfl

theorem dropOutside_frame (s : State) (home : Option Nat) (k : Nat) (fired : List Watch) :
    dropOutside s home k fired = { s with cores := (dropOutside s home k fired).cores } := by
  unfold dropOutside
  split
  · split <;> rfl
  · rfl

theorem ctrGet_dropOutside (s : State) (home : Option Nat) (k : Nat) (fired : List Watch) (h : Option Nat) (m : Nat) :
    ctrGet (dropOutside s home k fired) h m = ctrGet s h m := by
  unfold dropOutside
  split
  · split
    · exact ctrGet_modCore _ _ (by intro; rfl) h m
    · rfl
  · rfl

theorem evalCtr_only (s : State) (home : Option Nat) (k : Nat) : CtrsOnly s (evalCtr s home k) := by
  rcases h : runCycles ((s.fly.watches.filter (onCtr home k)).length + 1) (s.fly.watches.filter (onCtr home k))
    (ctrGet s home k) with ⟨d, _ | ⟨w, r⟩⟩
  · rw [evalCtr_none h]
    rfl
  · rw [evalCtr_fires h, unstallAll_frame, fireWatches, dropOutside_frame, ctrSet_frame]
    rfl

theorem evalCtr_watchersKept (s : State) (home : Option Nat) (k : Nat) : WatchersKept s (evalCtr s home k) := by
  rcases h : runCycles ((s.fly.watches.filter (onCtr home k)).length + 1) (s.fly.watches.filter (onCtr home k))
    (ctrGet s home k) with ⟨d, _ | ⟨w, r⟩⟩
  · rw [evalCtr_none h]
    exact .of_groups rfl
  · rw [evalCtr_fires h]
    refine WatchersKept.trans (.of_groups ?_) (unstallAll_watchersKept _ _)
    rw [fireWatches, dropOutside_frame, ctrSet_frame]

/-- The evaluation does what R261 says. -/
theorem evalCtr_evaluates (s : State) (home : Option Nat) (k : Nat) :
    Evaluates s (evalCtr s home k) home k (ctrGet s home k) := by
  intro d f h
  cases f with
  | nil =>
    rw [evalCtr_none h, runCycles_none h]
    refine ⟨rfl, (List.filter_eq_self.mpr fun w _ => ?_).symm, (List.append_nil _).symm, fun _ _ _ => rfl⟩
    simp
  | cons w r =>
    have hctr (h : Option Nat) (m : Nat) (q : Why → Bool) (out : Nat → Bool) :
        ctrGet (unstallAll (fireWatches (dropOutside (ctrSet s home k d) home k (w :: r)) home k (w :: r) out) q) h m =
          ctrGet (ctrSet s home k d) h m := by
      rw [unstallAll_frame]
      exact ctrGet_dropOutside ..
    have hfly (q : Why → Bool) (out : Nat → Bool) :
        (unstallAll (fireWatches (dropOutside (ctrSet s home k d) home k (w :: r)) home k (w :: r) out) q).fly =
          (fireWatches s home k (w :: r) out).fly := by
      rw [unstallAll_frame, fireWatches, dropOutside_frame, ctrSet_frame]
      rfl
    rw [evalCtr_fires h]
    refine ⟨?_, ?_, ?_, fun h m hne => ?_⟩
    · rw [hctr, ctrGet_ctrSet_same]
    · rw [hfly]
      rfl
    · rw [hfly, fireWatches, List.map_append, List.map_map]
      rfl
    · rw [hctr, ctrGet_ctrSet_other _ hne]

/-- The count it starts from may have been set, and what follows may leave counts and messages alone. -/
theorem Evaluates.widen {home : Option Nat} {k : Nat} {c : W32} {a b : State} (h : Evaluates a b home k c) (hfa : a.fly = s.fly)
    (ha : ∀ h m, ¬(h = home ∧ m = k) → ctrGet a h m = ctrGet s h m) (hft : t.fly = b.fly)
    (ht : ∀ h m, ctrGet t h m = ctrGet b h m) : Evaluates s t home k c := by
  intro d f hrun
  rw [← hfa] at hrun ⊢
  obtain ⟨hd, hw, hm, ho⟩ := h d f hrun
  rw [hft, ht]
  exact ⟨hd, hw, hm, fun h m hne => (ht h m).trans ((ho h m hne).trans (ha h m hne))⟩

/-- The counters of a core and the hub are evaluated and others keep their counts: what a change of one does. -/
structure Counts (s t : State) (home : Option Nat) (k : Nat) (c : W32) : Prop where
  only  : CtrsOnly s t
  kept  : WatchersKept s t
  evals : Evaluates s t home k c

/-- Setting a count in a state that differs in the marks of words from outside, then evaluating it. -/
theorem counts_evalCtr {home : Option Nat} {k : Nat} {c : W32} {a : State} (hf : a = { s with cores := a.cores, hub := a.hub })
    (hc : ctrGet a home k = c) (ho : ∀ h m, ¬(h = home ∧ m = k) → ctrGet a h m = ctrGet s h m) :
    Counts s (evalCtr a home k) home k c := by
  refine ⟨CtrsOnly.trans ?_ (evalCtr_only a home k), (WatchersKept.of_groups ?_).trans (evalCtr_watchersKept a home k), ?_⟩
  · unfold CtrsOnly
    rw [hf]
  · rw [hf]
  · rw [← hc]
    exact (evalCtr_evaluates a home k).widen (by rw [hf]) ho rfl fun _ _ => rfl

/-! ## A signal to a counter (R208, R259) -/

/-- The word from outside a core is marked there. -/
def markOutside (s : State) (home : Option Nat) (k : Nat) (src : Option Nat) : State :=
  match home with
  | some c =>
    if src == some c then s
    else modCore s c (fun x => { x with ctrOut := if x.ctrOut.contains k then x.ctrOut else k :: x.ctrOut })
  | none => s

theorem markOutside_frame (s : State) (home : Option Nat) (k : Nat) (src : Option Nat) :
    markOutside s home k src = { s with cores := (markOutside s home k src).cores } := by
  unfold markOutside
  split
  · split <;> rfl
  · rfl

theorem ctrGet_markOutside (s : State) (home : Option Nat) (k : Nat) (src : Option Nat) (h : Option Nat) (m : Nat) :
    ctrGet (markOutside s home k src) h m = ctrGet s h m := by
  unfold markOutside
  split
  · split
    · rfl
    · exact ctrGet_modCore _ _ (by intro; rfl) h m
  · rfl

theorem ctrAdd_away {k : Nat} (h : ringAway s k = true) (v : W32) (src : Option Nat) : ctrAdd s none k v src = s := by
  unfold ctrAdd
  rw [h]
  rfl

theorem ctrAdd_counts {home : Option Nat} {k : Nat} (h : home = none → ringAway s k = false) (v : W32) (src : Option Nat) :
    Counts s (ctrAdd s home k v src) home k (ctrGet s home k + v) := by
  have haway : (home == none && ringAway s k) = false := by
    cases home with
    | none => exact h rfl
    | some c => rfl
  have heq : ctrAdd s home k v src = evalCtr (markOutside (ctrSet s home k (ctrGet s home k + v)) home k src) home k := by
    unfold ctrAdd
    rw [haway]
    rfl
  rw [heq]
  refine counts_evalCtr ?_ ?_ fun h m hne => ?_
  · rw [markOutside_frame, ctrSet_frame]
  · rw [ctrGet_markOutside, ctrGet_ctrSet_same]
  · rw [ctrGet_markOutside, ctrGet_ctrSet_other _ hne]

/-! ## A watch whose condition holds (R209, R260) -/

/-- The words from outside are seen by the core they came to. -/
def seeOutside (s : State) (core : Nat) (home : Option Nat) (k : Nat) : State :=
  if home == some core then modCore s core (fun x => { x with ctrOut := x.ctrOut.filter (· != k) }) else s

theorem seeOutside_frame (s : State) (core : Nat) (home : Option Nat) (k : Nat) :
    seeOutside s core home k = { s with cores := (seeOutside s core home k).cores } := by
  unfold seeOutside
  split <;> rfl

theorem ctrGet_seeOutside (s : State) (core : Nat) (home : Option Nat) (k : Nat) (h : Option Nat) (m : Nat) :
    ctrGet (seeOutside s core home k) h m = ctrGet s h m := by
  unfold seeOutside
  split
  · exact ctrGet_modCore _ _ (by intro; rfl) h m
  · rfl

/-- The watch sees its counter, and takes from it if asked. -/
def takeCount (s : State) (core : Nat) (home : Option Nat) (k : Nat) (consume : Bool) (target : W32) : State :=
  let a := seeOutside s core home k
  if consume then evalCtr (ctrSet a home k (ctrGet a home k - target)) home k else a

theorem takeCount_consumes (s : State) (core : Nat) (home : Option Nat) (k : Nat) (target : W32) :
    Counts s (takeCount s core home k true target) home k (ctrGet s home k - target) := by
  refine counts_evalCtr ?_ ?_ fun h m hne => ?_
  · rw [ctrSet_frame, seeOutside_frame]
  · rw [ctrGet_ctrSet_same, ctrGet_seeOutside]
  · rw [ctrGet_ctrSet_other _ hne, ctrGet_seeOutside]

theorem takeCount_looks (s : State) (core : Nat) (home : Option Nat) (k : Nat) (target : W32) :
    takeCount s core home k false target = seeOutside s core home k := rfl

theorem takeCount_only (s : State) (core : Nat) (home : Option Nat) (k : Nat) (consume : Bool) (target : W32) :
    CtrsOnly s (takeCount s core home k consume target) ∧ WatchersKept s (takeCount s core home k consume target) := by
  cases consume with
  | true => exact ⟨(takeCount_consumes ..).only, (takeCount_consumes ..).kept⟩
  | false =>
    rw [takeCount_looks, seeOutside_frame]
    exact ⟨rfl, .of_groups rfl⟩

/-- The L1 data of a core is emptied where a wake would have done it. -/
def flashIf (s : State) (core : Nat) (flash : Bool) : State := if flash then l1Flash s core else s

theorem flashIf_frame (s : State) (core : Nat) (flash : Bool) :
    flashIf s core flash = { s with cores := (flashIf s core flash).cores } := by
  cases flash <;> rfl

theorem ctrGet_flashIf (s : State) (core : Nat) (flash : Bool) (h : Option Nat) (m : Nat) :
    ctrGet (flashIf s core flash) h m = ctrGet s h m := by
  cases flash with
  | false => rfl
  | true => exact ctrGet_modCore _ _ (by intro; rfl) h m

theorem flashIf_empties (s : State) (core : Nat) : (coreOf (flashIf s core true) core).l1 = [] :=
  congrArg Core.l1 (coreOf_modCore_same ..)

/-! ## From a change of counters to the claim -/

/-- The issuing group stands where it issued, unless its split stalls. -/
theorem WatchersKept.standsIn (h : WatchersKept u v) (hready : i.x.st = .ready)
    (hg : tfind u.groups i.key = some (issueIss s i).g) : ∃ g, tfind v.groups i.key = some g ∧ i.standsIn s g := by
  obtain ⟨g, hfind, hr, hq⟩ := h _ _ hg
  refine ⟨g, hfind, Group.sameRegs_trans hr ⟨rfl, rfl, rfl, rfl, rfl⟩, fun hlone => ?_⟩
  obtain ⟨hst, hsp⟩ := issueIss_lone (s := s) hlone
  rw [hq fun e he => ?_]
  · exact ⟨hst, hsp⟩
  · rw [hsp, List.mem_singleton] at he
    rw [he]
    exact hready ▸ SplitState.noConfusion

theorem IssueOnly.ctrGet (h : IssueOnly s u i) (home : Option Nat) (k : Nat) : ctrGet u home k = ctrGet s home k := by
  obtain ⟨hf, -, -, hc, hi⟩ := h
  refine ctrGet_congr (fun c => ?_) (by rw [hf]) home k
  by_cases hci : c = i.sp.core
  · rw [hci, hi]
  · rw [hc c hci]

theorem IssueOnly.ctrOut (h : IssueOnly s u i) (c : Nat) : (coreOf u c).ctrOut = (coreOf s c).ctrOut := by
  obtain ⟨-, -, -, hc, hi⟩ := h
  by_cases hci : c = i.sp.core
  · rw [hci, hi]
  · rw [hc c hci]

theorem IssueOnly.outsideOf (h : IssueOnly s u i) (home : Option Nat) (k core : Nat) :
    outsideOf u home k core = outsideOf s home k core := by
  cases home with
  | none => rfl
  | some c =>
    unfold Machine.outsideOf
    dsimp only
    rw [h.ctrOut]

/-- After the issue the state moves on with its counters changed. -/
theorem issueOnly_counters (h : IssueOnly s u i) (hv : CtrsOnly u v) :
    advance v (issueIss s i) = { s with
      groups := (advance v (issueIss s i)).groups, cores := (advance v (issueIss s i)).cores
      mem := (advance v (issueIss s i)).mem, hub := (advance v (issueIss s i)).hub
      fly := { s.fly with watches := (advance v (issueIss s i)).fly.watches
                          wakes := (advance v (issueIss s i)).fly.wakes } } ∧
    (advance v (issueIss s i)).mem = u.mem := by
  unfold CtrsOnly at hv
  constructor
  · rw [advance_frame, hv, h.1]
  · rw [advance_frame, hv]

/-- The evaluation after the issue is one from the state before it. -/
theorem IssueOnly.evaluates {home : Option Nat} {k : Nat} {c : W32} (h : IssueOnly s u i) (he : Evaluates u v home k c)
    (hft : t.fly = v.fly) (ht : ∀ h m, Machine.ctrGet t h m = Machine.ctrGet v h m) : Evaluates s t home k c :=
  he.widen (by rw [h.1]) (fun a m _ => h.ctrGet a m) hft ht

/-! ## `watch` (R209, R260, R262) -/

/-- The encoding of a watch is legal and its operands are there. -/
structure WatchReady (s : State) (i : Iss) (home : Option Nat) (k : Nat) : Prop where
  legal : wA i.iw < 64 ∧ wB i.iw < 64 ∧ wCtl i.iw % 8 < 4
  takes : wCtlBit i.iw 3 = true → wCtl i.iw % 8 ≠ 3
  quiet : depends s i [.s (wA i.iw), .s (wB i.iw)] = false
  found : resolveRef s i.w (refOf i) = .ok home k

/-- Its condition holds here. -/
def watchMet (s : State) (i : Iss) (home : Option Nat) (k : Nat) : Bool :=
  !(home == none && ringAway s k) && watchHolds (wCtl i.iw % 8) (ctrGet s home k) (readS i.g (wB i.iw))

/-- Whether its passing flashes the L1. -/
def watchFlash (s : State) (i : Iss) (home : Option Nat) (k : Nat) : Bool :=
  outsideOf s home k i.sp.core || s.fly.wakes.any (fun m => m.flash && m.sp.core == i.sp.core)

theorem watchOp_resolved {home : Option Nat} {k : Nat} (h : WatchReady s i home k) :
    watchOp s i = if watchMet s i home k then
        advance (flashIf (takeCount s i.sp.core home k (wCtlBit i.iw 3) (readS i.g (wB i.iw))) i.sp.core (watchFlash s i home k)) i
      else if !watchRoom s home i.sp.core then stall s i .watchPlace
      else modSplit { s with fly := { s.fly with watches := s.fly.watches ++
        [{ home := home, ctr := k, sp := i.sp, cmp := wCtl i.iw % 8, target := readS i.g (wB i.iw)
           consume := wCtlBit i.iw 3, wg := i.id }] } } i.key i.sp.sid (fun x => { x with st := .gated, why := .none }) := by
  obtain ⟨hlow, hlow', hcmp⟩ := h.legal
  have htakes : (wCtlBit i.iw 3 && wCtl i.iw % 8 == 3) = false := by
    cases hb : wCtlBit i.iw 3 with
    | false => rfl
    | true => simpa using h.takes hb
  unfold watchOp
  simp only [sOk, hlow, hlow', htakes, decide_true, Nat.not_le.mpr hcmp, decide_false, h.quiet, h.found, Bool.not_true,
    Bool.or_false, Bool.false_eq_true, if_false]
  rfl

/-- The issue leaves the watch as it was. -/
theorem IssueOnly.watchReady {home : Option Nat} {k : Nat} (h : IssueOnly s u i) (hw : WatchReady s i home k) :
    WatchReady u (issueIss s i) home k :=
  ⟨hw.legal, hw.takes, (h.depends _).trans hw.quiet, (h.resolveRef ..).trans hw.found⟩

theorem IssueOnly.watchMet (h : IssueOnly s u i) (home : Option Nat) (k : Nat) :
    watchMet u (issueIss s i) home k = watchMet s i home k := by
  have haway : ringAway u k = ringAway s k := by
    rw [h.1]
    rfl
  unfold Machine.watchMet
  rw [haway, h.ctrGet]
  rfl

theorem IssueOnly.watchRoom (h : IssueOnly s u i) (home : Option Nat) (core : Nat) :
    watchRoom u home core = watchRoom s home core := by
  rw [h.1]
  rfl

theorem IssueOnly.watchFlash (h : IssueOnly s u i) (home : Option Nat) (k : Nat) :
    watchFlash u (issueIss s i) home k = watchFlash s i home k := by
  have hfly : u.fly = s.fly := by rw [h.1]
  unfold Machine.watchFlash
  rw [h.outsideOf, hfly]
  rfl

theorem watch_passes {home : Option Nat} {k : Nat} {c : Instr} (ho : IssueOnly s u i) (hready : i.x.st = .ready)
    (hg : tfind u.groups i.key = some (issueIss s i).g) {consume flash : Bool} {target : W32}
    (he : exec c s = .next (advance (flashIf (takeCount u i.sp.core home k consume target) i.sp.core flash) (issueIss s i))) :
    ∃ t, exec c s = .next t ∧ Moves s t i ∧ t.mem = u.mem ∧
      t = { s with groups := t.groups, cores := t.cores, mem := t.mem, hub := t.hub, fly := { s.fly with
        watches := t.fly.watches, wakes := t.fly.wakes } } ∧
      (consume = true → Evaluates s t home k (ctrGet s home k - target)) ∧
      (consume = false → t.fly = s.fly ∧ t.hub = s.hub ∧ ∀ c m, ctrGet t c m = ctrGet s c m) ∧
      (flash = true → (coreOf t i.sp.core).l1 = []) := by
  obtain ⟨honly, hkept⟩ := takeCount_only u i.sp.core home k consume target
  obtain ⟨g, hfind, hstands⟩ := hkept.standsIn hready hg
  obtain ⟨v, hv⟩ : ∃ v, v = flashIf (takeCount u i.sp.core home k consume target) i.sp.core flash := ⟨_, rfl⟩
  have hfly : v.fly = (takeCount u i.sp.core home k consume target).fly := by rw [hv, flashIf_frame]
  have hhub : v.hub = (takeCount u i.sp.core home k consume target).hub := by rw [hv, flashIf_frame]
  have hctr (h : Option Nat) (m : Nat) : ctrGet v h m = ctrGet (takeCount u i.sp.core home k consume target) h m := by
    rw [hv, ctrGet_flashIf]
  have hgroups : tfind v.groups i.key = some g := by rwa [hv, flashIf_frame]
  have hvonly : CtrsOnly u v := honly.trans (by
    rw [hv, flashIf_frame]
    rfl)
  obtain ⟨hframe, hmem⟩ := issueOnly_counters ho hvonly
  rw [← hv] at he
  refine ⟨_, he, moves_advance hgroups hstands, hmem, hframe, fun hc => ?_, fun hc => ?_, fun hf => ?_⟩
  · subst hc
    rw [← ho.ctrGet]
    exact ho.evaluates (takeCount_consumes ..).evals hfly hctr
  · subst hc
    rw [takeCount_looks, seeOutside_frame] at hfly hhub
    refine ⟨hfly.trans (by rw [ho.1]), hhub.trans (by rw [ho.1]), fun h m => (hctr h m).trans ?_⟩
    rw [takeCount_looks, ctrGet_seeOutside, ho.ctrGet]
  · subst hf hv
    exact flashIf_empties ..

/-- A watch that does not pass and has a place is registered; its split stands GATED. -/
theorem watch_gates {c : Instr} (ho : IssueOnly s u i)
    (hg : tfind u.groups i.key = some (issueIss s i).g) {x : Watch}
    (he : exec c s = .next (modSplit { u with fly := { u.fly with watches := u.fly.watches ++ [x] } } i.key i.sp.sid
      (fun x => { x with st := .gated, why := .none }))) :
    ∃ t, exec c s = .next t ∧ FetchOnly s t i ∧ (∀ k, k ≠ i.key → tfind t.groups k = tfind s.groups k) ∧
      tfind t.groups i.key = some (i.waits s .gated .none) ∧
      t = { s with groups := t.groups, cores := t.cores, mem := u.mem, fly := { s.fly with
        watches := s.fly.watches ++ [x] } } := by
  obtain ⟨hf, -, hothers, hcores⟩ := ho
  refine ⟨_, he, hcores.of_cores rfl, fun k hk => (modGroup_other _ hk).trans (hothers k hk), modGroup_find _ hg, ?_⟩
  rw [modSplit, modGroup_frame, hf]

/-- The clauses on `watch`. -/
theorem watch_all {sp : SplitRef} {w : IWord} {home : Option Nat} {k : Nat} {h : Bool} (hi : Issues s sp w .none i)
    (hu : u = issueState s i true) (hop : wOp w = 0x280) (hlow : wA w < 64) (hlow' : wB w < 64) (hcmp : wCtl w % 8 < 4)
    (htakes : wCtlBit w 3 = true → wCtl w % 8 ≠ 3) (hdep : depends s i [.s (wA w), .s (wB w)] = false)
    (href : resolveRef s i.w (refOf i) = .ok home k)
    (hh : h = (!(home == none && ringAway s k) && watchHolds (wCtl w % 8) (ctrGet s home k) (readS i.g (wB w)))) :
    (h = true →
      ∃ t, exec (.watch sp w) s = .next t ∧ Moves s t i ∧ t.mem = u.mem ∧
        t = { s with groups := t.groups, cores := t.cores, mem := t.mem, hub := t.hub, fly := { s.fly with
          watches := t.fly.watches, wakes := t.fly.wakes } } ∧
        (wCtlBit w 3 = true → Evaluates s t home k (ctrGet s home k - readS i.g (wB w))) ∧
        (wCtlBit w 3 = false → t.fly = s.fly ∧ t.hub = s.hub ∧ ∀ c m, ctrGet t c m = ctrGet s c m) ∧
        (outsideOf s home k sp.core || s.fly.wakes.any (fun m => m.flash && m.sp.core == sp.core) →
          (coreOf t sp.core).l1 = [])) ∧
    (h = false → watchRoom s home sp.core = true →
      ∃ t, exec (.watch sp w) s = .next t ∧ FetchOnly s t i ∧
        (∀ k, k ≠ i.key → tfind t.groups k = tfind s.groups k) ∧
        tfind t.groups i.key = some (i.waits s .gated .none) ∧
        t = { s with groups := t.groups, cores := t.cores, mem := u.mem, fly := { s.fly with
          watches := s.fly.watches ++ [{ home := home, ctr := k, sp := sp, cmp := wCtl w % 8, target := readS i.g (wB w)
                                         consume := wCtlBit w 3, wg := i.id }] } }) ∧
    (h = false → watchRoom s home sp.core = false → ∃ t, exec (.watch sp w) s = .next t ∧ IssueOnly s t i ∧
      tfind t.groups i.key = some (i.stalled s .watchPlace)) := by
  obtain ⟨hsp, hw, -⟩ := locate_inv hi.found
  subst hsp hw
  obtain ⟨ho, hg⟩ := issueState_only hi true
  have hexec : exec (.watch i.sp i.iw) s = .next (watchOp u (issueIss s i)) := by
    rw [hu]
    exact onLive_onIssue hi (by rw [hop]; rfl)
  rw [← hu] at ho hg
  have hready : WatchReady s i home k := ⟨⟨hlow, hlow', hcmp⟩, htakes, hdep, href⟩
  have hmet : watchMet u (issueIss s i) home k = h := (ho.watchMet home k).trans hh.symm
  rw [watchOp_resolved (ho.watchReady hready), hmet, ho.watchRoom, ho.watchFlash] at hexec
  refine ⟨fun hp => ?_, fun hp hroom => ?_, fun hp hroom => ?_⟩
  · rw [hp, if_pos rfl] at hexec
    exact watch_passes ho hi.ready hg hexec
  · rw [hp, if_neg Bool.false_ne_true, show watchRoom s home (issueIss s i).sp.core = true from hroom, Bool.not_true,
      if_neg Bool.false_ne_true] at hexec
    exact watch_gates ho hg hexec
  · rw [hp, if_neg Bool.false_ne_true, show watchRoom s home (issueIss s i).sp.core = false from hroom, Bool.not_false,
      if_pos rfl] at hexec
    exact ⟨_, hexec, ho.stall, stall_find hg⟩

/-! ## `sig` (R119, R208) -/

/-- The encoding of a signal to a counter is legal, its operands are there and earlier accesses are done. -/
structure SigReady (s : State) (i : Iss) : Prop where
  ctr   : wCtlBit i.iw 4 = false
  low   : wA i.iw < 64
  value : wL i.iw = false → wB i.iw < 64
  clean : wL i.iw = true → w1Bits i.iw 127 96 = 0
  quiet : depends s i (.s (wA i.iw) :: (if wL i.iw then [] else [.s (wB i.iw)])) = false
  done  : accessPending s i = false

theorem sigOp_counter (h : SigReady s i) : sigOp s i = sigCounter s i := by
  have hvalue : (!wL i.iw && !decide (wB i.iw < 64)) = false := by
    cases hl : wL i.iw with
    | true => rfl
    | false => simp [h.value hl]
  have hclean : (wL i.iw && w1Bits i.iw 127 96 != 0) = false := by
    cases hl : wL i.iw with
    | true => simp [h.clean hl]
    | false => rfl
  unfold sigOp
  simp only [h.ctr, sOk, h.low, hclean, h.quiet, h.done, decide_true, Bool.not_true, Bool.false_eq_true, if_false, hvalue,
    Bool.or_self]

theorem sigCounter_adds {home : Option Nat} {k : Nat} (href : resolveRef s i.w (refOf i) = .ok home k)
    (hform : home = none → i.w.commitForm = true → i.w.committed = true) :
    sigCounter s i = advance (ctrAdd s home k (if wL i.iw then wImm i.iw else readS i.g (wB i.iw)) (some i.sp.core)) i := by
  have hheld : (i.w.commitForm && !i.w.committed && home == none) = false := by
    cases home with
    | some c => exact Bool.and_false _
    | none =>
      cases hc : i.w.commitForm with
      | false => rfl
      | true => simp [hform rfl hc]
  unfold sigCounter
  simp only [href, hheld, Bool.false_eq_true, if_false]

/-- The clauses on `sig` to a counter. -/
theorem sig_counter {sp : SplitRef} {w : IWord} {home : Option Nat} {k : Nat} (hi : Issues s sp w .i i)
    (hu : u = issueState s i true) (hop : wOp w = 0x281) (hctr : wCtlBit w 4 = false) (hlow : wA w < 64)
    (hlow' : wL w = false → wB w < 64) (hclean : wL w = true → w1Bits w 127 96 = 0)
    (hdep : depends s i (.s (wA w) :: (if wL w then [] else [.s (wB w)])) = false) (hdone : accessPending s i = false)
    (href : resolveRef s i.w (refOf i) = .ok home k)
    (hform : home = none → i.w.commitForm = true → i.w.committed = true) :
    (home = none → ringAway s k = true → RunsBare s (.sig sp w) i) ∧
    ((home = none → ringAway s k = false) →
      ∃ t, exec (.sig sp w) s = .next t ∧ Moves s t i ∧ t.mem = u.mem ∧
        t = { s with groups := t.groups, cores := t.cores, mem := t.mem, hub := t.hub, fly := { s.fly with
          watches := t.fly.watches, wakes := t.fly.wakes } } ∧
        Evaluates s t home k (ctrGet s home k + (if wL w then wImm w else readS i.g (wB w)))) := by
  obtain ⟨hsp, hw, -⟩ := locate_inv hi.found
  subst hsp hw
  obtain ⟨ho, hg⟩ := issueState_only hi true
  have hexec : exec (.sig i.sp i.iw) s = .next (sigOp u (issueIss s i)) := by
    rw [hu]
    exact onLive_onIssue hi (by rw [hop]; rfl)
  rw [← hu] at ho hg
  have hready : SigReady u (issueIss s i) :=
    ⟨hctr, hlow, hlow', hclean, (ho.depends _).trans hdep, ho.accessPending.trans hdone⟩
  have haway : ringAway u k = ringAway s k := by
    rw [ho.1]
    rfl
  rw [sigOp_counter hready, sigCounter_adds (i := issueIss s i) ((ho.resolveRef ..).trans href) hform] at hexec
  constructor
  · intro hn ha
    subst hn
    rw [ctrAdd_away (haway.trans ha)] at hexec
    exact runsBare_of_advance ho hg hexec
  · intro hhere
    obtain ⟨honly, hkept, hevals⟩ := ctrAdd_counts (fun hn => haway.trans (hhere hn))
      (if wL i.iw then wImm i.iw else readS i.g (wB i.iw)) (some i.sp.core)
    obtain ⟨g, hfind, hstands⟩ := hkept.standsIn hi.ready hg
    obtain ⟨hframe, hmem⟩ := issueOnly_counters ho honly
    refine ⟨_, hexec, moves_advance hfind hstands, hmem, hframe, ?_⟩
    rw [← ho.ctrGet]
    exact ho.evaluates hevals rfl fun _ _ => rfl

/-- A legal signal to a fence the context may signal. -/
theorem sigOp_fence {f : Nat} (hfence : wCtlBit i.iw 4 = true) (hlow : wA i.iw < 64) (hlow' : wB i.iw < 64)
    (heven : wB i.iw % 2 = 0) (hclean : wL i.iw = true → w1Bits i.iw 127 96 = 0)
    (hdep : depends s i [.s (wA i.iw), .s (wB i.iw), .s (wB i.iw + 1)] = false) (hdone : accessPending s i = false)
    (hform : i.w.commitForm = true → i.w.committed = true) (hf : f = (readS i.g (wA i.iw)).toNat % 16384)
    (hmay : fenceSig s i.w.ctx f = true) :
    sigOp s i = advance (fenceSignal s f (BitVec.ofNat 64 (readS64 i.g (wB i.iw))) (wCtlBit i.iw 0)) i := by
  have hok : (wL i.iw && w1Bits i.iw 127 96 != 0) = false := by
    cases hl : wL i.iw with
    | true => simp [hclean hl]
    | false => rfl
  have hheld : (i.w.commitForm && !i.w.committed) = false := by
    cases hc : i.w.commitForm with
    | false => rfl
    | true => simp [hform hc]
  subst hf
  unfold sigOp sigFence
  simp [sOk, sPairOk, hfence, hlow, hlow', heven, hok, hdep, hdone, hheld, hmay]

/-- The clause on `sig` to a fence. -/
theorem sig_fence {sp : SplitRef} {w : IWord} {f : Nat} (hi : Issues s sp w .i i) (hop : wOp w = 0x281)
    (hfence : wCtlBit w 4 = true) (hlow : wA w < 64) (hlow' : wB w < 64) (heven : wB w % 2 = 0)
    (hclean : wL w = true → w1Bits w 127 96 = 0) (hdep : depends s i [.s (wA w), .s (wB w), .s (wB w + 1)] = false)
    (hdone : accessPending s i = false) (hform : i.w.commitForm = true → i.w.committed = true)
    (hf : f = (readS i.g (wA w)).toNat % 16384) (hmay : fenceSig s i.w.ctx f = true) :
    ∃ t, exec (.sig sp w) s = .next t ∧ Moves s t i ∧ FetchOnly s t i ∧ (i.hot s → t.mem = s.mem) ∧
      (∀ k, k ≠ i.key → tfind t.groups k = tfind s.groups k) ∧
      t = { s with groups := t.groups, cores := t.cores, mem := t.mem, fences := t.fences } ∧
      fenceOf t f = (fenceOf s f).signal (domCount s 35) (BitVec.ofNat 64 (readS64 i.g (wB w))) (wCtlBit w 0) ∧
      ∀ h, h ≠ f → fenceOf t h = fenceOf s h := by
  obtain ⟨hsp, hw, -⟩ := locate_inv hi.found
  subst hsp hw
  obtain ⟨ho, hg⟩ := issueState_only hi true
  have hexec : exec (.sig i.sp i.iw) s = .next (sigOp (issueState s i true) (issueIss s i)) :=
    onLive_onIssue hi (by rw [hop]; rfl)
  generalize issueState s i true = u at ho hg hexec
  have hmay' : fenceSig u i.w.ctx f = true := by
    rw [ho.1]
    exact hmay
  rw [sigOp_fence (s := u) (i := issueIss s i) hfence hlow hlow' heven hclean ((ho.depends _).trans hdep)
    (ho.accessPending.trans hdone) hform hf hmay'] at hexec
  obtain ⟨hframe, hmem, hothers, hcores⟩ := ho
  refine ⟨_, hexec, moves_advance hg (i.standsIn_issueIss s), hcores.of_cores rfl, hmem,
    fun k hk => (advance_other (i := issueIss s i) hk).trans (hothers k hk), ?_, ?_, fun h hne => ?_⟩
  · rw [advance_frame, fenceSignal, modFence, hframe]
  · refine (fenceSignal_same u f _ _).trans ?_
    rw [hframe]
    rfl
  · refine (fenceSignal_other u f h _ _ hne).trans ?_
    rw [hframe]
    rfl

/-- Settles O41: a watch that is met and a signal both are evaluations of one counter, after the issue and before the split
moves on. -/
theorem watchAndSignal : Obligations.WatchAndSignal := by
  unfold Obligations.WatchAndSignal
  refine ⟨?_, ?_, ?_⟩
  · intro s u sp w i home k h hi hu hop hlow hlow' hcmp htakes hdep href hh
    exact watch_all hi hu hop hlow hlow' hcmp htakes hdep href hh
  · intro s u sp w i home k hi hu hop hctr hlow hlow' hclean hdep hdone href hform
    exact sig_counter hi hu hop hctr hlow hlow' hclean hdep hdone href hform
  · intro s sp w i f hi hop hfence hlow hlow' heven hclean hdep hdone hform hf hmay
    exact sig_fence hi hop hfence hlow hlow' heven hclean hdep hdone hform hf hmay

end Sys2Proof.Machine
end

section
/-! # What reports and the end of work leave: commands, queues, instances and the port buffer (R100, R123, R145) -/

namespace Sys2Proof.Machine

set_option Elab.async false

variable {s t u : State}

/-- From `s` to `t` no command, no queue, no `Inst` and no byte of the port buffer changes. -/
structure TablesKept (s t : State) : Prop where
  cmds   : t.cmds = s.cmds
  queues : t.queues = s.queues
  insts  : t.insts = s.insts
  pb     : t.pb = s.pb

theorem TablesKept.refl (s : State) : TablesKept s s := ⟨rfl, rfl, rfl, rfl⟩

theorem TablesKept.trans (h : TablesKept s t) (h' : TablesKept t u) : TablesKept s u :=
  ⟨h'.cmds.trans h.cmds, h'.queues.trans h.queues, h'.insts.trans h.insts, h'.pb.trans h.pb⟩

theorem TablesKept.keep (h : TablesKept u s) (hc : t.cmds = s.cmds := by rfl) (hq : t.queues = s.queues := by rfl)
    (hi : t.insts = s.insts := by rfl) (hp : t.pb = s.pb := by rfl) : TablesKept u t := h.trans ⟨hc, hq, hi, hp⟩

theorem TablesKept.ite {c : Prop} [Decidable c] (hs : TablesKept u s) (ht : TablesKept u t) :
    TablesKept u (if c then s else t) := by
  split
  · exact hs
  · exact ht

theorem TablesKept.foldl {α : Type} {f : State → α → State} {l : List α} (h : TablesKept u s)
    (hf : ∀ {v x}, TablesKept u v → TablesKept u (f v x)) : TablesKept u (l.foldl f s) := by
  induction l generalizing s with
  | nil => exact h
  | cons x l ih => exact ih (hf h)

theorem TablesKept.errWrite {r} (h : TablesKept u s) : TablesKept u (errWrite s r) := by
  rw [errWrite_frame]
  exact .keep h

theorem TablesKept.event {code status unit inst addr info ctx} (h : TablesKept u s) :
    TablesKept u (event s code status unit inst addr info ctx) := .errWrite h

theorem TablesKept.raise {c} (h : TablesKept u s) : TablesKept u (raise s c) := .keep h

theorem TablesKept.dmWriteOpt {pol a d} (h : TablesKept u s) : TablesKept u (dmWriteOpt s pol a d) := by
  rw [dmWriteOpt_frame]
  exact .keep h

theorem TablesKept.dmZero {a n} (h : TablesKept u s) : TablesKept u (dmZero s a n) := by
  rw [dmZero_frame]
  exact .keep h

/-! ## Ports of a context (R353, R355, R387) -/

theorem TablesKept.dropRef {r} (h : TablesKept u s) : TablesKept u (dropRef s r) := by
  unfold Machine.dropRef
  split
  · exact .keep h
  · exact h

theorem TablesKept.flipDiscard {f} (h : TablesKept u s) : TablesKept u (flipDiscard s f) := by
  unfold Machine.flipDiscard Machine.flipSignal
  exact .foldl (.dropRef (.foldl (.ite (.keep h) h) (fun h => .dropRef (.dropRef h)))) (fun h => .keep h)

theorem TablesKept.pipeFlush {n} (h : TablesKept u s) : TablesKept u (pipeFlush s n) := by
  unfold Machine.pipeFlush
  exact .foldl (.keep h) (fun h => .flipDiscard h)

theorem TablesKept.capHalt {n} (h : TablesKept u s) : TablesKept u (capHalt s n) := by
  unfold Machine.capHalt
  exact .ite h (.keep (.dropRef (r := (capOf s n).buf) h))

theorem TablesKept.audStopSoon (h : TablesKept u s) : TablesKept u (audStopSoon s) := by
  unfold Machine.audStopSoon Machine.audHalt
  exact .ite h (.ite (.keep (.dropRef (r := s.aud.outBuf) (.dropRef (r := s.aud.inBuf) h))) (.keep h))

theorem TablesKept.slotPut {k x} (h : TablesKept u s) : TablesKept u (slotPut s k x) := by
  unfold Machine.slotPut
  exact .ite (.keep h) (.keep h)

theorem TablesKept.loadFinish {l res} (h : TablesKept u s) : TablesKept u (loadFinish s l res) := by
  unfold Machine.loadFinish
  extract_lets +onlyGivenNames _ s1 _ s2
  have h1 : TablesKept u s1 := .keep h
  have h2 : TablesKept u s2 := .foldl (.keep h1) (fun h => .slotPut h)
  exact .keep h2

theorem TablesKept.loadLeave {ctx} (h : TablesKept u s) : TablesKept u (loadLeave s ctx) := by
  unfold Machine.loadLeave
  split
  · exact .ite (.loadFinish (.dmZero h)) h
  · exact h

theorem TablesKept.portsStop {ctx} (h : TablesKept u s) : TablesKept u (portsStop s ctx) := by
  unfold Machine.portsStop
  extract_lets +onlyGivenNames s1
  have h1 : TablesKept u s1 := .foldl h (fun h => .capHalt h)
  exact .ite (.audStopSoon h1) h1

theorem TablesKept.portsLost {ctx} (h : TablesKept u s) : TablesKept u (portsLost s ctx) := by
  unfold Machine.portsLost
  extract_lets +onlyGivenNames s1
  have h1 : TablesKept u s1 := .loadLeave (.foldl h (fun h => .pipeFlush h))
  exact .ite h1 (.portsStop h1)

/-! ## What ends with a launch (R145, R147, R157) -/

theorem TablesKept.releaseCmd {c} (h : TablesKept u s) : TablesKept u (releaseCmd s c) := by
  rw [releaseCmd_frame]
  exact .keep h

theorem TablesKept.monMiss {m ctx sc} (h : TablesKept u s) : TablesKept u (monMiss s m ctx sc) := by
  rw [monMiss_frame]
  exact .keep h

theorem TablesKept.stagedWrite {core ctx e} (h : TablesKept u s) : TablesKept u (stagedWrite s core ctx e) := by
  unfold Machine.stagedWrite
  exact .ite h (.keep (.dmWriteOpt h))

theorem TablesKept.killWgs {p} (h : TablesKept u s) : TablesKept u (killWgs s p) := by
  unfold Machine.killWgs
  extract_lets +onlyGivenNames s1
  have h1 : TablesKept u s1 := .foldl h fun h => .foldl h fun h => .stagedWrite h
  exact .keep h1

theorem TablesKept.passDrop {id} (h : TablesKept u s) : TablesKept u (passDrop s id) := by
  unfold Machine.passDrop Machine.reserveDrop
  split
  · exact h
  · exact .foldl (.keep h) (fun h => .ite (.keep h) h)

theorem TablesKept.cmpStop {c} (h : TablesKept u s) : TablesKept u (cmpStop s c) := by
  unfold Machine.cmpStop
  dsimp only [Machine.freeBytes]
  exact .ite (.keep h) (.dmWriteOpt (.keep h))

theorem TablesKept.killInst {id} (h : TablesKept u s) : TablesKept u (killInst s id) := by
  unfold Machine.killInst
  extract_lets +onlyGivenNames _ _ s3
  have h3 : TablesKept u s3 := .foldl (.foldl (.killWgs h) (fun h => .passDrop h)) (fun h => .cmpStop h)
  exact .keep h3

theorem TablesKept.seqReturn {e} (h : TablesKept u s) : TablesKept u (seqReturn s e) := by
  unfold Machine.seqReturn Machine.seqFree
  split
  · exact h
  · refine .ite ?_ (.ite (.keep h) h)
    split
    · exact h
    · exact .keep h

/-- An `Inst` is dropped: it leaves its table, and the others stay. -/
theorem dropInst_tables (s : State) (id : Nat) : TablesKept { s with insts := tdel s.insts id } (dropInst s id) ∨
    (tfind s.insts id = none ∧ dropInst s id = s) := by
  unfold dropInst
  split
  next h => exact .inr ⟨h, rfl⟩
  next x _ =>
    extract_lets +onlyGivenNames _ s2
    have h2 : TablesKept s s2 := .foldl (.killInst (.refl s)) (fun h => .seqReturn h)
    exact .inl ⟨h2.cmds, h2.queues, congrArg (tdel · id) h2.insts, h2.pb⟩

theorem TablesKept.monEnd {x st} (h : TablesKept u s) : TablesKept u (monEnd s x st) := by
  unfold Machine.monEnd
  split
  · exact h
  · exact .monMiss (.ite (.raise (.event (.keep h))) (.ite (.keep h) h))

theorem TablesKept.monSettle {m} (h : TablesKept u s) : TablesKept u (monSettle s m) := by
  unfold Machine.monSettle
  split
  · exact h
  · exact .ite (.keep h) h

/-! ## Records of completions (R100, R101) -/

/-- From `s` to `t` no `Inst` and no command changes, and no queue its state or its latch. -/
structure RecordsOnly (s t : State) : Prop where
  insts : t.insts = s.insts
  cmds  : t.cmds = s.cmds
  st    : ∀ q, (queueOf t q).st = (queueOf s q).st
  latch : ∀ q, (queueOf t q).latch = (queueOf s q).latch

theorem RecordsOnly.refl (s : State) : RecordsOnly s s := ⟨rfl, rfl, fun _ => rfl, fun _ => rfl⟩

theorem RecordsOnly.trans (h : RecordsOnly s t) (h' : RecordsOnly t u) : RecordsOnly s u :=
  ⟨h'.insts.trans h.insts, h'.cmds.trans h.cmds, fun q => (h'.st q).trans (h.st q), fun q => (h'.latch q).trans (h.latch q)⟩

theorem RecordsOnly.of_tables (hi : t.insts = s.insts) (hc : t.cmds = s.cmds) (hq : t.queues = s.queues) : RecordsOnly s t := by
  refine ⟨hi, hc, fun q => ?_, fun q => ?_⟩ <;> unfold queueOf <;> rw [hq]

theorem RecordsOnly.keep (h : RecordsOnly u s) (hi : t.insts = s.insts := by rfl) (hc : t.cmds = s.cmds := by rfl)
    (hq : t.queues = s.queues := by rfl) : RecordsOnly u t := h.trans (.of_tables hi hc hq)

theorem RecordsOnly.ite {c : Prop} [Decidable c] (hs : RecordsOnly u s) (ht : RecordsOnly u t) :
    RecordsOnly u (if c then s else t) := by
  split
  · exact hs
  · exact ht

theorem RecordsOnly.pbStore {off d} (h : RecordsOnly u s) : RecordsOnly u (pbStore s off d) := .keep h

theorem RecordsOnly.errWrite {r} (h : RecordsOnly u s) : RecordsOnly u (errWrite s r) := by
  rw [errWrite_frame]
  exact .keep h

theorem RecordsOnly.dmWrite {pol a d} (h : RecordsOnly u s) : RecordsOnly u (dmWrite s pol a d) := by
  rw [dmWrite_frame]
  exact .keep h

theorem RecordsOnly.modQueue {r : Nat} {f : Queue → Queue} (h : RecordsOnly u s) (hst : ∀ x, (f x).st = x.st)
    (hlatch : ∀ x, (f x).latch = x.latch) : RecordsOnly u (modQueue s r f) := by
  refine h.trans ⟨rfl, rfl, fun q => ?_, fun q => ?_⟩ <;> by_cases hq : q = r
  · rw [hq, queueOf_modQueue_same, hst]
  · rw [queueOf_modQueue_other _ _ _ _ hq]
  · rw [hq, queueOf_modQueue_same, hlatch]
  · rw [queueOf_modQueue_other _ _ _ _ hq]

theorem RecordsOnly.recInRing {r x e} (h : RecordsOnly u s) : RecordsOnly u (recInRing s r x e) := by
  unfold Machine.recInRing
  extract_lets s1 s2 s3
  have h1 : RecordsOnly u s1 := .pbStore h
  clear_value s1
  have h2 : RecordsOnly u s2 := .modQueue h1 (fun _ => rfl) (fun _ => rfl)
  clear_value s2
  have h3 : RecordsOnly u s3 := by
    unfold s3
    split
    · exact .keep h2
    · exact h2
  clear_value s3
  exact .ite (.keep h3) h3

theorem RecordsOnly.recOrphaned {r x} (h : RecordsOnly u s) : RecordsOnly u (recOrphaned s r x) := by
  unfold Machine.recOrphaned
  extract_lets +onlyGivenNames _ _ _ _ s1 _ s2 s3 s4
  have h1 : RecordsOnly u s1 := .keep h
  clear_value s1
  have h2 : RecordsOnly u s2 := by
    unfold s2
    split
    · exact .errWrite h1
    · exact .dmWrite h1
  clear_value s2
  have h3 : RecordsOnly u s3 := .modQueue h2 (fun _ => rfl) (fun _ => rfl)
  clear_value s3
  have h4 : RecordsOnly u s4 := by
    unfold s4
    split
    · exact .keep h3
    · exact h3
  clear_value s4
  exact .keep h4

theorem RecordsOnly.writeRec {r} (h : RecordsOnly u s) : RecordsOnly u (writeRec s r) := by
  unfold Machine.writeRec
  refine .ite h ?_
  split
  · exact .recInRing h
  · exact .recOrphaned h

theorem queueSettle_insts (s : State) (q : Nat) : (queueSettle s q).insts = s.insts := by
  unfold queueSettle
  split <;> rfl

theorem cmdEnd_insts (s : State) (id : Nat) (st : Status) (errIdx : BitVec 16) : (cmdEnd s id st errIdx).insts = s.insts := by
  unfold cmdEnd
  split
  · rfl
  · rw [queueSettle_insts, releaseCmd_frame]
    exact (RecordsOnly.writeRec (.refl _)).insts

/-! ## The end of an `Inst` (R145) -/

/-- The `Inst` leaves its table; commands, queues and the port buffer are as before the end of its command. -/
theorem finishInst_eq {id : Nat} {x : Inst} (hx : tfind s.insts id = some x) (st : Status) (errIdx : BitVec 16) :
    ∃ v, TablesKept { s with insts := tdel s.insts id } v ∧ WorkOnly s v ∧ finishInst s id st errIdx =
      match x.cmd with
      | some c => cmdEnd v c (if x.isFb && st = .ok then .fallback else st) errIdx
      | none => queueSettle (writeRec v
          { queue := x.queue, tag := dTag x.desc, sig := sigOf x.sig x.desc (x.trig.getD (dSigVal x.desc))
            status := if x.isFb && st = .ok then .fallback else st, errIdx := errIdx }) x.queue := by
  refine ⟨monSettle (monEnd (dropInst s id) x (if x.isFb && st = .ok then .fallback else st)) x.mon, ?_,
    .monSettle (.monEnd (.dropInst (.refl s))), ?_⟩
  · refine .monSettle (.monEnd ?_)
    rcases dropInst_tables s id with h | ⟨h, -⟩
    · exact h
    · rw [hx] at h
      cases h
  · unfold finishInst
    rw [hx] <;> rfl

/-- No `Inst` of that number is left. -/
theorem finishInst_gone {id : Nat} {x : Inst} (hx : tfind s.insts id = some x) (st : Status) (errIdx : BitVec 16) :
    (finishInst s id st errIdx).insts = tdel s.insts id := by
  obtain ⟨v, hv, -, heq⟩ := finishInst_eq hx st errIdx
  rw [heq]
  split
  · exact (cmdEnd_insts ..).trans hv.insts
  · exact (queueSettle_insts ..).trans ((RecordsOnly.writeRec (.refl v)).insts.trans hv.insts)

/-- Its command ends with its record in the ring. -/
theorem finishInst_completes {id k : Nat} {x : Inst} {c : Cmd} {e : WtEntry} (hx : tfind s.insts id = some x) (st : Status)
    (hw : Memory.wf s.pb = true) (hk : x.cmd = some k) (hc : tfind s.cmds k = some c)
    (hq : (queueOf s c.queue).st = .live) (he : placeEntry s (queueOf s c.queue) = some e) :
    Completes s (finishInst s id st 0xFFFF) k c e (if x.isFb && st = .ok then .fallback else st) := by
  obtain ⟨v, hv, hwork, heq⟩ := finishInst_eq hx st 0xFFFF
  have hcmds : v.cmds = s.cmds := hv.cmds
  have hqueues : v.queues = s.queues := hv.queues
  have hqo : queueOf v c.queue = queueOf s c.queue := by
    unfold queueOf
    rw [hqueues]
  have hclk : v.clk = s.clk := by rw [hwork]
  have hplace : placeEntry v (queueOf v c.queue) = some e := by
    rw [hqo, placeEntry_of_wt (s := s) (by rw [hwork])]
    exact he
  rw [heq, hk]
  have hend := cmdEnd_completes (s := v) (id := k) (st := if x.isFb && st = .ok then .fallback else st) (hcmds ▸ hc)
    (by rw [hv.pb]; exact hw) (hqo ▸ hq) hplace
  exact hend.1.of_eq hcmds hqueues hclk

end Sys2Proof.Machine
end

section
/-! # Nodes start, signal and complete (R119, R143, R144, R145, Table 7-9) -/

namespace Sys2Proof.Machine

set_option Elab.async false

variable {s t u v : State} {id i : Nat} {x : Inst} {g : Graph} {n : BitVec 512}

/-! ## One node of an `Inst` changes -/

theorem modNode_frame (s : State) (id i : Nat) (f : NodeRt → NodeRt) :
    modNode s id i f = { s with insts := (modNode s id i f).insts } := rfl

theorem modNode_find (hx : tfind s.insts id = some x) (i : Nat) (f : NodeRt → NodeRt) :
    tfind (modNode s id i f).insts id = some { x with nodes := tupd x.nodes i f } := by
  unfold modNode modInst
  dsimp only
  rw [tfind_tupd_same, hx, Option.map_some]

theorem modNode_other (i : Nat) (f : NodeRt → NodeRt) {j : Nat} (h : j ≠ id) :
    tfind (modNode s id i f).insts j = tfind s.insts j := by
  unfold modNode modInst
  dsimp only
  exact tfind_tupd_other _ _ _ _ h

theorem tupd_tupd {α : Type} (t : Tab α) (k : Nat) (f f' : α → α) : tupd (tupd t k f) k f' = tupd t k (fun a => f' (f a)) := by
  unfold tupd
  rw [List.map_map]
  refine List.map_congr_left fun e _ => ?_
  by_cases h : e.1 = k <;> simp [h]

/-- A node that is in a state other than WAITING is one of the `Inst`'s. -/
theorem node_find (h : (x.node i).st ≠ .waiting) : ∃ r, tfind x.nodes i = some r ∧ x.node i = r := by
  unfold Inst.node tget at h ⊢
  cases hf : tfind x.nodes i with
  | none =>
    rw [hf] at h
    exact absurd rfl h
  | some r => exact ⟨r, rfl, rfl⟩

/-! ## A node starts -/

/-- The state in which a node's action begins: it runs, from now. -/
def nodeRuns (s : State) (id i : Nat) : State := modNode s id i (fun r => { r with st := .running, since := now35 s })

/-- What a node of a type does when it starts. -/
def startAct (s : State) (id i : Nat) (x : Inst) (g : Graph) (n : BitVec 512) : State :=
  match nType n with
  | 0 => nodeEnded s id i
  | 3 => copyStart s id i x n
  | 6 => signalStart s id i x g n
  | 8 => { s with fly := { s.fly with allocs := s.fly.allocs ++ [.node id i x.ctx (nClass n) (8 * nParam n)] } }
  | 9 => freeStart s id i x g n
  | _ => s

/-- The first READY node of a released `Inst` in a partition that runs. -/
structure Startable (s : State) (id i : Nat) (x : Inst) (g : Graph) : Prop where
  runs     : s.runs = true
  inst     : tfind s.insts id = some x
  graph    : graphOf s x = some g
  released : x.released = true
  whole    : x.fail = none
  first    : firstReady x = some i
  part     : partRuns s x.part = true

theorem exec_nodeStart (h : Startable s id i x g) (hn : n = g.nodes.getD i 0) (hroom : nType n = 8 → s.fly.allocs.length < 64)
    (hparam : nodeParamFault s g n = none) : exec (.nodeStart id i) s = .next (startAct (nodeRuns s id i) id i x g n) := by
  refine (onLive_runs h.runs _).trans (congrArg Host.Outcome.next ?_)
  have hplace : (nType n != 8 || decide (s.fly.allocs.length < 64)) = true := by
    by_cases h8 : nType n = 8
    · simp [hroom h8]
    · simp [h8]
  have hparam' : nodeParamFault (nodeRuns s id i) g n = none := hparam
  unfold nodeStartOp
  simp only [h.inst, h.graph, ← hn, h.released, h.whole, h.first, h.part, hplace, Option.isNone_none, beq_self_eq_true,
    Bool.and_self, if_true]
  rw [← nodeRuns, hparam']
  rfl

/-- Parameters are read by WAIT, SIGNAL and FREE nodes only. -/
theorem nodeParamFault_none (h5 : nType n ≠ 5) (h6 : nType n ≠ 6) (h9 : nType n ≠ 9) : nodeParamFault s g n = none := by
  simp [nodeParamFault, h5, h6, h9]

/-- The `Inst` with its node running. -/
theorem nodeRuns_find (hx : tfind s.insts id = some x) : tfind (nodeRuns s id i).insts id =
    some { x with nodes := tupd x.nodes i (fun r => { r with st := .running, since := now35 s }) } := modNode_find hx _ _

theorem nodeRuns_other {j : Nat} (h : j ≠ id) : tfind (nodeRuns s id i).insts j = tfind s.insts j := modNode_other _ _ h

/-- A node that runs and whose parts have ended at once. -/
theorem nodeEnded_nodeRuns (hx : tfind s.insts id = some x) : tfind (nodeEnded (nodeRuns s id i) id i).insts id =
    some { x with nodes := tupd x.nodes i (fun r => { r with st := .running, since := now35 s, ended := 1 }) } := by
  refine (modNode_find (nodeRuns_find hx) i _).trans ?_
  rw [tupd_tupd]

theorem nodeEnded_other {j : Nat} (h : j ≠ id) : tfind (nodeEnded (nodeRuns s id i) id i).insts j = tfind s.insts j :=
  (modNode_other _ _ h).trans (nodeRuns_other h)

/-- A KERNEL, DRAW, COMPRESS or STEP node runs. -/
theorem work_starts (h : Startable s id i x g) (hn : n = g.nodes.getD i 0)
    (ht : nType n = 1 ∨ nType n = 2 ∨ nType n = 4 ∨ nType n = 7) :
    ∃ t, exec (.nodeStart id i) s = .next t ∧ t = { s with insts := t.insts } ∧
      (∀ j, j ≠ id → tfind t.insts j = tfind s.insts j) ∧
      tfind t.insts id = some { x with nodes := tupd x.nodes i (fun r => { r with st := .running, since := now35 s }) } := by
  have hexec := exec_nodeStart h hn (by omega) (nodeParamFault_none (by omega) (by omega) (by omega))
  have hact : startAct (nodeRuns s id i) id i x g n = nodeRuns s id i := by
    rcases ht with ht | ht | ht | ht <;> simp only [startAct, ht]
  rw [hact] at hexec
  exact ⟨_, hexec, rfl, fun j hj => nodeRuns_other hj, nodeRuns_find h.inst⟩

/-- A NOP node, or a COPY node in bounds and off every image, has only to end. -/
theorem nop_starts (h : Startable s id i x g) (hn : n = g.nodes.getD i 0)
    (ht : nType n = 0 ∨ (nType n = 3 ∧ nEntry n + nCopyLen n ≤ (heldObj s n 0).len ∧
      nCopyDst n + nCopyLen n ≤ (heldObj s n 1).len ∧
      ((heldObj s n 1).remote ≠ none ∨ imageHit s ((heldObj s n 1).base + nCopyDst n) (nCopyLen n) = false))) :
    ∃ t, exec (.nodeStart id i) s = .next t ∧ t = { s with insts := t.insts } ∧
      (∀ j, j ≠ id → tfind t.insts j = tfind s.insts j) ∧
      tfind t.insts id = some { x with
        nodes := tupd x.nodes i (fun r => { r with st := .running, since := now35 s, ended := 1 }) } := by
  have hexec := exec_nodeStart h hn (by omega) (nodeParamFault_none (by omega) (by omega) (by omega))
  have hact : startAct (nodeRuns s id i) id i x g n = nodeEnded (nodeRuns s id i) id i := by
    rcases ht with ht | ⟨ht, hsrc, hdst, himg⟩
    · simp only [startAct, ht]
    · have hoff : ((heldObj s n 1).remote.isNone && imageHit s ((heldObj s n 1).base + nCopyDst n) (nCopyLen n)) = false := by
        rcases himg with himg | himg
        · simp [Option.isNone_iff_eq_none, himg]
        · simp [himg]
      have himg' : imageHit (nodeRuns s id i) = imageHit s := rfl
      have hobj : heldObj (nodeRuns s id i) n = heldObj s n := rfl
      simp only [startAct, ht, copyStart, hobj, himg', hoff, Nat.not_lt.mpr hsrc, Nat.not_lt.mpr hdst, if_false, decide_false, Bool.or_self,
        Bool.false_eq_true]
  rw [hact] at hexec
  exact ⟨_, hexec, rfl, fun j hj => nodeEnded_other hj, nodeEnded_nodeRuns h.inst⟩

/-- A SIGNAL node signals its fence without the error bit. -/
theorem signal_starts {f : Nat} {val : W64} (h : Startable s id i x g) (hn : n = g.nodes.getD i 0) (ht : nType n = 6)
    (hparam : nodeParamFault s g n = none) (hf : nodeFence s g x n = some (f, val)) :
    ∃ t, exec (.nodeStart id i) s = .next t ∧ t = { s with insts := t.insts, fences := t.fences } ∧
      tfind t.insts id = some { x with
        nodes := tupd x.nodes i (fun r => { r with st := .running, since := now35 s, ended := 1 }) } ∧
      fenceOf t f = (fenceOf s f).signal (domCount s 35) val false ∧ ∀ k, k ≠ f → fenceOf t k = fenceOf s k := by
  have hexec := exec_nodeStart h hn (by omega) hparam
  have hact : startAct (nodeRuns s id i) id i x g n = nodeEnded (fenceSignal (nodeRuns s id i) f val false) id i := by
    have hf' : nodeFence (nodeRuns s id i) g x n = some (f, val) := hf
    simp only [startAct, ht, signalStart, hf']
  rw [hact] at hexec
  refine ⟨_, hexec, rfl, ?_, fenceSignal_same s f val false, fun k hk => fenceSignal_other s f k val false hk⟩
  exact nodeEnded_nodeRuns h.inst

/-- An ALLOC node puts its request to the allocator. -/
theorem alloc_starts (h : Startable s id i x g) (hn : n = g.nodes.getD i 0) (ht : nType n = 8)
    (hroom : s.fly.allocs.length < 64) :
    ∃ t, exec (.nodeStart id i) s = .next t ∧ t = { s with insts := t.insts, fly := t.fly } ∧
      t.fly = { s.fly with allocs := s.fly.allocs ++ [.node id i x.ctx (nClass n) (8 * nParam n)] } ∧
      tfind t.insts id = some { x with nodes := tupd x.nodes i (fun r => { r with st := .running, since := now35 s }) } := by
  have hexec := exec_nodeStart h hn (fun _ => hroom) (nodeParamFault_none (by omega) (by omega) (by omega))
  have hact : startAct (nodeRuns s id i) id i x g n = { nodeRuns s id i with fly := { (nodeRuns s id i).fly with
      allocs := (nodeRuns s id i).fly.allocs ++ [.node id i x.ctx (nClass n) (8 * nParam n)] } } := by
    simp only [startAct, ht]
  rw [hact] at hexec
  exact ⟨_, hexec, rfl, rfl, nodeRuns_find h.inst⟩

/-! ## Successors count down (R144) -/

/-- Nodes that count down, once for each edge. -/
def countDown (ns : Tab NodeRt) (l : List Nat) : Tab NodeRt := l.foldl (fun ns j => tupd ns j decNode) ns

theorem countDown_find (ns : Tab NodeRt) (l : List Nat) (j : Nat) :
    tfind (countDown ns l) j = (tfind ns j).map (decNode^[l.count j]) := by
  induction l generalizing ns with
  | nil => exact (Option.map_id_fun' ▸ rfl)
  | cons a l ih =>
    refine (ih (tupd ns a decNode)).trans ?_
    rw [tfind_tupd, List.count_cons]
    by_cases h : j = a
    · subst h
      rw [if_pos rfl, beq_self_eq_true, if_pos rfl, Option.map_map, Function.iterate_succ]
    · rw [if_neg h, if_neg (by simpa using Ne.symm h), Nat.add_zero]

theorem decNode_st_done {r : NodeRt} (k : Nat) (h : r.st ≠ .done) : (decNode^[k] r).st ≠ .done := by
  induction k generalizing r with
  | zero => exact h
  | succ k ih =>
    refine ih (r := decNode r) ?_
    unfold decNode
    split
    · exact NodeState.noConfusion
    · exact h

theorem modNodes_countDown (hx : tfind s.insts id = some x) (l : List Nat) :
    tfind (l.foldl (fun s j => modNode s id j decNode) s).insts id = some { x with nodes := countDown x.nodes l } := by
  induction l generalizing s x with
  | nil => exact hx
  | cons j l ih => exact ih (modNode_find hx j decNode)

theorem modNodes_other (l : List Nat) {j : Nat} (h : j ≠ id) :
    tfind (l.foldl (fun s j => modNode s id j decNode) s).insts j = tfind s.insts j := by
  induction l generalizing s with
  | nil => rfl
  | cons a l ih => exact ih.trans (modNode_other a decNode h)

theorem modNodes_frame (s : State) (id : Nat) (l : List Nat) :
    l.foldl (fun s j => modNode s id j decNode) s =
      { s with insts := (l.foldl (fun s j => modNode s id j decNode) s).insts } := by
  induction l generalizing s with
  | nil => rfl
  | cons a l ih =>
    rw [List.foldl_cons, ih]
    rfl

/-! ## A node completes -/

/-- The nodes after node `i` has completed. -/
def doneNodes (x : Inst) (g : Graph) (i : Nat) : Tab NodeRt :=
  countDown (tupd x.nodes i (fun r => { r with st := .done })) (succOf g.edges (g.nodes.getD i 0))

/-- The `Inst` with them. -/
def doneState (s : State) (id i : Nat) (g : Graph) : State :=
  (succOf g.edges (g.nodes.getD i 0)).foldl (fun s j => modNode s id j decNode) (modNode s id i (fun r => { r with st := .done }))

theorem doneState_find (hx : tfind s.insts id = some x) (i : Nat) (g : Graph) :
    tfind (doneState s id i g).insts id = some { x with nodes := doneNodes x g i } :=
  modNodes_countDown (modNode_find hx i _) _

theorem doneState_other (i : Nat) (g : Graph) {j : Nat} (h : j ≠ id) :
    tfind (doneState s id i g).insts j = tfind s.insts j := (modNodes_other _ h).trans (modNode_other _ _ h)

theorem doneState_frame (s : State) (id i : Nat) (g : Graph) :
    doneState s id i g = { s with insts := (doneState s id i g).insts } := by
  unfold doneState
  rw [modNodes_frame]
  rfl

/-- A completed node is DONE, where it is not its own successor. -/
theorem doneNodes_self {r : NodeRt} (hr : tfind x.nodes i = some r) (hs : i ∉ succOf g.edges (g.nodes.getD i 0)) :
    tfind (doneNodes x g i) i = some { r with st := .done } := by
  unfold doneNodes
  rw [countDown_find, tfind_tupd_same, hr, List.count_eq_zero_of_not_mem hs]
  rfl

/-- Another node counts down. -/
theorem doneNodes_other {j : Nat} (h : j ≠ i) : tfind (doneNodes x g i) j =
    (tfind x.nodes j).map (decNode^[(succOf g.edges (g.nodes.getD i 0)).count j]) := by
  unfold doneNodes
  rw [countDown_find, tfind_tupd_other _ _ _ _ h]

/-- While a node is not done the `Inst` goes on. -/
theorem nodeDone_goesOn {k : Nat} (hx : tfind s.insts id = some x) (hfail : x.fail = none) (hk : thas x.nodes k = true)
    (hne : k ≠ i) (hnd : (x.node k).st ≠ .done) : nodeDone s id i g = doneState s id i g := by
  obtain ⟨r, hr⟩ := Option.isSome_iff_exists.mp hk
  have hrnd : r.st ≠ .done := by
    unfold Inst.node tget at hnd
    rwa [hr] at hnd
  have hfind : tfind (doneNodes x g i) k = some (decNode^[(succOf g.edges (g.nodes.getD i 0)).count k] r) := by
    rw [doneNodes_other hne, hr, Option.map_some]
  have hall : (doneNodes x g i).all (·.2.st == .done) = false := by
    rw [List.all_eq_false]
    exact ⟨_, mem_of_tfind hfind, by simpa using decNode_st_done _ hrnd⟩
  unfold nodeDone
  dsimp only
  rw [← doneState, doneState_find hx]
  simp [hfail, hall]

/-- When every other node is done and none counts down, the `Inst` ends. -/
theorem nodeDone_last (hx : tfind s.insts id = some x) (hfail : x.fail = none)
    (hsucc : succOf g.edges (g.nodes.getD i 0) = []) (hall : x.nodes.all (fun r => r.1 == i || r.2.st == .done) = true) :
    nodeDone s id i g = finishInst (doneState s id i g) id .ok 0xFFFF := by
  have hdone : (doneNodes x g i).all (·.2.st == .done) = true := by
    unfold doneNodes
    rw [hsucc]
    refine List.all_eq_true.mpr fun e he => ?_
    obtain ⟨a, ha, rfl⟩ := List.mem_map.mp he
    have hor := List.all_eq_true.mp hall a ha
    by_cases hi : a.1 = i
    · simp [hi]
    · simpa [hi] using hor
  unfold nodeDone
  dsimp only
  rw [← doneState, doneState_find hx]
  simp [hfail, hdone]

/-- A node whose parts have ended completes. -/
theorem exec_nodeComplete (hruns : s.runs = true) (hx : tfind s.insts id = some x) (hg : graphOf s x = some g)
    (hn : n = g.nodes.getD i 0) (hst : (x.node i).st = .running) (hneed : nodeNeed n ≤ (x.node i).ended)
    (hdisp : dispatching s = true) :
    exec (.nodeComplete id i) s = .next (nodeDone (if nType n = 3 then copyBytes s id x n else s) id i g) := by
  refine (onLive_runs hruns _).trans (congrArg Host.Outcome.next ?_)
  unfold nodeCompleteOp
  simp only [hx, hg, ← hn, hst, hneed, hdisp, decide_true, Bool.and_self, if_true]

/-- Exactly its successors count down. -/
theorem node_completes {k : Nat} (hruns : s.runs = true) (hx : tfind s.insts id = some x) (hg : graphOf s x = some g)
    (hst : (x.node i).st = .running) (hneed : nodeNeed (g.nodes.getD i 0) ≤ (x.node i).ended) (hdisp : dispatching s = true)
    (htype : nType (g.nodes.getD i 0) ≠ 3) (hfail : x.fail = none) (hk : thas x.nodes k = true) (hne : k ≠ i)
    (hnd : (x.node k).st ≠ .done) (hself : i ∉ succOf g.edges (g.nodes.getD i 0)) :
    ∃ t y, exec (.nodeComplete id i) s = .next t ∧ t = { s with insts := t.insts } ∧
      (∀ j, j ≠ id → tfind t.insts j = tfind s.insts j) ∧ tfind t.insts id = some y ∧ (y.node i).st = .done ∧
      ∀ j, j ≠ i → thas x.nodes j = true →
        y.node j = (decNode^[(succOf g.edges (g.nodes.getD i 0)).count j]) (x.node j) := by
  have hexec := exec_nodeComplete hruns hx hg rfl hst hneed hdisp
  rw [if_neg htype, nodeDone_goesOn hx hfail hk hne hnd] at hexec
  obtain ⟨r, hr, -⟩ := node_find (x := x) (i := i) (by rw [hst]; exact NodeState.noConfusion)
  refine ⟨_, _, hexec, doneState_frame .., fun j hj => doneState_other i g hj, doneState_find hx i g, ?_, fun j hj hh => ?_⟩
  · show (tget (doneNodes x g i) i _).st = _
    rw [tget, doneNodes_self hr hself]
    rfl
  · obtain ⟨a, ha⟩ := Option.isSome_iff_exists.mp hh
    show tget (doneNodes x g i) j _ = (decNode^[_]) (tget x.nodes j _)
    rw [tget, tget, doneNodes_other hj, ha]
    rfl

/-- The last one ends the `Inst` and its command. -/
theorem last_completes {k : Nat} {c : Cmd} {e : WtEntry} (hruns : s.runs = true) (hx : tfind s.insts id = some x)
    (hg : graphOf s x = some g) (hst : (x.node i).st = .running)
    (hneed : nodeNeed (g.nodes.getD i 0) ≤ (x.node i).ended) (hdisp : dispatching s = true)
    (htype : nType (g.nodes.getD i 0) ≠ 3) (hfail : x.fail = none) (hsucc : succOf g.edges (g.nodes.getD i 0) = [])
    (hall : x.nodes.all (fun r => r.1 == i || r.2.st == .done) = true) :
    ∃ t, exec (.nodeComplete id i) s = .next t ∧ tfind t.insts id = none ∧
      (Memory.wf s.pb = true → x.cmd = some k → tfind s.cmds k = some c → (queueOf s c.queue).st = .live →
        placeEntry s (queueOf s c.queue) = some e → Completes s t k c e (if x.isFb then .fallback else .ok)) := by
  have hexec := exec_nodeComplete hruns hx hg rfl hst hneed hdisp
  rw [if_neg htype, nodeDone_last hx hfail hsucc hall] at hexec
  have hfind := doneState_find hx i g
  refine ⟨_, hexec, ?_, fun hw hk hc hq he => ?_⟩
  · rw [finishInst_gone hfind, tfind_tdel_same]
  · rw [doneState_frame] at hfind ⊢
    have hend := finishInst_completes (s := { s with insts := (doneState s id i g).insts }) hfind .ok hw hk hc hq he
    have hst : (if x.isFb && decide (Status.ok = .ok) then Status.fallback else .ok) = if x.isFb then .fallback else .ok := by
      simp
    rw [hst] at hend
    exact hend.of_eq rfl rfl rfl

/-! ## The bytes of a COPY node -/

/-- A predicate of the MACs that device memory does not take back: none is known to be bad. -/
def NoBadMac (s : State) : Prop := s.mem.macBad = []

theorem NoBadMac.keep (h : NoBadMac s) (ht : t.mem.macBad = s.mem.macBad := by rfl) : NoBadMac t := Eq.trans ht h

theorem NoBadMac.macTouch (h : NoBadMac s) (a : Nat) (b : Bool) : NoBadMac (macTouch s a b) := by
  unfold Machine.macTouch
  split <;> exact h

theorem NoBadMac.dramMask (h : NoBadMac s) (a : Nat) (d : List (Option Byte)) : NoBadMac (dramMask s a d) := by
  unfold Machine.dramMask
  exact .macTouch (.keep h) a true

theorem NoBadMac.dramPut (h : NoBadMac s) (a : Nat) (d : List Byte) : NoBadMac (dramPut s a d) := by
  unfold Machine.dramPut
  refine .macTouch (.keep h ?_) a true
  unfold NoBadMac at h
  rw [h]
  rfl

theorem NoBadMac.wcFlush (h : NoBadMac s) (a : Nat) : NoBadMac (wcFlush s a) := by
  unfold Machine.wcFlush
  split
  · exact .dramMask (.keep h) _ _
  · exact h

theorem NoBadMac.l2Evict (h : NoBadMac s) (k : Nat) : NoBadMac (l2Evict s k) := by
  unfold Machine.l2Evict
  split
  · exact h
  · split
    · exact h
    · dsimp only
      split
      · exact .dramPut (.keep h) _ _
      · exact h

theorem NoBadMac.l2Fill (h : NoBadMac s) (a : Nat) : NoBadMac (l2Fill s a) := by
  unfold Machine.l2Fill
  split
  · exact h
  · split
    · exact h
    · dsimp only
      split
      · exact h.wcFlush a
      · exact .keep (((h.wcFlush a).l2Evict _).macTouch _ _)

theorem NoBadMac.foldl {f : State → Nat → State} (hf : ∀ s a, NoBadMac s → NoBadMac (f s a)) (l : List Nat) (h : NoBadMac s) :
    NoBadMac (l.foldl f s) := by
  induction l generalizing s with
  | nil => exact h
  | cons a l ih => exact ih (hf s a h)

theorem NoBadMac.dmTouch (h : NoBadMac s) (pol a n : Nat) : NoBadMac (dmTouch s pol a n) := by
  unfold Machine.dmTouch
  split
  · exact h
  · split
    · refine NoBadMac.foldl (fun s l hs => ?_) _ h
      split
      · exact hs
      · exact hs.macTouch l false
    · exact NoBadMac.foldl (fun s l hs => hs.l2Fill l) _ h

/-- Where both objects are here and intact, the source's bytes are read and written. -/
theorem copyBytes_here (hsrc : (heldObj s n 0).remote = none) (hdst : (heldObj s n 1).remote = none)
    (hpoison : s.mem.poison = []) (hmac : s.mem.macBad = [])
    (himg : imageHit s ((heldObj s n 1).base + nCopyDst n) (nCopyLen n) = false) {src dst : Nat}
    (hs : src = (heldObj s n 0).base + nEntry n) (hd : dst = (heldObj s n 1).base + nCopyDst n) :
    copyBytes s id x n = dmWrite (dmTouch s (polAt s x.ctx src) src (nCopyLen n)) (polAt s x.ctx dst) dst
      (dmRead s src (nCopyLen n)) := by
  have hfault : dmFault s src (nCopyLen n) = none := by
    unfold dmFault
    rw [hpoison, hmac]
    rfl
  have hlen : (dmRead s src (nCopyLen n)).length = nCopyLen n := by
    unfold dmRead
    rw [List.length_map, List.length_range]
  have htouch := dmTouch_frame s (polAt s x.ctx src) src (nCopyLen n)
  have hnone : NoBadMac (dmTouch s (polAt s x.ctx src) src (nCopyLen n)) := NoBadMac.dmTouch hmac _ _ _
  unfold copyBytes
  simp only [hsrc, hdst, Option.isSome_none, Bool.false_eq_true, if_false, ← hs, ← hd, hfault]
  generalize dmTouch s (polAt s x.ctx src) src (nCopyLen n) = u at htouch hnone
  have himg' : imageHit u dst (nCopyLen n) = false := by
    rw [htouch, hd]
    exact himg
  have hdrops : macDrops u dst (nCopyLen n) = none := by
    unfold macDrops
    rw [hnone]
    rfl
  have hpol : polAt u x.ctx dst = polAt s x.ctx dst := by
    rw [htouch]
    rfl
  unfold nodeWrite
  simp only [hlen, himg', hdrops, hpol, Bool.false_eq_true, if_false]

/-- A completing COPY node changes its `Inst` and memory. -/
theorem copy_completes {k : Nat} {src dst : Nat} (hruns : s.runs = true) (hx : tfind s.insts id = some x)
    (hg : graphOf s x = some g) (hn : n = g.nodes.getD i 0) (hst : (x.node i).st = .running) (hended : 1 ≤ (x.node i).ended)
    (hdisp : dispatching s = true) (ht : nType n = 3) (hfail : x.fail = none) (hk : thas x.nodes k = true) (hne : k ≠ i)
    (hnd : (x.node k).st ≠ .done) (hsrc : (heldObj s n 0).remote = none) (hdst : (heldObj s n 1).remote = none)
    (hs : src = (heldObj s n 0).base + nEntry n) (hd : dst = (heldObj s n 1).base + nCopyDst n)
    (hpoison : s.mem.poison = []) (hmac : s.mem.macBad = []) (himg : imageHit s dst (nCopyLen n) = false) :
    ∃ t, exec (.nodeComplete id i) s = .next t ∧ t = { s with insts := t.insts, mem := t.mem } ∧
      t.mem = (dmWrite (dmTouch s (polAt s x.ctx src) src (nCopyLen n)) (polAt s x.ctx dst) dst
        (dmRead s src (nCopyLen n))).mem := by
  have hneed : nodeNeed n ≤ (x.node i).ended := by
    unfold nodeNeed
    rw [if_neg (by omega)]
    exact hended
  have hexec := exec_nodeComplete hruns hx hg hn hst hneed hdisp
  rw [if_pos ht, copyBytes_here hsrc hdst hpoison hmac (hd ▸ himg) hs hd] at hexec
  have hframe : dmWrite (dmTouch s (polAt s x.ctx src) src (nCopyLen n)) (polAt s x.ctx dst) dst (dmRead s src (nCopyLen n)) =
      { s with mem := (dmWrite (dmTouch s (polAt s x.ctx src) src (nCopyLen n)) (polAt s x.ctx dst) dst
        (dmRead s src (nCopyLen n))).mem } := by
    rw [dmWrite_frame, dmTouch_frame]
  generalize dmWrite (dmTouch s (polAt s x.ctx src) src (nCopyLen n)) (polAt s x.ctx dst) dst (dmRead s src (nCopyLen n)) = u
    at hexec hframe ⊢
  rw [nodeDone_goesOn (by rw [hframe]; exact hx) hfail hk hne hnd] at hexec
  refine ⟨_, hexec, ?_, ?_⟩
  · rw [doneState_frame, hframe]
  · rw [doneState_frame]

/-- Settles O26: a start is one change of the node and its type's action, a completion the end of the node and the count-down
of its successors. -/
theorem nodeLife : Obligations.NodeLife := by
  unfold Obligations.NodeLife
  refine ⟨?_, ?_, ?_, ?_, ?_, ?_, ?_⟩
  · intro s id i x g hruns hx hg hrel hfail hfirst hpart ht
    exact work_starts ⟨hruns, hx, hg, hrel, hfail, hfirst, hpart⟩ rfl ht
  · intro s id i x g n hruns hx hg hrel hfail hfirst hpart hn ht
    exact nop_starts ⟨hruns, hx, hg, hrel, hfail, hfirst, hpart⟩ hn ht
  · intro s id i f v x g n hruns hx hg hrel hfail hfirst hpart hn ht hparam hf
    exact signal_starts ⟨hruns, hx, hg, hrel, hfail, hfirst, hpart⟩ hn ht hparam hf
  · intro s id i x g n hruns hx hg hrel hfail hfirst hpart hn ht hroom
    exact alloc_starts ⟨hruns, hx, hg, hrel, hfail, hfirst, hpart⟩ hn ht hroom
  · intro s id i k x g hruns hx hg hst hneed hdisp ht hfail hk hne hnd hself
    exact node_completes hruns hx hg hst hneed hdisp ht hfail hk hne hnd hself
  · intro s id i k x g c e hruns hx hg hst hneed hdisp ht hfail hsucc hall
    exact last_completes hruns hx hg hst hneed hdisp ht hfail hsucc hall
  · intro s id i k x g n src dst hruns hx hg hn hst hended hdisp ht hfail hk hne hnd _ _ hsrc hdst hs hd hpoison hmac himg
    exact copy_completes hruns hx hg hn hst hended hdisp ht hfail hk hne hnd hsrc hdst hs hd hpoison hmac himg

end Sys2Proof.Machine
end

section
/-! # Q_CREATE and Q_DESTROY (R107, R128, R129, R131, R132) -/

namespace Sys2Proof.Machine

set_option Elab.async false

variable {s t u : State}

/-! ## Commands the front end takes at once (R107) -/

theorem feCmd_takes (h : FeReady s) {off tag : Nat} {raw : W64} {st : CmdStat} (hb : st.busy = false)
    (set : State → CmdStat → State) (run : State → State) : feCmd s off raw tag st set run = run s := by
  simp [feCmd, hb, h.boot, h.up]

/-- Q_CREATE ends with its outcome. -/
theorem exec_qCreate (h : FeReady s) (hb : s.feCmd.busy = false) {tag : BitVec 2} {ctx q page : Nat} (hctx : ctx < 1024)
    (hq : q < 1024) (hpage : page < 8192) :
    exec (.qCreate tag ctx q page) s = .next { (qCreateOp s ctx q page).2 with
      feCmd := done tag.toNat (qCreateOp s ctx q page).1 0 } := by
  obtain ⟨hfpage, hfctx, hfq, hfop, hftag⟩ := qWord_fields page ctx q 1 tag.toNat hpage hctx hq (by decide) tag.isLt
  have hrun : feCmdWrite s (qWord page ctx q 1 tag.toNat) = feRun s (qWord page ctx q 1 tag.toNat) := feCmd_takes h hb _ _
  refine (onLive_runs h.runs _).trans (congrArg Host.Outcome.next (hrun.trans ?_))
  simp only [feRun, hfpage, hfctx, hfq, hfop, hftag]
  rfl

/-- Q_DESTROY ends with its outcome. -/
theorem exec_qDestroy (h : FeReady s) (hb : s.feCmd.busy = false) {tag : BitVec 2} {ctx q : Nat} (hctx : ctx < 1024)
    (hq : q < 1024) :
    exec (.qDestroy tag ctx q) s = .next { (qDestroyOp s ctx q).2 with feCmd := done tag.toNat (qDestroyOp s ctx q).1 0 } := by
  obtain ⟨-, hfctx, hfq, hfop, hftag⟩ := qWord_fields 0 ctx q 2 tag.toNat (by decide) hctx hq (by decide) tag.isLt
  have hrun : feCmdWrite s (qWord 0 ctx q 2 tag.toNat) = feRun s (qWord 0 ctx q 2 tag.toNat) := feCmd_takes h hb _ _
  refine (onLive_runs h.runs _).trans (congrArg Host.Outcome.next (hrun.trans ?_))
  simp only [feRun, hfctx, hfq, hfop, hftag]
  rfl

/-! ## What ending work leaves of commands and queues (R100, R114, R123) -/

/-- From `s` to `t` no command begins or changes its queue, and no queue becomes LIVE or gets its latch. -/
structure Unwinds (s t : State) : Prop where
  cmd   : ∀ i x, tfind t.cmds i = some x → ∃ y, tfind s.cmds i = some y ∧ y.queue = x.queue ∧ y.started = x.started
  live  : ∀ q, (queueOf t q).st = .live → (queueOf s q).st = .live
  latch : ∀ q, (queueOf t q).latch = true → (queueOf s q).latch = true

theorem Unwinds.refl (s : State) : Unwinds s s := ⟨fun _ x h => ⟨x, h, rfl, rfl⟩, fun _ h => h, fun _ h => h⟩

theorem Unwinds.trans (h : Unwinds s t) (h' : Unwinds t u) : Unwinds s u := by
  refine ⟨fun i x hx => ?_, fun q hq => h.live q (h'.live q hq), fun q hq => h.latch q (h'.latch q hq)⟩
  obtain ⟨y, hy, hyq, hys⟩ := h'.cmd i x hx
  obtain ⟨z, hz, hzq, hzs⟩ := h.cmd i y hy
  exact ⟨z, hz, hzq.trans hyq, hzs.trans hys⟩

theorem Unwinds.of_tables (hc : t.cmds = s.cmds) (hq : t.queues = s.queues) : Unwinds s t := by
  refine ⟨fun i x h => ⟨x, by rwa [← hc], rfl, rfl⟩, fun q h => ?_, fun q h => ?_⟩ <;> unfold queueOf at h ⊢ <;> rwa [hq] at h

theorem Unwinds.keep (h : Unwinds u s) (hc : t.cmds = s.cmds := by rfl) (hq : t.queues = s.queues := by rfl) : Unwinds u t :=
  h.trans (.of_tables hc hq)

theorem Unwinds.tables (h : Unwinds u s) (ht : TablesKept s t) : Unwinds u t := .keep h ht.cmds ht.queues

theorem Unwinds.foldl {α : Type} {f : State → α → State} {l : List α} (h : Unwinds u s)
    (hf : ∀ {v x}, Unwinds u v → Unwinds u (f v x)) : Unwinds u (l.foldl f s) := by
  induction l generalizing s with
  | nil => exact h
  | cons x l ih => exact ih (hf h)

theorem Unwinds.writeRec {r} (h : Unwinds u s) : Unwinds u (writeRec s r) := by
  have hr : RecordsOnly s (Machine.writeRec s r) := .writeRec (.refl s)
  refine h.trans ⟨fun i x hx => ⟨x, by rwa [hr.cmds] at hx, rfl, rfl⟩, fun q hq => ?_, fun q hq => ?_⟩
  · rwa [hr.st] at hq
  · rwa [hr.latch] at hq

/-- A queue that is gone is FREE and has no latch. -/
theorem Unwinds.queueSettle {q} (h : Unwinds u s) : Unwinds u (queueSettle s q) := by
  unfold Machine.queueSettle
  split
  · refine h.trans ⟨fun i x hx => ⟨x, hx, rfl, rfl⟩, fun r hr => ?_, fun r hr => ?_⟩ <;>
      unfold queueOf tget at hr ⊢ <;> rw [tfind_tdel] at hr <;> split at hr
    · cases hr
    · exact hr
    · cases hr
    · exact hr
  · exact h

theorem Unwinds.dropCmd {id} (h : Unwinds u s) : Unwinds u { s with cmds := tdel s.cmds id } := by
  refine h.trans ⟨fun i x hx => ?_, fun _ hq => hq, fun _ hq => hq⟩
  have hx' : tfind (tdel s.cmds id) i = some x := hx
  rw [tfind_tdel] at hx'
  split at hx'
  · cases hx'
  · exact ⟨x, hx', rfl, rfl⟩

theorem Unwinds.cmdEnd {id st errIdx} (h : Unwinds u s) : Unwinds u (cmdEnd s id st errIdx) := by
  unfold Machine.cmdEnd
  split
  · exact h
  · exact .queueSettle (.tables (.writeRec (.dropCmd h)) (.releaseCmd (.refl _)))

theorem Unwinds.cmdDone {id st errIdx} (h : Unwinds u s) : Unwinds u (cmdDone s id st errIdx) := by
  unfold Machine.cmdDone
  split
  · exact h
  · exact .cmdEnd (.tables h (.monMiss (.refl _)))

theorem Unwinds.dropInst {id} (h : Unwinds u s) : Unwinds u (dropInst s id) := by
  rcases dropInst_tables s id with hd | ⟨-, hd⟩
  · exact .tables (.keep (t := { s with insts := tdel s.insts id }) h) hd
  · rw [hd]
    exact h

theorem Unwinds.finishInst {id st errIdx} (h : Unwinds u s) : Unwinds u (finishInst s id st errIdx) := by
  unfold Machine.finishInst
  split
  · exact h
  · extract_lets +onlyGivenNames _ s1
    have h1 : Unwinds u s1 := .tables (.dropInst h) (.monSettle (.monEnd (.refl _)))
    split
    · exact .cmdEnd h1
    · exact .queueSettle (.writeRec h1)

theorem Unwinds.ctxLose {c cause idx inst} (h : Unwinds u s) : Unwinds u (ctxLose s c cause idx inst) := by
  unfold Machine.ctxLose
  split
  · extract_lets +onlyGivenNames s1 s2 s3 s4
    have h2 : Unwinds u s2 := .tables (.keep (t := s1) h) (.portsLost (.refl _))
    have h3 : Unwinds u s3 := by
      unfold s3
      split
      · exact .finishInst h2
      · exact h2
    have h4 : Unwinds u s4 := .foldl h3 (fun h => .finishInst h)
    exact .foldl h4 (fun h => .cmdDone h)
  · exact h

theorem Unwinds.ctxError {ctx r cause inst} (h : Unwinds u s) : Unwinds u (ctxError s ctx r cause inst) :=
  .ctxLose (.tables h (.errWrite (.refl s)))

/-! ## A held resolution is made up for (R113) -/

/-- From `s` to `t` at most work ends: the slots and the graphs are among what stays. -/
structure EndsWork (s t : State) : Prop where
  unwinds : Unwinds s t
  work    : WorkOnly s t

theorem EndsWork.refl (s : State) : EndsWork s s := ⟨.refl s, .refl s⟩

theorem EndsWork.cmdDone {id st errIdx} (h : EndsWork u s) : EndsWork u (cmdDone s id st errIdx) :=
  ⟨.cmdDone h.unwinds, .cmdDone h.work⟩

theorem EndsWork.queueSettle {q} (h : EndsWork u s) : EndsWork u (queueSettle s q) :=
  ⟨.queueSettle h.unwinds, .queueSettle h.work⟩

theorem EndsWork.foldl {α : Type} {f : State → α → State} {l : List α} (h : EndsWork u s)
    (hf : ∀ {v x}, EndsWork u v → EndsWork u (f v x)) : EndsWork u (l.foldl f s) := by
  induction l generalizing s with
  | nil => exact h
  | cons x l ih => exact ih (hf h)

theorem EndsWork.ctxError {ctx r cause inst} (h : EndsWork u s) : EndsWork u (ctxError s ctx r cause inst) :=
  ⟨.ctxError h.unwinds, .ctxLose (.errWrite h.work)⟩

theorem EndsWork.pbTake {off n} (h : EndsWork u s) : EndsWork u (pbTake s off n).2 := by
  unfold Machine.pbTake
  dsimp only
  split
  · exact h
  · split
    · exact h
    · dsimp only
      exact .ctxError h

theorem EndsWork.apTake {off n} (h : EndsWork u s) : EndsWork u (apTake s off n).2 := by
  unfold Machine.apTake
  split
  · dsimp only
    split
    · split
      · exact .pbTake (.pbTake h)
      · exact .pbTake h
    · exact .pbTake h
  · exact h

/-- A command changes in what does not bind it to its queue. -/
theorem EndsWork.modCmd {id f} (h : EndsWork u s) (hq : ∀ c, (f c).queue = c.queue := by exact fun _ => rfl)
    (hs : ∀ c, (f c).started = c.started := by exact fun _ => rfl) : EndsWork u (modCmd s id f) := by
  refine ⟨h.unwinds.trans ⟨fun i x hx => ?_, fun _ hq => hq, fun _ hq => hq⟩, .keep h.work⟩
  have hx' : tfind (tupd s.cmds id f) i = some x := hx
  rw [tfind_tupd] at hx'
  split at hx'
  · obtain ⟨y, hy, rfl⟩ := Option.map_eq_some_iff.mp hx'
    exact ⟨y, hy, (hq y).symm, (hs y).symm⟩
  · exact ⟨x, hx', rfl, rfl⟩

theorem EndsWork.event {code status unit inst addr info ctx} (h : EndsWork u s) :
    EndsWork u (event s code status unit inst addr info ctx) :=
  ⟨.tables h.unwinds (.event (.refl s)), .event h.work⟩

theorem EndsWork.cmdRefuse {id check detail st} (h : EndsWork u s) : EndsWork u (cmdRefuse s id check detail st) := by
  unfold Machine.cmdRefuse
  split
  · exact h
  · exact .cmdDone (.event h)

/-- References are taken on objects and fences. -/
theorem EndsWork.refs {fs os : List Nat} (h : EndsWork u s) : EndsWork u (fs.foldl fenceRef (os.foldl objRef s)) :=
  .foldl (.foldl h fun h => ⟨.keep h.unwinds, .keep h.work⟩) fun h => ⟨.keep h.unwinds, .keep h.work⟩

theorem EndsWork.resolveGraphCmd {id} (h : EndsWork u s) : EndsWork u (resolveGraphCmd s id) := by
  unfold Machine.resolveGraphCmd
  split
  · exact h
  · extract_lets s1
    have h1 : EndsWork u s1 := .modCmd h
    clear_value s1
    split
    · exact .cmdRefuse h1
    · extract_lets s2
      have h2 : EndsWork u s2 := .modCmd h1
      clear_value s2
      split
      · split
        · split
          next d s3 heq =>
            have h3 : EndsWork u s3 := by
              rw [show s3 = (Machine.apTake s2 _ _).2 from (congrArg Prod.snd heq).symm]
              exact .apTake h2
            dsimp only
            split
            · split
              · exact .cmdRefuse h3
              · exact .modCmd (.refs h3)
            · exact h3
        · exact .cmdRefuse h2
      · exact h2

theorem EndsWork.resolveHeld (h : EndsWork u s) : EndsWork u (resolveHeld s) := by
  unfold Machine.resolveHeld
  refine .foldl h fun h => ?_
  split
  · exact h
  · split
    · exact h
    · exact .resolveGraphCmd h

/-! ## Q_DESTROY (R131, R132) -/

/-- No slot serves the queue once it is released, unless the same queue was next there. -/
theorem slotRelease_unbound {q : Nat} (h : s.slots.all (fun e => !(e.2.queue == some q && e.2.next == some q)) = true) :
    boundSlot (slotRelease s q) q = none := by
  unfold boundSlot slotRelease
  dsimp only
  rw [Option.map_eq_none_iff, List.find?_eq_none]
  intro e he
  obtain ⟨a, ha, rfl⟩ := List.mem_map.mp he
  have hnot := List.all_eq_true.mp h a ha
  by_cases hq : a.2.queue = some q
  · rw [if_pos hq]
    simpa [hq] using hnot
  · rw [if_neg hq]
    split <;> simpa using hq

/-- The queue is being destroyed, and none of its slots is its own. -/
def retireQueue (s : State) (q : Nat) : State :=
  modQueue (slotRelease s q) q (fun x => { x with st := .destroying, latch := false })

theorem retireQueue_queue (s : State) (q : Nat) : queueOf (retireQueue s q) q =
    { queueOf (slotRelease s q) q with st := .destroying, latch := false } := queueOf_modQueue_same ..

/-- Its commands that have not started end. -/
def dropUnstarted (s : State) (q : Nat) : State :=
  (unstarted s q).foldl (fun s id => cmdDone s id .preempted 0xFFFF) s

theorem dropUnstarted_ends (s : State) (q : Nat) : EndsWork s (dropUnstarted s q) := .foldl (.refl s) fun h => .cmdDone h

theorem cmdDone_gone (s : State) (id : Nat) (st : Status) (errIdx : BitVec 16) : tfind (cmdDone s id st errIdx).cmds id = none := by
  unfold cmdDone
  split
  next h => exact h
  next c hc =>
    have hmon : (monMiss s (if dOp c.desc = 1 then monOf s c.ctx (dGid c.desc) else none) c.ctx c.s).cmds = s.cmds := by
      rw [monMiss_frame]
    generalize monMiss s (if dOp c.desc = 1 then monOf s c.ctx (dGid c.desc) else none) c.ctx c.s = v at hmon ⊢
    rw [cmdEnd_eq (hmon ▸ hc)]
    have hset (w : State) (q : Nat) : (queueSettle w q).cmds = w.cmds := by
      unfold queueSettle
      split <;> rfl
    rw [hset, releaseCmd_frame]
    exact (congrArg (tfind · id) (RecordsOnly.writeRec (.refl _)).cmds).trans (tfind_tdel_same ..)

/-- Ended commands stay ended while others end. -/
theorem cmdsDone_gone {l : List Nat} {id : Nat} (h : id ∈ l ∨ tfind s.cmds id = none) :
    tfind (l.foldl (fun s id => cmdDone s id .preempted 0xFFFF) s).cmds id = none := by
  induction l generalizing s with
  | nil => exact h.resolve_left List.not_mem_nil
  | cons a l ih =>
    refine ih ?_
    have hstays (hn : tfind s.cmds id = none) : tfind (cmdDone s a .preempted 0xFFFF).cmds id = none := by
      by_contra hne
      obtain ⟨x, hx⟩ := Option.ne_none_iff_exists'.mp hne
      obtain ⟨y, hy, -⟩ := (Unwinds.cmdDone (.refl s)).cmd id x hx
      rw [hn] at hy
      cases hy
    rcases h with h | h
    · rcases List.mem_cons.mp h with rfl | h
      · exact .inr (cmdDone_gone ..)
      · exact .inl h
    · exact .inr (hstays h)

/-- No command of the queue is left that has not started. -/
theorem dropUnstarted_started {q i : Nat} {x : Cmd} (hx : tfind (dropUnstarted s q).cmds i = some x) (hq : x.queue = q) :
    x.started = true := by
  obtain ⟨y, hy, hyq, hys⟩ := (dropUnstarted_ends s q).unwinds.cmd i x hx
  by_contra hns
  have hmem : i ∈ unstarted s q := by
    unfold unstarted
    rw [mem_tkeys]
    exact ⟨y, mem_of_tfind hy, by simp [hyq, hq, hys, hns]⟩
  have hgone : tfind (dropUnstarted s q).cmds i = none := cmdsDone_gone (.inl hmem)
  rw [hgone] at hx
  cases hx

/-- Arms of the queue are taken off its graphs (R146). -/
def disarmQueue (s : State) (q : Nat) : State :=
  (tkeys s.graphs (fun _ g => g.arm.any (·.queue == q))).foldl disarm s

/-- A graph that is disarmed, and the others as they were. -/
theorem disarm_graphs (s : State) (key : Nat) :
    disarm s key = { s with graphs := (disarm s key).graphs, fences := (disarm s key).fences } ∧
    ∀ k g, tfind (disarm s key).graphs k = some g → (k = key ∧ g.arm = none) ∨ (k ≠ key ∧ tfind s.graphs k = some g) := by
  unfold disarm
  split
  next h => exact ⟨rfl, fun k g hg => .inr ⟨fun hk => (by rw [hk, h] at hg; cases hg), hg⟩⟩
  next a ha =>
    have harm (v : State) (a : Option Arm) : armRelease v a = { v with fences := (armRelease v a).fences } := by
      unfold armRelease
      split
      · rfl
      · dsimp only
        split <;> rfl
    rw [harm]
    refine ⟨rfl, fun k g hg => ?_⟩
    have hg' : tfind (tput s.graphs key { a with arm := none }) k = some g := hg
    rw [tfind_tput] at hg'
    split at hg'
    next hk =>
      cases hg'
      exact .inl ⟨hk, rfl⟩
    next hk => exact .inr ⟨hk, hg'⟩

/-- After the graphs of a list are disarmed, those of the list are not armed and the others are as they were. -/
theorem disarms_graphs (l : List Nat) (s : State) :
    l.foldl disarm s = { s with graphs := (l.foldl disarm s).graphs, fences := (l.foldl disarm s).fences } ∧
    ∀ k g, tfind (l.foldl disarm s).graphs k = some g → g.arm = none ∨ (k ∉ l ∧ tfind s.graphs k = some g) := by
  induction l generalizing s with
  | nil => exact ⟨rfl, fun k g hg => .inr ⟨List.not_mem_nil, hg⟩⟩
  | cons a l ih =>
    obtain ⟨hf, hg⟩ := disarm_graphs s a
    obtain ⟨hf', hg'⟩ := ih (disarm s a)
    refine ⟨?_, fun k g hk => ?_⟩
    · rw [List.foldl_cons, hf', hf]
    · rcases hg' k g hk with h | ⟨hnot, h⟩
      · exact .inl h
      · rcases hg k g h with ⟨-, h⟩ | ⟨hne, h⟩
        · exact .inl h
        · exact .inr ⟨by simp [hne, hnot], h⟩

theorem disarmQueue_frame (s : State) (q : Nat) :
    disarmQueue s q = { s with graphs := (disarmQueue s q).graphs, fences := (disarmQueue s q).fences } :=
  (disarms_graphs _ s).1

theorem disarmQueue_unarmed {q k : Nat} {g : Graph} (hg : tfind (disarmQueue s q).graphs k = some g) :
    g.arm.any (·.queue == q) = false := by
  rcases (disarms_graphs _ s).2 k g hg with h | ⟨hnot, h⟩
  · rw [h]
    rfl
  · rw [mem_tkeys] at hnot
    exact Bool.eq_false_iff.mpr fun harm => hnot ⟨g, mem_of_tfind h, harm⟩

theorem qDestroyOp_live {ctx q : Nat} (hl : (queueOf s q).st = .live) (hc : (queueOf s q).ctx = ctx) :
    qDestroyOp s ctx q = (.ok, resolveHeld (queueSettle (disarmQueue (dropUnstarted (retireQueue s q) q) q) q)) := by
  unfold qDestroyOp
  simp only [hl, hc, bne_self_eq_false, Bool.or_self, Bool.false_eq_true, if_false]
  rfl

/-- Any other queue is refused. -/
theorem qDestroyOp_refused {ctx q : Nat} (h : (queueOf s q).st ≠ .live ∨ (queueOf s q).ctx ≠ ctx) :
    qDestroyOp s ctx q = (.bad3, s) := by
  unfold qDestroyOp
  exact if_pos (by simpa using h)

/-- What the end of a queue leaves. -/
theorem destroyed_leaves {q : Nat} (s : State)
    (h : s.slots.all (fun e => !(e.2.queue == some q && e.2.next == some q)) = true) {t : State}
    (ht : t = resolveHeld (queueSettle (disarmQueue (dropUnstarted (retireQueue s q) q) q) q)) :
    (queueOf t q).st ≠ .live ∧ (queueOf t q).latch = false ∧ boundSlot t q = none ∧
      (∀ i x, tfind t.cmds i = some x → x.queue = q → x.started = true) ∧
      ∀ k g, tfind t.graphs k = some g → g.arm.any (·.queue == q) = false := by
  have hlast : EndsWork (disarmQueue (dropUnstarted (retireQueue s q) q) q) t := by
    rw [ht]
    exact .resolveHeld (.queueSettle (.refl _))
  have hdrop := dropUnstarted_ends (retireQueue s q) q
  have hdis := disarmQueue_frame (dropUnstarted (retireQueue s q) q) q
  have hcmds : (disarmQueue (dropUnstarted (retireQueue s q) q) q).cmds = (dropUnstarted (retireQueue s q) q).cmds := by rw [hdis]
  have hall : Unwinds (retireQueue s q) t :=
    (Unwinds.keep hdrop.unwinds hcmds (by rw [hdis])).trans hlast.unwinds
  have hqueue := retireQueue_queue s q
  refine ⟨fun hl => ?_, ?_, ?_, fun i x hx hq => ?_, fun k g hg => ?_⟩
  · have hl' := hall.live q hl
    rw [hqueue] at hl'
    cases hl'
  · by_contra hlt
    have hlt' := hall.latch q (by simpa using hlt)
    rw [hqueue] at hlt'
    cases hlt'
  · have hslots : t.slots = (slotRelease s q).slots := by
      rw [hlast.work]
      dsimp only
      rw [hdis]
      dsimp only
      rw [hdrop.work]
      rfl
    have hfree := slotRelease_unbound h
    unfold boundSlot at hfree ⊢
    rwa [hslots]
  · obtain ⟨y, hy, hyq, hys⟩ := hlast.unwinds.cmd i x hx
    rw [hcmds] at hy
    rw [← hys]
    exact dropUnstarted_started hy (hyq.trans hq)
  · have hgraphs : t.graphs = (disarmQueue (dropUnstarted (retireQueue s q) q) q).graphs := by rw [hlast.work]
    rw [hgraphs] at hg
    exact disarmQueue_unarmed hg

/-! ## Q_CREATE (R128, R132, Table 7-1) -/

/-- The queue a legal block asks for. -/
def blockQueue (ctx : Nat) (b : BitVec 128) : Queue :=
  { st := .live, ctx := ctx, sqOff := bits b 93 65, sqLog := bits b 64 61, cqOff := bits b 127 98
    cqLog := bits b 97 94, pin := bit b 1, cqInt := bit b 0 }

/-- A block whose rings are in windows of the context and for which a slot is left. -/
structure QueueBlock (s : State) (ctx : Nat) (b : BitVec 128) : Prop where
  sqLog  : 4 ≤ bits b 64 61 ∧ bits b 64 61 ≤ 12
  cqLog  : 4 ≤ bits b 97 94 ∧ bits b 97 94 ≤ 12
  sqEnd  : bits b 93 65 * 64 + 64 * 2 ^ bits b 64 61 ≤ 2 ^ 35
  cqEnd  : bits b 127 98 * 32 + 32 * 2 ^ bits b 97 94 ≤ 2 ^ 35
  sqIn   : apRangeIn s (bits b 93 65 * 64) (64 * 2 ^ bits b 64 61) 1 ctx = true
  cqIn   : apRangeIn s (bits b 127 98 * 32) (32 * 2 ^ bits b 97 94) 3 ctx = true
  slots  : slotsLack s (ctxOf s ctx).part (bit b 1) = false

theorem qCreateOp_makes {ctx q page : Nat} {b : BitVec 128} (hq : (queueOf s q).st = .free) (ha : (ctxOf s ctx).st = .active)
    (hw : writePage s page (some ctx) = true) (hbad : pbBad s (page * 4096) 16 = [])
    (hb : b = BitVec.ofNat 128 (leNat (pbFetch s (page * 4096) 16))) (h : QueueBlock s ctx b) :
    qCreateOp s ctx q page = (.ok, if bit b 1 then
      bindPinned { s with queues := tput s.queues q (blockQueue ctx b) } (ctxOf s ctx).part q
      else { s with queues := tput s.queues q (blockQueue ctx b) }) := by
  obtain ⟨⟨h1, h2⟩, ⟨h3, h4⟩, h5, h6, h7, h8, h9⟩ := h
  have hfit : decide (4 ≤ bits b 64 61 ∧ bits b 64 61 ≤ 12 ∧ 4 ≤ bits b 97 94 ∧ bits b 97 94 ≤ 12 ∧
      bits b 93 65 * 64 + 64 * 2 ^ bits b 64 61 ≤ 2 ^ 35 ∧ bits b 127 98 * 32 + 32 * 2 ^ bits b 97 94 ≤ 2 ^ 35) = true :=
    decide_eq_true ⟨h1, h2, h3, h4, h5, h6⟩
  unfold qCreateOp
  simp only [hq, ha, hw, pbTake_sound hbad, ← hb, hfit, h7, h8, h9, bne_self_eq_false, Bool.or_self, Bool.and_self,
    Bool.not_true, Bool.false_eq_true, if_false]
  rfl

/-- A queue in use, a context not ACTIVE or a block outside its WRITE window is refused. -/
theorem qCreateOp_refused {ctx q page : Nat}
    (h : (queueOf s q).st ≠ .free ∨ (ctxOf s ctx).st ≠ .active ∨ writePage s page (some ctx) = false) :
    qCreateOp s ctx q page =
      (if (queueOf s q).st ≠ .free ∨ (ctxOf s ctx).st ≠ .active then .bad3 else .badBlock, s) := by
  unfold qCreateOp
  by_cases hbad : (queueOf s q).st ≠ .free ∨ (ctxOf s ctx).st ≠ .active
  · rw [if_pos hbad, if_pos (by simpa using hbad)]
  · have hw : writePage s page (some ctx) = false := by tauto
    rw [if_neg hbad, if_neg (by simpa using hbad), hw]
    rfl

/-- A pinned queue changes slots alone; a free slot is its own at once. -/
theorem bindPinned_frame (s : State) (p q : Nat) :
    bindPinned s p q = { s with slots := (bindPinned s p q).slots, orders := (bindPinned s p q).orders } := by
  unfold bindPinned
  split
  · exact (bindSlot_only ..).1
  · split
    · exact (bindSlot_only ..).1
    · split <;> rfl

theorem bindPinned_free {p q i : Nat} (h : freeSlot s p = some i) :
    slotOf (bindPinned s p q) i = { queue := some q, st := .idle, idleOrd := s.orders } := by
  have hb : bindPinned s p q = bindSlot s i q := by
    unfold bindPinned
    rw [h]
  rw [hb]
  exact (bindSlot_only s i q).2.1

/-- A legal block makes the queue. -/
theorem qCreate_makes {tag : BitVec 2} {ctx q page : Nat} {b : BitVec 128} (h : FeReady s) (hbusy : s.feCmd.busy = false)
    (hctx : ctx < 1024) (hq : q < 1024) (hpage : page < 8192) (hfree : (queueOf s q).st = .free)
    (ha : (ctxOf s ctx).st = .active) (hw : writePage s page (some ctx) = true) (hbad : pbBad s (page * 4096) 16 = [])
    (hb : b = BitVec.ofNat 128 (leNat (pbFetch s (page * 4096) 16))) (hblock : QueueBlock s ctx b) :
    ∃ t, exec (.qCreate tag ctx q page) s = .next t ∧
      t = { s with queues := t.queues, slots := t.slots, orders := t.orders, feCmd := t.feCmd } ∧
      queueOf t q = blockQueue ctx b ∧
      t.feCmd = done tag.toNat .ok 0 ∧ (∀ r, r ≠ q → queueOf t r = queueOf s r) ∧
      (bit b 1 = false → t.slots = s.slots) ∧
      ∀ i, bit b 1 = true → freeSlot s (ctxOf s ctx).part = some i →
        slotOf t i = { queue := some q, st := .idle, idleOrd := s.orders } := by
  have hexec := exec_qCreate h hbusy (tag := tag) hctx hq hpage
  rw [qCreateOp_makes hfree ha hw hbad hb hblock] at hexec
  have hsame : queueOf { s with queues := tput s.queues q (blockQueue ctx b) } q = blockQueue ctx b := tget_tput_same ..
  have hother (r : Nat) (hr : r ≠ q) : queueOf { s with queues := tput s.queues q (blockQueue ctx b) } r = queueOf s r :=
    tget_tput_other _ _ _ _ _ hr
  cases hp : bit b 1 with
  | false =>
    rw [hp, if_neg Bool.false_ne_true] at hexec
    obtain ⟨v, hv⟩ : ∃ v, v = { s with queues := tput s.queues q (blockQueue ctx b) } := ⟨_, rfl⟩
    rw [← hv] at hexec hsame hother
    refine ⟨_, hexec, ?_, hsame, rfl, hother, fun _ => ?_, fun _ hpin => by cases hpin⟩
    · rw [hv]
    · rw [hv]
  | true =>
    rw [hp, if_pos rfl] at hexec
    have hframe := bindPinned_frame { s with queues := tput s.queues q (blockQueue ctx b) } (ctxOf s ctx).part q
    have hfind (i : Nat) (hi : freeSlot s (ctxOf s ctx).part = some i) :
        slotOf (bindPinned { s with queues := tput s.queues q (blockQueue ctx b) } (ctxOf s ctx).part q) i =
          { queue := some q, st := .idle, idleOrd := s.orders } :=
      bindPinned_free (s := { s with queues := tput s.queues q (blockQueue ctx b) }) hi
    generalize bindPinned { s with queues := tput s.queues q (blockQueue ctx b) } (ctxOf s ctx).part q = v
      at hexec hframe hfind
    have hqueues (r : Nat) : queueOf v r = queueOf { s with queues := tput s.queues q (blockQueue ctx b) } r := by
      rw [hframe]
      rfl
    refine ⟨_, hexec, ?_, (hqueues q).trans hsame, rfl, fun r hr => (hqueues r).trans (hother r hr), fun hpin => ?_,
      fun i _ hi => hfind i hi⟩
    · rw [hframe]
    · cases hpin

/-- Settles O23: Q_CREATE writes one queue and binds at most a slot; after Q_DESTROY nothing of the queue can come back, since
what ends or resolves work makes no queue LIVE and no command new. -/
theorem queueCommands : Obligations.QueueCommands := by
  unfold Obligations.QueueCommands
  refine ⟨?_, ?_, ?_, ?_⟩
  · intro s tag ctx q page b h hbusy hctx hq hpage hfree ha hw hbad hb h1 h2 h3 h4 h5 h6 h7 h8 h9
    exact qCreate_makes h hbusy hctx hq hpage hfree ha hw hbad hb ⟨⟨h1, h2⟩, ⟨h3, h4⟩, h5, h6, h7, h8, h9⟩
  · intro s tag ctx q page r h hbusy hctx hq hpage hno hr
    rw [exec_qCreate h hbusy hctx hq hpage, qCreateOp_refused hno, ← hr]
  · intro s tag ctx q h hbusy hctx hq hl hc hslots
    have hexec := exec_qDestroy h hbusy (tag := tag) hctx hq
    obtain ⟨v, hv⟩ : ∃ v, v = resolveHeld (queueSettle (disarmQueue (dropUnstarted (retireQueue s q) q) q) q) := ⟨_, rfl⟩
    rw [qDestroyOp_live hl hc, ← hv] at hexec
    obtain ⟨hst, hlatch, hbound, hcmds, hgraphs⟩ := destroyed_leaves s hslots hv
    exact ⟨_, hexec, hst, hlatch, hbound, rfl, hcmds, hgraphs⟩
  · intro s tag ctx q h hbusy hctx hq hno
    rw [exec_qDestroy h hbusy hctx hq, qDestroyOp_refused hno]

end Sys2Proof.Machine
end

section
/-! # A launch's patches, and the life of an `Inst` to its start (R138, R142 to R145, Table 7-9) -/

namespace Sys2Proof.Machine

set_option Elab.async false

variable {s t u v : State} {id i : Nat} {x : Inst} {g : Graph}

/-! ## Writes of intact memory leave it intact (R297) -/

theorem NoBadMac.wcPut (h : NoBadMac s) (a : Nat) (d : List (Option Byte)) : NoBadMac (wcPut s a d) := by
  unfold Machine.wcPut
  split
  · exact h
  · dsimp only
    split
    · exact .wcFlush (.keep h) _
    · split
      · exact .wcFlush (.keep h) _
      · exact h

theorem NoBadMac.dmWriteLine (h : NoBadMac s) (pol a : Nat) (d : List (Option Byte)) :
    NoBadMac (dmWriteLine s pol a d) := by
  unfold Machine.dmWriteLine
  extract_lets s1
  have h1 : NoBadMac s1 := by
    unfold s1
    split
    · exact h.l2Fill a
    · exact h
  clear_value s1
  split
  · dsimp only
    split
    · exact h1
    · split
      · exact .dramMask (.keep h1) a d
      · exact .dramPut (.keep h1) _ _
  · split
    · exact h1.wcPut a d
    · exact (h1.wcFlush a).dramMask a d

theorem NoBadMac.dmWriteLines (f : Nat) (h : NoBadMac s) (pol a : Nat) (d : List (Option Byte)) :
    NoBadMac (dmWriteLines f s pol a d) := by
  induction f generalizing s a d with
  | zero => exact h
  | succ f ih =>
    cases d with
    | nil => exact h
    | cons b d => exact ih (h.dmWriteLine pol a _) _ _

theorem NoBadMac.dmWrite (h : NoBadMac s) (pol a : Nat) (d : List Byte) : NoBadMac (dmWrite s pol a d) := by
  have hheal : NoBadMac (dmHeal s a (d.map some)) := by
    unfold NoBadMac dmHeal at *
    rw [h]
    rfl
  unfold Machine.dmWrite dmWriteOpt
  dsimp only
  split
  · exact hheal
  · exact hheal.dmWriteLines _ pol a _

/-! ## The parameter block is patched (R138, R140) -/

/-- Where every line is intact, a write into a parameter block is made. -/
theorem paramWrite_intact (h : NoBadMac s) (g : Graph) (off : Nat) (d : List Byte) :
    paramWrite s g off d = dmWrite s (polAt s g.ctx (g.param off)) (g.param off) d := by
  have hdrops : macDrops s (g.param off) d.length = none := by
    unfold macDrops
    rw [h]
    rfl
  unfold paramWrite
  rw [hdrops]

/-- Patches of an intact parameter block change device memory alone. -/
theorem applyPatches_intact (h : NoBadMac s) (g : Graph) (vals : Bool) (trig : W64) (vs : List W64) (rs : List Range) :
    applyPatches s g vals trig vs rs = { s with mem := (applyPatches s g vals trig vs rs).mem } := by
  unfold applyPatches
  induction patchWrites vals trig g.patches vs rs generalizing s with
  | nil => rfl
  | cons w l ih =>
    rw [List.foldl_cons, paramWrite_intact h, ih (h.dmWrite _ _ _), dmWrite_frame]

/-! ## A launch makes an `Inst` (R142, R143) -/

/-- An operation of a started command acts. -/
theorem startedCmd_acts {op : Nat} {c : Cmd} (hc : tfind s.cmds id = some c) (hst : c.started = true)
    (hop : dOp c.desc = op) (hdisp : dispatching s = true) (f : State → Cmd → State) : startedCmd s id op f = f s c := by
  unfold startedCmd
  rw [hc]
  exact if_pos (by simp [hst, hop, hdisp])

/-- A launch adds its `Inst` under the next number, and its patches change device memory. -/
theorem launched_frame (h : NoBadMac s) (x : Inst) (g : Graph) (vals : Bool) (trig : W64) (vs : List W64) (rs : List Range)
    (ht : t = applyPatches (addInst s x) g vals trig vs rs) :
    t = { s with insts := tput s.insts s.orders x, orders := s.orders + 1, mem := t.mem } := by
  rw [ht]
  exact applyPatches_intact (s := addInst s x) h g vals trig vs rs

/-- A started launch whose turn has come. -/
structure Launchable (s : State) (id key : Nat) (c : Cmd) (g : Graph) : Prop where
  runs   : s.runs = true
  cmd    : tfind s.cmds id = some c
  disp   : dispatching s = true
  coming : coming s id c = true
  graph  : startedGraph s c = some (key, g)
  idle   : instBusy s key = false
  part   : fnOn s (ctxOf s c.ctx).part = true
  turn   : walkerTurn s (ctxOf s c.ctx).part id c = true

/-- The walker's turn in a partition has gone to a slot. -/
def walkerServed (s : State) (p slot : Nat) : State :=
  { s with rr := { s.rr with walk := tput s.rr.walk p slot } }

theorem exec_launchGraph {key : Nat} {c : Cmd} (h : Launchable s id key c g) : exec (.launchGraph id) s = .next
    (applyPatches (addInst (walkerServed s (ctxOf s c.ctx).part c.slot)
      (mkInst (walkerServed s (ctxOf s c.ctx).part c.slot) key g c.queue c.desc (some id) none c.sig (some c))) g
      (dPatch c.desc) (BitVec.ofNat 64 (dTag c.desc)) c.pvals c.ranges) := by
  have hcoming := h.coming
  unfold coming at hcoming
  simp only [Bool.and_eq_true, beq_iff_eq] at hcoming
  obtain ⟨⟨hst, hop⟩, -⟩ := hcoming
  refine (onLive_runs h.runs _).trans (congrArg Host.Outcome.next ?_)
  unfold launchOp
  rw [startedCmd_acts h.cmd hst hop h.disp]
  simp only [h.coming, h.part, h.graph, h.idle, h.turn, Bool.not_true, Bool.or_self, Bool.false_eq_true, if_false]
  rfl

theorem launch_makes {key : Nat} {c : Cmd} (h : Launchable s id key c g) (hmac : NoBadMac s) :
    ∃ t x, exec (.launchGraph id) s = .next t ∧ tfind t.insts s.orders = some x ∧
      (∀ i, i ≠ s.orders → tfind t.insts i = tfind s.insts i) ∧
      t = { s with insts := t.insts, orders := s.orders + 1, rr := t.rr, mem := t.mem } ∧
      x.key = key ∧ x.ctx = g.ctx ∧ x.cmd = some id ∧ x.queue = c.queue ∧ x.s = c.s ∧ x.sig = c.sig ∧
      x.nodes = freshNodes g ∧ x.released = false ∧ x.fail = none := by
  obtain ⟨t, ht⟩ : ∃ t, exec (.launchGraph id) s = .next t := ⟨_, exec_launchGraph h⟩
  have heq := Host.Outcome.next.inj (ht.symm.trans (exec_launchGraph h))
  have hframe := launched_frame (s := walkerServed s (ctxOf s c.ctx).part c.slot) hmac _ _ _ _ _ _ heq
  generalize hx : mkInst (walkerServed s (ctxOf s c.ctx).part c.slot) key g c.queue c.desc (some id) none c.sig (some c) = x
    at hframe
  have hinsts : t.insts = tput s.insts s.orders x := by rw [hframe]; rfl
  refine ⟨t, x, ht, ?_, fun i hi => ?_, ?_, ?_⟩
  · rw [hinsts, tfind_tput_same]
  · rw [hinsts, tfind_tput_other _ _ _ _ hi]
  · rw [hframe]
    rfl
  · rw [← hx]
    exact ⟨rfl, rfl, rfl, rfl, rfl, rfl, rfl, rfl, rfl⟩

/-! ## WAIT nodes (R144) -/

theorem mem_nodesWhere {p : BitVec 512 → Bool} :
    i ∈ nodesWhere g p ↔ i < g.nodes.length ∧ p (g.nodes.getD i 0) = true := by
  unfold nodesWhere
  simp only [List.mem_map, List.mem_filter, List.mem_zipIdx_iff_getElem?, Prod.exists]
  constructor
  · rintro ⟨n, j, ⟨hn, hp⟩, rfl⟩
    obtain ⟨hj, rfl⟩ := List.getElem?_eq_some_iff.mp hn
    exact ⟨hj, by rwa [List.getD_eq_getElem _ _ hj]⟩
  · rintro ⟨hi, hp⟩
    rw [List.getD_eq_getElem _ _ hi] at hp
    exact ⟨_, i, ⟨List.getElem?_eq_getElem hi, hp⟩, rfl⟩

/-- The WAIT nodes of an `Inst` that are not done. -/
def waitsLeft (g : Graph) (x : Inst) : List Nat :=
  (nodesWhere g (fun n => nType n == 5)).filter (fun i => (x.node i).st != .done)

theorem mem_waitsLeft : i ∈ waitsLeft g x ↔
    (i < g.nodes.length ∧ nType (g.nodes.getD i 0) = 5) ∧ (x.node i).st ≠ .done := by
  unfold waitsLeft
  rw [List.mem_filter, mem_nodesWhere, beq_iff_eq, bne_iff_ne]

/-- The fence and value a WAIT node names. -/
def waitFence (s : State) (g : Graph) (x : Inst) (i : Nat) : Nat × W64 :=
  (nodeFence s g x (g.nodes.getD i 0)).getD (0, 0)

/-- A WAIT node is met. -/
def nodeMet (s : State) (g : Graph) (x : Inst) (i : Nat) : Bool :=
  fenceMet s (waitFence s g x i).1 (waitFence s g x i).2

/-- The state with the `Inst` in its walker place. -/
def placedState (s : State) (id : Nat) : State := modInst s id (fun x => { x with placed := true })

/-- The state with further WAIT nodes done. -/
def waitsDone (s : State) (id : Nat) (l : List Nat) : State :=
  l.foldl (fun t i => modNode t id i (fun r => { r with st := .done })) s

/-- An `Inst` that may start: not released, in a partition that runs, and every WAIT node reads its fence, which is
not abandoned where the node is not done. -/
structure Waiting (s : State) (id : Nat) (x : Inst) (g : Graph) : Prop where
  runs     : s.runs = true
  inst     : tfind s.insts id = some x
  graph    : graphOf s x = some g
  held     : x.released = false
  part     : partRuns s x.part = true
  readable : ∀ i, i < g.nodes.length → nType (g.nodes.getD i 0) = 5 → nodeParamFault s g (g.nodes.getD i 0) = none ∧
    ∃ f, nodeFence s g x (g.nodes.getD i 0) = some f ∧ ((x.node i).st = .done ∨ (fenceOf s f.1).abandoned = false)

/-- With every WAIT node met the roots are released, else those met are done. -/
theorem exec_instanceStart (h : Waiting s id x g) : exec (.instanceStart id) s = .next
    (if (waitsLeft g x).all (nodeMet s g x) then releaseRoots (placedState s id) id g
      else waitsDone (placedState s id) id ((waitsLeft g x).filter (nodeMet s g x))) := by
  have hfault : (nodesWhere g (fun n => nType n == 5)).findSome?
      (fun i => nodeParamFault (placedState s id) g (g.nodes.getD i 0)) = none := by
    refine List.findSome?_eq_none_iff.mpr fun i hi => ?_
    obtain ⟨hlt, ht⟩ := mem_nodesWhere.mp hi
    exact (h.readable i hlt (by simpa using ht)).1
  have hfence : (nodesWhere g (fun n => nType n == 5)).find?
      (fun i => (nodeFence (placedState s id) g x (g.nodes.getD i 0)).isNone) = none := by
    refine List.find?_eq_none.mpr fun i hi => ?_
    obtain ⟨hlt, ht⟩ := mem_nodesWhere.mp hi
    obtain ⟨-, f, hf, -⟩ := h.readable i hlt (by simpa using ht)
    have hf' : nodeFence (placedState s id) g x (g.nodes.getD i 0) = some f := hf
    rw [hf', Option.isNone_some]
    exact Bool.false_ne_true
  have hlive : (waitsLeft g x).any (fun i => (fenceOf s (waitFence s g x i).1).abandoned) = false := by
    refine List.any_eq_false.mpr fun i hi => ?_
    obtain ⟨⟨hlt, ht⟩, hnd⟩ := mem_waitsLeft.mp hi
    obtain ⟨-, f, hf, hor⟩ := h.readable i hlt ht
    rw [waitFence, hf, Option.getD_some, hor.resolve_left hnd]
    exact Bool.false_ne_true
  refine (onLive_runs h.runs _).trans (congrArg Host.Outcome.next ?_)
  unfold instStartOp
  simp only [h.inst, h.graph, h.held, h.part, Bool.not_true, Bool.or_self, Bool.false_eq_true, if_false]
  rw [← placedState, hfault, hfence]
  dsimp only
  exact (if_neg (Bool.eq_false_iff.mp hlive)).trans rfl

/-! ## The roots are released (R141, R143) -/

/-- The `Inst` with its roots released. -/
def releasedInst (s : State) (g : Graph) (x : Inst) : Inst :=
  { x with
    placed := true, released := true, norm := if x.isFb then 0 else x.norm
    normAt := if x.isFb then now35 s else x.normAt
    nodes := x.nodes.map fun e => (e.1, if nType (g.nodes.getD e.1 0) = 5 then { e.2 with st := .done }
      else if g.roots.contains e.1 || (64 ≤ g.roots.length && e.2.ctr == 0) then { e.2 with st := .ready }
      else e.2) }

theorem modInst_find (hx : tfind s.insts id = some x) (f : Inst → Inst) : tfind (modInst s id f).insts id = some (f x) := by
  unfold modInst
  dsimp only
  rw [tfind_tupd_same, hx, Option.map_some]

theorem modInst_other (f : Inst → Inst) {j : Nat} (h : j ≠ id) : tfind (modInst s id f).insts j = tfind s.insts j := by
  unfold modInst
  dsimp only
  exact tfind_tupd_other _ _ _ _ h

/-- An `Inst` with a node other than WAIT nodes goes on. -/
theorem releaseRoots_find (hx : tfind s.insts id = some x) (hg : g.nodes.any (fun n => nType n != 5) = true)
    (ht : t = releaseRoots (placedState s id) id g) :
    t = { s with insts := t.insts } ∧ (∀ j, j ≠ id → tfind t.insts j = tfind s.insts j) ∧
      tfind t.insts id = some (releasedInst s g x) := by
  have hall : g.nodes.all (fun n => nType n == 5) = false := by
    obtain ⟨n, hn, hne⟩ := List.any_eq_true.mp hg
    exact List.all_eq_false.mpr ⟨n, hn, by simpa using hne⟩
  unfold releaseRoots at ht
  rw [hall, if_neg Bool.false_ne_true] at ht
  rw [ht]
  refine ⟨rfl, fun j hj => ?_, ?_⟩
  · exact (modInst_other _ hj).trans (modInst_other _ hj)
  · exact modInst_find (modInst_find hx _) _

/-- With every WAIT node met the `Inst` starts. -/
theorem inst_starts (h : Waiting s id x g) (hg : g.nodes.any (fun n => nType n != 5) = true)
    (hmet : ∀ i ∈ waitsLeft g x, nodeMet s g x i = true) :
    ∃ t, exec (.instanceStart id) s = .next t ∧ t = { s with insts := t.insts } ∧
      (∀ j, j ≠ id → tfind t.insts j = tfind s.insts j) ∧ tfind t.insts id = some (releasedInst s g x) := by
  have hexec := exec_instanceStart h
  rw [if_pos (List.all_eq_true.mpr hmet)] at hexec
  exact ⟨_, hexec, releaseRoots_find h.inst hg rfl⟩

/-! ## An `Inst` waits on -/

/-- Only nodes of the list change. -/
theorem waitsDone_find (l : List Nat) (hx : tfind s.insts id = some x) :
    waitsDone s id l = { s with insts := (waitsDone s id l).insts } ∧
    (∀ j, j ≠ id → tfind (waitsDone s id l).insts j = tfind s.insts j) ∧
    ∃ ns, tfind (waitsDone s id l).insts id = some { x with nodes := ns } ∧
      ∀ j, j ∉ l → tfind ns j = tfind x.nodes j := by
  induction l generalizing s x with
  | nil => exact ⟨rfl, fun _ _ => rfl, x.nodes, hx, fun _ _ => rfl⟩
  | cons a l ih =>
    obtain ⟨hframe, hother, ns, hns, hkeep⟩ := ih (modNode_find hx a (fun r => { r with st := .done }))
    refine ⟨hframe, fun j hj => (hother j hj).trans (modNode_other _ _ hj), ns, hns, fun j hj => ?_⟩
    rw [List.mem_cons, not_or] at hj
    rw [hkeep j hj.2]
    dsimp only
    rw [tfind_tupd_other _ _ _ _ hj.1]

/-- While a WAIT node is not met the `Inst` holds its place and waits. -/
theorem inst_waits (h : Waiting s id x g) (hi : i ∈ waitsLeft g x) (hmet : nodeMet s g x i = false) :
    ∃ t y, exec (.instanceStart id) s = .next t ∧ t = { s with insts := t.insts } ∧
      (∀ j, j ≠ id → tfind t.insts j = tfind s.insts j) ∧ tfind t.insts id = some y ∧
      y.placed = true ∧ y.released = false ∧ y.node i = x.node i ∧
      ∀ j, nType (g.nodes.getD j 0) ≠ 5 → y.node j = x.node j := by
  have hnot : ¬(waitsLeft g x).all (nodeMet s g x) = true := fun hall => by
    rw [List.all_eq_true.mp hall i hi] at hmet
    cases hmet
  have hexec := exec_instanceStart h
  rw [if_neg hnot] at hexec
  have hfind : tfind (placedState s id).insts id = some { x with placed := true } := modInst_find h.inst _
  obtain ⟨hframe, hother, ns, hns, hkeep⟩ := waitsDone_find ((waitsLeft g x).filter (nodeMet s g x)) hfind
  have hnode {j : Nat} (hj : j ∉ (waitsLeft g x).filter (nodeMet s g x)) :
      ({ x with placed := true, nodes := ns } : Inst).node j = x.node j := by
    unfold Inst.node tget
    dsimp only
    rw [hkeep j hj]
  refine ⟨_, _, hexec, ?_, fun j hj => (hother j hj).trans (modInst_other _ hj), hns, rfl, h.held, hnode ?_,
    fun j hj => hnode ?_⟩
  · rw [hframe]
    rfl
  · simp [hmet]
  · intro hmem
    exact hj (mem_waitsLeft.mp (List.mem_filter.mp hmem).1).1.2

/-! ## A WAIT node's limit passes (R144) -/

/-- The `Inst` and its command end with TIMEOUT. -/
theorem wait_times_out {node k : Nat} {f : Nat × W64} {c : Cmd} {e : WtEntry} (hruns : s.runs = true)
    (hx : tfind s.insts id = some x) (hg : graphOf s x = some g) (hf : nodeFence s g x (g.nodes.getD node 0) = some f)
    (hplaced : x.placed = true) (hheld : x.released = false) (hdisp : dispatching s = true)
    (hlt : node < g.nodes.length) (ht : nType (g.nodes.getD node 0) = 5) (hnd : (x.node node).st ≠ .done)
    (hlimit : nLimit (g.nodes.getD node 0) ≠ 0) (hmet : fenceMet s f.1 f.2 = false) :
    ∃ t, exec (.waitNodeTimeout id node) s = .next t ∧ tfind t.insts id = none ∧
      (∀ j, j ≠ id → (tfind t.insts j).isSome = (tfind s.insts j).isSome) ∧
      (Memory.wf s.pb = true → x.cmd = some k → tfind s.cmds k = some c → (queueOf s c.queue).st = .live →
        placeEntry s (queueOf s c.queue) = some e → Completes s t k c e .timeout) := by
  have hop : waitNodeTimeoutOp s id node = finishInst s id .timeout 0xFFFF := by
    unfold waitNodeTimeoutOp
    simp only [hx, hg, hf, hplaced, hheld, hdisp, decide_eq_true hlt, bne_iff_ne.mpr hnd, ht, bne_iff_ne.mpr hlimit, hmet,
      Bool.not_false, beq_self_eq_true, Bool.and_self, if_true]
  refine ⟨finishInst s id .timeout 0xFFFF, (onLive_runs hruns _).trans (congrArg Host.Outcome.next hop), ?_, fun j hj => ?_,
    fun hw hk hc hq he => ?_⟩
  · rw [finishInst_gone hx, tfind_tdel_same]
  · rw [finishInst_gone hx, tfind_tdel, if_neg hj]
  · have hend := finishInst_completes hx .timeout hw hk hc hq he
    rwa [if_neg (by simp)] at hend

/-- Settles O25: a launch adds one `Inst` under the next number; its start turns on which of its WAIT nodes are met, and
a limit that passes ends it. -/
theorem instanceLife : Obligations.InstanceLife := by
  unfold Obligations.InstanceLife
  refine ⟨?_, ?_, ?_, ?_⟩
  · intro s id key c g hruns hc hdisp hcoming hgraph hidle hpart hturn hmac
    exact launch_makes ⟨hruns, hc, hdisp, hcoming, hgraph, hidle, hpart, hturn⟩ hmac
  · intro s id x g hruns hx hg hheld hpart hwork hwaits
    refine inst_starts ⟨hruns, hx, hg, hheld, hpart, fun i hlt ht => ?_⟩ hwork fun i hi => ?_
    · obtain ⟨hread, f, hf, hor⟩ := hwaits i hlt ht
      exact ⟨hread, f, hf, hor.imp_right And.left⟩
    · obtain ⟨⟨hlt, ht⟩, hnd⟩ := mem_waitsLeft.mp hi
      obtain ⟨-, f, hf, hor⟩ := hwaits i hlt ht
      rw [nodeMet, waitFence, hf]
      exact (hor.resolve_left hnd).2
  · intro s id i x g f hruns hx hg hheld hpart hwaits hlt ht hf hnd hmet
    refine inst_waits ⟨hruns, hx, hg, hheld, hpart, hwaits⟩ (mem_waitsLeft.mpr ⟨⟨hlt, ht⟩, hnd⟩) ?_
    rwa [nodeMet, waitFence, hf]
  · intro s id node k x g f c e hruns hx hg hf hplaced hheld hdisp hlt ht hnd hlimit hmet
    exact wait_times_out hruns hx hg hf hplaced hheld hdisp hlt ht hnd hlimit hmet

end Sys2Proof.Machine
end

section
/-! # Registered, destroyed, armed and triggered graphs (R138 to R142, R146, R147, R440) -/

namespace Sys2Proof.Machine

set_option Elab.async false

variable {s t u v : State} {id : Nat} {c : Cmd} {g : Graph}

/-! ## What held resolutions are made of (R113, R138, R440) -/

section Keeps

variable {P : State → Prop}

theorem pbTake_keeps (herr : ∀ {v ctx r cause inst}, P v → P (ctxError v ctx r cause inst)) (h : P s) (off n : Nat) :
    P (pbTake s off n).2 := by
  unfold pbTake
  dsimp only
  split
  · exact h
  · split
    · exact h
    · dsimp only
      exact herr h

theorem apTake_keeps (herr : ∀ {v ctx r cause inst}, P v → P (ctxError v ctx r cause inst)) (h : P s) (off n : Nat) :
    P (apTake s off n).2 := by
  unfold apTake
  split
  · dsimp only
    split
    · split
      · exact pbTake_keeps herr (pbTake_keeps herr h _ _) _ _
      · exact pbTake_keeps herr h _ _
    · exact pbTake_keeps herr h _ _
  · exact h

/-- A resolution changes its command, reads the port buffer, takes references, or refuses its command. -/
theorem resolveGraphCmd_keeps (hcmd : ∀ {v id f}, P v → P (modCmd v id f))
    (hrefs : ∀ {v} {fs os : List Nat}, P v → P (fs.foldl fenceRef (os.foldl objRef v)))
    (herr : ∀ {v ctx r cause inst}, P v → P (ctxError v ctx r cause inst))
    (hrefuse : ∀ {v id check detail st}, P v → P (cmdRefuse v id check detail st)) (h : P s) (id : Nat) :
    P (resolveGraphCmd s id) := by
  unfold resolveGraphCmd
  split
  · exact h
  · extract_lets s1
    have h1 : P s1 := hcmd h
    clear_value s1
    split
    · exact hrefuse h1
    · extract_lets s2
      have h2 : P s2 := hcmd h1
      clear_value s2
      split
      · split
        · have h3 := apTake_keeps herr h2
          dsimp only
          split
          · split
            · exact hrefuse (h3 _ _)
            · exact hcmd (hrefs (h3 _ _))
          · exact h3 _ _
        · exact hrefuse h2
      · exact h2

/-- Held resolutions that are made up for do nothing else. -/
theorem resolveHeld_keeps (hcmd : ∀ {v id f}, P v → P (modCmd v id f))
    (hrefs : ∀ {v} {fs os : List Nat}, P v → P (fs.foldl fenceRef (os.foldl objRef v)))
    (herr : ∀ {v ctx r cause inst}, P v → P (ctxError v ctx r cause inst))
    (hrefuse : ∀ {v id check detail st}, P v → P (cmdRefuse v id check detail st)) (h : P s) : P (resolveHeld s) := by
  unfold resolveHeld
  induction tkeys s.cmds (fun _ c => c.unresolved) generalizing s with
  | nil => exact h
  | cons i l ih =>
    refine ih ?_
    dsimp only
    split
    · exact h
    · split
      · exact h
      · exact resolveGraphCmd_keeps hcmd hrefs herr hrefuse h i

end Keeps

theorem Later.refs {fs os : List Nat} (h : Later u s) : Later u (fs.foldl fenceRef (os.foldl objRef s)) :=
  .foldl (.foldl h fun h => .keep h) fun h => .keep h

theorem Later.cmdRefuse {check detail st} (h : Later u s) : Later u (cmdRefuse s id check detail st) := by
  unfold Machine.cmdRefuse
  split
  · exact h
  · exact .cmdDone (.event h)

/-- Records in the log stay while held resolutions are made up for. -/
theorem resolveHeld_recs (s : State) : s.log.recs <+: (resolveHeld s).log.recs :=
  resolveHeld_keeps (P := fun v => s.log.recs <+: v.log.recs) (fun h => h)
    (fun {v _ _} h => h.trans (Later.refs (.refl v)).recs)
    (fun {v ctx r cause inst} h =>
      h.trans ((Later.errWrite (r := r) (.refl v)).recs.trans (ctxLose_reported _ ctx cause _ inst).recs))
    (fun {v _ _ _ _} h => h.trans (Later.cmdRefuse (.refl v)).recs) List.prefix_rfl

/-! ## What the end of work leaves (R100, R123) -/

theorem EndsWork.graphs (h : EndsWork s t) : t.graphs = s.graphs := by rw [h.work]

/-- A command that has ended does not come back. -/
theorem EndsWork.gone (h : EndsWork s t) (hn : tfind s.cmds id = none) : tfind t.cmds id = none := by
  by_contra hne
  obtain ⟨x, hx⟩ := Option.ne_none_iff_exists'.mp hne
  obtain ⟨y, hy, -⟩ := h.unwinds.cmd id x hx
  rw [hn] at hy
  cases hy

/-- A command that fails a check ends, with the record of the check first (Table 22-5a). -/
theorem cmdRefuse_refuses (hc : tfind s.cmds id = some c) (check detail : Nat) (st : Status) :
    RefusedBy s (cmdRefuse s id check detail st) id c check detail := by
  unfold cmdRefuse
  rw [hc]
  have hrec : Appends s (submitFault s c.ctx c.queue check detail st) _ := event_appends_ctx _ _ _ _ _ _ _ _
  exact ⟨cmdDone_gone .., hrec.first (Later.cmdDone (.refl _)).recs⟩

/-- It stays so while held resolutions are made up for. -/
theorem RefusedBy.resolveHeld {check detail : Nat} (h : RefusedBy s t id c check detail) :
    RefusedBy s (resolveHeld t) id c check detail := by
  obtain ⟨hgone, hrec⟩ := h
  refine ⟨EndsWork.gone (.resolveHeld (.refl t)) hgone, fun hfree => ?_⟩
  obtain ⟨r, l, hr, hp⟩ := hrec hfree
  obtain ⟨k, hk⟩ := resolveHeld_recs t
  exact ⟨r, l ++ k, by rw [← hk, hr, List.append_assoc, List.cons_append], hp⟩

/-! ## A started command of an operation acts -/

/-- Command `id`, which has started, has operation `op`, and dispatch runs. -/
structure StartedOp (s : State) (id op : Nat) (c : Cmd) : Prop where
  runs    : s.runs = true
  cmd     : tfind s.cmds id = some c
  started : c.started = true
  op      : dOp c.desc = op
  disp    : dispatching s = true

theorem StartedOp.acts {op : Nat} (h : StartedOp s id op c) (f : State → Cmd → State) :
    onLive s (startedCmd s id op f) = .next (f s c) :=
  (onLive_runs h.runs _).trans (congrArg Host.Outcome.next (startedCmd_acts h.cmd h.started h.op h.disp f))

/-- The command is refused with check 0xA, and no graph changes. -/
theorem refused_graphs (hc : tfind s.cmds id = some c) (hexec : u = cmdRefuse s id 0xA (dGid c.desc) .formatFault) :
    u.graphs = s.graphs ∧ RefusedBy s u id c 0xA (dGid c.desc) := by
  rw [hexec]
  exact ⟨EndsWork.graphs (.cmdRefuse (.refl s)), cmdRefuse_refuses hc ..⟩

/-! ## REGISTER_GRAPH (R139, R140) -/

/-- An image that passes every check enters the directory. -/
theorem register_enters (h : StartedOp s id 2 c) (himg : imageFault s c = none) (hg : graphCheck s id c = .ok g) :
    ∃ t, exec (.registerGraph id) s = .next t ∧ tfind t.graphs (graphKey c.ctx (dGid c.desc)) = some g ∧
      tfind t.cmds id = none ∧ ∀ k, k ≠ graphKey c.ctx (dGid c.desc) → tfind t.graphs k = tfind s.graphs k := by
  have hexec : exec (.registerGraph id) s = .next _ := h.acts _
  simp only [himg, hg] at hexec
  have hrefs : (g.fences.foldl fenceRef (g.objs.foldl objRef s)).graphs = s.graphs := EndsWork.graphs (.refs (.refl s))
  generalize g.fences.foldl fenceRef (g.objs.foldl objRef s) = v at hexec hrefs
  obtain ⟨w, hw⟩ : ∃ w, w = { v with graphs := tput v.graphs (graphKey c.ctx (dGid c.desc)) g } := ⟨_, rfl⟩
  rw [← hw] at hexec
  have hgraphs : (resolveHeld (cmdDone w id .ok 0xFFFF)).graphs = tput s.graphs (graphKey c.ctx (dGid c.desc)) g := by
    rw [EndsWork.graphs (.resolveHeld (.cmdDone (.refl w))), hw, hrefs]
  refine ⟨_, hexec, ?_, EndsWork.gone (.resolveHeld (.refl _)) (cmdDone_gone ..), fun k hk => ?_⟩
  · rw [hgraphs, tfind_tput_same]
  · rw [hgraphs, tfind_tput_other _ _ _ _ hk]

/-- One that fails a check leaves the directory as it was. -/
theorem register_fails {n : Nat} (h : StartedOp s id 2 c) (himg : imageFault s c = none) (hn : graphCheck s id c = .error n) :
    ∃ t, exec (.registerGraph id) s = .next t ∧ t.graphs = s.graphs ∧ RefusedBy s t id c 9 n := by
  have hexec : exec (.registerGraph id) s = .next _ := h.acts _
  simp only [himg, hn] at hexec
  exact ⟨_, hexec, EndsWork.graphs (.resolveHeld (.cmdRefuse (.refl s))), (cmdRefuse_refuses h.cmd ..).resolveHeld⟩

/-! ## A graph leaves its arming, its gid and the directory (R140, R146) -/

theorem armRelease_graphs (s : State) (a : Option Arm) : (armRelease s a).graphs = s.graphs := by
  unfold armRelease
  split
  · rfl
  · dsimp only
    split <;> rfl

/-- A graph that is disarmed. -/
theorem disarm_find {key : Nat} (hg : tfind s.graphs key = some g) (k : Nat) :
    tfind (disarm s key).graphs k = if k = key then some { g with arm := none } else tfind s.graphs k := by
  unfold disarm
  rw [hg]
  dsimp only
  rw [armRelease_graphs, tfind_tput]

theorem disarm_tables (s : State) (key : Nat) : TablesKept s (disarm s key) := by
  rw [(disarm_graphs s key).1]
  exact .keep (.refl s)

/-- Whether a graph has work does not depend on its arming. -/
theorem keyBusy_disarm {key : Nat} (hg : tfind s.graphs key = some g) : keyBusy (disarm s key) key = keyBusy s key := by
  have ht := disarm_tables s key
  have hcoming : coming (disarm s key) = coming s := by
    unfold coming
    rw [ht.insts]
  unfold keyBusy instBusy
  rw [ht.insts, ht.cmds, hcoming, disarm_find hg, if_pos rfl, hg]
  rfl

/-- A graph removed takes its references with it; no other graph changes. -/
theorem graphRemove_find (s : State) (key k : Nat) :
    tfind (graphRemove s key).graphs k = if k = key then none else tfind s.graphs k := by
  unfold graphRemove
  split
  next h =>
    split
    next hk => rw [hk, h]
    next => rfl
  next a _ =>
    have hrelease (w : State) : (graphRelease w a).graphs = w.graphs := by
      unfold graphRelease
      rw [armRelease_graphs]
      exact EndsWork.graphs (.foldl (.foldl (.refl w) fun h => ⟨.keep h.unwinds, .keep h.work⟩)
        fun h => ⟨.keep h.unwinds, .keep h.work⟩)
    dsimp only
    split
    · exact (congrArg (tfind · k) (hrelease _)).trans (tfind_tdel ..)
    · exact (congrArg (tfind · k) (hrelease _)).trans (tfind_tdel ..)

/-- A destroyed graph with work left goes on under its DESTROY_GRAPH's key. -/
theorem graphRetire_find {key : Nat} (hg : tfind s.graphs key = some g) (id k : Nat) :
    tfind (graphRetire s key id).graphs k =
      if k = retiredKey id then some g else if k = key then none else tfind s.graphs k := by
  unfold graphRetire
  rw [hg]
  exact (tfind_tput ..).trans (by rw [tfind_tdel])

theorem graphRetire_cmds (s : State) (key id : Nat) : (graphRetire s key id).cmds = s.cmds := by
  unfold graphRetire
  split <;> rfl

theorem cmdGraph_some (h : cmdGraph s c = some g) : tfind s.graphs (graphKey c.ctx (dGid c.desc)) = some g :=
  (Option.filter_eq_some_iff.mp h).1

/-- Keys of destroyed graphs lie above those of the directory. -/
theorem retiredKey_ne (h : c.ctx < 1024) (id : Nat) : retiredKey id ≠ graphKey c.ctx (dGid c.desc) := by
  have hgid : dGid c.desc < 256 := Nat.mod_lt _ (by decide)
  unfold retiredKey graphKey
  omega

/-! ## DESTROY_GRAPH (R146) -/

/-- The graph is out of the directory at once; its command ends with it where it has no work left. -/
theorem destroy_unregisters (h : StartedOp s id 3 c) (hctx : c.ctx < 1024) (hg : cmdGraph s c = some g)
    (hno : tfind s.graphs (retiredKey id) = none) :
    ∃ t, exec (.destroyGraph id) s = .next t ∧ tfind t.graphs (graphKey c.ctx (dGid c.desc)) = none ∧
      (∀ k, k ≠ graphKey c.ctx (dGid c.desc) → k ≠ retiredKey id → tfind t.graphs k = tfind s.graphs k) ∧
      (gidBusy s c.ctx (dGid c.desc) = true →
        tfind t.graphs (retiredKey id) = some { g with arm := none } ∧ tfind t.cmds id = some c) ∧
      (gidBusy s c.ctx (dGid c.desc) = false → tfind t.graphs (retiredKey id) = none ∧ tfind t.cmds id = none) := by
  have hexec : exec (.destroyGraph id) s = .next _ := h.acts _
  have hne := retiredKey_ne hctx id
  have hfind := cmdGraph_some hg
  have hbusy : gidBusy s c.ctx (dGid c.desc) = keyBusy s (graphKey c.ctx (dGid c.desc)) := rfl
  simp only [thas, hno, hg, Option.isSome_none, Option.isSome_some, Bool.false_eq_true, if_false, if_true] at hexec
  rw [hbusy]
  generalize graphKey c.ctx (dGid c.desc) = key at *
  rw [keyBusy_disarm hfind] at hexec
  have hdis := disarm_find hfind
  cases hb : keyBusy s key with
  | true =>
    rw [hb, if_pos rfl] at hexec
    have hretire := graphRetire_find ((hdis key).trans (if_pos rfl)) id
    refine ⟨_, hexec, ?_, fun k hk hr => ?_, fun _ => ⟨?_, ?_⟩, fun hb => Bool.noConfusion hb⟩
    · rw [hretire, if_neg hne.symm, if_pos rfl]
    · rw [hretire, if_neg hr, if_neg hk, hdis, if_neg hk]
    · rw [hretire, if_pos rfl]
    · rw [graphRetire_cmds, (disarm_tables s key).cmds, h.cmd]
  | false =>
    rw [hb, if_neg Bool.false_ne_true] at hexec
    have hgraphs : (cmdDone (graphRemove (disarm s key) key) id .ok 0xFFFF).graphs =
        (graphRemove (disarm s key) key).graphs := EndsWork.graphs (.cmdDone (.refl _))
    have hremove (k : Nat) := graphRemove_find (disarm s key) key k
    rw [← hgraphs] at hremove
    refine ⟨_, hexec, ?_, fun k hk _ => ?_, fun hb => Bool.noConfusion hb, fun _ => ⟨?_, cmdDone_gone ..⟩⟩
    · rw [hremove, if_pos rfl]
    · rw [hremove, if_neg hk, hdis, if_neg hk]
    · rw [hremove, if_neg hne, hdis, if_neg hne, hno]

/-- It ends when the last work of its graph has ended. -/
theorem destroy_ends (h : StartedOp s id 3 c) (hhas : thas s.graphs (retiredKey id) = true)
    (hbusy : keyBusy s (retiredKey id) = false) :
    ∃ t, exec (.destroyGraph id) s = .next t ∧ tfind t.graphs (retiredKey id) = none ∧ tfind t.cmds id = none ∧
      ∀ k, k ≠ retiredKey id → tfind t.graphs k = tfind s.graphs k := by
  have hexec : exec (.destroyGraph id) s = .next _ := h.acts _
  simp only [hhas, hbusy, Bool.false_eq_true, if_false, if_true] at hexec
  have hgraphs : (cmdDone (graphRemove s (retiredKey id)) id .ok 0xFFFF).graphs =
      (graphRemove s (retiredKey id)).graphs := EndsWork.graphs (.cmdDone (.refl _))
  refine ⟨_, hexec, ?_, cmdDone_gone .., fun k hk => ?_⟩
  · rw [hgraphs, graphRemove_find, if_pos rfl]
  · rw [hgraphs, graphRemove_find, if_neg hk]

theorem destroy_refused (h : StartedOp s id 3 c) (hhas : thas s.graphs (retiredKey id) = false)
    (hg : cmdGraph s c = none) :
    ∃ t, exec (.destroyGraph id) s = .next t ∧ t.graphs = s.graphs ∧ RefusedBy s t id c 0xA (dGid c.desc) := by
  have hexec : exec (.destroyGraph id) s = .next _ := h.acts _
  simp only [hhas, hg, Option.isSome_none, Bool.false_eq_true, if_false] at hexec
  exact ⟨_, hexec, refused_graphs h.cmd rfl⟩

/-! ## ARM_GRAPH and DISARM_GRAPH (R146, R147) -/

/-- The arm record an ARM_GRAPH sets. -/
def armOf (c : Cmd) : Arm :=
  { queue := c.queue, desc := c.desc, trig := dTrig c.desc, first := dFirst c.desc
    step := BitVec.ofNat 32 (dStep c.desc), target := (dFirst c.desc).toNat, sig := c.sig }

theorem arm_sets (h : StartedOp s id 4 c) (hg : cmdGraph s c = some g) (harm : g.arm = none) (hroom : armedCount s < 1024) :
    ∃ t, exec (.armGraph id) s = .next t ∧ tfind t.cmds id = none ∧
      tfind t.graphs (graphKey c.ctx (dGid c.desc)) = some { g with arm := some (armOf c) } ∧
      ∀ k, k ≠ graphKey c.ctx (dGid c.desc) → tfind t.graphs k = tfind s.graphs k := by
  have hexec : exec (.armGraph id) s = .next _ := h.acts _
  simp only [hg, harm, Option.isSome_none, Bool.false_or, decide_eq_false (Nat.not_le.mpr hroom), Bool.false_eq_true,
    if_false] at hexec
  obtain ⟨v, hv⟩ : ∃ v, v = if dSigEn c.desc then fenceRef (fenceRef s (dTrig c.desc)) (dSigFence c.desc)
    else fenceRef s (dTrig c.desc) := ⟨_, rfl⟩
  rw [← hv] at hexec
  have hgraphs : v.graphs = s.graphs := by
    rw [hv]
    split <;> rfl
  obtain ⟨w, hw⟩ : ∃ w, w = { v with graphs := tput v.graphs (graphKey c.ctx (dGid c.desc)) { g with arm := some (armOf c) } } :=
    ⟨_, rfl⟩
  have hend : (cmdDone w id .ok 0xFFFF).graphs = tput s.graphs (graphKey c.ctx (dGid c.desc)) { g with arm := some (armOf c) } := by
    rw [EndsWork.graphs (.cmdDone (.refl w)), hw, hgraphs]
  refine ⟨cmdDone w id .ok 0xFFFF, by rw [hw]; exact hexec, cmdDone_gone .., ?_, fun k hk => ?_⟩
  · rw [hend, tfind_tput_same]
  · rw [hend, tfind_tput_other _ _ _ _ hk]

/-- An armed graph, one armed beyond 1,024, or one that is not the one resolved, is refused. -/
theorem arm_refused (h : StartedOp s id 4 c) (hno : ∀ g, cmdGraph s c = some g → g.arm ≠ none ∨ 1024 ≤ armedCount s) :
    ∃ t, exec (.armGraph id) s = .next t ∧ t.graphs = s.graphs ∧ RefusedBy s t id c 0xA (dGid c.desc) := by
  have hexec : exec (.armGraph id) s = .next _ := h.acts _
  cases hg : cmdGraph s c with
  | none =>
    simp only [hg] at hexec
    exact ⟨_, hexec, refused_graphs h.cmd rfl⟩
  | some g =>
    have hor : (g.arm.isSome || decide (1024 ≤ armedCount s)) = true := by
      simpa [Option.isSome_iff_ne_none] using hno g hg
    simp only [hg, hor, if_true] at hexec
    exact ⟨_, hexec, refused_graphs h.cmd rfl⟩

theorem disarm_clears (h : StartedOp s id 5 c) (hg : cmdGraph s c = some g) :
    ∃ t, exec (.disarmGraph id) s = .next t ∧ tfind t.cmds id = none ∧
      tfind t.graphs (graphKey c.ctx (dGid c.desc)) = some { g with arm := none } ∧
      ∀ k, k ≠ graphKey c.ctx (dGid c.desc) → tfind t.graphs k = tfind s.graphs k := by
  have hexec : exec (.disarmGraph id) s = .next _ := h.acts _
  simp only [hg, Option.isSome_some, if_true] at hexec
  have hdis := disarm_find (cmdGraph_some hg)
  rw [← EndsWork.graphs (EndsWork.cmdDone (id := id) (st := .ok) (errIdx := 0xFFFF) (.refl _))] at hdis
  refine ⟨_, hexec, cmdDone_gone .., ?_, fun k hk => ?_⟩
  · rw [hdis, if_pos rfl]
  · rw [hdis, if_neg hk]

theorem disarm_refused (h : StartedOp s id 5 c) (hg : cmdGraph s c = none) :
    ∃ t, exec (.disarmGraph id) s = .next t ∧ t.graphs = s.graphs ∧ RefusedBy s t id c 0xA (dGid c.desc) := by
  have hexec : exec (.disarmGraph id) s = .next _ := h.acts _
  simp only [hg, Option.isSome_none, Bool.false_eq_true, if_false] at hexec
  exact ⟨_, hexec, refused_graphs h.cmd rfl⟩

/-! ## Triggered launches (R147) -/

variable {ctx gid : Nat} {a : Arm}

/-- The trigger of an armed graph is looked at while dispatch runs. -/
structure Triggerable (s : State) (ctx gid : Nat) (g : Graph) (a : Arm) : Prop where
  runs  : s.runs = true
  disp  : dispatching s = true
  graph : tfind s.graphs (graphKey ctx gid) = some g
  armed : g.arm = some a

/-- The trigger fence is intact and has reached the target, and the walker and the ring have a place. -/
structure Reached (s : State) (ctx gid : Nat) (g : Graph) (a : Arm) : Prop extends Triggerable s ctx gid g a where
  intact : (fenceOf s a.trig).abandoned = false
  target : a.target ≤ (fenceOf s a.trig).val.toNat
  active : (ctxOf s ctx).st = .active
  idle   : gidBusy s ctx gid = false
  room   : walkerRoom s (ctxOf s ctx).part none = true
  part   : fnOn s (ctxOf s ctx).part = true
  place  : placeFree (queueOf s a.queue) = true

/-- The next target is set and a ring place reserved. -/
def triggerTaken (s : State) (ctx gid : Nat) (a : Arm) : State :=
  modQueue { s with graphs := tupd s.graphs (graphKey ctx gid) (fun g => { g with
    arm := some { a with target := a.nextTarget (fenceOf s a.trig).val } }) } a.queue (fun q => { q with resv := q.resv + 1 })

/-- The `Inst` of a triggered launch. -/
def triggeredInst (s : State) (ctx gid : Nat) (g : Graph) (a : Arm) : Inst :=
  mkInst (triggerTaken s ctx gid a) (graphKey ctx gid) g a.queue a.desc none (some (fenceOf s a.trig).val) a.sig none

theorem exec_triggeredLaunch_reached (h : Reached s ctx gid g a) : exec (.triggeredLaunch ctx gid) s = .next
    (applyPatches (addInst (triggerTaken s ctx gid a) (triggeredInst s ctx gid g a)) g false (fenceOf s a.trig).val [] []) := by
  refine (onLive_runs h.runs _).trans (congrArg Host.Outcome.next ?_)
  unfold triggeredOp
  simp only [h.graph, h.armed, h.disp, h.intact, h.active, h.idle, h.room, h.part, h.place, Nat.not_lt.mpr h.target,
    bne_self_eq_false, Bool.not_true, Bool.or_self, Bool.false_eq_true, if_false]
  rfl

/-- A reached target launches an `Inst` and sets the next target. -/
theorem trigger_launches (h : Reached s ctx gid g a) (hmac : NoBadMac s) :
    ∃ t x, exec (.triggeredLaunch ctx gid) s = .next t ∧
      t = { s with insts := t.insts, orders := s.orders + 1, queues := t.queues, graphs := t.graphs, mem := t.mem } ∧
      tfind t.insts s.orders = some x ∧ (∀ i, i ≠ s.orders → tfind t.insts i = tfind s.insts i) ∧
      x.key = graphKey ctx gid ∧ x.cmd = none ∧ x.trig = some (fenceOf s a.trig).val ∧ x.queue = a.queue ∧
      x.sig = a.sig ∧ x.s = now35 s ∧ x.nodes = freshNodes g ∧ x.released = false ∧ x.fail = none ∧
      queueOf t a.queue = { queueOf s a.queue with resv := (queueOf s a.queue).resv + 1 } ∧
      tfind t.graphs (graphKey ctx gid) = some { g with
        arm := some { a with target := a.nextTarget (fenceOf s a.trig).val } } ∧
      ∀ k, k ≠ graphKey ctx gid → tfind t.graphs k = tfind s.graphs k := by
  have hexec := exec_triggeredLaunch_reached h
  have hframe := launched_frame (s := triggerTaken s ctx gid a) hmac (triggeredInst s ctx gid g a) g false
    (fenceOf s a.trig).val [] [] rfl
  generalize applyPatches (addInst (triggerTaken s ctx gid a) (triggeredInst s ctx gid g a)) g false
    (fenceOf s a.trig).val [] [] = t at hexec hframe
  have hinsts : t.insts = tput s.insts s.orders (triggeredInst s ctx gid g a) := by rw [hframe]; rfl
  have hqueue : queueOf t a.queue = queueOf (triggerTaken s ctx gid a) a.queue := by rw [hframe]; rfl
  have hgraphs : t.graphs = tupd s.graphs (graphKey ctx gid) (fun g => { g with
      arm := some { a with target := a.nextTarget (fenceOf s a.trig).val } }) := by rw [hframe]; rfl
  refine ⟨t, triggeredInst s ctx gid g a, hexec, ?_, ?_, fun i hi => ?_, rfl, rfl, rfl, rfl, rfl, rfl, rfl, rfl, rfl, ?_, ?_,
    fun k hk => ?_⟩
  · rw [hframe]
    rfl
  · rw [hinsts, tfind_tput_same]
  · rw [hinsts, tfind_tput_other _ _ _ _ hi]
  · exact hqueue.trans (queueOf_modQueue_same ..)
  · rw [hgraphs, tfind_tupd_same, h.graph, Option.map_some]
  · rw [hgraphs, tfind_tupd_other _ _ _ _ hk]

/-- The record of an arming. -/
def armRec (a : Arm) (val : W64) (st : Status) (errIdx : BitVec 16) : Rec :=
  { queue := a.queue, tag := dTag a.desc, sig := sigOf a.sig a.desc val, status := st, errIdx := errIdx }

theorem armRecord_eq (s : State) (a : Arm) (val : W64) (st : Status) (errIdx : BitVec 16) : armRecord s a val st errIdx =
    writeRec (modQueue s a.queue (fun q => { q with resv := q.resv + 1 })) (armRec a val st errIdx) := rfl

/-- With a ring place it goes there. -/
theorem armRecord_ring {val : W64} {st : Status} {errIdx : BitVec 16} {e : WtEntry} (hq : (queueOf s a.queue).st = .live)
    (he : placeEntry s (queueOf s a.queue) = some e) (ht : t = armRecord s a val st errIdx) :
    t.insts = s.insts ∧ t.graphs = s.graphs ∧ (queueOf t a.queue).recs = (queueOf s a.queue).recs + 1 := by
  obtain ⟨v, hv⟩ : ∃ v, v = modQueue s a.queue (fun q => { q with resv := q.resv + 1 }) := ⟨_, rfl⟩
  obtain ⟨q, hq'⟩ : ∃ q, q = { queueOf s a.queue with resv := (queueOf s a.queue).resv + 1 } := ⟨_, rfl⟩
  rw [armRecord_eq, ← hv] at ht
  have hvq : queueOf v a.queue = q := by
    rw [hv, hq']
    exact queueOf_modQueue_same ..
  have hplace : placeEntry v q = some e := by
    rw [placeEntry_of_wt (s := s) (by rw [hv]; rfl), hq']
    exact he
  have hwork : WorkOnly v t := ht ▸ .writeRec (.refl v)
  refine ⟨?_, ?_, ?_⟩
  · rw [ht, (RecordsOnly.writeRec (.refl v)).insts, hv]
    rfl
  · rw [hwork, hv]
    rfl
  · rw [writeRec_ring hvq (by rw [hq', hq]; exact QState.noConfusion) hplace] at ht
    obtain ⟨-, -, hqueues⟩ := recInRing_writes v (armRec a val st errIdx) q e
    have hrecs : (queueOf t a.queue).recs = (queueOf v a.queue).recs + 1 := by
      unfold queueOf
      rw [ht, hqueues]
      exact congrArg Queue.recs (tget_tmod_same ..)
    rw [hrecs, hvq, hq']

/-- An abandoned trigger ends the arming with a record. -/
theorem trigger_abandoned {e : WtEntry} (h : Triggerable s ctx gid g a) (hstays : (ctxOf s ctx).st ≠ .teardown)
    (hab : (fenceOf s a.trig).abandoned = true) (hplace : placeFree (queueOf s a.queue) = true) (hq : (queueOf s a.queue).st = .live)
    (he : placeEntry s (queueOf s a.queue) = some e) :
    ∃ t, exec (.triggeredLaunch ctx gid) s = .next t ∧ t.insts = s.insts ∧
      tfind t.graphs (graphKey ctx gid) = some { g with arm := none } ∧
      (queueOf t a.queue).recs = (queueOf s a.queue).recs + 1 := by
  obtain ⟨v, hv⟩ : ∃ v, v = armRecord s a (dSigVal a.desc) .abandoned 0xFFFF := ⟨_, rfl⟩
  have hop : triggeredOp s ctx gid = disarm v (graphKey ctx gid) := by
    unfold triggeredOp
    simp only [h.graph, h.armed, h.disp, hstays, hab, hplace, Bool.not_true, Bool.or_self, Bool.false_eq_true, decide_false,
      if_false, if_true, hv]
  obtain ⟨hinsts, hgraphs, hrecs⟩ := armRecord_ring hq he hv
  have hkept := disarm_tables v (graphKey ctx gid)
  refine ⟨_, (onLive_runs h.runs _).trans (congrArg Host.Outcome.next hop), hkept.insts.trans hinsts, ?_, ?_⟩
  · rw [disarm_find (hgraphs ▸ h.graph), if_pos rfl]
  · rw [← hrecs]
    unfold queueOf
    rw [hkept.queues]

/-- A target not reached does nothing. -/
theorem trigger_waits (hg : tfind s.graphs (graphKey ctx gid) = some g) (harm : g.arm = some a)
    (hab : (fenceOf s a.trig).abandoned = false) (hlt : (fenceOf s a.trig).val.toNat < a.target) :
    exec (.triggeredLaunch ctx gid) s = .next s := by
  have hop : triggeredOp s ctx gid = s := by
    unfold triggeredOp
    simp only [hg, harm, hab, hlt, Bool.false_eq_true, if_false, if_true, ite_self]
  refine (congrArg (onLive s) hop).trans ?_
  unfold onLive
  rw [ite_self]

/-- Settles O24: every command writes at most the entry it names and that of its own key, and what ends commands and
makes up for held resolutions writes none. -/
theorem graphCommands : Obligations.GraphCommands := by
  unfold Obligations.GraphCommands
  refine ⟨⟨?_, ?_, ?_, ?_, ?_⟩, ?_, ?_, ?_, ?_, ?_, ?_, ?_⟩
  · intro s id c g hruns hc hst hop hdisp himg hg
    exact register_enters ⟨hruns, hc, hst, hop, hdisp⟩ himg hg
  · intro s id n c hruns hc hst hop hdisp himg hn
    exact register_fails ⟨hruns, hc, hst, hop, hdisp⟩ himg hn
  · intro s id c g hruns hc hst hop hdisp hctx hg hno
    exact destroy_unregisters ⟨hruns, hc, hst, hop, hdisp⟩ hctx hg hno
  · intro s id c hruns hc hst hop hdisp hhas hbusy
    exact destroy_ends ⟨hruns, hc, hst, hop, hdisp⟩ hhas hbusy
  · intro s id c hruns hc hst hop hdisp hhas hg
    exact destroy_refused ⟨hruns, hc, hst, hop, hdisp⟩ hhas hg
  · intro s id c g hruns hc hst hop hdisp hg harm hroom
    exact arm_sets ⟨hruns, hc, hst, hop, hdisp⟩ hg harm hroom
  · intro s id c hruns hc hst hop hdisp hno
    exact arm_refused ⟨hruns, hc, hst, hop, hdisp⟩ hno
  · intro s id c g hruns hc hst hop hdisp hg
    exact disarm_clears ⟨hruns, hc, hst, hop, hdisp⟩ hg
  · intro s id c hruns hc hst hop hdisp hg
    exact disarm_refused ⟨hruns, hc, hst, hop, hdisp⟩ hg
  · intro s ctx gid g a hruns hdisp hg harm hab htarget hactive hidle hroom hpart hplace hmac
    exact trigger_launches ⟨⟨hruns, hdisp, hg, harm⟩, hab, htarget, hactive, hidle, hroom, hpart, hplace⟩ hmac
  · intro s ctx gid g a e hruns hdisp hg harm hstays hab hplace hq he
    exact trigger_abandoned ⟨hruns, hdisp, hg, harm⟩ hstays hab hplace hq he
  · intro s ctx gid g a hg harm hab hlt
    exact trigger_waits hg harm hab hlt

end Sys2Proof.Machine
end

section
/-! # JOIN, LEAVE, PAUSE, RESUME and SET_PRIO (R166 to R168) -/

namespace Sys2Proof.Machine

set_option Elab.async false

variable {s : State} {tag : BitVec 4} {page i : Nat} {e : SeqEnt}

/-! ## The end of a sequence command (R107, R167) -/

/-- The state in which a command on an entry ends with its result. -/
def sqEnds (tag : BitVec 4) (r : Result × State) : State := { r.2 with sqCmd := done tag.toNat r.1 r.2.sqCmd.extra }

/-- A value of SQ_CMD is carried out at once. -/
theorem sqCmdWrite_runs (h : FeReady s) (hb : s.sqCmd.busy = false) (raw : W64) :
    onLive s (sqCmdWrite s raw) = .next (sqRun s raw) :=
  (onLive_runs h.runs _).trans (congrArg Host.Outcome.next (feCmd_takes h hb _ _))

/-- JOIN ends with its result, and with the entry it took. -/
theorem exec_join (h : FeReady s) (hb : s.sqCmd.busy = false) (hpage : page < 8192) :
    exec (.join tag page) s = .next { (joinOp s page).2.2 with
      sqCmd := (done tag.toNat (joinOp s page).1
        (if (joinOp s page).1 = .ok then (joinOp s page).2.1 else (joinOp s page).2.2.sqCmd.extra)) } := by
  obtain ⟨hfpage, -, -, hfop, hftag⟩ := sqWord_fields page 0 0 1 tag.toNat hpage (by decide) (by decide) (by decide) tag.isLt
  refine (sqCmdWrite_runs h hb _).trans (congrArg Host.Outcome.next ?_)
  simp only [sqRun, hfpage, hfop, hftag]
  rfl

theorem exec_leave (h : FeReady s) (hb : s.sqCmd.busy = false) (hi : i < 4096) :
    exec (.leave tag i) s = .next (sqEnds tag (leaveOp s i)) := by
  obtain ⟨-, -, hfi, hfop, hftag⟩ := sqWord_fields 0 0 i 2 tag.toNat (by decide) (by decide) hi (by decide) tag.isLt
  refine (sqCmdWrite_runs h hb _).trans (congrArg Host.Outcome.next ?_)
  simp only [sqRun, hfi, hfop, hftag]
  rfl

theorem exec_pause (h : FeReady s) (hb : s.sqCmd.busy = false) (hi : i < 4096) :
    exec (.pause tag i) s = .next (sqEnds tag (pauseOp s i)) := by
  obtain ⟨-, -, hfi, hfop, hftag⟩ := sqWord_fields 0 0 i 3 tag.toNat (by decide) (by decide) hi (by decide) tag.isLt
  refine (sqCmdWrite_runs h hb _).trans (congrArg Host.Outcome.next ?_)
  simp only [sqRun, hfi, hfop, hftag]
  rfl

theorem exec_resume (h : FeReady s) (hb : s.sqCmd.busy = false) (hi : i < 4096) :
    exec (.resume tag i) s = .next (sqEnds tag (resumeOp s i)) := by
  obtain ⟨-, -, hfi, hfop, hftag⟩ := sqWord_fields 0 0 i 4 tag.toNat (by decide) (by decide) hi (by decide) tag.isLt
  refine (sqCmdWrite_runs h hb _).trans (congrArg Host.Outcome.next ?_)
  simp only [sqRun, hfi, hfop, hftag]
  rfl

theorem exec_setPrio (h : FeReady s) (hb : s.sqCmd.busy = false) (hi : i < 4096) (prio : BitVec 4) :
    exec (.setPrio tag i prio) s = .next (sqEnds tag (setPrioOp s i prio.toNat)) := by
  obtain ⟨-, hfprio, hfi, hfop, hftag⟩ := sqWord_fields 0 prio.toNat i 5 tag.toNat (by decide) prio.isLt hi (by decide) tag.isLt
  refine (sqCmdWrite_runs h hb _).trans (congrArg Host.Outcome.next ?_)
  simp only [sqRun, hfprio, hfi, hfop, hftag]
  rfl

/-! ## Which entries a command acts on (R168) -/

theorem seqCmd_acts (he : tfind s.seqs i = some e) (hfree : e.st ≠ .free) (hleaving : e.st ≠ .leaving)
    (f : State → SeqEnt → State) : seqCmd s i f = (.ok, f s e) := by
  simp [seqCmd, he, hfree, hleaving]

theorem seqCmd_refused (he : ∀ e, tfind s.seqs i = some e → e.st = .free ∨ e.st = .leaving) (f : State → SeqEnt → State) :
    seqCmd s i f = (.bad3, s) := by
  unfold seqCmd
  split
  next => rfl
  next e hfind => rw [if_pos (by simpa using he e hfind)]

/-! ## What each does to its entry (Table 8-12) -/

/-- An entry that goes back to FREE gives back its reference, and no other object changes. -/
theorem seqFree_releases (he : tfind s.seqs i = some e) :
    seqFree s i = { s with seqs := tdel s.seqs i, objs := (seqFree s i).objs } ∧
    tget (seqFree s i).objs (e.kv.toNat % 262144) {} = Obj.settle (e.kv.toNat % 262144)
      { tget s.objs (e.kv.toNat % 262144) {} with refs := (tget s.objs (e.kv.toNat % 262144) {}).refs - 1 } ∧
    ∀ k, k ≠ e.kv.toNat % 262144 → tfind (seqFree s i).objs k = tfind s.objs k := by
  have heq : seqFree s i = objUnref { s with seqs := tdel s.seqs i } (e.kv.toNat % 262144) := by simp only [seqFree, he]
  rw [heq]
  exact ⟨rfl, tget_modObj _ _, fun k hk => tfind_modObj_other _ hk⟩

theorem objRef_refs (s : State) (n : Nat) : (tget (objRef s n).objs n {}).refs = (tget s.objs n {}).refs + 1 :=
  congrArg Obj.refs (tget_modObj n _)

/-- The entry JOIN makes of its block and of what the handle there resolves to (Tables 8-9 and 8-11). -/
def joinEntry (b : BitVec 256) (h : Hit) : SeqEnt :=
  { kvUnits := ceilDiv h.len 4096, kvBase := h.base, kv := BitVec.ofNat 32 (bits b 191 160)
    seqId := BitVec.ofNat 32 (bits b 159 128), maxLen := bits b 127 108, len := bits b 107 88, model := bits b 87 80
    prio := bits b 79 76, st := .ready, ctx := bits b 63 54 }

/-- JOIN of a block that passes the checks takes the lowest free entry (R168, Table 8-11). -/
theorem joinOp_takes {b : BitVec 256} {h : Hit} (hw : writePage s page none = true) (hp : pbBad s (page * 4096) 32 = [])
    (hb : b = BitVec.ofNat 256 (pbBlock s page 32)) (hkv : resolve s (bits b 63 54) (bits b 191 160) true true false = some h)
    (hr : h.remote = false) (hctx : (ctxOf s (bits b 63 54)).st = .active) (hlen : bits b 107 88 < bits b 127 108)
    (hz1 : zeroField b 255 192 = true) (hz2 : zeroField b 75 64 = true) (hz3 : zeroField b 53 0 = true)
    (hroom : seqRoom s (ctxOf s (bits b 63 54)).part = true) (hi : tfirst s.seqs (fun e => e.st == .free) 0 4096 = some i) :
    joinOp s page = (.ok, i, objRef { s with seqs := tput s.seqs i (joinEntry b h) } h.idx) := by
  have hkv' : (resolve s (bits b 63 54) (bits b 191 160) true true false).filter (fun h => !h.remote) = some h := by
    simp [hkv, hr]
  have hfetch : BitVec.ofNat 256 (leNat (pbFetch s (page * 4096) 32)) = b := hb.symm
  unfold joinOp
  simp only [hw, pbTake_sound hp, Bool.not_true, Bool.false_eq_true, if_false, hfetch, hkv', hctx, hz1, hz2, hz3,
    hroom, hi, bne_self_eq_false, decide_eq_false (Nat.not_le.mpr hlen), Bool.or_self,
    joinEntry]

theorem joinOp_refused (hw : writePage s page none = false) : joinOp s page = (.badBlock, 0, s) := by
  simp [joinOp, hw]

/-- Settles O30: each command's result is that of one operation, which acts on an entry neither FREE nor LEAVING. -/
theorem sequenceCommands : Obligations.SequenceCommands := by
  unfold Obligations.SequenceCommands
  refine ⟨?_, ?_, ?_, ?_⟩
  · intro s tag page i b h hfe hbusy hpage hw hp hb hkv hr hctx hlen hz1 hz2 hz3 hroom hi
    have hexec := exec_join hfe hbusy (tag := tag) hpage
    rw [joinOp_takes hw hp hb hkv hr hctx hlen hz1 hz2 hz3 hroom hi] at hexec
    refine ⟨_, _, hexec, rfl, rfl, tfind_tput_same _ _ _, rfl, rfl, rfl, rfl, rfl, rfl, rfl, rfl, ?_, ?_⟩
    · exact fun k hk => tfind_tput_other _ _ _ _ hk
    · exact objRef_refs _ _
  · intro s tag page hfe hbusy hpage hw
    rw [exec_join hfe hbusy hpage, joinOp_refused hw]
    rfl
  · intro s tag prio i e hfe hbusy hi he hfree hleaving
    refine ⟨fun hin => ?_, fun hout => ?_, ?_, ?_, ?_⟩
    · rw [exec_leave hfe hbusy hi, leaveOp, seqCmd_acts he hfree hleaving, if_pos hin]
      rfl
    · obtain ⟨hframe, hobj, hothers⟩ := seqFree_releases he
      refine ⟨_, exec_leave hfe hbusy hi, ?_⟩
      rw [leaveOp, seqCmd_acts he hfree hleaving, if_neg hout]
      refine ⟨?_, hobj, hothers⟩
      unfold sqEnds
      dsimp only
      rw [hframe]
    · rw [exec_pause hfe hbusy hi, pauseOp, seqCmd_acts he hfree hleaving]
      by_cases hready : e.st = .ready
      · rw [if_pos hready, if_pos hready]
        rfl
      · rw [if_neg hready, if_neg hready]
        by_cases hin : e.st = .inStep
        · rw [if_pos hin, if_pos hin]
          rfl
        · rw [if_neg hin, if_neg hin]
          rfl
    · rw [exec_resume hfe hbusy hi, resumeOp, seqCmd_acts he hfree hleaving]
      by_cases hpaused : e.st = .paused
      · rw [if_pos hpaused, if_pos hpaused]
        rfl
      · rw [if_neg hpaused, if_neg hpaused]
        rfl
    · rw [exec_setPrio hfe hbusy hi, setPrioOp, seqCmd_acts he hfree hleaving]
      rfl
  · intro s tag prio i hfe hbusy hi he c hc
    simp only [List.mem_cons, List.not_mem_nil, or_false] at hc
    obtain rfl | rfl | rfl | rfl := hc
    · rw [exec_leave hfe hbusy hi, leaveOp, seqCmd_refused he]
      rfl
    · rw [exec_pause hfe hbusy hi, pauseOp, seqCmd_refused he]
      rfl
    · rw [exec_resume hfe hbusy hi, resumeOp, seqCmd_refused he]
      rfl
    · rw [exec_setPrio hfe hbusy hi, setPrioOp, seqCmd_refused he]
      rfl

end Sys2Proof.Machine
end

section
/-! # What killing work changes, and what it leaves (R153, R157) -/

namespace Sys2Proof.Machine

set_option Elab.async false

variable {s t u : State}

/-! ## Folds and tables -/

/-- A relation that each step of a fold keeps holds from its first state to its last. -/
theorem foldl_rel {α : Type} {R : State → State → Prop} (hrefl : ∀ s, R s s) (htrans : ∀ {s t u}, R s t → R t u → R s u)
    {f : State → α → State} (hf : ∀ s x, R s (f s x)) (l : List α) (s : State) : R s (l.foldl f s) := by
  induction l generalizing s with
  | nil => exact hrefl s
  | cons x l ih => exact htrans (hf s x) (ih (f s x))

theorem tfind_filter_key {α : Type} (p : Nat → Bool) (l : Tab α) (k : Nat) :
    tfind (l.filter fun e => p e.1) k = if p k = true then tfind l k else none := by
  induction l with
  | nil => simp [tfind]
  | cons e r ih =>
    obtain ⟨i, x⟩ := e
    rw [List.filter_cons]
    by_cases hi : i = k
    · subst hi
      by_cases hp : p i = true
      · simp [hp, tfind]
      · rw [if_neg hp, ih, if_neg hp, if_neg hp]
    · by_cases hp : p i = true
      · rw [if_pos hp, tfind, if_neg hi, ih, tfind, if_neg hi]
      · rw [if_neg hp, ih, tfind, if_neg hi]

/-! ## Writes of staged entries (R157, R214) -/

/-- From `s` to `t` stores reach memory: device memory changes, and in the cores the lines of the L1 data caches. -/
structure LandsOnly (s t : State) : Prop where
  frame : t = { s with mem := t.mem, cores := t.cores }
  core  : ∀ c, coreOf t c = { coreOf s c with l1 := (coreOf t c).l1 }
  macs  : NoBadMac s → NoBadMac t

theorem LandsOnly.refl (s : State) : LandsOnly s s := ⟨rfl, fun _ => rfl, id⟩

theorem LandsOnly.trans (h : LandsOnly s t) (h' : LandsOnly t u) : LandsOnly s u := by
  obtain ⟨hframe, hcore, hmacs⟩ := h
  obtain ⟨hframe', hcore', hmacs'⟩ := h'
  exact ⟨by rw [hframe', hframe], fun c => by rw [hcore', hcore], fun h => hmacs' (hmacs h)⟩

theorem NoBadMac.dmWriteOpt (h : NoBadMac s) (pol a : Nat) (d : List (Option Byte)) : NoBadMac (dmWriteOpt s pol a d) := by
  have hheal : NoBadMac (dmHeal s a d) := by
    unfold NoBadMac dmHeal at *
    rw [h]
    rfl
  unfold Machine.dmWriteOpt
  dsimp only
  split
  · exact hheal
  · exact hheal.dmWriteLines _ pol a _

/-- Only the L1 data lines of a core take a store. -/
theorem l1Store_core (s : State) (core a c : Nat) (d : List (Option Byte)) :
    coreOf (l1Store s core a d) c = { coreOf s c with l1 := (coreOf (l1Store s core a d) c).l1 } := by
  by_cases hc : c = core
  · subst hc
    unfold l1Store
    rw [coreOf_modCore_same]
    generalize coreOf s c = x
    induction linesOf a d.length generalizing x with
    | nil => rfl
    | cons l r ih =>
      rw [List.foldl_cons, ih]
      split <;> rfl
  · unfold l1Store
    rw [coreOf_modCore_other _ _ _ _ hc]

theorem stagedWrite_lands (s : State) (core ctx : Nat) (e : Staged) : LandsOnly s (stagedWrite s core ctx e) := by
  unfold stagedWrite
  split
  · exact .refl s
  · dsimp only
    generalize e.data.zipIdx.map _ = d
    have hmem := dmWriteOpt_frame s (polAt s ctx e.addr) e.addr d
    have hcore (c : Nat) : coreOf (dmWriteOpt s (polAt s ctx e.addr) e.addr d) c = coreOf s c := by rw [hmem]; rfl
    refine ⟨?_, fun c => by rw [l1Store_core, hcore], fun h => h.dmWriteOpt _ _ _⟩
    unfold l1Store modCore
    dsimp only
    rw [hmem]

theorem stagedWrites_lands (s : State) (w : Wg) : LandsOnly s (stagedWrites s w) := by
  unfold stagedWrites
  exact foldl_rel (R := LandsOnly) .refl .trans (fun s e => stagedWrite_lands s w.core w.ctx e) _ s

theorem commitsLand_lands (s : State) (p : Nat → Wg → Bool) : LandsOnly s (commitsLand s p) := by
  unfold commitsLand
  refine foldl_rel (R := LandsOnly) .refl .trans (fun s e => ?_) _ s
  exact stagedWrites_lands s e.2

/-- With no commit under way among those to be killed, nothing reaches memory. -/
theorem commitsLand_none {p : Nat → Wg → Bool} (h : ∀ e ∈ s.wgs, p e.1 e.2 = true → e.2.writing = false) :
    commitsLand s p = s := by
  have hnone : s.wgs.filter (fun e => p e.1 e.2 && e.2.writing) = [] := by
    rw [List.filter_eq_nil_iff]
    intro e he
    by_cases hp : p e.1 e.2 = true
    · simp [h e he hp]
    · simp [hp]
  unfold commitsLand
  rw [hnone]
  rfl

/-! ## Workgroups are killed -/

theorem killWgs_frame (s : State) (p : Nat → Wg → Bool) :
    killWgs s p = { s with
      wgs := (killWgs s p).wgs, groups := (killWgs s p).groups, cores := (killWgs s p).cores, fly := (killWgs s p).fly
      mem := (killWgs s p).mem } := by
  unfold killWgs
  dsimp only
  rw [(commitsLand_lands s p).frame]

/-- The workgroups named leave the table, with every entry of their numbers. -/
theorem killWgs_wgs (s : State) (p : Nat → Wg → Bool) :
    (killWgs s p).wgs = s.wgs.filter fun e => !(tkeys s.wgs p).contains e.1 := by
  unfold killWgs
  dsimp only
  rw [(commitsLand_lands s p).frame]

theorem killWgs_mem (s : State) (p : Nat → Wg → Bool) : (killWgs s p).mem = (commitsLand s p).mem := rfl

/-- No group of a workgroup killed is left. -/
theorem killWgs_groups (s : State) (p : Nat → Wg → Bool) :
    ∀ e ∈ (killWgs s p).groups, e.2.wg ∉ tkeys s.wgs p := by
  have hland := (commitsLand_lands s p).frame
  intro e he hwg
  unfold killWgs at he
  dsimp only at he
  rw [hland] at he
  dsimp only at he
  obtain ⟨e', he', rfl⟩ := List.mem_map.mp he
  obtain ⟨hmem, hkept⟩ := List.mem_filter.mp he'
  have hkey : e'.1 ∈ tkeys s.groups (fun _ g => (tkeys s.wgs p).contains g.wg) :=
    mem_tkeys.mpr ⟨e'.2, hmem, List.contains_iff_mem.mpr hwg⟩
  rw [List.contains_iff_mem.mpr hkey] at hkept
  cases hkept

/-- In the cores a kill changes the L1 data lines and the promoted splits. -/
theorem killWgs_core (s : State) (p : Nat → Wg → Bool) (c : Nat) :
    coreOf (killWgs s p) c = { coreOf s c with
      l1 := (coreOf (killWgs s p) c).l1, promoted := (coreOf (killWgs s p) c).promoted } := by
  have hcore := (commitsLand_lands s p).core c
  have hmap (gs : List Nat) : tget ((commitsLand s p).cores.map fun e => (e.1, { e.2 with
      promoted := e.2.promoted.filter (fun k => !gs.contains (e.1 * 64 + k / 4)) })) c { ls := [] } =
      { coreOf (commitsLand s p) c with
        promoted := (coreOf (commitsLand s p) c).promoted.filter (fun k => !gs.contains (c * 64 + k / 4)) } := by
    unfold coreOf tget
    rw [tfind_map (fun k (x : Core) => { x with promoted := x.promoted.filter (fun j => !gs.contains (k * 64 + j / 4)) })]
    cases tfind (commitsLand s p).cores c <;> rfl
  have hkill : coreOf (killWgs s p) c = _ := hmap _
  rw [hkill, hcore]

end Sys2Proof.Machine
end

section
/-! # The Gale deadline monitor (R160 to R165) -/

namespace Sys2Proof.Machine

set_option Elab.async false

variable {s t u : State} {tag : BitVec 4} {page m id : Nat} {b : BitVec 256} {o : Mon} {x : Inst} {g : Graph}

/-! ## MON_ADD and MON_REMOVE (R160, R161, Tables 8-4 and 8-5) -/

/-- A value of GM_CMD is carried out at once. -/
theorem gmCmdWrite_runs (h : FeReady s) (hb : s.gmCmd.busy = false) (raw : W64) :
    onLive s (gmCmdWrite s raw) = .next (gmRun s raw) :=
  (onLive_runs h.runs _).trans (congrArg Host.Outcome.next (feCmd_takes h hb _ _))

/-- MON_ADD ends with its result, and with the monitor it made. -/
theorem exec_monAdd (h : FeReady s) (hb : s.gmCmd.busy = false) (hpage : page < 8192) :
    exec (.monAdd tag page) s = .next { (monAddOp s page).2.2 with
      gmCmd := (done tag.toNat (monAddOp s page).1
        (if (monAddOp s page).1 = .ok then (monAddOp s page).2.1 else (monAddOp s page).2.2.gmCmd.extra)) } := by
  obtain ⟨hfpage, hfop, hftag⟩ := cmdWord_fields page 1 tag.toNat hpage (by decide) tag.isLt
  refine (gmCmdWrite_runs h hb (cmdWord page 1 tag.toNat)).trans (congrArg Host.Outcome.next ?_)
  simp only [gmRun, hfpage, hfop, hftag]
  rfl

/-- GM_CMD's value for MON_REMOVE (Table 8-4). -/
def monRemoveWord (m tag : Nat) : W64 := BitVec.ofNat 64 (packNat [(m, 8), (2, 4), (tag, 0)])

theorem monRemoveWord_fields (hm : m < 64) (tag : BitVec 4) :
    bits (monRemoveWord m tag.toNat) 13 8 = m ∧ bits (monRemoveWord m tag.toNat) 7 4 = 2 ∧
    bits (monRemoveWord m tag.toNat) 3 0 = tag.toNat := by
  have := tag.isLt
  simp only [bits, monRemoveWord, packNat, BitVec.toNat_ofNat, Nat.shiftLeft_eq, Nat.shiftRight_eq_div_pow]
  omega

/-- MON_REMOVE ends with its result. -/
theorem exec_monRemove (h : FeReady s) (hb : s.gmCmd.busy = false) (hm : m < 64) :
    exec (.monRemove tag m) s = .next { (monRemoveOp s m).2 with
      gmCmd := done tag.toNat (monRemoveOp s m).1 (monRemoveOp s m).2.gmCmd.extra } := by
  obtain ⟨hfm, hfop, hftag⟩ := monRemoveWord_fields hm tag
  refine (gmCmdWrite_runs h hb (monRemoveWord m tag.toNat)).trans (congrArg Host.Outcome.next ?_)
  simp only [gmRun, hfm, hfop, hftag]
  rfl

/-- The fields of a monitor's block within their bounds (Table 8-5). -/
def monBlockOk (b : BitVec 256) : Bool :=
  decide (bits b 191 160 < bits b 159 128) && zeroField b 127 28 && zeroField b 11 10

/-- The monitor a block describes (R162, Table 8-5). -/
def blockMon (b : BitVec 256) : Mon :=
  { ctx := bits b 9 0, gid := bits b 19 12, fb := bits b 27 20, deadline := bits b 159 128, guard := bits b 191 160
    win := List.replicate 8 (bits b 223 192), winFb := List.replicate 8 (bits b 255 224) }

/-- MON_ADD of a block that can be read judges the block, then the room, then the graphs. -/
theorem monAddOp_reads (hw : writePage s page none = true) (hp : pbBad s (page * 4096) 32 = [])
    (hb : b = BitVec.ofNat 256 (pbBlock s page 32)) :
    monAddOp s page =
      if monBlockOk b = false then (.badBlock, 0, s)
      else match tfirst s.mons (fun _ => false) 0 64 with
        | none => (.resource, 0, s)
        | some i =>
          if monGraphsOk s (bits b 9 0) (bits b 19 12) (bits b 27 20) then
            (.ok, i, { s with mons := tput s.mons i (blockMon b) })
          else (.bad3, 0, s) := by
  have hfetch : BitVec.ofNat 256 (leNat (pbFetch s (page * 4096) 32)) = b := hb.symm
  have hok : (!decide (bits b 191 160 < bits b 159 128) || !zeroField b 127 28 || !zeroField b 11 10) = !monBlockOk b := by
    unfold monBlockOk
    rw [Bool.not_and, Bool.not_and]
  unfold monAddOp
  simp only [hw, pbTake_sound hp, Bool.not_true, Bool.false_eq_true, if_false, hfetch, hok, Bool.not_eq_true']
  rfl

theorem monAddOp_refused (h : writePage s page none = false ∨ (pbBad s (page * 4096) 32 = [] ∧
    b = BitVec.ofNat 256 (pbBlock s page 32) ∧ monBlockOk b = false)) : monAddOp s page = (.badBlock, 0, s) := by
  by_cases hw : writePage s page none = true
  · obtain h | ⟨hp, hb, hbad⟩ := h
    · exact absurd (hw.symm.trans h) (by decide)
    · rw [monAddOp_reads hw hp hb, if_pos hbad]
  · simp [monAddOp, hw]

/-- MON_REMOVE of a monitor marks it, and takes it away if none of its `Inst`s runs. -/
theorem monRemoveOp_removes (h : thas s.mons m = true) : monRemoveOp s m = (.ok,
    if s.insts.any (·.2.mon == some m) then { s with mons := tupd s.mons m (fun o => { o with removing := true }) }
    else { s with mons := tdel s.mons m }) := by
  have hmarked : (tfind (tupd s.mons m fun o => { o with removing := true }) m).any (·.removing) = true := by
    obtain ⟨o, ho⟩ := Option.isSome_iff_exists.mp h
    rw [tfind_tupd_same, ho]
    rfl
  have hdel : tdel (tupd s.mons m fun o => { o with removing := true }) m = tdel s.mons m := by
    unfold tdel tupd
    induction s.mons with
    | nil => rfl
    | cons e r ih =>
      by_cases he : e.1 = m <;> simp_all
  unfold monRemoveOp monSettle modMon
  simp only [h, if_true, hmarked, Bool.true_and, hdel]
  cases s.insts.any (·.2.mon == some m) <;> rfl

theorem monRemoveOp_refused (h : thas s.mons m = false) : monRemoveOp s m = (.bad3, s) := by
  simp [monRemoveOp, h]

/-! ## The work of an `Inst` is killed (R164) -/

/-- From `s` to `t` at most device memory and what the end of passes and engines gives back changes. -/
structure GivesBack (s t : State) : Prop where
  frame : t = { s with free := t.free, mem := t.mem, passes := t.passes, ctxs := t.ctxs, objs := t.objs }
  macs  : NoBadMac s → NoBadMac t

theorem GivesBack.refl (s : State) : GivesBack s s := ⟨rfl, id⟩

theorem GivesBack.trans (h : GivesBack s t) (h' : GivesBack t u) : GivesBack s u := by
  obtain ⟨hframe, hmacs⟩ := h
  obtain ⟨hframe', hmacs'⟩ := h'
  exact ⟨by rw [hframe', hframe], fun h => hmacs' (hmacs h)⟩

theorem reserveDrop_givesBack (s : State) (ctx i : Nat) : GivesBack s (reserveDrop s ctx i) := by
  unfold reserveDrop
  split
  · exact ⟨rfl, id⟩
  · exact .refl s

theorem passDrop_givesBack (s : State) (id : Nat) : GivesBack s (passDrop s id) := by
  unfold passDrop
  split
  · exact .refl s
  next p _ =>
    have hpass : GivesBack s { s with passes := tdel s.passes id } := ⟨rfl, fun h => h⟩
    exact hpass.trans (foldl_rel (R := GivesBack) .refl .trans (fun s i => reserveDrop_givesBack s p.ctx i) _ _)

theorem cmpStop_givesBack (s : State) (c : Cmp) : GivesBack s (cmpStop s c) := by
  unfold cmpStop
  dsimp only [freeBytes]
  split
  · exact ⟨rfl, fun h => h⟩
  · refine ⟨by rw [dmWrite_frame], fun h => NoBadMac.dmWrite ?_ _ _ _⟩
    exact h

/-- What killing an `Inst` leaves: no workgroup of it, and the graphs, commands, monitors and `Inst`s as they were. -/
theorem killInst_leaves (s : State) (id : Nat) :
    killInst s id = { s with
      free := (killInst s id).free, wgs := (killInst s id).wgs, groups := (killInst s id).groups
      cores := (killInst s id).cores, fly := (killInst s id).fly, mem := (killInst s id).mem
      passes := (killInst s id).passes, ctxs := (killInst s id).ctxs, objs := (killInst s id).objs
      cmpWait := (killInst s id).cmpWait, cmps := (killInst s id).cmps, pwr := (killInst s id).pwr } ∧
    (NoBadMac s → NoBadMac (killInst s id)) ∧ ∀ e ∈ (killInst s id).wgs, e.2.inst ≠ id := by
  unfold killInst
  extract_lets u1 u2 u3
  have h2 : GivesBack u1 u2 := foldl_rel (R := GivesBack) .refl .trans passDrop_givesBack _ _
  have h3 : GivesBack u1 u3 := h2.trans (foldl_rel (R := GivesBack) .refl .trans cmpStop_givesBack _ _)
  obtain ⟨hframe, hmacs⟩ := h3
  have hkill := killWgs_frame s (fun _ w => w.inst == id)
  refine ⟨?_, fun h => hmacs ?_, ?_⟩
  · rw [hframe, show u1 = _ from hkill]
  · exact (commitsLand_lands s _).macs h
  · intro e he hid
    have hwgs : u3.wgs = s.wgs.filter fun e => !(tkeys s.wgs fun _ w => w.inst == id).contains e.1 := by
      rw [hframe]
      exact killWgs_wgs s _
    obtain ⟨hmem, hkept⟩ := List.mem_filter.mp (hwgs ▸ he)
    rw [List.contains_iff_mem.mpr (mem_tkeys.mpr ⟨e.2, hmem, beq_iff_eq.mpr hid⟩)] at hkept
    cases hkept

/-! ## The switch to the fallback (R163, R164) -/

/-- The `Inst` `y` as its fallback, with the ranges `rs` of its command. -/
def fallsBack (o : Mon) (g : Graph) (rs : List Range) (y : Inst) : Inst :=
  { y with
    gid := o.fb, key := graphKey y.ctx o.fb, isFb := true, released := false, nodes := freshNodes g
    ranges := g.ranges ++ rs }

/-- Once the parameter block is patched, only the `Inst` itself changes. -/
theorem modInst_patched {rs : List Range} (ht : t = { u with mem := t.mem }) (hx : tfind u.insts id = some x) :
    tfind (modInst t id (fallsBack o g rs)).insts id = some (fallsBack o g rs x) ∧
    (modInst t id (fallsBack o g rs)).mons = u.mons ∧ (modInst t id (fallsBack o g rs)).wgs = u.wgs := by
  rw [ht]
  exact ⟨modInst_find hx _, rfl, rfl⟩

/-- Where the parameter block of the fallback is intact, the `Inst` becomes the fallback with no workgroup left, and the
monitor counts it. -/
theorem switchFb_switches (hx : tfind s.insts id = some x) (ho : tfind s.mons m = some o)
    (hg : tfind s.graphs (graphKey x.ctx o.fb) = some g) (hmac : NoBadMac s) :
    (∃ rs, tfind (switchFb s m id x o).insts id = some (fallsBack o g rs x)) ∧
    tfind (switchFb s m id x o).mons m = some { o with fallbacks := o.fallbacks + 1 } ∧
    ∀ e ∈ (switchFb s m id x o).wgs, e.2.inst ≠ id := by
  obtain ⟨hkill, hmacs, hwgs⟩ := killInst_leaves s id
  obtain ⟨v, hv⟩ : ∃ v, v = modMon (killInst s id) m (fun o => { o with fallbacks := o.fallbacks + 1 }) := ⟨_, rfl⟩
  have hmac : NoBadMac v := hv ▸ hmacs hmac
  have hx : tfind v.insts id = some x := by rw [hv, modMon_insts, hkill, hx]
  have hmons : tfind v.mons m = some { o with fallbacks := o.fallbacks + 1 } := by
    have hkept : (killInst s id).mons = s.mons := by rw [hkill]
    rw [hv]
    unfold modMon
    dsimp only
    rw [tfind_tupd_same, hkept, ho]
    rfl
  have hwgs : ∀ e ∈ v.wgs, e.2.inst ≠ id := by rwa [hv, modMon_wgs]
  have hmade {w : State} {rs : List Range} (hw : w = { v with mem := w.mem }) :
      (∃ rs', tfind (modInst w id (fallsBack o g rs)).insts id = some (fallsBack o g rs' x)) ∧
      tfind (modInst w id (fallsBack o g rs)).mons m = some { o with fallbacks := o.fallbacks + 1 } ∧
      ∀ e ∈ (modInst w id (fallsBack o g rs)).wgs, e.2.inst ≠ id := by
    obtain ⟨hinst, hmonsw, hwgsw⟩ := modInst_patched (o := o) (g := g) (rs := rs) hw hx
    exact ⟨⟨rs, hinst⟩, hmonsw ▸ hmons, hwgsw ▸ hwgs⟩
  unfold switchFb
  simp only [hg, ← hv]
  split
  · exact hmade (applyPatches_intact hmac ..)
  · exact hmade (applyPatches_intact hmac ..)

/-- GALE_CHECK of a monitor whose primary runs: a late finish switches where the fallback is short enough, and is only
recorded where it is not. -/
theorem exec_galeCheck {k rem : Nat} (hruns : s.runs = true) (ho : tfind s.mons m = some o) (hm : monInst s m = some (id, x))
    (hfb : x.isFb = false) (hfail : x.fail = none) (hdisp : dispatching s = true) (hk : k = 16 - partStep s x.part)
    (hrem : rem = winMax o.win * 16 - x.normNow s) :
    exec (.galeCheck m) s = .next
      (if (o.deadline - o.guard) * k < (now35 s - x.s).toNat * k + rem then
        if winMax o.winFb * 16 + 600 * k < rem then switchFb s m id x o
        else event s 0x0030 0 6 0 0 (m + 512) (some x.ctx)
      else s) := by
  subst hk hrem
  refine (onLive_runs hruns _).trans (congrArg Host.Outcome.next ?_)
  unfold galeCheckOp
  simp only [ho, hm, hfb, hfail, hdisp, Option.isSome_none, Bool.not_true, Bool.or_self, Bool.false_eq_true, if_false,
    Bool.and_eq_true, decide_eq_true_eq]
  by_cases hlate : (o.deadline - o.guard) * (16 - partStep s x.part) <
      (now35 s - x.s).toNat * (16 - partStep s x.part) + (winMax o.win * 16 - x.normNow s)
  · by_cases hshort : winMax o.winFb * 16 + 600 * (16 - partStep s x.part) < winMax o.win * 16 - x.normNow s
    · rw [if_pos ⟨hlate, hshort⟩, if_pos hlate, if_pos hshort]
    · rw [if_neg (fun h => hshort h.2), if_pos hlate, if_pos hlate, if_neg hshort]
  · rw [if_neg (fun h => hlate h.1), if_neg hlate, if_neg hlate]

/-- Settles O29: a command of the monitors is one operation on their table, and a check that switches kills the primary,
counts and patches, none of which writes what the clause speaks of but the monitor and the `Inst`. -/
theorem galeMonitor : Obligations.GaleMonitor := by
  unfold Obligations.GaleMonitor
  refine ⟨?_, ?_, ?_, ?_, ?_⟩
  · intro s tag page i b hfe hbusy hpage hw hp hb hguard hz1 hz2 hi
    have hok : monBlockOk b = true := by simp [monBlockOk, hguard, hz1, hz2]
    have hadd := monAddOp_reads hw hp hb
    rw [if_neg (by simp [hok]), hi] at hadd
    refine ⟨fun hgraphs => ?_, fun hgraphs => ?_⟩
    · rw [exec_monAdd hfe hbusy hpage, hadd]
      simp only [hgraphs, if_true]
      rfl
    · rw [exec_monAdd hfe hbusy hpage, hadd]
      simp only [hgraphs, Bool.false_eq_true, if_false]
      rfl
  · intro s tag page b hfe hbusy hpage hbad
    have hno : monAddOp s page = (.badBlock, 0, s) := by
      refine monAddOp_refused (b := b) (hbad.imp id fun ⟨hp, hb, hfield⟩ => ⟨hp, hb, ?_⟩)
      obtain hguard | hz1 | hz2 := hfield
      · simp [monBlockOk, Nat.not_lt.mpr hguard]
      · simp [monBlockOk, hz1]
      · simp [monBlockOk, hz2]
    rw [exec_monAdd hfe hbusy hpage, hno]
    rfl
  · intro s tag m hfe hbusy hm hno
    rw [exec_monRemove hfe hbusy hm, monRemoveOp_refused hno]
  · intro s tag m hfe hbusy hm hhas
    refine ⟨fun hidle => ?_, fun hused => ?_⟩
    · rw [exec_monRemove hfe hbusy hm, monRemoveOp_removes hhas, if_neg (by simp [hidle])]
    · rw [exec_monRemove hfe hbusy hm, monRemoveOp_removes hhas, if_pos hused]
  · intro s m id k rem o x hruns ho hm hx hfb hfail hdisp hk hrem
    have hcheck := exec_galeCheck hruns ho hm hfb hfail hdisp hk hrem
    refine ⟨fun hfits => ?_, fun hlate hlong => ?_, fun g hlate hshort hg hmac => ?_⟩
    · rw [hcheck, if_neg (Nat.not_lt.mpr hfits)]
    · rw [hcheck, if_pos hlate, if_neg (Nat.not_lt.mpr hlong)]
    · rw [if_pos hlate, if_pos hshort] at hcheck
      obtain ⟨⟨rs, hinst⟩, hmon, hwgs⟩ := switchFb_switches hx ho hg hmac
      refine ⟨_, _, hcheck, hinst, rfl, rfl, rfl, rfl, rfl, rfl, rfl, hmon, ?_⟩
      rw [List.all_eq_true]
      exact fun e he => bne_iff_ne.mpr (hwgs e he)

end Sys2Proof.Machine
end

section
/-! # Device memory looks at the configuration and at itself alone -/

namespace Sys2Proof.Machine

set_option Elab.async false

/-- The configuration and the device memory of `s`, in a state that is otherwise `r`. -/
def State.onto (s r : State) : State := { r with cfg := s.cfg, mem := s.mem }

variable (s r : State)

theorem macTouch_onto (a : Nat) (b : Bool) : macTouch (s.onto r) a b = (macTouch s a b).onto r := by
  unfold macTouch
  rw [show macLoc (s.onto r) a = macLoc s a from rfl]
  split <;> rfl

theorem dramMask_onto (a : Nat) (d : List (Option Byte)) : dramMask (s.onto r) a d = (dramMask s a d).onto r :=
  macTouch_onto { s with mem := { s.mem with dram := mwriteOpt s.mem.dram a d } } r a true

theorem dramPut_onto (a : Nat) (d : List Byte) : dramPut (s.onto r) a d = (dramPut s a d).onto r :=
  macTouch_onto { s with mem := { s.mem with
    dram := mwrites s.mem.dram a d, macBad := s.mem.macBad.filter (fun l => !inside l 64 a 128) } } r a true

theorem wcFlush_onto (a : Nat) : wcFlush (s.onto r) a = (wcFlush s a).onto r := by
  unfold wcFlush
  rw [show chanOf (s.onto r) a = chanOf s a from rfl, show wcLine (s.onto r) a = wcLine s a from rfl]
  split
  · rw [← dramMask_onto]
    rfl
  · rfl

theorem l2Evict_onto (k : Nat) : l2Evict (s.onto r) k = (l2Evict s k).onto r := by
  unfold l2Evict
  rw [show (s.onto r).mem = s.mem from rfl]
  split
  · rfl
  next x _ =>
    rw [show l2Addr (s.onto r) k x.tag = l2Addr s k x.tag from rfl]
    split
    · rfl
    · dsimp only
      split
      · rw [← dramPut_onto]
        rfl
      · rfl

theorem l2Fill_onto (a : Nat) : l2Fill (s.onto r) a = (l2Fill s a).onto r := by
  unfold l2Fill
  rw [show l2Loc (s.onto r) a = l2Loc s a from rfl, show l2Hit (s.onto r) a = l2Hit s a from rfl, wcFlush_onto]
  split
  · rfl
  · split
    · rfl
    · dsimp only
      rw [show ((wcFlush s a).onto r).mem = (wcFlush s a).mem from rfl, l2Evict_onto, macTouch_onto]
      split <;> rfl

theorem wcPut_onto (a : Nat) (d : List (Option Byte)) : wcPut (s.onto r) a d = (wcPut s a d).onto r := by
  unfold wcPut
  rw [show chanOf (s.onto r) a = chanOf s a from rfl, show wcLine (s.onto r) a = wcLine s a from rfl]
  split
  · rfl
  · dsimp only
    rw [show (s.onto r).mem = s.mem from rfl]
    split
    · rw [← wcFlush_onto]
      rfl
    · split
      · rw [← wcFlush_onto]
        rfl
      · rfl

theorem dmWriteLine_onto (pol a : Nat) (d : List (Option Byte)) :
    dmWriteLine (s.onto r) pol a d = (dmWriteLine s pol a d).onto r := by
  have hfill : (if pol < 2 then l2Fill (s.onto r) a else s.onto r) = (if pol < 2 then l2Fill s a else s).onto r := by
    rw [l2Fill_onto]
    split <;> rfl
  unfold dmWriteLine
  dsimp only
  rw [hfill]
  generalize (if pol < 2 then l2Fill s a else s) = s
  rw [show l2Hit (s.onto r) a = l2Hit s a from rfl, show (s.onto r).mem = s.mem from rfl]
  split
  · split
    · rfl
    · split
      · rw [← dramMask_onto]
        rfl
      · rw [← dramPut_onto]
        rfl
  · split
    · exact wcPut_onto s r _ _
    · rw [wcFlush_onto, dramMask_onto]

theorem dmWriteLines_onto (n pol a : Nat) (d : List (Option Byte)) :
    dmWriteLines n (s.onto r) pol a d = (dmWriteLines n s pol a d).onto r := by
  induction n generalizing s a d with
  | zero => rfl
  | succ n ih =>
    unfold dmWriteLines
    split
    · rfl
    · dsimp only
      rw [dmWriteLine_onto, ih]

theorem dmWrite_onto (pol a : Nat) (d : List Byte) : dmWrite (s.onto r) pol a d = (dmWrite s pol a d).onto r := by
  unfold dmWrite dmWriteOpt
  dsimp only
  split
  · rfl
  · rw [← dmWriteLines_onto]
    rfl

end Sys2Proof.Machine
end

section
/-! # Batched steps: BUILD and RETIRE (R168 to R171, R441) -/

namespace Sys2Proof.Machine

set_option Elab.async false

variable {s t u : State} {id i : Nat} {x : Inst} {g : Graph} {n : BitVec 512}

/-! ## Entries written one after the other -/

section
variable {α β : Type} (key : β → Nat) (val : β → α)

/-- Entries of a table written in turn, each under its key. -/
def tputs (l : List β) (t : Tab α) : Tab α := l.foldl (fun t e => tput t (key e) (val e)) t

theorem tfind_tputs_other {l : List β} {k : Nat} (h : k ∉ l.map key) (t : Tab α) :
    tfind (tputs key val l t) k = tfind t k := by
  induction l generalizing t with
  | nil => rfl
  | cons e l ih =>
    rw [List.map_cons, List.mem_cons, not_or] at h
    exact (ih h.2 _).trans (tfind_tput_other _ _ _ _ h.1)

theorem tfind_tputs {l : List β} (hn : (l.map key).Nodup) {e : β} (he : e ∈ l) (t : Tab α) :
    tfind (tputs key val l t) (key e) = some (val e) := by
  induction l generalizing t with
  | nil => cases he
  | cons e' l ih =>
    rw [List.map_cons, List.nodup_cons] at hn
    obtain rfl | he := List.mem_cons.mp he
    · exact (tfind_tputs_other key val hn.1 _).trans (tfind_tput_same _ _ _)
    · exact ih hn.2 he _
end

/-- A table in canonical form holds each key once. -/
theorem tabWf_nodup {α : Type} {t : Tab α} (h : tabWf t = true) : (t.map (·.1)).Nodup := by
  have hsorted : (t.map (·.1)).Pairwise (· < ·) := by
    rw [← List.isChain_iff_pairwise]
    induction t with
    | nil => exact .nil
    | cons e r ih =>
      cases r with
      | nil => exact .singleton _
      | cons e' r =>
        rw [tabWf, Bool.and_eq_true, decide_eq_true_eq] at h
        exact .cons_cons h.1 (ih h.2)
  exact hsorted.imp Nat.ne_of_lt

/-! ## The entries a BUILD takes (R169) -/

theorem insertBy_perm {α : Type} (lt : α → α → Bool) (x : α) (l : List α) : (insertBy lt x l).Perm (x :: l) := by
  induction l with
  | nil => exact .refl _
  | cons y r ih =>
    unfold insertBy
    split
    · exact .refl _
    · exact (ih.cons y).trans (.swap ..)

theorem sortBy_perm {α : Type} (lt : α → α → Bool) (l : List α) : (sortBy lt l).Perm l := by
  induction l with
  | nil => exact .refl _
  | cons x r ih => exact (insertBy_perm lt x _).trans (ih.cons x)

/-- At most as many entries are taken as the node allows. -/
theorem taken_length (l : List (Nat × SeqEnt)) (n : BitVec 512) : (taken l n).length ≤ nItems n := by
  unfold taken
  rw [(sortBy_perm _ _).length_eq, List.length_map]
  exact List.length_take_le _ _

/-- The entries taken have different numbers. -/
theorem taken_nodup {ctx : Nat} (h : tabWf s.seqs = true) (n : BitVec 512) :
    ((taken (qualify s ctx n) n).map (·.1)).Nodup := by
  have hq : ((qualify s ctx n).map (·.1)).Nodup := (tabWf_nodup h).sublist (List.filter_sublist.map _)
  have hkept : (((sortBy keepsFirst (qualify s ctx n)).take (nItems n)).map (·.1)).Nodup :=
    (((sortBy_perm keepsFirst _).map _).nodup_iff.mpr hq).sublist ((List.take_sublist _ _).map _)
  unfold taken
  refine ((sortBy_perm listsFirst _).map _).nodup_iff.mpr ?_
  rwa [List.map_map]

/-! ## A node's write (R140, R297) -/

theorem imageHit_inside {a m b k : Nat} (h : imageHit s a m = false) (hlow : a ≤ b) (hhigh : b + k ≤ a + m) :
    imageHit s b k = false := by
  unfold imageHit at h ⊢
  rw [List.any_eq_false] at h ⊢
  intro e he hover
  refine h e he ?_
  simp only [overlaps, Bool.and_eq_true, decide_eq_true_eq] at hover ⊢
  omega

/-- Off every registered image and with every line intact, a node's write is made. -/
theorem nodeWrite_goes {a : Nat} {d : List Byte} (himg : imageHit s a d.length = false) (hmac : NoBadMac s) (id : Nat)
    (x : Inst) : nodeWrite s id x a d = dmWrite s (polAt s x.ctx a) a d := by
  have hdrops : macDrops s a d.length = none := by
    unfold macDrops
    rw [hmac]
    rfl
  unfold nodeWrite
  rw [himg, hdrops]
  rfl

/-! ## A STEP node acts (R168) -/

/-- The running STEP node of a mode that has not yet acted. -/
structure Steps (s : State) (id i : Nat) (x : Inst) (g : Graph) (n : BitVec 512) (retire : Bool) : Prop where
  runs  : s.runs = true
  inst  : tfind s.insts id = some x
  graph : graphOf s x = some g
  node  : n = g.nodes.getD i 0
  type  : nType n = 7
  mode  : nRetire n = retire
  st    : (x.node i).st = .running
  fresh : (x.node i).ended = 0
  has   : thas x.nodes i = true
  disp  : dispatching s = true

theorem Steps.acts {retire : Bool} (h : Steps s id i x g n retire) (f : State → Inst → BitVec 512 → State) :
    stepNode s id i retire f = f s x n := by
  unfold stepNode
  simp only [h.inst, h.graph, ← h.node, h.type, h.mode, h.st, h.fresh, h.disp, beq_self_eq_true, decide_true,
    Bool.and_self, if_true]

/-! ## BUILD (R169) -/

theorem listHeader_length (s : State) (n : BitVec 512) (l : List (Nat × SeqEnt)) (skip : Nat) :
    (listHeader s n l skip).length = 64 := natBytes_length _ _

theorem items_length (l : List (Nat × SeqEnt)) : (l.flatMap itemBytes).length = 32 * l.length := by
  induction l with
  | nil => rfl
  | cons e l ih =>
    rw [List.flatMap_cons, List.length_append, ih, List.length_cons, show (itemBytes e).length = 32 from natBytes_length _ _]
    omega

/-- The bytes BUILD writes: the header, then an item for each entry taken. -/
def workList (s : State) (n : BitVec 512) (l : List (Nat × SeqEnt)) (skip : Nat) : List Byte :=
  listHeader s n l skip ++ l.flatMap itemBytes

/-- An entry that BUILD takes now. -/
def steppedAt (s : State) (e : SeqEnt) : SeqEnt := { e with st := .inStep, lastStep := now35 s }

/-- The `Inst` after BUILD: it holds the entries taken, and may access their KV objects. -/
def builtInst (s : State) (n : BitVec 512) (l : List (Nat × SeqEnt)) (x : Inst) : Inst :=
  { x with
    built := x.built ++ l.map (fun e => (nHandle n 0, e.1))
    ranges := x.ranges ++ l.map fun e =>
      { base := e.2.kvBase, len := (tget s.objs (e.2.kv.toNat % 262144) {}).len, rd := true, wr := true, ex := false } }

/-- The state in which BUILD writes its list. -/
def builtState (s : State) (id i : Nat) (n : BitVec 512) (l : List (Nat × SeqEnt)) : State :=
  nodeEnded (modInst { s with seqs := tputs (·.1) (fun e => steppedAt s e.2) l s.seqs } id (builtInst s n l)) id i

theorem foldl_putSeq {β : Type} (key : β → Nat) (val : β → SeqEnt) (l : List β) (s : State) :
    l.foldl (fun s e => putSeq s (key e) (val e)) s = { s with seqs := tputs key val l s.seqs } := by
  induction l generalizing s with
  | nil => rfl
  | cons e l ih =>
    rw [List.foldl_cons, ih]
    rfl

theorem build_eq (h : Steps s id i x g n false) {l : List (Nat × SeqEnt)} (hl : l = taken (qualify s x.ctx n) n) :
    exec (.build id i) s = .next (nodeWrite (builtState s id i n l) id x (heldObj s n 0).base
      (workList s n l ((qualify s x.ctx n).length - l.length))) := by
  refine (onLive_runs h.runs _).trans (congrArg Host.Outcome.next ((h.acts _).trans ?_))
  dsimp only
  rw [← hl, foldl_putSeq (·.1) (fun e : Nat × SeqEnt => { e.2 with st := .inStep, lastStep := now35 s })]
  rfl

theorem build_builds (h : Steps s id i x g n false) (hwf : tabWf s.seqs = true) (hmac : NoBadMac s)
    {l : List (Nat × SeqEnt)} (hl : l = taken (qualify s x.ctx n) n)
    (himg : imageHit s (heldObj s n 0).base (64 + 32 * l.length) = false) :
    ∃ t y, exec (.build id i) s = .next t ∧ tfind t.insts id = some y ∧ (y.node i).ended = 1 ∧
      y.built = x.built ++ l.map (fun e => (nHandle n 0, e.1)) ∧
      (∀ e ∈ l, tfind t.seqs e.1 = some (steppedAt s e.2)) ∧
      (∀ k, k ∉ l.map (·.1) → tfind t.seqs k = tfind s.seqs k) ∧ l.length ≤ nItems n ∧
      t.mem = (dmWrite s (polAt s x.ctx (heldObj s n 0).base) (heldObj s n 0).base
        (workList s n l ((qualify s x.ctx n).length - l.length))).mem := by
  have hexec := build_eq h hl
  generalize hd : workList s n l ((qualify s x.ctx n).length - l.length) = d at hexec ⊢
  have hlen : d.length = 64 + 32 * l.length := by
    rw [← hd, workList, List.length_append, listHeader_length, items_length]
  generalize hv : builtState s id i n l = v at hexec
  have hw : nodeWrite v id x (heldObj s n 0).base d = dmWrite v (polAt s x.ctx (heldObj s n 0).base) (heldObj s n 0).base d := by
    have himgv : imageHit v (heldObj s n 0).base d.length = false := by
      rw [hlen, ← hv]
      exact himg
    have hmacv : NoBadMac v := by
      rw [← hv]
      exact hmac
    have hpol : polAt v x.ctx (heldObj s n 0).base = polAt s x.ctx (heldObj s n 0).base := by
      rw [← hv]
      rfl
    rw [nodeWrite_goes himgv hmacv, hpol]
  have hframe := dmWrite_frame v (polAt s x.ctx (heldObj s n 0).base) (heldObj s n 0).base d
  have hmem := dmWrite_onto s v (polAt s x.ctx (heldObj s n 0).base) (heldObj s n 0).base d
  rw [show s.onto v = v by subst hv; rfl] at hmem
  rw [hw] at hexec
  obtain ⟨r, hr⟩ := Option.isSome_iff_exists.mp h.has
  have hinst : tfind v.insts id = some { builtInst s n l x with nodes := tupd x.nodes i fun r => { r with ended := 1 } } := by
    rw [← hv]
    exact modNode_find (modInst_find h.inst _) i _
  have hseqs : v.seqs = tputs (·.1) (fun e => steppedAt s e.2) l s.seqs := by
    rw [← hv]
    rfl
  refine ⟨_, { builtInst s n l x with nodes := tupd x.nodes i fun r => { r with ended := 1 } }, hexec, ?_, ?_, rfl, ?_, ?_,
    ?_, ?_⟩
  · rw [hframe]
    exact hinst
  · unfold Inst.node tget
    dsimp only
    rw [tfind_tupd_same, hr]
    rfl
  · intro e he
    rw [hframe]
    dsimp only
    rw [hseqs]
    exact tfind_tputs _ _ (hl ▸ taken_nodup hwf n) he _
  · intro k hk
    rw [hframe]
    dsimp only
    rw [hseqs]
    exact tfind_tputs_other _ _ hk _
  · rw [hl]
    exact taken_length _ _
  · rw [hmem]
    rfl

/-! ## RETIRE (R170) -/

/-- An object that settles keeps its place, or is empty. -/
theorem settle_place (k : Nat) (o : Obj) :
    ((Obj.settle k o).base = o.base ∧ (Obj.settle k o).len = o.len) ∨ (Obj.settle k o).len = 0 := by
  unfold Obj.settle
  split
  · split
    · split
      · exact .inr rfl
      · exact .inl ⟨rfl, rfl⟩
    · exact .inl ⟨rfl, rfl⟩
  · exact .inl ⟨rfl, rfl⟩

/-- A reference given back takes no image out of the way of a write. -/
theorem imageHit_objUnref {k a m : Nat} (h : imageHit s a m = false) : imageHit (objUnref s k) a m = false := by
  unfold imageHit at h ⊢
  rw [List.any_eq_false] at h ⊢
  intro e he hover
  refine h e he ?_
  by_cases hk : e.2.imgObj = k
  · subst hk
    have hobj : tget (objUnref s e.2.imgObj).objs e.2.imgObj {} = Obj.settle e.2.imgObj
      { tget s.objs e.2.imgObj {} with refs := (tget s.objs e.2.imgObj {}).refs - 1 } := tget_modObj _ _
    dsimp only at hover ⊢
    rw [hobj] at hover
    obtain ⟨hbase, hlen⟩ | hlen := settle_place e.2.imgObj
      { tget s.objs e.2.imgObj {} with refs := (tget s.objs e.2.imgObj {}).refs - 1 }
    · rwa [hbase, hlen] at hover
    · rw [hlen] at hover
      simp [overlaps] at hover
  · have hobj : tget (objUnref s k).objs e.2.imgObj {} = tget s.objs e.2.imgObj {} := by
      unfold tget
      rw [objUnref, tfind_modObj_other _ hk]
    dsimp only at hover ⊢
    rwa [hobj] at hover

/-- From `s` to `t` sequence entries change and objects get references back. -/
structure Retires (s t : State) : Prop where
  frame : t = { s with seqs := t.seqs, objs := t.objs }
  image : ∀ a m, imageHit s a m = false → imageHit t a m = false

theorem Retires.refl (s : State) : Retires s s := ⟨rfl, fun _ _ => id⟩

theorem Retires.trans (h : Retires s t) (h' : Retires t u) : Retires s u := by
  obtain ⟨hframe, himage⟩ := h
  obtain ⟨hframe', himage'⟩ := h'
  exact ⟨by rw [hframe', hframe], fun a m h => himage' a m (himage a m h)⟩

theorem seqFree_retires (s : State) (k : Nat) : Retires s (seqFree s k) := by
  unfold seqFree
  split
  · exact .refl s
  next e _ =>
    have hdel : Retires s { s with seqs := tdel s.seqs k } := ⟨rfl, fun _ _ h => h⟩
    exact hdel.trans ⟨rfl, fun _ _ => imageHit_objUnref⟩

theorem seqFree_seqs {e : SeqEnt} {k : Nat} (he : tfind s.seqs k = some e) : (seqFree s k).seqs = tdel s.seqs k := by
  rw [(seqFree_releases he).1]

/-- The entry, once an item of the batch is applied: none where it leaves. -/
def retiredTo (e : SeqEnt) (item : BitVec 256) : Option SeqEnt := (retireEntry e item).elim some fun _ => none

/-- Item `j` of a work list. -/
def itemAt (s : State) (base j : Nat) : BitVec 256 := BitVec.ofNat 256 (dmNum s (base + 64 + 32 * j) 32)

/-- The state after one item of the batch. -/
def retireOne (s : State) (k : Nat) (e : SeqEnt) (item : BitVec 256) : State :=
  match retireEntry e item with
  | .inl e' => putSeq s k e'
  | .inr _ => seqFree s k

theorem retireOne_retires (s : State) (k : Nat) (e : SeqEnt) (item : BitVec 256) : Retires s (retireOne s k e item) := by
  unfold retireOne
  split
  · exact ⟨rfl, fun _ _ h => h⟩
  · exact seqFree_retires s k

theorem retireOne_find {k : Nat} {e : SeqEnt} (he : tfind s.seqs k = some e) (item : BitVec 256) (j : Nat) :
    tfind (retireOne s k e item).seqs j = if j = k then retiredTo e item else tfind s.seqs j := by
  unfold retireOne retiredTo
  cases retireEntry e item with
  | inl e' => exact tfind_tput ..
  | inr _ =>
    dsimp only [Sum.elim]
    rw [seqFree_seqs he, tfind_tdel]

/-- The batch's entries after `k` of its items, counted from `j`: how one more is applied. -/
theorem retireRun_cons {k j base : Nat} {e : SeqEnt} (he : tfind s.seqs k = some e) (l : List Nat) (acc : List (List Byte)) :
    ∃ acc', retireRun base (k :: l) j s acc = retireRun base l (j + 1) (retireOne s k e (itemAt s base j)) acc' ∧
      acc'.flatten.length ≤ acc.flatten.length + 8 := by
  unfold retireOne itemAt
  rw [retireRun]
  simp only [he]
  split
  next e' he' =>
    rw [he']
    exact ⟨acc, rfl, by omega⟩
  next why len he' =>
    rw [he']
    refine ⟨_, rfl, ?_⟩
    rw [List.flatten_append, List.length_append, List.flatten_singleton,
      show (leaveBytes e why len).length = 8 from natBytes_length _ _]

theorem retireRun_none {k j base : Nat} (he : tfind s.seqs k = none) (l : List Nat) (acc : List (List Byte)) :
    retireRun base (k :: l) j s acc = retireRun base l (j + 1) s acc := by
  rw [retireRun]
  simp only [he]

/-- What applying a batch does: each item is applied to its entry, at most one record a time is left, and nothing but
sequence entries and objects changes. -/
structure Applied (s t : State) (base : Nat) (l : List Nat) (j : Nat) (acc recs : List (List Byte)) : Prop where
  only   : Retires s t
  others : ∀ k, k ∉ l → tfind t.seqs k = tfind s.seqs k
  each   : ∀ p e, p < l.length → tfind s.seqs (l.getD p 0) = some e →
    tfind t.seqs (l.getD p 0) = retiredTo e (itemAt s base (j + p))
  recs   : recs.flatten.length ≤ acc.flatten.length + 8 * l.length

theorem retireRun_applied {base : Nat} {l : List Nat} (hn : l.Nodup) (s : State) (j : Nat) (acc : List (List Byte)) :
    Applied s (retireRun base l j s acc).1 base l j acc (retireRun base l j s acc).2 := by
  induction l generalizing s j acc with
  | nil => exact ⟨.refl s, fun _ _ => rfl, fun _ _ hp => absurd hp (Nat.not_lt_zero _), Nat.le_refl _⟩
  | cons k l ih =>
    obtain ⟨hk, hn⟩ := List.nodup_cons.mp hn
    cases he : tfind s.seqs k with
    | none =>
      rw [retireRun_none he]
      obtain ⟨honly, hothers, heach, hrecs⟩ := ih hn s (j + 1) acc
      refine ⟨honly, fun m hm => hothers m (fun h => hm (List.mem_cons_of_mem _ h)), ?_, ?_⟩
      · intro p e hp hfind
        cases p with
        | zero => exact absurd (he.symm.trans hfind) (by simp)
        | succ p =>
          rw [show j + (p + 1) = j + 1 + p by omega]
          exact heach p e (Nat.lt_of_succ_lt_succ hp) hfind
      · rw [List.length_cons]
        omega
    | some e =>
      obtain ⟨acc', hrun, hacc⟩ := retireRun_cons (base := base) (j := j) he l acc
      have hone := retireOne_retires s k e (itemAt s base j)
      have hfind := retireOne_find he (itemAt s base j)
      rw [hrun]
      generalize retireOne s k e (itemAt s base j) = v at hone hfind
      have hitem (p : Nat) : itemAt v base p = itemAt s base p := by
        rw [hone.frame]
        rfl
      obtain ⟨honly, hothers, heach, hrecs⟩ := ih hn v (j + 1) acc'
      refine ⟨hone.trans honly, ?_, ?_, ?_⟩
      · intro m hm
        rw [List.mem_cons, not_or] at hm
        rw [hothers m hm.2, hfind, if_neg hm.1]
      · intro p e' hp he'
        cases p with
        | zero =>
          cases he.symm.trans he'
          exact (hothers k hk).trans ((hfind k).trans (if_pos rfl))
        | succ p =>
          have hp := Nat.lt_of_succ_lt_succ hp
          have hne : l.getD p 0 ≠ k := by
            rw [List.getD_eq_getElem _ _ hp]
            exact fun h => hk (h ▸ List.getElem_mem hp)
          have hsame : tfind v.seqs (l.getD p 0) = some e' := by
            rw [hfind, if_neg hne]
            exact he'
          rw [show j + (p + 1) = j + 1 + p by omega, ← hitem]
          exact heach p e' hp hsame
      · rw [List.length_cons]
        omega

/-- Entries of the batch that a RETIRE of this list and model acts on. -/
def batchOf (s : State) (x : Inst) (n : BitVec 512) : List Nat :=
  (x.built.filter (fun b => b.1 == nHandle n 0 && (tfind s.seqs b.2).any (fun e => e.model == nModel n))).map (·.2)

/-- The `Inst` once RETIRE has applied the entries `l` of its batch. -/
def retiredInst (n : BitVec 512) (l : List Nat) (x : Inst) : Inst :=
  { x with built := x.built.filter (fun b => !(b.1 == nHandle n 0 && l.contains b.2)) }

theorem retire_retires (h : Steps s id i x g n true) {l : List Nat} (hl : l = batchOf s x n) (hn : l.Nodup)
    (hpoison : s.mem.poison = []) (hmac : NoBadMac s)
    (himg : imageHit s (heldObj s n 0).base (64 + 40 * l.length) = false) :
    ∃ t y, exec (.retire id i) s = .next t ∧ tfind t.insts id = some y ∧ (y.node i).ended = 1 ∧
      (∀ k, k ∉ l → tfind t.seqs k = tfind s.seqs k) ∧
      ∀ j e, j < l.length → tfind s.seqs (l.getD j 0) = some e →
        tfind t.seqs (l.getD j 0) = retiredTo e (itemAt s (heldObj s n 0).base j) := by
  generalize hb : (heldObj s n 0).base = base at himg ⊢
  have hfault : dmFault s (base + 64) (32 * l.length) = none := by
    unfold dmFault
    rw [hpoison, hmac]
    rfl
  obtain ⟨honly, hothers, heach, hrecs⟩ := retireRun_applied (base := base) hn s 0 []
  generalize hr : retireRun base l 0 s [] = r at honly hothers heach hrecs
  obtain ⟨v, recs⟩ := r
  dsimp only at honly hothers heach hrecs
  have hvinst : tfind v.insts id = some x := by rw [honly.frame, h.inst]
  obtain ⟨w, hw⟩ : ∃ w, w = nodeEnded (modInst v id (retiredInst n l)) id i := ⟨_, rfl⟩
  have hmacw : NoBadMac w := by
    rw [hw]
    show NoBadMac v
    rw [honly.frame]
    exact hmac
  have himgw {a m : Nat} (hlow : base ≤ a) (hhigh : a + m ≤ base + (64 + 40 * l.length)) : imageHit w a m = false := by
    rw [hw]
    exact honly.image a m (imageHit_inside himg hlow hhigh)
  have hfirst : nodeWrite w id x (base + 28) (natBytes recs.length 2) =
      dmWrite w (polAt w x.ctx (base + 28)) (base + 28) (natBytes recs.length 2) := by
    refine nodeWrite_goes ?_ hmacw id x
    rw [natBytes_length]
    exact himgw (by omega) (by omega)
  have hframe := dmWrite_frame w (polAt w x.ctx (base + 28)) (base + 28) (natBytes recs.length 2)
  have hmac' := hmacw.dmWrite (polAt w x.ctx (base + 28)) (base + 28) (natBytes recs.length 2)
  generalize dmWrite w (polAt w x.ctx (base + 28)) (base + 28) (natBytes recs.length 2) = w' at hfirst hframe hmac'
  have hsecond : nodeWrite w' id x (base + 64 + 32 * l.length) recs.flatten =
      dmWrite w' (polAt w' x.ctx (base + 64 + 32 * l.length)) (base + 64 + 32 * l.length) recs.flatten := by
    refine nodeWrite_goes ?_ hmac' id x
    rw [hframe]
    refine himgw (by omega) ?_
    have : recs.flatten.length ≤ 8 * l.length := by simpa using hrecs
    omega
  have hexec : exec (.retire id i) s =
      .next (dmWrite w' (polAt w' x.ctx (base + 64 + 32 * l.length)) (base + 64 + 32 * l.length) recs.flatten) := by
    refine (onLive_runs h.runs _).trans (congrArg Host.Outcome.next ((h.acts _).trans ?_))
    unfold batchOf at hl
    simp only [hb, ← hl, hfault, hr]
    change nodeWrite (nodeWrite (nodeEnded (modInst v id (retiredInst n l)) id i) id x (base + 28)
      (natBytes recs.length 2)) id x (base + 64 + 32 * l.length) recs.flatten = _
    rw [← hw, hfirst]
    exact hsecond
  have hinst : tfind w.insts id = some { retiredInst n l x with nodes := tupd x.nodes i fun r => { r with ended := 1 } } := by
    rw [hw]
    exact modNode_find (modInst_find hvinst _) i _
  have hseqs : w.seqs = v.seqs := by
    rw [hw]
    rfl
  obtain ⟨r, hr⟩ := Option.isSome_iff_exists.mp h.has
  refine ⟨_, { retiredInst n l x with nodes := tupd x.nodes i fun r => { r with ended := 1 } }, hexec, ?_, ?_,
    fun k hk => ?_, fun j e hj he => ?_⟩
  · rw [dmWrite_frame, hframe]
    exact hinst
  · unfold Inst.node tget
    dsimp only
    rw [tfind_tupd_same, hr]
    rfl
  · rw [dmWrite_frame, hframe]
    dsimp only
    rw [hseqs, hothers k hk]
  · rw [dmWrite_frame, hframe]
    dsimp only
    rw [hseqs, heach j e hj he, Nat.zero_add]

/-- Settles O31: BUILD writes the entries it takes, whose numbers differ, and RETIRE applies its items in turn, by induction
on the batch; with no image or failing line in the way both write their list. -/
theorem batchedSteps : Obligations.BatchedSteps := by
  unfold Obligations.BatchedSteps
  refine ⟨?_, ?_⟩
  · intro s id node x g n l hruns hx hg hn htype hmode hst hfresh hhas hdisp hwf hl hmac himg
    exact build_builds ⟨hruns, hx, hg, hn, htype, hmode, hst, hfresh, hhas, hdisp⟩ hwf hmac hl himg
  · intro s id node x g n l hruns hx hg hn htype hmode hst hfresh hhas hdisp hl hnodup hpoison hmac himg
    obtain ⟨t, y, hexec, hy, hended, hothers, heach⟩ :=
      retire_retires ⟨hruns, hx, hg, hn, htype, hmode, hst, hfresh, hhas, hdisp⟩ hl hnodup hpoison hmac himg
    refine ⟨t, y, hexec, hy, hended, hothers, fun j e hj he => (heach j e hj he).trans ?_⟩
    unfold retiredTo itemAt
    cases retireEntry e _ <;> rfl

end Sys2Proof.Machine
end

section
/-! # A staged write across two channels (R189, R214, R283) -/

namespace Sys2Proof.Machine

set_option Elab.async false

namespace StagedSplit

/-! ## The witness: the 16 bytes of a staged entry lie across the end of a channel's share -/

/-- The entry staged: ones for the 16 bytes from 96, all of them under the mask. -/
def staged : Staged := { addr := 96, mask := 0xFFFF, data := List.replicate 16 0xFF }

/-- The local store, with the entry at the start of the staged-write area. -/
def store : Memory :=
  mwrites [] 15360 (natBytes (staged.addr + staged.mask.toNat * 2 ^ 40) 16 ++ staged.data)

/-- A workgroup of the commit form that is writing. -/
def wg : Wg := { SplitCombine.wg with commitForm := true, stageKib := 1, writing := true, staged := 1 }

/-- Partition 0 has the first 102 bytes, and its context writes with write combining (policy 3). -/
def state : State :=
  { SplitCombine.state with wgs := [(4, wg)], groups := [], cores := [(0, { ls := store })] }

theorem entries : stagedEnts state wg = [staged] := by decide +kernel

/-- Neither an image nor a failing line stands in the way. -/
theorem clear : imageHit state staged.addr 16 = false ∧ macDrops state staged.addr 16 = none := by decide +kernel

/-- No cache stands before the bytes, and each lies on a channel. -/
theorem plain : PlainAccess state wg.ctx staged.addr 16 where
  one   := by decide +kernel
  pol   := by decide +kernel
  empty := by decide +kernel
  wcb   := by decide +kernel
  mac   := by decide +kernel
  chan  := by
    intro _ _ b hlo hhi
    have hb : b ∈ List.range' staged.addr 16 := List.mem_range'_1.mpr ⟨hlo, hhi⟩
    revert b
    decide +kernel
  dram  := by decide +kernel
  ss    := by decide +kernel

/-- The state after the write-out. -/
def outcome : Option State :=
  match exec (.commitWriteEnd 4) state with
  | .next t => some t
  | _ => none

/-- The seventh byte is combined on the channel of the first, and memory shows none of it. -/
theorem unseen : outcome.map (fun t => dmByte t 102) = some 0 := by decide +kernel

end StagedSplit

open StagedSplit in
/-- Refutes O44: the write-out of a staged entry of policy 3 whose bytes lie on two channels, where a partition ends amid a
line, combines them all in the line of the first byte's channel, so that reads of the bytes on the other channel do not see
them (R189, R214, R283). -/
theorem not_copyAndCommit : ¬ Obligations.CopyAndCommit := by
  unfold Obligations.CopyAndCommit
  rintro ⟨-, -, hend, -⟩
  have hclear : ∀ e ∈ stagedEnts state wg, imageHit state e.addr 16 = false ∧ macDrops state e.addr 16 = none := by
    rw [entries]
    exact fun e he => List.mem_singleton.mp he ▸ clear
  obtain ⟨t, hexec, -, -, -, -, -, hbytes⟩ := hend state 4 wg rfl rfl rfl hclear
  have hbyte : dmByte t 102 = 255 := hbytes staged entries rfl plain 102
  have hout : outcome = some t := by
    unfold outcome
    rw [hexec]
  have hseen := unseen
  rw [hout, Option.map_some, hbyte] at hseen
  exact absurd hseen (by decide)

end Sys2Proof.Machine
end

section
/-! # Setting workgroups up on a core (R115, R173, R174, R258) -/

namespace Sys2Proof.Machine

set_option Elab.async false

variable {s t u : State} {id : Nat} {w : Wg}

/-! ## Entries written into a table -/

theorem mem_tput {α : Type} {m : Tab α} {i : Nat} {x : α} {e : Nat × α} (h : e ∈ tput m i x) : e = (i, x) ∨ e ∈ m := by
  induction m with
  | nil => exact .inl (List.mem_singleton.mp h)
  | cons a r ih =>
    obtain ⟨k, v⟩ := a
    unfold tput at h
    split at h
    · exact List.mem_cons.mp h
    · split at h
      · exact (List.mem_cons.mp h).imp id (List.mem_cons_of_mem _)
      · obtain rfl | h := List.mem_cons.mp h
        · exact .inr (List.mem_cons_self ..)
        · exact (ih h).imp id (List.mem_cons_of_mem _)

/-- Of entries of a kind that the one written is not of, none comes. -/
theorem tput_filter_sublist {α : Type} {p : Nat × α → Bool} {i : Nat} {x : α} (h : p (i, x) = false) (m : Tab α) :
    ((tput m i x).filter p).Sublist (m.filter p) := by
  induction m with
  | nil =>
    show (List.filter p [(i, x)]).Sublist _
    rw [List.filter_cons_of_neg (by simp [h])]
  | cons a r ih =>
    obtain ⟨k, v⟩ := a
    unfold tput
    split
    · rw [List.filter_cons_of_neg (by simp [h])]
    · split
      · rw [List.filter_cons_of_neg (by simp [h])]
        exact (List.sublist_cons_self _ _).filter p
      · rw [List.filter_cons, List.filter_cons]
        split
        · exact ih.cons_cons _
        · exact ih

/-! ## Places of a core partition (R173) -/

/-- The free group places of a core partition. -/
def freePlaces (s : State) (core c : Nat) : List Nat :=
  (List.range 16).filter fun p => !thas s.groups (groupKey core c p)

theorem mem_freePlaces {core c p : Nat} :
    p ∈ freePlaces s core c ↔ p < 16 ∧ tfind s.groups (groupKey core c p) = none := by
  simp [freePlaces, thas]

theorem freePlace_free {core c : Nat} (h : 0 < (freePlaces s core c).length) : freePlace s core c ∈ freePlaces s core c := by
  obtain ⟨p, hp⟩ := List.exists_mem_of_length_pos h
  obtain ⟨hrange, hfree⟩ := List.mem_filter.mp hp
  unfold freePlace
  cases hfind : (List.range 16).find? fun p => !thas s.groups (groupKey core c p) with
  | none => exact absurd hfree (by simpa using List.find?_eq_none.mp hfind p hrange)
  | some q => exact List.mem_filter.mpr ⟨List.mem_of_find?_eq_some hfind, List.find?_some (p := fun p => !thas s.groups (groupKey core c p)) hfind⟩

theorem groupKey_inj {core c c' p p' : Nat} (hp : p < 16) (hp' : p' < 16)
    (h : groupKey core c p = groupKey core c' p') : c = c' ∧ p = p' := by
  unfold groupKey at h
  omega

theorem grpOn_eq (n : Nat) {c : Nat} (hc : c < 4) : ((List.range n).filter (· % 4 = c)).length = grpOn n c := by
  unfold grpOn
  induction n with
  | zero =>
    show 0 = _
    omega
  | succ n ih =>
    rw [List.range_succ, List.filter_append, List.length_append, ih]
    by_cases h : n % 4 = c
    · rw [List.filter_cons_of_pos (by simpa using h)]
      show _ + 1 = _
      omega
    · rw [List.filter_cons_of_neg (by simpa using h)]
      show _ + 0 = _
      omega

/-! ## One group (R174, R178) -/

/-- From `s` to `t` groups are set up on a core: of the cores only the users of that one's places change. -/
structure SetsGroups (s t : State) (core : Nat) : Prop where
  frame  : t = { s with groups := t.groups, cores := t.cores, free := t.free }
  users  : coreOf t core = { coreOf s core with users := (coreOf t core).users }
  others : ∀ c, c ≠ core → coreOf t c = coreOf s c

theorem SetsGroups.refl (s : State) (core : Nat) : SetsGroups s s core := ⟨rfl, rfl, fun _ _ => rfl⟩

theorem SetsGroups.trans {core : Nat} (h : SetsGroups s t core) (h' : SetsGroups t u core) : SetsGroups s u core := by
  obtain ⟨hframe, hcore, hothers⟩ := h
  obtain ⟨hframe', hcore', hothers'⟩ := h'
  exact ⟨by rw [hframe', hframe], by rw [hcore', hcore], fun c hc => (hothers' c hc).trans (hothers c hc)⟩

/-- A group of a workgroup as it is set up. -/
def freshGroup (id : Nat) (w : Wg) (gidx : Nat) (seed : Option Nat) (now : BitVec 48) : Group :=
  { wg := id, gidx := gidx, splits := [(0, { st := .ready, pc := w.start, mask := 0xFFFFFFFF, readyAt := now })]
    nosplit := w.nosplit, seed := seed, nprogAt := now }

/-- The key under which the next group of a workgroup is set up. -/
def freshKey (s : State) (w : Wg) (gidx : Nat) : Nat := groupKey w.core (gidx % 4) (freePlace s w.core (gidx % 4))

theorem groupSeed_sets (s : State) (core place ctx : Nat) :
    SetsGroups s (groupSeed s core place ctx).2 core ∧ (groupSeed s core place ctx).2.groups = s.groups := by
  have husers : SetsGroups s (modCore s core fun c => { c with users := tput c.users place ctx }) core := by
    refine ⟨rfl, ?_, fun c hc => coreOf_modCore_other _ _ _ _ hc⟩
    rw [coreOf_modCore_same]
  unfold groupSeed
  dsimp only
  split
  · exact ⟨husers.trans ⟨rfl, rfl, fun _ _ => rfl⟩, rfl⟩
  · exact ⟨husers, rfl⟩

theorem setupGroup_groups (s : State) (id : Nat) (w : Wg) (gidx : Nat) :
    ∃ seed now, (setupGroup s id w gidx).groups = tput s.groups (freshKey s w gidx) (freshGroup id w gidx seed now) := by
  unfold setupGroup
  dsimp only
  rw [(groupSeed_sets ..).2]
  exact ⟨_, _, rfl⟩

theorem setupGroup_sets (s : State) (id : Nat) (w : Wg) (gidx : Nat) : SetsGroups s (setupGroup s id w gidx) w.core := by
  obtain ⟨hframe, hcore, hothers⟩ := (groupSeed_sets s w.core (freshKey s w gidx % 64) w.ctx).1
  refine ⟨?_, hcore, hothers⟩
  unfold setupGroup
  dsimp only
  unfold freshKey at hframe
  rw [hframe]

/-- Setting a group up takes one place of its core partition at most. -/
theorem setupGroup_places (s : State) (id : Nat) (w : Wg) (gidx c : Nat)
    (hfree : 0 < (freePlaces s w.core (gidx % 4)).length) :
    (freePlaces s w.core c).length ≤
      (freePlaces (setupGroup s id w gidx) w.core c).length + if gidx % 4 = c then 1 else 0 := by
  obtain ⟨seed, now, hgroups⟩ := setupGroup_groups s id w gidx
  have hplace := (mem_freePlaces.mp (freePlace_free hfree)).1
  have hother {p : Nat} (hp : p ∈ freePlaces s w.core c) (hne : ¬(gidx % 4 = c ∧ freePlace s w.core (gidx % 4) = p)) :
      p ∈ freePlaces (setupGroup s id w gidx) w.core c := by
    obtain ⟨hlt, hnone⟩ := mem_freePlaces.mp hp
    refine mem_freePlaces.mpr ⟨hlt, ?_⟩
    rw [hgroups, tfind_tput_other, hnone]
    exact fun h => hne (groupKey_inj hplace hlt h.symm)
  have hnodup : (freePlaces s w.core c).Nodup := List.nodup_range.filter _
  split
  next hmod =>
    refine (List.subperm_of_subset (l₂ := freePlace s w.core (gidx % 4) :: freePlaces (setupGroup s id w gidx) w.core c)
      hnodup fun p hp => ?_).length_le
    by_cases hpl : freePlace s w.core (gidx % 4) = p
    · exact hpl ▸ List.mem_cons_self ..
    · exact List.mem_cons_of_mem _ (hother hp fun h => hpl h.2)
  next hmod => exact (List.subperm_of_subset hnodup fun p hp => hother hp fun h => hmod h.1).length_le

/-! ## The groups of a workgroup -/

/-- From `s` to `t` groups `l` of a workgroup are set up on its core, on places that were free. -/
structure GroupsSet (s t : State) (id : Nat) (w : Wg) (l : List Nat) : Prop where
  kept  : ∀ k g, tfind s.groups k = some g → tfind t.groups k = some g
  fresh : ∀ gi ∈ l, ∃ p seed now, p < 16 ∧ tfind t.groups (groupKey w.core (gi % 4) p) = some (freshGroup id w gi seed now)

theorem setupGroups_sets (s : State) (id : Nat) (w : Wg) (l : List Nat) :
    SetsGroups s (l.foldl (fun s g => setupGroup s id w g) s) w.core :=
  foldl_rel (R := fun s t => SetsGroups s t w.core) (fun s => .refl s _) .trans (fun s g => setupGroup_sets s id w g) l s

theorem setupGroups_set (id : Nat) (w : Wg) {l : List Nat} (s : State)
    (hroom : ∀ c, c < 4 → (l.filter (· % 4 = c)).length ≤ (freePlaces s w.core c).length) :
    GroupsSet s (l.foldl (fun s g => setupGroup s id w g) s) id w l := by
  induction l generalizing s with
  | nil => exact ⟨fun _ _ h => h, fun _ h => absurd h List.not_mem_nil⟩
  | cons gi l ih =>
    have hmod : gi % 4 < 4 := Nat.mod_lt _ (by decide)
    have hpos : 0 < (freePlaces s w.core (gi % 4)).length := by
      refine Nat.lt_of_lt_of_le ?_ (hroom _ hmod)
      rw [List.filter_cons_of_pos (by simp)]
      exact Nat.succ_pos _
    obtain ⟨hlt, hnone⟩ := mem_freePlaces.mp (freePlace_free hpos)
    obtain ⟨seed, now, hgroups⟩ := setupGroup_groups s id w gi
    have hroom' : ∀ c, c < 4 →
        (l.filter (· % 4 = c)).length ≤ (freePlaces (setupGroup s id w gi) w.core c).length := by
      intro c hc
      have hplaces := setupGroup_places s id w gi c hpos
      have hneed := hroom c hc
      by_cases h : gi % 4 = c
      · rw [List.filter_cons_of_pos (by simpa using h), List.length_cons] at hneed
        rw [if_pos h] at hplaces
        omega
      · rw [List.filter_cons_of_neg (by simpa using h)] at hneed
        rw [if_neg h] at hplaces
        omega
    obtain ⟨hkept, hfresh⟩ := ih (setupGroup s id w gi) hroom'
    refine ⟨fun k g hg => hkept k g ?_, fun gj hgj => ?_⟩
    · rw [hgroups, tfind_tput_other, hg]
      exact fun h => by simp [h, freshKey, hnone] at hg
    · obtain rfl | hgj := List.mem_cons.mp hgj
      · refine ⟨_, seed, now, hlt, hkept _ _ ?_⟩
        rw [hgroups]
        exact tfind_tput_same ..
      · exact hfresh gj hgj

/-! ## A workgroup (R115, R258) -/

/-- A core whose counters `base` to `base + n - 1` are set to 0. -/
def Core.zeroCtrs (c : Core) (base n : Nat) : Core :=
  { c with
    ctrs := (List.range n).foldl (fun t i => tdel t (base + i)) c.ctrs
    ctrOut := c.ctrOut.filter (fun i => i < base || base + n ≤ i) }

/-- The state before a workgroup's groups are set up: its entry is there, and its storage is claimed. -/
def wgClaimed (s : State) (id : Nat) (w : Wg) (fresh : Bool) : State :=
  let s := { s with wgs := tput s.wgs id w }
  let s := if fresh then modCore (l1Flash s w.core) w.core (fun c => { c with l1i := [] }) else s
  modCore (lsClaim s w.core w.ctx w.lsBase w.lsKib) w.core fun c => c.zeroCtrs w.ctrBase w.lullCtrs

theorem setupWg_eq (s : State) (id : Nat) (w : Wg) (fresh : Bool) :
    setupWg s id w fresh = (List.range w.groups).foldl (fun s g => setupGroup s id w g) (wgClaimed s id w fresh) := rfl

theorem zeroCtrs_zero (c : Core) {base n i : Nat} (h : i < n) : tget (c.zeroCtrs base n).ctrs (base + i) 0 = 0 := by
  have hdel (l : List Nat) (m : Tab W32) (hi : i ∈ l ∨ tfind m (base + i) = none) :
      tfind (l.foldl (fun t i => tdel t (base + i)) m) (base + i) = none := by
    induction l generalizing m with
    | nil => exact hi.resolve_left List.not_mem_nil
    | cons j l ih =>
      refine ih _ ?_
      by_cases hj : i = j
      · exact .inr (by rw [hj, tfind_tdel_same])
      · refine hi.imp (fun h => (List.mem_cons.mp h).resolve_left hj) fun h => ?_
        rw [tfind_tdel, h, ite_self]
  unfold tget Core.zeroCtrs
  dsimp only
  rw [hdel _ _ (.inl (List.mem_range.mpr h))]
  rfl

/-- A claimed block that another context used last reads 0. -/
theorem lsClaim_foreign (s : State) {core ctx base kib a : Nat} (hlow : base * 1024 ≤ a) (hhigh : a < (base + kib) * 1024)
    (hother : tfind (coreOf s core).lsOwner (a / 1024) ≠ some ctx) :
    mget (coreOf (lsClaim s core ctx base kib) core).ls a = 0 := by
  unfold lsClaim
  rw [coreOf_modCore_same]
  dsimp only
  rw [mget_filter (fun b => !(((List.range kib).map (base + ·)).filter
    fun b => tfind (coreOf s core).lsOwner b != some ctx).contains (b / 1024)), if_neg]
  rw [Bool.not_eq_true', Bool.not_eq_false, List.contains_iff_mem, List.mem_filter, List.mem_map]
  refine ⟨⟨a / 1024 - base, List.mem_range.mpr ?_, ?_⟩, bne_iff_ne.mpr hother⟩ <;> omega

/-- What setting a workgroup up does, but for its groups: the entry is written, and only its core changes, whose storage it
has. -/
structure SetUp (s t : State) (id : Nat) (w : Wg) : Prop where
  frame   : t = { s with wgs := tput s.wgs id w, groups := t.groups, cores := t.cores, free := t.free }
  others  : ∀ c, c ≠ w.core → coreOf t c = coreOf s c
  ctrs    : ∀ i, i < w.lullCtrs → tget (coreOf t w.core).ctrs (w.ctrBase + i) 0 = 0
  foreign : ∀ a, w.lsBase * 1024 ≤ a → a < (w.lsBase + w.lsKib) * 1024 →
    tfind (coreOf s w.core).lsOwner (a / 1024) ≠ some w.ctx → mget (coreOf t w.core).ls a = 0

theorem wgClaimed_sets (s : State) (id : Nat) (w : Wg) (fresh : Bool) :
    SetUp s (wgClaimed s id w fresh) id w ∧ (wgClaimed s id w fresh).groups = s.groups := by
  have hflash : ∀ v : State, v = (if fresh then modCore (l1Flash { s with wgs := tput s.wgs id w } w.core) w.core
      (fun c => { c with l1i := [] }) else { s with wgs := tput s.wgs id w }) →
      v = { s with wgs := tput s.wgs id w, cores := v.cores } ∧ (∀ c, c ≠ w.core → coreOf v c = coreOf s c) ∧
        (coreOf v w.core).lsOwner = (coreOf s w.core).lsOwner := by
    intro v hv
    subst hv
    split
    · refine ⟨rfl, fun c hc => ?_, ?_⟩
      · rw [coreOf_modCore_other _ _ _ _ hc]
        exact coreOf_modCore_other _ _ _ _ hc
      · rw [coreOf_modCore_same, l1Flash, coreOf_modCore_same]
        rfl
    · exact ⟨rfl, fun _ _ => rfl, rfl⟩
  unfold wgClaimed
  dsimp only
  obtain ⟨hframe, hothers, howner⟩ := hflash _ rfl
  generalize (if fresh then modCore (l1Flash { s with wgs := tput s.wgs id w } w.core) w.core
      (fun c => { c with l1i := [] }) else { s with wgs := tput s.wgs id w }) = v at hframe hothers howner ⊢
  refine ⟨⟨?_, fun c hc => ?_, fun i hi => ?_, fun a hlow hhigh hother => ?_⟩, ?_⟩
  · rw [hframe]
    rfl
  · rw [coreOf_modCore_other _ _ _ _ hc, lsClaim, coreOf_modCore_other _ _ _ _ hc, hothers c hc]
  · rw [coreOf_modCore_same]
    exact zeroCtrs_zero _ hi
  · rw [coreOf_modCore_same]
    exact lsClaim_foreign v hlow hhigh (howner ▸ hother)
  · rw [hframe]
    rfl

theorem setupWg_sets (s : State) (id : Nat) (w : Wg) (fresh : Bool) : SetUp s (setupWg s id w fresh) id w := by
  obtain ⟨⟨hframe, hothers, hctrs, hforeign⟩, -⟩ := wgClaimed_sets s id w fresh
  obtain ⟨hframe', hcore', hothers'⟩ := setupGroups_sets (wgClaimed s id w fresh) id w (List.range w.groups)
  rw [← setupWg_eq] at hframe' hcore' hothers'
  refine ⟨?_, fun c hc => (hothers' c hc).trans (hothers c hc), fun i hi => ?_, fun a hlow hhigh hother => ?_⟩
  · rw [hframe', hframe]
  · rw [hcore']
    exact hctrs i hi
  · rw [hcore']
    exact hforeign a hlow hhigh hother

/-- Where each core partition has places for its groups, all groups of a workgroup are set up. -/
theorem setupWg_groups (fresh : Bool) (hroom : PlacesFor s w.core w.groups) :
    GroupsSet s (setupWg s id w fresh) id w (List.range w.groups) := by
  obtain ⟨-, hgroups⟩ := wgClaimed_sets s id w fresh
  have hset := setupGroups_set id w (l := List.range w.groups) (wgClaimed s id w fresh) (by
    intro c hc
    rw [grpOn_eq _ hc, freePlaces, hgroups]
    exact hroom c hc)
  rw [setupWg_eq]
  exact ⟨fun k g hg => hset.kept k g (hgroups ▸ hg), hset.fresh⟩

end Sys2Proof.Machine
end

section
/-! # Placing workgroups (R150 to R152, R173, R190, R303, R310) -/

namespace Sys2Proof.Machine

set_option Elab.async false

variable {s t : State} {id inst node idx core rank kills : Nat} {x : Inst} {g : Graph} {f : Form} {w : Wg}

/-! ## Room does not shrink where less is held (R173) -/

/-- What workgroups that have not ended take of something in all. -/
def heldSum (l : List Wg) (f : Wg → Nat) : Nat := ((l.filter (·.st != .ended)).map f).sum

theorem heldSum_sublist {l l' : List Wg} (h : l'.Sublist l) (f : Wg → Nat) : heldSum l' f ≤ heldSum l f :=
  ((h.filter _).map f).sum_le_sum fun _ _ => Nat.zero_le _

/-- Whether the groups of a need fit on core partition `c` with what is held. -/
def GroupsFit (l : List Wg) (n : Need) (c : Nat) : Prop :=
  heldSum l (fun w => grpOn w.groups c) + grpOn n.groups c ≤ 16 ∧
  heldSum l (fun w => grpOn w.groups c * unitsOf w.vregs) + grpOn n.groups c * unitsOf n.vregs ≤ 128 ∧
  heldSum l (fun w => grpOn w.groups c * w.nAcc) + grpOn n.groups c * n.nAcc ≤ 32

theorem GroupsFit.sublist {l l' : List Wg} {n : Need} {c : Nat} (h : l'.Sublist l) (hfit : GroupsFit l n c) :
    GroupsFit l' n c := by
  obtain ⟨hplaces, hunits, haccs⟩ := hfit
  have hle := heldSum_sublist h
  exact ⟨Nat.le_trans (Nat.add_le_add_right (hle _) _) hplaces, Nat.le_trans (Nat.add_le_add_right (hle _) _) hunits,
    Nat.le_trans (Nat.add_le_add_right (hle _) _) haccs⟩

theorem roomAmong_isSome (l : List Wg) (n : Need) :
    (roomAmong l n).isSome = true ↔ (∀ c, c < 4 → GroupsFit l n c) ∧
      (firstFit (l.map (fun w => (w.lsBase, w.lsKib))) 256 n.lsKib).isSome = true ∧
      (firstFit (l.map (fun w => (w.ctrBase, w.lullCtrs))) 48 n.ctrs).isSome = true := by
  have hok : ((List.range 4).all fun c =>
      decide (((l.filter (·.st != .ended)).map (fun w => grpOn w.groups c)).foldl (· + ·) 0 + grpOn n.groups c ≤ 16 ∧
      ((l.filter (·.st != .ended)).map (fun w => grpOn w.groups c * unitsOf w.vregs)).foldl (· + ·) 0 +
        grpOn n.groups c * unitsOf n.vregs ≤ 128 ∧
      ((l.filter (·.st != .ended)).map (fun w => grpOn w.groups c * w.nAcc)).foldl (· + ·) 0 +
        grpOn n.groups c * n.nAcc ≤ 32)) = true ↔ ∀ c, c < 4 → GroupsFit l n c := by
    simp only [List.all_eq_true, List.mem_range, decide_eq_true_eq, ← List.sum_eq_foldl_nat]
    exact Iff.rfl
  unfold roomAmong
  dsimp only
  split
  next h =>
    rw [and_iff_right (hok.mp h)]
    cases firstFit (l.map (fun w => (w.lsBase, w.lsKib))) 256 n.lsKib <;>
      cases firstFit (l.map (fun w => (w.ctrBase, w.lullCtrs))) 48 n.ctrs <;> simp
  next h => exact ⟨fun h' => absurd h' (by simp), fun h' => absurd (hok.mpr h'.1) h⟩

theorem firstFit_sublist {used used' : List (Nat × Nat)} {limit n : Nat} (h : used'.Sublist used)
    (hfit : (firstFit used limit n).isSome = true) : (firstFit used' limit n).isSome = true := by
  unfold firstFit at hfit ⊢
  split
  · rfl
  next hn =>
    rw [if_neg hn, List.find?_isSome] at hfit
    obtain ⟨b, hb, hfree⟩ := hfit
    refine List.find?_isSome.mpr ⟨b, hb, ?_⟩
    rw [Bool.not_eq_true', List.any_eq_false] at hfree ⊢
    exact fun u hu => hfree u (h.subset hu)

theorem roomAmong_sublist {l l' : List Wg} {n : Need} (h : l'.Sublist l) (hroom : (roomAmong l n).isSome = true) :
    (roomAmong l' n).isSome = true := by
  rw [roomAmong_isSome] at hroom ⊢
  obtain ⟨hfit, hls, hctr⟩ := hroom
  exact ⟨fun c hc => (hfit c hc).sublist h, firstFit_sublist (h.map _) hls, firstFit_sublist (h.map _) hctr⟩

/-- A workgroup set up on one core takes no room from another. -/
theorem SetUp.room (h : SetUp s t id w) (hst : w.st = .placed) {c : Nat} (hc : c ≠ w.core) {n : Need}
    (hroom : (roomOn s c n).isSome = true) : (roomOn t c n).isSome = true := by
  have hwgs : t.wgs = tput s.wgs id w := by rw [h.frame]
  refine roomAmong_sublist (List.Sublist.append ((?_ : (onCore t c).Sublist (onCore s c)).map _) ?_) hroom
  · unfold onCore
    rw [hwgs]
    exact tput_filter_sublist (by simp [Ne.symm hc]) _
  · unfold heldOn
    rw [h.others c hc]
    refine (List.monotone_filter_right _ fun e he => ?_).map _
    rw [List.any_eq_true] at he ⊢
    obtain ⟨i, hi, hstop⟩ := he
    refine ⟨i, hi, ?_⟩
    rw [hwgs, tfind_tput] at hstop
    split at hstop
    · simp [hst] at hstop
    · exact hstop

/-! ## One workgroup (R151, R173) -/

/-- A core that holds a workgroup of a node. -/
def NodeRt.onCore (r : NodeRt) (core : Nat) : NodeRt :=
  { r with cores := if r.cores.contains core then r.cores else core :: r.cores }

/-- The state in which a workgroup is set up: it has a number, and its node knows the core. -/
def numbered (s : State) (inst node core : Nat) : State :=
  modNode { s with orders := s.orders + 1 } inst node fun r => r.onCore core

/-- The entry a workgroup is placed under, and its kills: a killed one's, or a fresh number. -/
def placeId (s : State) (inst node idx : Nat) : Nat × Nat :=
  (wgFind s inst node idx).elim (s.orders, 0) fun e => (e.1, e.2.kills)

theorem placeOne_eq {ras : Option RasSetup} {base : Nat × Nat} (hroom : roomOn s core f.need = some base)
    (hid : placeId s inst node idx = (id, kills)) :
    placeOne s f inst x g node idx core rank ras = setupWg (numbered s inst node core) id
      (formWg s f inst x g node idx core rank kills base ras) (!((x.node node).cores.contains core)) := by
  unfold placeId at hid
  unfold placeOne
  rw [hroom]
  dsimp only
  cases hfind : wgFind s inst node idx with
  | none =>
    rw [hfind] at hid
    cases hid
    rfl
  | some e =>
    rw [hfind] at hid
    cases hid
    rfl

theorem placeOne_sets {ras : Option RasSetup} {base : Nat × Nat} (hroom : roomOn s core f.need = some base)
    (hid : placeId s inst node idx = (id, kills)) :
    SetUp (numbered s inst node core) (placeOne s f inst x g node idx core rank ras) id
      (formWg s f inst x g node idx core rank kills base ras) := by
  rw [placeOne_eq hroom hid]
  exact setupWg_sets ..

theorem freshGroup_fresh {p gi : Nat} {seed : Option Nat} {now : BitVec 48} (hp : p < 16)
    (hg : tfind t.groups (groupKey w.core (gi % 4) p) = some (freshGroup id w gi seed now)) :
    FreshGroup t w.core id gi w.start 0xFFFFFFFF := by
  have hkey : groupKey w.core (gi % 4) p / 16 = w.core * 4 + gi % 4 := by
    unfold groupKey
    omega
  exact ⟨_, _, _, hg, hkey, rfl, rfl, rfl, rfl, rfl, rfl, rfl, rfl, rfl, rfl, rfl, rfl⟩

/-! ## A cluster (R190) -/

/-- Place the members of a cluster, the first of rank `n`. -/
def placeCluster (s : State) (f : Form) (inst : Nat) (x : Inst) (g : Graph) (node idx n : Nat) (cs : List Nat) : State :=
  (cs.zipIdx n).foldl (fun s e => placeOne s f inst x g node (idx + e.2) e.1 e.2 none) s

theorem placeKernel_eq {cs : List Nat} (hx : tfind s.insts inst = some x) (hg : graphOf s x = some g)
    (hpart : partRuns s x.part = true) (hidx : idx % (kernelForm g node).csize = 0)
    (hsaved : ∀ e, wgFind s inst node idx = some e → e.2.st ≠ .saved) (hnext : isNext s inst x g node idx core = true)
    (hcores : coresFor s x.part core (kernelForm g node).csize (kernelForm g node).need = some cs) :
    placeKernel s inst node idx core =
      if (wgFind s inst node idx).isSome then placeCluster s (kernelForm g node) inst x g node idx 0 cs
      else modNode (placeCluster s (kernelForm g node) inst x g node idx 0 cs) inst node
        (fun r => { r with placed := r.placed + (kernelForm g node).csize }) := by
  have hnot : ((wgFind s inst node idx).map (·.2.st) != some .saved) = true := by
    cases hfind : wgFind s inst node idx with
    | none => rfl
    | some e => exact bne_iff_ne.mpr fun h => hsaved e hfind (Option.some.inj h)
  unfold placeKernel
  simp only [hx, hg, hpart, hidx, hnot, hnext, hcores, decide_true, Bool.and_self, if_true, Option.isSome_map]
  rfl

theorem wgFind_none (s : State) (inst node idx : Nat) :
    wgFind s inst node idx = none ↔ ∀ e ∈ s.wgs, ¬(e.2.inst = inst ∧ e.2.node = node ∧ e.2.idx = idx) := by
  unfold wgFind
  rw [List.find?_eq_none]
  simp [and_assoc]

/-- The members of a cluster that has no entry yet stand one on each of their cores, in rank order. -/
theorem placeCluster_places {cs : List Nat} (s : State) (n : Nat) (hn : cs.Nodup)
    (hroom : ∀ c ∈ cs, (roomOn s c f.need).isSome = true)
    (hnone : ∀ j, j < cs.length → wgFind s inst node (idx + (n + j)) = none) :
    (∀ i, i < s.orders → tfind (placeCluster s f inst x g node idx n cs).wgs i = tfind s.wgs i) ∧
    ∀ k, k < cs.length → ∃ w, tfind (placeCluster s f inst x g node idx n cs).wgs (s.orders + k) = some w ∧ w.st = .placed ∧
      w.inst = inst ∧ w.node = node ∧ w.idx = idx + (n + k) ∧ w.rank = n + k ∧ w.cluster = idx ∧ w.core = cs.getD k 0 := by
  induction cs generalizing s n with
  | nil => exact ⟨fun _ _ => rfl, fun _ hk => absurd hk (Nat.not_lt_zero _)⟩
  | cons c cs ih =>
    obtain ⟨hc, hn⟩ := List.nodup_cons.mp hn
    obtain ⟨base, hbase⟩ := Option.isSome_iff_exists.mp (hroom c (List.mem_cons_self ..))
    have hid : placeId s inst node (idx + n) = (s.orders, 0) := by
      unfold placeId
      rw [show wgFind s inst node (idx + n) = none from hnone 0 (Nat.succ_pos _)]
      rfl
    have hset := placeOne_sets (x := x) (g := g) (rank := n) (ras := none) hbase hid
    rw [show placeCluster s f inst x g node idx n (c :: cs) =
      placeCluster (placeOne s f inst x g node (idx + n) c n none) f inst x g node idx (n + 1) cs from rfl]
    have hw : ∃ w, w = formWg s f inst x g node (idx + n) c n 0 base none := ⟨_, rfl⟩
    obtain ⟨w, hw⟩ := hw
    have hwcore : w.core = c := hw ▸ rfl
    rw [← hw] at hset
    generalize placeOne s f inst x g node (idx + n) c n none = u at hset
    have hwgs : u.wgs = tput s.wgs s.orders w := by rw [hset.frame]; rfl
    have horders : u.orders = s.orders + 1 := by rw [hset.frame]; rfl
    obtain ⟨hkept, hplaced⟩ := ih u (n + 1) hn
      (fun d hd => hset.room (hw ▸ rfl) (fun h => hc ((h.trans hwcore) ▸ hd)) (hroom d (List.mem_cons_of_mem _ hd))) (by
        intro j hj
        have hold := hnone (j + 1) (Nat.succ_lt_succ hj)
        rw [show n + 1 + j = n + (j + 1) by omega, wgFind_none, hwgs]
        intro e he
        obtain rfl | he := mem_tput he
        · rintro ⟨-, -, hidx⟩
          rw [hw] at hidx
          have : idx + n = idx + (n + (j + 1)) := hidx
          omega
        · exact (wgFind_none ..).mp hold e he)
    rw [horders] at hkept hplaced
    refine ⟨fun i hi => ?_, fun k hk => ?_⟩
    · rw [hkept i (by omega), hwgs, tfind_tput_other _ _ _ _ (by omega)]
    · cases k with
      | zero =>
        refine ⟨w, ?_, ?_⟩
        · rw [hkept _ (by omega), hwgs]
          exact tfind_tput_same ..
        · rw [hw]
          exact ⟨rfl, rfl, rfl, rfl, rfl, Nat.add_sub_cancel .., rfl⟩
      | succ k =>
        obtain ⟨v, hv⟩ := hplaced k (Nat.lt_of_succ_lt_succ hk)
        rw [show s.orders + 1 + k = s.orders + (k + 1) by omega, show n + 1 + k = n + (k + 1) by omega] at hv
        exact ⟨v, hv⟩

/-- The cores found for a cluster differ, are as many as it has members, and have room. -/
theorem coresFor_cores {part n : Nat} {need : Need} {cs : List Nat} (hn : 1 < n) (h : coresFor s part core n need = some cs) :
    cs.Nodup ∧ cs.length = n ∧ ∀ c ∈ cs, (roomOn s c need).isSome = true := by
  unfold coresFor at h
  rw [if_neg (by omega)] at h
  dsimp only at h
  split at h
  next hlen =>
    cases h
    have hnodup : ((List.range 4).map (core / 4 * 4 + ·)).Nodup :=
      List.nodup_range.map fun a b h => Nat.add_left_cancel h
    refine ⟨(hnodup.filter _).sublist (List.take_sublist _ _), by rw [List.length_take, Nat.min_eq_left hlen], fun c hc => ?_⟩
    exact (Bool.and_eq_true_iff.mp (List.mem_filter.mp (List.mem_of_mem_take hc)).2).2
  · cases h

/-- A cluster goes to the cores found for it. -/
theorem placeKernel_cluster {cs : List Nat} (hx : tfind s.insts inst = some x) (hg : graphOf s x = some g)
    (hpart : partRuns s x.part = true) (hsize : 1 < (kernelForm g node).csize) (hidx : idx % (kernelForm g node).csize = 0)
    (hnext : isNext s inst x g node idx core = true)
    (hcores : coresFor s x.part core (kernelForm g node).csize (kernelForm g node).need = some cs)
    (hnone : ∀ k, k < (kernelForm g node).csize → wgFind s inst node (idx + k) = none) {k : Nat}
    (hk : k < (kernelForm g node).csize) :
    ∃ w, tfind (placeKernel s inst node idx core).wgs (s.orders + k) = some w ∧ w.st = .placed ∧
      w.inst = inst ∧ w.node = node ∧ w.idx = idx + k ∧ w.rank = k ∧ w.cluster = idx ∧ w.core = cs.getD k 0 := by
  obtain ⟨hnodup, hlen, hroom⟩ := coresFor_cores hsize hcores
  have hfirst : wgFind s inst node idx = none := hnone 0 (by omega)
  have hplaced := (placeCluster_places (x := x) (g := g) (f := kernelForm g node) (inst := inst) (node := node) (idx := idx)
    s 0 hnodup hroom fun j hj => by rw [Nat.zero_add]; exact hnone j (hlen ▸ hj)).2 k (hlen ▸ hk)
  rw [Nat.zero_add] at hplaced
  rw [placeKernel_eq hx hg hpart hidx (fun e he => by rw [hfirst] at he; cases he) hnext hcores, hfirst]
  exact hplaced

/-! ## A single workgroup -/

/-- The `Inst` once a workgroup of a node is placed. -/
def placedInst (s : State) (inst node idx core : Nat) (x : Inst) : Inst :=
  { x with nodes := tupd x.nodes node fun r =>
    { r.onCore core with placed := r.placed + if wgFind s inst node idx = none then 1 else 0 } }

/-- The kernel's next workgroup is set up on its core, and counted where it is new. -/
theorem placeKernel_single {base : Nat × Nat} (hx : tfind s.insts inst = some x) (hg : graphOf s x = some g)
    (hpart : partRuns s x.part = true) (hsize : (kernelForm g node).csize = 1)
    (hsaved : ∀ e, wgFind s inst node idx = some e → e.2.st ≠ .saved) (hnext : isNext s inst x g node idx core = true)
    (hin : coreIn s x.part core = true) (hroom : roomOn s core (kernelForm g node).need = some base)
    (hid : placeId s inst node idx = (id, kills)) :
    ∃ v, v = setupWg (numbered s inst node core) id
        (formWg s (kernelForm g node) inst x g node idx core 0 kills base none) (!((x.node node).cores.contains core)) ∧
      placeKernel s inst node idx core = { v with insts := (placeKernel s inst node idx core).insts } ∧
      tfind (placeKernel s inst node idx core).insts inst = some (placedInst s inst node idx core x) := by
  have hcores : coresFor s x.part core (kernelForm g node).csize (kernelForm g node).need = some [core] := by
    unfold coresFor
    rw [hsize, if_pos rfl, hin, hroom]
    rfl
  have hidx : idx % (kernelForm g node).csize = 0 := by rw [hsize, Nat.mod_one]
  have hkernel := placeKernel_eq hx hg hpart hidx hsaved hnext hcores
  rw [show placeCluster s (kernelForm g node) inst x g node idx 0 [core] =
    placeOne s (kernelForm g node) inst x g node idx core 0 none from rfl, placeOne_eq hroom hid, hsize] at hkernel
  have hset := setupWg_sets (numbered s inst node core) id
    (formWg s (kernelForm g node) inst x g node idx core 0 kills base none) (!((x.node node).cores.contains core))
  generalize hv : setupWg (numbered s inst node core) id
    (formWg s (kernelForm g node) inst x g node idx core 0 kills base none) (!((x.node node).cores.contains core)) = v
    at hkernel hset
  have hinst : tfind v.insts inst = some { x with nodes := tupd x.nodes node fun r => r.onCore core } := by
    rw [hset.frame]
    exact modNode_find (s := { s with orders := s.orders + 1 }) hx _ _
  refine ⟨v, rfl, ?_, ?_⟩
  · rw [hkernel]
    split <;> rfl
  · rw [hkernel]
    unfold placedInst
    cases hfind : wgFind s inst node idx with
    | some e => exact hinst
    | none =>
      refine (modNode_find hinst _ _).trans ?_
      dsimp only
      rw [tupd_tupd]
      rfl

/-! ## A raster group (R303, R310) -/

/-- The workgroup of a raster group. -/
def rasWg (s : State) (inst : Nat) (x : Inst) (g : Graph) (node core pc : Nat) (helpers : W32) (r : RasSetup) : Wg :=
  { formWg s { need := rasNeed, csize := 1, entry := 0, codeLen := (heldObj s (g.nodes.getD node 0) 0).len, stageKib := 0
               commitForm := false, nosplit := false, argOff := 0 } inst x g node s.orders core 0 0 (0, 0) (some r) with
    start := BitVec.ofNat 24 pc, exited := 32 - popcount (setupLanes r) 32, helpers := helpers }

/-- A group of which only the lanes of a mask run. -/
def Group.only (mask : W32) (g : Group) : Group :=
  { g with exited := ~~~mask, splits := g.splits.map fun e => (e.1, { e.2 with mask := mask }) }

theorem Group.only_only (mask : W32) (g : Group) : (g.only mask).only mask = g.only mask := by
  unfold Group.only
  dsimp only
  rw [List.map_map]
  rfl

/-- A change that is made once or more often to each of several groups. -/
theorem foldl_modGroup_find {f : Group → Group} (hf : ∀ g, f (f g) = f g) (l : List Nat) (s : State) {k : Nat} {g : Group}
    (hg : tfind s.groups k = some g) (hk : k ∈ l ∨ f g = g) :
    tfind (l.foldl (fun s k => modGroup s k f) s).groups k = some (f g) := by
  induction l generalizing s g with
  | nil =>
    rw [hk.resolve_left List.not_mem_nil]
    exact hg
  | cons j l ih =>
    rw [List.foldl_cons]
    by_cases hj : k = j
    · subst hj
      rw [ih _ (modGroup_find f hg) (.inr (hf g)), hf]
    · exact ih _ ((modGroup_other f hj).trans hg) (hk.imp_left fun h => (List.mem_cons.mp h).resolve_left hj)

theorem foldl_modGroup_frame (f : Group → Group) (l : List Nat) (s : State) :
    l.foldl (fun s k => modGroup s k f) s = { s with groups := (l.foldl (fun s k => modGroup s k f) s).groups } :=
  foldl_rel (R := fun s t => t = { s with groups := t.groups }) (fun _ => rfl) (fun h h' => by rw [h', h])
    (fun s k => modGroup_frame s k f) l s

theorem rasSetup_eq (s : State) (inst : Nat) (x : Inst) (g : Graph) (node core pc : Nat) (helpers : W32) (r : RasSetup) :
    ∃ v, v = setupWg (numbered s inst node core) s.orders (rasWg s inst x g node core pc helpers r)
        (!((x.node node).cores.contains core)) ∧
      rasSetup s inst x g node core pc helpers r =
        (tkeys v.groups (fun _ g => g.wg == s.orders)).foldl (fun s k => modGroup s k (Group.only (setupLanes r))) v :=
  ⟨_, rfl, rfl⟩

/-- What placing a raster group does: its workgroup is there, with the lanes named on one group, and no other changes. -/
structure RasPlaced (s t : State) (w : Wg) (r : RasSetup) : Prop where
  found  : tfind t.wgs s.orders = some w
  others : ∀ j, j ≠ s.orders → tfind t.wgs j = tfind s.wgs j
  group  : FreshGroup t w.core s.orders 0 w.start (setupLanes r)

theorem rasSetup_places (hroom : PlacesFor s core 1) (pc : Nat) (helpers : W32) (r : RasSetup) :
    RasPlaced s (rasSetup s inst x g node core pc helpers r) (rasWg s inst x g node core pc helpers r) r := by
  obtain ⟨v, hv, hras⟩ := rasSetup_eq s inst x g node core pc helpers r
  obtain ⟨w, hw⟩ : ∃ w, w = rasWg s inst x g node core pc helpers r := ⟨_, rfl⟩
  have hcore : w.core = core := hw ▸ rfl
  have hgroups : w.groups = 1 := hw ▸ rfl
  rw [← hw] at hv ⊢
  have hset := setupWg_sets (numbered s inst node core) s.orders w (!((x.node node).cores.contains core))
  have hfresh := (setupWg_groups (s := numbered s inst node core) (id := s.orders) (!((x.node node).cores.contains core))
    (by rw [hcore, hgroups]; exact hroom)).fresh 0 (by rw [hgroups]; exact List.mem_singleton.mpr rfl)
  rw [← hv] at hset hfresh
  obtain ⟨p, seed, now, hp, hgroup⟩ := hfresh
  have hwgs : (rasSetup s inst x g node core pc helpers r).wgs = tput s.wgs s.orders w := by
    rw [hras, foldl_modGroup_frame, hset.frame]
    rfl
  refine ⟨?_, fun j hj => ?_, ?_⟩
  · rw [hwgs]
    exact tfind_tput_same ..
  · rw [hwgs]
    exact tfind_tput_other _ _ _ _ hj
  · have hmem : groupKey w.core (0 % 4) p ∈ tkeys v.groups (fun _ g => g.wg == s.orders) :=
      mem_tkeys.mpr ⟨_, mem_of_tfind hgroup, beq_self_eq_true _⟩
    have hfind := foldl_modGroup_find (Group.only_only (setupLanes r)) _ _ hgroup (.inl hmem)
    rw [← hras] at hfind
    have hkey : groupKey w.core (0 % 4) p / 16 = w.core * 4 + 0 % 4 := by
      unfold groupKey
      omega
    exact ⟨_, _, _, hfind, hkey, rfl, rfl, rfl, rfl, rfl, rfl, rfl, rfl, rfl, rfl, rfl, rfl⟩

/-- What is noted in a pass changes no workgroup. -/
theorem RasPlaced.modPass {r : RasSetup} (h : RasPlaced s t w r) (pid : Nat) (f : Pass → Pass) :
    RasPlaced s (modPass t pid f) w r := by
  obtain ⟨hfound, hothers, hgroup⟩ := h
  exact ⟨hfound, hothers, hgroup⟩

/-- The PC a raster group starts at: the shader of its stage. -/
def shaderPc (p : Pass) (r : RasSetup) : Nat :=
  if r.stage = .vertex then bits (p.draw r.draw) 343 320 else bits (p.draw r.draw) 311 288

theorem rasPlace_places {r : RasSetup} {pid : Nat} {p : Pass} (hx : tfind s.insts inst = some x)
    (hg : graphOf s x = some g) (hp : passOf s inst node = some (pid, p)) (hpart : partRuns s x.part = true)
    (hin : coreIn s x.part core = true) (hroom : (roomOn s core rasNeed).isSome = true) (hplaces : PlacesFor s core 1)
    (hahead : noneAhead s inst x node core = true) (hdraw : r.draw < p.draws.length) (hne : r.lanes ≠ [])
    (hlanes : r.lanes.all (fun l => l.lane < 32) = true) (hnodup : (r.lanes.map (·.lane)).Nodup)
    (hstage : r.stage = .vertex ∧ vertexOk s pid p r = true ∨ r.stage = .fragment ∧ fragmentOk p core r = true) :
    ∃ helpers, RasPlaced s (rasPlace s inst node core r) (rasWg s inst x g node core (shaderPc p r) helpers r) r := by
  have hbne : (r.lanes != []) = true := bne_iff_ne.mpr hne
  unfold rasPlace shaderPc
  simp only [hx, hp, hg, hpart, hin, hroom, hahead, hdraw, hbne, hlanes, hnodup, decide_true, Bool.true_and]
  obtain ⟨hst, hok⟩ | ⟨hst, hok⟩ := hstage
  · rw [hst]
    dsimp only
    rw [hok, if_pos rfl, if_pos rfl]
    exact ⟨_, rasSetup_places hplaces ..⟩
  · rw [hst]
    dsimp only
    rw [hok, if_pos rfl, if_neg (by decide)]
    exact ⟨_, (rasSetup_places hplaces ..).modPass ..⟩

/-- Settles O27: a workgroup is set up by claiming its core's storage and then, in turn, a free place for each of its groups;
the members of a cluster stand on different cores, so none takes the room found for the next. -/
theorem workgroupPlacement : Obligations.WorkgroupPlacement := by
  unfold Obligations.WorkgroupPlacement
  refine ⟨?_, ?_, ?_⟩
  · intro s inst node idx core lb cb id kills x g r hruns hx hg hr hpart hsize hnext hin hroom hplaces hid
    have hentry : placeId s inst node idx = (id, kills) ∧ ∀ e, wgFind s inst node idx = some e → e.2.st ≠ .saved := by
      unfold placeId
      obtain ⟨hnone, hid, hkills⟩ | ⟨w, hsome, hst, hkills⟩ := hid
      · rw [hnone, hid, hkills]
        exact ⟨rfl, fun _ h => by cases h⟩
      · rw [hsome, ← hkills]
        exact ⟨rfl, fun e he => by cases he; simp [hst]⟩
    obtain ⟨hentry, hsaved⟩ := hentry
    obtain ⟨v, hv, hplace, hinst⟩ := placeKernel_single hx hg hpart hsize hsaved hnext hin hroom hentry
    obtain ⟨w, hw⟩ : ∃ w, w = formWg s (kernelForm g node) inst x g node idx core 0 kills (lb, cb) none := ⟨_, rfl⟩
    rw [← hw] at hv
    have hcore : w.core = core := hw ▸ rfl
    have hset := setupWg_sets (numbered s inst node core) id w (!((x.node node).cores.contains core))
    have hgroups := setupWg_groups (s := numbered s inst node core) (id := id) (w := w)
      (!((x.node node).cores.contains core)) (by rw [hw]; exact hplaces)
    rw [← hv] at hset hgroups
    have hwgs : (placeKernel s inst node idx core).wgs = tput s.wgs id w := by
      rw [hplace, hset.frame]
      rfl
    have hcores : coreOf (placeKernel s inst node idx core) core = coreOf v w.core := by
      rw [hplace, hcore]
      rfl
    refine ⟨_, w, _, onLive_runs hruns _, ?_, hw ▸ rfl, hw ▸ rfl, hw ▸ rfl, hw ▸ rfl, hcore, hw ▸ rfl, hw ▸ rfl, hw ▸ rfl,
      hw ▸ rfl, hw ▸ rfl, hw ▸ rfl, hw ▸ rfl, hw ▸ rfl, fun j hj => ?_, hinst, ?_, ?_, fun i hi => ?_,
      fun a hlow hhigh hother => ?_, fun gi hgi => ?_⟩
    · rw [hwgs]
      exact tfind_tput_same ..
    · rw [hwgs]
      exact tfind_tput_other _ _ _ _ hj
    · unfold Inst.node placedInst tget
      dsimp only
      rw [tfind_tupd_same, hr]
      rfl
    · unfold Inst.node placedInst tget
      dsimp only
      rw [tfind_tupd_same, hr]
      rfl
    · rw [hcores, show cb = w.ctrBase from hw ▸ rfl]
      exact hset.ctrs i hi
    · rw [hcores]
      rw [show lb = w.lsBase from hw ▸ rfl] at hlow hhigh
      rw [← hcore, show x.ctx = w.ctx from hw ▸ rfl] at hother
      exact hset.foreign a hlow hhigh hother
    · obtain ⟨p, seed, now, hp, hgroup⟩ := hgroups.fresh gi (List.mem_range.mpr hgi)
      have hfresh : FreshGroup (placeKernel s inst node idx core) w.core id gi w.start 0xFFFFFFFF := by
        refine freshGroup_fresh (seed := seed) (now := now) hp ?_
        rw [hplace]
        exact hgroup
      exact hcore ▸ hfresh
  · intro s inst node idx core x g cs hruns hx hg hpart hsize hidx hnext hcores hnone
    exact ⟨_, onLive_runs hruns _, fun k hk => placeKernel_cluster hx hg hpart hsize hidx hnext hcores hnone hk⟩
  · intro s inst node idx core x g r pid p hruns hx hg hp hpart hin hroom hplaces hahead hdraw hne hlanes hnodup hstage _
    obtain ⟨helpers, hfound, hothers, hgroup⟩ :=
      rasPlace_places hx hg hp hpart hin hroom hplaces hahead hdraw hne hlanes hnodup hstage
    exact ⟨_, _, onLive_runs hruns _, hfound, rfl, rfl, rfl, rfl, rfl, rfl, hothers, hgroup⟩

end Sys2Proof.Machine
end

section
/-! # Pre-emption: the victims found, and how each stops (R152, R153, R155, R157) -/

namespace Sys2Proof.Machine

set_option Elab.async false

variable {s t u : State} {inst node idx core : Nat} {v : Victim} {vs : List Victim}

/-! ## Victims are made of the workgroups there are -/

/-- A victim of workgroups of `s`. -/
def Victim.of (s : State) (v : Victim) : Prop := ∀ e ∈ v.wgs, e ∈ s.wgs

theorem mem_victimIn {a : Victim} {l : List Victim} (h : v ∈ victimIn a l) : v = a ∨ v ∈ l := by
  induction l with
  | nil => exact .inl (List.mem_singleton.mp h)
  | cons b r ih =>
    unfold victimIn at h
    split at h
    · exact List.mem_cons.mp h
    · obtain rfl | h := List.mem_cons.mp h
      · exact .inr (List.mem_cons_self ..)
      · exact (ih h).imp_right (List.mem_cons_of_mem _)

theorem mem_sortedVictims {l : List Victim} (h : v ∈ l.foldr victimIn []) : v ∈ l := by
  induction l with
  | nil => exact h
  | cons a r ih =>
    obtain rfl | h := mem_victimIn h
    · exact List.mem_cons_self ..
    · exact List.mem_cons_of_mem _ (ih h)

theorem victimsOn_of {rank : Nat} (h : v ∈ victimsOn s core rank) : v.of s := by
  have hmem := mem_sortedVictims h
  rw [List.mem_append, List.mem_append] at hmem
  obtain (htile | hvertex) | hcluster := hmem
  · obtain ⟨e, -, he⟩ := List.mem_filterMap.mp htile
    dsimp only at he
    split at he
    · cases he
      exact fun w hw => (List.mem_filter.mp hw).1
    · cases he
  · obtain ⟨e, hmem, he⟩ := List.mem_filterMap.mp hvertex
    dsimp only at he
    split at he
    · cases he
      exact fun w hw => List.mem_singleton.mp hw ▸ hmem
    · cases he
  · obtain ⟨e, -, he⟩ := List.mem_filterMap.mp hcluster
    dsimp only at he
    split at he
    · cases he
      exact fun w hw => (List.mem_filter.mp hw).1
    · cases he

theorem takeVictims_mem {n : Need} {l : List Victim} {slots : Nat} {gone : List Nat}
    (h : takeVictims s core n l slots gone = some vs) (hv : v ∈ vs) : v ∈ l := by
  induction l generalizing slots gone vs with
  | nil =>
    unfold takeVictims at h
    cases h
  | cons a r ih =>
    unfold takeVictims at h
    dsimp only at h
    split at h
    · exact List.mem_cons_of_mem _ (ih h hv)
    · split at h
      · cases h
        exact List.mem_singleton.mp hv ▸ List.mem_cons_self ..
      · obtain ⟨m, hm, hvs⟩ := Option.map_eq_some_iff.mp h
        subst hvs
        obtain rfl | hv := List.mem_cons.mp hv
        · exact List.mem_cons_self ..
        · exact List.mem_cons_of_mem _ (ih hm hv)

theorem preemptCore_of {part rank k : Nat} {n : Need} (h : preemptCore s part rank n = some (k, vs)) :
    ∀ v : Victim, v ∈ vs → v.of s := by
  have hall : ∀ k vs, preemptCore s part rank n = some (k, vs) → ∀ v : Victim, v ∈ vs → v.of s := by
    unfold preemptCore
    refine List.foldlRecOn (motive := fun best => ∀ k vs, best = some (k, vs) → ∀ v : Victim, v ∈ vs → v.of s) _ _ (fun _ _ h => ?_)
      fun best hbest c _ k vs h => ?_
    · cases h
    · have htaken {l : List Victim} (hl : takeVictims s c n (victimsOn s c rank) (freeSaveSlots s part) [] = some l) :
          ∀ v : Victim, v ∈ l → v.of s := fun v hv => victimsOn_of (takeVictims_mem hl hv)
      split at h
      · split at h
        next hl =>
          split at h
          · exact hbest k vs h
          · cases h
            exact htaken hl
        next hl _ =>
          cases h
          exact htaken hl
        next => exact hbest k vs h
      · exact hbest k vs h
  exact hall k vs h

/-! ## A pre-emption takes place (R152) -/

theorem Preempts.of (h : Preempts s inst node idx core vs) : ∀ v : Victim, v ∈ vs → v.of s := by
  obtain ⟨_, _, _, _, _, _, _, _, _, _, _, hcore⟩ := h.need
  exact preemptCore_of hcore

theorem Preempts.exec (h : Preempts s inst node idx core vs) :
    exec (.preemption inst node idx core) s = .next (vs.foldl (stopVictim core) (holdRoom s core vs)) := by
  obtain ⟨x, g, n, c, hx, hg, hneed, hpart, hno, hfew, hlate, hcore⟩ := h.need
  have hnow : (x.rank != 16 && decide ((now35 s - waitsSince s inst node idx x).toNat < 256)) = false := by
    obtain hrank | hlate := hlate
    · simp [hrank]
    · rw [decide_eq_false (Nat.not_lt.mpr hlate), Bool.and_false]
  refine (onLive_runs h.runs _).trans (congrArg Host.Outcome.next ?_)
  unfold preemptOp
  simp only [hx, hg, hneed, hpart, hno, hnow, hcore, decide_eq_false (Nat.not_le.mpr hfew), Bool.not_true, Bool.or_self,
    Bool.false_eq_true, if_false, if_true]

/-- Before 256 TCLK a pre-emption of a rank other than 16 does nothing. -/
theorem preemption_early {x : Inst} (hx : tfind s.insts inst = some x) (hrank : x.rank ≠ 16)
    (hearly : (now35 s - waitsSince s inst node idx x).toNat < 256) : exec (.preemption inst node idx core) s = .next s := by
  have hlate : (x.rank != 16 && decide ((now35 s - waitsSince s inst node idx x).toNat < 256)) = true := by
    rw [decide_eq_true hearly, Bool.and_true]
    exact bne_iff_ne.mpr hrank
  have hop : preemptOp s inst node idx core = s := by
    unfold preemptOp
    rw [hx]
    dsimp only
    split
    · rfl
    · split
      · rfl
      · rw [hlate, Bool.or_true, if_pos rfl]
  show onLive s (preemptOp s inst node idx core) = _
  rw [hop, onLive_same]

/-! ## The room of victims that stop at once is held (R155) -/

/-- Of the state only the room held on cores differs. -/
theorem holdRoom_frame (s : State) (core : Nat) (vs : List Victim) :
    holdRoom s core vs = { s with cores := (holdRoom s core vs).cores } := by
  unfold holdRoom
  dsimp only
  split <;> rfl

/-- With no direct victim no room is held. -/
theorem holdRoom_single {v : Victim} (h : v.kind ≠ 2) : holdRoom s core [v] = s := by
  unfold holdRoom
  have hslow : [v].filter (·.kind == 2) = [] := List.filter_cons_of_neg (by simpa using h)
  rw [hslow]
  rfl

theorem holdRoom_held {e : Nat × Wg} (hv : v ∈ vs) (hkind : v.kind ≠ 2) (he : e ∈ v.wgs) (hcore : e.2.core = core)
    (hslow : vs.any (fun u => u.kind == 2 && !u.wgs.isEmpty) = true) :
    (e.2, (vs.filter (·.kind == 2)).flatMap (fun u => u.wgs.map (·.1))) ∈ (coreOf (holdRoom s core vs) core).held := by
  have hne : ((vs.filter (·.kind == 2)).flatMap (fun u => u.wgs.map (·.1))).isEmpty = false := by
    obtain ⟨u, hu, hkind⟩ := List.any_eq_true.mp hslow
    obtain ⟨hkind, hwgs⟩ := Bool.and_eq_true_iff.mp hkind
    cases hl : u.wgs with
    | nil => simp [hl] at hwgs
    | cons a r =>
      have hmem : a.1 ∈ (vs.filter (·.kind == 2)).flatMap (fun u => u.wgs.map (·.1)) :=
        List.mem_flatMap.mpr ⟨u, List.mem_filter.mpr ⟨hu, hkind⟩, by rw [hl]; exact List.mem_cons_self ..⟩
      exact List.isEmpty_eq_false_iff.mpr (List.ne_nil_of_mem hmem)
  have hfast : e.2 ∈ (vs.filter (·.kind != 2)).flatMap (fun v => (v.wgs.map (·.2)).filter (·.core == core)) :=
    List.mem_flatMap.mpr ⟨v, List.mem_filter.mpr ⟨hv, bne_iff_ne.mpr hkind⟩,
      List.mem_filter.mpr ⟨List.mem_map_of_mem he, beq_iff_eq.mpr hcore⟩⟩
  unfold holdRoom
  dsimp only
  rw [hne, if_neg (by decide), coreOf_modCore_same]
  exact List.mem_append_left _ (List.mem_map_of_mem hfast)

/-! ## Workgroups are killed, to run again (R157) -/

/-- A victim's workgroups. -/
def named (l : List (Nat × Wg)) (k : Nat) (_ : Wg) : Bool := (l.map (·.1)).contains k

/-- With none of them writing, killing workgroups of the table leaves memory, removes them, and leaves no group of theirs. -/
theorem killWgs_named {l : List (Nat × Wg)} (hwriting : ∀ e ∈ s.wgs, e.1 ∈ l.map (·.1) → e.2.writing = false) :
    (killWgs s (named l)).mem = s.mem ∧
    ∀ id, tfind (killWgs s (named l)).wgs id = if id ∈ l.map (·.1) then none else tfind s.wgs id := by
  refine ⟨?_, fun id => ?_⟩
  · rw [killWgs_mem, commitsLand_none fun e he hp => hwriting e he (List.contains_iff_mem.mp hp)]
  · rw [killWgs_wgs, tfind_filter_key fun k => !(tkeys s.wgs (named l)).contains k]
    by_cases hid : id ∈ l.map (·.1)
    · rw [if_pos hid]
      cases hw : tfind s.wgs id with
      | none => exact ite_self _
      | some w =>
        have hmem : id ∈ tkeys s.wgs (named l) := mem_tkeys.mpr ⟨w, mem_of_tfind hw, List.contains_iff_mem.mpr hid⟩
        rw [if_neg (by simp [hmem])]
    · have hnot : id ∉ tkeys s.wgs (named l) := fun h => by
        obtain ⟨w, -, hw⟩ := mem_tkeys.mp h
        exact hid (List.contains_iff_mem.mp hw)
      rw [if_neg hid, if_pos (by simp [hnot])]

/-- A workgroup that waits to run again from the start. -/
def Wg.reruns (w : Wg) (now : BitVec 48) : Wg :=
  { w with st := .killed, kills := w.kills + 1, staged := 0, commits := 0, exited := 0, hubN := 0, since := now }

/-- One of them: a member that had ended counts no longer in its node. -/
def rerunOne (s : State) (e : Nat × Wg) : State :=
  let s := if e.2.st = .ended then modNode s e.2.inst e.2.node (fun r => { r with ended := r.ended - 1 }) else s
  { s with wgs := tput s.wgs e.1 (e.2.reruns (now35 s)) }

theorem rerunOne_eq (s : State) (e : Nat × Wg) :
    ∃ is, rerunOne s e = { s with insts := is, wgs := tput s.wgs e.1 (e.2.reruns (now35 s)) } := by
  unfold rerunOne
  dsimp only
  split <;> exact ⟨_, rfl⟩

theorem rerunAll_eq (l : List (Nat × Wg)) (s : State) :
    ∃ is, l.foldl rerunOne s = { s with insts := is, wgs := tputs (·.1) (fun e => e.2.reruns (now35 s)) l s.wgs } := by
  induction l generalizing s with
  | nil => exact ⟨s.insts, rfl⟩
  | cons e l ih =>
    obtain ⟨is, hone⟩ := rerunOne_eq s e
    obtain ⟨is', hall⟩ := ih (rerunOne s e)
    refine ⟨is', ?_⟩
    rw [List.foldl_cons, hall, hone]
    rfl

theorem killToRerun_eq (s : State) (l : List (Nat × Wg)) :
    ∃ is, killToRerun s l = { killWgs s (named l) with
      insts := is, wgs := tputs (·.1) (fun e => e.2.reruns (now35 s)) l (killWgs s (named l)).wgs } := by
  obtain ⟨is, his⟩ := rerunAll_eq l (killWgs s (named l))
  refine ⟨is, his.trans ?_⟩
  rw [show now35 (killWgs s (named l)) = now35 s by rw [killWgs_frame]; rfl]

/-! ## Stopping a victim keeps the room held (R155) -/

/-- No core holds other room than before. -/
def HeldKept (s t : State) : Prop := ∀ c, (coreOf t c).held = (coreOf s c).held

theorem killWgs_held (s : State) (p : Nat → Wg → Bool) : HeldKept s (killWgs s p) := fun c => by rw [killWgs_core]

theorem killToRerun_held (s : State) (l : List (Nat × Wg)) : HeldKept s (killToRerun s l) := by
  obtain ⟨is, heq⟩ := killToRerun_eq s l
  rw [heq]
  exact killWgs_held s _

theorem stopVictim_held (core : Nat) (s : State) (v : Victim) : HeldKept s (stopVictim core s v) := by
  unfold stopVictim
  split
  · exact killWgs_held _ _
  · split
    · exact killWgs_held _ _
    · split
      · exact killToRerun_held _ _
      · refine foldl_rel (R := HeldKept) (fun _ _ => rfl) (fun h h' c => (h' c).trans (h c)) (fun s e c => ?_) _ s
        rfl

/-! ## Direct work stops (Table 8-2) -/

/-- A workgroup that stops. -/
def Wg.stops (w : Wg) : Wg := { w with st := .stopping }

/-- Workgroups stop. -/
def stopWgs (s : State) (l : List (Nat × Wg)) : State := l.foldl (fun s e => modWg s e.1 Wg.stops) s

theorem stopWgs_frame (s : State) (l : List (Nat × Wg)) : stopWgs s l = { s with wgs := (stopWgs s l).wgs } :=
  foldl_rel (R := fun s t => t = { s with wgs := t.wgs }) (fun _ => rfl) (fun h h' => by rw [h', h]) (fun _ _ => rfl) l s

theorem stopWgs_find (l : List (Nat × Wg)) (s : State) (id : Nat) :
    tfind (stopWgs s l).wgs id = if id ∈ l.map (·.1) then (tfind s.wgs id).map Wg.stops else tfind s.wgs id := by
  induction l generalizing s with
  | nil => rfl
  | cons e l ih =>
    show tfind (stopWgs (modWg s e.1 Wg.stops) l).wgs id = _
    rw [ih, show (modWg s e.1 Wg.stops).wgs = tupd s.wgs e.1 Wg.stops from rfl, tfind_tupd]
    by_cases he : id = e.1
    · rw [if_pos he, if_pos (List.mem_map.mpr ⟨e, List.mem_cons_self .., he.symm⟩)]
      split
      · cases tfind s.wgs id <;> rfl
      · rfl
    · rw [if_neg he]
      simp only [List.map_cons, List.mem_cons, he, false_or]

theorem stopVictims_direct (hdirect : ∀ v ∈ vs, v.tile = none ∧ v.kind = 2) (s : State) :
    vs.foldl (stopVictim core) s = stopWgs s (vs.flatMap (·.wgs)) := by
  induction vs generalizing s with
  | nil => rfl
  | cons v vs ih =>
    obtain ⟨htile, hkind⟩ := hdirect v (List.mem_cons_self ..)
    have hstop : stopVictim core s v = stopWgs s v.wgs := by
      unfold stopVictim
      rw [htile]
      dsimp only
      rw [hkind, if_neg (by decide), if_neg (by decide)]
      rfl
    rw [List.foldl_cons, hstop, ih fun v hv => hdirect v (List.mem_cons_of_mem _ hv), List.flatMap_cons]
    unfold stopWgs
    rw [List.foldl_append]

theorem mem_victimIds {id : Nat} : id ∈ (vs.flatMap (·.wgs)).map (·.1) ↔ ∃ v ∈ vs, id ∈ v.wgs.map (·.1) := by
  simp only [List.mem_map, List.mem_flatMap]
  exact ⟨fun ⟨e, ⟨v, hv, he⟩, hid⟩ => ⟨v, hv, e, he, hid⟩, fun ⟨v, hv, e, he, hid⟩ => ⟨e, ⟨v, hv, he⟩, hid⟩⟩

theorem preemption_direct (h : Preempts s inst node idx core vs) (hdirect : ∀ v ∈ vs, v.tile = none ∧ v.kind = 2) :
    ∃ t, exec (.preemption inst node idx core) s = .next t ∧ t = { s with wgs := t.wgs, cores := t.cores } ∧
      (∀ v ∈ vs, ∀ id w, id ∈ v.wgs.map (·.1) → tfind s.wgs id = some w →
        tfind t.wgs id = some { w with st := .stopping }) ∧
      ∀ id, (∀ v ∈ vs, id ∉ v.wgs.map (·.1)) → tfind t.wgs id = tfind s.wgs id := by
  have hexec := h.exec
  rw [stopVictims_direct hdirect] at hexec
  have hwgs : (holdRoom s core vs).wgs = s.wgs := by rw [holdRoom_frame]
  refine ⟨_, hexec, ?_, fun v hv id w hid hw => ?_, fun id hid => ?_⟩
  · rw [stopWgs_frame, holdRoom_frame]
  · rw [stopWgs_find, if_pos (mem_victimIds.mpr ⟨v, hv, hid⟩), hwgs, hw]
    rfl
  · rw [stopWgs_find, if_neg fun hmem => (mem_victimIds.mp hmem).elim fun v hv => hid v hv.1 hv.2, hwgs]

/-! ## Commit-form work is killed (R157) -/

theorem preemption_kill (h : Preempts s inst node idx core [v]) (htile : v.tile = none) (hkind : v.kind = 1)
    (hnodup : (v.wgs.map (·.1)).Nodup) (hwriting : ∀ e ∈ s.wgs, e.1 ∈ v.wgs.map (·.1) → e.2.writing = false) :
    ∃ t, exec (.preemption inst node idx core) s = .next t ∧ t.mem = s.mem ∧
      (∀ id w, (id, w) ∈ v.wgs → tfind t.wgs id = some (w.reruns (now35 s))) ∧
      (∀ e ∈ t.groups, e.2.wg ∉ v.wgs.map (·.1)) ∧
      ∀ id, id ∉ v.wgs.map (·.1) → tfind t.wgs id = tfind s.wgs id := by
  have hstop : stopVictim core s v = killToRerun s v.wgs := by
    unfold stopVictim
    rw [htile]
    dsimp only
    rw [hkind, if_neg (by decide), if_pos rfl]
  obtain ⟨is, hrerun⟩ := killToRerun_eq s v.wgs
  obtain ⟨hmem, hwgs⟩ := killWgs_named hwriting
  have hexec := h.exec
  rw [holdRoom_single (by rw [hkind]; decide), List.foldl_cons, List.foldl_nil, hstop, hrerun] at hexec
  refine ⟨_, hexec, hmem, fun id w hw => ?_, fun e he hid => ?_, fun id hid => ?_⟩
  · exact tfind_tputs (·.1) (fun e : Nat × Wg => e.2.reruns (now35 s)) hnodup hw _
  · obtain ⟨w, hw, hwid⟩ := List.mem_map.mp hid
    refine killWgs_groups s (named v.wgs) e he (mem_tkeys.mpr ⟨w.2, ?_, List.contains_iff_mem.mpr hid⟩)
    rw [← hwid]
    exact h.of v (List.mem_singleton.mpr rfl) w hw
  · refine (tfind_tputs_other _ _ hid _).trans ?_
    rw [hwgs, if_neg hid]

/-! ## A tile is dropped (R153) -/

/-- A pass of which a core's tile is dropped. -/
def Pass.dropped (p : Pass) (core tl : Nat) : Pass :=
  { p with
    owners := tdel p.owners core, back := tl :: p.back, queue := tdel p.queue core, shaded := tdel p.shaded tl
    buf := p.buf.filter (fun e => e.1 / 5 != tl) }

theorem dropTile_find {pid tl : Nat} {p : Pass} (hp : tfind s.passes pid = some p) (htl : tfind p.owners core = some tl) :
    tfind (dropTile s pid core).passes pid = some (p.dropped core tl) := by
  unfold dropTile modPass
  dsimp only
  rw [tfind_tupd_same, hp, Option.map_some, htl]
  rfl

theorem preemption_tile {pid tl : Nat} {p : Pass} (h : Preempts s inst node idx core [v]) (htile : v.tile = some pid)
    (hkind : v.kind = 0) (hp : tfind s.passes pid = some p) (htl : tfind p.owners core = some tl)
    (hwriting : ∀ e ∈ s.wgs, e.1 ∈ v.wgs.map (·.1) → e.2.writing = false) :
    ∃ t, exec (.preemption inst node idx core) s = .next t ∧ t.mem = s.mem ∧
      (∀ id, tfind t.wgs id = if id ∈ v.wgs.map (·.1) then none else tfind s.wgs id) ∧
      (∀ k, k ≠ pid → tfind t.passes k = tfind s.passes k) ∧ tfind t.passes pid = some (p.dropped core tl) := by
  have hstop : stopVictim core s v = dropTile (killWgs s (named v.wgs)) pid core := by
    unfold stopVictim
    rw [htile]
    rfl
  obtain ⟨hmem, hwgs⟩ := killWgs_named hwriting
  have hpasses : (killWgs s (named v.wgs)).passes = s.passes := by rw [killWgs_frame]
  have hexec := h.exec
  rw [holdRoom_single (by rw [hkind]; decide), List.foldl_cons, List.foldl_nil, hstop] at hexec
  refine ⟨_, hexec, hmem, hwgs, fun k hk => ?_, dropTile_find (hpasses ▸ hp) htl⟩
  unfold dropTile modPass
  dsimp only
  rw [tfind_tupd_other _ _ _ _ hk, hpasses]

end Sys2Proof.Machine
end

section
/-! # State save (R153, R265, Table 8-2) -/

namespace Sys2Proof.Machine

set_option Elab.async false

variable {s t u : State} {id : Nat} {w : Wg}

/-! ## What a save leaves in the cores -/

/-- From `s` to `t` no counter of a core changes. -/
def CtrsKept (s t : State) : Prop := ∀ c, (coreOf t c).ctrs = (coreOf s c).ctrs

/-- From `s` to `t` no local store changes. -/
def StoresKept (s t : State) : Prop := ∀ c, (coreOf t c).ls = (coreOf s c).ls

theorem CtrsKept.modCore {f : Core → Core} (hf : ∀ c, (f c).ctrs = c.ctrs) (core : Nat) : CtrsKept s (modCore s core f) := by
  intro c
  by_cases hc : c = core
  · rw [hc, coreOf_modCore_same, hf]
  · rw [coreOf_modCore_other _ _ _ _ hc]

theorem StoresKept.modCore {f : Core → Core} (hf : ∀ c, (f c).ls = c.ls) (core : Nat) : StoresKept s (modCore s core f) := by
  intro c
  by_cases hc : c = core
  · rw [hc, coreOf_modCore_same, hf]
  · rw [coreOf_modCore_other _ _ _ _ hc]

/-! ## Traces of a workgroup that is saved (R333) -/

/-- From `s` to `t` local stores take what the Eddy unit keeps there. -/
structure Spills (s t : State) : Prop where
  frame : t = { s with cores := t.cores, free := t.free }
  ctrs  : CtrsKept s t

theorem Spills.refl (s : State) : Spills s s := ⟨rfl, fun _ => rfl⟩

theorem Spills.trans (h : Spills s t) (h' : Spills t u) : Spills s u := by
  obtain ⟨hframe, hctrs⟩ := h
  obtain ⟨hframe', hctrs'⟩ := h'
  exact ⟨by rw [hframe', hframe], fun c => (hctrs' c).trans (hctrs c)⟩

theorem stackFill_spills (s : State) (lsBase : Nat) (t : Trace) : Spills s (stackFill s lsBase t) := by
  unfold stackFill
  refine foldl_rel (R := Spills) .refl .trans (fun s l => ⟨rfl, ?_⟩) _ s
  exact CtrsKept.modCore (s := { s with free := s.free + t.areaLen }) (by intro; rfl) _

/-- Traces of a workgroup, which leave what they keep in its local store. -/
def tracesOf (s : State) (id : Nat) : Tab Trace := s.fly.traces.filter (·.2.wg == id)

/-- The state once they have. -/
def spilled (s : State) (id lsBase : Nat) : State :=
  (tracesOf s id).foldl (fun s (e : Nat × Trace) => stackFill s lsBase e.2) s

theorem spilled_spills (s : State) (id lsBase : Nat) : Spills s (spilled s id lsBase) := by
  unfold spilled
  exact foldl_rel (R := Spills) .refl .trans (fun s (e : Nat × Trace) => stackFill_spills s lsBase e.2) _ s

/-- A workgroup without traces leaves nothing. -/
theorem spilled_none (h : tracesOf s id = []) (lsBase : Nat) : spilled s id lsBase = s := by
  unfold spilled
  rw [h]
  rfl

theorem traceSave_eq (s : State) (id lsBase : Nat) :
    ∃ b, traceSave s id lsBase = { spilled s id lsBase with fly := { s.fly with buckets := b } } := by
  have hfly : (spilled s id lsBase).fly = s.fly := by rw [(spilled_spills s id lsBase).frame]
  unfold traceSave
  dsimp only
  rw [show (s.fly.traces.filter (·.2.wg == id)).foldl (fun s (e : Nat × Trace) => stackFill s lsBase e.2) s =
    spilled s id lsBase from rfl, hfly]
  exact ⟨_, rfl⟩

/-- From `s` to `t` traces stand under other keys, of the same workgroups. -/
structure TracesMoved (s t : State) : Prop where
  frame : t = { s with fly := { s.fly with traces := t.fly.traces } }
  wgs   : t.fly.traces.map (·.2.wg) = s.fly.traces.map (·.2.wg)

theorem TracesMoved.refl (s : State) : TracesMoved s s := ⟨rfl, rfl⟩

theorem TracesMoved.trans (h : TracesMoved s t) (h' : TracesMoved t u) : TracesMoved s u := by
  obtain ⟨hframe, hwgs⟩ := h
  obtain ⟨hframe', hwgs'⟩ := h'
  exact ⟨by rw [hframe', hframe], hwgs'.trans hwgs⟩

theorem traceMove_moves (s : State) (old new core : Nat) : TracesMoved s (traceMove s old new core) := by
  refine ⟨rfl, ?_⟩
  unfold traceMove
  dsimp only
  rw [List.map_map]
  refine List.map_congr_left fun e _ => ?_
  dsimp only [Function.comp]
  split <;> rfl

/-! ## One workgroup (R153, R265) -/

/-- Groups of a workgroup. -/
def groupKeys (s : State) (id : Nat) : List Nat := tkeys s.groups (fun _ g => g.wg == id)

/-- A workgroup's groups under the keys at which they are kept. -/
def savedGroups (s : State) (id core : Nat) : Tab Group :=
  (groupKeys s id).foldl (fun t k =>
    match tfind s.groups k with
    | none => t
    | some g => tput (tdel t k) (savedKey id g.gidx) (g.ages (coreNow s core))) s.groups

/-- The watches of a workgroup as they are kept. -/
def savedWatchesOf (s : State) (id : Nat) : List Watch :=
  (s.fly.watches.filter (·.wg == id)).map fun x => { x with sp := { x.sp with
    place := ((tfind s.groups (groupKey x.sp.core x.sp.cpart x.sp.place)).map (·.gidx)).getD 0 } }

/-- The entry of a workgroup that is saved. -/
def savedWg (s : State) (id : Nat) (w : Wg) : Wg :=
  { w with
    st := .saved, since := now35 s, savedLs := mreads (coreOf s w.core).ls (w.lsBase * 1024) (w.lsKib * 1024)
    savedCtrs := (List.range w.lullCtrs).map (fun i => tget (coreOf s w.core).ctrs (w.ctrBase + i) 0)
    savedWatches := savedWatchesOf s id }

/-- The cores and traces once a workgroup's groups have left. -/
def groupsLeft (s : State) (id : Nat) (w : Wg) : State :=
  (groupKeys s id).foldl (fun t k =>
    match tfind s.groups k with
    | none => t
    | some g => traceMove t k (savedKey id g.gidx) w.core)
    (modCore s w.core fun c => { c with
      promoted := c.promoted.filter (fun k => !(groupKeys s id).contains (w.core * 64 + k / 4)) })

theorem groupsLeft_moves (s : State) (id : Nat) (w : Wg) :
    ∃ cs, groupsLeft s id w = { s with cores := cs, fly := { s.fly with traces := (groupsLeft s id w).fly.traces } } ∧
      (groupsLeft s id w).fly.traces.map (·.2.wg) = s.fly.traces.map (·.2.wg) := by
  obtain ⟨v, hv⟩ : ∃ v, v = modCore s w.core fun c => { c with
      promoted := c.promoted.filter (fun k => !(groupKeys s id).contains (w.core * 64 + k / 4)) } := ⟨_, rfl⟩
  have hmoves : TracesMoved v (groupsLeft s id w) := by
    unfold groupsLeft
    rw [← hv]
    refine foldl_rel (R := TracesMoved) .refl .trans (fun t k => ?_) _ v
    split
    · exact .refl t
    · exact traceMove_moves ..
  refine ⟨v.cores, ?_, hmoves.wgs.trans (hv ▸ rfl)⟩
  rw [hmoves.frame, hv]
  rfl

theorem groupsLeft_cores (s : State) (id : Nat) (w : Wg) :
    CtrsKept s (groupsLeft s id w) ∧ StoresKept s (groupsLeft s id w) := by
  have hcores : (groupsLeft s id w).cores = (modCore s w.core fun c => { c with
      promoted := c.promoted.filter (fun k => !(groupKeys s id).contains (w.core * 64 + k / 4)) }).cores := by
    unfold groupsLeft
    refine foldl_rel (R := fun s t => t.cores = s.cores) (fun _ => rfl) (fun h h' => h'.trans h) (fun t k => ?_) _ _
    split <;> rfl
  have hcore (c : Nat) : coreOf (groupsLeft s id w) c = coreOf (modCore s w.core fun c => { c with
      promoted := c.promoted.filter (fun k => !(groupKeys s id).contains (w.core * 64 + k / 4)) }) c :=
    congrArg (fun t : Tab Core => tget t c ({ ls := [] } : Core)) hcores
  exact ⟨fun c => (congrArg Core.ctrs (hcore c)).trans (CtrsKept.modCore (by intro; rfl) _ c),
    fun c => (congrArg Core.ls (hcore c)).trans (StoresKept.modCore (by intro; rfl) _ c)⟩

/-- A save in steps: traces leave what they keep, groups leave their keys, and entry, groups and watches are kept. -/
theorem saveOne_eq (s : State) (id : Nat) (w : Wg) :
    ∃ v, v = traceSave s id w.lsBase ∧ saveOne s id w = { groupsLeft v id w with
      wgs := tput v.wgs id (savedWg v id w)
      groups := if (savedWatchesOf v id).isEmpty then savedGroups v id w.core
        else (savedGroups v id w.core).map (fun e => (e.1, e.2.placesFree))
      fly := { (groupsLeft v id w).fly with watches := v.fly.watches.filter (·.wg != id) } } := by
  refine ⟨_, rfl, ?_⟩
  generalize hv : traceSave s id w.lsBase = v
  obtain ⟨cs, hleft, -⟩ := groupsLeft_moves v id w
  have hwgs : (groupsLeft v id w).wgs = v.wgs := by rw [hleft]
  have hwatches : (groupsLeft v id w).fly.watches = v.fly.watches := by rw [hleft]
  rw [← hwgs, ← hwatches]
  unfold saveOne
  rw [hv]
  rfl

/-- What a save of one workgroup does, but for its groups. -/
structure Saved (s t : State) (id : Nat) (w : Wg) : Prop where
  wgs     : ∃ v, t.wgs = tput s.wgs id v ∧ v.st = .saved ∧
    v.savedCtrs = (List.range w.lullCtrs).map (fun i => tget (coreOf s w.core).ctrs (w.ctrBase + i) 0) ∧
    (tracesOf s id = [] → v.savedLs = mreads (coreOf s w.core).ls (w.lsBase * 1024) (w.lsKib * 1024)) ∧
    v.savedWatches.length = (s.fly.watches.filter (·.wg == id)).length
  ctrs    : CtrsKept s t
  stores  : tracesOf s id = [] → StoresKept s t
  watches : t.fly.watches = s.fly.watches.filter (·.wg != id)
  traces  : t.fly.traces.map (·.2.wg) = s.fly.traces.map (·.2.wg)

theorem saveOne_saves (s : State) (id : Nat) (w : Wg) : Saved s (saveOne s id w) id w := by
  obtain ⟨v, hv, hsave⟩ := saveOne_eq s id w
  obtain ⟨b, htrace⟩ := traceSave_eq s id w.lsBase
  obtain ⟨hspill, hspillCtrs⟩ := spilled_spills s id w.lsBase
  obtain ⟨hctrs, hstores⟩ := groupsLeft_cores v id w
  obtain ⟨cs, -, htraces⟩ := groupsLeft_moves v id w
  rw [← hv] at htrace
  have hcore (c : Nat) : coreOf v c = coreOf (spilled s id w.lsBase) c := by rw [htrace]; rfl
  have hstoreV (hno : tracesOf s id = []) (c : Nat) : (coreOf v c).ls = (coreOf s c).ls := by rw [hcore, spilled_none hno]
  have hctrsV (c : Nat) : (coreOf v c).ctrs = (coreOf s c).ctrs := by rw [hcore, hspillCtrs]
  have hwatches : v.fly.watches = s.fly.watches := by rw [htrace]
  have hwgs : v.wgs = s.wgs := by rw [htrace, hspill]
  rw [hsave]
  refine ⟨⟨savedWg v id w, by rw [hwgs], rfl, ?_, fun hno => ?_, ?_⟩, fun c => (hctrs c).trans (hctrsV c),
    fun hno c => (hstores c).trans (hstoreV hno c), by rw [hwatches], htraces.trans (by rw [htrace])⟩
  · unfold savedWg
    dsimp only
    rw [hctrsV]
  · unfold savedWg
    dsimp only
    rw [hstoreV hno]
  · unfold savedWg savedWatchesOf
    dsimp only
    rw [List.length_map, hwatches]

/-! ## A cluster -/

/-- Save the workgroups of a cluster. -/
def saveAll (s : State) (l : List (Nat × Wg)) : State := l.foldl (fun s e => saveOne s e.1 e.2) s

theorem tracesOf_nil : tracesOf s id = [] ↔ id ∉ s.fly.traces.map (·.2.wg) := by
  unfold tracesOf
  rw [List.filter_eq_nil_iff, List.mem_map]
  simp

/-- What the save of a cluster does, but for its groups. -/
structure SavedAll (s t : State) (l : List (Nat × Wg)) : Prop where
  others  : ∀ j, j ∉ l.map (·.1) → tfind t.wgs j = tfind s.wgs j
  watches : t.fly.watches ⊆ s.fly.watches
  each    : ∀ j w, (j, w) ∈ l → ∃ v, tfind t.wgs j = some v ∧ v.st = .saved ∧
    v.savedCtrs = (List.range w.lullCtrs).map (fun i => tget (coreOf s w.core).ctrs (w.ctrBase + i) 0) ∧
    ((∀ e ∈ l, tracesOf s e.1 = []) → v.savedLs = mreads (coreOf s w.core).ls (w.lsBase * 1024) (w.lsKib * 1024)) ∧
    v.savedWatches.length = (s.fly.watches.filter (·.wg == j)).length ∧ ∀ x ∈ t.fly.watches, x.wg ≠ j

theorem saveAll_saves {l : List (Nat × Wg)} (hn : (l.map (·.1)).Nodup) (s : State) : SavedAll s (saveAll s l) l := by
  induction l generalizing s with
  | nil => exact ⟨fun _ _ => rfl, fun _ h => h, fun _ _ h => absurd h List.not_mem_nil⟩
  | cons e l ih =>
    rw [List.map_cons, List.nodup_cons] at hn
    obtain ⟨he, hn⟩ := hn
    have hone := saveOne_saves s e.1 e.2
    obtain ⟨⟨v, hwgs, hst, hsctrs, hsls, hswatches⟩, hctrs, hstores, hwatches, htraces⟩ := hone
    rw [show saveAll s (e :: l) = saveAll (saveOne s e.1 e.2) l from rfl]
    generalize saveOne s e.1 e.2 = u at hwgs hctrs hstores hwatches htraces
    obtain ⟨hothers, hsub, heach⟩ := ih hn u
    have hkept : u.fly.watches ⊆ s.fly.watches := hwatches ▸ fun x hx => (List.mem_filter.mp hx).1
    refine ⟨fun j hj => ?_, fun x hx => hkept (hsub hx), fun j w hj => ?_⟩
    · rw [List.map_cons, List.mem_cons, not_or] at hj
      rw [hothers j hj.2, hwgs, tfind_tput_other _ _ _ _ hj.1]
    · obtain rfl | hj := List.mem_cons.mp hj
      · refine ⟨v, ?_, hst, hsctrs, fun hno => hsls (hno _ (List.mem_cons_self ..)), hswatches, fun x hx => ?_⟩
        · rw [hothers _ he, hwgs]
          exact tfind_tput_same ..
        · have hmem := hsub hx
          rw [hwatches] at hmem
          exact bne_iff_ne.mp (List.mem_filter.mp hmem).2
      · obtain ⟨v', hfind, hst', hsctrs', hsls', hswatches', hgone⟩ := heach j w hj
        have hne : j ≠ e.1 := fun h => he (h ▸ List.mem_map_of_mem (f := (·.1)) hj)
        refine ⟨v', hfind, hst', ?_, fun hno => ?_, ?_, hgone⟩
        · rw [hsctrs', hctrs]
        · rw [hsls' fun a ha => ?_, hstores (hno e (List.mem_cons_self ..))]
          rw [tracesOf_nil, htraces, ← tracesOf_nil]
          exact hno a (List.mem_cons_of_mem _ ha)
        · rw [hswatches', hwatches, List.filter_filter]
          refine congrArg List.length (List.filter_congr fun x _ => ?_)
          by_cases hx : x.wg = j
          · simp [hx, hne]
          · simp [hx]

/-- A drained cluster is saved. -/
theorem saveOp_eq {l : List (Nat × Wg)} (hw : tfind s.wgs id = some w) (hl : l = (clusterOf s w).filter (·.2.st != .ended))
    (hdrained : l.all (fun e => e.2.st == .stopping && !wgBusy s e.1) = true) : saveOp s id = saveAll s l := by
  unfold saveOp
  rw [hw]
  dsimp only
  rw [← hl, if_pos hdrained]
  rfl

/-! ## The groups that are kept -/

theorem ages_sameRegs (g : Group) (now : BitVec 48) : (g.ages now).sameRegs g := ⟨rfl, rfl, rfl, rfl, rfl⟩

theorem placesFree_sameRegs (g : Group) : g.placesFree.sameRegs g := ⟨rfl, rfl, rfl, rfl, rfl⟩

/-- The only group of a workgroup moves to the key at which it is kept, with its registers. -/
theorem saveOne_group {k : Nat} {g : Group} (hgroups : s.groups.filter (·.2.wg == id) = [(k, g)])
    (hg : tfind s.groups k = some g) (hk : k < 100000) :
    tfind (saveOne s id w).groups k = none ∧
      ∃ g', tfind (saveOne s id w).groups (savedKey id g.gidx) = some g' ∧ g'.sameRegs g := by
  obtain ⟨v, hv, hsave⟩ := saveOne_eq s id w
  obtain ⟨b, htrace⟩ := traceSave_eq s id w.lsBase
  have hsame : v.groups = s.groups := by rw [hv, htrace, (spilled_spills s id w.lsBase).frame]
  have hkeys : groupKeys v id = [k] := by
    unfold groupKeys tkeys
    rw [hsame, hgroups]
    rfl
  have hsaved : savedGroups v id w.core =
      tput (tdel s.groups k) (savedKey id g.gidx) (g.ages (coreNow v w.core)) := by
    unfold savedGroups
    rw [hkeys, List.foldl_cons, List.foldl_nil, hsame, hg]
  have hne : k ≠ savedKey id g.gidx := by
    unfold savedKey
    omega
  rw [hsave]
  dsimp only
  rw [hsaved]
  split
  · refine ⟨?_, _, tfind_tput_same .., ages_sameRegs _ _⟩
    rw [tfind_tput_other _ _ _ _ hne, tfind_tdel_same]
  · refine ⟨?_, _, ?_, Group.sameRegs_trans (placesFree_sameRegs _) (ages_sameRegs g (coreNow v w.core))⟩
    · rw [tfind_map (fun _ => Group.placesFree), tfind_tput_other _ _ _ _ hne, tfind_tdel_same]
      rfl
    · rw [tfind_map (fun _ => Group.placesFree), tfind_tput_same]
      rfl

end Sys2Proof.Machine
end

section
/-! # Restore (R153, R265) -/

namespace Sys2Proof.Machine

set_option Elab.async false

variable {s t u : State} {id core lb cb : Nat} {w : Wg} {g g' : Group}

/-! ## Groups keep their workgroup and their registers -/

theorem joinSet_wg {now : BitVec 48} {p sid : Nat} (h : joinSet g now p = some (g', sid)) : g'.wg = g.wg := by
  unfold joinSet at h
  split at h
  · dsimp only at h
    split at h
    · cases h
      rfl
    · cases h
  · split at h
    · cases h
      rfl
    · cases h
  · cases h

theorem arrive_wg (now : BitVec 48) (f sid : Nat) : (arrive now f g sid).wg = g.wg := by
  induction f generalizing g sid with
  | zero => rfl
  | succ f ih =>
    unfold arrive
    split
    · rfl
    next x _ =>
      split
      · rfl
      · split
        · rfl
        · split
          · split
            · split <;> rfl
            · split
              · dsimp only
                split
                next hj => exact (ih _).trans (joinSet_wg (g := g.putSplit sid _) hj)
                · rfl
              · rfl
          · split
            · exact ih _
            · exact ih _

theorem settleSets_wg (now : BitVec 48) (f : Nat) : (settleSets now f g).wg = g.wg := by
  induction f generalizing g with
  | zero => rfl
  | succ f ih =>
    unfold settleSets
    split
    next hj =>
      obtain ⟨p, -, hp⟩ := List.exists_of_findSome?_eq_some hj
      split at hp
      · exact ih.trans ((arrive_wg _ _ _).trans (joinSet_wg hp))
      · cases hp
    · rfl

theorem retrySpin_wg (now : BitVec 48) : (retrySpin now g g').wg = g'.wg := by
  unfold retrySpin
  split <;> rfl

/-- Every group of `s` is in `t` under its key, of the same workgroup and with the same registers. -/
def GroupsStay (s t : State) : Prop :=
  ∀ k g, tfind s.groups k = some g → ∃ g', tfind t.groups k = some g' ∧ g'.sameRegs g ∧ g'.wg = g.wg

theorem GroupsStay.of_groups (h : t.groups = s.groups) : GroupsStay s t :=
  fun _ g hg => ⟨g, by rw [h, hg], Group.sameRegs_rfl, rfl⟩

theorem GroupsStay.trans (h : GroupsStay s t) (h' : GroupsStay t u) : GroupsStay s u := fun k g hg => by
  obtain ⟨g', hg', hr, hw⟩ := h k g hg
  obtain ⟨g'', hg'', hr', hw'⟩ := h' k g' hg'
  exact ⟨g'', hg'', Group.sameRegs_trans hr' hr, hw'.trans hw⟩

theorem modGroup_stays {f : Group → Group} (hf : ∀ g, (f g).sameRegs g ∧ (f g).wg = g.wg) (s : State) (key : Nat) :
    GroupsStay s (modGroup s key f) := fun k g hg => by
  by_cases hk : k = key
  · subst hk
    exact ⟨f g, modGroup_find f hg, hf g⟩
  · exact ⟨g, (modGroup_other f hk).trans hg, Group.sameRegs_rfl, rfl⟩

theorem settleGroup_stays {f : Group → Group} (hf : ∀ g, (f g).sameRegs g ∧ (f g).wg = g.wg) (s : State) (key : Nat) :
    GroupsStay s (settleGroup s key f) := by
  refine modGroup_stays (fun g => ⟨?_, ?_⟩) s key
  · exact Group.sameRegs_trans (retrySpin_sameRegs _) (Group.sameRegs_trans (settleSets_sameRegs _ _) (hf g).1)
  · exact (retrySpin_wg _).trans ((settleSets_wg _ _).trans (hf g).2)

theorem unstallAll_stays (s : State) (q : Why → Bool) : GroupsStay s (unstallAll s q) := by
  unfold unstallAll
  refine foldl_rel (R := GroupsStay) (fun _ => .of_groups rfl) .trans (fun s k => ?_) _ s
  refine modGroup_stays (fun g => ?_) s k
  exact ⟨⟨rfl, rfl, rfl, rfl, rfl⟩, rfl⟩

theorem arriveAll_stays (now : BitVec 48) (l : List Nat) (g : Group) :
    (l.foldl (fun g sid => arrive now 40 g sid) g).sameRegs g ∧
      (l.foldl (fun g sid => arrive now 40 g sid) g).wg = g.wg := by
  induction l generalizing g with
  | nil => exact ⟨Group.sameRegs_rfl, rfl⟩
  | cons sid l ih =>
    obtain ⟨hr, hw⟩ := ih (arrive now 40 g sid)
    exact ⟨Group.sameRegs_trans hr (arrive_sameRegs _ _ _), hw.trans (arrive_wg _ _ _)⟩

/-! ## Restored splits settle, and watches are registered again (R265) -/

theorem resettle_frame (s : State) (id : Nat) : resettle s id = { s with groups := (resettle s id).groups } := by
  unfold resettle
  exact foldl_rel (R := fun s t => t = { s with groups := t.groups }) (fun _ => rfl) (fun h h' => by rw [h', h])
    (fun s k => settleGroup_frame s k _) _ s

theorem resettle_stays (s : State) (id : Nat) : GroupsStay s (resettle s id) := by
  unfold resettle
  refine foldl_rel (R := GroupsStay) (fun _ => .of_groups rfl) .trans (fun s k => ?_) _ s
  exact settleGroup_stays (fun g => arriveAll_stays _ _ g) s k

/-- From `s` to `t` watches are registered and evaluated. -/
structure Rewatches (s t : State) : Prop where
  frame  : CtrsOnly s t
  stores : StoresKept s t
  groups : GroupsStay s t

theorem Rewatches.refl (s : State) : Rewatches s s := ⟨rfl, fun _ => rfl, .of_groups rfl⟩

theorem Rewatches.trans (h : Rewatches s t) (h' : Rewatches t u) : Rewatches s u := by
  obtain ⟨hframe, hstores, hgroups⟩ := h
  obtain ⟨hframe', hstores', hgroups'⟩ := h'
  exact ⟨hframe.trans hframe', fun c => (hstores' c).trans (hstores c), hgroups.trans hgroups'⟩

theorem ctrSet_stores (s : State) (home : Option Nat) (k : Nat) (c : W32) : StoresKept s (ctrSet s home k c) := by
  cases home with
  | none => exact fun _ => rfl
  | some core => exact StoresKept.modCore (by intro; rfl) core

theorem dropOutside_stores (s : State) (home : Option Nat) (k : Nat) (fired : List Watch) :
    StoresKept s (dropOutside s home k fired) := by
  unfold dropOutside
  split
  · split
    · exact StoresKept.modCore (by intro; rfl) _
    · exact fun _ => rfl
  · exact fun _ => rfl

theorem evalCtr_rewatches (s : State) (home : Option Nat) (k : Nat) : Rewatches s (evalCtr s home k) := by
  rcases h : runCycles ((s.fly.watches.filter (onCtr home k)).length + 1) (s.fly.watches.filter (onCtr home k))
    (ctrGet s home k) with ⟨d, _ | ⟨x, r⟩⟩
  · rw [evalCtr_none h]
    exact .refl s
  · refine ⟨evalCtr_only s home k, ?_, ?_⟩
    · rw [evalCtr_fires h, unstallAll_frame]
      exact fun c => (dropOutside_stores _ home k _ c).trans (ctrSet_stores s home k d c)
    · rw [evalCtr_fires h]
      refine GroupsStay.trans (.of_groups ?_) (unstallAll_stays _ _)
      rw [fireWatches, dropOutside_frame, ctrSet_frame]

theorem setWatches_rewatches (s : State) (ws : List Watch) : Rewatches s { s with fly := { s.fly with watches := ws } } :=
  ⟨rfl, fun _ => rfl, .of_groups rfl⟩

theorem modSplit_rewatches (s : State) (key sid : Nat) (f : Split → Split) : Rewatches s (modSplit s key sid f) := by
  refine ⟨rfl, fun _ => rfl, modGroup_stays (fun g => ?_) s key⟩
  exact ⟨⟨rfl, rfl, rfl, rfl, rfl⟩, rfl⟩

theorem reRegister_rewatches (s : State) (x : Watch) : Rewatches s (reRegister s x) := by
  have heval := (setWatches_rewatches s (s.fly.watches ++ [x])).trans (evalCtr_rewatches _ x.home x.ctr)
  unfold reRegister
  dsimp only
  split
  · exact heval
  · exact (heval.trans (setWatches_rewatches _ _)).trans (modSplit_rewatches ..)

/-! ## A workgroup comes back: first its storage -/

/-- The entry of a workgroup that is restored. -/
def restoredWg (s : State) (w : Wg) (core lb cb : Nat) : Wg :=
  { w with core := core, lsBase := lb, ctrBase := cb, savedLs := [],
           st := if w.groups * 32 ≤ w.exited then .ended else .placed
           savedCtrs := [], savedWatches := [], ord := s.orders }

/-- A core with the local store and the counters of a workgroup written back. -/
def Core.takesBack (c : Core) (w : Wg) (lb cb : Nat) : Core :=
  { c with
    ls := mwrites c.ls (lb * 1024) w.savedLs
    ctrs := tputs (fun e => cb + e.2) (·.1) w.savedCtrs.zipIdx c.ctrs }

/-- The state in which the groups of a restored workgroup are placed. -/
def storageBack (s : State) (id : Nat) (w : Wg) (core lb cb : Nat) : State :=
  modCore (lsClaim (l1Flash { s with wgs := tput s.wgs id (restoredWg s w core lb cb), orders := s.orders + 1 } core)
    core w.ctx lb w.lsKib) core fun c => c.takesBack w lb cb

theorem zipIdx_nodup (l : List W32) (cb : Nat) : ((l.zipIdx).map (fun e => cb + e.2)).Nodup := by
  rw [show (l.zipIdx).map (fun e => cb + e.2) = ((l.zipIdx).map (·.2)).map (cb + ·) by rw [List.map_map]; rfl,
    List.zipIdx_map_snd]
  exact (List.nodup_range' ..).map fun a b h => Nat.add_left_cancel h

theorem storageBack_ctrs {i : Nat} (hi : i < w.savedCtrs.length) :
    tget (coreOf (storageBack s id w core lb cb) core).ctrs (cb + i) 0 = w.savedCtrs.getD i 0 := by
  have hmem : (w.savedCtrs[i], i) ∈ w.savedCtrs.zipIdx := by
    rw [List.mem_zipIdx_iff_getElem?]
    exact List.getElem?_eq_getElem hi
  unfold storageBack
  rw [coreOf_modCore_same]
  unfold tget Core.takesBack
  dsimp only
  rw [tfind_tputs (fun e : W32 × Nat => cb + e.2) (·.1) (zipIdx_nodup _ cb) hmem, List.getD_eq_getElem _ _ hi]
  rfl

theorem storageBack_store (hwf : Memory.wf (coreOf s core).ls = true) {i : Nat} (hi : i < w.savedLs.length) :
    mget (coreOf (storageBack s id w core lb cb) core).ls (lb * 1024 + i) = w.savedLs.getD i 0 := by
  unfold storageBack
  rw [coreOf_modCore_same]
  unfold Core.takesBack
  dsimp only
  rw [mget_mwrites_in ?_ _ _ _ hi, List.getD_eq_getElem _ _ hi]
  unfold lsClaim l1Flash
  rw [coreOf_modCore_same, coreOf_modCore_same]
  exact filter_wf hwf _

/-! ## Then its groups -/

/-- One group comes back. -/
def restoreGroup (s : State) (id : Nat) (w : Wg) (core gi : Nat) : State :=
  match tfind s.groups (savedKey id gi) with
  | none => s
  | some g =>
    let key := groupKey core (gi % 4) (freePlace s core (gi % 4))
    let s := modCore s core (fun c => { c with users := tput c.users (key % 64) w.ctx })
    let g := g.ages (coreNow s core)
    traceMove { s with groups := tput (tdel s.groups (savedKey id gi)) key g } (savedKey id gi) key core

/-- A core on which that group has a place. -/
def restoredUser (s : State) (core gi : Nat) (w : Wg) (c : Core) : Core :=
  { c with users := tput c.users (groupKey core (gi % 4) (freePlace s core (gi % 4)) % 64) w.ctx }

/-- From `s` to `t` groups come back: no storage changes. -/
structure ComesBack (s t : State) : Prop where
  frame  : t = { s with groups := t.groups, cores := t.cores, fly := t.fly }
  ctrs   : CtrsKept s t
  stores : StoresKept s t

theorem ComesBack.refl (s : State) : ComesBack s s := ⟨rfl, fun _ => rfl, fun _ => rfl⟩

theorem ComesBack.trans (h : ComesBack s t) (h' : ComesBack t u) : ComesBack s u := by
  obtain ⟨hframe, hctrs, hstores⟩ := h
  obtain ⟨hframe', hctrs', hstores'⟩ := h'
  exact ⟨by rw [hframe', hframe], fun c => (hctrs' c).trans (hctrs c), fun c => (hstores' c).trans (hstores c)⟩

theorem restoreGroup_back (s : State) (id : Nat) (w : Wg) (core gi : Nat) : ComesBack s (restoreGroup s id w core gi) := by
  unfold restoreGroup
  split
  · exact .refl s
  · have hctrs := CtrsKept.modCore (s := s) (f := restoredUser s core gi w) (by intro; rfl) core
    have hstores := StoresKept.modCore (s := s) (f := restoredUser s core gi w) (by intro; rfl) core
    exact ⟨rfl, hctrs, hstores⟩

theorem restoreGroup_find {gi : Nat} (hg : tfind s.groups (savedKey id gi) = some g) :
    ∃ p g', p < 16 ∧ tfind (restoreGroup s id w core gi).groups (groupKey core (gi % 4) p) = some g' ∧ g'.sameRegs g ∧
      g'.wg = g.wg := by
  have hplace : freePlace s core (gi % 4) < 16 := by
    unfold freePlace
    cases hp : (List.range 16).find? fun p => !thas s.groups (groupKey core (gi % 4) p) with
    | none => exact Nat.lt_succ_self 15
    | some p => exact List.mem_range.mp (List.mem_of_find?_eq_some hp)
  unfold restoreGroup
  rw [hg]
  exact ⟨_, _, hplace, tfind_tput_same .., ages_sameRegs _ _, rfl⟩

theorem restoreOne_eq (hroom : roomOn s core w.need = some (lb, cb)) :
    restoreOne s id w core =
      (List.range w.groups).foldl (fun s gi => restoreGroup s id w core gi) (storageBack s id w core lb cb) := by
  unfold restoreOne
  rw [hroom]
  rfl

theorem restoreOne_back (hroom : roomOn s core w.need = some (lb, cb)) :
    ComesBack (storageBack s id w core lb cb) (restoreOne s id w core) := by
  rw [restoreOne_eq hroom]
  exact foldl_rel (R := ComesBack) .refl .trans (fun s gi => restoreGroup_back s id w core gi) _ _

/-- The only group of a workgroup stands on its core again. -/
theorem restoreOne_group (hroom : roomOn s core w.need = some (lb, cb)) (hone : w.groups = 1)
    (hg : tfind s.groups (savedKey id 0) = some g) :
    ∃ k g', tfind (restoreOne s id w core).groups k = some g' ∧ k / 64 = core ∧ g'.sameRegs g ∧ g'.wg = g.wg := by
  obtain ⟨p, g', hp, hfind, hr, hw⟩ :=
    restoreGroup_find (s := storageBack s id w core lb cb) (w := w) (core := core) (gi := 0) hg
  refine ⟨groupKey core 0 p, g', ?_, by unfold groupKey; omega, hr, hw⟩
  rw [restoreOne_eq hroom, hone]
  exact hfind

/-! ## RESTORE -/

/-- RESTORE of a single workgroup: it comes back, its splits settle, and its watches are registered again. -/
theorem restoreOp_single {x : Inst} {gr : Graph} {base : Nat × Nat} (hw : tfind s.wgs id = some w)
    (hx : tfind s.insts w.inst = some x) (hgr : graphOf s x = some gr) (hst : w.st = .saved)
    (hpart : partRuns s x.part = true) (hnext : isNext s w.inst x gr w.node w.cluster core = true) (hsize : w.csize = 1)
    (hl : (clusterOf s w).filter (·.2.st == .saved) = [(id, w)]) (hin : coreIn s x.part core = true)
    (hroom : roomOn s core w.need = some base) :
    ∃ ws : List Watch, (w.savedWatches = [] → ws = []) ∧
      restoreOp s id core = ws.foldl reRegister (resettle (restoreOne s id w core) id) := by
  have hcores : coresFor s x.part core w.csize w.need = some [core] := by
    unfold coresFor
    rw [hsize, if_pos rfl, hin, hroom]
    rfl
  refine ⟨(restoreAll s [(id, w)] [core]).2, fun hno => ?_, ?_⟩
  · show (List.flatMap (fun e : Nat × Wg => e.2.savedWatches) [(id, w)]).map _ = []
    rw [List.flatMap_singleton, hno, List.map_nil]
  · unfold restoreOp
    simp only [hw, hx, hgr, hst, hpart, hnext, hcores, hl, decide_true, Bool.and_self, if_true]
    rfl

end Sys2Proof.Machine
end

section
/-! # Pre-emption, save and restore together -/

namespace Sys2Proof.Machine

set_option Elab.async false

/-- Settles O28: the victims a pre-emption finds are workgroups of the table, and each stops by its kind; a save and a
restore are taken in steps, each of which says what it leaves. -/
theorem preemptionSaveRestore : Obligations.PreemptionSaveRestore := by
  unfold Obligations.PreemptionSaveRestore
  refine ⟨?_, ?_, ?_, ?_, ?_, ?_, ?_, ?_⟩
  · intro s inst node idx core vs h hdirect
    exact preemption_direct h hdirect
  · intro s inst node idx core v h htile hkind hnodup hwriting
    exact preemption_kill h htile hkind hnodup hwriting
  · intro s inst node idx core pid tl v p h htile hkind hp htl hwriting
    exact preemption_tile h htile hkind hp htl hwriting
  · intro s inst node idx core vs v e h hv hkind he hcore
    refine ⟨_, h.exec, fun hslow => ?_⟩
    have hheld : HeldKept (holdRoom s core vs) (vs.foldl (stopVictim core) (holdRoom s core vs)) :=
      foldl_rel (R := HeldKept) (fun _ _ => rfl) (fun h h' c => (h' c).trans (h c)) (stopVictim_held core) _ _
    rw [hheld core]
    exact holdRoom_held hv hkind he hcore hslow
  · intro s inst node idx core x hx hrank hearly
    exact preemption_early hx hrank hearly
  · intro s id w l hruns hw hl hnodup hdrained
    obtain ⟨hothers, -, heach⟩ := saveAll_saves hnodup s
    refine ⟨saveAll s l, (onLive_runs hruns _).trans (congrArg Host.Outcome.next (saveOp_eq hw hl hdrained)), hothers,
      fun j v hj => ?_⟩
    obtain ⟨v', hfind, hst, hctrs, hls, hwatches, hgone⟩ := heach j v hj
    refine ⟨v', hfind, hst, hctrs, fun hno => hls fun e he => ?_, hwatches, ?_⟩
    · rw [tracesOf_nil]
      intro hmem
      obtain ⟨a, ha, hwg⟩ := List.mem_map.mp hmem
      have hnot := List.all_eq_true.mp hno a ha
      rw [decide_eq_true_eq] at hnot
      exact hnot (hwg ▸ List.mem_map_of_mem he)
    · exact List.all_eq_true.mpr fun x hx => bne_iff_ne.mpr (hgone x hx)
  · intro s id k w g hruns hw hl hst hbusy hgroups hg hk
    have hdrained : ([(id, w)] : List (Nat × Wg)).all (fun e => e.2.st == .stopping && !wgBusy s e.1) = true := by
      rw [List.all_cons, List.all_nil, hst, hbusy]
      rfl
    obtain ⟨hnone, g', hfind, hr⟩ := saveOne_group (w := w) hgroups hg hk
    exact ⟨saveOne s id w, g', (onLive_runs hruns _).trans (congrArg Host.Outcome.next (saveOp_eq hw hl.symm hdrained)),
      hnone, hfind, hr⟩
  · intro s id core lb cb w x g hruns hw hx hg hst hpart hnext hsize hl hin hroom
    obtain ⟨ws, hnone, hop⟩ := restoreOp_single hw hx hg hst hpart hnext hsize hl hin hroom
    obtain ⟨hback, hctrs, hstores⟩ := restoreOne_back (id := id) hroom
    have hsettle := resettle_frame (restoreOne s id w core) id
    have hagain : Rewatches (resettle (restoreOne s id w core) id) (restoreOp s id core) := by
      rw [hop]
      exact foldl_rel (R := Rewatches) .refl .trans reRegister_rewatches _ _
    have hwgs : (restoreOp s id core).wgs = tput s.wgs id (restoredWg s w core lb cb) :=
      (congrArg State.wgs hagain.frame).trans ((congrArg State.wgs hsettle).trans (congrArg State.wgs hback))
    have horders : (restoreOp s id core).orders = s.orders + 1 :=
      (congrArg State.orders hagain.frame).trans ((congrArg State.orders hsettle).trans (congrArg State.orders hback))
    have hcore (c : Nat) : coreOf (resettle (restoreOne s id w core) id) c = coreOf (restoreOne s id w core) c := by
      rw [hsettle]
      rfl
    refine ⟨restoreOp s id core, onLive_runs hruns _, horders, ?_, fun j hj => ?_, fun hno i hi => ?_, fun hwf i hi => ?_,
      fun gr hone hgr hwg => ?_⟩
    · rw [hwgs]
      exact tfind_tput_same ..
    · rw [hwgs]
      exact tfind_tput_other _ _ _ _ hj
    · rw [hop, hnone hno, List.foldl_nil, hcore, hctrs]
      exact storageBack_ctrs hi
    · rw [hagain.stores, hcore, hstores]
      exact storageBack_store hwf hi
    · obtain ⟨k, g₁, hfind, hk, hr, hw₁⟩ := restoreOne_group hroom hone hgr
      obtain ⟨g₂, hfind, hr₂, hw₂⟩ := ((resettle_stays _ id).trans hagain.groups) k g₁ hfind
      exact ⟨k, g₂, hfind, hk, hw₂.trans (hw₁.trans hwg), Group.sameRegs_trans hr₂ hr⟩

end Sys2Proof.Machine
end
